-- ==== Sys2Proof/Word.lean ====
section
/-!
DEFINITION. The word types of the spec (bytes, 32- and 64-bit words, 512-bit vectors) and the plainest bit-field and
byte-order arithmetic on them. Bit 0 is the least significant; memory and registers are little-endian (R7).
-/
namespace Sys2Proof

abbrev Byte := BitVec 8
abbrev W16 := BitVec 16
abbrev W32 := BitVec 32
abbrev W64 := BitVec 64
abbrev W512 := BitVec 512

/-- Bits [hi:lo] of a natural number. -/
def nbits (w hi lo : Nat) : Nat := w / 2 ^ lo % 2 ^ (hi + 1 - lo)

/-- Bits [hi:lo] of a 64-bit word, as a number. -/
def bits (w : W64) (hi lo : Nat) : Nat := nbits w.toNat hi lo

/-- The mask of ones in bits [hi:lo]. -/
def maskOf (hi lo : Nat) : W64 := BitVec.ofNat 64 ((2 ^ (hi + 1 - lo) - 1) * 2 ^ lo)

/-- w with bits [hi:lo] replaced by the low bits of v. -/
def setBits (w : W64) (hi lo v : Nat) : W64 :=
  (w &&& ~~~ maskOf hi lo) ||| BitVec.ofNat 64 (v % 2 ^ (hi + 1 - lo) * 2 ^ lo)

/-- Bit i of a 64-bit word. -/
def bitAt (w : W64) (i : Nat) : Bool := w.getLsbD i

/-- A number as n bytes, lowest byte first (R7). -/
def toBytes : Nat → Nat → List Byte
  | 0, _ => []
  | n + 1, v => BitVec.ofNat 8 v :: toBytes n (v / 256)

/-- The number that bytes, lowest first, stand for (R7). -/
def ofBytes : List Byte → Nat
  | [] => 0
  | b :: bs => b.toNat + 256 * ofBytes bs

/-- A two's-complement reading of the low n bits of v. -/
def signedOf (n v : Nat) : Int :=
  let u := v % 2 ^ n
  if n = 0 then 0 else if u < 2 ^ (n - 1) then (u : Int) else (u : Int) - (2 : Int) ^ n

/-- An integer wrapped to n bits. -/
def wrapTo (n : Nat) (i : Int) : Nat := (i % (2 : Int) ^ n).toNat

end Sys2Proof
end

