-- ==== Sys2Proof/Syntax.lean ====
section
/-!
DEFINITION. The commands of the block: one constructor per row of spec/opcode_table.json, with its operands, and the types
of those operands. A command is a register access, an instruction a core executes, a message, frame or symbol that
arrives, or an event inside the block; what an event depends on outside the block (a measured error, a received payload)
is an operand.
-/
namespace Sys2Proof

/-! ### Operands of the Ductus instructions (Tables 5-2 to 5-17) -/

/-- A logical Nib core of the package: tile × 8 + core. -/
abbrev CoreId := Fin 256
/-- A scalar register s0–s31. -/
abbrev SReg := BitVec 5
/-- A vector register v0–v15. -/
abbrev VReg := BitVec 4
/-- A predicate register p0–p7. -/
abbrev PReg := BitVec 3

/-- Operand b of a scalar ALU instruction: s[RS2] (class SALU) or IMM32 (class SALUI). -/
inductive ScalarB
  | reg (rs2 : SReg)
  | imm (imm32 : W32)
deriving DecidableEq, Repr

/-- Operand b of a vector instruction: VS2 (SB = 0), or s[RS] repeated in every element (SB = 1). -/
inductive VectorB
  | vec (vs2 : VReg)
  | scal (rs : SReg)
deriving DecidableEq, Repr

/-- The element types of Table 5-5. -/
inductive ElemType
  | i8 | i16 | i32 | i64 | fp32 | fp16 | bf16 | e4m3 | e5m2
deriving DecidableEq, Repr

/-- The fields of a vector instruction with operands VS1 and b. -/
structure VBin where
  vd : VReg
  vs1 : VReg
  b : VectorB
  pg : PReg
  et : ElemType
deriving DecidableEq, Repr

/-- The fields of a compare: VD names a predicate. -/
structure VCmpOp where
  pd : PReg
  vs1 : VReg
  b : VectorB
  pg : PReg
  et : ElemType
deriving DecidableEq, Repr

/-- The fields of a vector load or store. -/
structure VMemOp where
  v : VReg
  rs : SReg
  imm25 : BitVec 25
  pg : PReg
  et : ElemType
deriving DecidableEq, Repr

/-- The rounding modes of Table 5-7. -/
inductive RoundMode
  | nearest | zero | stochastic
deriving DecidableEq, Repr

/-- The fields of VCVT, VCVTW and VCVTN (Table 5-7); PART is 0 but in VCVTW. -/
structure CvtOp where
  vd : VReg
  vs1 : VReg
  pg : PReg
  et : ElemType
  dt : ElemType
  u : Bool
  part : BitVec 2
  sat : Bool
  rm : RoundMode
deriving DecidableEq, Repr

/-- The Quinale formats of Table 5-7. -/
inductive QFormat
  | qb8 | qb6 | qb4
deriving DecidableEq, Repr

/-- The fields of QPACK and QUNPACK. -/
structure QOp where
  vd : VReg
  vs1 : VReg
  et : ElemType
  qf : QFormat
  sat : Bool
  rm : RoundMode
deriving DecidableEq, Repr

/-- The special registers of Table 5-9. -/
inductive SpecReg
  | evec | epc | ecause | eaddr | dstat | coreid | cycle | hmode
deriving DecidableEq, Repr


/-! ### Operands of the Nib events -/

/-- A context, and a window of BAR0. -/
abbrev Ctx := Fin 16

/-- What found a Nib core to have failed (CHECK of NIB.FAIL_LOG, Table 4-10). -/
inductive NibCheck
  | registerParity | storeParity | productResidue
deriving DecidableEq, Repr


/-! ### Operands of the bobbin and knot commands -/

abbrev BobbinId := Fin 8192
abbrev KnotId := Fin 4096
abbrev TileId := Fin 32

/-- The fields a write of BOB.CFG carries beside ENABLE (Table 8-4). -/
structure BobFields where
  combine : Bool
  remoteIn : Bool
  hmode : Bool
  owner : Ctx
  ctype : BitVec 4
  expect : BitVec 16
  depthM1 : BitVec 12
  lenM1 : BitVec 4
deriving DecidableEq, Repr

/-- The fields a write of KNOT.CFG carries beside ENABLE (Table 8-5). -/
structure KnotFields where
  hmode : Bool
  /-- a 1 written to SATURATED -/
  clear : Bool
  owner : Ctx
deriving DecidableEq, Repr


/-! ### Operands of the Tambour and pool commands -/

abbrev ArrayId := Fin 16

/-- What found an array to have failed (CHECK of TAMB.FAIL_LOG, Table 6-7). -/
inductive TambCheck
  | operandParity | productResidue | accumParity
deriving DecidableEq, Repr

/-- LEND, S31, S23 and POS as a write of the pool registers carries them (Table 7-7). -/
structure PoolFields where
  lend : W32
  s23 : BitVec 23
  s31 : BitVec 31
  pos : W64
deriving DecidableEq, Repr


/-! ### Operands of the Feed commands -/

/-- A tile, or 32 for the IO die. -/
abbrev FeedTile := Fin 33
abbrev ChanId := Fin 64


/-! ### Operands of the stroke, port and link commands -/

abbrev PortId := Fin 16
abbrev LinkId := Fin 32

/-- An entry of an image: its index in its section. -/
abbrev EntryIx := BitVec 32

/-- The origin of a probe (R484). -/
structure ProbeOrigin where
  x : Byte
  y : Byte
  ctx : Ctx
deriving DecidableEq, Repr

/-- An image entry of a BOUNDARY frame (Table 12-4). -/
structure FrameImage where
  hash : W64
  step : W32
deriving DecidableEq, Repr

/-- CODE of a buddy entry of a BOUNDARY frame (Table 12-4). -/
inductive BuddyCode
  | commit | refuse
deriving DecidableEq, Repr

structure FrameBuddy where
  rctx : Ctx
  epoch : W64
  code : BuddyCode
deriving DecidableEq, Repr

/-- The fields of a BOUNDARY frame (Table 12-4); count is all ones in a frame of a STOPPED end (R70). -/
structure FrameFields where
  record : W64
  fw : W64
  count : W64
  timing : W64
  rank : Byte
  anchorX : Byte
  anchorY : Byte
  stamp : W64
  t1 : W64
  x : Byte
  y : Byte
  dir : Byte
  sizeLog2 : Byte
  link : Byte
  images : List FrameImage
  buddies : List FrameBuddy
deriving DecidableEq, Repr

/-- What training finds on one link of a bundle (Table 12-6, Table 12-11). -/
structure LinkAlign where
  laneMap : Byte
  invert : BitVec 4
  precode : BitVec 4
  asym : W32
  delay : BitVec 31
deriving DecidableEq, Repr

/-- A beat of a DATA frame: its place in the frame, its tag fields and its 64 bytes (Table 12-3). -/
structure FrameBeat where
  pos : Fin 46
  last : Bool
  start : Bool
  lenM1 : BitVec 4
  index : BitVec 13
  data : W512
deriving DecidableEq, Repr

/-- What the first line of a buddy epoch tells the buddy (R287, R288). -/
structure BuddyStart where
  dst : W64
  total : BitVec 48
  epoch : W64
  snap : W64
  x : Byte
  y : Byte
  sctx : Ctx
deriving DecidableEq, Repr

/-- A write of LINK.PG of pair g (Table 12-11). -/
structure PgFields where
  g : Fin 2
  enable : Bool
  mode : BitVec 3
  inv : Bool
  path : BitVec 2
  lanes : BitVec 4
deriving DecidableEq, Repr

/-! ### Operands of the memory and Quill commands -/

/-- A hart: die × 32 + core (R91). -/
abbrev HartId := Fin 64

/-- A path of Table 9-5: of a tile, or of the IO die. -/
inductive FeedPath
  | dram | wellRead | wellWrite | fabricOut | fabricIn | pcieOut | pcieIn
deriving DecidableEq, Repr

/-- Who makes an access at a home, and for which context a host aperture access is made (none for the PF window). -/
inductive MemAgent
  | nib (n : CoreId)
  | hart (h : HartId)
  | feed (t : FeedTile) (n : ChanId)
  | tambour (t : TileId) (a : ArrayId)
  | filet (t : TileId)
  | folio (t : TileId)
  | aperture (c : Option Ctx)
deriving DecidableEq, Repr

/-- Where a message that reaches a bobbin's home comes from: a core of the package, or a port (R247). -/
inductive BobSource
  | core (n : CoreId)
  | port (p : PortId)
deriving DecidableEq, Repr

/-- A message that reaches a bobbin's home, for a context. -/
structure BobMsg where
  src : BobSource
  ctx : Ctx
  data : List Byte
deriving DecidableEq, Repr

/-- What the check symbols of a DRAM line or a Well word say at a read (R80, R84, R233). -/
inductive LineError
  | clean
  | corrected
  | uncorrectable
  /-- the zero-map line that covers it is uncorrectable -/
  | zeroMap
deriving DecidableEq, Repr

/-- An access at a Well word: a read, or a write of bytes from an offset in the word. -/
inductive WellOp
  | read
  | write (off : Fin 8) (data : List Byte)
deriving DecidableEq, Repr

/-- An access to a HOST page (R89, R90). -/
inductive HostOp
  | load (len : Nat)
  | store (data : List Byte)
  | atomic
  | fetch
deriving DecidableEq, Repr

/-- How a PCIe read completes (R90). -/
inductive ReadStatus
  | sc | ur | ca | poisoned
deriving DecidableEq, Repr

/-- The fields a write of QUILL.HART carries beside RUN (Table 3-12). -/
structure HartFields where
  bound : Bool
  ctx : Ctx
  resetPc : BitVec 48
deriving DecidableEq, Repr

/-- Who waits for a queue entry or a ring slot (R147). -/
inductive Waiter
  | nib (n : CoreId)
  | hart (h : HartId)
deriving DecidableEq, Repr

/-- A general register of a hart, x0–x31. -/
abbrev XReg := BitVec 5


/-! ### Operands of the start and power commands -/

/-- What MEMTEST finds: a DRAM row, or a physical Well bank (R441, Table 14-3). -/
inductive MemFailure
  | row (t : TileId) (zmap : Bool) (channel : BitVec 5) (bank : BitVec 6) (row : BitVec 11)
  | bank (t : TileId) (b : Fin 50)
deriving DecidableEq, Repr

/-- A physical unit that UNITTEST finds to fail (R442). -/
inductive PhysUnit
  | array (t : TileId) (p : Fin 17)
  | nib (t : TileId) (p : Fin 9)
  | quill (h : HartId)
deriving DecidableEq, Repr

/-- A logical unit with a mismatch in a known-answer run (R446). -/
inductive KatUnit
  | array (t : TileId) (a : ArrayId)
  | nib (t : TileId) (n : Fin 8)
  | quill (h : HartId)
deriving DecidableEq, Repr

/-- One known-answer round: the mismatches it finds, and whether a unit without a spare is among them. -/
structure KatRound where
  units : List KatUnit
  other : Bool
deriving DecidableEq, Repr

/-- The arrays' multiply-accumulates of a power class in a tick, by input type (counters 0 to 3 of Table 16-2). -/
structure ClassMacs where
  fp32 : Nat
  fp16 : Nat
  fp8 : Nat
  qb4 : Nat
deriving DecidableEq, Repr

/-- The activity of one power tick: the MACs of classes 0 to 3, ballast MACs by tile, and counters 5 to 31 (Table 16-2). -/
structure TickCounts where
  classes : List ClassMacs
  ballast : List Nat
  rest : List Nat
deriving DecidableEq, Repr

/-! ### Operands of the host commands -/

/-- A PCIe function: 0 the PF, n the VF of context n − 1. -/
abbrev FnId := Fin 17

/-- A memory request to a BAR2 window: a read of some bytes, or a write of bytes. -/
inductive BarOp
  | read (len : Nat)
  | write (data : List Byte)
deriving DecidableEq, Repr

/-- What is written to a function's MSI-X face: a vector's Mask bit, or MSI-X Enable and Function Mask. -/
inductive MsixOp
  | vector (v : Byte) (mask : Bool)
  | control (enable mask : Bool)
deriving DecidableEq, Repr

/-! ### Operands of the management and installation commands -/

/-- A compute tray and its TMC; a package slot of it; a switch tray. -/
abbrev TrayId := Fin 12
abbrev SlotId := Fin 4
abbrev SwitchId := Fin 4
/-- A rack manager: 0 RM-A, 1 RM-B. -/
abbrev RmId := Fin 2

/-- What every datagram to a TMC carries: the tray, the sender, the sequence number (R537 to R540). -/
structure Datagram where
  tray : TrayId
  m : RmId
  seq : W16
deriving DecidableEq, Repr

/-- The fields of a heartbeat (R547, R551). -/
structure HeartbeatFields where
  active : Bool
  healthy : Bool
  synced : Bool
  seq : W32
  leases : Fin 13
  handover : Bool
deriving DecidableEq, Repr

/-- A resource of Table 17-7, or one that the service does not implement. -/
inductive RedfishRes
  | root
  | sessions
  | accounts
  | rack
  | tray (t : TrayId)
  | switch (i : SwitchId)
  | mgmt
  | system (t : TrayId)
  | cdu
  | manager (m : RmId)
  | events
  | update
  | other
deriving DecidableEq, Repr

/-- A role of the management service (R560). -/
inductive RoleName
  | administrator | operator | readOnly
deriving DecidableEq, Repr

/-- A session created for a user whose credentials are right or not, or deleted. -/
inductive SessionOp
  | create (user : Nat) (ok : Bool)
  | delete (token : Nat)
deriving DecidableEq, Repr

/-- An account created or changed to a role, or deleted. -/
inductive AccountOp
  | set (user : Nat) (role : RoleName)
  | delete (user : Nat)
deriving DecidableEq, Repr

/-- A subscription created or deleted. -/
inductive SubscriptionOp
  | create
  | delete (n : Nat)
deriving DecidableEq, Repr


/-- The commands. The comment beside each gives its row and the rule the row cites. -/
inductive Instr
  | registerWrite (f : FnId) (off : BitVec 26) (data : List Byte)  -- REGISTER_WRITE, R8
  | readClearRead (f : FnId) (off : BitVec 26) (n : Fin 8)  -- READ_CLEAR_READ, R11
  | lowHalfRead (f : FnId) (word : BitVec 23)  -- LOW_HALF_READ, R12
  | powerGood (fw : Option W64) (store straps : Bool)  -- POWER_GOOD, R437
  | packageReset  -- PACKAGE_RESET, R456
  | strokeBoundary (t1 : W64) (gone : List (PortId × Ctx))  -- STROKE_BOUNDARY, R37
  | boundaryWindowClose  -- BOUNDARY_WINDOW_CLOSE, R44
  | boundaryFrame (l : LinkId) (f : FrameFields) (t2 : W64) (late : Bool)  -- BOUNDARY_FRAME, R61
  | stoppedFrame (l : LinkId) (record fw : W64)  -- STOPPED_FRAME, R70
  | replyFrame (l : LinkId) (t2 t3 t4 : W64)  -- REPLY_FRAME, R372
  | boundaryFrameMissed (p : PortId)  -- BOUNDARY_FRAME_MISSED, R64
  | imageArm (c : Ctx) (base : W32)  -- IMAGE_ARM, R52
  | imageDisarm (c : Ctx) (base : W32)  -- IMAGE_DISARM, R52
  | imageValidationDone (c : Ctx)  -- IMAGE_VALIDATION_DONE, R50
  | workListStart (c : Ctx) (ix : EntryIx)  -- WORK_LIST_START, R54
  | milestoneCheck (c : Ctx) (ix : EntryIx)  -- MILESTONE_CHECK, R56
  | slip (p : PortId) (countLo : W16) (x y : Byte) (c : Ctx) (cause : BitVec 3)  -- SLIP, R57
  | strokeStart  -- STROKE_START, R60
  | strokeStop  -- STROKE_STOP, R69
  | voteSlip  -- VOTE_SLIP, R56
  | joinTimeout  -- JOIN_TIMEOUT, R449
  | dramRead (a : MemAgent) (line : BitVec 32) (err : LineError)  -- DRAM_READ, R80
  | dramFullLineWrite (a : MemAgent) (line : BitVec 32) (mcomp : Bool) (data : W512) (err : LineError)  -- DRAM_FULL_LINE_WRITE, R82
  | dramPartialWrite (a : MemAgent) (line : BitVec 32) (off : Fin 64) (data : List Byte) (err : LineError)  -- DRAM_PARTIAL_WRITE, R82
  | wellAccess (a : MemAgent) (t : TileId) (word : BitVec 22) (op : WellOp) (err : LineError)  -- WELL_ACCESS, R84
  | scrubLine (t : TileId) (err : LineError) (word : Fin 8)  -- SCRUB_LINE, R81
  | scrubPeriodWrite (t : TileId) (period : W16)  -- SCRUB_PERIOD_WRITE, R81
  | invalidate (all : Bool) (pages : BitVec 10) (ctx : Ctx) (va : W32)  -- INVALIDATE, R88
  | invalidationDone  -- INVALIDATION_DONE, R88
  | hostPageAccess (a : MemAgent) (va : W64) (op : HostOp)  -- HOST_PAGE_ACCESS, R89
  | hostReadCompletion (tag : W32) (st : ReadStatus) (data : List Byte)  -- HOST_READ_COMPLETION, R90
  | completionTimeout (tag : W32)  -- COMPLETION_TIMEOUT, R413
  | quillHartBind (h : HartId) (run : Bool) (f : HartFields)  -- QUILL_HART_BIND, R91
  | hartRun (h : HartId) (f : HartFields)  -- HART_RUN, R91
  | hartStop (h : HartId) (f : HartFields)  -- HART_STOP, R92
  | riscvInstruction (h : HartId)  -- RISCV_INSTRUCTION, R93
  | qstroke (h : HartId) (rd : XReg)  -- QSTROKE, R94
  | qphase (h : HartId) (rd : XReg)  -- QPHASE, R94
  | qpost (h : HartId) (rd rs1 rs2 : XReg)  -- QPOST, R128
  | qvote (h : HartId)  -- QVOTE, R94
  | qebindWrite (h : HartId) (data : W64)  -- QEBIND_WRITE, R258
  | qeventUpdate (h : HartId) (bit : BitVec 6)  -- QEVENT_UPDATE, R257
  | quillCoreFailure (h : HartId)  -- QUILL_CORE_FAILURE, R102
  | quillCacheUe (line : BitVec 32)  -- QUILL_CACHE_UE, R103
  | fabricFlitReplay (link : W16) (again : Bool)  -- FABRIC_FLIT_REPLAY, R78
  | storeDrain (n : CoreId)  -- STORE_DRAIN, R99
  | nibBind (n : CoreId) (bound : Bool) (ctx : Ctx)  -- NIB_BIND, R112
  | nibRunStart (n : CoreId)  -- NIB_RUN_START, R115
  | nibCoreFailure (t : TileId) (phys : Fin 9) (check : NibCheck)  -- NIB_CORE_FAILURE, R133
  | retiringWrite (pa : BitVec 40) (data : List Byte)  -- RETIRING_WRITE, R124
  | ringLock (c : Ctx) (slotsLog2 : BitVec 4) (base : BitVec 37)  -- RING_LOCK, R137
  | ringInitDone (c : Ctx)  -- RING_INIT_DONE, R137
  | ringUnlock (c : Ctx) (slotsLog2 : BitVec 4) (base : BitVec 37)  -- RING_UNLOCK, R138
  | stalledDispatchAccept (a : Waiter)  -- STALLED_DISPATCH_ACCEPT, R147
  | illegalInstruction (n : CoreId) (w : W64)  -- ILLEGAL_INSTRUCTION, R153
  | add (n : CoreId) (rd rs1 : SReg) (b : ScalarB)  -- ADD, R154
  | sub (n : CoreId) (rd rs1 : SReg) (b : ScalarB)  -- SUB, R154
  | and (n : CoreId) (rd rs1 : SReg) (b : ScalarB)  -- AND, R154
  | or (n : CoreId) (rd rs1 : SReg) (b : ScalarB)  -- OR, R154
  | xor (n : CoreId) (rd rs1 : SReg) (b : ScalarB)  -- XOR, R154
  | sll (n : CoreId) (rd rs1 : SReg) (b : ScalarB)  -- SLL, R154
  | srl (n : CoreId) (rd rs1 : SReg) (b : ScalarB)  -- SRL, R154
  | sra (n : CoreId) (rd rs1 : SReg) (b : ScalarB)  -- SRA, R154
  | slt (n : CoreId) (rd rs1 : SReg) (b : ScalarB)  -- SLT, R154
  | sltu (n : CoreId) (rd rs1 : SReg) (b : ScalarB)  -- SLTU, R154
  | min (n : CoreId) (rd rs1 : SReg) (b : ScalarB)  -- MIN, R154
  | max (n : CoreId) (rd rs1 : SReg) (b : ScalarB)  -- MAX, R154
  | minu (n : CoreId) (rd rs1 : SReg) (b : ScalarB)  -- MINU, R154
  | maxu (n : CoreId) (rd rs1 : SReg) (b : ScalarB)  -- MAXU, R154
  | clz (n : CoreId) (rd rs1 : SReg)  -- CLZ, R154
  | ctz (n : CoreId) (rd rs1 : SReg)  -- CTZ, R154
  | popc (n : CoreId) (rd rs1 : SReg)  -- POPC, R154
  | bswap (n : CoreId) (rd rs1 : SReg)  -- BSWAP, R154
  | lui (n : CoreId) (rd rs1 : SReg) (imm : W32)  -- LUI, R154
  | mul (n : CoreId) (rd rs1 rs2 : SReg)  -- MUL, R154
  | mulh (n : CoreId) (rd rs1 rs2 : SReg)  -- MULH, R154
  | mulhu (n : CoreId) (rd rs1 rs2 : SReg)  -- MULHU, R154
  | div (n : CoreId) (rd rs1 rs2 : SReg)  -- DIV, R154
  | divu (n : CoreId) (rd rs1 rs2 : SReg)  -- DIVU, R154
  | rem (n : CoreId) (rd rs1 rs2 : SReg)  -- REM, R154
  | remu (n : CoreId) (rd rs1 rs2 : SReg)  -- REMU, R154
  | lb (n : CoreId) (rd rs1 : SReg) (imm : W32)  -- LB, R155
  | lh (n : CoreId) (rd rs1 : SReg) (imm : W32)  -- LH, R155
  | lw (n : CoreId) (rd rs1 : SReg) (imm : W32)  -- LW, R155
  | ld (n : CoreId) (rd rs1 : SReg) (imm : W32)  -- LD, R155
  | lbu (n : CoreId) (rd rs1 : SReg) (imm : W32)  -- LBU, R155
  | lhu (n : CoreId) (rd rs1 : SReg) (imm : W32)  -- LHU, R155
  | lwu (n : CoreId) (rd rs1 : SReg) (imm : W32)  -- LWU, R155
  | sb (n : CoreId) (rs1 rs2 : SReg) (imm : W32)  -- SB, R155
  | sh (n : CoreId) (rs1 rs2 : SReg) (imm : W32)  -- SH, R155
  | sw (n : CoreId) (rs1 rs2 : SReg) (imm : W32)  -- SW, R155
  | sd (n : CoreId) (rs1 rs2 : SReg) (imm : W32)  -- SD, R155
  | beq (n : CoreId) (rs1 rs2 : SReg) (off : W32)  -- BEQ, R156
  | bne (n : CoreId) (rs1 rs2 : SReg) (off : W32)  -- BNE, R156
  | blt (n : CoreId) (rs1 rs2 : SReg) (off : W32)  -- BLT, R156
  | bge (n : CoreId) (rs1 rs2 : SReg) (off : W32)  -- BGE, R156
  | bltu (n : CoreId) (rs1 rs2 : SReg) (off : W32)  -- BLTU, R156
  | bgeu (n : CoreId) (rs1 rs2 : SReg) (off : W32)  -- BGEU, R156
  | jal (n : CoreId) (rd : SReg) (imm : W32)  -- JAL, R156
  | jalr (n : CoreId) (rd rs1 : SReg) (imm : W32)  -- JALR, R156
  | vadd (n : CoreId) (o : VBin)  -- VADD, R157
  | vsub (n : CoreId) (o : VBin)  -- VSUB, R157
  | vmul (n : CoreId) (o : VBin)  -- VMUL, R157
  | vmulh (n : CoreId) (o : VBin)  -- VMULH, R157
  | vmulhu (n : CoreId) (o : VBin)  -- VMULHU, R157
  | vand (n : CoreId) (o : VBin)  -- VAND, R157
  | vor (n : CoreId) (o : VBin)  -- VOR, R157
  | vxor (n : CoreId) (o : VBin)  -- VXOR, R157
  | vsll (n : CoreId) (o : VBin)  -- VSLL, R157
  | vsrl (n : CoreId) (o : VBin)  -- VSRL, R157
  | vsra (n : CoreId) (o : VBin)  -- VSRA, R157
  | vmin (n : CoreId) (o : VBin)  -- VMIN, R157
  | vmax (n : CoreId) (o : VBin)  -- VMAX, R157
  | vminu (n : CoreId) (o : VBin)  -- VMINU, R157
  | vmaxu (n : CoreId) (o : VBin)  -- VMAXU, R157
  | vsadd (n : CoreId) (o : VBin)  -- VSADD, R157
  | vssub (n : CoreId) (o : VBin)  -- VSSUB, R157
  | vsel (n : CoreId) (o : VBin)  -- VSEL, R157
  | vfadd (n : CoreId) (o : VBin)  -- VFADD, R158
  | vfsub (n : CoreId) (o : VBin)  -- VFSUB, R158
  | vfmul (n : CoreId) (o : VBin)  -- VFMUL, R158
  | vfma (n : CoreId) (o : VBin) (vs3 : VReg)  -- VFMA, R158
  | vfmin (n : CoreId) (o : VBin)  -- VFMIN, R210
  | vfmax (n : CoreId) (o : VBin)  -- VFMAX, R210
  | vfabs (n : CoreId) (vd vs1 : VReg) (pg : PReg) (et : ElemType)  -- VFABS, R158
  | vfneg (n : CoreId) (vd vs1 : VReg) (pg : PReg) (et : ElemType)  -- VFNEG, R158
  | vld (n : CoreId) (o : VMemOp)  -- VLD, R159
  | vldbc (n : CoreId) (o : VMemOp)  -- VLDBC, R159
  | vst (n : CoreId) (o : VMemOp)  -- VST, R159
  | vbcast (n : CoreId) (vd : VReg) (rs : SReg) (pg : PReg) (et : ElemType)  -- VBCAST, R157
  | vext (n : CoreId) (rs : SReg) (vs1 : VReg) (et : ElemType) (ix : BitVec 6)  -- VEXT, R157
  | vins (n : CoreId) (vd : VReg) (rs : SReg) (et : ElemType) (ix : BitVec 6)  -- VINS, R157
  | vshuf (n : CoreId) (vd vs1 : VReg) (b : VectorB) (pg : PReg)  -- VSHUF, R157
  | vredadd (n : CoreId) (rs : SReg) (vs1 : VReg) (pg : PReg) (et : ElemType)  -- VREDADD, R157
  | vredmin (n : CoreId) (rs : SReg) (vs1 : VReg) (pg : PReg) (et : ElemType)  -- VREDMIN, R157
  | vredmax (n : CoreId) (rs : SReg) (vs1 : VReg) (pg : PReg) (et : ElemType)  -- VREDMAX, R157
  | vfredadd (n : CoreId) (rs : SReg) (vs1 : VReg) (pg : PReg) (et : ElemType)  -- VFREDADD, R157
  | vcmpEq (n : CoreId) (o : VCmpOp)  -- VCMP_EQ, R157
  | vcmpNe (n : CoreId) (o : VCmpOp)  -- VCMP_NE, R157
  | vcmpLt (n : CoreId) (o : VCmpOp)  -- VCMP_LT, R157
  | vcmpLe (n : CoreId) (o : VCmpOp)  -- VCMP_LE, R157
  | vcmpLtu (n : CoreId) (o : VCmpOp)  -- VCMP_LTU, R157
  | vcmpLeu (n : CoreId) (o : VCmpOp)  -- VCMP_LEU, R157
  | vcmpFeq (n : CoreId) (o : VCmpOp)  -- VCMP_FEQ, R210
  | vcmpFlt (n : CoreId) (o : VCmpOp)  -- VCMP_FLT, R210
  | vcmpFle (n : CoreId) (o : VCmpOp)  -- VCMP_FLE, R210
  | vcmpFunord (n : CoreId) (o : VCmpOp)  -- VCMP_FUNORD, R210
  | pand (n : CoreId) (pd ps1 ps2 : PReg)  -- PAND, R157
  | por (n : CoreId) (pd ps1 ps2 : PReg)  -- POR, R157
  | pxor (n : CoreId) (pd ps1 ps2 : PReg)  -- PXOR, R157
  | pandn (n : CoreId) (pd ps1 ps2 : PReg)  -- PANDN, R157
  | pfroms (n : CoreId) (pd : PReg) (rs : SReg)  -- PFROMS, R157
  | ptos (n : CoreId) (rs : SReg) (ps : PReg)  -- PTOS, R157
  | vcvt (n : CoreId) (o : CvtOp)  -- VCVT, R160
  | vcvtw (n : CoreId) (o : CvtOp)  -- VCVTW, R160
  | vcvtn (n : CoreId) (o : CvtOp)  -- VCVTN, R161
  | qpack (n : CoreId) (o : QOp)  -- QPACK, R213
  | qunpack (n : CoreId) (o : QOp)  -- QUNPACK, R212
  | mfs (n : CoreId) (rd : SReg) (sr : SpecReg)  -- MFS, R162
  | mts (n : CoreId) (rs1 : SReg) (sr : SpecReg)  -- MTS, R162
  | dispatch (n : CoreId) (rd rs1 rs2 : SReg) (crec wait ken : Bool) (knot : BitVec 12)  -- DISPATCH, R164
  | cread (n : CoreId) (rd rs1 : SReg) (sel : BitVec 2)  -- CREAD, R166
  | cwait (n : CoreId) (rd rs1 : SReg)  -- CWAIT, R166
  | cwaitWake (n : CoreId)  -- CWAIT_WAKE, R166
  | cretire (n : CoreId) (rd rs1 : SReg)  -- CRETIRE, R167
  | karrive (n : CoreId) (rs1 rs2 : SReg) (oimm : BitVec 13) (imm20 : BitVec 20)  -- KARRIVE, R168
  | kwait (n : CoreId) (rd rs1 rs2 rs3 : SReg) (nw : Bool) (oimm : BitVec 13) (imm20 : BitVec 20)  -- KWAIT, R169
  | kwaitWake (n : CoreId)  -- KWAIT_WAKE, R169
  | kwaitTimeout (n : CoreId)  -- KWAIT_TIMEOUT, R169
  | kread (n : CoreId) (rd rs1 : SReg) (oimm : BitVec 13)  -- KREAD, R168
  | kset (n : CoreId) (rs1 rs2 : SReg) (oimm : BitVec 13) (imm20 : BitVec 20)  -- KSET, R177
  | kthr (n : CoreId) (rs1 rs2 : SReg) (oimm : BitVec 13) (imm20 : BitVec 20)  -- KTHR, R256
  | knotArrival (k : Fin 4096) (thrs sets : List (CoreId × W32)) (adds : List (Ctx × W32))  -- KNOT_ARRIVAL, R256
  | bsend (n : CoreId) (rd rs1 rs2 : SReg) (nw : Bool) (oimm : BitVec 13) (lm1 : BitVec 4)  -- BSEND, R170
  | bsendStallAccept (n : CoreId)  -- BSEND_STALL_ACCEPT, R178
  | brecv (n : CoreId) (rd rs1 rs2 : SReg) (nw : Bool) (oimm : BitVec 13) (lm1 : BitVec 4)  -- BRECV, R171
  | brecvWake (n : CoreId)  -- BRECV_WAKE, R171
  | bcount (n : CoreId) (rd rs1 : SReg) (oimm : BitVec 13)  -- BCOUNT, R170
  | scount (n : CoreId) (rd : SReg)  -- SCOUNT, R172
  | sphase (n : CoreId) (rd : SReg)  -- SPHASE, R172
  | sstep (n : CoreId) (rd : SReg)  -- SSTEP, R172
  | svote (n : CoreId)  -- SVOTE, R172
  | nop (n : CoreId)  -- NOP, R153
  | fence (n : CoreId)  -- FENCE, R135
  | endProg (n : CoreId)  -- END, R116
  | trap (n : CoreId) (imm : W32)  -- TRAP, R163
  | eret (n : CoreId)  -- ERET, R130
  | ifence (n : CoreId)  -- IFENCE, R163
  | bobbinArrival (b : BobbinId) (msgs : List BobMsg)  -- BOBBIN_ARRIVAL, R247
  | remoteBobbinMessage (c : Ctx) (b : BobbinId) (data : List Byte)  -- REMOTE_BOBBIN_MESSAGE, R250
  | bobbinEnable (b : BobbinId) (f : BobFields)  -- BOBBIN_ENABLE, R241
  | bobbinDisable (b : BobbinId) (f : BobFields)  -- BOBBIN_DISABLE, R244
  | knotEnable (k : KnotId) (f : KnotFields)  -- KNOT_ENABLE, R255
  | knotDisable (k : KnotId) (f : KnotFields)  -- KNOT_DISABLE, R244
  | tbobPoolWrite (t : TileId) (size base : BitVec 17)  -- TBOB_POOL_WRITE, R243
  | tambourWorkStart (t : TileId) (a : ArrayId)  -- TAMBOUR_WORK_START, R182
  | tambourWorkEnd (t : TileId) (a : ArrayId) (gated : W32)  -- TAMBOUR_WORK_END, R193
  | arrayAlloc (t : TileId) (a : ArrayId) (owned : Bool) (ctx : Ctx)  -- ARRAY_ALLOC, R194
  | arrayFailure (t : TileId) (phys : Fin 17) (check : TambCheck) (drained : List Nat)  -- ARRAY_FAILURE, R198
  | poolEnable (c : Ctx) (f : PoolFields)  -- POOL_ENABLE, R229
  | poolDisable (c : Ctx)  -- POOL_DISABLE, R229
  | poolDisabled (c : Ctx)  -- POOL_DISABLED, R229
  | poolGrant  -- POOL_GRANT, R218
  | feedChannelAlloc (t : FeedTile) (n : ChanId) (owned hmode : Bool) (ctx : Ctx)  -- FEED_CHANNEL_ALLOC, R270
  | feedWorkStart (t : FeedTile) (n : ChanId)  -- FEED_WORK_START, R272
  | feedCopy (t : FeedTile) (p : FeedPath) (stageError : Bool)  -- FEED_COPY, R282
  | feedPoolFill (t : FeedTile) (n : ChanId)  -- FEED_POOL_FILL, R279
  | feedBuddy (t : FeedTile) (n : ChanId)  -- FEED_BUDDY, R286
  | feedDescriptorEnd (t : FeedTile) (n : ChanId)  -- FEED_DESCRIPTOR_END, R273
  | feedDoorbell (c : Ctx) (chan : ChanId) (io : Bool) (tile : TileId)  -- FEED_DOORBELL, R281
  | feedTimerTrigger (t : FeedTile) (n : ChanId)  -- FEED_TIMER_TRIGGER, R280
  | feedStrokeTrigger (t : FeedTile) (n : ChanId)  -- FEED_STROKE_TRIGGER, R280
  | feedEscalation (t : FeedTile) (n : ChanId)  -- FEED_ESCALATION, R284
  | buddyNoCommit (c : Ctx)  -- BUDDY_NO_COMMIT, R289
  | filetAllocWrite (t : TileId) (mask : W16)  -- FILET_ALLOC_WRITE, R321
  | filetGather (t : TileId) (upsets : List (Nat × Bool))  -- FILET_GATHER, R306
  | filetScatter (t : TileId) (upsets : List (Nat × Bool))  -- FILET_SCATTER, R309
  | filetInstall (t : TileId)  -- FILET_INSTALL, R304
  | filetPause (t : TileId)  -- FILET_PAUSE, R317
  | filetResume (t : TileId)  -- FILET_RESUME, R319
  | filetMigrate (t : TileId) (upsets : List (Nat × Bool))  -- FILET_MIGRATE, R315
  | filetUninstall (t : TileId)  -- FILET_UNINSTALL, R320
  | folioPoolEnable (t : TileId) (base : BitVec 17) (count : W16)  -- FOLIO_POOL_ENABLE, R332
  | folioPoolInitDone (t : TileId)  -- FOLIO_POOL_INIT_DONE, R332
  | folioPoolDisable (t : TileId) (base : BitVec 17) (count : W16)  -- FOLIO_POOL_DISABLE, R332
  | folioZeroed (t : TileId) (folio : BitVec 15)  -- FOLIO_ZEROED, R334
  | folioAllocWrite (t : TileId) (mask : W16)  -- FOLIO_ALLOC_WRITE, R337
  | folioQuotaWrite (c : Ctx) (limit : BitVec 21)  -- FOLIO_QUOTA_WRITE, R333
  | folioOpen (t : TileId)  -- FOLIO_OPEN, R341
  | appendQuant (t : TileId) (errors : List (BitVec 12))  -- APPEND_QUANT, R344
  | appendReserve (t : TileId) (errors : List (BitVec 12))  -- APPEND_RESERVE, R345
  | folioWrite (t : TileId) (errors : List (BitVec 12))  -- FOLIO_WRITE, R347
  | folioCommit (t : TileId) (errors : List (BitVec 12))  -- FOLIO_COMMIT, R348
  | folioCommitDiscard (t : TileId) (errors : List (BitVec 12))  -- FOLIO_COMMIT_DISCARD, R348
  | folioFetch (t : TileId) (tableError : Bool)  -- FOLIO_FETCH, R350
  | folioTruncate (t : TileId) (tableError : Bool)  -- FOLIO_TRUNCATE, R342
  | folioClose (t : TileId) (tableError : Bool)  -- FOLIO_CLOSE, R342
  | folioBucket (t : TileId) (errors : List (BitVec 12))  -- FOLIO_BUCKET, R351
  | portEnable (p : PortId) (dir size : BitVec 2) (first : BitVec 3) (signal : Bool)  -- PORT_ENABLE, R368
  | portDisable (p : PortId) (dir size : BitVec 2) (first : BitVec 3)  -- PORT_DISABLE, R395
  | portCtrlRetrain (p : PortId)  -- PORT_CTRL_RETRAIN, R375
  | portCtrlDown (p : PortId)  -- PORT_CTRL_DOWN, R393
  | portCtrlTest (p : PortId)  -- PORT_CTRL_TEST, R389
  | absentSample (p : PortId) (signal : Bool)  -- ABSENT_SAMPLE, R388
  | lossOfSignal (p : PortId) (lost : Byte)  -- LOSS_OF_SIGNAL, R388
  | trainingStepTimeout (p : PortId)  -- TRAINING_STEP_TIMEOUT, R375
  | trainingStepDone (p : PortId) (found : List LinkAlign)  -- TRAINING_STEP_DONE, R375
  | handshakeFrame (l : LinkId) (far : BitVec 2) (f : FrameFields)  -- HANDSHAKE_FRAME, R374
  | frameDeparture (l : LinkId) (f : BitVec 20) (t3 : W64) (staged : Bool)  -- FRAME_DEPARTURE, R380
  | dataFrame (l : LinkId) (f : BitVec 20) (htag binding : W16) (beats : List FrameBeat) (buddy : Option BuddyStart) (lost : Bool)  -- DATA_FRAME, R380
  | streamPrefetch (c : Ctx) (ix : EntryIx) (rerun : Bool)  -- STREAM_PREFETCH, R379
  | slotStart (c : Ctx) (ix : EntryIx) (rerun : Bool)  -- SLOT_START, R377
  | slotEnd (c : Ctx) (ix : EntryIx)  -- SLOT_END, R380
  | relock (l : LinkId)  -- RELOCK, R387
  | relocked (l : LinkId)  -- RELOCKED, R387
  | fenceSymbol (p : PortId) (cause : Byte)  -- FENCE_SYMBOL, R63
  | retrain (p : PortId)  -- RETRAIN, R375
  | probe (p : PortId) (ix : ProbeOrigin) (htag pid hops : W16)  -- PROBE, R485
  | missed (p : PortId) (binding : W16) (start : BitVec 20) (htag : W16)  -- MISSED, R381
  | down (p : PortId) (cause : Byte)  -- DOWN, R388
  | test (p : PortId) (start : Bool) (mode : BitVec 3) (path : BitVec 2)  -- TEST, R390
  | relockStart (l : LinkId) (expectedUs : W16)  -- RELOCK_START, R387
  | lockReturn (l : LinkId)  -- LOCK_RETURN, R387
  | relockTimeout (l : LinkId)  -- RELOCK_TIMEOUT, R387
  | laneMarginCheck (l : LinkId) (e0 e1 e2 e3 : W32)  -- LANE_MARGIN_CHECK, R367
  | pgEnable (l : LinkId) (f : PgFields)  -- PG_ENABLE, R389
  | streamTableLock (c : Ctx) (base : BitVec 33)  -- STREAM_TABLE_LOCK, R391
  | streamTableUnlock (c : Ctx) (base : BitVec 33)  -- STREAM_TABLE_UNLOCK, R391
  | vfApertureAccess (c : Ctx) (off : W32) (op : BarOp)  -- VF_APERTURE_ACCESS, R409
  | pfWindowAccess (off : W32) (op : BarOp)  -- PF_WINDOW_ACCESS, R410
  | unsupportedRequest (f : FnId) (posted : Bool)  -- UNSUPPORTED_REQUEST, R403
  | knotDoorbell (c : Ctx) (knot : BitVec 12) (value : W32)  -- KNOT_DOORBELL, R415
  | vectorArm (f : FnId) (word : Fin 4) (mask : W64)  -- VECTOR_ARM, R417
  | msixUnmask (f : FnId) (op : MsixOp)  -- MSIX_UNMASK, R416
  | vmapWrite (c : Ctx) (ix : Fin 112) (e : W64)  -- VMAP_WRITE, R420
  | vfFlr (c : Ctx)  -- VF_FLR, R423
  | pfFlr  -- PF_FLR, R423
  | hotReset  -- HOT_RESET, R424
  | pcieLinkUp (rate : Fin 6) (lanes : Fin 16) (flit : Bool)  -- PCIE_LINK_UP, R404
  | powerStateChange (f : FnId) (d3 : Bool)  -- POWER_STATE_CHANGE, R425
  | startLimits (ok : Bool)  -- START_LIMITS, R439
  | startPower  -- START_POWER, R508
  | startMemtest (failures : List MemFailure)  -- START_MEMTEST, R441
  | startUnittest (failures : List PhysUnit) (other : Bool)  -- START_UNITTEST, R442
  | startMap  -- START_MAP, R445
  | startKat (rounds : List KatRound)  -- START_KAT, R446
  | startPorts  -- START_PORTS, R448
  | startFound  -- START_FOUND, R450
  | startStepDone  -- START_STEP_DONE, R436
  | startStepTimeout  -- START_STEP_TIMEOUT, R436
  | runlimWrite (mhz : BitVec 12) (sust peak : W16)  -- RUNLIM_WRITE, R439
  | contextResetRequest (c : Ctx)  -- CONTEXT_RESET_REQUEST, R469
  | contextResetDone (c : Ctx)  -- CONTEXT_RESET_DONE, R470
  | resetDeadline (c : Ctx)  -- RESET_DEADLINE, R474
  | sharedUnitError  -- SHARED_UNIT_ERROR, R474
  | powerTick (n : TickCounts)  -- POWER_TICK, R506
  | powerLock (droop : Byte)  -- POWER_LOCK, R507
  | capWrite (peak sust : W16)  -- CAP_WRITE, R526
  | droopDetect (t : TileId)  -- DROOP_DETECT, R522
  | droopEnd (t : TileId) (cycles : W32)  -- DROOP_END, R522
  | junctionSample (points : List W16)  -- JUNCTION_SAMPLE, R523
  | thermalCapUpdate  -- THERMAL_CAP_UPDATE, R524
  | leaseReq (d : Datagram)  -- LEASE_REQ, R548
  | leaseRenew (d : Datagram)  -- LEASE_RENEW, R548
  | leaseRelease (d : Datagram)  -- LEASE_RELEASE, R548
  | setCaps (d : Datagram) (slot : Option SlotId) (peak sust : W16) (holdoff : Bool)  -- SET_CAPS, R556
  | setFallback (d : Datagram) (cap : W16)  -- SET_FALLBACK, R557
  | setCooling (d : Datagram) (target minPct : Byte)  -- SET_COOLING, R545
  | pkgReset (d : Datagram) (slot : SlotId) (hold : Bool)  -- PKG_RESET, R544
  | fwRecover (d : Datagram) (slot : SlotId) (part : List Byte) (last : Bool)  -- FW_RECOVER, R544
  | readSensors (d : Datagram)  -- READ_SENSORS, R540
  | readPower (d : Datagram)  -- READ_POWER, R542
  | readPorts (d : Datagram)  -- READ_PORTS, R543
  | readReg (d : Datagram) (off : Byte)  -- READ_REG, R540
  | readLog (d : Datagram) (index : Nat)  -- READ_LOG, R540
  | setMgmt (peak sust : W16) (holdoff autonomous : Bool) (seq : W16)  -- SET_MGMT, R541
  | getSensors  -- GET_SENSORS, R539
  | portState (t : TrayId) (slot : SlotId) (p : PortId) (state : BitVec 3) (cause : Byte)  -- PORT_STATE, R543
  | failReport (t : TrayId) (slot : SlotId) (word : W64)  -- FAIL_REPORT, R475
  | bootStatus (t : TrayId) (slot : SlotId) (word : W64)  -- BOOT_STATUS, R539
  | fwChunk (part : List Byte) (last good : Bool)  -- FW_CHUNK, R544
  | toDriver (data : List Byte)  -- TO_DRIVER, R539
  | setEndpointId (eid : Byte)  -- SET_ENDPOINT_ID, R539
  | getEndpointId  -- GET_ENDPOINT_ID, R539
  | getMctpVersionSupport  -- GET_MCTP_VERSION_SUPPORT, R539
  | getMessageTypeSupport  -- GET_MESSAGE_TYPE_SUPPORT, R539
  | i3cEnumeration (t : TrayId) (slot : SlotId) (answers : Bool) (eid : Byte)  -- I3C_ENUMERATION, R538
  | heartbeat (m : RmId) (path : Fin 2) (h : HeartbeatFields)  -- HEARTBEAT, R547
  | heartbeatTimer (m : RmId)  -- HEARTBEAT_TIMER, R547
  | leaseExpiry (t : TrayId)  -- LEASE_EXPIRY, R548
  | leaseRenewalTimer (m : RmId)  -- LEASE_RENEWAL_TIMER, R549
  | activeLost (m : RmId)  -- ACTIVE_LOST, R550
  | selfDiagnosis (m : RmId) (ok : Bool)  -- SELF_DIAGNOSIS, R551
  | resynchronisation (m : RmId)  -- RESYNCHRONISATION, R552
  | forceFailover (token : Nat) (m : RmId) (shelfEvent : Bool)  -- FORCE_FAILOVER, R554
  | failoverRevert  -- FAILOVER_REVERT, R554
  | shelfPoll (good : BitVec 4)  -- SHELF_POLL, R556
  | shelfGoodChange (t : TrayId) (lines : BitVec 4)  -- SHELF_GOOD_CHANGE, R557
  | shelfResetRelease (t : TrayId)  -- SHELF_RESET_RELEASE, R557
  | tmcWatchdog (t : TrayId)  -- TMC_WATCHDOG, R546
  | coolingRegulation (t : TrayId) (sensors : List W16)  -- COOLING_REGULATION, R545
  | powerReport (t : TrayId) (slot : SlotId) (mean largest estimate : W16)  -- POWER_REPORT, R542
  | pumpTransfer  -- PUMP_TRANSFER, R558
  | pumpSwap  -- PUMP_SWAP, R558
  | flowLost (t : TrayId)  -- FLOW_LOST, R559
  | tankLevelAlarm  -- TANK_LEVEL_ALARM, R572
  | redfishGet (token : Nat) (r : RedfishRes) (query : Bool)  -- REDFISH_GET, R560
  | pkgCapSetpoint (token : Nat) (t : TrayId) (slot : SlotId) (w : W16)  -- PKG_CAP_SETPOINT, R561
  | coolingSetpoint (token : Nat) (t : TrayId) (target : Byte)  -- COOLING_SETPOINT, R545
  | cduSupplySetpoint (token : Nat) (celsius : Byte)  -- CDU_SUPPLY_SETPOINT, R571
  | processorReset (token : Nat) (t : TrayId) (slot : SlotId) (held : Bool)  -- PROCESSOR_RESET, R560
  | managerReset (token : Nat) (m : RmId)  -- MANAGER_RESET, R560
  | sessionCreate (op : SessionOp)  -- SESSION_CREATE, R560
  | accountChange (token : Nat) (op : AccountOp)  -- ACCOUNT_CHANGE, R560
  | subscriptionChange (token : Nat) (op : SubscriptionOp)  -- SUBSCRIPTION_CHANGE, R560
  | simpleUpdate (token : Nat)  -- SIMPLE_UPDATE, R560
  | recordCommit  -- RECORD_COMMIT, R582
  | recordCommitDone (ok : Bool)  -- RECORD_COMMIT_DONE, R583
  | switchTrayPowerOn (ix : SwitchId)  -- SWITCH_TRAY_POWER_ON, R578
  | switchTrayRecordWrite (ix : SwitchId) (record : List Byte) (st : Byte) (rack : W16) (ok : Bool)  -- SWITCH_TRAY_RECORD_WRITE, R585
  | trayPowerSwitch (t : TrayId) (closed : Bool) (fw : Option W64) (store straps : Bool)  -- TRAY_POWER_SWITCH, R575
  | filetWorkEnd (t : TileId)  -- FILET_WORK_END, R302
  | folioWorkEnd (t : TileId)  -- FOLIO_WORK_END, R338
  | resetUnitStopped (c : Ctx) (unit : Fin 8) (drained : List (BitVec 9 × W32))  -- RESET_UNIT_STOPPED, R470
  | machineTimerInterrupt (h : HartId)  -- MACHINE_TIMER_INTERRUPT, R93
  | vfEnable (on : Bool)  -- VF_ENABLE, R427
  | patternCheckerLock (l : LinkId) (g : Fin 2) (lane : Fin 4) (errors : W16)  -- PATTERN_CHECKER_LOCK, R390
  | heartbeatPathLoss (path : Fin 2)  -- HEARTBEAT_PATH_LOSS, R550
  | tmcFailure (t : TrayId)  -- TMC_FAILURE, R564
  | packagePowerLoss  -- PACKAGE_POWER_LOSS, R563
  | nplChange (w : W16)  -- NPL_CHANGE, R557
  | progressInterval  -- PROGRESS_INTERVAL, R480
deriving DecidableEq, Repr

end Sys2Proof
end

