-- ==== Sys2Proof/Decode.lean ====
section
/-!
DEFINITION. The words of the Ductus instructions: their formats, and the decoder and encoder between a word and the command that
runs it on a core (R151 to R153, Tables 5-2 to 5-17 of spec/). The command table gives its rows no bits, so `decodeTableWord`
answers none.
-/
namespace Sys2Proof

/-! ### Formats (Table 5-2): bits [53:0] below MAJOR and OP -/

/-- Formats S, I and B: three register fields above 39 bits, in I and B seven zeros and a 32-bit immediate. -/
structure FormI where
  rd : SReg
  rs1 : SReg
  rs2 : SReg
  mid : BitVec 7
  imm : W32
deriving DecidableEq, Repr

/-- Format V. -/
structure FormV where
  vd : VReg
  vs1 : VReg
  vs2 : VReg
  vs3 : VReg
  pg : PReg
  et : BitVec 4
  rs : SReg
  sb : BitVec 1
  imm : BitVec 25
deriving DecidableEq, Repr

/-- Format D. -/
structure FormD where
  rd : SReg
  rs1 : SReg
  rs2 : SReg
  crec : BitVec 1
  wait : BitVec 1
  ken : BitVec 1
  knot : BitVec 12
  low : BitVec 24
deriving DecidableEq, Repr

/-- Format O. -/
structure FormO where
  rd : SReg
  rs1 : SReg
  rs2 : SReg
  rs3 : SReg
  nw : BitVec 1
  oimm : BitVec 13
  imm : BitVec 20
deriving DecidableEq, Repr

def FormI.pack (f : FormI) : BitVec 54 := f.rd ++ f.rs1 ++ f.rs2 ++ f.mid ++ f.imm
def FormV.pack (f : FormV) : BitVec 54 := f.vd ++ f.vs1 ++ f.vs2 ++ f.vs3 ++ f.pg ++ f.et ++ f.rs ++ f.sb ++ f.imm
def FormD.pack (f : FormD) : BitVec 54 := f.rd ++ f.rs1 ++ f.rs2 ++ f.crec ++ f.wait ++ f.ken ++ f.knot ++ f.low
def FormO.pack (f : FormO) : BitVec 54 := f.rd ++ f.rs1 ++ f.rs2 ++ f.rs3 ++ f.nw ++ f.oimm ++ f.imm

def formI (w : BitVec 54) : FormI :=
  { rd := w.extractLsb' 49 5, rs1 := w.extractLsb' 44 5, rs2 := w.extractLsb' 39 5, mid := w.extractLsb' 32 7, imm := w.extractLsb' 0 32 }
def formV (w : BitVec 54) : FormV :=
  { vd := w.extractLsb' 50 4, vs1 := w.extractLsb' 46 4, vs2 := w.extractLsb' 42 4, vs3 := w.extractLsb' 38 4, pg := w.extractLsb' 35 3,
    et := w.extractLsb' 31 4, rs := w.extractLsb' 26 5, sb := w.extractLsb' 25 1, imm := w.extractLsb' 0 25 }
def formD (w : BitVec 54) : FormD :=
  { rd := w.extractLsb' 49 5, rs1 := w.extractLsb' 44 5, rs2 := w.extractLsb' 39 5, crec := w.extractLsb' 38 1, wait := w.extractLsb' 37 1,
    ken := w.extractLsb' 36 1, knot := w.extractLsb' 24 12, low := w.extractLsb' 0 24 }
def formO (w : BitVec 54) : FormO :=
  { rd := w.extractLsb' 49 5, rs1 := w.extractLsb' 44 5, rs2 := w.extractLsb' 39 5, rs3 := w.extractLsb' 34 5, nw := w.extractLsb' 33 1,
    oimm := w.extractLsb' 20 13, imm := w.extractLsb' 0 20 }

/-- A word of MAJOR, OP and the bits below, and its parts (R151). -/
def wordOf (major op : BitVec 5) (body : BitVec 54) : W64 := major ++ op ++ body
def majorOf (w : W64) : BitVec 5 := w.extractLsb' 59 5
def opOf (w : W64) : BitVec 5 := w.extractLsb' 54 5
def bodyOf (w : W64) : BitVec 54 := w.extractLsb' 0 54

/-- A one-bit field as a truth value. -/
def flagOf (b : BitVec 1) : Bool := b = 1#1

/-! ### Codes of fields -/

/-- ET and DT (Table 5-5); none for a reserved code. -/
def elemTypeOf (c : BitVec 4) : Option ElemType :=
  match c.toNat with
  | 0 => some .i8 | 1 => some .i16 | 2 => some .i32 | 3 => some .i64 | 4 => some .fp32 | 5 => some .fp16 | 6 => some .bf16
  | 7 => some .e4m3 | 8 => some .e5m2
  | _ => none
def ElemType.code : ElemType → BitVec 4
  | .i8 => 0 | .i16 => 1 | .i32 => 2 | .i64 => 3 | .fp32 => 4 | .fp16 => 5 | .bf16 => 6 | .e4m3 => 7 | .e5m2 => 8

/-- RM and QF (Table 5-7). -/
def roundModeOf (c : BitVec 3) : Option RoundMode :=
  match c.toNat with
  | 0 => some .nearest | 1 => some .zero | 2 => some .stochastic
  | _ => none
def RoundMode.code : RoundMode → BitVec 3
  | .nearest => 0 | .zero => 1 | .stochastic => 2
def qFormatOf (c : BitVec 2) : Option QFormat :=
  match c.toNat with
  | 0 => some .qb8 | 1 => some .qb6 | 2 => some .qb4
  | _ => none
def QFormat.code : QFormat → BitVec 2
  | .qb8 => 0 | .qb6 => 1 | .qb4 => 2

/-- The index of a special register (Table 5-9). -/
def specRegOf (i : W32) : Option SpecReg :=
  match i.toNat with
  | 0 => some .evec | 1 => some .epc | 2 => some .ecause | 3 => some .eaddr | 4 => some .dstat | 5 => some .coreid | 6 => some .cycle
  | 7 => some .hmode
  | _ => none
def SpecReg.code : SpecReg → W32
  | .evec => 0 | .epc => 1 | .ecause => 2 | .eaddr => 3 | .dstat => 4 | .coreid => 5 | .cycle => 6 | .hmode => 7

/-- The value when a condition holds: a field that must be zero is. -/
def need (c : Bool) (v : Option Instr) : Option Instr := if c then v else none


/-! ### The decoder, class by class -/

/-- The two-operand operations of SALU and SALUI (Table 5-4). -/
def decAlu (n : CoreId) (op : BitVec 5) (rd rs1 : SReg) (b : ScalarB) : Option Instr :=
  match op.toNat with
  | 0 => some (.add n rd rs1 b)
  | 1 => some (.sub n rd rs1 b)
  | 2 => some (.and n rd rs1 b)
  | 3 => some (.or n rd rs1 b)
  | 4 => some (.xor n rd rs1 b)
  | 5 => some (.sll n rd rs1 b)
  | 6 => some (.srl n rd rs1 b)
  | 7 => some (.sra n rd rs1 b)
  | 8 => some (.slt n rd rs1 b)
  | 9 => some (.sltu n rd rs1 b)
  | 10 => some (.min n rd rs1 b)
  | 11 => some (.max n rd rs1 b)
  | 12 => some (.minu n rd rs1 b)
  | 13 => some (.maxu n rd rs1 b)
  | _ => none

/-- SALU: format S. -/
def decSalu (n : CoreId) (op : BitVec 5) (f : FormI) : Option Instr :=
  if f.mid ≠ 0 || f.imm ≠ 0 then none
  else match op.toNat with
  | 14 => need (f.rs2 = 0) (some (.clz n f.rd f.rs1))
  | 15 => need (f.rs2 = 0) (some (.ctz n f.rd f.rs1))
  | 16 => need (f.rs2 = 0) (some (.popc n f.rd f.rs1))
  | 17 => need (f.rs2 = 0) (some (.bswap n f.rd f.rs1))
  | _ => decAlu n op f.rd f.rs1 (.reg f.rs2)

/-- SALUI: format I. -/
def decSalui (n : CoreId) (op : BitVec 5) (f : FormI) : Option Instr :=
  if f.rs2 ≠ 0 || f.mid ≠ 0 then none
  else if op = 0x1E then some (.lui n f.rd f.rs1 f.imm)
  else decAlu n op f.rd f.rs1 (.imm f.imm)

/-- SMUL: format S. -/
def decSmul (n : CoreId) (op : BitVec 5) (f : FormI) : Option Instr :=
  if f.mid ≠ 0 || f.imm ≠ 0 then none
  else match op.toNat with
  | 0 => some (.mul n f.rd f.rs1 f.rs2)
  | 1 => some (.mulh n f.rd f.rs1 f.rs2)
  | 2 => some (.mulhu n f.rd f.rs1 f.rs2)
  | 3 => some (.div n f.rd f.rs1 f.rs2)
  | 4 => some (.divu n f.rd f.rs1 f.rs2)
  | 5 => some (.rem n f.rd f.rs1 f.rs2)
  | 6 => some (.remu n f.rd f.rs1 f.rs2)
  | _ => none

/-- LOAD: format I. -/
def decLoad (n : CoreId) (op : BitVec 5) (f : FormI) : Option Instr :=
  if f.rs2 ≠ 0 || f.mid ≠ 0 then none
  else match op.toNat with
  | 0 => some (.lb n f.rd f.rs1 f.imm)
  | 1 => some (.lh n f.rd f.rs1 f.imm)
  | 2 => some (.lw n f.rd f.rs1 f.imm)
  | 3 => some (.ld n f.rd f.rs1 f.imm)
  | 4 => some (.lbu n f.rd f.rs1 f.imm)
  | 5 => some (.lhu n f.rd f.rs1 f.imm)
  | 6 => some (.lwu n f.rd f.rs1 f.imm)
  | _ => none

/-- STORE: format I. -/
def decStore (n : CoreId) (op : BitVec 5) (f : FormI) : Option Instr :=
  if f.rd ≠ 0 || f.mid ≠ 0 then none
  else match op.toNat with
  | 0 => some (.sb n f.rs1 f.rs2 f.imm)
  | 1 => some (.sh n f.rs1 f.rs2 f.imm)
  | 2 => some (.sw n f.rs1 f.rs2 f.imm)
  | 3 => some (.sd n f.rs1 f.rs2 f.imm)
  | _ => none

/-- BRANCH: format B. -/
def decBranch (n : CoreId) (op : BitVec 5) (f : FormI) : Option Instr :=
  if f.rd ≠ 0 || f.mid ≠ 0 then none
  else match op.toNat with
  | 0 => some (.beq n f.rs1 f.rs2 f.imm)
  | 1 => some (.bne n f.rs1 f.rs2 f.imm)
  | 2 => some (.blt n f.rs1 f.rs2 f.imm)
  | 3 => some (.bge n f.rs1 f.rs2 f.imm)
  | 4 => some (.bltu n f.rs1 f.rs2 f.imm)
  | 5 => some (.bgeu n f.rs1 f.rs2 f.imm)
  | _ => none

/-- JUMP: format I. -/
def decJump (n : CoreId) (op : BitVec 5) (f : FormI) : Option Instr :=
  if f.rs2 ≠ 0 || f.mid ≠ 0 then none
  else match op.toNat with
  | 0 => need (f.rs1 = 0) (some (.jal n f.rd f.imm))
  | 1 => some (.jalr n f.rd f.rs1 f.imm)
  | _ => none

/-- MOVE: format I. -/
def decMove (n : CoreId) (op : BitVec 5) (f : FormI) : Option Instr :=
  if f.rs2 ≠ 0 || f.mid ≠ 0 then none
  else match op.toNat with
  | 0 => need (f.rs1 = 0) ((specRegOf f.imm).map fun r => .mfs n f.rd r)
  | 1 => need (f.rd = 0) ((specRegOf f.imm).map fun r => .mts n f.rs1 r)
  | _ => none

/-- STROKE: format S. -/
def decStroke (n : CoreId) (op : BitVec 5) (f : FormI) : Option Instr :=
  if f.rs1 ≠ 0 || f.rs2 ≠ 0 || f.mid ≠ 0 || f.imm ≠ 0 then none
  else match op.toNat with
  | 0 => some (.scount n f.rd)
  | 1 => some (.sphase n f.rd)
  | 2 => some (.sstep n f.rd)
  | 3 => need (f.rd = 0) (some (.svote n))
  | _ => none

/-- SYSTEM: format S, and I for TRAP. -/
def decSystem (n : CoreId) (op : BitVec 5) (f : FormI) : Option Instr :=
  if f.rd ≠ 0 || f.rs1 ≠ 0 || f.rs2 ≠ 0 || f.mid ≠ 0 then none
  else match op.toNat with
  | 0 => need (f.imm = 0) (some (.nop n))
  | 1 => need (f.imm = 0) (some (.fence n))
  | 2 => need (f.imm = 0) (some (.endProg n))
  | 3 => some (.trap n f.imm)
  | 4 => need (f.imm = 0) (some (.eret n))
  | 5 => need (f.imm = 0) (some (.ifence n))
  | _ => none

/-- Operand b of a vector instruction: the field that SB leaves unused is zero. -/
def FormV.operandB (f : FormV) : Option VectorB :=
  if f.sb = 1 then (if f.vs2 = 0 then some (.scal f.rs) else none) else if f.rs = 0 then some (.vec f.vs2) else none

/-- The fields of a two-operand vector instruction. -/
def FormV.bin (f : FormV) : Option VBin :=
  match f.operandB, elemTypeOf f.et with
  | some b, some et => some { vd := f.vd, vs1 := f.vs1, b := b, pg := f.pg, et := et }
  | _, _ => none

/-- VINT. -/
def decVint (n : CoreId) (op : BitVec 5) (f : FormV) : Option Instr :=
  match f.bin with
  | none => none
  | some o =>
    if f.vs3 ≠ 0 || f.imm ≠ 0 then none
    else match op.toNat with
    | 0 => some (.vadd n o)
    | 1 => some (.vsub n o)
    | 2 => some (.vmul n o)
    | 3 => some (.vmulh n o)
    | 4 => some (.vmulhu n o)
    | 5 => some (.vand n o)
    | 6 => some (.vor n o)
    | 7 => some (.vxor n o)
    | 8 => some (.vsll n o)
    | 9 => some (.vsrl n o)
    | 10 => some (.vsra n o)
    | 11 => some (.vmin n o)
    | 12 => some (.vmax n o)
    | 13 => some (.vminu n o)
    | 14 => some (.vmaxu n o)
    | 15 => some (.vsadd n o)
    | 16 => some (.vssub n o)
    | 17 => some (.vsel n o)
    | _ => none

/-- VFP. -/
def decVfp (n : CoreId) (op : BitVec 5) (f : FormV) : Option Instr :=
  match f.bin with
  | none => none
  | some o =>
    if f.imm ≠ 0 then none
    else match op.toNat with
    | 3 => some (.vfma n o f.vs3)
    | 6 => need (f.vs3 = 0 && f.vs2 = 0 && f.sb = 0) (some (.vfabs n o.vd o.vs1 o.pg o.et))
    | 7 => need (f.vs3 = 0 && f.vs2 = 0 && f.sb = 0) (some (.vfneg n o.vd o.vs1 o.pg o.et))
    | 0 => need (f.vs3 = 0) (some (.vfadd n o))
    | 1 => need (f.vs3 = 0) (some (.vfsub n o))
    | 2 => need (f.vs3 = 0) (some (.vfmul n o))
    | 4 => need (f.vs3 = 0) (some (.vfmin n o))
    | 5 => need (f.vs3 = 0) (some (.vfmax n o))
    | _ => none

/-- VLOAD and VSTORE. -/
def decVload (n : CoreId) (op : BitVec 5) (f : FormV) : Option Instr :=
  match elemTypeOf f.et with
  | none => none
  | some et =>
    let o : VMemOp := { v := f.vd, rs := f.rs, imm25 := f.imm, pg := f.pg, et := et }
    if f.vs1 ≠ 0 || f.vs2 ≠ 0 || f.vs3 ≠ 0 || f.sb ≠ 0 then none
    else match op.toNat with
    | 0 => some (.vld n o)
    | 1 => some (.vldbc n o)
    | _ => none
def decVstore (n : CoreId) (op : BitVec 5) (f : FormV) : Option Instr :=
  match elemTypeOf f.et with
  | none => none
  | some et =>
    let o : VMemOp := { v := f.vs1, rs := f.rs, imm25 := f.imm, pg := f.pg, et := et }
    need (op = 0 && f.vd = 0 && f.vs2 = 0 && f.vs3 = 0 && f.sb = 0) (some (.vst n o))

/-- VPERM. -/
def decVperm (n : CoreId) (op : BitVec 5) (f : FormV) : Option Instr :=
  let plain := f.vs2 = 0 && f.vs3 = 0 && f.sb = 0
  match elemTypeOf f.et with
  | none => none
  | some et =>
    match op.toNat with
    | 0 => need (plain && f.vs1 = 0 && f.imm = 0) (some (.vbcast n f.vd f.rs f.pg et))
    | 1 => need (plain && f.vd = 0 && f.pg = 0 && f.imm.extractLsb' 6 19 = 0) (some (.vext n f.rs f.vs1 et (f.imm.extractLsb' 0 6)))
    | 2 => need (plain && f.vs1 = 0 && f.pg = 0 && f.imm.extractLsb' 6 19 = 0) (some (.vins n f.vd f.rs et (f.imm.extractLsb' 0 6)))
    | 3 => (match f.operandB with
      | some b => need (f.et = 0 && f.vs3 = 0 && f.imm = 0) (some (.vshuf n f.vd f.vs1 b f.pg))
      | none => none)
    | 4 => need (plain && f.vd = 0 && f.imm = 0) (some (.vredadd n f.rs f.vs1 f.pg et))
    | 5 => need (plain && f.vd = 0 && f.imm = 0) (some (.vredmin n f.rs f.vs1 f.pg et))
    | 6 => need (plain && f.vd = 0 && f.imm = 0) (some (.vredmax n f.rs f.vs1 f.pg et))
    | 7 => need (plain && f.vd = 0 && f.imm = 0) (some (.vfredadd n f.rs f.vs1 f.pg et))
    | _ => none

/-- A predicate in a field of four bits whose bit 3 must be zero. -/
def predOf (v : VReg) : PReg := v.extractLsb' 0 3
def isPred (v : VReg) : Bool := v.extractLsb' 3 1 = 0

/-- PRED: compares. -/
def decCompare (n : CoreId) (op : BitVec 5) (f : FormV) : Option Instr :=
  match f.operandB, elemTypeOf f.et with
  | some b, some et =>
    let o : VCmpOp := { pd := predOf f.vd, vs1 := f.vs1, b := b, pg := f.pg, et := et }
    if !isPred f.vd || f.vs3 ≠ 0 || f.imm ≠ 0 then none
    else match op.toNat with
    | 0 => some (.vcmpEq n o)
    | 1 => some (.vcmpNe n o)
    | 2 => some (.vcmpLt n o)
    | 3 => some (.vcmpLe n o)
    | 4 => some (.vcmpLtu n o)
    | 5 => some (.vcmpLeu n o)
    | 6 => some (.vcmpFeq n o)
    | 7 => some (.vcmpFlt n o)
    | 8 => some (.vcmpFle n o)
    | 9 => some (.vcmpFunord n o)
    | _ => none
  | _, _ => none

/-- PRED: predicate logic, and compares below it. -/
def decPred (n : CoreId) (op : BitVec 5) (f : FormV) : Option Instr :=
  let bare := f.et = 0 && f.pg = 0 && f.vs3 = 0 && f.sb = 0 && f.imm = 0
  let logic := bare && f.rs = 0 && isPred f.vd && isPred f.vs1 && isPred f.vs2
  match op.toNat with
  | 16 => need logic (some (.pand n (predOf f.vd) (predOf f.vs1) (predOf f.vs2)))
  | 17 => need logic (some (.por n (predOf f.vd) (predOf f.vs1) (predOf f.vs2)))
  | 18 => need logic (some (.pxor n (predOf f.vd) (predOf f.vs1) (predOf f.vs2)))
  | 19 => need logic (some (.pandn n (predOf f.vd) (predOf f.vs1) (predOf f.vs2)))
  | 20 => need (bare && isPred f.vd && f.vs1 = 0 && f.vs2 = 0) (some (.pfroms n (predOf f.vd) f.rs))
  | 21 => need (bare && f.vd = 0 && isPred f.vs1 && f.vs2 = 0) (some (.ptos n f.rs (predOf f.vs1)))
  | _ => decCompare n op f

/-- IMM25 of a CONVERT (Table 5-7). -/
structure CvtImm where
  zero : BitVec 12
  u : BitVec 1
  dt : BitVec 4
  qf : BitVec 2
  part : BitVec 2
  sat : BitVec 1
  rm : BitVec 3
deriving DecidableEq, Repr

def CvtImm.pack (c : CvtImm) : BitVec 25 := c.zero ++ c.u ++ c.dt ++ c.qf ++ c.part ++ c.sat ++ c.rm
def cvtImm (i : BitVec 25) : CvtImm :=
  { zero := i.extractLsb' 13 12, u := i.extractLsb' 12 1, dt := i.extractLsb' 8 4, qf := i.extractLsb' 6 2, part := i.extractLsb' 4 2,
    sat := i.extractLsb' 3 1, rm := i.extractLsb' 0 3 }

/-- CONVERT. -/
def decConvert (n : CoreId) (op : BitVec 5) (f : FormV) : Option Instr :=
  let c := cvtImm f.imm
  if f.vs2 ≠ 0 || f.vs3 ≠ 0 || f.rs ≠ 0 || f.sb ≠ 0 || c.zero ≠ 0 then none
  else match elemTypeOf f.et, elemTypeOf c.dt, roundModeOf c.rm, qFormatOf c.qf with
  | some et, some dt, some rm, some qf =>
    let o : CvtOp := { vd := f.vd, vs1 := f.vs1, pg := f.pg, et := et, dt := dt, u := flagOf c.u, part := c.part, sat := flagOf c.sat, rm := rm }
    let q : QOp := { vd := f.vd, vs1 := f.vs1, et := et, qf := qf, sat := flagOf c.sat, rm := rm }
    let block := f.pg = 0 && c.u = 0 && c.dt = 0 && c.part = 0
    (match op.toNat with
    | 0 => need (c.qf = 0) (some (.vcvt n o))
    | 1 => need (c.qf = 0) (some (.vcvtw n o))
    | 2 => need (c.qf = 0) (some (.vcvtn n o))
    | 3 => need block (some (.qpack n q))
    | 4 => need block (some (.qunpack n q))
    | _ => none)
  | _, _, _, _ => none

/-- DISPATCH: format D. -/
def decDispatch (n : CoreId) (op : BitVec 5) (f : FormD) : Option Instr :=
  need (op = 0 && f.low = 0) (some (.dispatch n f.rd f.rs1 f.rs2 (flagOf f.crec) (flagOf f.wait) (flagOf f.ken) f.knot))

/-- COMPL: format O. -/
def decCompl (n : CoreId) (op : BitVec 5) (f : FormO) : Option Instr :=
  if f.rs2 ≠ 0 || f.rs3 ≠ 0 || f.nw ≠ 0 || f.oimm ≠ 0 then none
  else match op.toNat with
  | 0 => need (f.imm.extractLsb' 2 18 = 0) (some (.cread n f.rd f.rs1 (f.imm.extractLsb' 0 2)))
  | 1 => need (f.imm = 0) (some (.cwait n f.rd f.rs1))
  | 2 => need (f.imm = 0) (some (.cretire n f.rd f.rs1))
  | _ => none

/-- KNOT: format O. -/
def decKnot (n : CoreId) (op : BitVec 5) (f : FormO) : Option Instr :=
  let bare := f.rd = 0 && f.rs3 = 0 && f.nw = 0
  match op.toNat with
  | 0 => need bare (some (.karrive n f.rs1 f.rs2 f.oimm f.imm))
  | 1 => some (.kwait n f.rd f.rs1 f.rs2 f.rs3 (flagOf f.nw) f.oimm f.imm)
  | 2 => need (f.rs2 = 0 && f.rs3 = 0 && f.nw = 0 && f.imm = 0) (some (.kread n f.rd f.rs1 f.oimm))
  | 3 => need bare (some (.kset n f.rs1 f.rs2 f.oimm f.imm))
  | 4 => need bare (some (.kthr n f.rs1 f.rs2 f.oimm f.imm))
  | _ => none

/-- BOBBIN: format O. -/
def decBobbin (n : CoreId) (op : BitVec 5) (f : FormO) : Option Instr :=
  let len := f.imm.extractLsb' 0 4
  let bare := f.rs3 = 0 && f.imm.extractLsb' 4 16 = 0
  match op.toNat with
  | 0 => need bare (some (.bsend n f.rd f.rs1 f.rs2 (flagOf f.nw) f.oimm len))
  | 1 => need bare (some (.brecv n f.rd f.rs1 f.rs2 (flagOf f.nw) f.oimm len))
  | 2 => need (f.rs2 = 0 && f.rs3 = 0 && f.nw = 0 && f.imm = 0) (some (.bcount n f.rd f.rs1 f.oimm))
  | _ => none

/-- The command that runs a word on core n; none for a word whose class, opcode or zero field is reserved (Table 5-3, R153). What
an instruction does not accept among listed codes is `Instr.wellFormed`'s to say. -/
def decodeNib (n : CoreId) (w : W64) : Option Instr :=
  let op := opOf w
  let b := bodyOf w
  match (majorOf w).toNat with
  | 0x01 => decSalu n op (formI b)
  | 0x02 => decSalui n op (formI b)
  | 0x03 => decSmul n op (formI b)
  | 0x04 => decLoad n op (formI b)
  | 0x05 => decStore n op (formI b)
  | 0x06 => decBranch n op (formI b)
  | 0x07 => decJump n op (formI b)
  | 0x08 => decVint n op (formV b)
  | 0x09 => decVfp n op (formV b)
  | 0x0A => decVload n op (formV b)
  | 0x0B => decVstore n op (formV b)
  | 0x0C => decVperm n op (formV b)
  | 0x0D => decPred n op (formV b)
  | 0x0E => decConvert n op (formV b)
  | 0x0F => decMove n op (formI b)
  | 0x10 => decDispatch n op (formD b)
  | 0x11 => decCompl n op (formO b)
  | 0x12 => decKnot n op (formO b)
  | 0x13 => decBobbin n op (formO b)
  | 0x14 => decStroke n op (formI b)
  | 0x15 => decSystem n op (formI b)
  | _ => none

/-! ### The encoder -/

/-- Words of the formats. -/
def wordI (major op : BitVec 5) (rd rs1 rs2 : SReg) (imm : W32) : W64 :=
  wordOf major op { rd := rd, rs1 := rs1, rs2 := rs2, mid := 0, imm := imm : FormI }.pack
def wordAlu (op : BitVec 5) (rd rs1 : SReg) : ScalarB → W64
  | .reg rs2 => wordI 0x01 op rd rs1 rs2 0
  | .imm imm => wordI 0x02 op rd rs1 0 imm
def wordV (major op : BitVec 5) (f : FormV) : W64 := wordOf major op f.pack
def wordO (major op : BitVec 5) (f : FormO) : W64 := wordOf major op f.pack

/-- A bit of a truth value. -/
def bitOf (b : Bool) : BitVec 1 := if b then 1 else 0

/-- Format V with every field zero. -/
def FormV.none : FormV := { vd := 0, vs1 := 0, vs2 := 0, vs3 := 0, pg := 0, et := 0, rs := 0, sb := 0, imm := 0 }

/-- Format V with operand b. -/
def FormV.withB (f : FormV) : VectorB → FormV
  | .vec v => { f with vs2 := v, rs := 0, sb := 0 }
  | .scal rs => { f with vs2 := 0, rs := rs, sb := 1 }

def VBin.form (o : VBin) : FormV := { FormV.none with vd := o.vd, vs1 := o.vs1, pg := o.pg, et := o.et.code }.withB o.b
def VCmpOp.form (o : VCmpOp) : FormV := { FormV.none with vd := 0#1 ++ o.pd, vs1 := o.vs1, pg := o.pg, et := o.et.code }.withB o.b
def VMemOp.loadForm (o : VMemOp) : FormV := { FormV.none with vd := o.v, pg := o.pg, et := o.et.code, rs := o.rs, imm := o.imm25 }
def VMemOp.storeForm (o : VMemOp) : FormV := { FormV.none with vs1 := o.v, pg := o.pg, et := o.et.code, rs := o.rs, imm := o.imm25 }
def CvtOp.form (o : CvtOp) : FormV :=
  { FormV.none with vd := o.vd, vs1 := o.vs1, pg := o.pg, et := o.et.code,
                    imm := { zero := 0, u := bitOf o.u, dt := o.dt.code, qf := 0, part := o.part, sat := bitOf o.sat, rm := o.rm.code : CvtImm }.pack }
def QOp.form (o : QOp) : FormV :=
  { FormV.none with vd := o.vd, vs1 := o.vs1, et := o.et.code,
                    imm := { zero := 0, u := 0, dt := 0, qf := o.qf.code, part := 0, sat := bitOf o.sat, rm := o.rm.code : CvtImm }.pack }

/-- Format V of predicate logic. -/
def predForm (pd ps1 ps2 : PReg) : FormV := { FormV.none with vd := 0#1 ++ pd, vs1 := 0#1 ++ ps1, vs2 := 0#1 ++ ps2 }

/-- Format O with every field zero. -/
def FormO.none : FormO := { rd := 0, rs1 := 0, rs2 := 0, rs3 := 0, nw := 0, oimm := 0, imm := 0 }

/-- The word of an instruction of a Nib core; none for a command that is none. -/
def encodeNib : Instr → Option W64
  | .add _ rd rs1 b => some (wordAlu 0x00 rd rs1 b)
  | .sub _ rd rs1 b => some (wordAlu 0x01 rd rs1 b)
  | .and _ rd rs1 b => some (wordAlu 0x02 rd rs1 b)
  | .or _ rd rs1 b => some (wordAlu 0x03 rd rs1 b)
  | .xor _ rd rs1 b => some (wordAlu 0x04 rd rs1 b)
  | .sll _ rd rs1 b => some (wordAlu 0x05 rd rs1 b)
  | .srl _ rd rs1 b => some (wordAlu 0x06 rd rs1 b)
  | .sra _ rd rs1 b => some (wordAlu 0x07 rd rs1 b)
  | .slt _ rd rs1 b => some (wordAlu 0x08 rd rs1 b)
  | .sltu _ rd rs1 b => some (wordAlu 0x09 rd rs1 b)
  | .min _ rd rs1 b => some (wordAlu 0x0A rd rs1 b)
  | .max _ rd rs1 b => some (wordAlu 0x0B rd rs1 b)
  | .minu _ rd rs1 b => some (wordAlu 0x0C rd rs1 b)
  | .maxu _ rd rs1 b => some (wordAlu 0x0D rd rs1 b)
  | .clz _ rd rs1 => some (wordI 0x01 0x0E rd rs1 0 0)
  | .ctz _ rd rs1 => some (wordI 0x01 0x0F rd rs1 0 0)
  | .popc _ rd rs1 => some (wordI 0x01 0x10 rd rs1 0 0)
  | .bswap _ rd rs1 => some (wordI 0x01 0x11 rd rs1 0 0)
  | .lui _ rd rs1 imm => some (wordI 0x02 0x1E rd rs1 0 imm)
  | .mul _ rd rs1 rs2 => some (wordI 0x03 0x00 rd rs1 rs2 0)
  | .mulh _ rd rs1 rs2 => some (wordI 0x03 0x01 rd rs1 rs2 0)
  | .mulhu _ rd rs1 rs2 => some (wordI 0x03 0x02 rd rs1 rs2 0)
  | .div _ rd rs1 rs2 => some (wordI 0x03 0x03 rd rs1 rs2 0)
  | .divu _ rd rs1 rs2 => some (wordI 0x03 0x04 rd rs1 rs2 0)
  | .rem _ rd rs1 rs2 => some (wordI 0x03 0x05 rd rs1 rs2 0)
  | .remu _ rd rs1 rs2 => some (wordI 0x03 0x06 rd rs1 rs2 0)
  | .lb _ rd rs1 imm => some (wordI 0x04 0x00 rd rs1 0 imm)
  | .lh _ rd rs1 imm => some (wordI 0x04 0x01 rd rs1 0 imm)
  | .lw _ rd rs1 imm => some (wordI 0x04 0x02 rd rs1 0 imm)
  | .ld _ rd rs1 imm => some (wordI 0x04 0x03 rd rs1 0 imm)
  | .lbu _ rd rs1 imm => some (wordI 0x04 0x04 rd rs1 0 imm)
  | .lhu _ rd rs1 imm => some (wordI 0x04 0x05 rd rs1 0 imm)
  | .lwu _ rd rs1 imm => some (wordI 0x04 0x06 rd rs1 0 imm)
  | .sb _ rs1 rs2 imm => some (wordI 0x05 0x00 0 rs1 rs2 imm)
  | .sh _ rs1 rs2 imm => some (wordI 0x05 0x01 0 rs1 rs2 imm)
  | .sw _ rs1 rs2 imm => some (wordI 0x05 0x02 0 rs1 rs2 imm)
  | .sd _ rs1 rs2 imm => some (wordI 0x05 0x03 0 rs1 rs2 imm)
  | .beq _ rs1 rs2 off => some (wordI 0x06 0x00 0 rs1 rs2 off)
  | .bne _ rs1 rs2 off => some (wordI 0x06 0x01 0 rs1 rs2 off)
  | .blt _ rs1 rs2 off => some (wordI 0x06 0x02 0 rs1 rs2 off)
  | .bge _ rs1 rs2 off => some (wordI 0x06 0x03 0 rs1 rs2 off)
  | .bltu _ rs1 rs2 off => some (wordI 0x06 0x04 0 rs1 rs2 off)
  | .bgeu _ rs1 rs2 off => some (wordI 0x06 0x05 0 rs1 rs2 off)
  | .jal _ rd imm => some (wordI 0x07 0x00 rd 0 0 imm)
  | .jalr _ rd rs1 imm => some (wordI 0x07 0x01 rd rs1 0 imm)
  | .vadd _ o => some (wordV 0x08 0x00 o.form)
  | .vsub _ o => some (wordV 0x08 0x01 o.form)
  | .vmul _ o => some (wordV 0x08 0x02 o.form)
  | .vmulh _ o => some (wordV 0x08 0x03 o.form)
  | .vmulhu _ o => some (wordV 0x08 0x04 o.form)
  | .vand _ o => some (wordV 0x08 0x05 o.form)
  | .vor _ o => some (wordV 0x08 0x06 o.form)
  | .vxor _ o => some (wordV 0x08 0x07 o.form)
  | .vsll _ o => some (wordV 0x08 0x08 o.form)
  | .vsrl _ o => some (wordV 0x08 0x09 o.form)
  | .vsra _ o => some (wordV 0x08 0x0A o.form)
  | .vmin _ o => some (wordV 0x08 0x0B o.form)
  | .vmax _ o => some (wordV 0x08 0x0C o.form)
  | .vminu _ o => some (wordV 0x08 0x0D o.form)
  | .vmaxu _ o => some (wordV 0x08 0x0E o.form)
  | .vsadd _ o => some (wordV 0x08 0x0F o.form)
  | .vssub _ o => some (wordV 0x08 0x10 o.form)
  | .vsel _ o => some (wordV 0x08 0x11 o.form)
  | .vfadd _ o => some (wordV 0x09 0x00 o.form)
  | .vfsub _ o => some (wordV 0x09 0x01 o.form)
  | .vfmul _ o => some (wordV 0x09 0x02 o.form)
  | .vfmin _ o => some (wordV 0x09 0x04 o.form)
  | .vfmax _ o => some (wordV 0x09 0x05 o.form)
  | .vfma _ o vs3 => some (wordV 0x09 0x03 { o.form with vs3 := vs3 })
  | .vfabs _ vd vs1 pg et => some (wordV 0x09 0x06 { FormV.none with vd := vd, vs1 := vs1, pg := pg, et := et.code })
  | .vfneg _ vd vs1 pg et => some (wordV 0x09 0x07 { FormV.none with vd := vd, vs1 := vs1, pg := pg, et := et.code })
  | .vld _ o => some (wordV 0x0A 0x00 o.loadForm)
  | .vldbc _ o => some (wordV 0x0A 0x01 o.loadForm)
  | .vst _ o => some (wordV 0x0B 0x00 o.storeForm)
  | .vbcast _ vd rs pg et => some (wordV 0x0C 0x00 { FormV.none with vd := vd, rs := rs, pg := pg, et := et.code })
  | .vext _ rs vs1 et ix => some (wordV 0x0C 0x01 { FormV.none with rs := rs, vs1 := vs1, et := et.code, imm := 0#19 ++ ix })
  | .vins _ vd rs et ix => some (wordV 0x0C 0x02 { FormV.none with vd := vd, rs := rs, et := et.code, imm := 0#19 ++ ix })
  | .vshuf _ vd vs1 b pg => some (wordV 0x0C 0x03 ({ FormV.none with vd := vd, vs1 := vs1, pg := pg }.withB b))
  | .vredadd _ rs vs1 pg et => some (wordV 0x0C 0x04 { FormV.none with rs := rs, vs1 := vs1, pg := pg, et := et.code })
  | .vredmin _ rs vs1 pg et => some (wordV 0x0C 0x05 { FormV.none with rs := rs, vs1 := vs1, pg := pg, et := et.code })
  | .vredmax _ rs vs1 pg et => some (wordV 0x0C 0x06 { FormV.none with rs := rs, vs1 := vs1, pg := pg, et := et.code })
  | .vfredadd _ rs vs1 pg et => some (wordV 0x0C 0x07 { FormV.none with rs := rs, vs1 := vs1, pg := pg, et := et.code })
  | .vcmpEq _ o => some (wordV 0x0D 0x00 o.form)
  | .vcmpNe _ o => some (wordV 0x0D 0x01 o.form)
  | .vcmpLt _ o => some (wordV 0x0D 0x02 o.form)
  | .vcmpLe _ o => some (wordV 0x0D 0x03 o.form)
  | .vcmpLtu _ o => some (wordV 0x0D 0x04 o.form)
  | .vcmpLeu _ o => some (wordV 0x0D 0x05 o.form)
  | .vcmpFeq _ o => some (wordV 0x0D 0x06 o.form)
  | .vcmpFlt _ o => some (wordV 0x0D 0x07 o.form)
  | .vcmpFle _ o => some (wordV 0x0D 0x08 o.form)
  | .vcmpFunord _ o => some (wordV 0x0D 0x09 o.form)
  | .pand _ pd ps1 ps2 => some (wordV 0x0D 0x10 (predForm pd ps1 ps2))
  | .por _ pd ps1 ps2 => some (wordV 0x0D 0x11 (predForm pd ps1 ps2))
  | .pxor _ pd ps1 ps2 => some (wordV 0x0D 0x12 (predForm pd ps1 ps2))
  | .pandn _ pd ps1 ps2 => some (wordV 0x0D 0x13 (predForm pd ps1 ps2))
  | .pfroms _ pd rs => some (wordV 0x0D 0x14 { FormV.none with vd := 0#1 ++ pd, rs := rs })
  | .ptos _ rs ps => some (wordV 0x0D 0x15 { FormV.none with rs := rs, vs1 := 0#1 ++ ps })
  | .vcvt _ o => some (wordV 0x0E 0x00 o.form)
  | .vcvtw _ o => some (wordV 0x0E 0x01 o.form)
  | .vcvtn _ o => some (wordV 0x0E 0x02 o.form)
  | .qpack _ o => some (wordV 0x0E 0x03 o.form)
  | .qunpack _ o => some (wordV 0x0E 0x04 o.form)
  | .mfs _ rd r => some (wordI 0x0F 0x00 rd 0 0 r.code)
  | .mts _ rs1 r => some (wordI 0x0F 0x01 0 rs1 0 r.code)
  | .dispatch _ rd rs1 rs2 crec wait ken knot =>
    some (wordOf 0x10 0x00 { rd := rd, rs1 := rs1, rs2 := rs2, crec := bitOf crec, wait := bitOf wait, ken := bitOf ken, knot := knot,
                             low := 0 : FormD }.pack)
  | .cread _ rd rs1 sel => some (wordO 0x11 0x00 { FormO.none with rd := rd, rs1 := rs1, imm := 0#18 ++ sel })
  | .cwait _ rd rs1 => some (wordO 0x11 0x01 { FormO.none with rd := rd, rs1 := rs1 })
  | .cretire _ rd rs1 => some (wordO 0x11 0x02 { FormO.none with rd := rd, rs1 := rs1 })
  | .karrive _ rs1 rs2 oimm imm => some (wordO 0x12 0x00 { FormO.none with rs1 := rs1, rs2 := rs2, oimm := oimm, imm := imm })
  | .kset _ rs1 rs2 oimm imm => some (wordO 0x12 0x03 { FormO.none with rs1 := rs1, rs2 := rs2, oimm := oimm, imm := imm })
  | .kthr _ rs1 rs2 oimm imm => some (wordO 0x12 0x04 { FormO.none with rs1 := rs1, rs2 := rs2, oimm := oimm, imm := imm })
  | .kwait _ rd rs1 rs2 rs3 nw oimm imm => some (wordO 0x12 0x01 { rd := rd, rs1 := rs1, rs2 := rs2, rs3 := rs3, nw := bitOf nw, oimm := oimm, imm := imm })
  | .kread _ rd rs1 oimm => some (wordO 0x12 0x02 { FormO.none with rd := rd, rs1 := rs1, oimm := oimm })
  | .bsend _ rd rs1 rs2 nw oimm len => some (wordO 0x13 0x00 { rd := rd, rs1 := rs1, rs2 := rs2, rs3 := 0, nw := bitOf nw, oimm := oimm, imm := 0#16 ++ len })
  | .brecv _ rd rs1 rs2 nw oimm len => some (wordO 0x13 0x01 { rd := rd, rs1 := rs1, rs2 := rs2, rs3 := 0, nw := bitOf nw, oimm := oimm, imm := 0#16 ++ len })
  | .bcount _ rd rs1 oimm => some (wordO 0x13 0x02 { FormO.none with rd := rd, rs1 := rs1, oimm := oimm })
  | .scount _ rd => some (wordI 0x14 0x00 rd 0 0 0)
  | .sphase _ rd => some (wordI 0x14 0x01 rd 0 0 0)
  | .sstep _ rd => some (wordI 0x14 0x02 rd 0 0 0)
  | .svote _ => some (wordI 0x14 0x03 0 0 0 0)
  | .nop _ => some (wordI 0x15 0x00 0 0 0 0)
  | .fence _ => some (wordI 0x15 0x01 0 0 0 0)
  | .endProg _ => some (wordI 0x15 0x02 0 0 0 0)
  | .eret _ => some (wordI 0x15 0x04 0 0 0 0)
  | .ifence _ => some (wordI 0x15 0x05 0 0 0 0)
  | .trap _ imm => some (wordI 0x15 0x03 0 0 0 imm)
  | _ => none

/-- The Nib core an instruction runs on. -/
def Instr.core? : Instr → Option CoreId
  | .add n _ _ _ => some n
  | .sub n _ _ _ => some n
  | .and n _ _ _ => some n
  | .or n _ _ _ => some n
  | .xor n _ _ _ => some n
  | .sll n _ _ _ => some n
  | .srl n _ _ _ => some n
  | .sra n _ _ _ => some n
  | .slt n _ _ _ => some n
  | .sltu n _ _ _ => some n
  | .min n _ _ _ => some n
  | .max n _ _ _ => some n
  | .minu n _ _ _ => some n
  | .maxu n _ _ _ => some n
  | .clz n _ _ => some n
  | .ctz n _ _ => some n
  | .popc n _ _ => some n
  | .bswap n _ _ => some n
  | .lui n _ _ _ => some n
  | .mul n _ _ _ => some n
  | .mulh n _ _ _ => some n
  | .mulhu n _ _ _ => some n
  | .div n _ _ _ => some n
  | .divu n _ _ _ => some n
  | .rem n _ _ _ => some n
  | .remu n _ _ _ => some n
  | .lb n _ _ _ => some n
  | .lh n _ _ _ => some n
  | .lw n _ _ _ => some n
  | .ld n _ _ _ => some n
  | .lbu n _ _ _ => some n
  | .lhu n _ _ _ => some n
  | .lwu n _ _ _ => some n
  | .sb n _ _ _ => some n
  | .sh n _ _ _ => some n
  | .sw n _ _ _ => some n
  | .sd n _ _ _ => some n
  | .beq n _ _ _ => some n
  | .bne n _ _ _ => some n
  | .blt n _ _ _ => some n
  | .bge n _ _ _ => some n
  | .bltu n _ _ _ => some n
  | .bgeu n _ _ _ => some n
  | .jal n _ _ => some n
  | .jalr n _ _ _ => some n
  | .vadd n _ => some n
  | .vsub n _ => some n
  | .vmul n _ => some n
  | .vmulh n _ => some n
  | .vmulhu n _ => some n
  | .vand n _ => some n
  | .vor n _ => some n
  | .vxor n _ => some n
  | .vsll n _ => some n
  | .vsrl n _ => some n
  | .vsra n _ => some n
  | .vmin n _ => some n
  | .vmax n _ => some n
  | .vminu n _ => some n
  | .vmaxu n _ => some n
  | .vsadd n _ => some n
  | .vssub n _ => some n
  | .vsel n _ => some n
  | .vfadd n _ => some n
  | .vfsub n _ => some n
  | .vfmul n _ => some n
  | .vfma n _ _ => some n
  | .vfmin n _ => some n
  | .vfmax n _ => some n
  | .vfabs n _ _ _ _ => some n
  | .vfneg n _ _ _ _ => some n
  | .vld n _ => some n
  | .vldbc n _ => some n
  | .vst n _ => some n
  | .vbcast n _ _ _ _ => some n
  | .vext n _ _ _ _ => some n
  | .vins n _ _ _ _ => some n
  | .vshuf n _ _ _ _ => some n
  | .vredadd n _ _ _ _ => some n
  | .vredmin n _ _ _ _ => some n
  | .vredmax n _ _ _ _ => some n
  | .vfredadd n _ _ _ _ => some n
  | .vcmpEq n _ => some n
  | .vcmpNe n _ => some n
  | .vcmpLt n _ => some n
  | .vcmpLe n _ => some n
  | .vcmpLtu n _ => some n
  | .vcmpLeu n _ => some n
  | .vcmpFeq n _ => some n
  | .vcmpFlt n _ => some n
  | .vcmpFle n _ => some n
  | .vcmpFunord n _ => some n
  | .pand n _ _ _ => some n
  | .por n _ _ _ => some n
  | .pxor n _ _ _ => some n
  | .pandn n _ _ _ => some n
  | .pfroms n _ _ => some n
  | .ptos n _ _ => some n
  | .vcvt n _ => some n
  | .vcvtw n _ => some n
  | .vcvtn n _ => some n
  | .qpack n _ => some n
  | .qunpack n _ => some n
  | .mfs n _ _ => some n
  | .mts n _ _ => some n
  | .dispatch n _ _ _ _ _ _ _ => some n
  | .cread n _ _ _ => some n
  | .cwait n _ _ => some n
  | .cretire n _ _ => some n
  | .karrive n _ _ _ _ => some n
  | .kwait n _ _ _ _ _ _ _ => some n
  | .kread n _ _ _ => some n
  | .kset n _ _ _ _ => some n
  | .kthr n _ _ _ _ => some n
  | .bsend n _ _ _ _ _ _ => some n
  | .brecv n _ _ _ _ _ _ => some n
  | .bcount n _ _ _ => some n
  | .scount n _ => some n
  | .sphase n _ => some n
  | .sstep n _ => some n
  | .svote n => some n
  | .nop n => some n
  | .fence n => some n
  | .endProg n => some n
  | .trap n _ => some n
  | .eret n => some n
  | .ifence n => some n
  | _ => none

/-- The command a word of the command table spells: none, since the table gives no row any bits. -/
def decodeTableWord (_nbits _w : Nat) : Option Instr := none

end Sys2Proof
end

