-- ==== Sys2Proof/Config.lean ====
section
/-!
DEFINITION. What the spec leaves open and the machine goes on from: free values, and what a package is built with. None has
a body, so nothing can be proved of it; the state's counter `freeIx` says how many free values were taken.
-/
namespace Sys2Proof

/-- The i-th free value (notes/assumptions/2). -/
opaque Config.freeBits : Nat → W64

/-- The package is of variant E; of variant S otherwise (Table 1-8). Written at the factory (R24,
notes/assumptions/52). -/
opaque Config.variantE : Bool

/-- The calibrated weights and static table that the Steward holds for the package; the spec gives typical values only (R507,
notes/assumptions/52). -/
opaque Config.weight : Nat → W32
opaque Config.staticW : Nat → W16

/-- The vendor ID, and the Device Serial Number that the Steward die gives (Table 13-2; the spec states neither). -/
opaque Config.vendorId : W16
opaque Config.serialNumber : W64

end Sys2Proof
end

