-- ==== Sys2Proof/Machine/SMap.lean ====
section
/-!
DEFINITION. Sparse data by key: a list of (key, value) pairs in one canonical form, keys strictly rising and no value
equal to what an unlisted key reads as. Memory, the register file and every table of units are held this way, so equal
contents are equal lists. The value an unlisted key reads as is the argument d, a function of the key.
-/
namespace Sys2Proof.Machine

/-- Sparse data by key, in canonical form (see `smWf`). -/
abbrev SMap (α : Type) := List (Nat × α)

/-- The value at key k. -/
def smGet {α : Type} (d : Nat → α) : SMap α → Nat → α
  | [], k => d k
  | (j, v) :: m, k => if j = k then v else smGet d m k

/-- m without key k. -/
def smErase {α : Type} : SMap α → Nat → SMap α
  | [], _ => []
  | (j, v) :: m, k => if j = k then smErase m k else (j, v) :: smErase m k

/-- m with (k, v) put before the first larger key. -/
def smInsert {α : Type} : SMap α → Nat → α → SMap α
  | [], k, v => [(k, v)]
  | (j, w) :: m, k, v => if k < j then (k, v) :: (j, w) :: m else (j, w) :: smInsert m k v

/-- m with value v at key k; a value that an unlisted key reads as is not listed. -/
def smSet {α : Type} [DecidableEq α] (d : Nat → α) (m : SMap α) (k : Nat) (v : α) : SMap α :=
  if v = d k then smErase m k else smInsert (smErase m k) k v

/-- The canonical form: keys strictly rising, no entry equal to what an unlisted key reads as. -/
def smWf {α : Type} [DecidableEq α] (d : Nat → α) : SMap α → Bool
  | [] => true
  | (j, v) :: m => v ≠ d j && (m.all fun e => j < e.1) && smWf d m

/-- Every value of m replaced by f of its key and value. -/
def smMap {α : Type} [DecidableEq α] (d : Nat → α) (f : Nat → α → α) (m : SMap α) : SMap α :=
  m.foldl (fun acc e => smSet d acc e.1 (f e.1 e.2)) m

end Sys2Proof.Machine
end

