-- ==== Sys2Proof/Machine/Parts.lean ====
section
/-!
DEFINITION. The records the state is made of: Nib cores, harts, works and their queues, images, ports and the rest, as plain
data. Each docstring cites the rule of spec/ that names the piece.
-/
namespace Sys2Proof.Machine

/-! ### Stores, works and records -/

/-- A run of bytes a store writes: package physical bytes, or host bus bytes (R89); mcomp is the page's MCOMP bit (R225). -/
structure WSeg where
  host : Bool
  mcomp : Bool
  cells : List Host.Cell
deriving DecidableEq, Repr

/-- One entry of a Nib store buffer (R99): the bytes of one store, page by page. -/
abbrev StoreEntry := List WSeg

/-- A work accepted for an engine unit (R117): its descriptor, its completion record and its knot. -/
structure Work where
  ctx : Nat
  desc : W64
  /-- handle of the completion record; meaningful when crec -/
  handle : W64
  crec : Bool
  knot : Option Nat
  /-- accepted during the guard and not yet released (R39) -/
  held : Bool
  /-- DELAYED of the record (Table 4-5) -/
  delayed : Bool
  /-- started by a work-list entry of the image (R54) -/
  image : Bool
deriving DecidableEq, Repr

/-- What a post to a Nib core names: the record's contents (qpost, R95) or the record's address (DISPATCH, R165). -/
inductive PostArg
  | args (entry arg0 arg1 : W64)
  | desc (va : W64)
deriving DecidableEq, Repr

/-- An entry of a core's post queue (R115). -/
structure Post where
  arg : PostArg
  handle : W64
  crec : Bool
  knot : Option Nat
  held : Bool
  delayed : Bool
deriving DecidableEq, Repr

/-- An entry of a core's image queue (R115). -/
structure ImageStart where
  entry : W64
  arg : W64
deriving DecidableEq, Repr

/-- The run a core executes: its record, its knot and where it came from. -/
structure Run where
  handle : W64
  crec : Bool
  knot : Option Nat
  delayed : Bool
  image : Bool
  /-- STROKE.COUNT when it started (R68) -/
  stroke : Nat
deriving DecidableEq, Repr

/-- A work that a unit has taken from its queue and not begun: it waits for its descriptor or for a list in host memory (R89), or for
other works (R338). -/
structure Taken where
  work : Work
  /-- STROKE.COUNT when it was taken (R68) -/
  stroke : Nat
  /-- its descriptor, once read; empty before -/
  desc : List Byte
  /-- released from a hold (R319) -/
  washeld : Bool
deriving DecidableEq, Repr

/-! ### Nib cores (Table 4-3) -/

/-- NIB.CORE.STATE (Table 4-10); HANDLER is RUNNING with the handler bit set. -/
inductive NibStatus
  | off | idle | running | waiting | faulted | disabled | failed
deriving DecidableEq, Repr

/-- What a load that waits for HOST pages writes once its bytes are there (R89). -/
inductive LoadKind
  | scalar (rd : SReg) (size : Nat) (signed : Bool)
  | vector (o : VMemOp) (bcast : Bool)
  | message (rd : SReg) (index : Nat) (port : Option Nat) (nw : Bool)
deriving DecidableEq, Repr

/-- The waits of Table 5-18 with what completes them (`stall` is WAIT of a dispatch); a fetch, a load or a post record from HOST
pages (R89); a conversion that waits for its draws. -/
inductive NibWait
  | none
  | dispatch (rd : SReg) (target desc : W64) (crec stall : Bool) (knot : Option Nat)
  | cwait (rd : SReg) (handle : W64)
  | kwait (rd : SReg) (knot v : Nat) (limit : Option Nat)
  | bsend (rd : SReg) (index : Nat) (port : Option Nat) (msg : List Byte)
  | brecv (rd : SReg) (index len buf : Nat)
  | hostFetch
  | hostLoad (kind : LoadKind) (va len : Nat) (got : List Host.Cell) (left : Nat)
  | postRead (p : Post)
  | pool
deriving DecidableEq, Repr

/-- A run of reserved draws: the seeds of its stream, the next position, and how many are left (R218). -/
structure DrawRun where
  s31 : Nat
  s23 : Nat
  pos : Nat
  left : Nat
deriving DecidableEq, Repr

/-- Who asks for a reservation: a core, a Tambour array (16 × tile + array) or a Feed channel (64 × tile + channel). -/
inductive PoolUser
  | nib (n : Nat)
  | tamb (a : Nat)
  | feed (ch : Nat)
deriving DecidableEq, Repr

/-- A reservation request at the pool's home (R218). -/
structure PoolReq where
  ctx : Nat
  user : PoolUser
  count : Nat
  /-- `time` at which it reached the home (R234) -/
  since : Nat
deriving DecidableEq, Repr

/-- Place of a requester among those of one cycle: by tile, then Nib cores, Tambour arrays, Feed channels; the IO die last (R234). -/
def PoolUser.rank : PoolUser → Nat
  | .nib n => n / 8 * 256 + n % 8
  | .tamb a => a / 16 * 256 + 64 + a % 16
  | .feed ch => ch / 64 * 256 + 128 + ch % 64

/-- One logical Nib core. Register files are sparse: an unlisted register reads 0. -/
structure NibCore where
  st : NibStatus
  handler : Bool
  s : SMap W64
  v : SMap W512
  p : SMap W64
  pc : BitVec 48
  evec : BitVec 48
  epc : BitVec 48
  ecause : BitVec 8
  eaddr : BitVec 48
  dstat : BitVec 16
  wait : NibWait
  stores : List StoreEntry
  imageQ : List ImageStart
  postQ : List Post
  run : Option Run
  /-- instructions retired (progress counter of Table 15-4) -/
  retired : Nat
  /-- runs started (progress counter of Table 15-4) -/
  started : Nat
  /-- the runs of draws granted and not yet used, oldest first (R218) -/
  draws : List DrawRun
  /-- the pc whose instruction came from a HOST page and has not run yet (R89) -/
  fetched : Option (BitVec 48)
deriving DecidableEq, Repr

/-- A core as reset leaves it: OFF, every register 0. -/
def NibCore.off : NibCore :=
  { st := .off, handler := false, s := [], v := [], p := [], pc := 0, evec := 0, epc := 0, ecause := 0, eaddr := 0,
    dstat := 0, wait := .none, stores := [], imageQ := [], postQ := [], run := .none, retired := 0, started := 0,
    draws := [], fetched := .none }

/-! ### Quill harts (R91 to R97) -/

/-- QUILL.HART.STATE (Table 3-12). -/
inductive HartStatus
  | off | running | wfi | faulted | disabled | failed
deriving DecidableEq, Repr

/-- RISC-V privilege levels of a hart (Table 3-5); the V bit is apart. -/
inductive Priv
  | u | s | m
deriving DecidableEq, Repr

/-- What a hart waits for inside an instruction: a ring slot (qpost, R128, with the post record it has read), or a host read (R89) of
a post record, of a scalar load of an instruction of `len` bytes, or of field f of element `elem` of a vector load of nf fields, `emul` registers apart, from vd and va
on (`fof` fault-only-first); `gva` says that the address is a guest's. -/
inductive HartWait
  | none
  | qpost (rd : BitVec 5) (record target : W64) (post : List Byte)
  | qpostRead (rd : BitVec 5) (record target : W64)
  | hostLoad (rd : BitVec 5) (size : Nat) (signed fp : Bool) (len : Nat) (gva : Bool)
  | hostElem (vd elem size emul f nf : Nat) (va : W64) (fof gva : Bool)
deriving DecidableEq, Repr

/-- One Quill hart. CSRs are sparse by number; x, f and v registers by index. -/
structure Hart where
  st : HartStatus
  x : SMap W64
  f : SMap W64
  v : SMap (BitVec 256)
  pc : W64
  priv : Priv
  virt : Bool
  csr : SMap W64
  /-- qebind of each event bit (R258) -/
  bind : SMap W64
  /-- the LR reservation: a line of tile memory, by package physical address ÷ 64 -/
  resv : Option Nat
  wait : HartWait
deriving DecidableEq, Repr

/-- A hart as reset leaves it: OFF, M-mode, every register 0. -/
def Hart.off : Hart :=
  { st := .off, x := [], f := [], v := [], pc := 0, priv := .m, virt := false, csr := [], bind := [], resv := .none,
    wait := .none }

/-- A directory entry (R96): a DRAM line held in Quill caches, the dies that hold it, and the context that filled it. -/
structure DirEntry where
  line : Nat
  dies : List Nat
  /-- state M: one die owns the line -/
  owned : Bool
  /-- the owner has modified it -/
  dirty : Bool
  /-- MCOMP of the page it was filled through (R225) -/
  mcomp : Bool
  ctx : Nat
deriving DecidableEq, Repr

/-- A read the package issued on PCIe and has not had its completion (R89, R413). -/
inductive HostReader
  | nib (n : Nat)
  | hart (h : Nat)
  | feed (t ch : Nat)
  | unit (key : Nat)
  | access
  /-- an aperture read of a VF that meets a HOST page: its first address and length, what has been read, and whether that is clean -/
  | bar (va0 len : Nat) (got : List Byte) (clean : Bool)
deriving DecidableEq, Repr

structure HostRead where
  tag : Nat
  ctx : Nat
  reader : HostReader
  /-- context virtual address of the first byte, bus address, length -/
  va : Nat
  bus : Nat
  len : Nat
deriving DecidableEq, Repr

/-- What a unit's work has read from host memory before it begins (R89): the bytes by bus address, and the status of a read that failed
(0: none). -/
structure HostBuf where
  cells : List Host.Cell
  fail : Nat
deriving DecidableEq, Repr

def HostBuf.empty : HostBuf := { cells := [], fail := 0 }

/-- Who waits: the waits of Table 5-18 in the order they began (R147, R178). -/
inductive Agent
  | nib (n : Nat)
  | hart (h : Nat)
deriving DecidableEq, Repr

/-! ### The schedule image (Tables 2-4 to 2-7) -/

structure WorkEntry where
  step : Nat
  startNs : Nat
  target : Nat
  addr : W64
  arg : W64
deriving DecidableEq, Repr

structure SlotEntry where
  step : Nat
  startNs : Nat
  lenNs : Nat
  portMode : Nat
deriving DecidableEq, Repr

/-- PORT, MODE and BINDING of PORT_MODE (Table 2-6), and KIND, CCODE and INDEX of BINDING (R378). -/
def SlotEntry.port (e : SlotEntry) : Nat := nbits e.portMode 3 0
def SlotEntry.mode (e : SlotEntry) : Nat := nbits e.portMode 7 4
def SlotEntry.binding (e : SlotEntry) : Nat := nbits e.portMode 23 8
def SlotEntry.kind (e : SlotEntry) : Nat := nbits e.binding 15 13
def SlotEntry.ccode (e : SlotEntry) : Nat := nbits e.binding 12 10
def SlotEntry.index (e : SlotEntry) : Nat := nbits e.binding 9 0
/-- IN_PORT and the stream of a MODE 2 slot; the stream of the others. -/
def SlotEntry.inPort (e : SlotEntry) : Nat := nbits e.binding 9 6
def SlotEntry.stream (e : SlotEntry) : Nat := if e.mode = 2 then nbits e.binding 5 0 else e.index

structure MileEntry where
  step : Nat
  deadlineNs : Nat
  knot : Nat
  action : Nat
  threshold : Nat
deriving DecidableEq, Repr

/-- Where an image is between its arming and its disarming (R50, R52): `disarming` runs to the end of the stroke, `dropped` was given
up before it was armed. -/
inductive ImagePhase
  | none | validating | armed | disarming | dropped
deriving DecidableEq, Repr

structure Image where
  phase : ImagePhase
  base : Nat
  hash : W64
  startCount : Nat
  steps : Nat
  /-- step 0 has begun (R77) -/
  begun : Bool
  /-- a reset of its context has begun: no work, slot or milestone of it runs any more (R76, R470) -/
  cut : Bool
  works : List WorkEntry
  slots : List SlotEntry
  miles : List MileEntry
deriving DecidableEq, Repr

/-- No image. -/
def Image.empty : Image :=
  { phase := .none, base := 0, hash := 0, startCount := 0, steps := 0, begun := false, cut := false, works := [], slots := [],
    miles := [] }

/-- Is the image armed, if only to the next boundary (R52)? -/
def Image.active (i : Image) : Bool := i.phase = .armed || i.phase = .disarming

/-! ### Bobbins (R245, R252) -/

/-- One element's accumulator of a combining bobbin (R253): the exact sum, in units of 2⁻¹⁴⁹ for FP32 and BF16 or of 1
for integers, and the three flags. -/
structure Accum where
  sum : Int
  nan : Bool
  pinf : Bool
  ninf : Bool
deriving DecidableEq, Repr

/-- What a bobbin holds beside its registers: its queue, oldest first, its accumulator and its granule run (base, size). -/
structure Bobbin where
  queue : List (List Byte)
  acc : List Accum
  run : Nat × Nat
deriving DecidableEq, Repr

/-- A bobbin that holds nothing. -/
def Bobbin.empty : Bobbin := { queue := [], acc := [], run := (0, 0) }

/-- A message in an outbound queue (R248): far bobbin and bytes. -/
structure OutMsg where
  index : Nat
  data : List Byte
deriving DecidableEq, Repr

/-! ### Feed channels (Tables 9-2, 9-3) -/

/-- A run of bytes inside one page as an access translated it: local, or on the host. -/
structure Seg where
  host : Bool
  addr : Nat
  len : Nat
  mcomp : Bool
deriving DecidableEq, Repr

/-- A beat in a channel's staging buffer (R282): `len` bytes of source row `row` from offset `off`, or the PCIe read they wait for. -/
structure StagedBeat where
  row : Nat
  off : Nat
  len : Nat
  tag : Option Nat
  data : List Byte
deriving DecidableEq, Repr

/-- A Feed descriptor's fields. -/
structure FeedDesc where
  kind : Nat
  ccode : Nat
  dir : Bool
  swap : Nat
  prio : Nat
  prio2 : Nat
  trig : Nat
  ken : Bool
  targ : Nat
  len : Nat
  rows : Nat
  src : W64
  dst : W64
  sstride : Nat
  dstride : Nat
  escT : Nat
  knot : Nat
  next : W64
deriving DecidableEq, Repr

/-- The work a channel runs, with its current descriptor. -/
structure FeedCur where
  work : Work
  /-- STROKE.COUNT when the work started (R68) -/
  stroke : Nat
  d : FeedDesc
  /-- chain index of d, from 0 -/
  index : Nat
  /-- triggered; armed otherwise (R280) -/
  running : Bool
  /-- the descriptor's bytes are moved -/
  moved : Bool
  /-- escalated to PRIO2 (R284) -/
  escalated : Bool
  /-- `time` at which the descriptor became current -/
  since : Nat
  /-- STROKE trigger: STROKE.COUNT of the first work stroke that began since the descriptor became current -/
  strokeAt : Option Nat
  /-- address of a descriptor on its way from host memory (R89) -/
  reading : Option W64
  /-- bytes written by the chain (R273) -/
  written : Nat
  /-- the run of draws of a POOL_FILL, once granted (R279) -/
  draws : Option DrawRun
  /-- the next beat of the source: row and offset -/
  rd : Nat × Nat
  /-- the next beat of the destination: row and offset -/
  wr : Nat × Nat
  /-- the staging buffer, oldest beat first (R282) -/
  staged : List StagedBeat
  /-- beats granted to channels of higher priority (R273) -/
  lost : Nat
  /-- status and DETAIL the work is to end with (R276) -/
  err : Option (Nat × Nat)
deriving DecidableEq, Repr

/-- A Feed channel: its queued works, its running work, its pending doorbells (R281) and works started. -/
structure FeedCh where
  queue : List Work
  cur : Option FeedCur
  doorbells : Nat
  started : Nat
deriving DecidableEq, Repr

def FeedCh.idle : FeedCh := { queue := [], cur := .none, doorbells := 0, started := 0 }

/-- A buddy epoch at its sender (R285 to R289). -/
structure Epoch where
  active : Bool
  /-- channel index 64 × tile + channel -/
  ch : Nat
  port : Nat
  /-- region pages: (context virtual address, package physical address, bytes) -/
  pages : List (Nat × Nat × Nat)
  total : Nat
  sent : Nat
  dst : W64
  epoch : Nat
  snap : Nat
  /-- boundaries since the last line left (R289) -/
  after : Nat
deriving DecidableEq, Repr

def Epoch.none : Epoch :=
  { active := false, ch := 0, port := 0, pages := [], total := 0, sent := 0, dst := 0, epoch := 0, snap := 0, after := 0 }

/-- A buddy epoch at its receiver (R287, R288). -/
structure RecvEpoch where
  active : Bool
  dst : W64
  copy : Nat
  total : Nat
  landed : Nat
  epoch : Nat
  snap : Nat
  x : Nat
  y : Nat
  sctx : Nat
  /-- the area failed to translate: to be refused at the boundary -/
  bad : Bool
deriving DecidableEq, Repr

def RecvEpoch.none : RecvEpoch :=
  { active := false, dst := 0, copy := 0, total := 0, landed := 0, epoch := 0, snap := 0, x := 0, y := 0, sctx := 0,
    bad := false }

/-! ### PCIe functions, contexts and what the package sends -/

/-- Configuration-space state of a function: 0 the PF, n the VF of context n − 1 (R405, R416, R425). -/
structure FnState where
  enabled : Bool
  msixEnable : Bool
  funcMask : Bool
  d3 : Bool
  /-- Enable Relaxed Ordering, 1 by default on PCIe (R412) -/
  relaxed : Bool
  /-- AER: an unsupported request, a completion timeout was logged (R403, Table 13-12) -/
  aerUr : Bool
  aerTimeout : Bool
  /-- Max_Payload_Size and Max_Read_Request_Size, in bytes (Table 13-2) -/
  mps : Nat
  mrrs : Nat
deriving DecidableEq, Repr

/-- A function as its configuration reset leaves it: VF Enable 0, MSI-X disabled, D0. -/
def FnState.fresh : FnState := { enabled := false, msixEnable := false, funcMask := false, d3 := false, relaxed := true, aerUr := false, aerTimeout := false, mps := 128, mrrs := 512 }

/-! ### Tambour arrays (chapter 6) -/

/-- A row of an operand: where it lies, and its bytes when the work started. -/
structure TambRow where
  segs : List Seg
  data : List Byte
deriving DecidableEq, Repr

/-- A Tambour descriptor (Table 6-4). -/
structure TambDesc where
  atype : Nat
  btype : Nat
  otype : Nat
  ctype : Nat
  rm : Nat
  sat : Bool
  scale : Nat
  m : Nat
  n : Nat
  k : Nat
  aAddr : Nat
  btAddr : Nat
  cinAddr : Nat
  coutAddr : Nat
  lda : Nat
  ldb : Nat
  ldco : Nat
  ldci : Nat
deriving DecidableEq, Repr

/-- A running Tambour work: its descriptor, its draws, and the rows of its operands (R191, R192). -/
structure TambCur where
  work : Work
  /-- STROKE.COUNT when it started (R68) -/
  stroke : Nat
  d : TambDesc
  /-- the run of draws, once granted -/
  draws : Option DrawRun
  aRows : List TambRow
  btRows : List TambRow
  cRows : List TambRow
  oRows : List TambRow
  /-- addresses of its operands that others wrote while it ran (R192) -/
  hits : List Nat
  /-- status and DETAIL the work is to end with before its first cycle (R190, R191) -/
  err : Option (Nat × Nat)
deriving DecidableEq, Repr

/-- A logical array: its dispatch queue, a work taken from it whose descriptor is not read yet, and its work. -/
structure TambArray where
  queue : List Work
  taken : Option Taken
  cur : Option TambCur
  /-- a work ended with others queued: ballast has not resumed (R197) -/
  rest : Bool
deriving DecidableEq, Repr

def TambArray.idle : TambArray := { queue := [], taken := .none, cur := .none, rest := false }

/-- The context of an array's work in progress, and the stroke it began in. -/
def TambArray.busy (k : TambArray) : Option (Nat × Nat) :=
  match k.cur with
  | some u => some (u.work.ctx, u.stroke)
  | none => k.taken.map fun x => (x.work.ctx, x.stroke)

def TambArray.ctx (k : TambArray) : Option Nat := k.busy.map Prod.fst

/-! ### Filet units (chapter 10) -/

/-- A table of a context (Table 10-3). -/
structure FiletTable where
  installed : Bool
  etype : Nat
  width : Nat
  rows : Nat
  base : Nat
  span : Nat
  spill : Nat
  report : Nat
  paused : Bool
deriving DecidableEq, Repr

def FiletTable.none : FiletTable :=
  { installed := false, etype := 0, width := 0, rows := 0, base := 0, span := 0, spill := 0, report := 0, paused := false }

/-- A redirect entry (R314, R315): row `row` of table `key` (64 × context + ID) lies in a spill slot of a tile; bad when every
copy of the entry is uncorrectable (R322). -/
structure Redirect where
  key : Nat
  row : Nat
  tile : Nat
  slot : Nat
  bad : Bool
deriving DecidableEq, Repr

/-- A migration under way: the row, its new tile, and its new spill slot (none: home). -/
structure FiletMove where
  key : Nat
  row : Nat
  tile : Nat
  slot : Option Nat
deriving DecidableEq, Repr

/-- A work on a hold list, with its descriptor as it was read at its start (R302, R319). -/
structure HeldWork where
  work : Work
  key : Nat
  desc : List Byte
deriving DecidableEq, Repr

/-- The work a front runs, with the outcome it is to end with. -/
structure FiletCur where
  work : Work
  stroke : Nat
  kind : Nat
  key : Nat
  /-- released from a hold (R319) -/
  washeld : Bool
  status : Nat
  result : Nat
  detail : Nat
  move : Option FiletMove
deriving DecidableEq, Repr

/-- A Filet unit: its queue, a work taken from it that waits for the host, its released works (to restart first), its hold list and its work. -/
structure FiletUnit where
  queue : List Work
  taken : Option Taken
  released : List HeldWork
  held : List HeldWork
  cur : Option FiletCur
deriving DecidableEq, Repr

def FiletUnit.idle : FiletUnit := { queue := [], taken := .none, released := [], held := [], cur := .none }

/-- The context of a front's work in progress, and the stroke it began in. -/
def FiletUnit.busy (k : FiletUnit) : Option (Nat × Nat) :=
  match k.cur with
  | some u => some (u.work.ctx, u.stroke)
  | none => k.taken.map fun x => (x.work.ctx, x.stroke)

/-- A shard's counts for a table in the present stroke: LOAD and its space-saving counters (row, count) (R312). -/
structure FiletLoad where
  load : Nat
  hot : List (Nat × Nat)
deriving DecidableEq, Repr

def FiletLoad.zero : FiletLoad := { load := 0, hot := [] }

/-! ### Folio units (chapter 11) -/

/-- A sequence entry (R335). Chain holds local folio numbers of the home pool. -/
structure FolioSeq where
  opened : Bool
  home : Nat
  dim : Nat
  sfmt : Nat
  len : Nat
  res : Nat
  lockid : Nat
  torn : Bool
  chain : List Nat
  /-- its entry or a chain entry is uncorrectable (R358) -/
  bad : Bool
  /-- locked by a QUANT entry in progress (R344) -/
  quant : Bool
deriving DecidableEq, Repr

def FolioSeq.none : FolioSeq :=
  { opened := false, home := 0, dim := 0, sfmt := 0, len := 0, res := 0, lockid := 0, torn := false, chain := [], bad := false,
    quant := false }

/-- What an APPEND has done so far (R346). -/
structure AppendRun where
  tokens : Nat
  /-- entries not OK -/
  refused : Nat
  /-- STATUS and DETAIL of the first entry not OK -/
  first : Option (Nat × Nat)
  /-- source rows of the entries before -/
  row : Nat
  /-- a failure stopped it -/
  stopped : Bool
  /-- an entry met UNCORR_MEM -/
  uncorr : Bool
deriving DecidableEq, Repr

/-- An APPEND at its front: the descriptor, the entries (index, entry) still to come, and the QUANT entry in progress (index,
sequence, tokens). -/
structure AppendCur where
  desc : List Byte
  entries : List (Nat × Nat)
  run : AppendRun
  going : Option (Nat × Nat × Nat)
deriving DecidableEq, Repr

/-- The work a Folio front runs, with the outcome it is to end with. -/
structure FolioCur where
  work : Work
  stroke : Nat
  kind : Nat
  status : Nat
  result : Nat
  detail : Nat
  /-- the sequence a FETCH reads (context × 4096 + SID) -/
  reads : Option Nat
  /-- its OUT entries or BUCKET output: address and bytes -/
  outs : List (Nat × Nat)
  append : Option AppendCur
deriving DecidableEq, Repr

/-- A Folio unit: its queue, a work taken from it that waits (R338), its work, its zeroed free folios and those being zeroed (local
numbers), and the folios of its tile's DRAM that a CLOSE could not trace (R358). -/
structure FolioUnit where
  queue : List Work
  taken : Option Taken
  cur : Option FolioCur
  free : List Nat
  zeroing : List Nat
  lost : List Nat
deriving DecidableEq, Repr

def FolioUnit.idle : FolioUnit := { queue := [], taken := .none, cur := .none, free := [], zeroing := [], lost := [] }

/-- The context of a front's work in progress, and the stroke it began in. -/
def FolioUnit.busy (k : FolioUnit) : Option (Nat × Nat) :=
  match k.cur with
  | some u => some (u.work.ctx, u.stroke)
  | none => k.taken.map fun x => (x.work.ctx, x.stroke)

end Sys2Proof.Machine
end

