-- ==== Sys2Proof/Machine/LinkParts.lean ====
section
/-!
DEFINITION. The records of the stroke, the ports and links, the slots, the hang detectors and the start-up, as plain data.
Each docstring cites the rule of spec/ that names the piece.
-/
namespace Sys2Proof.Machine

/-! ### The stroke (chapter 2) -/

/-- The anchor view (R41, Table 2-15). -/
structure AnchorView where
  rank : Nat
  x : Nat
  y : Nat
  stamp : Nat
  /-- hops along the path of the view -/
  hops : Nat
deriving DecidableEq, Repr

/-- A slip vote as its symbol carries it (R57). -/
structure Vote where
  x : Nat
  y : Nat
  ctx : Nat
  cause : Nat
deriving DecidableEq, Repr

/-- What the stroke keeps beside its registers. -/
structure Stroke where
  view : Option AnchorView
  /-- the first vote of the present stroke: the next boundary is a slip (R57, R58) -/
  vote : Option Vote
  /-- the present stroke is a slip (R59) -/
  slip : Bool
  /-- STOP was written; it takes effect at the next boundary (R69) -/
  stopping : Bool
  /-- contexts that raised a vote in the present stroke, and their consecutive counts (R67) -/
  voted : List Nat
  consec : SMap Nat
  /-- slots, (context, index), missed in the present and in the preceding stroke (R59) -/
  missedNow : List (Nat × Nat)
  missedPrev : List (Nat × Nat)
  /-- the slew of R44 still to be made, in 2⁻⁸ ns, and the 10 ns ticks it is spread over -/
  slew : Int
  slewTicks : Nat
  /-- the rate trim of R44, in parts per 10⁹ of the reference oscillator, and what of it the ticks have not yet made, in 10⁻⁹ of 2⁻⁸ ns -/
  trim : Int
  trimRest : Int
  /-- JOINING: the clock was set (R449) -/
  clockSet : Bool
  /-- when it was set, and by which port's frame (R449) -/
  setBy : Nat × Nat
  /-- consecutive boundaries at which every valid offset was within 5 ns (R449) -/
  steady : Nat
deriving DecidableEq, Repr

def Stroke.stopped : Stroke :=
  { view := none, vote := none, slip := false, stopping := false, voted := [], consec := [], missedNow := [], missedPrev := [],
    slew := 0, slewTicks := 0, trim := 0, trimRest := 0, clockSet := false, setBy := (0, 0), steady := 0 }

/-! ### Ports and links (chapter 12) -/

/-- What a port keeps beside its registers. -/
structure PortSt where
  /-- training attempts begun (R375) -/
  attempts : Nat
  /-- links whose handshake frame agreed (R374) -/
  agreed : List Nat
  /-- training passed; LIVE at the next boundary (Table 12-5) -/
  passed : Bool
  /-- the far end's stroke does not run, by its handshake or boundary frame (R70, R450) -/
  farStopped : Bool
  /-- RECORD_HASH as it was when HANDSHAKE began (R594) -/
  record : W64
  /-- a boundary frame came in the present stroke (R64) -/
  framed : Bool
  /-- consecutive strokes without one (R64) -/
  missed : Nat
deriving DecidableEq, Repr

def PortSt.idle : PortSt :=
  { attempts := 0, agreed := [], passed := false, farStopped := false, record := 0, framed := false, missed := 0 }

/-- What a package link keeps beside its registers. -/
structure LinkSt where
  /-- t1 of the present stroke, and t2 of the far end's frame (R43, R372) -/
  t1 : W64
  t2 : Option W64
  /-- offset and one-way delay of the present stroke's exchange, in 2⁻⁸ ns (R43) -/
  sync : Option (Int × Int)
  /-- one-way delay measured at ALIGN, in 2⁻⁸ ns (Table 12-6) -/
  delay : Nat
  /-- `time` at which a relock began (R387) -/
  relock : Option Nat
  /-- the far end relocks its end (R387) -/
  farRelock : Bool
  /-- the boundary frame that waits for the link's lock (R74) -/
  late : Option (List Byte)
deriving DecidableEq, Repr

def LinkSt.idle : LinkSt :=
  { t1 := 0, t2 := none, sync := none, delay := 0, relock := none, farRelock := false, late := none }

/-- A stream entry (Table 12-8). -/
structure StreamEntry where
  addr : Nat
  bytes : Nat
  role : Nat
  ken : Bool
  ptype : Nat
  knot : Nat
  waddr : Nat
deriving DecidableEq, Repr

/-- A beat of traffic: its tag and its 64 bytes (Table 12-3). -/
structure Beat where
  tag : W32
  data : List Byte
deriving DecidableEq, Repr

/-- A slot from its prefetch to its end (R377 to R387). -/
structure SlotRun where
  ctx : Nat
  /-- index in the slot section of the context's image -/
  idx : Nat
  e : SlotEntry
  stream : Option StreamEntry
  /-- begun: its first frame has started -/
  begun : Bool
  /-- held by a relock (R387) -/
  held : Bool
  missed : Bool
  /-- frame number of its first frame; later than START_NS gives after a hold -/
  first : Nat
  /-- frame number of the first frame received -/
  rx : Option Nat
  /-- bytes to send, beat by beat, with the tags of bobbin messages -/
  out : List Beat
  /-- beats received, by traffic beat number, and those of them that are the last of their link -/
  got : SMap (List Byte)
  lasts : List Nat
  /-- bobbin messages received: (beat, far bobbin, bytes) -/
  msgs : List (Nat × Nat × Nat)
deriving DecidableEq, Repr

/-! ### Hang detection (chapter 15) -/

/-- A watched object, as CTXH.HANG names it (Table 15-6), for a waiting context. -/
structure Watched where
  ctx : Nat
  kind : Nat
  io : Bool
  tile : Nat
  index : Nat
  /-- who waits: a core, a hart (256 + hart), or a channel (1024 + channel) -/
  who : Nat
deriving DecidableEq, Repr

/-- A wait under watch: the counter at the first boundary it was seen at, and the work strokes it stayed since (R478). -/
structure Watch where
  obj : Watched
  value : Nat
  strokes : Nat
deriving DecidableEq, Repr

/-- A probe remembered (R485): origin x, y, context and PID. -/
structure ProbeId where
  x : Nat
  y : Nat
  ctx : Nat
  pid : Nat
deriving DecidableEq, Repr

/-- The wait-for detector's view of a context: work strokes it has stayed closed, its last PID, and the probe under way. -/
structure Closed where
  strokes : Nat
  pid : Nat
  out : Option Nat
deriving DecidableEq, Repr

def Closed.none : Closed := { strokes := 0, pid := 0, out := Option.none }

/-! ### Start-up and the installation record (chapters 14 and 18) -/

/-- What start-up keeps beside its registers. -/
structure StartSt where
  /-- highest step that has PASSED; none before step 0 has -/
  passed : Option Nat
  /-- the run limits in force: tile MHz, sustained W, peak W; the variant limits before step 1 -/
  limits : Option (Nat × Nat × Nat)
  /-- `time` at which the step began -/
  since : Nat
  /-- outcome the running step is to end with: 0 pass, else CAUSE of START.STAT -/
  outcome : Nat
  /-- the record and position a commit writes (R583) -/
  commit : Option (List Byte × Nat × Nat)
deriving DecidableEq, Repr

def StartSt.fresh : StartSt :=
  { passed := none, limits := none, since := 0, outcome := 0, commit := none }

end Sys2Proof.Machine
end

