-- ==== Sys2Proof/Machine/PowerParts.lean ====
section
/-!
DEFINITION. What the power controller keeps beside its registers (R506 to R525), as plain data. Powers are counted in units of
1 ÷ `wattUnits` W, in which every quantity of R506 to R519 but A_sust is a whole number.
-/
namespace Sys2Proof.Machine

/-- Units of power in one watt. -/
def wattUnits : Nat := 512000000 * 720720 * 500

/-- The power controller's own state. A list of ticks or bins holds the newest first. -/
structure PowerSt where
  /-- Rref (R518) -/
  ref : Nat
  /-- step 1 began: Rref becomes the estimate of the tick that ends next (R518) -/
  refDue : Bool
  /-- P of the latest 500 ticks, as estimated; and as A_peak and A_ramp reckon them (R511) -/
  ticks : List Nat
  peakPast : List Nat
  rampPast : List Nat
  /-- D of the latest 500 ticks (R518) -/
  demand : List Nat
  /-- sums of P over the latest 999 bins of 1 ms, as estimated and as A_sust reckons them; those of the current bin, and its ticks -/
  bins : List Nat
  sustPast : List Nat
  bin : Nat
  sustBin : Nat
  binTicks : Nat
  /-- PEAK and SUST of the latest decision, in hundredths of a watt; MGMT.PEAK_W and SUST_W, and TCAP, as they were then -/
  peak : Nat
  sust : Nat
  mgmt : Nat × Nat
  tcapWas : Nat
  /-- sum of P over all ticks since package reset -/
  energy : Nat
  /-- TCAP in hundredths of a watt; 0 is none (R524) -/
  tcap : Nat
  /-- every sample since the last 1 ms update was below 97 °C (R524) -/
  cool : Bool
  /-- consecutive samples at or above 115 °C (R525) -/
  hot : Nat
  /-- the latest junction points, in 1/8 °C (R523, Table 17-5) -/
  points : List (BitVec 16)
  /-- tiles whose clock is stretched, and tile cycles lost to stretches, per tile (R522) -/
  stretched : List Nat
  lost : SMap Nat
deriving DecidableEq, Repr

def PowerSt.fresh : PowerSt :=
  { ref := 0, refDue := false, ticks := [], peakPast := [], rampPast := [], demand := [], bins := [], sustPast := [], bin := 0, sustBin := 0,
    binTicks := 0, peak := 0, sust := 0, mgmt := (0, 0), tcapWas := 0, energy := 0, tcap := 0, cool := true, hot := 0, points := [],
    stretched := [], lost := [] }

end Sys2Proof.Machine
end

