-- ==== Sys2Proof/Machine/RackParts.lean ====
section
/-!
DEFINITION. The Steward's side-band state, and what lies outside the package: the TMCs, the rack managers, the shelves, the CDU
and the switch trays (chapters 17 and 18), as plain data.
-/
namespace Sys2Proof.Machine

/-- What the Steward keeps beside its registers: its MCTP endpoint ID (R539) and the recovery image received so far (R544). -/
structure StwSt where
  eid : Byte
  image : List Byte
deriving DecidableEq, Repr

def StwSt.fresh : StwSt := { eid := 0, image := [] }

/-- The lease of a TMC (R548, TMC.LEASE): its holder (0 none, 1 RM-A, 2 RM-B) and, in rack time, when it expires; when the last
one expired, if that is how it ended. Of a lease that is held: since when, and the SEQ of the latest request granted (R565). -/
structure Lease where
  holder : Nat
  expires : Nat
  since : Nat
  seq : Nat
  released : Bool
  expired : Option Nat
deriving DecidableEq, Repr

def Lease.none : Lease := { holder := 0, expires := 0, since := 0, seq := 0, released := false, expired := Option.none }

/-- Caps of a package as commanded: PEAK_W, SUST_W, HOLDOFF; 0 is no cap. -/
structure Caps where
  peak : Nat
  sust : Nat
  holdoff : Bool
deriving DecidableEq, Repr

def Caps.zero : Caps := { peak := 0, sust := 0, holdoff := false }

/-- A report of R542: the measured 1 s mean, the largest 1 ms mean, the estimated 1 s mean; how many in a row exceeded. -/
structure PowerReport where
  mean : Nat
  largest : Nat
  estimate : Nat
  run : Nat
deriving DecidableEq, Repr

def PowerReport.zero : PowerReport := { mean := 0, largest := 0, estimate := 0, run := 0 }

/-- One TMC (Tables 17-3, 17-5, 17-8, 17-9). Maps and lists over its packages go by slot. -/
structure Tmc where
  powered : Bool
  /-- it has failed in hardware (R564) -/
  failed : Bool
  lease : Lease
  fallback : Nat
  target : Nat
  minPct : Nat
  valve : Nat
  absent : Nat
  estimateLow : Nat
  shelfGood : Nat
  flowLost : Bool
  fallbackOn : Bool
  watchdog : Bool
  /-- slots whose package is held in reset by the holder or for lost flow; the tray's packages are held by the shelf rule -/
  heldBy : Nat
  heldShelf : Bool
  /-- rack time since when two shelves or more are good (R557) -/
  goodSince : Nat
  caps : SMap Caps
  /-- SEQ of its latest SET_MGMT -/
  seq : Nat
  /-- side-band port table: (state, cause) by 16 × slot + port -/
  ports : SMap (Nat × Nat)
  /-- PKG.FAIL and START.STAT as last reported, by slot -/
  fails : SMap W64
  boots : SMap W64
  reports : SMap PowerReport
  /-- the tray's own sensors as last read; the junction points and PWR.EST of each slot's package as last read (Table 17-5) -/
  sensors : List Nat
  points : SMap (List Nat)
  /-- its log: rack time and the bit of TMC.STATUS that was set -/
  log : List (Nat × Nat)
deriving DecidableEq, Repr

/-- A TMC after its reset (Table 17-9). -/
def Tmc.fresh : Tmc :=
  { powered := true, failed := false, lease := Lease.none, fallback := 0x48E, target := 0x30, minPct := 0x14, valve := 0x64, absent := 0,
    estimateLow := 0, shelfGood := 0, flowLost := false, fallbackOn := false, watchdog := false, heldBy := 0, heldShelf := false, goodSince := 0,
    caps := [], seq := 0, ports := [], fails := [], boots := [], reports := [], sensors := [], points := [], log := [] }

/-- What a Redfish event or a task reports. -/
inductive RackEvent
  /-- ESTIMATE_LOW of a slot (R542) -/
  | estimateLow (tray slot : Nat)
  /-- the number of good shelves as polled (R556) -/
  | shelves (good : Nat)
  /-- a tank level alarm (R572) -/
  | tankLevel
  /-- a pump transfer (R558) -/
  | pump (duty : Nat)
  /-- the switch trays report different hashes (R585) -/
  | recordsDiffer
  /-- manager m became active, or standby (R549 to R551) -/
  | active (m : Nat)
  | standby (m : Nat)
  /-- a heartbeat path is lost (R550) -/
  | pathAlarm (path : Nat)
  /-- a self-diagnosis failed and no handover was possible (R551) -/
  | diagnosis (m : Nat)
  /-- the task of a planned switchover; REVERTED names the TMCs that refused (R554) -/
  | switched
  | reverted (trays : List Nat)
  /-- a firmware update was started (Table 17-7) -/
  | update
deriving DecidableEq, Repr

/-- What the managers share (R552): configuration, accounts, sessions, subscriptions and the event log. -/
structure RackCfg where
  npl : Nat
  /-- SetPoint of each package's cap, by 4 × tray + slot (R561) -/
  setPoints : SMap Nat
  /-- outlet target of each tray as last set through the service (R545) -/
  cooling : SMap Nat
  /-- accounts: user and role -/
  accounts : List (Nat × RoleName)
  /-- sessions: token and user -/
  sessions : List (Nat × Nat)
  nextToken : Nat
  /-- subscriptions, by number -/
  subs : List Nat
  nextSub : Nat
  /-- caps of R556 are in force -/
  capped : Bool
  events : List RackEvent
deriving DecidableEq, Repr

/-- As shipped: NPL 14,000 W (R556), and one Administrator, user 0. -/
def RackCfg.fresh : RackCfg :=
  { npl := 14000, setPoints := [], cooling := [], accounts := [(0, RoleName.administrator)], sessions := [], nextToken := 1, subs := [],
    nextSub := 1, capped := false, events := [] }

/-- The last heartbeat heard from the other manager (R547). -/
structure Heard where
  active : Bool
  healthy : Bool
  synced : Bool
  seq : Nat
  leases : Nat
  handover : Bool
deriving DecidableEq, Repr

/-- One rack manager (R547 to R555). -/
structure Rm where
  active : Bool
  healthy : Bool
  synced : Bool
  seq : Nat
  heard : Option Heard
  /-- rack time of the last heartbeat heard, or of its start; of the last one sent; of the last renewal (Table 17-6) -/
  heardAt : Nat
  beatAt : Option Nat
  renewedAt : Option Nat
  /-- it started with the rack's power, and no manager has been active since (R552) -/
  cold : Bool
  /-- the active is declared lost (R550) -/
  peerLost : Bool
  /-- HANDOVER goes out in its heartbeats (R551) -/
  handover : Bool
  /-- it held fewer than 7 leases at its last renewal (R549) -/
  short : Bool
  alarm : Bool
  cfg : RackCfg
deriving DecidableEq, Repr

def Rm.fresh : Rm :=
  { active := false, healthy := true, synced := false, seq := 0, heard := none, heardAt := 0, beatAt := none,
    renewedAt := none, cold := true, peerLost := false, handover := false, short := false,
    alarm := false, cfg := RackCfg.fresh }

/-- Path of a face of a switch tray (R578). -/
inductive TrayPath
  | none | loop | optic
deriving DecidableEq, Repr

/-- A switch tray: its record and position (R, ST), and the path set at power-on. -/
structure SwitchTray where
  record : Option (List Byte × Nat × Nat)
  path : TrayPath
deriving DecidableEq, Repr

def SwitchTray.fresh : SwitchTray := { record := Option.none, path := .none }

/-- The rack around the package. -/
structure RackSt where
  /-- rack time, in 10 ns units -/
  now : Nat
  /-- tray and slot that the package sits in -/
  place : Nat × Nat
  /-- the package has no supply -/
  unpowered : Bool
  tmcs : SMap Tmc
  /-- RM-A and RM-B -/
  rmA : Rm
  rmB : Rm
  /-- a planned switchover: the manager that handed over, 0 RM-A or 1 RM-B (R554) -/
  switchover : Option Nat
  /-- rack time of that handover -/
  switchAt : Nat
  /-- CDU: duty pump, pumps that run, supply set point in °C, tank alarm (R558, R571, R572) -/
  duty : Nat
  pumps : List Nat
  supply : Nat
  tankAlarm : Bool
  /-- good shelves as the active last read them over PMBus (R556) -/
  shelves : Nat
  trays : SMap SwitchTray
deriving DecidableEq, Repr

def RackSt.fresh : RackSt :=
  { now := 0, place := (0, 0), unpowered := false, tmcs := [], rmA := Rm.fresh, rmB := Rm.fresh, switchover := none, switchAt := 0, duty := 0, pumps := [0],
    supply := 30, tankAlarm := false, shelves := 0, trays := [] }

end Sys2Proof.Machine
end

