-- ==== Sys2Proof/Machine/Regs.lean ====
section
/-!
DEFINITION. The BAR0 register table: one name for every register of the register map tables, its BAR0 offset, its
fields with their access codes and reset values. The rows follow Tables 1-9 to 18-8 of spec/; the comment beside each
constructor gives the register's name there and the table (or rule) that maps it.
-/
namespace Sys2Proof.Machine

/-- The access codes of Table 0-3 (a bit that no field lists is RZ, R10; no register of the spec has a WP field). -/
inductive Access
  | RW | RO | W1C | W1S | WO | LK | RC | WZ
deriving DecidableEq, Repr

/-- The field names of the register tables. -/
inductive FName
  | ADDR | AGE | ALL | ALLOC_REFUSED | ALLOW_W | ARG | ARM | ARMED | ARM_REFUSED | ARRAYS_ACTIVE | ARRAYS_HEALTHY | ARRAY_SPARES
  | ASYM | AUTONOMOUS | BAD_WRITE | BALLAST | BANKS_SHORT | BASE | BASE_F | BASE_G | BIND_REFUSED | BOUND | BUSY | BYTES
  | CAP_MGMT | CAP_PEAK | CAP_SUST | CAP_UNMET | CAUSE | CFG_ERR | CHAN | CHANGES | CHECK | CLASS | CLASS0 | CLASS1
  | CLASS10 | CLASS11 | CLASS12 | CLASS13 | CLASS14 | CLASS15 | CLASS2 | CLASS3 | CLASS4 | CLASS5 | CLASS6 | CLASS7
  | CLASS8 | CLASS9 | COMBINE | COMMIT | CONTEXT | CONTRIB | CORE | CORRECTED | COUNT | COUNT_LO | CTX | CTXMASK
  | CTYPE | CYCLES | DATA | DEGRADED | DELAY | DEPTH_M1 | DIR | DISABLING | DISSENT | DOWN | DROOP_MV | DROPPED
  | DURING_WORK | ELAPSED | ENABLE | ENGINE | ENTRY | EPC | EPOCH | EVENTS | EXPECT | FAILED | FAMILY | FAR_PORT
  | FAR_X | FAR_Y | FENCED | FIRST | FLOOR_SHORT | FLOOR_W | FOUND | FOUND_ARMED | FRAMES_LOST | FREE | FREE_G | FULL
  | GATE | GO | GROUP | GUARD_US | H | HASH | HELD | HITS | HMODE | HOLDOFF | HOPS | HORIZON_US
  | HOST_ERR | INDEX | INIT | INSTALLED | INV | INVERT | IN_HANDLER | IO | KDB_REFUSED | KIND | KNOT | LAG
  | LANEMAP | LANES | LARGEST_G | LAST_SEQ | LAST_US | LATE_VOTE | LEN | LEND | LEN_M1 | LEVEL | LEVELS | LIMIT
  | LINE | LINKS_UP | LINK_UP | LOCK | LOCKED | LOW | MAP_ERR | MARGIN | MASK | MAX_US | MEAN_1MS_W | MEAN_1S_W
  | MEMBER | MERGED | MISSED | MISSED_BOUNDARY | MISSING | MJ | MODE | MSIX_ON | NIB_ACTIVE | NIB_HEALTHY | NIB_SPARES | NO_SPACE
  | OFFSET | OPEN | ORDER_ERR | OVERFLOW | OWNED | OWNER | PAGES | PATH | PAUSED | PC | PEAK_W | PEND
  | PENDBITS | PENDING | PENDING_DB | PERIOD_MIN | PERIOD_US | PHASE | PHYS | PORT | POS | PRECODE | PRIO | Q
  | QUEUED | QUILL_ACTIVE | RACK | RAMP | RAMP_BROKEN | RANK | RATE | RATE_WPS | READY | RECEIVED | RECORD_VALID | REDIR_FREE
  | REDIR_UE | REFUSED | REF_W | REMOTE_DROP | REMOTE_IN | REPORT_LOST | RESET | RESETS | RESET_PC | RESULT | RETRAIN | ROUNDS
  | ROWS_SHORT | RUN | RUNNING | S23 | S31 | SATURATED | SCRUB | SELF | SENSOR | SEQ | SEQ_FREE | SHUTDOWN
  | SIZE_G | SIZE_LOG2 | SKEW_ALARM | SLIP | SLIPS | SLIP_LIMIT | SLOT | SLOTS_LOG2 | SLOTS_MISSED | SNAP_LO | SOURCE | STAGE_UE
  | STALE | START | STATE | STATUS | STEP | STEPPING | STOP | STRAP_SLOT | STRAP_TRAY | STRAP_VALID | STREAM_ERR | STRETCHED
  | STROKE_LO | SUSTAINED_W | SUST_W | TABLE_UE | TCAP_W | TEST | TEST_REFUSED | THERMAL | THRESHOLD | THROTTLE | TICK_W | TILE
  | TILE_MHZ | TIMING_ERR | TMC_UP | TORN | TRAY | TRIG | UNANNOUNCED_OVERRUN | UNCORR | UNIT | UNITS | UNMATCHED | USED
  | VA | VALID | VALUE | VARIANT | VERSION | VF_ON | VOTE_SLIP | WAITFOR | WATTS | WEIGHT | WELL | WELL_LISTED
  | WINDOW | WO_VIOLATION | WRITE | X | X_SPAN | Y | Y_SPAN
deriving DecidableEq, Repr

/-- One field of a register: bits [hi:lo], its access code and its value after package reset. -/
structure Field where
  name : FName
  hi : Nat
  lo : Nat
  acc : Access
  reset : Nat
deriving DecidableEq, Repr

/-- Every BAR0 register. Index letters as in the map tables: t tile (for Feed, 32 is the IO die), d die, c context
(window), others as the table gives them. -/
inductive Reg
  | idPart  -- ID.PART, T1-9
  | idVariant  -- ID.VARIANT, T1-9
  | idUnits  -- ID.UNITS, T1-9
  | idPosition  -- ID.POSITION, T1-9
  | idStatus  -- ID.STATUS, T1-9
  | strokeCtrl  -- STROKE.CTRL, T2-9
  | strokeTiming  -- STROKE.TIMING, T2-9
  | strokeCount  -- STROKE.COUNT, T2-9
  | strokePhase  -- STROKE.PHASE, T2-9
  | strokeStatus  -- STROKE.STATUS, T2-9
  | strokeSlips  -- STROKE.SLIPS, T2-9
  | strokeSlipOrigin  -- STROKE.SLIP_ORIGIN, T2-9
  | strokeSlipCfg  -- STROKE.SLIP_CFG, T2-9
  | strokeAnchor  -- STROKE.ANCHOR, T2-9
  | strokeDissent  -- STROKE.DISSENT, T2-9
  | strokeOffset (p : Nat)  -- STROKE.OFFSET, T2-9
  | strokeImage (c : Nat)  -- STROKE.IMAGE, T2-9
  | strokeImgStat (c : Nat)  -- STROKE.IMG_STAT, T2-9
  | memRoot (c : Nat)  -- MEM.ROOT, T3-8
  | memInval  -- MEM.INVAL, T3-8
  | memInvalStat  -- MEM.INVAL_STAT, T3-8
  | memFault  -- MEM.FAULT, T3-8
  | tmemCeCount (t : Nat)  -- TMEM.CE_COUNT, T3-8
  | tmemUeLog (t : Nat)  -- TMEM.UE_LOG, T3-8
  | tmemScrub (t : Nat)  -- TMEM.SCRUB, T3-8
  | tmemBackinv (t : Nat)  -- TMEM.BACKINV, T3-8
  | tmemPoison (t : Nat)  -- TMEM.POISON, T3-8
  | quillHart (d h : Nat)  -- QUILL.HART, T3-8
  | quillStatus (d : Nat)  -- QUILL.STATUS, T3-8
  | quillMcheck (d : Nat)  -- QUILL.MCHECK, T3-8
  | nibCore (t n : Nat)  -- NIB.CORE, T4-9
  | nibStatus (t : Nat)  -- NIB.STATUS, T4-9
  | nibFailLog (t : Nat)  -- NIB.FAIL_LOG, T4-9
  | ctxwCmpl (c : Nat)  -- CTXW.CMPL, T4-9
  | ctxwCmplNext (c : Nat)  -- CTXW.CMPL_NEXT, T4-9
  | ctxwCmplStat (c : Nat)  -- CTXW.CMPL_STAT, T4-9
  | ctxwNibExc (c : Nat)  -- CTXW.NIB_EXC, T4-9
  | tambArray (t a : Nat)  -- TAMB.ARRAY, T6-5
  | tambStatus (t : Nat)  -- TAMB.STATUS, T6-5
  | tambFailLog (t : Nat)  -- TAMB.FAIL_LOG, T6-5
  | tambBallast (t : Nat)  -- TAMB.BALLAST, T6-5
  | tambWorkMacs (t : Nat)  -- TAMB.WORK_MACS, T6-5
  | tambBallastMacs (t : Nat)  -- TAMB.BALLAST_MACS, T6-5
  | poolCtrl (c : Nat)  -- POOL.CTRL, T7-6
  | poolSeed (c : Nat)  -- POOL.SEED, T7-6
  | poolPos (c : Nat)  -- POOL.POS, T7-6
  | poolStatus  -- POOL.STATUS, T7-6
  | tmemZmapHits (t : Nat)  -- TMEM.ZMAP_HITS, T7-6
  | bobCfg (t l : Nat)  -- BOB.CFG, T8-3
  | bobState (t l : Nat)  -- BOB.STATE, T8-3
  | knotCfg (t l : Nat)  -- KNOT.CFG, T8-3
  | knotVal (t l : Nat)  -- KNOT.VAL, T8-3
  | tbobPool (t : Nat)  -- TBOB.POOL, T8-3
  | tbobFree (t : Nat)  -- TBOB.FREE, T8-3
  | tbobStatus (t : Nat)  -- TBOB.STATUS, T8-3
  | tbobDrops (t : Nat)  -- TBOB.DROPS, T8-3
  | feedCh (t n : Nat)  -- FEED.CH, T9-7
  | feedBeats (t n : Nat)  -- FEED.BEATS, T9-7
  | feedStatus (t : Nat)  -- FEED.STATUS, T9-7
  | feedTimer (t : Nat)  -- FEED.TIMER, T9-7
  | feedwDoorbell (c : Nat)  -- FEEDW.DOORBELL, T9-7
  | feedwDbStat (c : Nat)  -- FEEDW.DB_STAT, T9-7
  | feedwBuddy (c : Nat)  -- FEEDW.BUDDY, T9-7
  | filetAlloc (t : Nat)  -- FILET.ALLOC, T10-8
  | filetUnit (t : Nat)  -- FILET.UNIT, T10-8
  | filetServed (t : Nat)  -- FILET.SERVED, T10-8
  | filetStatus (t : Nat)  -- FILET.STATUS, T10-8
  | filetwTables (c : Nat)  -- FILETW.TABLES, T10-8
  | filetwPaused (c : Nat)  -- FILETW.PAUSED, T10-8
  | folioPool (t : Nat)  -- FOLIO.POOL, T11-8
  | folioFree (t : Nat)  -- FOLIO.FREE, T11-8
  | folioUnit (t : Nat)  -- FOLIO.UNIT, T11-8
  | folioAlloc (t : Nat)  -- FOLIO.ALLOC, T11-8
  | folioStatus (t : Nat)  -- FOLIO.STATUS, T11-8
  | folioDone (t : Nat)  -- FOLIO.DONE, T11-8
  | folioQuota (c : Nat)  -- FOLIO.QUOTA, T11-8
  | foliowStat (c : Nat)  -- FOLIOW.STAT, T11-8
  | foliowExhaust (c : Nat)  -- FOLIOW.EXHAUST, T11-8
  | linkState (d i : Nat)  -- LINK.STATE, T12-10
  | linkFec (d i : Nat)  -- LINK.FEC, T12-10
  | linkSer (d i : Nat)  -- LINK.SER, T12-10
  | linkRelock (d i : Nat)  -- LINK.RELOCK, T12-10
  | linkPg (d i g : Nat)  -- LINK.PG, T12-10
  | linkPgerr (d i g : Nat)  -- LINK.PGERR, T12-10
  | linkdStatus (d : Nat)  -- LINKD.STATUS, T12-10
  | portCfg (p : Nat)  -- PORT.CFG, T12-10
  | portState (p : Nat)  -- PORT.STATE, T12-10
  | portCtrl (p : Nat)  -- PORT.CTRL, T12-10
  | portCount (p : Nat)  -- PORT.COUNT, T12-10
  | linkwStreams (c : Nat)  -- LINKW.STREAMS, T12-10
  | linkwStat (c : Nat)  -- LINKW.STAT, T12-10
  | hostwId (c : Nat)  -- HOSTW.ID, T13-8
  | hostwHwin (c : Nat)  -- HOSTW.HWIN, T13-8
  | hostwKnotDb (c : Nat)  -- HOSTW.KNOT_DB, T13-8
  | hostwStat (c : Nat)  -- HOSTW.STAT, T13-8
  | hostwHwinFault (c : Nat)  -- HOSTW.HWIN_FAULT, T13-8
  | vmapMap (c i : Nat)  -- VMAP.MAP, T13-8
  | vmapHit (c i : Nat)  -- VMAP.HIT, T13-8
  | vecwArmed (c k : Nat)  -- VECW.ARMED, T13-8
  | vecwPend (c k : Nat)  -- VECW.PEND, T13-8
  | vecwStat (c : Nat)  -- VECW.STAT, T13-8
  | ioPcieStat  -- IO.PCIE_STAT, T13-8
  | ioPwin  -- IO.PWIN, T13-8
  | ioStatus  -- IO.STATUS, T13-8
  | pfvecArmed (k : Nat)  -- PFVEC.ARMED, T13-8
  | pfvecPend (k : Nat)  -- PFVEC.PEND, T13-8
  | startCmd  -- START.CMD, T14-7
  | startStat  -- START.STAT, T14-7
  | startRunlim  -- START.RUNLIM, T14-7
  | startReport  -- START.REPORT, T14-7
  | stwFwVersion  -- STW.FW_VERSION, T14-7
  | stwBoots  -- STW.BOOTS, T14-7
  | stwDefectCnt  -- STW.DEFECT_CNT, T14-7
  | stwDefect (i : Nat)  -- STW.DEFECT, T14-7
  | tstartResult (t : Nat)  -- TSTART.RESULT, T14-7
  | ctxfCause (c : Nat)  -- CTXF.CAUSE, T15-5
  | ctxfDetail (c : Nat)  -- CTXF.DETAIL, T15-5
  | ctxrCtrl (c : Nat)  -- CTXR.CTRL, T15-5
  | ctxrPending (c : Nat)  -- CTXR.PENDING, T15-5
  | ctxrTime (c : Nat)  -- CTXR.TIME, T15-5
  | ctxhCfg (c : Nat)  -- CTXH.CFG, T15-5
  | ctxhHang (c : Nat)  -- CTXH.HANG, T15-5
  | pkgFail  -- PKG.FAIL, T15-5
  | pwrCtrl  -- PWR.CTRL, T16-3
  | pwrCap  -- PWR.CAP, T16-3
  | pwrMgmt  -- PWR.MGMT, T16-3
  | pwrRamp  -- PWR.RAMP, T16-3
  | pwrClass  -- PWR.CLASS, T16-3
  | pwrEst  -- PWR.EST, T16-3
  | pwrState  -- PWR.STATE, T16-3
  | pwrStatus  -- PWR.STATUS, T16-3
  | pwrTemp  -- PWR.TEMP, T16-3
  | pwrEnergy  -- PWR.ENERGY, T16-3
  | pwrW (i : Nat)  -- PWR.W, T16-3
  | pwrStatic (j : Nat)  -- PWR.STATIC, T16-3
  | pwrDroop (t : Nat)  -- PWR.DROOP, T16-3
  | pwrwTicks (c : Nat)  -- PWRW.TICKS, T16-3
  | pwrwCycles (c : Nat)  -- PWRW.CYCLES, T16-3
  | stwSb  -- STW.SB, T17-8
  | stwMboxStat  -- STW.MBOX_STAT, T17-8
  | recStage (i : Nat)  -- REC.STAGE, T18-7
  | recPos  -- REC.POS, T18-7
  | recCtrl  -- REC.CTRL, T18-7
  | recStatus  -- REC.STATUS, T18-7
  | recHash  -- REC.HASH, T18-7
  | recData (i : Nat)  -- REC.DATA, T18-7
  | stwMbox (i : Nat)  -- STW.MBOX, T17-8
  | pfMsixAddr (i : Nat)  -- PF MSI-X table, message address, R416
  | pfMsixData (i : Nat)  -- PF MSI-X table, message data and vector control, R416
  | pfPba (k : Nat)  -- PF PBA, R416
  | vfMsixAddr (c i : Nat)  -- VF MSI-X table, message address, R416
  | vfMsixData (c i : Nat)  -- VF MSI-X table, message data and vector control, R416
  | vfPba (c k : Nat)  -- VF PBA, R416
deriving DecidableEq, Repr

/-- Base of a Feed engine's registers: a tile's block + 0xA000, and 0x1_0000 in the IO die's block (T13-3). -/
def feedBase (t : Nat) : Nat := if t < 32 then 0x1000000 + t * 0x100000 + 0xA000 else 0x810000

/-- BAR0 offset of a register: block base + instance × stride + register offset (T13-3). -/
def Reg.addr : Reg → Nat
  | .idPart => 0x00000000
  | .idVariant => 0x00000008
  | .idUnits => 0x00000010
  | .idPosition => 0x00000018
  | .idStatus => 0x00000020
  | .strokeCtrl => 0x200000 + 0x0000
  | .strokeTiming => 0x200000 + 0x0008
  | .strokeCount => 0x200000 + 0x0010
  | .strokePhase => 0x200000 + 0x0018
  | .strokeStatus => 0x200000 + 0x0020
  | .strokeSlips => 0x200000 + 0x0028
  | .strokeSlipOrigin => 0x200000 + 0x0030
  | .strokeSlipCfg => 0x200000 + 0x0038
  | .strokeAnchor => 0x200000 + 0x0040
  | .strokeDissent => 0x200000 + 0x0048
  | .strokeOffset p => 0x200000 + 0x0100 + 8 * p
  | .strokeImage c => 0x200000 + 0x0200 + 16 * c
  | .strokeImgStat c => 0x200000 + 0x0208 + 16 * c
  | .memRoot c => 0x00001000 + 8 * c
  | .memInval => 0x00001100
  | .memInvalStat => 0x00001108
  | .memFault => 0x00001110
  | .tmemCeCount t => 0x1000000 + t * 0x100000 + 0x8000
  | .tmemUeLog t => 0x1000000 + t * 0x100000 + 0x8008
  | .tmemScrub t => 0x1000000 + t * 0x100000 + 0x8010
  | .tmemBackinv t => 0x1000000 + t * 0x100000 + 0x8018
  | .tmemPoison t => 0x1000000 + t * 0x100000 + 0x8020
  | .quillHart d h => 0x3000000 + d * 0x400000 + 0x0000 + 16 * h
  | .quillStatus d => 0x3000000 + d * 0x400000 + 0x1000
  | .quillMcheck d => 0x3000000 + d * 0x400000 + 0x1008
  | .nibCore t n => 0x1000000 + t * 0x100000 + 0x4000 + 16 * n
  | .nibStatus t => 0x1000000 + t * 0x100000 + 0x4100
  | .nibFailLog t => 0x1000000 + t * 0x100000 + 0x4108
  | .ctxwCmpl c => 0x3800000 + c * 0x10000 + 0x0400
  | .ctxwCmplNext c => 0x3800000 + c * 0x10000 + 0x0408
  | .ctxwCmplStat c => 0x3800000 + c * 0x10000 + 0x0410
  | .ctxwNibExc c => 0x3800000 + c * 0x10000 + 0x0418
  | .tambArray t a => 0x1000000 + t * 0x100000 + 0xC000 + 8 * a
  | .tambStatus t => 0x1000000 + t * 0x100000 + 0xC080
  | .tambFailLog t => 0x1000000 + t * 0x100000 + 0xC088
  | .tambBallast t => 0x1000000 + t * 0x100000 + 0xC090
  | .tambWorkMacs t => 0x1000000 + t * 0x100000 + 0xC098
  | .tambBallastMacs t => 0x1000000 + t * 0x100000 + 0xC0A0
  | .poolCtrl c => 0x00002000 + 8 * c
  | .poolSeed c => 0x00002080 + 8 * c
  | .poolPos c => 0x00002100 + 8 * c
  | .poolStatus => 0x00002180
  | .tmemZmapHits t => 0x1000000 + t * 0x100000 + 0x8028
  | .bobCfg t l => 0x1000000 + t * 0x100000 + 0x10000 + 16 * l
  | .bobState t l => 0x1000000 + t * 0x100000 + 0x10008 + 16 * l
  | .knotCfg t l => 0x1000000 + t * 0x100000 + 0x12000 + 16 * l
  | .knotVal t l => 0x1000000 + t * 0x100000 + 0x12008 + 16 * l
  | .tbobPool t => 0x1000000 + t * 0x100000 + 0x13000
  | .tbobFree t => 0x1000000 + t * 0x100000 + 0x13008
  | .tbobStatus t => 0x1000000 + t * 0x100000 + 0x13010
  | .tbobDrops t => 0x1000000 + t * 0x100000 + 0x13018
  | .feedCh t n => feedBase t + 16 * n
  | .feedBeats t n => feedBase t + 0x0008 + 16 * n
  | .feedStatus t => feedBase t + 0x0400
  | .feedTimer t => feedBase t + 0x0408
  | .feedwDoorbell c => 0x3800000 + c * 0x10000 + 0x0500
  | .feedwDbStat c => 0x3800000 + c * 0x10000 + 0x0508
  | .feedwBuddy c => 0x3800000 + c * 0x10000 + 0x0510
  | .filetAlloc t => 0x1000000 + t * 0x100000 + 0xE000
  | .filetUnit t => 0x1000000 + t * 0x100000 + 0xE008
  | .filetServed t => 0x1000000 + t * 0x100000 + 0xE010
  | .filetStatus t => 0x1000000 + t * 0x100000 + 0xE018
  | .filetwTables c => 0x3800000 + c * 0x10000 + 0x0600
  | .filetwPaused c => 0x3800000 + c * 0x10000 + 0x0608
  | .folioPool t => 0x1000000 + t * 0x100000 + 0x14000
  | .folioFree t => 0x1000000 + t * 0x100000 + 0x14008
  | .folioUnit t => 0x1000000 + t * 0x100000 + 0x14010
  | .folioAlloc t => 0x1000000 + t * 0x100000 + 0x14018
  | .folioStatus t => 0x1000000 + t * 0x100000 + 0x14020
  | .folioDone t => 0x1000000 + t * 0x100000 + 0x14028
  | .folioQuota c => 0x00003000 + 8 * c
  | .foliowStat c => 0x3800000 + c * 0x10000 + 0x0700
  | .foliowExhaust c => 0x3800000 + c * 0x10000 + 0x0708
  | .linkState d i => 0x400000 + d * 0x40000 + 0x0000 + 64 * i
  | .linkFec d i => 0x400000 + d * 0x40000 + 0x0008 + 64 * i
  | .linkSer d i => 0x400000 + d * 0x40000 + 0x0010 + 64 * i
  | .linkRelock d i => 0x400000 + d * 0x40000 + 0x0018 + 64 * i
  | .linkPg d i g => 0x400000 + d * 0x40000 + 0x0020 + 64 * i + 8 * g
  | .linkPgerr d i g => 0x400000 + d * 0x40000 + 0x0030 + 64 * i + 8 * g
  | .linkdStatus d => 0x400000 + d * 0x40000 + 0x0400
  | .portCfg p => 0x400000 + 0x10000 + 32 * p
  | .portState p => 0x400000 + 0x10008 + 32 * p
  | .portCtrl p => 0x400000 + 0x10010 + 32 * p
  | .portCount p => 0x400000 + 0x10018 + 32 * p
  | .linkwStreams c => 0x3800000 + c * 0x10000 + 0x0800
  | .linkwStat c => 0x3800000 + c * 0x10000 + 0x0808
  | .hostwId c => 0x3800000 + c * 0x10000 + 0x0000
  | .hostwHwin c => 0x3800000 + c * 0x10000 + 0x0008
  | .hostwKnotDb c => 0x3800000 + c * 0x10000 + 0x0010
  | .hostwStat c => 0x3800000 + c * 0x10000 + 0x0018
  | .hostwHwinFault c => 0x3800000 + c * 0x10000 + 0x0020
  | .vmapMap c i => 0x3800000 + c * 0x10000 + 0x1000 + 16 * i
  | .vmapHit c i => 0x3800000 + c * 0x10000 + 0x1008 + 16 * i
  | .vecwArmed c k => 0x3800000 + c * 0x10000 + 0x1800 + 8 * k
  | .vecwPend c k => 0x3800000 + c * 0x10000 + 0x1810 + 8 * k
  | .vecwStat c => 0x3800000 + c * 0x10000 + 0x1820
  | .ioPcieStat => 0x800000 + 0x0000
  | .ioPwin => 0x800000 + 0x0008
  | .ioStatus => 0x800000 + 0x0010
  | .pfvecArmed k => 0x800000 + 0x0100 + 8 * k
  | .pfvecPend k => 0x800000 + 0x0120 + 8 * k
  | .startCmd => 0x00000100
  | .startStat => 0x00000108
  | .startRunlim => 0x00000110
  | .startReport => 0x00000118
  | .stwFwVersion => 0x100000 + 0x0000
  | .stwBoots => 0x100000 + 0x0008
  | .stwDefectCnt => 0x100000 + 0x0010
  | .stwDefect i => 0x100000 + 0x10000 + 8 * i
  | .tstartResult t => 0x1000000 + t * 0x100000 + 0x0000
  | .ctxfCause c => 0x3800000 + c * 0x10000 + 0x0100
  | .ctxfDetail c => 0x3800000 + c * 0x10000 + 0x0108
  | .ctxrCtrl c => 0x3800000 + c * 0x10000 + 0x0110
  | .ctxrPending c => 0x3800000 + c * 0x10000 + 0x0118
  | .ctxrTime c => 0x3800000 + c * 0x10000 + 0x0120
  | .ctxhCfg c => 0x3800000 + c * 0x10000 + 0x0128
  | .ctxhHang c => 0x3800000 + c * 0x10000 + 0x0130
  | .pkgFail => 0x00000180
  | .pwrCtrl => 0x300000 + 0x0000
  | .pwrCap => 0x300000 + 0x0008
  | .pwrMgmt => 0x300000 + 0x0010
  | .pwrRamp => 0x300000 + 0x0018
  | .pwrClass => 0x300000 + 0x0020
  | .pwrEst => 0x300000 + 0x0028
  | .pwrState => 0x300000 + 0x0030
  | .pwrStatus => 0x300000 + 0x0038
  | .pwrTemp => 0x300000 + 0x0040
  | .pwrEnergy => 0x300000 + 0x0048
  | .pwrW i => 0x300000 + 0x0100 + 8 * i
  | .pwrStatic j => 0x300000 + 0x0200 + 8 * j
  | .pwrDroop t => 0x300000 + 0x0300 + 8 * t
  | .pwrwTicks c => 0x3800000 + c * 0x10000 + 0x0900
  | .pwrwCycles c => 0x3800000 + c * 0x10000 + 0x0908
  | .stwSb => 0x100000 + 0x0018
  | .stwMboxStat => 0x100000 + 0x0020
  | .recStage i => 0x00004000 + 8 * i
  | .recPos => 0x00004080
  | .recCtrl => 0x00004088
  | .recStatus => 0x00004090
  | .recHash => 0x00004098
  | .recData i => 0x00004100 + 8 * i
  | .stwMbox i => 0x100100 + 8 * i
  | .pfMsixAddr i => 0x820000 + 16 * i
  | .pfMsixData i => 0x820008 + 16 * i
  | .pfPba k => 0x821000 + 8 * k
  | .vfMsixAddr c i => 0x3800000 + c * 0x10000 + 0x8000 + 16 * i
  | .vfMsixData c i => 0x3800000 + c * 0x10000 + 0x8008 + 16 * i
  | .vfPba c k => 0x3800000 + c * 0x10000 + 0x9000 + 8 * k

/-- Is the register 32 bits wide? (the others are 64 bits wide) -/
def Reg.is32 : Reg → Bool
  | .idPart => true
  | .idStatus => true
  | .strokeCtrl => true
  | .strokePhase => true
  | .strokeStatus => true
  | .strokeSlipCfg => true
  | .memInvalStat => true
  | .tmemScrub _ => true
  | .tmemPoison _ => true
  | .quillStatus _ => true
  | .nibStatus _ => true
  | .ctxwCmplStat _ => true
  | .tambStatus _ => true
  | .tambBallast _ => true
  | .poolStatus => true
  | .tbobStatus _ => true
  | .feedStatus _ => true
  | .feedTimer _ => true
  | .feedwDoorbell _ => true
  | .feedwDbStat _ => true
  | .filetAlloc _ => true
  | .filetStatus _ => true
  | .folioAlloc _ => true
  | .folioStatus _ => true
  | .linkdStatus _ => true
  | .portCtrl _ => true
  | .hostwId _ => true
  | .hostwStat _ => true
  | .vecwStat _ => true
  | .ioPcieStat => true
  | .ioStatus => true
  | .startCmd => true
  | .startReport => true
  | .stwBoots => true
  | .stwDefectCnt => true
  | .ctxrCtrl _ => true
  | .ctxrPending _ => true
  | .ctxhCfg _ => true
  | .pwrCtrl => true
  | .pwrStatus => true
  | .stwMboxStat => true
  | .recCtrl => true
  | .recStatus => true
  | _ => false

/-- The fields of a register, from its field table. A reset value of "Steward" is 0 until step 0 loads it. -/
def Reg.fields : Reg → List Field
  | .idPart => [⟨.FAMILY, 31, 16, .RO, 0x6e0d⟩, ⟨.MEMBER, 15, 8, .RO, 0x28⟩, ⟨.STEPPING, 7, 0, .RO, 1⟩]
  | .idVariant => [⟨.PEAK_W, 47, 32, .RO, 0⟩, ⟨.SUSTAINED_W, 31, 16, .RO, 0⟩, ⟨.TILE_MHZ, 15, 4, .RO, 0⟩, ⟨.VARIANT, 3, 0, .RO, 0⟩]
  | .idUnits => [⟨.NIB_SPARES, 61, 56, .RO, 0⟩, ⟨.ARRAY_SPARES, 53, 48, .RO, 0⟩, ⟨.NIB_ACTIVE, 41, 32, .RO, 0⟩, ⟨.DEGRADED, 31, 31, .RO, 0⟩, ⟨.ARRAYS_ACTIVE, 25, 16, .RO, 0⟩, ⟨.QUILL_ACTIVE, 6, 0, .RO, 0⟩]
  | .idPosition => [⟨.RECORD_VALID, 63, 63, .RO, 0⟩, ⟨.Y_SPAN, 55, 48, .RO, 0⟩, ⟨.X_SPAN, 47, 40, .RO, 0⟩, ⟨.SLOT, 37, 36, .RO, 0⟩, ⟨.TRAY, 35, 32, .RO, 0⟩, ⟨.RACK, 31, 16, .RO, 0⟩, ⟨.Y, 15, 8, .RO, 0⟩, ⟨.X, 7, 0, .RO, 0⟩]
  | .idStatus => [⟨.WO_VIOLATION, 0, 0, .W1C, 0⟩]
  | .strokeCtrl => [⟨.LOCK, 31, 31, .RO, 0⟩, ⟨.VOTE_SLIP, 3, 3, .WZ, 0⟩, ⟨.STOP, 2, 2, .WZ, 0⟩, ⟨.START, 1, 1, .WZ, 0⟩]
  | .strokeTiming => [⟨.HORIZON_US, 47, 32, .LK, 0x64⟩, ⟨.GUARD_US, 31, 16, .LK, 8⟩, ⟨.PERIOD_US, 14, 0, .LK, 0xfa⟩]
  | .strokeCount => [⟨.COUNT, 63, 0, .RO, 0⟩]
  | .strokePhase => [⟨.PHASE, 31, 0, .RO, 0⟩]
  | .strokeStatus => [⟨.ARM_REFUSED, 15, 15, .W1C, 0⟩, ⟨.UNANNOUNCED_OVERRUN, 14, 14, .W1C, 0⟩, ⟨.SKEW_ALARM, 13, 13, .W1C, 0⟩, ⟨.DISSENT, 12, 12, .W1C, 0⟩, ⟨.LATE_VOTE, 11, 11, .W1C, 0⟩, ⟨.SLIP, 10, 10, .W1C, 0⟩, ⟨.TIMING_ERR, 9, 9, .W1C, 0⟩, ⟨.WO_VIOLATION, 8, 8, .W1C, 0⟩, ⟨.STATE, 3, 0, .RO, 0⟩]
  | .strokeSlips => [⟨.SLIPS, 63, 0, .RO, 0⟩]
  | .strokeSlipOrigin => [⟨.COUNT_LO, 63, 32, .RO, 0⟩, ⟨.SELF, 24, 24, .RO, 0⟩, ⟨.CONTEXT, 23, 20, .RO, 0⟩, ⟨.CAUSE, 18, 16, .RO, 0⟩, ⟨.Y, 15, 8, .RO, 0⟩, ⟨.X, 7, 0, .RO, 0⟩]
  | .strokeSlipCfg => [⟨.SLIP_LIMIT, 7, 0, .LK, 8⟩]
  | .strokeAnchor => [⟨.AGE, 63, 32, .RO, 0⟩, ⟨.HOPS, 27, 20, .RO, 0⟩, ⟨.STALE, 19, 19, .RO, 1⟩, ⟨.SELF, 18, 18, .RO, 0⟩, ⟨.RANK, 17, 16, .RO, 0⟩, ⟨.Y, 15, 8, .RO, 0⟩, ⟨.X, 7, 0, .RO, 0⟩]
  | .strokeDissent => [⟨.COUNT_LO, 63, 32, .RO, 0⟩, ⟨.CAUSE, 26, 24, .RO, 0⟩, ⟨.PORT, 23, 20, .RO, 0⟩, ⟨.FENCED, 15, 0, .RO, 0⟩]
  | .strokeOffset _ => [⟨.VALID, 63, 63, .RO, 0⟩, ⟨.DELAY, 62, 32, .RO, 0⟩, ⟨.OFFSET, 31, 0, .RO, 0⟩]
  | .strokeImage _ => [⟨.ARM, 63, 63, .RW, 0⟩, ⟨.BASE, 47, 16, .RW, 0⟩]
  | .strokeImgStat _ => [⟨.STEP, 63, 32, .RO, 0⟩, ⟨.STATUS, 7, 0, .RO, 0⟩]
  | .memRoot _ => [⟨.ENABLE, 63, 63, .RW, 0⟩, ⟨.BASE, 39, 13, .RW, 0⟩]
  | .memInval => [⟨.GO, 63, 63, .WZ, 0⟩, ⟨.ALL, 62, 62, .WZ, 0⟩, ⟨.PAGES, 61, 52, .WZ, 0⟩, ⟨.CTX, 51, 48, .WZ, 0⟩, ⟨.VA, 47, 16, .WZ, 0⟩]
  | .memInvalStat => [⟨.DROPPED, 1, 1, .W1C, 0⟩, ⟨.BUSY, 0, 0, .RO, 0⟩]
  | .memFault => [⟨.CTX, 63, 60, .RO, 0⟩, ⟨.SOURCE, 59, 57, .RO, 0⟩, ⟨.TILE, 56, 52, .RO, 0⟩, ⟨.CAUSE, 51, 48, .RO, 0⟩, ⟨.VA, 47, 0, .RO, 0⟩]
  | .tmemCeCount _ => [⟨.COUNT, 63, 0, .RC, 0⟩]
  | .tmemUeLog _ => [⟨.VALID, 63, 63, .W1C, 0⟩, ⟨.OVERFLOW, 62, 62, .W1C, 0⟩, ⟨.SCRUB, 61, 61, .RO, 0⟩, ⟨.WELL, 60, 60, .RO, 0⟩, ⟨.CTX, 59, 56, .RO, 0⟩, ⟨.LINE, 39, 6, .RO, 0⟩]
  | .tmemScrub _ => [⟨.PERIOD_MIN, 15, 0, .RW, 0x3c⟩]
  | .tmemBackinv _ => [⟨.COUNT, 63, 0, .RC, 0⟩]
  | .tmemPoison _ => [⟨.COUNT, 31, 0, .RO, 0⟩]
  | .quillHart _ _ => [⟨.RUN, 63, 63, .RW, 0⟩, ⟨.BOUND, 62, 62, .RW, 0⟩, ⟨.CTX, 59, 56, .RW, 0⟩, ⟨.STATE, 55, 48, .RO, 0⟩, ⟨.RESET_PC, 47, 0, .RW, 0⟩]
  | .quillStatus _ => [⟨.BIND_REFUSED, 1, 1, .W1C, 0⟩, ⟨.WO_VIOLATION, 0, 0, .W1C, 0⟩]
  | .quillMcheck _ => [⟨.VALID, 63, 63, .W1C, 0⟩, ⟨.CORE, 36, 32, .RO, 0⟩, ⟨.CTX, 31, 28, .RO, 0⟩]
  | .nibCore _ _ => [⟨.BOUND, 63, 63, .RW, 0⟩, ⟨.CTX, 59, 56, .RW, 0⟩, ⟨.STATE, 55, 48, .RO, 0⟩, ⟨.PC, 47, 0, .RO, 0⟩]
  | .nibStatus _ => [⟨.FAILED, 2, 2, .W1C, 0⟩, ⟨.BIND_REFUSED, 1, 1, .W1C, 0⟩, ⟨.WO_VIOLATION, 0, 0, .W1C, 0⟩]
  | .nibFailLog _ => [⟨.VALID, 63, 63, .W1C, 0⟩, ⟨.OVERFLOW, 62, 62, .W1C, 0⟩, ⟨.BOUND, 61, 61, .RO, 0⟩, ⟨.CTX, 59, 56, .RO, 0⟩, ⟨.PHYS, 43, 40, .RO, 0⟩, ⟨.CHECK, 35, 32, .RO, 0⟩, ⟨.STROKE_LO, 31, 0, .RO, 0⟩]
  | .ctxwCmpl _ => [⟨.LOCK, 63, 63, .RW, 0⟩, ⟨.SLOTS_LOG2, 55, 52, .LK, 6⟩, ⟨.BASE, 47, 11, .LK, 0⟩]
  | .ctxwCmplNext _ => [⟨.SEQ, 63, 0, .RO, 1⟩]
  | .ctxwCmplStat _ => [⟨.PENDING, 30, 16, .RO, 0⟩, ⟨.INIT, 3, 3, .RO, 0⟩, ⟨.CFG_ERR, 2, 2, .W1C, 0⟩, ⟨.BAD_WRITE, 1, 1, .W1C, 0⟩, ⟨.WO_VIOLATION, 0, 0, .W1C, 0⟩]
  | .ctxwNibExc _ => [⟨.VALID, 63, 63, .W1C, 0⟩, ⟨.IN_HANDLER, 62, 62, .RO, 0⟩, ⟨.TILE, 60, 56, .RO, 0⟩, ⟨.CORE, 55, 53, .RO, 0⟩, ⟨.CAUSE, 52, 48, .RO, 0⟩, ⟨.EPC, 47, 0, .RO, 0⟩]
  | .tambArray _ _ => [⟨.OWNED, 63, 63, .RW, 0⟩, ⟨.CTX, 59, 56, .RW, 0⟩, ⟨.STATE, 55, 48, .RO, 6⟩, ⟨.PHYS, 44, 40, .RO, 0⟩, ⟨.QUEUED, 36, 32, .RO, 0⟩, ⟨.THROTTLE, 31, 28, .RO, 0⟩]
  | .tambStatus _ => [⟨.ALLOC_REFUSED, 2, 2, .W1C, 0⟩, ⟨.FAILED, 1, 1, .W1C, 0⟩, ⟨.WO_VIOLATION, 0, 0, .W1C, 0⟩]
  | .tambFailLog _ => [⟨.VALID, 63, 63, .W1C, 0⟩, ⟨.OVERFLOW, 62, 62, .W1C, 0⟩, ⟨.DURING_WORK, 61, 61, .RO, 0⟩, ⟨.CTX, 59, 56, .RO, 0⟩, ⟨.PHYS, 44, 40, .RO, 0⟩, ⟨.CHECK, 35, 32, .RO, 0⟩, ⟨.STROKE_LO, 31, 0, .RO, 0⟩]
  | .tambBallast _ => [⟨.RUNNING, 20, 4, .RO, 0⟩, ⟨.LEVEL, 3, 0, .RO, 0⟩]
  | .tambWorkMacs _ => [⟨.COUNT, 63, 0, .RC, 0⟩]
  | .tambBallastMacs _ => [⟨.COUNT, 63, 0, .RC, 0⟩]
  | .poolCtrl _ => [⟨.ENABLE, 63, 63, .RW, 0⟩, ⟨.DISABLING, 62, 62, .RO, 0⟩, ⟨.LEND, 31, 0, .RW, 0⟩]
  | .poolSeed _ => [⟨.S23, 54, 32, .RW, 0⟩, ⟨.S31, 30, 0, .RW, 0⟩]
  | .poolPos _ => [⟨.POS, 63, 0, .RW, 0⟩]
  | .poolStatus => [⟨.CFG_ERR, 0, 0, .W1C, 0⟩]
  | .tmemZmapHits _ => [⟨.COUNT, 63, 0, .RC, 0⟩]
  | .bobCfg _ _ => [⟨.ENABLE, 63, 63, .RW, 0⟩, ⟨.COMBINE, 62, 62, .RW, 0⟩, ⟨.REMOTE_IN, 61, 61, .RW, 0⟩, ⟨.HMODE, 60, 60, .RW, 0⟩, ⟨.OWNER, 59, 56, .RW, 0⟩, ⟨.CTYPE, 55, 52, .RW, 0⟩, ⟨.EXPECT, 47, 32, .RW, 0⟩, ⟨.DEPTH_M1, 27, 16, .RW, 3⟩, ⟨.LEN_M1, 11, 8, .RW, 0xf⟩]
  | .bobState _ _ => [⟨.CONTRIB, 63, 48, .RO, 0⟩, ⟨.QUEUED, 44, 32, .RO, 0⟩, ⟨.RECEIVED, 31, 0, .RO, 0⟩]
  | .knotCfg _ _ => [⟨.ENABLE, 63, 63, .RW, 0⟩, ⟨.HMODE, 62, 62, .RW, 0⟩, ⟨.SATURATED, 61, 61, .W1C, 0⟩, ⟨.OWNER, 59, 56, .RW, 0⟩, ⟨.CHANGES, 31, 0, .RO, 0⟩]
  | .knotVal _ _ => [⟨.THRESHOLD, 63, 32, .RO, 0xffffffff⟩, ⟨.COUNT, 31, 0, .RO, 0⟩]
  | .tbobPool _ => [⟨.SIZE_G, 48, 32, .RW, 0⟩, ⟨.BASE_G, 16, 0, .RW, 0⟩]
  | .tbobFree _ => [⟨.LARGEST_G, 48, 32, .RO, 0⟩, ⟨.FREE_G, 16, 0, .RO, 0⟩]
  | .tbobStatus _ => [⟨.REMOTE_DROP, 3, 3, .W1C, 0⟩, ⟨.NO_SPACE, 2, 2, .W1C, 0⟩, ⟨.CFG_ERR, 1, 1, .W1C, 0⟩, ⟨.WO_VIOLATION, 0, 0, .W1C, 0⟩]
  | .tbobDrops _ => [⟨.COUNT, 63, 0, .RC, 0⟩]
  | .feedCh _ _ => [⟨.OWNED, 63, 63, .RW, 0⟩, ⟨.HMODE, 62, 62, .RW, 0⟩, ⟨.CTX, 59, 56, .RW, 0⟩, ⟨.STATE, 55, 48, .RO, 0⟩, ⟨.PRIO, 47, 46, .RO, 0⟩, ⟨.QUEUED, 44, 40, .RO, 0⟩, ⟨.PENDING_DB, 39, 36, .RO, 0⟩, ⟨.TRIG, 34, 32, .RO, 0⟩]
  | .feedBeats _ _ => [⟨.COUNT, 63, 0, .RO, 0⟩]
  | .feedStatus _ => [⟨.STAGE_UE, 2, 2, .W1C, 0⟩, ⟨.ALLOC_REFUSED, 1, 1, .W1C, 0⟩, ⟨.WO_VIOLATION, 0, 0, .W1C, 0⟩]
  | .feedTimer _ => [⟨.COUNT, 31, 0, .RO, 0⟩]
  | .feedwDoorbell _ => [⟨.CHAN, 21, 16, .WZ, 0⟩, ⟨.IO, 5, 5, .WZ, 0⟩, ⟨.TILE, 4, 0, .WZ, 0⟩]
  | .feedwDbStat _ => [⟨.OVERFLOW, 1, 1, .W1C, 0⟩, ⟨.REFUSED, 0, 0, .W1C, 0⟩]
  | .feedwBuddy _ => [⟨.EPOCH, 63, 32, .RO, 0⟩, ⟨.SNAP_LO, 31, 8, .RO, 0⟩, ⟨.STATE, 3, 0, .RO, 0⟩]
  | .filetAlloc _ => [⟨.CTXMASK, 15, 0, .RW, 0⟩]
  | .filetUnit _ => [⟨.REDIR_FREE, 63, 48, .RO, 0x8000⟩, ⟨.HELD, 44, 40, .RO, 0⟩, ⟨.QUEUED, 36, 32, .RO, 0⟩, ⟨.STATE, 31, 24, .RO, 0⟩]
  | .filetServed _ => [⟨.COUNT, 63, 0, .RO, 0⟩]
  | .filetStatus _ => [⟨.REDIR_UE, 3, 3, .W1C, 0⟩, ⟨.REPORT_LOST, 2, 2, .W1C, 0⟩, ⟨.ALLOC_REFUSED, 1, 1, .W1C, 0⟩, ⟨.WO_VIOLATION, 0, 0, .W1C, 0⟩]
  | .filetwTables _ => [⟨.INSTALLED, 63, 0, .RO, 0⟩]
  | .filetwPaused _ => [⟨.PAUSED, 63, 0, .RO, 0⟩]
  | .folioPool _ => [⟨.ENABLE, 63, 63, .RW, 0⟩, ⟨.INIT, 62, 62, .RO, 0⟩, ⟨.COUNT, 47, 32, .RW, 0⟩, ⟨.BASE_F, 16, 0, .RW, 0⟩]
  | .folioFree _ => [⟨.LOW, 47, 32, .RW, 0⟩, ⟨.FREE, 15, 0, .RO, 0⟩]
  | .folioUnit _ => [⟨.SEQ_FREE, 43, 32, .RO, 0x800⟩, ⟨.QUEUED, 28, 24, .RO, 0⟩, ⟨.STATE, 23, 16, .RO, 0⟩]
  | .folioAlloc _ => [⟨.CTXMASK, 15, 0, .RW, 0⟩]
  | .folioStatus _ => [⟨.TABLE_UE, 3, 3, .W1C, 0⟩, ⟨.CFG_ERR, 2, 2, .W1C, 0⟩, ⟨.ALLOC_REFUSED, 1, 1, .W1C, 0⟩, ⟨.WO_VIOLATION, 0, 0, .W1C, 0⟩]
  | .folioDone _ => [⟨.COUNT, 63, 0, .RO, 0⟩]
  | .folioQuota _ => [⟨.USED, 52, 32, .RO, 0⟩, ⟨.LIMIT, 20, 0, .RW, 0⟩]
  | .foliowStat _ => [⟨.OPEN, 44, 32, .RO, 0⟩, ⟨.TORN, 12, 0, .RO, 0⟩]
  | .foliowExhaust _ => [⟨.COUNT, 63, 0, .RC, 0⟩]
  | .linkState _ _ => [⟨.STATE, 63, 56, .RO, 0⟩, ⟨.LANEMAP, 55, 48, .RO, 0⟩, ⟨.INVERT, 47, 44, .RO, 0⟩, ⟨.PRECODE, 43, 40, .RO, 0⟩, ⟨.ASYM, 31, 0, .RO, 0⟩]
  | .linkFec _ _ => [⟨.CORRECTED, 63, 32, .RC, 0⟩, ⟨.UNCORR, 31, 0, .RC, 0⟩]
  | .linkSer _ _ => [⟨.LANES, 63, 0, .RC, 0⟩]
  | .linkRelock _ _ => [⟨.COUNT, 63, 32, .RO, 0⟩, ⟨.LAST_US, 31, 16, .RO, 0⟩, ⟨.MAX_US, 15, 0, .RO, 0⟩]
  | .linkPg _ _ _ => [⟨.ENABLE, 63, 63, .RW, 0⟩, ⟨.MODE, 62, 60, .RW, 0⟩, ⟨.INV, 59, 59, .RW, 0⟩, ⟨.PATH, 58, 57, .RW, 0⟩, ⟨.LANES, 55, 52, .RW, 0⟩, ⟨.LOCKED, 51, 48, .RO, 0⟩]
  | .linkPgerr _ _ _ => [⟨.LANES, 63, 0, .RC, 0⟩]
  | .linkdStatus _ => [⟨.CFG_ERR, 3, 3, .W1C, 0⟩, ⟨.TEST_REFUSED, 2, 2, .W1C, 0⟩, ⟨.MARGIN, 1, 1, .W1C, 0⟩, ⟨.WO_VIOLATION, 0, 0, .W1C, 0⟩]
  | .portCfg _ => [⟨.ENABLE, 63, 63, .RW, 0⟩, ⟨.DIR, 39, 38, .RW, 0⟩, ⟨.SIZE_LOG2, 37, 36, .RW, 0⟩, ⟨.FIRST, 34, 32, .RW, 0⟩]
  | .portState _ => [⟨.STATE, 63, 56, .RO, 0⟩, ⟨.CAUSE, 55, 48, .RO, 0⟩, ⟨.FAR_X, 47, 40, .RO, 0⟩, ⟨.FAR_Y, 39, 32, .RO, 0⟩, ⟨.FAR_PORT, 31, 28, .RO, 0⟩, ⟨.LAG, 27, 24, .RO, 0⟩, ⟨.LINKS_UP, 23, 16, .RO, 0⟩, ⟨.STEP, 15, 12, .RO, 0⟩]
  | .portCtrl _ => [⟨.TEST, 2, 2, .WZ, 0⟩, ⟨.DOWN, 1, 1, .WZ, 0⟩, ⟨.RETRAIN, 0, 0, .WZ, 0⟩]
  | .portCount _ => [⟨.SLOTS_MISSED, 63, 48, .RC, 0⟩, ⟨.FRAMES_LOST, 47, 32, .RC, 0⟩, ⟨.MISSED_BOUNDARY, 31, 16, .RC, 0⟩, ⟨.UNMATCHED, 15, 0, .RC, 0⟩]
  | .linkwStreams _ => [⟨.LOCK, 63, 63, .RW, 0⟩, ⟨.BASE, 47, 15, .LK, 0⟩]
  | .linkwStat _ => [⟨.STREAM_ERR, 63, 32, .RO, 0⟩, ⟨.MISSED, 31, 0, .RO, 0⟩]
  | .hostwId c => [⟨.MSIX_ON, 9, 9, .RO, 0⟩, ⟨.VF_ON, 8, 8, .RO, 0⟩, ⟨.CTX, 3, 0, .RO, c⟩]
  | .hostwHwin _ => [⟨.ENABLE, 63, 63, .RW, 0⟩, ⟨.BASE, 15, 0, .RW, 0⟩]
  | .hostwKnotDb _ => [⟨.VALUE, 63, 32, .WZ, 0⟩, ⟨.KNOT, 11, 0, .WZ, 0⟩]
  | .hostwStat _ => [⟨.KDB_REFUSED, 0, 0, .W1C, 0⟩]
  | .hostwHwinFault _ => [⟨.VALID, 63, 63, .W1C, 0⟩, ⟨.WRITE, 62, 62, .RO, 0⟩, ⟨.CAUSE, 51, 48, .RO, 0⟩, ⟨.VA, 47, 0, .RO, 0⟩]
  | .vmapMap _ _ => [⟨.VALID, 63, 63, .RW, 0⟩, ⟨.KIND, 62, 61, .RW, 0⟩, ⟨.TILE, 60, 56, .RW, 0⟩, ⟨.IO, 55, 55, .RW, 0⟩, ⟨.GROUP, 54, 52, .RW, 0⟩, ⟨.MASK, 31, 0, .RW, 0⟩]
  | .vmapHit _ _ => [⟨.HITS, 31, 0, .RC, 0⟩]
  | .vecwArmed _ _ => [⟨.ARMED, 63, 0, .W1S, 0⟩]
  | .vecwPend _ _ => [⟨.PEND, 63, 0, .RO, 0⟩]
  | .vecwStat _ => [⟨.MAP_ERR, 0, 0, .W1C, 0⟩]
  | .ioPcieStat => [⟨.DEGRADED, 9, 9, .RO, 0⟩, ⟨.LINK_UP, 8, 8, .RO, 0⟩, ⟨.LANES, 7, 3, .RO, 0⟩, ⟨.RATE, 2, 0, .RO, 0⟩]
  | .ioPwin => [⟨.ENABLE, 63, 63, .RW, 0⟩, ⟨.BASE, 7, 0, .RW, 0⟩]
  | .ioStatus => [⟨.HOST_ERR, 1, 1, .W1C, 0⟩, ⟨.WO_VIOLATION, 0, 0, .W1C, 0⟩]
  | .pfvecArmed _ => [⟨.ARMED, 63, 0, .W1S, 0⟩]
  | .pfvecPend _ => [⟨.PEND, 63, 0, .RO, 0⟩]
  | .startCmd => [⟨.FOUND, 8, 8, .WZ, 0⟩, ⟨.STEP, 3, 0, .WZ, 0⟩]
  | .startStat => [⟨.ELAPSED, 39, 24, .RO, 0⟩, ⟨.CAUSE, 23, 16, .RO, 0⟩, ⟨.READY, 15, 15, .RO, 0⟩, ⟨.FOUND_ARMED, 14, 14, .RO, 0⟩, ⟨.CFG_ERR, 13, 13, .W1C, 0⟩, ⟨.ORDER_ERR, 12, 12, .W1C, 0⟩, ⟨.STATE, 9, 8, .RO, 0⟩, ⟨.STEP, 3, 0, .RO, 0⟩]
  | .startRunlim => [⟨.PEAK_W, 47, 32, .WO, 0⟩, ⟨.SUSTAINED_W, 31, 16, .WO, 0⟩, ⟨.TILE_MHZ, 15, 4, .WO, 0⟩]
  | .startReport => [⟨.MISSING, 5, 0, .RO, 0x3f⟩]
  | .stwFwVersion => [⟨.VERSION, 63, 0, .RO, 0⟩]
  | .stwBoots => [⟨.COUNT, 31, 0, .RO, 0⟩]
  | .stwDefectCnt => [⟨.FULL, 31, 31, .RO, 0⟩, ⟨.COUNT, 12, 0, .RO, 0⟩]
  | .stwDefect _ => [⟨.ENTRY, 63, 0, .RO, 0⟩]
  | .tstartResult _ => [⟨.ROUNDS, 63, 56, .RO, 0⟩, ⟨.ROWS_SHORT, 55, 48, .RO, 0⟩, ⟨.BANKS_SHORT, 47, 40, .RO, 0⟩, ⟨.WELL_LISTED, 39, 32, .RO, 0⟩, ⟨.NIB_HEALTHY, 23, 20, .RO, 0⟩, ⟨.ARRAYS_HEALTHY, 19, 15, .RO, 0⟩]
  | .ctxfCause _ => [⟨.VALID, 63, 63, .W1C, 0⟩, ⟨.MERGED, 62, 48, .RO, 0⟩, ⟨.CAUSE, 47, 40, .RO, 0⟩, ⟨.STROKE_LO, 31, 0, .RO, 0⟩]
  | .ctxfDetail _ => [⟨.ENGINE, 63, 56, .RO, 0⟩, ⟨.TILE, 55, 48, .RO, 0⟩, ⟨.UNIT, 47, 32, .RO, 0⟩, ⟨.ARG, 31, 0, .RO, 0⟩]
  | .ctxrCtrl _ => [⟨.RESET, 31, 31, .WZ, 0⟩, ⟨.STATE, 3, 0, .RO, 0⟩]
  | .ctxrPending _ => [⟨.UNITS, 7, 0, .RO, 0⟩]
  | .ctxrTime _ => [⟨.RESETS, 63, 32, .RO, 0⟩, ⟨.LAST_US, 31, 0, .RO, 0⟩]
  | .ctxhCfg _ => [⟨.WINDOW, 7, 0, .RW, 8⟩]
  | .ctxhHang _ => [⟨.VALID, 63, 63, .W1C, 0⟩, ⟨.WAITFOR, 62, 62, .RO, 0⟩, ⟨.KIND, 61, 59, .RO, 0⟩, ⟨.IO, 53, 53, .RO, 0⟩, ⟨.TILE, 52, 48, .RO, 0⟩, ⟨.INDEX, 47, 32, .RO, 0⟩, ⟨.STROKE_LO, 31, 0, .RO, 0⟩]
  | .pkgFail => [⟨.FAILED, 63, 63, .RO, 0⟩, ⟨.CAUSE, 55, 48, .RO, 0⟩, ⟨.CTX, 47, 44, .RO, 0⟩, ⟨.PENDING, 39, 32, .RO, 0⟩, ⟨.STROKE_LO, 31, 0, .RO, 0⟩]
  | .pwrCtrl => [⟨.LOCK, 31, 31, .W1S, 0⟩, ⟨.DROOP_MV, 15, 8, .LK, 0x2d⟩]
  | .pwrCap => [⟨.PEAK_W, 47, 32, .RW, 0⟩, ⟨.SUST_W, 31, 16, .RW, 0⟩]
  | .pwrMgmt => [⟨.HOLDOFF, 63, 63, .RO, 0⟩, ⟨.PEAK_W, 47, 32, .RO, 0⟩, ⟨.SUST_W, 31, 16, .RO, 0⟩, ⟨.SEQ, 15, 0, .RO, 0⟩]
  | .pwrRamp => [⟨.HOLDOFF, 63, 63, .RW, 0⟩, ⟨.FLOOR_W, 47, 32, .RW, 0⟩, ⟨.RATE_WPS, 25, 16, .RW, 0x96⟩]
  | .pwrClass => [⟨.CLASS0, 1, 0, .RW, 0⟩, ⟨.CLASS1, 5, 4, .RW, 0⟩, ⟨.CLASS2, 9, 8, .RW, 0⟩, ⟨.CLASS3, 13, 12, .RW, 0⟩, ⟨.CLASS4, 17, 16, .RW, 0⟩, ⟨.CLASS5, 21, 20, .RW, 0⟩, ⟨.CLASS6, 25, 24, .RW, 0⟩, ⟨.CLASS7, 29, 28, .RW, 0⟩, ⟨.CLASS8, 33, 32, .RW, 0⟩, ⟨.CLASS9, 37, 36, .RW, 0⟩, ⟨.CLASS10, 41, 40, .RW, 0⟩, ⟨.CLASS11, 45, 44, .RW, 0⟩, ⟨.CLASS12, 49, 48, .RW, 0⟩, ⟨.CLASS13, 53, 52, .RW, 0⟩, ⟨.CLASS14, 57, 56, .RW, 0⟩, ⟨.CLASS15, 61, 60, .RW, 0⟩]
  | .pwrEst => [⟨.TICK_W, 63, 48, .RO, 0⟩, ⟨.MEAN_1MS_W, 47, 32, .RO, 0⟩, ⟨.MEAN_1S_W, 31, 16, .RO, 0⟩, ⟨.REF_W, 15, 0, .RO, 0⟩]
  | .pwrState => [⟨.Q, 62, 56, .RO, 0⟩, ⟨.BALLAST, 55, 52, .RO, 0⟩, ⟨.GATE, 51, 48, .RO, 0⟩, ⟨.ALLOW_W, 47, 32, .RO, 0⟩, ⟨.LEVELS, 15, 0, .RO, 0⟩]
  | .pwrStatus => [⟨.SHUTDOWN, 10, 10, .RO, 0⟩, ⟨.RAMP_BROKEN, 9, 9, .W1C, 0⟩, ⟨.FLOOR_SHORT, 8, 8, .W1C, 0⟩, ⟨.CAP_UNMET, 7, 7, .W1C, 0⟩, ⟨.RAMP, 6, 6, .W1C, 0⟩, ⟨.THERMAL, 5, 5, .W1C, 0⟩, ⟨.CAP_MGMT, 4, 4, .W1C, 0⟩, ⟨.CAP_SUST, 3, 3, .W1C, 0⟩, ⟨.CAP_PEAK, 2, 2, .W1C, 0⟩, ⟨.CFG_ERR, 1, 1, .W1C, 0⟩, ⟨.WO_VIOLATION, 0, 0, .W1C, 0⟩]
  | .pwrTemp => [⟨.TCAP_W, 47, 32, .RO, 0⟩, ⟨.SENSOR, 23, 16, .RO, 0⟩, ⟨.H, 15, 0, .RO, 0⟩]
  | .pwrEnergy => [⟨.MJ, 63, 0, .RO, 0⟩]
  | .pwrW _ => [⟨.WEIGHT, 31, 0, .LK, 0⟩]
  | .pwrStatic _ => [⟨.WATTS, 15, 0, .LK, 0⟩]
  | .pwrDroop _ => [⟨.EVENTS, 63, 32, .RC, 0⟩, ⟨.STRETCHED, 31, 0, .RC, 0⟩]
  | .pwrwTicks _ => [⟨.CLASS, 63, 32, .RO, 0⟩, ⟨.GATE, 31, 0, .RO, 0⟩]
  | .pwrwCycles _ => [⟨.CYCLES, 63, 0, .RO, 0⟩]
  | .stwSb => [⟨.TMC_UP, 63, 63, .RO, 0⟩, ⟨.AUTONOMOUS, 62, 62, .RO, 0⟩, ⟨.LAST_SEQ, 15, 0, .RO, 0⟩]
  | .stwMboxStat => [⟨.FULL, 8, 8, .W1C, 0⟩, ⟨.LEN, 7, 0, .RO, 0⟩]
  | .recStage _ => [⟨.BYTES, 63, 0, .RW, 0⟩]
  | .recPos => [⟨.Y, 15, 8, .RW, 0⟩, ⟨.X, 7, 0, .RW, 0⟩]
  | .recCtrl => [⟨.COMMIT, 0, 0, .WZ, 0⟩]
  | .recStatus => [⟨.STRAP_TRAY, 15, 12, .RO, 0⟩, ⟨.STRAP_SLOT, 11, 10, .RO, 0⟩, ⟨.STRAP_VALID, 9, 9, .RO, 0⟩, ⟨.BUSY, 8, 8, .RO, 0⟩, ⟨.RESULT, 3, 0, .RO, 0⟩]
  | .recHash => [⟨.HASH, 63, 0, .RO, 0⟩]
  | .recData _ => [⟨.BYTES, 63, 0, .RO, 0⟩]
  | .stwMbox _ => [⟨.BYTES, 63, 0, .RO, 0⟩]
  | .pfMsixAddr _ => [⟨.ADDR, 63, 0, .RW, 0⟩]
  | .pfMsixData _ => [⟨.MASK, 32, 32, .RW, 1⟩, ⟨.DATA, 31, 0, .RW, 0⟩]
  | .pfPba _ => [⟨.PENDBITS, 63, 0, .RO, 0⟩]
  | .vfMsixAddr _ _ => [⟨.ADDR, 63, 0, .RW, 0⟩]
  | .vfMsixData _ _ => [⟨.MASK, 32, 32, .RW, 1⟩, ⟨.DATA, 31, 0, .RW, 0⟩]
  | .vfPba _ _ => [⟨.PENDBITS, 63, 0, .RO, 0⟩]

/-- Are the index letters within the limits of the map table? -/
def Reg.valid : Reg → Bool
  | .strokeOffset p => p < 16
  | .strokeImage c => c < 16
  | .strokeImgStat c => c < 16
  | .memRoot c => c < 16
  | .tmemCeCount t => t < 32
  | .tmemUeLog t => t < 32
  | .tmemScrub t => t < 32
  | .tmemBackinv t => t < 32
  | .tmemPoison t => t < 32
  | .quillHart d h => d < 2 && h < 32
  | .quillStatus d => d < 2
  | .quillMcheck d => d < 2
  | .nibCore t n => t < 32 && n < 8
  | .nibStatus t => t < 32
  | .nibFailLog t => t < 32
  | .ctxwCmpl c => c < 16
  | .ctxwCmplNext c => c < 16
  | .ctxwCmplStat c => c < 16
  | .ctxwNibExc c => c < 16
  | .tambArray t a => t < 32 && a < 16
  | .tambStatus t => t < 32
  | .tambFailLog t => t < 32
  | .tambBallast t => t < 32
  | .tambWorkMacs t => t < 32
  | .tambBallastMacs t => t < 32
  | .poolCtrl c => c < 16
  | .poolSeed c => c < 16
  | .poolPos c => c < 16
  | .tmemZmapHits t => t < 32
  | .bobCfg t l => t < 32 && l < 256
  | .bobState t l => t < 32 && l < 256
  | .knotCfg t l => t < 32 && l < 128
  | .knotVal t l => t < 32 && l < 128
  | .tbobPool t => t < 32
  | .tbobFree t => t < 32
  | .tbobStatus t => t < 32
  | .tbobDrops t => t < 32
  | .feedCh t n => (t < 32 && n < 16) || (t == 32 && n < 64)
  | .feedBeats t n => (t < 32 && n < 16) || (t == 32 && n < 64)
  | .feedStatus t => t < 33
  | .feedTimer t => t < 33
  | .feedwDoorbell c => c < 16
  | .feedwDbStat c => c < 16
  | .feedwBuddy c => c < 16
  | .filetAlloc t => t < 32
  | .filetUnit t => t < 32
  | .filetServed t => t < 32
  | .filetStatus t => t < 32
  | .filetwTables c => c < 16
  | .filetwPaused c => c < 16
  | .folioPool t => t < 32
  | .folioFree t => t < 32
  | .folioUnit t => t < 32
  | .folioAlloc t => t < 32
  | .folioStatus t => t < 32
  | .folioDone t => t < 32
  | .folioQuota c => c < 16
  | .foliowStat c => c < 16
  | .foliowExhaust c => c < 16
  | .linkState d i => d < 4 && i < 8
  | .linkFec d i => d < 4 && i < 8
  | .linkSer d i => d < 4 && i < 8
  | .linkRelock d i => d < 4 && i < 8
  | .linkPg d i g => d < 4 && i < 8 && g < 2
  | .linkPgerr d i g => d < 4 && i < 8 && g < 2
  | .linkdStatus d => d < 4
  | .portCfg p => p < 16
  | .portState p => p < 16
  | .portCtrl p => p < 16
  | .portCount p => p < 16
  | .linkwStreams c => c < 16
  | .linkwStat c => c < 16
  | .hostwId c => c < 16
  | .hostwHwin c => c < 16
  | .hostwKnotDb c => c < 16
  | .hostwStat c => c < 16
  | .hostwHwinFault c => c < 16
  | .vmapMap c i => c < 16 && i < 112
  | .vmapHit c i => c < 16 && i < 112
  | .vecwArmed c k => c < 16 && k < 2
  | .vecwPend c k => c < 16 && k < 2
  | .vecwStat c => c < 16
  | .pfvecArmed k => k < 4
  | .pfvecPend k => k < 4
  | .stwDefect i => i < 4096
  | .tstartResult t => t < 32
  | .ctxfCause c => c < 16
  | .ctxfDetail c => c < 16
  | .ctxrCtrl c => c < 16
  | .ctxrPending c => c < 16
  | .ctxrTime c => c < 16
  | .ctxhCfg c => c < 16
  | .ctxhHang c => c < 16
  | .pwrW i => i < 32
  | .pwrStatic j => j < 16
  | .pwrDroop t => t < 32
  | .pwrwTicks c => c < 16
  | .pwrwCycles c => c < 16
  | .recStage i => i < 16
  | .recData i => i < 16
  | .stwMbox i => i < 30
  | .pfMsixAddr i => i < 256
  | .pfMsixData i => i < 256
  | .pfPba k => k < 4
  | .vfMsixAddr c i => c < 16 && i < 128
  | .vfMsixData c i => c < 16 && i < 128
  | .vfPba c k => c < 16 && k < 2
  | _ => true

/-- The register at offset o of the single blocks (identity, Steward, stroke, power, ports, IO die). -/
def regAtLow (o : Nat) : Option Reg :=
  if o = 0x0 then some .idPart else
  if o = 0x8 then some .idVariant else
  if o = 0x10 then some .idUnits else
  if o = 0x18 then some .idPosition else
  if o = 0x20 then some .idStatus else
  if o = 0x100 then some .startCmd else
  if o = 0x108 then some .startStat else
  if o = 0x110 then some .startRunlim else
  if o = 0x118 then some .startReport else
  if o = 0x180 then some .pkgFail else
  if 0x1000 ≤ o ∧ o < 0x1080 ∧ (o - 0x1000) % 8 = 0 then some (.memRoot ((o - 0x1000) / 8)) else
  if o = 0x1100 then some .memInval else
  if o = 0x1108 then some .memInvalStat else
  if o = 0x1110 then some .memFault else
  if 0x2000 ≤ o ∧ o < 0x2080 ∧ (o - 0x2000) % 8 = 0 then some (.poolCtrl ((o - 0x2000) / 8)) else
  if 0x2080 ≤ o ∧ o < 0x2100 ∧ (o - 0x2080) % 8 = 0 then some (.poolSeed ((o - 0x2080) / 8)) else
  if 0x2100 ≤ o ∧ o < 0x2180 ∧ (o - 0x2100) % 8 = 0 then some (.poolPos ((o - 0x2100) / 8)) else
  if o = 0x2180 then some .poolStatus else
  if 0x3000 ≤ o ∧ o < 0x3080 ∧ (o - 0x3000) % 8 = 0 then some (.folioQuota ((o - 0x3000) / 8)) else
  if 0x4000 ≤ o ∧ o < 0x4080 ∧ (o - 0x4000) % 8 = 0 then some (.recStage ((o - 0x4000) / 8)) else
  if o = 0x4080 then some .recPos else
  if o = 0x4088 then some .recCtrl else
  if o = 0x4090 then some .recStatus else
  if o = 0x4098 then some .recHash else
  if 0x4100 ≤ o ∧ o < 0x4180 ∧ (o - 0x4100) % 8 = 0 then some (.recData ((o - 0x4100) / 8)) else
  if o = 0x100000 then some .stwFwVersion else
  if o = 0x100008 then some .stwBoots else
  if o = 0x100010 then some .stwDefectCnt else
  if o = 0x100018 then some .stwSb else
  if o = 0x100020 then some .stwMboxStat else
  if 0x100100 ≤ o ∧ o < 0x1001f0 ∧ (o - 0x100100) % 8 = 0 then some (.stwMbox ((o - 0x100100) / 8)) else
  if 0x110000 ≤ o ∧ o < 0x118000 ∧ (o - 0x110000) % 8 = 0 then some (.stwDefect ((o - 0x110000) / 8)) else
  if o = 0x200000 then some .strokeCtrl else
  if o = 0x200008 then some .strokeTiming else
  if o = 0x200010 then some .strokeCount else
  if o = 0x200018 then some .strokePhase else
  if o = 0x200020 then some .strokeStatus else
  if o = 0x200028 then some .strokeSlips else
  if o = 0x200030 then some .strokeSlipOrigin else
  if o = 0x200038 then some .strokeSlipCfg else
  if o = 0x200040 then some .strokeAnchor else
  if o = 0x200048 then some .strokeDissent else
  if 0x200100 ≤ o ∧ o < 0x200180 ∧ (o - 0x200100) % 8 = 0 then some (.strokeOffset ((o - 0x200100) / 8)) else
  if 0x200200 ≤ o ∧ o < 0x200300 ∧ (o - 0x200200) % 16 = 0 then some (.strokeImage ((o - 0x200200) / 16)) else
  if 0x200208 ≤ o ∧ o < 0x200308 ∧ (o - 0x200208) % 16 = 0 then some (.strokeImgStat ((o - 0x200208) / 16)) else
  if o = 0x300000 then some .pwrCtrl else
  if o = 0x300008 then some .pwrCap else
  if o = 0x300010 then some .pwrMgmt else
  if o = 0x300018 then some .pwrRamp else
  if o = 0x300020 then some .pwrClass else
  if o = 0x300028 then some .pwrEst else
  if o = 0x300030 then some .pwrState else
  if o = 0x300038 then some .pwrStatus else
  if o = 0x300040 then some .pwrTemp else
  if o = 0x300048 then some .pwrEnergy else
  if 0x300100 ≤ o ∧ o < 0x300200 ∧ (o - 0x300100) % 8 = 0 then some (.pwrW ((o - 0x300100) / 8)) else
  if 0x300200 ≤ o ∧ o < 0x300280 ∧ (o - 0x300200) % 8 = 0 then some (.pwrStatic ((o - 0x300200) / 8)) else
  if 0x300300 ≤ o ∧ o < 0x300400 ∧ (o - 0x300300) % 8 = 0 then some (.pwrDroop ((o - 0x300300) / 8)) else
  if 0x410000 ≤ o ∧ o < 0x410200 ∧ (o - 0x410000) % 32 = 0 then some (.portCfg ((o - 0x410000) / 32)) else
  if 0x410008 ≤ o ∧ o < 0x410208 ∧ (o - 0x410008) % 32 = 0 then some (.portState ((o - 0x410008) / 32)) else
  if 0x410010 ≤ o ∧ o < 0x410210 ∧ (o - 0x410010) % 32 = 0 then some (.portCtrl ((o - 0x410010) / 32)) else
  if 0x410018 ≤ o ∧ o < 0x410218 ∧ (o - 0x410018) % 32 = 0 then some (.portCount ((o - 0x410018) / 32)) else
  if o = 0x800000 then some .ioPcieStat else
  if o = 0x800008 then some .ioPwin else
  if o = 0x800010 then some .ioStatus else
  if 0x800100 ≤ o ∧ o < 0x800120 ∧ (o - 0x800100) % 8 = 0 then some (.pfvecArmed ((o - 0x800100) / 8)) else
  if 0x800120 ≤ o ∧ o < 0x800140 ∧ (o - 0x800120) % 8 = 0 then some (.pfvecPend ((o - 0x800120) / 8)) else
  if 0x810000 ≤ o ∧ o < 0x810400 ∧ (o - 0x810000) % 16 = 0 then some (.feedCh 32 ((o - 0x810000) / 16)) else
  if 0x810008 ≤ o ∧ o < 0x810408 ∧ (o - 0x810008) % 16 = 0 then some (.feedBeats 32 ((o - 0x810008) / 16)) else
  if o = 0x810400 then some (.feedStatus 32) else
  if o = 0x810408 then some (.feedTimer 32) else
  if 0x820000 ≤ o ∧ o < 0x821000 ∧ (o - 0x820000) % 16 = 0 then some (.pfMsixAddr ((o - 0x820000) / 16)) else
  if 0x820008 ≤ o ∧ o < 0x821008 ∧ (o - 0x820008) % 16 = 0 then some (.pfMsixData ((o - 0x820008) / 16)) else
  if 0x821000 ≤ o ∧ o < 0x821020 ∧ (o - 0x821000) % 8 = 0 then some (.pfPba ((o - 0x821000) / 8)) else
  none

/-- The register at offset o of link die d. -/
def regAtLink (d o : Nat) : Option Reg :=
  if 0x0 ≤ o ∧ o < 0x200 ∧ (o - 0x0) % 64 = 0 then some (.linkState d ((o - 0x0) / 64)) else
  if 0x8 ≤ o ∧ o < 0x208 ∧ (o - 0x8) % 64 = 0 then some (.linkFec d ((o - 0x8) / 64)) else
  if 0x10 ≤ o ∧ o < 0x210 ∧ (o - 0x10) % 64 = 0 then some (.linkSer d ((o - 0x10) / 64)) else
  if 0x18 ≤ o ∧ o < 0x218 ∧ (o - 0x18) % 64 = 0 then some (.linkRelock d ((o - 0x18) / 64)) else
  if 0x20 ≤ o ∧ o < 0x220 ∧ (o - 0x20) % 8 = 0 ∧ (o - 0x20) % 64 < 16 then some (.linkPg d ((o - 0x20) / 64) ((o - 0x20) % 64 / 8)) else
  if 0x30 ≤ o ∧ o < 0x230 ∧ (o - 0x30) % 8 = 0 ∧ (o - 0x30) % 64 < 16 then some (.linkPgerr d ((o - 0x30) / 64) ((o - 0x30) % 64 / 8)) else
  if o = 0x400 then some (.linkdStatus d) else
  none

/-- The register at offset o of tile t. -/
def regAtTile (t o : Nat) : Option Reg :=
  if o = 0x0 then some (.tstartResult t) else
  if 0x4000 ≤ o ∧ o < 0x4080 ∧ (o - 0x4000) % 16 = 0 then some (.nibCore t ((o - 0x4000) / 16)) else
  if o = 0x4100 then some (.nibStatus t) else
  if o = 0x4108 then some (.nibFailLog t) else
  if o = 0x8000 then some (.tmemCeCount t) else
  if o = 0x8008 then some (.tmemUeLog t) else
  if o = 0x8010 then some (.tmemScrub t) else
  if o = 0x8018 then some (.tmemBackinv t) else
  if o = 0x8020 then some (.tmemPoison t) else
  if o = 0x8028 then some (.tmemZmapHits t) else
  if 0xa000 ≤ o ∧ o < 0xa100 ∧ (o - 0xa000) % 16 = 0 then some (.feedCh t ((o - 0xa000) / 16)) else
  if 0xa008 ≤ o ∧ o < 0xa108 ∧ (o - 0xa008) % 16 = 0 then some (.feedBeats t ((o - 0xa008) / 16)) else
  if o = 0xa400 then some (.feedStatus t) else
  if o = 0xa408 then some (.feedTimer t) else
  if 0xc000 ≤ o ∧ o < 0xc080 ∧ (o - 0xc000) % 8 = 0 then some (.tambArray t ((o - 0xc000) / 8)) else
  if o = 0xc080 then some (.tambStatus t) else
  if o = 0xc088 then some (.tambFailLog t) else
  if o = 0xc090 then some (.tambBallast t) else
  if o = 0xc098 then some (.tambWorkMacs t) else
  if o = 0xc0a0 then some (.tambBallastMacs t) else
  if o = 0xe000 then some (.filetAlloc t) else
  if o = 0xe008 then some (.filetUnit t) else
  if o = 0xe010 then some (.filetServed t) else
  if o = 0xe018 then some (.filetStatus t) else
  if 0x10000 ≤ o ∧ o < 0x11000 ∧ (o - 0x10000) % 16 = 0 then some (.bobCfg t ((o - 0x10000) / 16)) else
  if 0x10008 ≤ o ∧ o < 0x11008 ∧ (o - 0x10008) % 16 = 0 then some (.bobState t ((o - 0x10008) / 16)) else
  if 0x12000 ≤ o ∧ o < 0x12800 ∧ (o - 0x12000) % 16 = 0 then some (.knotCfg t ((o - 0x12000) / 16)) else
  if 0x12008 ≤ o ∧ o < 0x12808 ∧ (o - 0x12008) % 16 = 0 then some (.knotVal t ((o - 0x12008) / 16)) else
  if o = 0x13000 then some (.tbobPool t) else
  if o = 0x13008 then some (.tbobFree t) else
  if o = 0x13010 then some (.tbobStatus t) else
  if o = 0x13018 then some (.tbobDrops t) else
  if o = 0x14000 then some (.folioPool t) else
  if o = 0x14008 then some (.folioFree t) else
  if o = 0x14010 then some (.folioUnit t) else
  if o = 0x14018 then some (.folioAlloc t) else
  if o = 0x14020 then some (.folioStatus t) else
  if o = 0x14028 then some (.folioDone t) else
  none

/-- The register at offset o of Quill die d. -/
def regAtQuill (d o : Nat) : Option Reg :=
  if 0x0 ≤ o ∧ o < 0x200 ∧ (o - 0x0) % 16 = 0 then some (.quillHart d ((o - 0x0) / 16)) else
  if o = 0x1000 then some (.quillStatus d) else
  if o = 0x1008 then some (.quillMcheck d) else
  none

/-- The register at offset o of context window c. -/
def regAtWin (c o : Nat) : Option Reg :=
  if o = 0x0 then some (.hostwId c) else
  if o = 0x8 then some (.hostwHwin c) else
  if o = 0x10 then some (.hostwKnotDb c) else
  if o = 0x18 then some (.hostwStat c) else
  if o = 0x20 then some (.hostwHwinFault c) else
  if o = 0x100 then some (.ctxfCause c) else
  if o = 0x108 then some (.ctxfDetail c) else
  if o = 0x110 then some (.ctxrCtrl c) else
  if o = 0x118 then some (.ctxrPending c) else
  if o = 0x120 then some (.ctxrTime c) else
  if o = 0x128 then some (.ctxhCfg c) else
  if o = 0x130 then some (.ctxhHang c) else
  if o = 0x400 then some (.ctxwCmpl c) else
  if o = 0x408 then some (.ctxwCmplNext c) else
  if o = 0x410 then some (.ctxwCmplStat c) else
  if o = 0x418 then some (.ctxwNibExc c) else
  if o = 0x500 then some (.feedwDoorbell c) else
  if o = 0x508 then some (.feedwDbStat c) else
  if o = 0x510 then some (.feedwBuddy c) else
  if o = 0x600 then some (.filetwTables c) else
  if o = 0x608 then some (.filetwPaused c) else
  if o = 0x700 then some (.foliowStat c) else
  if o = 0x708 then some (.foliowExhaust c) else
  if o = 0x800 then some (.linkwStreams c) else
  if o = 0x808 then some (.linkwStat c) else
  if o = 0x900 then some (.pwrwTicks c) else
  if o = 0x908 then some (.pwrwCycles c) else
  if 0x1000 ≤ o ∧ o < 0x1700 ∧ (o - 0x1000) % 16 = 0 then some (.vmapMap c ((o - 0x1000) / 16)) else
  if 0x1008 ≤ o ∧ o < 0x1708 ∧ (o - 0x1008) % 16 = 0 then some (.vmapHit c ((o - 0x1008) / 16)) else
  if 0x1800 ≤ o ∧ o < 0x1810 ∧ (o - 0x1800) % 8 = 0 then some (.vecwArmed c ((o - 0x1800) / 8)) else
  if 0x1810 ≤ o ∧ o < 0x1820 ∧ (o - 0x1810) % 8 = 0 then some (.vecwPend c ((o - 0x1810) / 8)) else
  if o = 0x1820 then some (.vecwStat c) else
  if 0x8000 ≤ o ∧ o < 0x8800 ∧ (o - 0x8000) % 16 = 0 then some (.vfMsixAddr c ((o - 0x8000) / 16)) else
  if 0x8008 ≤ o ∧ o < 0x8808 ∧ (o - 0x8008) % 16 = 0 then some (.vfMsixData c ((o - 0x8008) / 16)) else
  if 0x9000 ≤ o ∧ o < 0x9010 ∧ (o - 0x9000) % 8 = 0 then some (.vfPba c ((o - 0x9000) / 8)) else
  none

/-- The register whose first byte is BAR0 offset a, if any (T13-3). -/
def regAt (a : Nat) : Option Reg :=
  if a < 0x400000 then regAtLow a
  else if a < 0x500000 then
    (regAtLink ((a - 0x400000) / 0x40000) ((a - 0x400000) % 0x40000)).orElse (fun _ => regAtLow a)
  else if a < 0x1000000 then regAtLow a
  else if a < 0x3000000 then regAtTile ((a - 0x1000000) / 0x100000) ((a - 0x1000000) % 0x100000)
  else if a < 0x3800000 then regAtQuill ((a - 0x3000000) / 0x400000) ((a - 0x3000000) % 0x400000)
  else if a < 0x3900000 then regAtWin ((a - 0x3800000) / 0x10000) ((a - 0x3800000) % 0x10000)
  else none

/-- The position of a named field: (hi, lo). A name the register lacks answers (0, 0); no definition of the model asks. -/
def Reg.pos (r : Reg) (n : FName) : Nat × Nat :=
  match r.fields.find? (fun f => f.name = n) with
  | some f => (f.hi, f.lo)
  | none => (0, 0)

/-- The word a list of fields holds after package reset. -/
def resetWordOf : List Field → Nat
  | [] => 0
  | f :: fs => f.reset <<< f.lo ||| resetWordOf fs

/-- The register's value after package reset. -/
def Reg.resetWord (r : Reg) : W64 := BitVec.ofNat 64 (resetWordOf r.fields)

/-- What a register the state does not list reads as, by its offset. -/
def resetAt (a : Nat) : W64 :=
  match regAt a with
  | some r => r.resetWord
  | none => 0

end Sys2Proof.Machine
end

