-- ==== Sys2Proof/Machine/State.lean ====
section
/-!
DEFINITION. The state of the block, the reasons a step can stop, and the state after reset.
-/
namespace Sys2Proof.Machine

/-- Why the machine stops with a fault. -/
inductive Fault
  /-- Raised by no command of this model: every access outside the maps completes as R13, R79 or R409 says. Safe. -/
  | unmapped
deriving DecidableEq, Repr

/-- Why a command has no meaning. -/
inductive Refusal
  /-- The command's meaning is not written: raised by `exec` alone. Safe. -/
  | notModelled (mnemonic : String)
deriving DecidableEq, Repr

/-- What the package or the rack parts of the model send, as it leaves. -/
inductive Output
  /-- an MSI-X message of a function (0 PF, n VF n) -/
  | msix (fn : Nat) (addr : W64) (data : W32)
  /-- the data a BAR0 read returns -/
  | regData (addr size data : Nat)
  /-- a PCIe read request of a function, with its tag -/
  | pcieRead (fn tag addr len : Nat)
  /-- a posted PCIe write of a function; ro is Relaxed Ordering -/
  | pcieWrite (fn addr : Nat) (data : List Byte) (ro : Bool)
  /-- a completion to the host: 0 SC, 1 UR, 4 CA; ep is a poisoned payload -/
  | pcieCpl (fn status : Nat) (ep : Bool) (data : List Byte)
  /-- what a home answers to an access: 0, or UNCORR_MEM, and the data of a read (R80, R84) -/
  | memReply (pa status : Nat) (data : List Byte)
  /-- a Steward message to the TMC: its code and arguments (Table 17-4) -/
  | toTmc (code : Nat) (args : List Nat)
  /-- a control symbol of a port: its code and payload (Table 12-7) -/
  | symbol (port code payload : Nat)
  /-- a frame of a package link: TYPE, FRAME, HTAG, BINDING, COUNT_LO, and its beats or its payload bytes (Table 12-2) -/
  | frame (link type f htag binding countLo : Nat) (beats : List Beat)
  /-- the Steward's answer to a message of Table 17-4, or to an MCTP control message (R539) -/
  | stewardReply (code : Nat) (args : List Nat)
  | mctpReply (code : Nat) (args : List Nat)
  /-- a message of a TMC to the Steward in a slot (Table 17-4) -/
  | toSteward (tray slot code : Nat) (args : List Nat)
  /-- the reset line of a slot, asserted or released -/
  | resetLine (tray slot : Nat) (on : Bool)
  /-- a TMC's answer to a datagram: manager, sequence number, shared status code, data (Table 17-3) -/
  | tmcReply (tray m seq status : Nat) (data : List Nat)
  /-- a manager's datagram to a TMC (Table 17-3) -/
  | datagram (m tray code : Nat) (args : List Nat)
  /-- a heartbeat on a path: 0 management Ethernet, 1 cross-link (R547) -/
  | heartbeat (m path : Nat) (h : Heard)
  /-- an answer of the Redfish service: its HTTP status and its contents (R560) -/
  | redfish (status : Nat) (body : List Nat)
  /-- a Redfish event: what it reports -/
  | event (e : RackEvent)
deriving DecidableEq, Repr

/-- What a context holds beside its registers. -/
structure CtxState where
  /-- `time` at which the reset in progress began (R470) -/
  resetStart : Nat
  /-- the ring's Well frames as they were at LOCK, one base per 64 KiB or part of it (R124) -/
  ringFrames : List Nat
  /-- retirements in its ring (Table 15-4) -/
  retired : Nat
  /-- `time` at which the fault that CTXF holds arose (R501) -/
  faultAt : Option Nat
  /-- `time` at which a Well bank that the context uses last failed (R84, R200) -/
  bankAt : Option Nat
deriving DecidableEq, Repr

def CtxState.fresh : CtxState := { resetStart := 0, ringFrames := [], retired := 0, faultAt := none, bankAt := none }

/-- The permanent store of the Steward: what survives a package reset (Table 0-4). -/
structure Perm where
  /-- the defect list, oldest first (Table 14-3) -/
  defects : List W64
  boots : W32
  /-- the installation record (128 bytes) and the position X, Y; none while RECORD_VALID is 0 (R580, R583) -/
  record : Option (List Byte × Nat × Nat)
  /-- the recovery image kept last, if any (R544) -/
  firmware : Option (List Byte)
deriving DecidableEq, Repr

/-- The whole machine. -/
structure State where
  /-- the commands that wait, first in, first out -/
  pending : List Instr
  /-- BAR0 registers by offset; an unlisted one holds its reset value -/
  regs : SMap W64
  /-- high halves latched by a low-half read, by register offset (R12) -/
  latch : SMap (Option W32)
  /-- package time in 10 ns units since package reset (Table 3-6) -/
  time : Nat
  /-- hundredths of tile cycles since package reset (Table 4-3) -/
  cyc100 : Nat
  /-- free values taken so far -/
  freeIx : Nat
  /-- tile DRAM and Well by package physical address -/
  mem : List Host.Cell
  /-- poisoned DRAM lines, by address ÷ 64 (R80) -/
  poison : SMap Bool
  /-- Well words left in error by a scrub finding, by address ÷ 8 (R81) -/
  wellBad : SMap Bool
  /-- zero-map bits, by address ÷ 64 (R225) -/
  zmap : SMap Bool
  /-- directory entries, oldest allocation first (R96, R98) -/
  dir : List DirEntry
  /-- next line of the patrol scrub, per tile (R81) -/
  scrub : SMap Nat
  nib : SMap NibCore
  hart : SMap Hart
  /-- who waits, in the order the waits began -/
  waiting : List Agent
  /-- reservation requests at the pool's home, in arrival order (R218) -/
  poolQ : List PoolReq
  ctx : SMap CtxState
  hostReads : List HostRead
  nextTag : Nat
  images : SMap Image
  bob : SMap Bobbin
  /-- Feed channels by 64 × tile + channel; tile 32 is the IO die -/
  feed : SMap FeedCh
  /-- round robin of the Feed arbiters: 1 + the channel granted last, by (tile × 8 + path) × 4 + priority (R282) -/
  arb : SMap Nat
  /-- Tambour arrays by 16 × tile + array -/
  tamb : SMap TambArray
  /-- spare arrays that failed since the start, by (tile, physical array) (R203) -/
  deadSpares : List (Nat × Nat)
  /-- what units have read from host memory for the work each has taken, by unit as in `starts` -/
  hostBuf : SMap HostBuf
  filet : SMap FiletUnit
  /-- tables by 64 × context + ID; the redirect map; the load counters by 32 × table key + tile -/
  tables : SMap FiletTable
  redirects : List Redirect
  loads : SMap FiletLoad
  folio : SMap FolioUnit
  /-- works started by Tambour, Filet and Folio units, by (ENGINE × 64 + tile) × 64 + unit (Table 15-4) -/
  starts : SMap Nat
  /-- sequences by 4096 × context + SID -/
  seqs : SMap FolioSeq
  /-- buddy epochs by sending context, and by 16 × port + receiving context -/
  epoch : SMap Epoch
  recvEpoch : SMap RecvEpoch
  /-- outbound queues, by 16 × port + context (R248) -/
  outq : SMap (List OutMsg)
  /-- messages that slots took from those queues (Table 15-4) -/
  taken : SMap Nat
  fn : SMap FnState
  perm : Perm
  /-- the physical unit of a logical one, by (KIND × 32 + tile) × 64 + logical unit; KIND as in Table 14-3 (Table 14-4) -/
  unitMap : SMap Nat
  stroke : Stroke
  ports : SMap PortSt
  links : SMap LinkSt
  /-- slots prefetched or in progress -/
  slots : List SlotRun
  watches : List Watch
  /-- when progress was sampled last (R478, R480) -/
  sampledAt : Nat
  /-- the wait-for detector, by context, and the probes forwarded, oldest first (R485) -/
  closed : SMap Closed
  probes : List ProbeId
  start : StartSt
  power : PowerSt
  stw : StwSt
  rack : RackSt
  /-- the straps of the tray slot, TRAY and SLOT, if they could be read (R581) -/
  straps : Option (Nat × Nat)
  /-- the invalidation under way: its context (R88) -/
  inval : Option Nat
  /-- consecutive replays of a flit, per fabric link (R78) -/
  replays : SMap Nat
  /-- everything sent, oldest first -/
  outbox : List Output
deriving DecidableEq, Repr

/-- The machine after reset. -/
def State.reset : State :=
  { pending := [], regs := [], latch := [], time := 0, cyc100 := 0, freeIx := 0, mem := [], poison := [], wellBad := [],
    zmap := [], dir := [], scrub := [], nib := [], hart := [], waiting := [], poolQ := [], ctx := [], hostReads := [], nextTag := 0,
    images := [], bob := [], feed := [], arb := [], tamb := [], deadSpares := [], hostBuf := [], filet := [], tables := [], redirects := [], loads := [],
    folio := [], starts := [], seqs := [], epoch := [], recvEpoch := [], outq := [], taken := [], fn := [], perm := { defects := [], boots := 0, record := none, firmware := none }, unitMap := [],
    stroke := Stroke.stopped, ports := [], links := [], slots := [], watches := [], sampledAt := 0, closed := [], probes := [],
    start := StartSt.fresh, power := PowerSt.fresh, stw := StwSt.fresh, rack := RackSt.fresh, straps := none, inval := none, replays := [],
    outbox := [] }

/-- The outcome of a command. -/
abbrev Out := Host.Outcome State Fault Refusal

end Sys2Proof.Machine
end

