-- ==== Sys2Proof/Machine/Ops.lean ====
section
/-!
DEFINITION. Named operations over the state: registers and their fields, interrupt vectors, the records of Nib cores and
harts, the defect list, and the context fault, which every family shares.
-/
namespace Sys2Proof.Machine

/-! ### Registers -/

/-- The word a register holds (Table 0-3 decides what a reader or writer outside sees). -/
def State.reg (s : State) (r : Reg) : W64 := smGet (fun _ => r.resetWord) s.regs r.addr

/-- The register set to a word. -/
def State.setReg (s : State) (r : Reg) (w : W64) : State :=
  { s with regs := smSet (fun _ => r.resetWord) s.regs r.addr w }

/-- A field's value. -/
def State.fld (s : State) (r : Reg) (f : FName) : Nat := bits (s.reg r) (r.pos f).1 (r.pos f).2

/-- A one-bit field. -/
def State.flag (s : State) (r : Reg) (f : FName) : Bool := s.fld r f ≠ 0

/-- A field set to the low bits of v. -/
def State.setFld (s : State) (r : Reg) (f : FName) (v : Nat) : State :=
  s.setReg r (setBits (s.reg r) (r.pos f).1 (r.pos f).2 v)

/-- A one-bit field set. -/
def State.setFlag (s : State) (r : Reg) (f : FName) (b : Bool) : State := s.setFld r f (if b then 1 else 0)

/-- Several fields of one register set. -/
def State.setFlds (s : State) (r : Reg) (l : List (FName × Nat)) : State :=
  l.foldl (fun s fv => s.setFld r fv.1 fv.2) s

/-- A counter field advanced, wrapping at its width. -/
def State.addFld (s : State) (r : Reg) (f : FName) (k : Nat) : State := s.setFld r f (s.fld r f + k)

/-- A counter field advanced, saturating at its width. -/
def State.satFld (s : State) (r : Reg) (f : FName) (k : Nat) : State :=
  s.setFld r f (min (s.fld r f + k) (2 ^ ((r.pos f).1 + 1 - (r.pos f).2) - 1))

/-- Is the LOCK bit of the register's LK fields set? (R9, R65, R137, R391, R507) -/
def State.locked (s : State) : Reg → Bool
  | .strokeTiming => s.flag .strokeCtrl .LOCK
  | .strokeSlipCfg => s.flag .strokeCtrl .LOCK
  | .ctxwCmpl c => s.flag (.ctxwCmpl c) .LOCK
  | .linkwStreams c => s.flag (.linkwStreams c) .LOCK
  | .pwrCtrl => s.flag .pwrCtrl .LOCK
  | .pwrW _ => s.flag .pwrCtrl .LOCK
  | .pwrStatic _ => s.flag .pwrCtrl .LOCK
  | _ => false

/-- The status register whose WO_VIOLATION a broken access code sets: that of the block that holds the field (R9). -/
def Reg.violation : Reg → Reg
  | .strokeTiming => .strokeStatus
  | .strokeSlipCfg => .strokeStatus
  | .ctxwCmpl c => .ctxwCmplStat c
  | .linkwStreams c => .ctxwCmplStat c
  | .pwrCtrl => .pwrStatus
  | .pwrW _ => .pwrStatus
  | .pwrStatic _ => .pwrStatus
  | _ => .idStatus

/-- One field of a register under a write of `data` that covers the bits of `mask` (Table 0-3, R8, R9, R595):
the register's new word, and whether the access code was broken. `lk` says whether LK fields are locked. -/
def fieldWrite (lk : Bool) (data mask : W64) (old : W64) (f : Field) : W64 × Bool :=
  let m := maskOf f.hi f.lo &&& mask
  if m = 0 then (old, false) else
  let new := (old &&& ~~~ m) ||| (data &&& m)
  match f.acc with
  | .RW => (new, false)
  | .W1C => (old &&& ~~~ (data &&& m), false)
  | .W1S => (old ||| (data &&& m), false)
  | .LK => if lk then (old, new ≠ old) else (new, false)
  | .WO => (old, false)
  | .RO => (old, false)
  | .RC => (old, false)
  | .WZ => (old, false)

/-- A write to a register under its access codes; WO fields and the actions of WZ fields have commands of their own. -/
def State.writeCodes (s : State) (r : Reg) (data mask : W64) : State :=
  let lk := s.locked r
  let w := r.fields.foldl (fun acc f =>
    let x := fieldWrite lk data mask acc.1 f
    (x.1, acc.2 || x.2)) (s.reg r, false)
  let s := s.setReg r w.1
  if w.2 then s.setFlag r.violation .WO_VIOLATION true else s

/-! ### Time and identity -/

/-- STROKE.COUNT. -/
def State.count (s : State) : Nat := s.fld .strokeCount .COUNT

/-- The low 32 bits of STROKE.COUNT, as the logs record them. -/
def State.countLo (s : State) : Nat := s.count % 2 ^ 32

/-- STROKE.STATUS.STATE (Table 2-12): 0 STOPPED, 1 JOINING, 2 RUNNING, 3 HOLDOVER. -/
def State.strokeState (s : State) : Nat := s.fld .strokeStatus .STATE

/-- Does the stroke run (RUNNING or HOLDOVER, R48)? -/
def State.strokeRuns (s : State) : Bool := s.strokeState = 2 || s.strokeState = 3

/-- STROKE.PHASE, the time since the boundary, in 2⁻⁸ ns. -/
def State.phase (s : State) : Nat := s.fld .strokePhase .PHASE

/-- The phase in whole ns. -/
def State.phaseNs (s : State) : Nat := s.phase / 256

/-- The stroke period in µs. -/
def State.periodUs (s : State) : Nat := s.fld .strokeTiming .PERIOD_US

/-- Has the stroke clock come to an offset in the stroke? At the end of the period it waits for the boundary. -/
def State.reached (s : State) (ns : Nat) : Bool := min ns (s.periodUs * 1000 - 1) ≤ s.phaseNs

/-- Is the phase inside the stroke guard, the last GUARD_US of the period, while the stroke runs (R39)? -/
def State.inGuard (s : State) : Bool :=
  s.strokeRuns && (s.periodUs - s.fld .strokeTiming .GUARD_US) * 1000 ≤ s.phaseNs

/-- A free value, and the state with one more taken. -/
def State.free (s : State) : W64 × State := (Config.freeBits s.freeIx, { s with freeIx := s.freeIx + 1 })

/-- Something sent. -/
def State.send (s : State) (o : Output) : State := { s with outbox := s.outbox ++ [o] }

/-! ### The records of units -/

def State.core (s : State) (n : Nat) : NibCore := smGet (fun _ => NibCore.off) s.nib n
def State.setCore (s : State) (n : Nat) (k : NibCore) : State := { s with nib := smSet (fun _ => NibCore.off) s.nib n k }
def State.hartOf (s : State) (h : Nat) : Hart := smGet (fun _ => Hart.off) s.hart h
def State.setHart (s : State) (h : Nat) (k : Hart) : State := { s with hart := smSet (fun _ => Hart.off) s.hart h k }
def State.context (s : State) (c : Nat) : CtxState := smGet (fun _ => CtxState.fresh) s.ctx c
def State.setContext (s : State) (c : Nat) (k : CtxState) : State :=
  { s with ctx := smSet (fun _ => CtxState.fresh) s.ctx c k }
def State.fnOf (s : State) (f : Nat) : FnState := smGet (fun _ => FnState.fresh) s.fn f
def State.setFn (s : State) (f : Nat) (k : FnState) : State := { s with fn := smSet (fun _ => FnState.fresh) s.fn f k }
def State.image (s : State) (c : Nat) : Image := smGet (fun _ => Image.empty) s.images c
def State.setImage (s : State) (c : Nat) (i : Image) : State :=
  { s with images := smSet (fun _ => Image.empty) s.images c i }
def State.bobbin (s : State) (b : Nat) : Bobbin := smGet (fun _ => Bobbin.empty) s.bob b
def State.setBobbin (s : State) (b : Nat) (k : Bobbin) : State :=
  { s with bob := smSet (fun _ => Bobbin.empty) s.bob b k }
def State.outQueue (s : State) (p c : Nat) : List OutMsg := smGet (fun _ => []) s.outq (16 * p + c)
def State.setOutQueue (s : State) (p c : Nat) (q : List OutMsg) : State :=
  { s with outq := smSet (fun _ => []) s.outq (16 * p + c) q }

def State.feedCh (s : State) (i : Nat) : FeedCh := smGet (fun _ => FeedCh.idle) s.feed i
def State.setFeedCh (s : State) (i : Nat) (k : FeedCh) : State :=
  { s with feed := smSet (fun _ => FeedCh.idle) s.feed i k }
def State.tambOf (s : State) (a : Nat) : TambArray := smGet (fun _ => TambArray.idle) s.tamb a
def State.setTamb (s : State) (a : Nat) (k : TambArray) : State :=
  { s with tamb := smSet (fun _ => TambArray.idle) s.tamb a k }
def State.filetOf (s : State) (t : Nat) : FiletUnit := smGet (fun _ => FiletUnit.idle) s.filet t
def State.setFilet (s : State) (t : Nat) (k : FiletUnit) : State :=
  { s with filet := smSet (fun _ => FiletUnit.idle) s.filet t k }
def State.tableOf (s : State) (key : Nat) : FiletTable := smGet (fun _ => FiletTable.none) s.tables key
def State.setTable (s : State) (key : Nat) (k : FiletTable) : State :=
  { s with tables := smSet (fun _ => FiletTable.none) s.tables key k }
def State.folioOf (s : State) (t : Nat) : FolioUnit := smGet (fun _ => FolioUnit.idle) s.folio t
def State.setFolio (s : State) (t : Nat) (k : FolioUnit) : State :=
  { s with folio := smSet (fun _ => FolioUnit.idle) s.folio t k }
def State.seqOf (s : State) (key : Nat) : FolioSeq := smGet (fun _ => FolioSeq.none) s.seqs key
def State.setSeq (s : State) (key : Nat) (k : FolioSeq) : State :=
  { s with seqs := smSet (fun _ => FolioSeq.none) s.seqs key k }

def State.epochOf (s : State) (c : Nat) : Epoch := smGet (fun _ => Epoch.none) s.epoch c
def State.setEpoch (s : State) (c : Nat) (e : Epoch) : State :=
  { s with epoch := smSet (fun _ => Epoch.none) s.epoch c e }
def State.recvOf (s : State) (p c : Nat) : RecvEpoch := smGet (fun _ => RecvEpoch.none) s.recvEpoch (16 * p + c)
def State.setRecv (s : State) (p c : Nat) (e : RecvEpoch) : State :=
  { s with recvEpoch := smSet (fun _ => RecvEpoch.none) s.recvEpoch (16 * p + c) e }

/-- A context that is closed no longer (R483): the strokes counted and the probe under way are gone. -/
def breakClosed (m : SMap Closed) (c : Nat) : SMap Closed :=
  let d := fun _ => Closed.none
  smSet d m c { smGet d m c with strokes := 0, out := none }

/-- A work started by a unit of Tambour, Filet or Folio, counted (Table 15-4). -/
def State.startsOf (s : State) (engine tile unit : Nat) : Nat := smGet (fun _ => 0) s.starts ((engine * 64 + tile) * 64 + unit)
def State.countStart (s : State) (engine tile unit : Nat) : State :=
  { s with starts := smSet (fun _ => 0) s.starts ((engine * 64 + tile) * 64 + unit) (s.startsOf engine tile unit + 1) }

/-- The key of a unit (`starts`), and what it has read from host memory for the work it has taken. -/
def unitKey (engine tile unit : Nat) : Nat := (engine * 64 + tile) * 64 + unit
def State.bufOf (s : State) (key : Nat) : HostBuf := smGet (fun _ => HostBuf.empty) s.hostBuf key
def State.setBuf (s : State) (key : Nat) (b : HostBuf) : State :=
  { s with hostBuf := smSet (fun _ => HostBuf.empty) s.hostBuf key b }

/-- FEED.CH of channel 64 × tile + n. -/
def feedReg (i : Nat) : Reg := .feedCh (i / 64) (i % 64)

/-- Tile of a Nib core. -/
def coreTile (n : Nat) : Nat := n / 8

/-- NIB.CORE of core n. -/
def coreReg (n : Nat) : Reg := .nibCore (n / 8) (n % 8)

/-- QUILL.HART of hart h (mhartid = die × 32 + core, R91). -/
def hartReg (h : Nat) : Reg := .quillHart (h / 32) (h % 32)

/-- The context a core is bound to (R112). -/
def State.coreCtx (s : State) (n : Nat) : Option Nat :=
  if s.flag (coreReg n) .BOUND then some (s.fld (coreReg n) .CTX) else none

/-- The context a hart is bound to (R91). -/
def State.hartCtx (s : State) (h : Nat) : Option Nat :=
  if s.flag (hartReg h) .BOUND then some (s.fld (hartReg h) .CTX) else none

/-- Is a reset of the context in progress (CTXR.CTRL.STATE = RESETTING)? -/
def State.resetting (s : State) (c : Nat) : Bool := s.fld (.ctxrCtrl c) .STATE = 1

/-- Has package failure been declared (R475)? -/
def State.failed (s : State) : Bool := s.flag .pkgFail .FAILED

/-- May the context start new work: no reset in progress, no package failure (R470, R475)? -/
def State.ctxLive (s : State) (c : Nat) : Bool := s.fld (.ctxrCtrl c) .STATE = 0 && !s.failed

/-! ### Interrupt vectors (R416, R417, R425 to R427) -/

/-- Does the function issue requests: not in D3hot, itself or through the PF (R425)? -/
def State.fnAwake (s : State) (f : Nat) : Bool := !(s.fnOf f).d3 && !(s.fnOf 0).d3

/-- The two words of a function's MSI-X table entry. -/
def msixAddr (f v : Nat) : Reg := if f = 0 then .pfMsixAddr v else .vfMsixAddr (f - 1) v
def msixData (f v : Nat) : Reg := if f = 0 then .pfMsixData v else .vfMsixData (f - 1) v
/-- The PBA word that holds vector v's bit. -/
def pbaReg (f v : Nat) : Reg := if f = 0 then .pfPba (v / 64) else .vfPba (f - 1) (v / 64)
/-- The ARMED and PEND words that hold vector v's bit. -/
def armedReg (f v : Nat) : Reg := if f = 0 then .pfvecArmed (v / 64) else .vecwArmed (f - 1) (v / 64)
def pendReg (f v : Nat) : Reg := if f = 0 then .pfvecPend (v / 64) else .vecwPend (f - 1) (v / 64)

/-- Bit i of a register set or cleared. -/
def State.setRegBit (s : State) (r : Reg) (i : Nat) (b : Bool) : State :=
  s.setReg r (setBits (s.reg r) i i (if b then 1 else 0))

/-- Is a message of vector v held: function or vector masked, or the function in D3hot (R416, R425)? -/
def State.msixHeld (s : State) (f v : Nat) : Bool :=
  (s.fnOf f).funcMask || s.flag (msixData f v) .MASK || !s.fnAwake f

/-- A generated message: lost while MSI-X is disabled (R426), held in the PBA while masked (R416), sent otherwise. -/
def State.message (s : State) (f v : Nat) : State :=
  if !(s.fnOf f).msixEnable then s
  else if s.msixHeld f v then s.setRegBit (pbaReg f v) (v % 64) true
  else s.send (.msix f (s.reg (msixAddr f v)) (BitVec.ofNat 32 (s.fld (msixData f v) .DATA)))

/-- An event on vector v of function f (R417): a message and ARMED cleared if armed, PEND set otherwise. -/
def State.vectorEvent (s : State) (f v : Nat) : State :=
  if bitAt (s.reg (armedReg f v)) (v % 64) then (s.setRegBit (armedReg f v) (v % 64) false).message f v
  else s.setRegBit (pendReg f v) (v % 64) true

/-- An event on a vector of the PF (Table 13-7). -/
def State.pfEvent (s : State) (v : Nat) : State := s.vectorEvent 0 v

/-- An event on a vector of the VF that serves context c (Table 13-6). -/
def State.vfEvent (s : State) (c v : Nat) : State := s.vectorEvent (c + 1) v

/-- Does a vector-map entry name member n (local bobbin, or channel) of kind 0 or 1 on a tile, or on the IO die when io
(R420)? -/
def vmapNames (e : W64) (kind : Nat) (io : Bool) (tile n : Nat) : Bool :=
  let i := fun hi lo => bits e hi lo
  i 63 63 = 1 && i 62 61 = kind && (kind = 0 || i 55 55 = (if io then 1 else 0)) && i 60 56 = tile &&
    if kind = 0 then i 54 52 = n / 32 && bitAt e (n % 32)
    else if io then i 54 52 = n / 16 && bitAt e (n % 16)
    else bitAt e n

/-- An event of a member of context c: every entry that names it takes a HIT bit and raises its vector (R421). -/
def State.memberEvent (s : State) (c kind : Nat) (io : Bool) (tile n : Nat) : State :=
  (List.range 112).foldl (fun s i =>
    if vmapNames (s.reg (.vmapMap c i)) kind io tile n then
      (s.setRegBit (.vmapHit c i) (if kind = 0 then n % 32 else n % 16) true).vfEvent c (16 + i)
    else s) s

/-! ### Spare substitution (Table 14-4) -/

/-- The physical unit that stands for a logical one; each stands for itself until MAP decides otherwise. -/
def State.physOf (s : State) (kind tile unit : Nat) : Nat :=
  smGet (fun k => k % 64) s.unitMap ((kind * 32 + tile) * 64 + unit)

def State.setPhys (s : State) (kind tile unit phys : Nat) : State :=
  { s with unitMap := smSet (fun k => k % 64) s.unitMap ((kind * 32 + tile) * 64 + unit) phys }

/-! ### The defect list (R443, R444) -/

/-- A defect entry of Table 14-3, found in the field (ORIGIN 0) or by the start test (1). -/
def defectEntry (kind origin : Nat) (zmapRow : Bool) (boot tile loc : Nat) : W64 :=
  BitVec.ofNat 64 (kind <<< 60 ||| origin <<< 59 ||| (if zmapRow then 1 else 0) <<< 57 ||| (boot % 2 ^ 16) <<< 40
    ||| tile <<< 35 ||| loc)

/-- KIND, ZMAP, TILE and LOC of an entry: what makes two entries the same. -/
def defectKey (e : W64) : Nat × Nat × Nat := (bits e 63 60, bits e 57 57, bits e 39 0)

/-- A unit or row listed: once, and not at all when the list is full (R443, R444). -/
def State.list (s : State) (kind origin : Nat) (zmapRow : Bool) (tile loc : Nat) : State :=
  let e := defectEntry kind origin zmapRow s.perm.boots.toNat tile loc
  if 4096 ≤ s.perm.defects.length || s.perm.defects.any (fun d => defectKey d = defectKey e) then s
  else { s with perm := { s.perm with defects := s.perm.defects ++ [e] } }

/-! ### Context faults (R466 to R470) -/

/-- A core stopped by its context's reset or its own failure: its waits abandoned, its buffered stores discarded
(R99, R179). -/
def NibCore.halt (k : NibCore) (st : NibStatus) : NibCore :=
  { k with st := st, wait := .none, stores := [], draws := [], fetched := none }

/-- Every core bound to context c halted as FAULTED; FAILED and DISABLED cores stay as they are. -/
def State.haltCores (s : State) (c : Nat) : State :=
  { s with
    nib := smMap (fun _ => NibCore.off) (fun n k =>
      if s.coreCtx n = some c && k.st ≠ .failed && k.st ≠ .disabled then k.halt .faulted else k) s.nib
    waiting := s.waiting.filter (fun a => match a with
      | .nib n => s.coreCtx n ≠ some c
      | .hart _ => true) }

/-- Context c's image as ARM clears: an armed one is to be disarmed, and one that is being validated or failed validation is given
up; each at the next boundary, or at once where the stroke is STOPPED (R52; notes/assumptions/80). -/
def State.dropImage (s : State) (c : Nat) : State :=
  let i := s.image c
  if !s.flag (.strokeImage c) .ARM then s
  else if s.strokeState = 0 then (s.setImage c Image.empty).setFld (.strokeImgStat c) .STATUS 2
  else if i.phase = .armed then s.setImage c { i with phase := .disarming }
  else s.setImage c { Image.empty with phase := .dropped }

/-- What is left of the image of a context whose reset begins runs no more (R76, R470). -/
def State.cutImage (s : State) (c : Nat) : State :=
  if (s.image c).phase = .disarming then s.setImage c { s.image c with cut := true } else s

/-- The start of a context reset (R470, step 1): STATE RESETTING, every unit of Table 15-3 to stop, ARM cleared and the
image disarmed at the next boundary, the cores stopped with their stores discarded. -/
def State.beginReset (s : State) (c : Nat) : State :=
  let s := (s.setFld (.ctxrCtrl c) .STATE 1).setFld (.ctxrPending c) .UNITS 0xFF
  let s := s.setContext c { s.context c with resetStart := s.time }
  let s := { s with poolQ := s.poolQ.filter fun q => q.ctx ≠ c }
  let s := (s.dropImage c).setFlag (.strokeImage c) .ARM false
  (s.cutImage c).haltCores c

/-- A fault in CTXF: its cause and who raised it. -/
def State.recordFault (s : State) (c cause engine tile unit arg : Nat) : State :=
  (s.setFld (.ctxfCause c) .CAUSE cause).setFlds (.ctxfDetail c)
    [(.ENGINE, engine), (.TILE, tile), (.UNIT, unit), (.ARG, arg)]

/-- A fault of a context whose CTXF holds one: only MERGED moves, and of two faults of one cycle the lower cause is the one recorded
(R468, R501). -/
def State.mergeFault (s : State) (c cause engine tile unit arg : Nat) : State :=
  let s := if (s.context c).faultAt = some s.time && cause < s.fld (.ctxfCause c) .CAUSE
    then s.recordFault c cause engine tile unit arg else s
  s.satFld (.ctxfCause c) .MERGED 1

/-- The first fault of a context. -/
def State.firstFault (s : State) (c cause engine tile unit arg : Nat) : State :=
  let s := (s.setFlds (.ctxfCause c) [(.VALID, 1), (.MERGED, 0), (.STROKE_LO, s.countLo)]).recordFault c cause engine tile unit arg
  s.setContext c { s.context c with faultAt := some s.time }

/-- A context fault (R466, R468): its record, its vectors and the context reset. While a fault is recorded only MERGED
moves in CTXF; a fault during a reset starts no second one, and a failed package starts none (R476). -/
def State.contextFault (s : State) (c cause engine tile unit arg : Nat) : State :=
  let s := if s.flag (.ctxfCause c) .VALID then s.mergeFault c cause engine tile unit arg
    else s.firstFault c cause engine tile unit arg
  if s.fld (.ctxrCtrl c) .STATE = 0 && !s.failed then ((s.beginReset c).vfEvent c 0).pfEvent (32 + c) else s

/-- A context fault that concerns no unit (R467). -/
def State.faultNoUnit (s : State) (c cause arg : Nat) : State := s.contextFault c cause 0xFF 0xFF 0xFFFF arg

/-- The contexts of a list faulted in order. -/
def State.faultEach (s : State) (cs : List Nat) (cause engine tile unit arg : Nat) : State :=
  cs.foldl (fun s c => s.contextFault c cause engine tile unit arg) s

/-- The sixteen contexts. -/
def allContexts : List Nat := List.range 16

end Sys2Proof.Machine
end

