-- ==== Sys2Proof/Machine/MemOps.lean ====
section
/-!
DEFINITION. Tile memory: the package physical map, lines and words in error, reads and writes at the home, the page walk,
and the writes that reach a completion ring. Rules R79 to R101, R124, R225, R233, R285, R597 of spec/.
-/
namespace Sys2Proof.Machine

/-! ### The map (Table 3-2) -/

/-- First address of the Well windows. -/
def wellBase : Nat := 0x4000000000

/-- Is the address tile DRAM? -/
def isDram (pa : Nat) : Bool := pa < wellBase

/-- Is the address Well: the low 24 MiB of a tile's 32 MiB window? -/
def isWell (pa : Nat) : Bool := wellBase ≤ pa && pa < 0x4040000000 && (pa - wellBase) % 0x2000000 < 0x1800000

/-- Is the address inside the ranges of Table 3-2? -/
def isMapped (pa : Nat) : Bool := isDram pa || isWell pa

/-- The tile that holds a mapped address. -/
def tileOfPa (pa : Nat) : Nat := if isDram pa then pa / 0x200000000 else (pa - wellBase) / 0x2000000

/-- The Well bank (0–47) of a Well address: 48 banks of 512 KiB in order (DEDUCED, notes/assumptions/6). -/
def wellBank (pa : Nat) : Nat := (pa - wellBase) % 0x2000000 / 0x80000

/-- LOC of the DRAM row of an address (Table 14-3, R596). -/
def rowLoc (pa : Nat) : Nat :=
  let o := pa % 0x200000000
  nbits o 12 8 <<< 30 ||| nbits o 21 16 <<< 24 ||| nbits o 32 22

/-! ### Bytes -/

/-- What a byte nothing has written reads as (notes/assumptions/1). -/
def memDefault : Nat → Byte := fun _ => 0

def State.byteAt (s : State) (pa : Nat) : Byte := smGet memDefault s.mem pa

/-- n bytes from pa, as memory holds them. -/
def State.bytesAt (s : State) (pa n : Nat) : List Byte := (List.range n).map fun i => s.byteAt (pa + i)

/-- The little-endian number in n bytes from pa. -/
def State.wordAt (s : State) (pa n : Nat) : Nat := ofBytes (s.bytesAt pa n)

/-- Bytes stored as memory holds them. -/
def State.putCells (s : State) (cs : List Host.Cell) : State :=
  { s with mem := cs.foldl (fun m c => smSet memDefault m c.1 c.2) s.mem }

/-- Consecutive bytes as cells from address a. -/
def cellsFrom : Nat → List Byte → List Host.Cell
  | _, [] => []
  | a, b :: bs => (a, b) :: cellsFrom (a + 1) bs


/-- The numbers without repeats, by structural recursion. -/
def dedup : List Nat → List Nat
  | [] => []
  | a :: as => let r := dedup as; if r.contains a then r else a :: r

/-! ### Errors (R80 to R84, R233) -/

def State.poisoned (s : State) (line : Nat) : Bool := smGet (fun _ => false) s.poison line
def State.setPoison (s : State) (line : Nat) (b : Bool) : State :=
  { s with poison := smSet (fun _ => false) s.poison line b }
def State.badWord (s : State) (word : Nat) : Bool := smGet (fun _ => false) s.wellBad word
def State.setBadWord (s : State) (word : Nat) (b : Bool) : State :=
  { s with wellBad := smSet (fun _ => false) s.wellBad word b }
def State.zeroMapped (s : State) (line : Nat) : Bool := smGet (fun _ => false) s.zmap line
def State.setZeroMap (s : State) (line : Nat) (b : Bool) : State :=
  { s with zmap := smSet (fun _ => false) s.zmap line b }

/-- A line logged in TMEM.UE_LOG of its tile: the first is kept, a further one sets OVERFLOW (Table 3-11). -/
def State.logUe (s : State) (scrub : Bool) (c pa : Nat) : State :=
  let r := Reg.tmemUeLog (tileOfPa pa)
  if s.flag r .VALID then s.setFlag r .OVERFLOW true
  else s.setFlds r [(.VALID, 1), (.SCRUB, if scrub then 1 else 0), (.WELL, if isWell pa then 1 else 0),
    (.CTX, if scrub then 0 else c), (.LINE, pa / 64)]

/-- A DRAM line found uncorrectable (R80): poisoned, logged, its row listed. -/
def State.dramUe (s : State) (scrub : Bool) (c pa : Nat) : State :=
  ((s.setPoison (pa / 64) true).logUe scrub c (pa / 64 * 64)).list 4 0 false (tileOfPa pa) (rowLoc pa)

/-- The page table entries of a table that hold a byte other than 0: their index and value. -/
def State.tableEntries (s : State) (base count : Nat) : List W64 :=
  (dedup ((s.mem.filter fun c => base ≤ c.1 && c.1 < base + 8 * count).map fun c => (c.1 - base) / 8)).map fun i =>
    BitVec.ofNat 64 (s.wordAt (base + 8 * i) 8)

/-- ADDR of a page table entry (R85). -/
def pteAddr (e : W64) : Nat := (e &&& 0x00FFFFFFFFFFF000#64).toNat

/-- Does a valid translation of context c lead into the Well bank that holds pa? -/
def State.mapsBank (s : State) (c pa : Nat) : Bool :=
  let lo := wellBase + tileOfPa pa * 0x2000000 + wellBank pa * 0x80000
  s.flag (.memRoot c) .ENABLE &&
  (s.tableEntries (s.fld (.memRoot c) .BASE * 0x2000) 1024).any fun e1 =>
    bitAt e1 0 && (s.tableEntries (pteAddr e1) 8192).any fun e2 =>
      bitAt e2 0 && !bitAt e2 1 && (s.tableEntries (pteAddr e2) 512).any fun e3 =>
        bitAt e3 0 && !bitAt e3 4 && lo ≤ pteAddr e3 && pteAddr e3 < lo + 0x80000

/-- Does the storage of an enabled bobbin of context c, in granules of 256 bytes, reach into the Well bank that holds pa (R242,
R243)? -/
def State.bobbinInBank (s : State) (c pa : Nat) : Bool :=
  let t := tileOfPa pa
  let lo := wellBank pa * 2048
  (List.range 256).any fun l =>
    let r := (s.bobbin (256 * t + l)).run
    let a := s.fld (.tbobPool t) .BASE_G + r.1
    s.flag (.bobCfg t l) .ENABLE && s.fld (.bobCfg t l) .OWNER = c && a < lo + 2048 && lo < a + r.2

/-- The contexts that use the Well bank that holds pa (R84): by a page, or by a bobbin. -/
def State.usesBank (s : State) (c pa : Nat) : Bool := s.mapsBank c pa || s.bobbinInBank c pa

/-- A Well word that an access finds uncorrectable (R84): its bank fails and is listed, and every context that uses the
bank faults with UNIT_FAILED, ARG 2. The physical bank is the logical one (notes/assumptions/6). -/
def State.wellUe (s : State) (c : Option Nat) (pa : Nat) : State :=
  let users := allContexts.filter fun x => some x = c || s.usesBank x pa
  let s := (s.logUe false (c.getD 0) (pa / 64 * 64)).list 3 0 false (tileOfPa pa) (s.physOf 3 (tileOfPa pa) (wellBank pa))
  let s := users.foldl (fun s x => s.setContext x { s.context x with bankAt := some s.time }) s
  (s.faultEach users 0x04 0xFF (tileOfPa pa) 0xFFFF 2).pfEvent 10

/-! ### The directory (R96, R98) -/

/-- Does a die own the line (state M)? -/
def State.ownedLine (s : State) (line : Nat) : Bool := s.dir.any fun e => e.line = line && e.owned

/-- Is the line's copy that a reader meets poisoned: that of the home, unless a die owns the line and supplies it (R96)? -/
def State.lineBad (s : State) (line : Nat) : Bool := s.poisoned line && !s.ownedLine line

/-- A modified line written home: a full-line write, which clears poison and decides the zero-map bit (R82, R98, R225). -/
def State.writeHome (s : State) (e : DirEntry) : State :=
  if e.dirty then
    (s.setPoison e.line false).setZeroMap e.line (e.mcomp && (s.bytesAt (e.line * 64) 64).all fun b => b = 0)
  else s

/-- The entries of a list written home. -/
def State.writeHomeAll (s : State) (es : List DirEntry) : State := es.foldl State.writeHome s

/-- A line fetched home by a read of an engine or a Nib core, or cleaned: it stays in the caches as a clean copy (R96). -/
def State.snoopRead (s : State) (line : Nat) : State :=
  let s := s.writeHomeAll (s.dir.filter fun e => e.line = line)
  { s with dir := s.dir.map fun e => if e.line = line then { e with owned := false, dirty := false } else e }

/-- A line taken out of every Quill cache, written home if modified: a write by another agent, or an eviction (R96, R98). -/
def State.dropLine (s : State) (line : Nat) : State :=
  let s := s.writeHomeAll (s.dir.filter fun e => e.line = line)
  { s with dir := s.dir.filter fun e => e.line ≠ line }

/-- A line brought into a Quill cache of a die for context c, `own` in state M and `dirty` modified: a new line in a full directory
evicts the oldest entry of the tile, counted in BACKINV (R98); an owned line is held by one die alone. -/
def State.cacheLine (s : State) (line die c : Nat) (mcomp own dirty : Bool) : State :=
  match s.dir.find? (fun e => e.line = line) with
  | some e =>
    let mine := e.dies.contains die
    let dies := if own then [die] else if mine then e.dies else e.dies ++ [die]
    let kept := e.dies = [die]
    let new : DirEntry :=
      { line := line, dies := dies, owned := own || (e.owned && kept), dirty := dirty || (e.dirty && kept),
        mcomp := mcomp, ctx := if mine then e.ctx else c }
    { s with dir := s.dir.map fun x => if x.line = line then new else x }
  | none =>
    let t := tileOfPa (line * 64)
    let mine := s.dir.filter fun e => tileOfPa (e.line * 64) = t
    let s := match mine with
      | old :: _ => if 262144 ≤ mine.length then (s.dropLine old.line).addFld (.tmemBackinv t) .COUNT 1 else s
      | [] => s
    { s with dir := s.dir ++ [{ line := line, dies := [die], owned := own, dirty := dirty, mcomp := mcomp, ctx := c }] }

/-! ### Reads at the home -/

/-- The lines, by address ÷ 64, that n bytes from pa touch. -/
def linesOf (pa n : Nat) : List Nat :=
  if n = 0 then [] else (List.range ((pa + n - 1) / 64 - pa / 64 + 1)).map fun i => pa / 64 + i

/-- The Well words, by address ÷ 8, that n bytes from pa touch. -/
def wordsOf (pa n : Nat) : List Nat :=
  if n = 0 then [] else (List.range ((pa + n - 1) / 8 - pa / 8 + 1)).map fun i => pa / 8 + i

/-- One line read at its home for an access that reads the Well words `ws` (by address ÷ 8): an owned line is fetched from its die;
otherwise a zero-map hit is counted, and the answer is false when the line is poisoned or such a word is in error (R80, R84, R96,
R225). -/
def State.readLine (s : State) (c : Option Nat) (line : Nat) (ws : List Nat) : State × Bool :=
  if isDram (line * 64) then
    if s.ownedLine line then (s.snoopRead line, true)
    else if s.poisoned line then (s.logUe false (c.getD 0) (line * 64), false)
    else if s.zeroMapped line then (s.addFld (.tmemZmapHits (tileOfPa (line * 64))) .COUNT 1, true)
    else (s, true)
  else
    match ws.find? (fun w => w / 8 = line && s.badWord w) with
    | some w => (s.wellUe c (w * 8), false)
    | none => (s, true)

/-- A read of n bytes at their home for a context's access (or none): the bytes, or none when it completes with
UNCORR_MEM. -/
def State.homeRead (s : State) (c : Option Nat) (pa n : Nat) : State × Option (List Byte) :=
  let r := (linesOf pa n).foldl (fun acc l =>
    let x := acc.1.readLine c l (wordsOf pa n)
    (x.1, acc.2 && x.2)) (s, true)
  (r.1, if r.2 then some (s.bytesAt pa n) else none)

/-! ### The page walk (R85, R86, R597) -/

/-- What a walk finds: a local target with its MCOMP and QC bits, a host bus address, a failure with the CAUSE of
Table 3-10, or a table entry that reads uncorrectable. -/
inductive Xlat
  | ok (pa : Nat) (mcomp qc : Bool)
  | host (bus : Nat)
  | fail (cause : Nat)
  | uncorr (pa : Nat)
deriving DecidableEq, Repr

/-- The conditions on an entry that names the table of the next level, in the order of R86; HOST is a leaf's alone
(Table 3-4, notes/assumptions/8). -/
def tableCause (e : W64) (align : Nat) : Option Nat :=
  if !bitAt e 0 then some 1
  else if bits e 63 56 ≠ 0 || bits e 11 7 ≠ 0 || bitAt e 1 || bitAt e 4 || pteAddr e % align ≠ 0 || 2 ^ 40 ≤ pteAddr e then some 3
  else if !isDram (pteAddr e) then some 4
  else none

/-- The conditions on a leaf of `size` bytes, in the order of R86. -/
def leafCause (e : W64) (size : Nat) (needW needX : Bool) : Option Nat :=
  let a := pteAddr e
  if !bitAt e 0 then some 1
  else if bits e 63 56 ≠ 0 || bits e 11 7 ≠ 0 || !bitAt e 1 || (!bitAt e 4 && (a % size ≠ 0 || 2 ^ 40 ≤ a)) then some 3
  else if !bitAt e 4 && !isMapped a then some 5
  else if size ≠ 0x10000 && (bitAt e 4 || isWell a) then some 5
  else if (needW && !bitAt e 2) || (needX && !bitAt e 3) then some 2
  else none

/-- The target of a leaf for the offset of the address. -/
def leafTarget (e : W64) (off : Nat) : Xlat :=
  if bitAt e 4 then .host (pteAddr e + off) else .ok (pteAddr e + off) (bitAt e 5) (bitAt e 6)

/-- The walk of context c's tables for a 64-bit address (R86). It changes nothing. -/
def State.walk (s : State) (c : Nat) (va : Nat) (needW needX : Bool) : Xlat :=
  let root := s.fld (.memRoot c) .BASE * 0x2000
  if !s.flag (.memRoot c) .ENABLE then .fail 6
  else if va / 2 ^ 48 ≠ 0 then .fail 7
  else if !isDram root then .fail 4
  else
    let a1 := root + 8 * nbits va 47 38
    if s.lineBad (a1 / 64) then .uncorr a1 else
    let e1 := BitVec.ofNat 64 (s.wordAt a1 8)
    match tableCause e1 0x10000 with
    | some k => .fail k
    | none =>
      let a2 := pteAddr e1 + 8 * nbits va 37 25
      if s.lineBad (a2 / 64) then .uncorr a2 else
      let e2 := BitVec.ofNat 64 (s.wordAt a2 8)
      if bitAt e2 0 && bitAt e2 1 then
        match leafCause e2 0x2000000 needW needX with
        | some k => .fail k
        | none => leafTarget e2 (va % 0x2000000)
      else
        match tableCause e2 0x1000 with
        | some k => .fail k
        | none =>
          let a3 := pteAddr e2 + 8 * nbits va 24 16
          if s.lineBad (a3 / 64) then .uncorr a3 else
          let e3 := BitVec.ofNat 64 (s.wordAt a3 8)
          match leafCause e3 0x10000 needW needX with
          | some k => .fail k
          | none => leafTarget e3 (va % 0x10000)

/-- A translation for an access: SOURCE and TILE of MEM.FAULT, which a failure writes; a poisoned table line is logged as
a read of it (R86, R597). -/
def State.translate (s : State) (c src tile va : Nat) (needW needX : Bool) : State × Xlat :=
  let x := s.walk c va needW needX
  match x with
  | .fail k => (s.setFlds .memFault [(.CTX, c), (.SOURCE, src), (.TILE, tile), (.CAUSE, k), (.VA, va)], x)
  | .uncorr pa => (s.logUe false c (pa / 64 * 64), x)
  | _ => (s, x)

/-! ### Writes at the home -/

/-- Bytes from a ring's chunk: the ring's size in bytes and the size of one chunk of its frames. -/
def State.ringBytes (s : State) (c : Nat) : Nat := 32 * 2 ^ s.fld (.ctxwCmpl c) .SLOTS_LOG2
def State.ringChunk (s : State) (c : Nat) : Nat := min (s.ringBytes c) 0x10000

/-- The offset of a physical address in a context's locked ring, if it lies in its frames (R124). -/
def State.ringOffset (s : State) (c pa : Nat) : Option Nat :=
  if !s.flag (.ctxwCmpl c) .LOCK then none else
  let ch := s.ringChunk c
  let rec go : List Nat → Nat → Option Nat
    | [], _ => none
    | f :: fs, i => if f ≤ pa && pa < f + ch then some (i * ch + (pa - f)) else go fs (i + 1)
  go (s.context c).ringFrames 0

/-- The context whose ring holds a physical address, with the offset. -/
def State.ringAt (s : State) (pa : Nat) : Option (Nat × Nat) :=
  allContexts.findSome? fun c => (s.ringOffset c pa).map fun o => (c, o)

/-- How a slot of 32 bytes stands (R121). -/
inductive SlotState
  | pending | complete | free
deriving DecidableEq, Repr

def slotState (rec : List Byte) : SlotState :=
  let st := (rec.getD 8 0).toNat
  let ready := (rec.getD 9 0).getLsbD 0
  if !ready then .pending else if st = 2 then .free else .complete

/-- A slot freed at its home: STATUS = STALE, READY = 1, the other fields unchanged (R121). -/
def State.freeSlot (s : State) (c pa : Nat) : State :=
  (s.setContext c { s.context c with retired := (s.context c).retired + 1 }).putCells [(pa + 8, 2#8), (pa + 9, s.byteAt (pa + 9) ||| 1#8)]

/-- A write of bytes from pa that reaches ring c at offset o (R124): a retiring write frees a complete slot and is
discarded on another; a slot in error fails as R132 says; every other write sets BAD_WRITE. -/
def State.ringWrite (s : State) (c o pa : Nat) (bs : List Byte) : State :=
  if bs.length = 8 && o % 32 = 0 && bs = s.bytesAt pa 8 then
    match slotState (s.bytesAt pa 32), (wordsOf pa 32).find? (fun w => s.badWord w) with
    | .complete, some w => (s.wellUe (some c) (w * 8)).faultNoUnit c 0x05 0
    | .complete, none => s.freeSlot c pa
    | _, _ => s
  else (s.setFlag (.ctxwCmplStat c) .BAD_WRITE true).vfEvent c 11

/-- A write to a region of a streaming epoch aborts it (R285): streaming stops, and the work is to end with ACCESS,
cause 4, where 4. -/
def State.guardRegions (s : State) (line : Nat) : State :=
  allContexts.foldl (fun s c =>
    let e := s.epochOf c
    if e.active && e.pages.any (fun p => p.2.1 ≤ line * 64 && line * 64 < p.2.1 + p.2.2) then
      let k := s.feedCh e.ch
      let s := (s.setEpoch c { e with active := false }).setFld (.feedwBuddy c) .STATE 4
      (s.setFeedCh e.ch { k with cur := k.cur.map fun u =>
        { u with err := some (0x11, min u.index 0xFFFF <<< 16 ||| 0x44), written := u.written + e.sent } }).vfEvent c 8
    else s) s

/-- A write to a line ends every LR reservation of a hart on it (R97). -/
def State.loseResv (s : State) (line : Nat) : State :=
  { s with hart := smMap (fun _ => Hart.off) (fun _ k => if k.resv = some line then { k with resv := none } else k) s.hart }

/-- Bytes written to one DRAM line at its home (R82, R225, R233): a full line stores anew and clears poison; a partial
write to a poisoned line has no effect and is logged; false when it completes with UNCORR_MEM. The line leaves the Quill caches
first, and goes home if modified (R96). -/
def State.writeDramLine (s : State) (c : Option Nat) (mcomp : Bool) (line : Nat) (cs : List Host.Cell) : State × Bool :=
  let s := s.dropLine line
  let s0 := (s.loseResv line).guardRegions line
  if cs.length = 64 then
    (((s0.putCells cs).setPoison line false).setZeroMap line (mcomp && cs.all fun x => x.2 = 0), true)
  else if s.poisoned line then (s.logUe false (c.getD 0) (line * 64), false)
  else ((s0.putCells cs).setZeroMap line false, true)

/-- Does a row of an operand hold the address? -/
def TambRow.holds (r : TambRow) (a : Nat) : Bool := r.segs.any fun g => g.addr ≤ a && a < g.addr + g.len

/-- Does an operand of a Tambour work hold the address: one it reads, or C_out? -/
def TambCur.reads (u : TambCur) (a : Nat) : Bool := (u.aRows ++ u.btRows ++ u.cRows).any (·.holds a)
def TambCur.holds (u : TambCur) (a : Nat) : Bool := u.reads a || u.oRows.any (·.holds a)

/-- Bytes written to operands of the Tambour works that run (R192). -/
def State.touchTamb (s : State) (cs : List Host.Cell) : State :=
  { s with tamb := smMap (fun _ => TambArray.idle) (fun _ k =>
      { k with cur := k.cur.map fun u => { u with hits := u.hits ++ (cs.map Prod.fst).filter u.holds } }) s.tamb }

/-- Bytes written to one Well line: a whole 64-bit word replaces a word in error (R81); a partial write of such a word
reads it and fails as R84 says. -/
def State.writeWellLine (s : State) (c : Option Nat) (cs : List Host.Cell) : State × Bool :=
  let ws := dedup (cs.map fun x => x.1 / 8)
  let whole := fun w => 8 ≤ (cs.filter fun x => x.1 / 8 = w).length
  match ws.find? (fun w => s.badWord w && !whole w) with
  | some w => (s.wellUe c (w * 8), false)
  | none =>
    ((((ws.foldl (fun s w => s.setBadWord w false) s).putCells cs).loseResv ((cs.headD (0, 0)).1 / 64)).touchTamb cs, true)

/-- Bytes written at their home, line by line, for a context's access (or none). Bytes that reach a locked ring are judged
by R124 and do not store. False when some line completed with UNCORR_MEM. -/
def State.homeWrite (s : State) (c : Option Nat) (mcomp : Bool) (cs : List Host.Cell) : State × Bool :=
  (dedup (cs.map fun x => x.1 / 64)).foldl (fun acc line =>
    let part := cs.filter fun x => x.1 / 64 = line
    let pa := (part.headD (0, 0)).1
    let r := match acc.1.ringAt pa with
      | some (rc, o) => (acc.1.ringWrite rc o pa (part.map Prod.snd), true)
      | none =>
        if isDram pa then acc.1.writeDramLine c mcomp line part else acc.1.writeWellLine c part
    (r.1, acc.2 && r.2)) (s, true)

end Sys2Proof.Machine
end

