-- ==== Sys2Proof/Machine/RecOps.lean ====
section
/-!
DEFINITION. Completion records and their ring, knots and their threshold events, and the end of a work: the operations
every engine shares. Rules R117 to R126, R137, R255, R256, R600 of spec/.
-/
namespace Sys2Proof.Machine

/-! ### The completion ring (R120 to R124, R141) -/

/-- Slots of a context's ring. -/
def State.ringSlots (s : State) (c : Nat) : Nat := 2 ^ s.fld (.ctxwCmpl c) .SLOTS_LOG2

/-- Context virtual address of the slot of a handle. -/
def State.slotVa (s : State) (c h : Nat) : Nat := s.fld (.ctxwCmpl c) .BASE * 0x800 + 32 * (h % s.ringSlots c)

/-- Package physical address of the slot of a handle, in the frames of LOCK. -/
def State.slotPa (s : State) (c h : Nat) : Nat :=
  let o := 32 * (h % s.ringSlots c)
  (s.context c).ringFrames.getD (o / s.ringChunk c) 0 + o % s.ringChunk c

/-- Is the ring ready for records: locked, and not initialising (R137)? -/
def State.ringReady (s : State) (c : Nat) : Bool :=
  s.flag (.ctxwCmpl c) .LOCK && !s.flag (.ctxwCmplStat c) .INIT

/-- The next sequence number of a context. -/
def State.nextSeq (s : State) (c : Nat) : Nat := s.fld (.ctxwCmplNext c) .SEQ

/-- Is the slot of the next sequence number free (R117)? -/
def State.nextSlotFree (s : State) (c : Nat) : Bool :=
  s.ringReady c && slotState (s.bytesAt (s.slotPa c (s.nextSeq c)) 32) = .free

/-- SOURCE of MEM.FAULT (Table 3-10) for an engine code of Table 4-5. -/
def sourceOf (engine tile : Nat) : Nat :=
  if tile = 0xFF then 6 else match engine with
  | 1 => 1 | 2 => 2 | 3 => 3 | 4 => 4 | _ => 0

/-- Bytes the machine writes into a slot, each part at its offset, in one write through the context's tables (R121, R139): a translation that fails, or a Well word in
error, faults the context with RECORD_WRITE, after UNIT_FAILED for the word's bank (R132). -/
def State.writeRecord (s : State) (c h engine tile : Nat) (parts : List (Nat × List Byte)) : State :=
  let va := s.slotVa c h
  let t := if tile = 0xFF then 0 else tile
  match s.translate c (sourceOf engine tile) t va true false with
  | (s, .ok pa _ _) =>
    match (wordsOf pa 32).find? (fun w => s.badWord w) with
    | some w => (s.wellUe (some c) (w * 8)).faultNoUnit c 0x05 0
    | none => s.putCells (parts.flatMap fun x => cellsFrom (pa + x.1) x.2)
  | (s, _) => s.faultNoUnit c 0x05 0

/-- The bytes of a pending record (R121). -/
def pendingBytes (h engine tile unit : Nat) : List Byte :=
  toBytes 8 h ++ [1#8, 0#8] ++ toBytes 1 engine ++ toBytes 1 tile ++ toBytes 2 unit ++ toBytes 18 0

/-- A record allocated: its pending bytes written and the sequence number consumed (R117). -/
def State.allocRecord (s : State) (c engine tile unit : Nat) : State × W64 :=
  let h := s.nextSeq c
  let s := s.writeRecord c h engine tile [(0, pendingBytes h engine tile unit)]
  ((s.addFld (.ctxwCmplNext c) .SEQ 1).addFld (.ctxwCmplStat c) .PENDING 1, BitVec.ofNat 64 h)

/-- A pending record completed (R121): SEQ, ENGINE, TILE and UNIT stay. -/
def State.completeRecord (s : State) (c h engine tile status : Nat) (delayed : Bool) (result detail : Nat) : State :=
  let s := s.writeRecord c h engine tile [(8, toBytes 1 status ++ toBytes 1 (if delayed then 3 else 1)),
    (0x10, toBytes 8 result ++ toBytes 4 s.countLo ++ toBytes 4 detail)]
  s.setFld (.ctxwCmplStat c) .PENDING (s.fld (.ctxwCmplStat c) .PENDING - 1)

/-- A pending slot completed with ABORTED_BY_RESET (R143); one in error fails as any record write does (R132). -/
def State.abortSlot (s : State) (c pa : Nat) : State :=
  if slotState (s.bytesAt pa 32) ≠ .pending then s else
  match (wordsOf pa 32).find? (fun w => s.badWord w) with
  | some w => (s.wellUe (some c) (w * 8)).faultNoUnit c 0x05 0
  | none =>
    s.putCells (cellsFrom (pa + 8) [0x13#8, 1#8] ++ cellsFrom (pa + 0x10) (toBytes 8 0 ++ toBytes 4 s.countLo ++ toBytes 4 0))

/-- Every pending slot of a context completed with ABORTED_BY_RESET (R143). -/
def State.abortRecords (s : State) (c : Nat) : State :=
  let n := if s.flag (.ctxwCmpl c) .LOCK then s.ringSlots c else 0
  let s := (List.range n).foldl (fun s i => s.abortSlot c (s.slotPa c i)) s
  s.setFld (.ctxwCmplStat c) .PENDING 0

/-! ### Knots (R255, R256) -/

def knotCfg (k : Nat) : Reg := .knotCfg (k / 128) (k % 128)
def knotVal (k : Nat) : Reg := .knotVal (k / 128) (k % 128)

/-- Is knot k enabled and owned by context c (R240)? -/
def State.knotOwned (s : State) (c k : Nat) : Bool :=
  k < 4096 && s.flag (knotCfg k) .ENABLE && s.fld (knotCfg k) .OWNER = c

def State.knotCount (s : State) (k : Nat) : Nat := s.fld (knotVal k) .COUNT

/-- Does count ≥ threshold hold? -/
def State.knotHigh (s : State) (k : Nat) : Bool := s.fld (knotVal k) .THRESHOLD ≤ s.knotCount k

/-- A descriptor starts running: at PRIO, its escalation time counted from now (R280, R284). -/
def FeedCur.fire (u : FeedCur) (now : Nat) : FeedCur := { u with running := true, since := now }

/-- Does an armed descriptor of a live context start running: does `hit` name it (R280, R298)? -/
def State.fires (s : State) (hit : FeedCur → Bool) (u : FeedCur) : Bool :=
  !u.running && u.err.isNone && u.reading.isNone && hit u && s.ctxLive u.work.ctx

/-- The contexts whose armed descriptors `hit` names. -/
def State.firedContexts (s : State) (hit : Nat → FeedCur → Bool) : List Nat :=
  s.feed.filterMap fun e => match e.2.cur with
    | some u => if s.fires (hit e.1) u then some u.work.ctx else none
    | none => none

/-- Every armed descriptor that `hit` names starts running; its context is not closed (R483). -/
def State.fireFeeds (s : State) (hit : Nat → FeedCur → Bool) : State :=
  { s with
    closed := (s.firedContexts hit).foldl breakClosed s.closed
    feed := smMap (fun _ => FeedCh.idle) (fun i k =>
      { k with cur := k.cur.map fun u => if s.fires (hit i) u then u.fire s.time else u }) s.feed }

/-- The threshold event of knot k: the Feed channels of its owner whose trigger names it start (R256, Table 9-6). -/
def State.knotEvent (s : State) (k : Nat) : State :=
  let c := s.fld (knotCfg k) .OWNER
  s.fireFeeds fun _ u => u.d.trig = 5 && u.d.targ = k && u.work.ctx = c

/-- One arrival of increment v: saturating, counted in CHANGES (R168, R255). -/
def State.knotAdd (s : State) (k v : Nat) : State :=
  let s := (s.addFld (knotCfg k) .CHANGES 1)
  let n := s.knotCount k + v
  if n < 2 ^ 32 then s.setFld (knotVal k) .COUNT n
  else (s.setFld (knotVal k) .COUNT (2 ^ 32 - 1)).setFlag (knotCfg k) .SATURATED true

/-- One KSET (R255). -/
def State.knotSet (s : State) (k v : Nat) : State :=
  (s.addFld (knotCfg k) .CHANGES 1).setFld (knotVal k) .COUNT v

/-- The operations of one cycle on a knot: thresholds, then sets, then arrivals, each list in the order it is applied, and
the threshold event on a rising condition (R177, R256). -/
def State.knotCycle (s : State) (k : Nat) (thrs sets adds : List Nat) : State :=
  let before := s.knotHigh k
  let s := thrs.foldl (fun s v => s.setFld (knotVal k) .THRESHOLD v) s
  let s := sets.foldl (fun s v => s.knotSet k v) s
  let s := adds.foldl (fun s v => s.knotAdd k v) s
  if s.knotHigh k && !before then s.knotEvent k else s

/-- An arrival made for context c: not applied, and a RECORD_WRITE fault, when the knot is not the context's (R600). -/
def State.arrive (s : State) (c k v : Nat) : State :=
  if s.knotOwned c k then s.knotCycle k [] [] [v] else s.faultNoUnit c 0x05 1

/-! ### The end of a work (R122, R126) -/

/-- Is the engine gate G above 0 (R515)? -/
def State.gateOn (s : State) : Bool := s.fld .pwrState .GATE ≠ 0

/-- Does a work still end with the UNCORR_MEM that failed its Well bank, in the same cycle as the bank (R200, R126), its records not
yet aborted? -/
def State.bankEnds (s : State) (c status : Nat) : Bool :=
  status = 0x12 && !s.failed && (s.context c).bankAt = some s.time && (s.fld (.ctxrPending c) .UNITS).testBit 0

/-- A work's end: its record, its knot arrival, and the fault of R126. Nothing of a context that is being reset: the reset
writes its records (R143, R150), but for a work that the failure of its Well bank ends (notes/assumptions/92). What runs under the engine gate, which does not gate Tambour, completes as DELAYED (R516). -/
def State.endWork (s : State) (c : Nat) (crec : Bool) (handle : W64) (knot : Option Nat) (engine tile unit status : Nat)
    (delayed : Bool) (result detail : Nat) : State :=
  if !s.ctxLive c && !s.bankEnds c status then s else
  let delayed := delayed || (engine ≠ 4 && s.gateOn)
  let s := if crec then s.completeRecord c handle.toNat engine tile status delayed result detail else s
  let s := match knot with
    | some k => s.arrive c k 1
    | none => s
  if status = 0x12 || (!crec && status ≠ 0) then s.contextFault c 0x02 engine tile unit status else s

/-- The end of a queued or running engine work. -/
def State.endEngineWork (s : State) (w : Work) (engine tile unit status result detail : Nat) : State :=
  s.endWork w.ctx w.crec w.handle w.knot engine tile unit status w.delayed result detail

end Sys2Proof.Machine
end

