-- ==== Sys2Proof/Machine/NibOps.lean ====
section
/-!
DEFINITION. What every Ductus instruction shares: the register files, the fetch, exceptions, the store buffer, loads, and
the step from one instruction to the next. Rules R99, R112 to R116, R130, R131, R135, R155, R162 of spec/.
-/
namespace Sys2Proof.Machine

/-! ### Register files (Table 4-3) -/

/-- s[i]; s0 reads zero. -/
def NibCore.sreg (k : NibCore) (i : SReg) : W64 := if i = 0 then 0 else smGet (fun _ => 0) k.s i.toNat
/-- A write to s[i]; to s0 it is discarded. -/
def NibCore.setS (k : NibCore) (i : SReg) (w : W64) : NibCore :=
  if i = 0 then k else { k with s := smSet (fun _ => 0) k.s i.toNat w }
def NibCore.vreg (k : NibCore) (i : VReg) : W512 := smGet (fun _ => 0) k.v i.toNat
def NibCore.setV (k : NibCore) (i : VReg) (w : W512) : NibCore := { k with v := smSet (fun _ => 0) k.v i.toNat w }
/-- p[i]; p0 reads all ones. -/
def NibCore.preg (k : NibCore) (i : PReg) : W64 := if i = 0 then BitVec.allOnes 64 else smGet (fun _ => 0) k.p i.toNat
/-- A write to p[i]; to p0 it is discarded. -/
def NibCore.setP (k : NibCore) (i : PReg) (w : W64) : NibCore :=
  if i = 0 then k else { k with p := smSet (fun _ => 0) k.p i.toNat w }

/-- Tile cycles of a tile since package reset (Table 4-3): those of an unstretched clock, less what stretches took (R522). -/
def State.cycle (s : State) (t : Nat) : W64 := BitVec.ofNat 64 (s.cyc100 / 100 - smGet (fun _ => 0) s.power.lost t)

/-- coreid (Table 4-3): tile, logical core, context. -/
def State.coreId (s : State) (n : Nat) : W64 :=
  BitVec.ofNat 64 (n / 8 ||| (n % 8) <<< 5 ||| s.fld (coreReg n) .CTX <<< 8)

/-- The context of a core that executes. -/
def State.ctxOf (s : State) (n : Nat) : Nat := s.fld (coreReg n) .CTX

/-! ### The store buffer (R99) -/

/-- May the package issue a request to the host for context c: the link up, the VF, whose requester ID it takes, enabled and awake (R405,
R424, R425)? -/
def State.canIssue (s : State) (c : Nat) : Bool := s.flag .ioPcieStat .LINK_UP && (s.fnOf (c + 1)).enabled && s.fnAwake (c + 1) && !s.failed

/-- Cells of consecutive addresses as runs of (first address, bytes). -/
def runsOf : List Host.Cell → List (Nat × List Byte)
  | [] => []
  | (a, b) :: cs =>
    match runsOf cs with
    | (a', bs) :: rs => if a + 1 = a' then (a, b :: bs) :: rs else (a, [b]) :: (a', bs) :: rs
    | [] => [(a, [b])]

/-- One segment of a store performed: at its home, or as posted writes to the host; the ARG of STORE_FAILED when it cannot be
(R110, R598). -/
def State.drainSeg (s : State) (c : Nat) (g : WSeg) : State × Option Nat :=
  if g.host then
    if s.canIssue c then ((runsOf g.cells).foldl (fun s r => s.send (.pcieWrite (c + 1) r.1 r.2 false)) s, none) else (s, some 1)
  else
    let r := s.homeWrite (some c) g.mcomp g.cells
    (r.1, if r.2 then none else some 0)

/-- A store performed, segment by segment, with the ARG of each failure. -/
def State.performStore (s : State) (c : Nat) (e : StoreEntry) : State × List Nat :=
  e.foldl (fun acc g =>
    let r := acc.1.drainSeg c g
    (r.1, acc.2 ++ r.2.toList)) (s, [])

/-- The context of core n faulted with STORE_FAILED for each failure of its stores. -/
def State.storeFaults (s : State) (n : Nat) (args : List Nat) : State :=
  args.foldl (fun s a => s.contextFault (s.ctxOf n) 0x03 0 (coreTile n) (n % 8) a) s

/-- The oldest buffered store of core n taken from its buffer and performed. -/
def State.takeStore (s : State) (n : Nat) : State × List Nat :=
  match (s.core n).stores with
  | [] => (s, [])
  | e :: es => (s.setCore n { s.core n with stores := es }).performStore (s.ctxOf n) e

/-- The oldest buffered store of core n drained. Where it fails at its home, the other stores of the buffer drain before the fault
begins the context's reset (R110; notes/assumptions/87). -/
def State.drainOne (s : State) (n : Nat) : State :=
  let r := s.takeStore n
  if r.2.contains 0 then
    let q := (List.range (r.1.core n).stores.length).foldl (fun acc _ =>
      let x := acc.1.takeStore n
      (x.1, acc.2 ++ x.2)) r
    q.1.storeFaults n q.2
  else r.1.storeFaults n r.2

/-- Every buffered store of core n drained, oldest first. -/
def State.drainAll (s : State) (n : Nat) : State :=
  (List.range (s.core n).stores.length).foldl (fun s _ => s.drainOne n) s

/-- A store buffered; with 16 entries in the buffer the oldest drains first (R99). -/
def State.buffer (s : State) (n : Nat) (e : StoreEntry) : State :=
  let s := if 16 ≤ (s.core n).stores.length then s.drainOne n else s
  s.setCore n { s.core n with stores := (s.core n).stores ++ [e] }

/-- The youngest buffered byte of a core at a physical (or bus) address. -/
def NibCore.buffered (k : NibCore) (host : Bool) (a : Nat) : Option Byte :=
  k.stores.foldl (fun acc e => e.foldl (fun acc g =>
    if g.host = host then g.cells.foldl (fun acc x => if x.1 = a then some x.2 else acc) acc else acc) acc) none

/-! ### Exceptions (R130, R131, R149) -/

/-- A core stops FAULTED on an exception: CTXW.NIB_EXC keeps the first, and the context faults. -/
def State.nibStop (s : State) (n cause : Nat) (pc : BitVec 48) (inHandler : Bool) : State :=
  let c := s.ctxOf n
  let r := Reg.ctxwNibExc c
  let s := if s.flag r .VALID then s else
    s.setFlds r [(.VALID, 1), (.IN_HANDLER, if inHandler then 1 else 0), (.TILE, coreTile n), (.CORE, n % 8),
      (.CAUSE, cause), (.EPC, pc.toNat)]
  (s.setCore n { s.core n with st := .faulted }).contextFault c 0x01 0 (coreTile n) (n % 8) cause

/-- A precise exception of core n at its present instruction: older stores drain; then the handler, if the cause allows one
and the core has one and is not in it, or the stop. A context fault of the same cycle wins (R149). -/
def State.nibException (s : State) (n cause eaddr : Nat) : State :=
  let k0 := s.core n
  let s := s.drainAll n
  let k := s.core n
  if k.st = .running && k.evec ≠ 0 && cause ≠ 7 && !k.handler then
    s.setCore n { k with
      handler := true, epc := k.pc, ecause := BitVec.ofNat 8 cause, eaddr := BitVec.ofNat 48 eaddr, pc := k.evec }
  else s.nibStop n cause k0.pc k0.handler

/-! ### Fetch (R130, R156, R181) -/

/-- May core n execute an instruction: RUNNING, nothing outstanding that blocks it, its context live? -/
def State.canStep (s : State) (n : Nat) : Bool :=
  (s.core n).st = .running && (s.core n).wait = .none && (s.coreCtx n).isSome && s.ctxLive (s.ctxOf n)

/-- What a fetch finds: the instruction, the wait for a HOST page, or an exception (cause, eaddr). -/
inductive FetchRes
  | ok
  | waits
  | exc (cause eaddr : Nat)
deriving DecidableEq, Repr

/-- A read the package issues to the host for context c (R89): false when it cannot, and the access ends with ACCESS
(R424, R425). -/
def State.issueRead (s : State) (c : Nat) (reader : HostReader) (va bus len : Nat) : State × Bool :=
  if s.canIssue c then
    ({ s.send (.pcieRead (c + 1) s.nextTag bus len) with
       hostReads := s.hostReads ++ [{ tag := s.nextTag, ctx := c, reader := reader, va := va, bus := bus, len := len }]
       nextTag := s.nextTag + 1 }, true)
  else (s, false)

/-- A fetch from a HOST page: a PCIe read, after whose completion the instruction's command runs (R89, notes/assumptions/86). -/
def State.hostFetch (s : State) (n bus : Nat) : State × FetchRes :=
  let k := s.core n
  if k.fetched = some k.pc then (s.setCore n { k with fetched := none }, .ok) else
  match s.issueRead (s.ctxOf n) (.nib n) k.pc.toNat bus 8 with
  | (s, true) => (s.setCore n { k with wait := .hostFetch }, .waits)
  | (s, false) => (s, .exc 0x04 k.pc.toNat)

/-- The fetch at a core's pc. -/
def State.fetch (s : State) (n : Nat) : State × FetchRes :=
  let pc := (s.core n).pc.toNat
  if pc % 8 ≠ 0 then (s, .exc 0x02 pc) else
  match s.translate (s.ctxOf n) 0 (coreTile n) pc false true with
  | (s, .ok pa _ _) =>
    match s.homeRead (some (s.ctxOf n)) pa 8 with
    | (s, some _) => (s, .ok)
    | (s, none) => (s, .exc 0x07 pc)
  | (s, .host bus) => s.hostFetch n bus
  | (s, .fail _) => (s, .exc 0x04 pc)
  | (s, .uncorr _) => (s, .exc 0x07 pc)

/-- One instruction of core n: nothing when the core cannot step or waits for the fetch, the exception of a failed fetch, or the
body. -/
def State.nibStep (s : State) (n : Nat) (body : State → NibCore → State) : State :=
  if !s.canStep n then s else
  match s.fetch n with
  | (s, .exc cause ea) => if s.canStep n then s.nibException n cause ea else s.nibStop n cause (s.core n).pc (s.core n).handler
  | (s, .waits) => s
  | (s, .ok) => body s (s.core n)

/-- The next sequential pc; fetch wraps modulo 2⁴⁸ (R156). -/
def NibCore.advance (k : NibCore) : NibCore := { k with pc := k.pc + 8, retired := k.retired + 1 }

/-- Core n takes the registers k and goes on to the next instruction. -/
def State.nibDone (s : State) (n : Nat) (k : NibCore) : State := s.setCore n k.advance

/-- An instruction that only computes registers: f of the core, then the next instruction. -/
def State.nibCompute (s : State) (n : Nat) (f : NibCore → NibCore) : State := s.nibStep n fun s k => s.nibDone n (f k)

/-- Core n begins a wait (Table 5-18): STATE = WAITING, behind the waits that began earlier. -/
def State.nibWait (s : State) (n : Nat) (w : NibWait) : State :=
  { s.setCore n { s.core n with st := .waiting, wait := w } with waiting := s.waiting ++ [.nib n] }

/-- Core n leaves its wait and runs: the wait is no longer watched (R478), and its context is not closed (R483). -/
def State.nibWake (s : State) (n : Nat) : State :=
  { s.setCore n { s.core n with st := .running, wait := .none } with
    waiting := s.waiting.filter (· ≠ .nib n)
    watches := s.watches.filter fun w => w.obj.who ≠ n
    closed := breakClosed s.closed (s.fld (coreReg n) .CTX) }

/-! ### Loads and stores (R86, R89, R155, R159) -/

/-- What a load finds: its bytes by virtual address with the HOST pieces still to be read, or an exception. -/
inductive LoadRes
  | bytes (got : List Host.Cell) (host : List (Nat × Nat × Nat))
  | exc (cause eaddr : Nat)
deriving DecidableEq, Repr

/-- Rising addresses as runs of consecutive ones: (first, length). -/
def addrRuns : List Nat → List (Nat × Nat)
  | [] => []
  | a :: as =>
    match addrRuns as with
    | (b, n) :: rs => if a + 1 = b then (a, n + 1) :: rs else (a, 1) :: (b, n) :: rs
    | [] => [(a, 1)]

/-- The bytes of one page of a load, local or HOST, at the listed virtual addresses; no other byte is accessed (R159). -/
def State.loadPage (s : State) (n : Nat) (vas : List Nat) : State × LoadRes :=
  let c := s.ctxOf n
  let va0 := vas.headD 0
  match s.translate c 0 (coreTile n) va0 false false with
  | (s, .fail _) => (s, .exc 0x05 va0)
  | (s, .uncorr _) => (s, .exc 0x07 va0)
  | (s, .host bus) => (s, .bytes [] ((addrRuns vas).map fun r => (r.1, bus + (r.1 - va0), r.2)))
  | (s, .ok pa _ _) =>
    let cells := vas.map fun a => (a, pa + (a - va0), (s.core n).buffered false (pa + (a - va0)))
    let need := (cells.filter fun x => x.2.2.isNone).map fun x => x.2.1
    let words := dedup (need.map (· / 8))
    let r := (dedup (need.map (· / 64))).foldl (fun acc l =>
      let x := acc.1.readLine (some c) l words
      (x.1, acc.2 && x.2)) (s, true)
    if r.2 then (r.1, .bytes (cells.map fun x => (x.1, x.2.2.getD (r.1.byteAt x.2.1))) [])
    else (r.1, .exc 0x07 va0)

/-- A load of the bytes at the listed (rising) virtual addresses, page by page. -/
def State.loadBytes (s : State) (n : Nat) (vas : List Nat) : State × LoadRes :=
  (dedup (vas.map (· / 0x10000))).foldl (fun acc pg =>
    match acc.2 with
    | .exc a b => (acc.1, .exc a b)
    | .bytes got host =>
      let r := acc.1.loadPage n (vas.filter fun a => a / 0x10000 = pg)
      match r.2 with
      | .exc a b => (r.1, .exc a b)
      | .bytes g h => (r.1, .bytes (got ++ g) (host ++ h))) (s, .bytes [] [])

/-- n consecutive addresses; the 64-bit sum wraps. -/
def addrsFrom (va n : Nat) : List Nat := (List.range n).map fun i => (va + i) % 2 ^ 64

/-- The value of the bytes at consecutive addresses of a loaded set. -/
def gotValue (got : List Host.Cell) (va n : Nat) : Nat := ofBytes ((addrsFrom va n).map fun a => smGet (fun _ => 0) got a)

/-- The reads of a load's HOST pieces issued, and the core's wait for them. -/
def State.issueLoads (s : State) (n : Nat) (kind : LoadKind) (va len : Nat) (got : List Host.Cell) (host : List (Nat × Nat × Nat)) :
    State :=
  let s := host.foldl (fun s p => (s.issueRead (s.ctxOf n) (.nib n) p.1 p.2.1 p.2.2).1) s
  s.setCore n { s.core n with wait := .hostLoad kind va len got host.length }

/-- Does a HOST piece of a load hold a byte that the core has buffered? -/
def State.hostBuffered (s : State) (n : Nat) (host : List (Nat × Nat × Nat)) : Bool :=
  host.any fun p => (List.range p.2.2).any fun i => ((s.core n).buffered true (p.2.1 + i)).isSome

/-- A load that waits for HOST pages: one read per piece, after the core's older stores where one is to the same bytes (R114, R135);
if a read cannot be issued the load raises ACCESS_LOAD. -/
def State.hostLoad (s : State) (n : Nat) (kind : LoadKind) (va len : Nat) (got : List Host.Cell)
    (host : List (Nat × Nat × Nat)) : State :=
  let s := if s.hostBuffered n host then s.drainAll n else s
  if !s.canStep n then s
  else if s.canIssue (s.ctxOf n) then s.issueLoads n kind va len got host
  else s.nibException n 0x05 va

/-- The segments of a store of (address, byte) pairs, page by page; none and the exception when a page fails. -/
def State.storeSegs (s : State) (n : Nat) (cs : List Host.Cell) : State × Except (Nat × Nat) StoreEntry :=
  let c := s.ctxOf n
  (dedup (cs.map fun x => x.1 / 0x10000)).foldl (fun acc pg =>
    match acc.2 with
    | .error e => (acc.1, .error e)
    | .ok segs =>
      let mine := cs.filter fun x => x.1 / 0x10000 = pg
      let va0 := (mine.headD (0, 0)).1
      match acc.1.translate c 0 (coreTile n) va0 true false with
      | (s, .fail _) => (s, .error (0x06, va0))
      | (s, .uncorr _) => (s, .error (0x07, va0))
      | (s, .host bus) =>
        (s, .ok (segs ++ [{ host := true, mcomp := false, cells := mine.map fun x => (bus + (x.1 - va0), x.2) }]))
      | (s, .ok pa mc _) =>
        (s, .ok (segs ++ [{ host := false, mcomp := mc, cells := mine.map fun x => (pa + (x.1 - va0), x.2) }])))
    (s, .ok [])

/-- A store instruction's body: translated whole, buffered, and the next instruction; or the exception (R101, R159). -/
def State.nibStore (s : State) (n : Nat) (cs : List Host.Cell) : State :=
  match s.storeSegs n cs with
  | (s, .error (cause, ea)) => s.nibException n cause ea
  | (s, .ok e) =>
    let s := if e = [] then s else s.buffer n e
    if (s.core n).st = .running then s.nibDone n (s.core n) else s

end Sys2Proof.Machine
end

