-- ==== Sys2Proof/Machine/Access.lean ====
section
/-!
DEFINITION. Accesses of an engine: a range of context virtual addresses translated page by page, read and written (R86, R89,
R101, R597).
-/
namespace Sys2Proof.Machine

/-- Why a range cannot be accessed: it fails under R86 at an address, or a walk met an uncorrectable entry. -/
inductive MapErr
  | access (va : Nat)
  | uncorr (va : Nat)
deriving DecidableEq, Repr

/-- [va, va + len) in pieces that cross no 64 KiB boundary; the 64-bit sum wraps. -/
def pagePieces (va len : Nat) : List (Nat × Nat) :=
  if len = 0 then [] else
  (List.range ((va + len - 1) / 0x10000 - va / 0x10000 + 1)).map fun i =>
    let lo := max va ((va / 0x10000 + i) * 0x10000)
    let hi := min (va + len) ((va / 0x10000 + i + 1) * 0x10000)
    (lo % 2 ^ 64, hi - lo)

/-- A range translated for context c by an engine (SOURCE and TILE of MEM.FAULT). -/
def State.mapRange (s : State) (c src tile va len : Nat) (needW : Bool) : State × Except MapErr (List Seg) :=
  (pagePieces va len).foldl (fun acc p =>
    match acc.2 with
    | .error e => (acc.1, .error e)
    | .ok segs =>
      match acc.1.translate c src tile p.1 needW false with
      | (s, .ok pa mc _) => (s, .ok (segs ++ [{ host := false, addr := pa, len := p.2, mcomp := mc }]))
      | (s, .host bus) => (s, .ok (segs ++ [{ host := true, addr := bus, len := p.2, mcomp := false }]))
      | (s, .fail _) => (s, .error (.access p.1))
      | (s, .uncorr _) => (s, .error (.uncorr p.1))) (s, .ok [])

/-- Local segments read in order: none when a read completes with UNCORR_MEM. -/
def State.readSegs (s : State) (c : Nat) (segs : List Seg) : State × Option (List Byte) :=
  segs.foldl (fun acc g =>
    let r := acc.1.homeRead (some c) g.addr g.len
    (r.1, match acc.2, r.2 with
      | some a, some b => some (a ++ b)
      | _, _ => none)) (s, some [])

/-- The bytes of local segments as memory holds them. -/
def State.peekSegs (s : State) (segs : List Seg) : List Byte := segs.flatMap fun g => s.bytesAt g.addr g.len

/-- Bytes laid over segments in order. -/
def cellsOver : List Seg → List Byte → List (Seg × List Host.Cell)
  | [], _ => []
  | g :: gs, bs => (g, cellsFrom g.addr (bs.take g.len)) :: cellsOver gs (bs.drop g.len)

/-- Bytes written over local segments: false when a write completes with UNCORR_MEM. -/
def State.writeSegs (s : State) (c : Nat) (segs : List Seg) (bs : List Byte) : State × Bool :=
  (cellsOver segs bs).foldl (fun acc x =>
    if x.2 = [] then acc else
    let r := acc.1.homeWrite (some c) x.1.mcomp x.2
    (r.1, acc.2 && r.2)) (s, true)

/-- The part [off, off + len) of the bytes that segments cover. -/
def subSegs : List Seg → Nat → Nat → List Seg
  | [], _, _ => []
  | g :: gs, off, len =>
    if len = 0 then []
    else if g.len ≤ off then subSegs gs (off - g.len) len
    else
      let n := min len (g.len - off)
      { g with addr := g.addr + off, len := n } :: subSegs gs 0 (len - n)

/-- Do two segments share a byte? -/
def Seg.meets (a b : Seg) : Bool := a.host = b.host && a.addr < b.addr + b.len && b.addr < a.addr + a.len

/-- What a unit finds when it reads for its work: the bytes, the wait for a read of host memory (R89), or the status it ends with. -/
inductive ReadRes
  | bytes (bs : List Byte)
  | waits
  | fails (status : Nat)
deriving DecidableEq, Repr

/-- Is every byte of a HOST segment in the unit's buffer? -/
def HostBuf.covers (b : HostBuf) (g : Seg) : Bool := (List.range g.len).all fun i => b.cells.any fun x => x.1 = g.addr + i

/-- Does the unit wait for a read of the segment? -/
def State.asked (s : State) (key : Nat) (g : Seg) : Bool :=
  s.hostReads.any fun r => r.reader = .unit key && r.bus = g.addr && r.len = g.len

/-- The bytes of segments of both kinds, those of HOST ones as the unit has them: UNCORR_MEM when a local read completes with it. -/
def State.readMixed (s : State) (key c : Nat) (segs : List Seg) : State × ReadRes :=
  segs.foldl (fun acc g =>
    match acc.2 with
    | .bytes a =>
      if g.host then (acc.1, .bytes (a ++ (List.range g.len).map fun i => smGet (fun _ => 0) (s.bufOf key).cells (g.addr + i)))
      else match acc.1.homeRead (some c) g.addr g.len with
        | (s, some b) => (s, .bytes (a ++ b))
        | (s, none) => (s, .fails 0x12)
    | r => (acc.1, r)) (s, .bytes [])

/-- Segments read for the work a unit has taken: what lies on HOST pages is asked for first, and the unit goes on once it has
come (R89, notes/assumptions/86). A read that cannot be issued or that fails ends the work with ACCESS. -/
def State.readAny (s : State) (key c : Nat) (segs : List Seg) : State × ReadRes :=
  let b := s.bufOf key
  let miss := segs.filter fun g => g.host && !b.covers g
  let new := miss.filter fun g => !s.asked key g
  if b.fail ≠ 0 then (s, .fails b.fail)
  else if new ≠ [] && !s.canIssue c then (s, .fails 0x11)
  else if miss = [] then s.readMixed key c segs
  else (new.foldl (fun s g => (s.issueRead c (.unit key) 0 g.addr g.len).1) s, .waits)

/-- A range read for the work of a unit: ACCESS where it does not translate. -/
def State.readRange (s : State) (key c src tile va len : Nat) : State × ReadRes :=
  match s.mapRange c src tile va len false with
  | (s, .error (.access _)) => (s, .fails 0x11)
  | (s, .error (.uncorr _)) => (s, .fails 0x12)
  | (s, .ok segs) => s.readAny key c segs

/-- The HOST pages of ranges that a work is to read asked for; false while the unit waits for one. Where one cannot be had the work
goes on and meets the failure where it reads. -/
def State.hostNeeds (s : State) (key c : Nat) (ranges : List (Nat × Nat)) : State × Bool :=
  let segs := (ranges.flatMap fun r => pagePieces r.1 r.2).filterMap fun p => match s.walk c p.1 false false with
    | .host bus => some ({ host := true, addr := bus, len := p.2, mcomp := false } : Seg)
    | _ => none
  match s.readAny key c segs with
  | (s, .waits) => (s, false)
  | (s, .fails st) => (s.setBuf key { s.bufOf key with fail := st }, true)
  | (s, .bytes _) => (s, true)

/-- What a work finds when it reads its descriptor; ILLEGAL_DESC where the address is not a multiple of the alignment. -/
def State.readDesc (s : State) (key c src tile : Nat) (va : W64) (len align : Nat) : State × ReadRes :=
  if va.toNat % align ≠ 0 then (s, .fails 0x10) else s.readRange key c src tile va.toNat len

/-- A field of n bytes at offset o of a descriptor. -/
def fieldAt (bs : List Byte) (o n : Nat) : Nat := ofBytes ((bs.drop o).take n)

/-- Is a field of n bytes at offset o zero? -/
def zeroAt (b : List Byte) (o n : Nat) : Bool := ((b.drop o).take n).all (· = 0)

/-- A free value of n bits where the spec states none. -/
def State.freeNat (s : State) (n : Nat) : Nat × State := ((s.free.1.toNat) % 2 ^ n, s.free.2)

/-- Free bytes. -/
def State.freeBytes (s : State) : Nat → List Byte × State
  | 0 => ([], s)
  | n + 1 =>
    let r := s.freeNat 8
    let rs := r.2.freeBytes n
    (BitVec.ofNat 8 r.1 :: rs.1, rs.2)

/-! ### Lists and outputs of a work -/

/-- The n elements of `size` bytes that bytes hold. -/
def elementsOf (size n : Nat) (b : List Byte) : List Nat := (List.range n).map fun i => ofBytes ((b.drop (i * size)).take size)

/-- n elements of `size` bytes at va, as a front reads them, those of HOST pages as it has them; else the status that ends the
work. -/
def State.engineList (s : State) (key c src t va n size : Nat) : State × Except Nat (List Nat) :=
  match s.mapRange c src t va (n * size) false with
  | (s, .error (.access _)) => (s, .error 0x11)
  | (s, .error (.uncorr _)) => (s, .error 0x12)
  | (s, .ok segs) =>
    if segs.any fun g => g.host && !(s.bufOf key).covers g then (s, .error (max 0x11 (s.bufOf key).fail)) else
    match s.readMixed key c segs with
    | (s, .bytes b) => (s, .ok (elementsOf size n b))
    | (s, .fails st) => (s, .error st)
    | (s, .waits) => (s, .error 0x11)

/-- The pieces before the first that cannot be reached. -/
def State.mapPrefix (s : State) (c va len : Nat) : List Seg :=
  ((pagePieces va len).map fun p => (p, s.walk c p.1 true false)).foldr (fun x rest =>
    match x.2 with
    | .ok pa mc _ => { host := false, addr := pa, len := x.1.2, mcomp := mc } :: rest
    | .host bus => { host := true, addr := bus, len := x.1.2, mcomp := false } :: rest
    | _ => []) []

/-- Bytes written over segments of both kinds, those of HOST ones as posted writes (R89): 0, or the status of the first segment that
cannot be written, ACCESS where the package cannot issue a write. -/
def State.writeMixed (s : State) (c : Nat) : List Seg → List Byte → State × Nat
  | [], _ => (s, 0)
  | g :: gs, bs =>
    let r : State × Nat :=
      if g.host then
        if s.canIssue c then (s.send (.pcieWrite (c + 1) g.addr (bs.take g.len) false), 0) else (s, 0x11)
      else match s.writeSegs c [g] (bs.take g.len) with
        | (s, true) => (s, 0)
        | (s, false) => (s, 0x12)
    let q := r.1.writeMixed c gs (bs.drop g.len)
    (q.1, if r.2 = 0 then q.2 else r.2)

/-- Bytes laid over segments, each segment written or not by a free bit (R101: it may already have been written). -/
def State.maybeWrite (s : State) (c : Nat) : List Seg → List Byte → State
  | [], _ => s
  | g :: gs, bs =>
    let r := s.freeNat 1
    ((if r.1 = 1 then (r.2.writeMixed c [g] (bs.take g.len)).1 else r.2).maybeWrite c gs (bs.drop g.len))

/-- Bytes written for context c by an engine of tile t: 0, or the status of a page that cannot be written, the pages before
it written or not (R101). -/
def State.engineOut (s : State) (c src t va : Nat) (bs : List Byte) : State × Nat :=
  match s.mapRange c src t va bs.length true with
  | (s, .error (.access _)) => (s.maybeWrite c (s.mapPrefix c va bs.length) bs, 0x11)
  | (s, .error (.uncorr _)) => (s.maybeWrite c (s.mapPrefix c va bs.length) bs, 0x12)
  | (s, .ok segs) =>
    s.writeMixed c segs bs

end Sys2Proof.Machine
end

