-- ==== Sys2Proof/Machine/Bar.lean ====
section
/-!
DEFINITION. What the endpoint is (Table 13-2, R403, R405), what a request to a BAR answers, and the aperture of a VF (R409, R428).
-/
namespace Sys2Proof.Machine

/-! ### Identity and capabilities (Table 13-2, R405) -/

/-- What a function's configuration space says of it. -/
structure FnIdent where
  classCode : Nat
  vendor : W16
  device : Nat
  serial : W64
deriving DecidableEq, Repr

/-- Function 0 is the PF, n the VF n; the spec gives neither the vendor ID nor the serial number. -/
def fnIdent (f : Nat) : FnIdent :=
  { classCode := 0x120000, vendor := Config.vendorId, device := if f = 0 then 0x0A40 else 0x0A41, serial := Config.serialNumber }

/-- The SR-IOV capability of the PF. -/
structure SriovCap where
  totalVfs : Nat
  initialVfs : Nat
  firstOffset : Nat
  stride : Nat
  /-- system page sizes, least and greatest -/
  pageMin : Nat
  pageMax : Nat
deriving DecidableEq, Repr

def sriov : SriovCap := { totalVfs := 16, initialVfs := 16, firstOffset := 1, stride := 1, pageMin := 4096, pageMax := 65536 }

/-- Function number of VF n. -/
def vfFunction (n : Nat) : Nat := sriov.firstOffset + (n - 1) * sriov.stride

/-- The capabilities that Table 13-2 names, and those that it shuts out. -/
inductive PcieCap
  | endpoint | powerManagement | msix | aer | sriov | ari | dataLinkFeature | physical16 | physical32 | physical64 | laneMargining
  | msi | ats | pri | pasid | tph | ltr | resizableBar | doe | ide | atomicOps
deriving DecidableEq, Repr

/-- The capability list. -/
def pcieCaps : List PcieCap :=
  [.endpoint, .powerManagement, .msix, .aer, .sriov, .ari, .dataLinkFeature, .physical16, .physical32, .physical64, .laneMargining]

/-- Payload sizes and read request sizes that a function can be given. -/
def mpsOk (n : Nat) : Bool := [128, 256, 512].contains n
def mrrsOk (n : Nat) : Bool := [128, 256, 512, 1024, 2048, 4096].contains n

/-! ### What a BAR access answers (R403, R409, R425) -/

/-- A request that no BAR takes: UR for a read; a write is discarded. -/
def State.unsupported (s : State) (f : Nat) : BarOp → State
  | .read _ => s.send (.pcieCpl f 1 false [])
  | .write _ => s

/-- A request that a window cannot perform: Completer Abort for a read; a write is discarded. -/
def State.barFails (s : State) (f : Nat) : BarOp → State
  | .read _ => s.send (.pcieCpl f 4 false [])
  | .write _ => s

def barLen : BarOp → Nat
  | .read n => n
  | .write d => d.length

def barWrites : BarOp → Bool
  | .read _ => false
  | .write _ => true

/-! ### The apertures of the VFs (R409, R428) -/

/-- A failure of context c's aperture: the first is kept until VALID is cleared, and vector 10 is raised. -/
def State.hwinFault (s : State) (c cause va : Nat) (write : Bool) : State :=
  let r := Reg.hostwHwinFault c
  let s := if s.flag r .VALID then s else
    s.setFlds r [(.VALID, 1), (.WRITE, if write then 1 else 0), (.CAUSE, cause), (.VA, va)]
  s.vfEvent c 10

/-- How a BAR2 request goes on line by line: bytes read so far; false once a line was poisoned. -/
structure BarRun where
  data : List Byte
  clean : Bool
deriving DecidableEq, Repr

/-- One piece of a request, within a line: read or written at its home. -/
def State.barPiece (s : State) (c : Option Nat) (mcomp : Bool) (pa n : Nat) (bs : Option (List Byte)) (r : BarRun) : State × BarRun :=
  match bs with
  | some d =>
    let w := s.homeWrite c mcomp (cellsFrom pa d)
    (w.1, r)
  | none =>
    match s.homeRead c pa n with
    | (s, some d) => (s, { r with data := r.data ++ d })
    | (s, none) =>
      let f := s.freeBytes n
      (f.2, { data := r.data ++ f.1, clean := false })

/-- [a, a + n) in pieces that cross no 64-byte line. -/
def linePieces (a n : Nat) : List (Nat × Nat) :=
  (linesOf a n).map fun l =>
    let lo := max a (l * 64)
    (lo, min (a + n) (l * 64 + 64) - lo)

/-- A read's completion; a poisoned line poisons it. -/
def State.barDone (s : State) (f : Nat) (op : BarOp) (r : BarRun) : State :=
  match op with
  | .read _ => s.send (.pcieCpl f 0 (!r.clean) r.data)
  | .write _ => s

/-- The bytes of a write for the piece at `off` bytes into it. -/
def barPart (op : BarOp) (off n : Nat) : Option (List Byte) :=
  match op with
  | .read _ => none
  | .write d => some ((d.drop off).take n)

/-- The lines of an aperture request in order; the first that does not translate ends it. What lies on a HOST page goes on as a request of
the VF (R89): a write is posted, or discarded where none can be issued; a read goes on when its completion comes. -/
def State.apertureRun (c : Nat) (op : BarOp) (va0 : Nat) : List (Nat × Nat) → BarRun → State → State
  | [], r, s => s.barDone (c + 1) op r
  | p :: ps, r, s =>
    match s.translate c 6 0 p.1 (barWrites op) false with
    | (s, .ok pa mc _) =>
      let x := s.barPiece (some c) mc pa p.2 (barPart op (p.1 - va0) p.2) r
      apertureRun c op va0 ps x.2 x.1
    | (s, .uncorr _) =>
      let f := s.freeBytes p.2
      if (barWrites op) then s else apertureRun c op va0 ps { data := r.data ++ f.1, clean := false } f.2
    | (s, .fail k) => (s.hwinFault c k p.1 (barWrites op)).barFails (c + 1) op
    | (s, .host bus) =>
      match barPart op (p.1 - va0) p.2 with
      | some d => apertureRun c op va0 ps r (if s.canIssue c then s.send (.pcieWrite (c + 1) bus d false) else s)
      | none =>
        match s.issueRead c (.bar va0 (barLen op) r.data r.clean) p.1 bus p.2 with
        | (s, true) => s
        | (s, false) => s.barFails (c + 1) op

/-- The rest of an aperture read whose bytes on a HOST page have come: data that came poisoned poison the completion; a read that
failed ends it with Completer Abort (notes/assumptions/96). -/
def State.apertureData (s : State) (q : HostRead) (va0 len : Nat) (r : BarRun) (st : ReadStatus) (data : List Byte) : State :=
  let op := BarOp.read len
  let rest := (linePieces va0 len).filter fun p => q.va < p.1
  match st with
  | .sc => State.apertureRun q.ctx op va0 rest { r with data := r.data ++ data } s
  | .poisoned =>
    let f := s.freeBytes q.len
    State.apertureRun q.ctx op va0 rest { data := r.data ++ f.1, clean := false } f.2
  | _ => s.barFails (q.ctx + 1) op

end Sys2Proof.Machine
end

