-- ==== Sys2Proof/Machine/Formats.lean ====
section
/-!
DEFINITION. Number formats: the values of the floating-point element formats and of Quinale blocks, rounding, conversion,
exact arithmetic with one rounding, the compression codes, and the rounding entropy stream. Rules R207 to R217, R222 to
R226 of spec/.
-/
namespace Sys2Proof

/-! ### Values -/

/-- What an element stands for: NaN, an infinity, or ±m × 2^e (a zero keeps its sign). -/
inductive FVal
  | nan
  | inf (neg : Bool)
  | fin (neg : Bool) (m : Nat) (e : Int)
deriving DecidableEq, Repr

/-- A format of Table 7-2: widths, bias, whether values below its smallest normal are zero (R208), and whether it lacks
infinities (E4M3). -/
structure FFormat where
  ebits : Nat
  mbits : Nat
  bias : Nat
  flush : Bool
  noInf : Bool
deriving DecidableEq, Repr

def binary32 : FFormat := { ebits := 8, mbits := 23, bias := 127, flush := true, noInf := false }
def binary16 : FFormat := { ebits := 5, mbits := 10, bias := 15, flush := false, noInf := false }
def bfloat16 : FFormat := { ebits := 8, mbits := 7, bias := 127, flush := true, noInf := false }
def e4m3Fmt : FFormat := { ebits := 4, mbits := 3, bias := 7, flush := false, noInf := true }
def e5m2Fmt : FFormat := { ebits := 5, mbits := 2, bias := 15, flush := false, noInf := false }

/-- Bits of an element. -/
def FFormat.width (f : FFormat) : Nat := 1 + f.ebits + f.mbits

/-- The canonical NaN (Table 7-2). -/
def FFormat.canonicalNan (f : FFormat) : Nat :=
  if f.noInf then 2 ^ (f.ebits + f.mbits) - 1 else (2 ^ f.ebits - 1) * 2 ^ f.mbits + 2 ^ (f.mbits - 1)

/-- Exponent of the spacing below the smallest normal. -/
def FFormat.qmin (f : FFormat) : Int := 1 - (f.bias : Int) - f.mbits

/-- The largest finite value, as (m, e). -/
def FFormat.largest (f : FFormat) : Nat × Int :=
  let top : Int := (2 ^ f.ebits - 1 : Nat)
  if f.noInf then (2 ^ (f.mbits + 1) - 2, top - f.bias - f.mbits) else (2 ^ (f.mbits + 1) - 1, top - 1 - f.bias - f.mbits)

/-- The value of an element's bits (R207, R208). -/
def FFormat.decode (f : FFormat) (w : Nat) : FVal :=
  let neg := nbits w (f.ebits + f.mbits) (f.ebits + f.mbits) = 1
  let e := nbits w (f.ebits + f.mbits - 1) f.mbits
  let m := w % 2 ^ f.mbits
  if e = 2 ^ f.ebits - 1 && f.noInf && m = 2 ^ f.mbits - 1 then .nan
  else if e = 2 ^ f.ebits - 1 && !f.noInf then (if m = 0 then .inf neg else .nan)
  else if e = 0 then .fin neg (if f.flush then 0 else m) f.qmin
  else .fin neg (2 ^ f.mbits + m) ((e : Int) - f.bias - f.mbits)

/-- A sign over a magnitude's bits. -/
def FFormat.signed (f : FFormat) (neg : Bool) (w : Nat) : Nat := (if neg then 2 ^ (f.ebits + f.mbits) else 0) + w

def FFormat.infBits (f : FFormat) (neg : Bool) : Nat := f.signed neg ((2 ^ f.ebits - 1) * 2 ^ f.mbits)

/-- The bits of the largest finite value. -/
def FFormat.largestBits (f : FFormat) (neg : Bool) : Nat :=
  f.signed neg (if f.noInf then 2 ^ (f.ebits + f.mbits) - 2 else (2 ^ f.ebits - 1) * 2 ^ f.mbits - 1)

/-! ### Rounding (R216) -/

/-- m × 2^e as a multiple of 2^q, when e ≥ q. -/
def scaleTo (m : Nat) (e q : Int) : Nat := m * 2 ^ (e - q).toNat

/-- m ÷ 2^k rounded under a mode with draw d (R216). -/
def roundShift (rm : RoundMode) (d m k : Nat) : Nat :=
  let a := m / 2 ^ k
  let r := m % 2 ^ k
  match rm with
  | .nearest => if 2 ^ k < 2 * r || (2 * r = 2 ^ k && a % 2 = 1) then a + 1 else a
  | .zero => a
  | .stochastic => if d < 2 ^ 16 * r / 2 ^ k then a + 1 else a

/-- m × 2^e rounded to a multiple of 2^q. -/
def roundAt (rm : RoundMode) (d m : Nat) (e q : Int) : Nat :=
  if q ≤ e then scaleTo m e q else roundShift rm d m (q - e).toNat

/-- ⌊log₂ (m × 2^e)⌋, for m > 0. -/
def log2Of (m : Nat) (e : Int) : Int := (Nat.log2 m : Int) + e

/-- The bits of n × 2^q, a rounded magnitude on the format's grid that does not overflow. -/
def FFormat.gridBits (f : FFormat) (n : Nat) (q : Int) : Nat :=
  if n < 2 ^ f.mbits then (if f.flush then 0 else n)
  else if n < 2 ^ (f.mbits + 1) then (q + f.mbits + f.bias).toNat * 2 ^ f.mbits + (n - 2 ^ f.mbits)
  else (q + f.mbits + f.bias + 1).toNat * 2 ^ f.mbits

/-- Is n × 2^q above the largest finite value? -/
def FFormat.over (f : FFormat) (n : Nat) (q : Int) : Bool :=
  let l := f.largest
  if l.2 ≤ q then l.1 < scaleTo n q l.2 else scaleTo l.1 l.2 q < n

/-- A value encoded in a format under a rounding mode (R214). -/
def FFormat.encode (f : FFormat) (rm : RoundMode) (sat : Bool) (d : Nat) : FVal → Nat
  | .nan => f.canonicalNan
  | .inf neg => if f.noInf then (if sat then f.largestBits neg else f.canonicalNan) else f.infBits neg
  | .fin neg m e =>
    if m = 0 then f.signed neg 0 else
    let q := max (log2Of m e - f.mbits) f.qmin
    let n := roundAt rm d m e q
    if f.over n q then
      (if sat then f.largestBits neg else if f.noInf then f.canonicalNan else f.infBits neg)
    else f.signed neg (f.gridBits n q)

/-- Rounded to nearest with no saturation: what arithmetic does (R158). -/
def FFormat.nearest (f : FFormat) (v : FVal) : Nat := f.encode .nearest false 0 v

/-! ### Exact arithmetic (R209, R210) -/

/-- The signed integer of ±m × 2^e in units of 2^q, q ≤ e. -/
def signedAt (neg : Bool) (m : Nat) (e q : Int) : Int := if neg then -(scaleTo m e q : Int) else (scaleTo m e q : Int)

/-- The exact sum; an exact zero is −0 only for −0 + −0. -/
def FVal.add : FVal → FVal → FVal
  | .nan, _ => .nan
  | _, .nan => .nan
  | .inf a, .inf b => if a = b then .inf a else .nan
  | .inf a, .fin _ _ _ => .inf a
  | .fin _ _ _, .inf b => .inf b
  | .fin sa ma ea, .fin sb mb eb =>
    let q := min ea eb
    let t := signedAt sa ma ea q + signedAt sb mb eb q
    if t = 0 then .fin (ma = 0 && mb = 0 && sa && sb) 0 q else .fin (t < 0) t.natAbs q

/-- The value with its sign changed. -/
def FVal.neg : FVal → FVal
  | .nan => .nan
  | .inf a => .inf (!a)
  | .fin s m e => .fin (!s) m e

/-- The value without its sign. -/
def FVal.abs : FVal → FVal
  | .nan => .nan
  | .inf _ => .inf false
  | .fin _ m e => .fin false m e

/-- The exact product; 0 × ∞ is NaN. -/
def FVal.mul : FVal → FVal → FVal
  | .nan, _ => .nan
  | _, .nan => .nan
  | .inf a, .inf b => .inf (a != b)
  | .inf a, .fin s m _ => if m = 0 then .nan else .inf (a != s)
  | .fin s m _, .inf b => if m = 0 then .nan else .inf (s != b)
  | .fin sa ma ea, .fin sb mb eb => .fin (sa != sb) (ma * mb) (ea + eb)

/-- Is a less than b as numbers? NaN orders with nothing. -/
def FVal.lt : FVal → FVal → Bool
  | .nan, _ => false
  | _, .nan => false
  | .inf a, .inf b => a && !b
  | .inf a, .fin _ _ _ => a
  | .fin _ _ _, .inf b => !b
  | .fin sa ma ea, .fin sb mb eb => let q := min ea eb; signedAt sa ma ea q < signedAt sb mb eb q

/-- Are a and b equal as numbers? −0 equals +0. -/
def FVal.numEq : FVal → FVal → Bool
  | .nan, _ => false
  | _, .nan => false
  | .inf a, .inf b => a = b
  | .inf _, .fin _ _ _ => false
  | .fin _ _ _, .inf _ => false
  | .fin sa ma ea, .fin sb mb eb => let q := min ea eb; signedAt sa ma ea q = signedAt sb mb eb q

def FVal.isNan : FVal → Bool
  | .nan => true
  | _ => false

def FVal.isFinite : FVal → Bool
  | .fin _ _ _ => true
  | _ => false

def FVal.isNeg : FVal → Bool
  | .nan => false
  | .inf a => a
  | .fin s _ _ => s

/-- The order of VFMIN and VFMAX: −0 below +0 (R210). -/
def FVal.below (a b : FVal) : Bool := a.lt b || (a.numEq b && a.isNeg && !b.isNeg)

/-- VFMIN and VFMAX (R210). -/
def FVal.minimum (a b : FVal) : FVal := if a.isNan || b.isNan then .nan else if b.below a then b else a
def FVal.maximum (a b : FVal) : FVal := if a.isNan || b.isNan then .nan else if a.below b then b else a

/-- An integer as a value; zero is +0. -/
def FVal.ofInt (i : Int) : FVal := .fin (i < 0) i.natAbs 0

/-! ### Integers (R215) -/

/-- The range of n-bit integers. -/
def intRange (n : Nat) (unsigned : Bool) : Int × Int :=
  if unsigned then (0, (2 : Int) ^ n - 1) else (-((2 : Int) ^ (n - 1)), (2 : Int) ^ (n - 1) - 1)

def clampInt (n : Nat) (unsigned : Bool) (i : Int) : Int :=
  let r := intRange n unsigned
  if i < r.1 then r.1 else if r.2 < i then r.2 else i

/-- A value as an n-bit integer, rounded and clamped; NaN becomes 0. -/
def FVal.toIntBits (rm : RoundMode) (n : Nat) (unsigned : Bool) : FVal → Nat
  | .nan => 0
  | .inf neg => let r := intRange n unsigned; wrapTo n (if neg then r.1 else r.2)
  | .fin neg m e =>
    let k := roundAt rm 0 m e 0
    wrapTo n (clampInt n unsigned (if neg then -(k : Int) else (k : Int)))

/-- The integer that n bits stand for. -/
def intOf (n : Nat) (unsigned : Bool) (w : Nat) : Int := if unsigned then ((w % 2 ^ n : Nat) : Int) else signedOf n w

/-! ### Quinale blocks (R211 to R213) -/

/-- Element width w, precision p and block bytes B (Table 7-3). -/
def QFormat.w : QFormat → Nat
  | .qb8 => 8
  | .qb6 => 6
  | .qb4 => 4
def QFormat.p (f : QFormat) : Nat := f.w - 1
def QFormat.blockBytes (f : QFormat) : Nat := 4 * f.w + 1

/-- The exponent of a block's step: u = 2^(E − 127 − (p − 1)). -/
def QFormat.stepExp (f : QFormat) (e : Nat) : Int := (e : Int) - 127 - ((f.p : Int) - 1)

/-- The 32 values of a block (R212). -/
def QFormat.decodeBlock (f : QFormat) (b : List Byte) : List FVal :=
  let e := (b.headD 0).toNat
  let str := ofBytes (b.drop 1)
  (List.range 32).map fun i =>
    let x := nbits str (f.w * i + f.w - 1) (f.w * i)
    if e = 0xFF then .nan else .fin (2 ^ f.p ≤ x) (x % 2 ^ f.p) (f.stepExp e)

/-- A value taken as binary32 reads it: below 2⁻¹²⁶ it is a zero of its sign (R208). -/
def FVal.flush32 : FVal → FVal
  | .fin s m e => if m ≠ 0 && log2Of m e < -126 then .fin s 0 0 else .fin s m e
  | v => v

/-- The larger of two finite magnitudes. -/
def maxMag (a b : Nat × Int) : Nat × Int :=
  let q := min a.2 b.2
  if scaleTo a.1 a.2 q < scaleTo b.1 b.2 q then b else a

/-- The bytes of a block that hold exponent E and element bits. -/
def QFormat.blockOf (f : QFormat) (e : Nat) (xs : List Nat) : List Byte :=
  BitVec.ofNat 8 e :: toBytes (f.blockBytes - 1) (xs.zipIdx.foldl (fun acc x => acc + x.1 * 2 ^ (f.w * x.2)) 0)

/-- One element's bits: the rounded, clamped magnitude with its sign (R213, steps 4 to 6). -/
def QFormat.element (f : QFormat) (rm : RoundMode) (d e : Nat) : FVal → Nat
  | .fin s m x =>
    let q := min (roundAt rm d m x (f.stepExp e)) (2 ^ f.p - 1)
    if q = 0 then 0 else (if s then 2 ^ f.p else 0) + q
  | _ => 0

/-- 32 values encoded as a block, with the draws of R216 (R213). -/
def QFormat.encodeBlock (f : QFormat) (rm : RoundMode) (draws : List Nat) (xs : List FVal) : List Byte :=
  let xs := xs.map FVal.flush32
  if xs.any (fun x => !x.isFinite) then f.blockOf 0xFF [] else
  let m := xs.foldl (fun acc x => match x with
    | .fin _ m e => maxMag acc (m, e)
    | _ => acc) (0, 0)
  if m.1 = 0 then f.blockOf 0 [] else
  let e := (log2Of m.1 m.2 + 127).toNat
  f.blockOf e (xs.zipIdx.map fun x => f.element rm (draws.getD x.2 0) e x.1)

/-! ### Element types -/

/-- The floating-point format of an element type. -/
def ElemType.format : ElemType → Option FFormat
  | .fp32 => some binary32
  | .fp16 => some binary16
  | .bf16 => some bfloat16
  | .e4m3 => some e4m3Fmt
  | .e5m2 => some e5m2Fmt
  | _ => none

/-- Bytes of an element (Table 5-5). -/
def ElemType.size : ElemType → Nat
  | .i8 => 1 | .i16 => 2 | .i32 => 4 | .i64 => 8
  | .fp32 => 4 | .fp16 => 2 | .bf16 => 2 | .e4m3 => 1 | .e5m2 => 1

def ElemType.isInt : ElemType → Bool
  | .i8 => true | .i16 => true | .i32 => true | .i64 => true
  | _ => false

/-- Elements of a register. -/
def ElemType.count (t : ElemType) : Nat := 64 / t.size

/-- Bits of an element. -/
def ElemType.bitsOf (t : ElemType) : Nat := 8 * t.size

/-! ### Compression codes (Table 7-4) -/

/-- Payload type, and the wire form: bfloat16 (none) or a block format; none for code 0. -/
def compressForm : Nat → Option (FFormat × Option QFormat)
  | 1 => some (binary32, none)
  | 2 => some (binary32, some .qb8)
  | 3 => some (bfloat16, some .qb8)
  | 4 => some (bfloat16, some .qb6)
  | 5 => some (bfloat16, some .qb4)
  | 6 => some (binary32, some .qb6)
  | 7 => some (binary32, some .qb4)
  | _ => none

/-- Chunks of k bytes, at most n of them. -/
def chunksOf (k : Nat) : Nat → List Byte → List (List Byte)
  | 0, _ => []
  | n + 1, l => if l.length < k || k = 0 then [] else l.take k :: chunksOf k n (l.drop k)

/-- The elements of a format in a run of bytes. -/
def FFormat.elements (f : FFormat) (b : List Byte) : List FVal :=
  (chunksOf (f.width / 8) b.length b).map fun x => f.decode (ofBytes x)

/-- Values as stored elements, rounded to nearest. -/
def FFormat.store (f : FFormat) (vs : List FVal) : List Byte := vs.flatMap fun v => toBytes (f.width / 8) (f.nearest v)

/-- Bytes of 32 elements in payload form, and in wire or stored form. -/
def payloadGroup (code : Nat) : Nat :=
  match compressForm code with
  | some (f, _) => 32 * (f.width / 8)
  | none => 0
def wireGroup (code : Nat) : Nat :=
  match compressForm code with
  | some (_, none) => 64
  | some (_, some q) => q.blockBytes
  | none => 0

/-- One group of 32 values in wire form, to nearest, without saturation (R223). -/
def compressGroup (code : Nat) (vs : List FVal) : List Byte :=
  match compressForm code with
  | some (_, none) => bfloat16.store vs
  | some (_, some q) => q.encodeBlock .nearest [] vs
  | none => []

/-- The 32 values of a group in wire form. -/
def restoreGroup (code : Nat) (b : List Byte) : List FVal :=
  match compressForm code with
  | some (_, none) => bfloat16.elements b
  | some (_, some q) => q.decodeBlock b
  | none => []

/-- A payload compressed group by group; code 0 leaves it unchanged (R223, R226). -/
def compress (code : Nat) (b : List Byte) : List Byte :=
  match compressForm code with
  | some (f, _) => (chunksOf (payloadGroup code) b.length b).flatMap fun g => compressGroup code (f.elements g)
  | none => b

/-- A wire or stored form restored to its payload type. -/
def restore (code : Nat) (b : List Byte) : List Byte :=
  match compressForm code with
  | some (f, _) => (chunksOf (wireGroup code) b.length b).flatMap fun g => f.store (restoreGroup code g)
  | none => b

/-! ### The rounding entropy stream (R217) -/

/-- One step of a shift register whose window of n bits starts at bit k of the sequence: the new bit is the exclusive or of
bits 0 and `tap` of the window. -/
def lfsrStep (n tap w : Nat) : Nat := w / 2 + (w + w / 2 ^ tap) % 2 * 2 ^ (n - 1)

/-- The window after k steps. -/
def lfsrWindow (n tap seed : Nat) : Nat → Nat
  | 0 => seed
  | k + 1 => lfsrStep n tap (lfsrWindow n tap seed k)

/-- A zero seed field is replaced by all ones. -/
def seedOf (n s : Nat) : Nat := if s % 2 ^ n = 0 then 2 ^ n - 1 else s % 2 ^ n

/-- Bit k of the pool stream of seeds S31 and S23. -/
def poolBit (s31 s23 k : Nat) : Nat :=
  (lfsrWindow 31 3 (seedOf 31 s31) k + lfsrWindow 23 5 (seedOf 23 s23) k) % 2

/-- Draw n of the pool stream: bits 16 n to 16 n + 15. Both windows hold at least 16 bits of their sequence. -/
def poolDraw (s31 s23 n : Nat) : Nat :=
  (lfsrWindow 31 3 (seedOf 31 s31) (16 * n) ^^^ lfsrWindow 23 5 (seedOf 23 s23) (16 * n)) % 2 ^ 16

end Sys2Proof
end

