-- ==== Sys2Proof/Machine/BobOps.lean ====
section
/-!
DEFINITION. Bobbins: their configuration, the place of a message in a queue or a combining round, and its removal. Rules
R240 to R254, R599 of spec/.
-/
namespace Sys2Proof.Machine

def bobCfg (b : Nat) : Reg := .bobCfg (b / 256) (b % 256)
def bobState (b : Nat) : Reg := .bobState (b / 256) (b % 256)

/-- Is bobbin b enabled and owned by context c (R240)? -/
def State.bobOwned (s : State) (c b : Nat) : Bool :=
  b < 8192 && s.flag (bobCfg b) .ENABLE && s.fld (bobCfg b) .OWNER = c

/-- MAXLEN in bytes, and the queue's depth in messages. -/
def State.bobMaxLen (s : State) (b : Nat) : Nat := 16 * (s.fld (bobCfg b) .LEN_M1 + 1)
def State.bobDepth (s : State) (b : Nat) : Nat := s.fld (bobCfg b) .DEPTH_M1 + 1

def State.bobRoom (s : State) (b : Nat) : Bool := (s.bobbin b).queue.length < s.bobDepth b

/-! ### Combining (R252, R253) -/

/-- Bytes of an element of a CTYPE (coded as ET). -/
def ctypeSize : Nat → Nat
  | 2 => 4
  | 3 => 8
  | 4 => 4
  | _ => 2

def Accum.zero : Accum := { sum := 0, nan := false, pinf := false, ninf := false }

/-- A value in units of 2⁻¹⁴⁹, as an accumulator adds it. -/
def Accum.ofVal : FVal → Accum
  | .nan => { Accum.zero with nan := true }
  | .inf neg => { Accum.zero with pinf := !neg, ninf := neg }
  | .fin neg m e => { Accum.zero with sum := signedAt neg m e (-149) }

/-- One element of a contribution. -/
def Accum.ofElem (ctype : Nat) (w : Nat) : Accum :=
  match ctype with
  | 2 => { Accum.zero with sum := signedOf 32 w }
  | 3 => { Accum.zero with sum := signedOf 64 w }
  | 4 => .ofVal (binary32.decode w)
  | _ => .ofVal (bfloat16.decode w)

def Accum.add (a b : Accum) : Accum :=
  { sum := a.sum + b.sum, nan := a.nan || b.nan, pinf := a.pinf || b.pinf, ninf := a.ninf || b.ninf }

/-- The sum element, rounded once; an exact sum of zero is +0. -/
def Accum.value (a : Accum) : FVal :=
  if a.nan || (a.pinf && a.ninf) then .nan
  else if a.pinf then .inf false
  else if a.ninf then .inf true
  else .fin (a.sum < 0) a.sum.natAbs (-149)

def Accum.toElem (ctype : Nat) (a : Accum) : Nat :=
  match ctype with
  | 2 => wrapTo 32 a.sum
  | 3 => wrapTo 64 a.sum
  | 4 => binary32.nearest a.value
  | _ => bfloat16.nearest a.value

/-- The accumulators of a contribution's elements. -/
def contribution (ctype : Nat) (data : List Byte) : List Accum :=
  (chunksOf (ctypeSize ctype) data.length data).map fun x => .ofElem ctype (ofBytes x)

/-- An accumulator, zero where nothing was added yet, with a contribution added. -/
def addContribution (acc c : List Accum) : List Accum := if acc = [] then c else List.zipWith Accum.add acc c

/-- What the home answers to a message. -/
inductive SendRes
  | ok | full | badSize
deriving DecidableEq, Repr

/-- A message appended to a bobbin's queue; one that makes the queue non-empty is an event of the bobbin (R421). -/
def State.bobAppend (s : State) (b : Nat) (k : Bobbin) (msg : List Byte) : State :=
  let t := s.setBobbin b { k with queue := k.queue ++ [msg] }
  if k.queue = [] then t.memberEvent (s.fld (bobCfg b) .OWNER) 0 false (b / 256) (b % 256) else t

/-- A message at its bobbin's home (R245, R246, R252, R254). -/
def State.bobPlace (s : State) (b : Nat) (data : List Byte) : State × SendRes :=
  let k := s.bobbin b
  if s.flag (bobCfg b) .COMBINE then
    let ctype := s.fld (bobCfg b) .CTYPE
    let n := s.fld (bobState b) .CONTRIB + 1
    if data.length ≠ s.bobMaxLen b then (s, .badSize)
    else if n < s.fld (bobCfg b) .EXPECT then
      ((s.setBobbin b { k with acc := addContribution k.acc (contribution ctype data) }).setFld (bobState b) .CONTRIB n, .ok)
    else if !s.bobRoom b then (s, .full)
    else
      let sum := (addContribution k.acc (contribution ctype data)).flatMap fun a => toBytes (ctypeSize ctype) (a.toElem ctype)
      ((s.bobAppend b { k with acc := [] } sum).setFld (bobState b) .CONTRIB 0, .ok)
  else if s.bobMaxLen b < data.length then (s, .badSize)
  else if !s.bobRoom b then (s, .full)
  else (s.bobAppend b k data, .ok)

/-- The head message removed (R245). -/
def State.bobPop (s : State) (b : Nat) : State :=
  (s.setBobbin b { s.bobbin b with queue := (s.bobbin b).queue.tail }).addFld (bobState b) .RECEIVED 1

/-- A bobbin emptied: queue, partial round and accumulator (R244, R263). -/
def State.bobEmpty (s : State) (b : Nat) : State :=
  (s.setBobbin b { s.bobbin b with queue := [], acc := [] }).setFld (bobState b) .CONTRIB 0

/-! ### Waits on objects (Table 5-18) -/

/-- Does core n wait to send to, or to receive from, bobbin b? -/
def State.waitsSend (s : State) (b n : Nat) : Bool :=
  match (s.core n).wait with
  | .bsend _ i none _ => i = b
  | _ => false
def State.waitsRecv (s : State) (b n : Nat) : Bool :=
  match (s.core n).wait with
  | .brecv _ i _ _ => i = b
  | _ => false

/-- Does core n wait for an entry of port p's outbound queue of its context? -/
def State.waitsPort (s : State) (p c n : Nat) : Bool :=
  s.ctxOf n = c && match (s.core n).wait with
  | .bsend _ _ (some q) _ => q = p
  | _ => false

/-- Does core n wait on knot k? -/
def State.waitsKnot (s : State) (k n : Nat) : Bool :=
  match (s.core n).wait with
  | .kwait _ j _ _ => j = k
  | _ => false

/-- The waiting cores, in the order their waits began. -/
def State.waitingCores (s : State) : List Nat :=
  s.waiting.filterMap fun a => match a with
  | .nib n => some n
  | .hart _ => none

end Sys2Proof.Machine
end

