-- ==== Sys2Proof/Machine/Vector.lean ====
section
/-!
DEFINITION. The vector and predicate Ductus instructions (Tables 5-5 and 5-6, R113, R157 to R159, R210).
-/
namespace Sys2Proof.Machine

/-! ### Elements -/

/-- Element i of a register, as a number. -/
def elemOf (t : ElemType) (v : W512) (i : Nat) : Nat := v.toNat / 2 ^ (i * t.bitsOf) % 2 ^ t.bitsOf

/-- The register whose elements of w bits are the numbers of a list, element 0 first. -/
def packElems (w : Nat) : List Nat → Nat
  | [] => 0
  | x :: xs => x % 2 ^ w + 2 ^ w * packElems w xs

/-- A register with element i given by f, for every element. -/
def vecOf (t : ElemType) (f : Nat → Nat) : W512 := BitVec.ofNat 512 (packElems t.bitsOf ((List.range t.count).map f))

/-- Is element i active: the predicate bit of its lowest byte lane (R113)? -/
def activeElem (p : W64) (t : ElemType) (i : Nat) : Bool := p.getLsbD (i * t.size)

/-- The active elements of a register, rising. -/
def activeElems (p : W64) (t : ElemType) : List Nat := (List.range t.count).filter (activeElem p t)

/-- old with every active element i replaced by f i (R157). -/
def mergeElems (p : W64) (t : ElemType) (old : W512) (f : Nat → Nat) : W512 :=
  vecOf t fun i => if activeElem p t i then f i else elemOf t old i

/-- Element i of operand b: of VS2, or the low bits of s[RS]. -/
def NibCore.elemB (k : NibCore) (t : ElemType) (b : VectorB) (i : Nat) : Nat :=
  match b with
  | .vec r => elemOf t (k.vreg r) i
  | .scal r => (k.sreg r).toNat % 2 ^ t.bitsOf

/-- A reserved encoding of core n: ILLEGAL, with eaddr 0 (R153). -/
def State.illegal (s : State) (n : Nat) : State := s.nibException n 0x01 0

/-- An instruction that computes registers, but is reserved unless `ok`. -/
def nibGuarded (n : Nat) (ok : Bool) (f : NibCore → NibCore) (s : State) : Out :=
  .next (s.nibStep n fun s k => if ok then s.nibDone n (f k) else s.illegal n)

/-- A vector integer instruction: f of the element width and of both elements. -/
def vIntOp (f : Nat → Nat → Nat → Nat) (n : CoreId) (o : VBin) (s : State) : Out :=
  nibGuarded n o.et.isInt (fun k => k.setV o.vd (mergeElems (k.preg o.pg) o.et (k.vreg o.vd) fun i =>
    f o.et.bitsOf (elemOf o.et (k.vreg o.vs1) i) (k.elemB o.et o.b i))) s

/-- The element types that VFP instructions accept. -/
def isVfpType : ElemType → Bool
  | .fp32 => true | .fp16 => true | .bf16 => true
  | _ => false

/-- The format of a VFP element type. -/
def vfpFormat (t : ElemType) : FFormat := t.format.getD binary32

/-- A vector floating-point instruction: the exact f of both elements, rounded once to the element type (R158). -/
def vFloatOp (f : FVal → FVal → FVal) (n : CoreId) (o : VBin) (s : State) : Out :=
  let fm := vfpFormat o.et
  nibGuarded n (isVfpType o.et) (fun k => k.setV o.vd (mergeElems (k.preg o.pg) o.et (k.vreg o.vd) fun i =>
    fm.nearest (f (fm.decode (elemOf o.et (k.vreg o.vs1) i)) (fm.decode (k.elemB o.et o.b i))))) s

/-- A vector floating-point instruction on VS1 alone. -/
def vFloatUnary (f : FVal → FVal) (n : CoreId) (vd vs1 : VReg) (pg : PReg) (et : ElemType) (s : State) : Out :=
  let fm := vfpFormat et
  nibGuarded n (isVfpType et) (fun k => k.setV vd (mergeElems (k.preg pg) et (k.vreg vd) fun i =>
    fm.nearest (f (fm.decode (elemOf et (k.vreg vs1) i))))) s

/-- The predicate a compare writes: every byte lane of an active element takes its result, inactive ones clear (R157). -/
def comparePred (p : W64) (t : ElemType) (f : Nat → Bool) : W64 :=
  BitVec.ofNat 64 (packElems t.size ((List.range t.count).map fun i =>
    if activeElem p t i && f i then 2 ^ t.size - 1 else 0))

/-- An integer compare. -/
def vCmpInt (f : Nat → Nat → Nat → Bool) (n : CoreId) (o : VCmpOp) (s : State) : Out :=
  nibGuarded n o.et.isInt (fun k => k.setP o.pd (comparePred (k.preg o.pg) o.et fun i =>
    f o.et.bitsOf (elemOf o.et (k.vreg o.vs1) i) (k.elemB o.et o.b i))) s

/-- A floating-point compare (R210). -/
def vCmpFloat (f : FVal → FVal → Bool) (n : CoreId) (o : VCmpOp) (s : State) : Out :=
  let fm := vfpFormat o.et
  nibGuarded n (isVfpType o.et) (fun k => k.setP o.pd (comparePred (k.preg o.pg) o.et fun i =>
    f (fm.decode (elemOf o.et (k.vreg o.vs1) i)) (fm.decode (k.elemB o.et o.b i)))) s

/-- An integer reduction: the active elements of VS1, as f of the width and the list, sign-extended into s[RS]; 0 of no
active element. -/
def vReduce (f : Nat → List Int → Int) (n : CoreId) (rs : SReg) (vs1 : VReg) (pg : PReg) (et : ElemType) (s : State) : Out :=
  nibGuarded n et.isInt (fun k =>
    let xs := (activeElems (k.preg pg) et).map fun i => signedOf et.bitsOf (elemOf et (k.vreg vs1) i)
    k.setS rs (BitVec.ofInt 64 (f et.bitsOf xs))) s

/-- A predicate operation on all 64 bits. -/
def predOp (f : W64 → W64 → W64) (n : CoreId) (pd ps1 ps2 : PReg) (s : State) : Out :=
  .next (s.nibCompute n fun k => k.setP pd (f (k.preg ps1) (k.preg ps2)))

/-- Two's-complement arithmetic at a width. -/
def vMulHigh (w a b : Nat) : Nat := wrapTo w (signedOf w a * signedOf w b / (2 : Int) ^ w)
def vShiftArith (w a b : Nat) : Nat := wrapTo w (signedOf w a / (2 : Int) ^ (b % w))
def vSatAdd (w a b : Nat) : Nat := wrapTo w (clampInt w false (signedOf w a + signedOf w b))
def vSatSub (w a b : Nat) : Nat := wrapTo w (clampInt w false (signedOf w a - signedOf w b))

/-! ### Vector memory (R159) -/

/-- The address of a vector access. -/
def NibCore.vecAddr (k : NibCore) (o : VMemOp) : Nat := (k.sreg o.rs + o.imm25.signExtend 64).toNat

/-- The virtual addresses of the bytes of the active elements, rising, for an access of 64 bytes at va. -/
def activeAddrs (p : W64) (t : ElemType) (va : Nat) : List Nat :=
  (activeElems p t).flatMap fun i => addrsFrom (va + i * t.size) t.size

/-- The register a vector load leaves, from its loaded bytes. -/
def NibCore.loadedVec (k : NibCore) (o : VMemOp) (bcast : Bool) (va : Nat) (got : List Host.Cell) : W512 :=
  mergeElems (k.preg o.pg) o.et (k.vreg o.v) fun i =>
    gotValue got (if bcast then va else (va + i * o.et.size) % 2 ^ 64) o.et.size

/-- A vector load of the bytes at the listed addresses. -/
def vecLoad (bcast : Bool) (n : CoreId) (o : VMemOp) (s : State) : Out :=
  .next (s.nibStep n fun s k =>
    let va := k.vecAddr o
    if activeElems (k.preg o.pg) o.et = [] then s.nibDone n k
    else if va % o.et.size ≠ 0 then s.nibException n 0x03 (va % 2 ^ 48) else
    match s.loadBytes n (if bcast then addrsFrom va o.et.size else activeAddrs (k.preg o.pg) o.et va) with
    | (s, .exc cause ea) => s.nibException n cause (ea % 2 ^ 48)
    | (s, .bytes got []) => s.nibDone n ((s.core n).setV o.v ((s.core n).loadedVec o bcast va got))
    | (s, .bytes got host) => s.hostLoad n (.vector o bcast) va 64 got host)

/-! ### The instructions -/

/-- VADD: wrapping sum. -/
def execVadd (n : CoreId) (o : VBin) (s : State) : Out := vIntOp (fun w a b => (a + b) % 2 ^ w) n o s

/-- VSUB: wrapping difference. -/
def execVsub (n : CoreId) (o : VBin) (s : State) : Out := vIntOp (fun w a b => (a + (2 ^ w - b)) % 2 ^ w) n o s

/-- VMUL: low half of the product. -/
def execVmul (n : CoreId) (o : VBin) (s : State) : Out := vIntOp (fun w a b => a * b % 2 ^ w) n o s

/-- VMULH: high half of the signed product. -/
def execVmulh (n : CoreId) (o : VBin) (s : State) : Out := vIntOp (fun w a b => vMulHigh w a b) n o s

/-- VMULHU: high half of the unsigned product. -/
def execVmulhu (n : CoreId) (o : VBin) (s : State) : Out := vIntOp (fun w a b => a * b / 2 ^ w) n o s

/-- VAND. -/
def execVand (n : CoreId) (o : VBin) (s : State) : Out := vIntOp (fun _ a b => a &&& b) n o s

/-- VOR. -/
def execVor (n : CoreId) (o : VBin) (s : State) : Out := vIntOp (fun _ a b => a ||| b) n o s

/-- VXOR. -/
def execVxor (n : CoreId) (o : VBin) (s : State) : Out := vIntOp (fun _ a b => a ^^^ b) n o s

/-- VSLL: shift left by b modulo the element width. -/
def execVsll (n : CoreId) (o : VBin) (s : State) : Out := vIntOp (fun w a b => a * 2 ^ (b % w) % 2 ^ w) n o s

/-- VSRL: logical shift right by b modulo the element width. -/
def execVsrl (n : CoreId) (o : VBin) (s : State) : Out := vIntOp (fun w a b => a / 2 ^ (b % w)) n o s

/-- VSRA: arithmetic shift right by b modulo the element width. -/
def execVsra (n : CoreId) (o : VBin) (s : State) : Out := vIntOp (fun w a b => vShiftArith w a b) n o s

/-- VMIN: signed minimum. -/
def execVmin (n : CoreId) (o : VBin) (s : State) : Out := vIntOp (fun w a b => if signedOf w b < signedOf w a then b else a) n o s

/-- VMAX: signed maximum. -/
def execVmax (n : CoreId) (o : VBin) (s : State) : Out := vIntOp (fun w a b => if signedOf w a < signedOf w b then b else a) n o s

/-- VMINU: unsigned minimum. -/
def execVminu (n : CoreId) (o : VBin) (s : State) : Out := vIntOp (fun _ a b => min a b) n o s

/-- VMAXU: unsigned maximum. -/
def execVmaxu (n : CoreId) (o : VBin) (s : State) : Out := vIntOp (fun _ a b => max a b) n o s

/-- VSADD: signed saturating sum. -/
def execVsadd (n : CoreId) (o : VBin) (s : State) : Out := vIntOp (fun w a b => vSatAdd w a b) n o s

/-- VSSUB: signed saturating difference. -/
def execVssub (n : CoreId) (o : VBin) (s : State) : Out := vIntOp (fun w a b => vSatSub w a b) n o s

/-- VSEL: in every element VS1 where PG is 1, else operand b; any element type. -/
def execVsel (n : CoreId) (o : VBin) (s : State) : Out :=
  .next (s.nibCompute n fun k => k.setV o.vd (vecOf o.et fun i =>
    if activeElem (k.preg o.pg) o.et i then elemOf o.et (k.vreg o.vs1) i else k.elemB o.et o.b i))

/-- VFADD: sum. -/
def execVfadd (n : CoreId) (o : VBin) (s : State) : Out := vFloatOp FVal.add n o s

/-- VFSUB: difference. -/
def execVfsub (n : CoreId) (o : VBin) (s : State) : Out := vFloatOp (fun a b => a.add b.neg) n o s

/-- VFMUL: product. -/
def execVfmul (n : CoreId) (o : VBin) (s : State) : Out := vFloatOp FVal.mul n o s

/-- VFMIN (R210). -/
def execVfmin (n : CoreId) (o : VBin) (s : State) : Out := vFloatOp FVal.minimum n o s

/-- VFMAX (R210). -/
def execVfmax (n : CoreId) (o : VBin) (s : State) : Out := vFloatOp FVal.maximum n o s

/-- VFMA: VS1 × b + VS3, rounded once. -/
def execVfma (n : CoreId) (o : VBin) (vs3 : VReg) (s : State) : Out :=
  let fm := vfpFormat o.et
  nibGuarded n (isVfpType o.et) (fun k => k.setV o.vd (mergeElems (k.preg o.pg) o.et (k.vreg o.vd) fun i =>
    fm.nearest (((fm.decode (elemOf o.et (k.vreg o.vs1) i)).mul (fm.decode (k.elemB o.et o.b i))).add
      (fm.decode (elemOf o.et (k.vreg vs3) i))))) s

/-- VFABS: VS1 without its sign. -/
def execVfabs (n : CoreId) (vd vs1 : VReg) (pg : PReg) (et : ElemType) (s : State) : Out := vFloatUnary FVal.abs n vd vs1 pg et s

/-- VFNEG: VS1 with its sign changed. -/
def execVfneg (n : CoreId) (vd vs1 : VReg) (pg : PReg) (et : ElemType) (s : State) : Out := vFloatUnary FVal.neg n vd vs1 pg et s

/-- VLD: the active elements of 64 bytes (R159). -/
def execVld (n : CoreId) (o : VMemOp) (s : State) : Out := vecLoad false n o s

/-- VLDBC: one element into every active element (R159). -/
def execVldbc (n : CoreId) (o : VMemOp) (s : State) : Out := vecLoad true n o s

/-- VST: stores the active elements of VS1 (R159). -/
def execVst (n : CoreId) (o : VMemOp) (s : State) : Out :=
  .next (s.nibStep n fun s k =>
    let va := k.vecAddr o
    if activeElems (k.preg o.pg) o.et = [] then s.nibDone n k
    else if va % o.et.size ≠ 0 then s.nibException n 0x03 (va % 2 ^ 48)
    else s.nibStore n ((activeElems (k.preg o.pg) o.et).flatMap fun i =>
      cellsFrom (va + i * o.et.size) (toBytes o.et.size (elemOf o.et (k.vreg o.v) i))))

/-- VBCAST: every active element takes the low bits of s[RS]. -/
def execVbcast (n : CoreId) (vd : VReg) (rs : SReg) (pg : PReg) (et : ElemType) (s : State) : Out :=
  .next (s.nibCompute n fun k => k.setV vd (mergeElems (k.preg pg) et (k.vreg vd) fun _ => (k.sreg rs).toNat))

/-- VEXT: an element, zero-extended; an index past the last element is reserved (R157). -/
def execVext (n : CoreId) (rs : SReg) (vs1 : VReg) (et : ElemType) (ix : BitVec 6) (s : State) : Out :=
  nibGuarded n (ix.toNat < et.count) (fun k => k.setS rs (BitVec.ofNat 64 (elemOf et (k.vreg vs1) ix.toNat))) s

/-- VINS: one element replaced; an index past the last element is reserved (R157). -/
def execVins (n : CoreId) (vd : VReg) (rs : SReg) (et : ElemType) (ix : BitVec 6) (s : State) : Out :=
  nibGuarded n (ix.toNat < et.count) (fun k => k.setV vd (vecOf et fun i =>
    if i = ix.toNat then (k.sreg rs).toNat else elemOf et (k.vreg vd) i)) s

/-- VSHUF: byte lane i takes the byte lane of VS1 that the index byte names, modulo 64 (R157). -/
def execVshuf (n : CoreId) (vd vs1 : VReg) (b : VectorB) (pg : PReg) (s : State) : Out :=
  .next (s.nibCompute n fun k => k.setV vd (mergeElems (k.preg pg) .i8 (k.vreg vd) fun i =>
    elemOf .i8 (k.vreg vs1) (k.elemB .i8 b i % 64)))

/-- VREDADD: the sum at the element width. -/
def execVredadd (n : CoreId) (rs : SReg) (vs1 : VReg) (pg : PReg) (et : ElemType) (s : State) : Out :=
  vReduce (fun w xs => signedOf w (wrapTo w xs.sum)) n rs vs1 pg et s

/-- VREDMIN: the signed minimum. -/
def execVredmin (n : CoreId) (rs : SReg) (vs1 : VReg) (pg : PReg) (et : ElemType) (s : State) : Out :=
  vReduce (fun _ xs => xs.foldl min (xs.headD 0)) n rs vs1 pg et s

/-- VREDMAX: the signed maximum. -/
def execVredmax (n : CoreId) (rs : SReg) (vs1 : VReg) (pg : PReg) (et : ElemType) (s : State) : Out :=
  vReduce (fun _ xs => xs.foldl max (xs.headD 0)) n rs vs1 pg et s

/-- The ordered sum of a list: the first element, then each further one added and rounded. -/
def orderedSum (fm : FFormat) : List FVal → Nat
  | [] => 0
  | x :: xs => xs.foldl (fun acc y => fm.nearest ((fm.decode acc).add y)) (fm.nearest x)

/-- VFREDADD: the ordered sum of the active elements, zero-extended (R157). -/
def execVfredadd (n : CoreId) (rs : SReg) (vs1 : VReg) (pg : PReg) (et : ElemType) (s : State) : Out :=
  let fm := vfpFormat et
  nibGuarded n (isVfpType et) (fun k => k.setS rs (BitVec.ofNat 64 (orderedSum fm
    ((activeElems (k.preg pg) et).map fun i => fm.decode (elemOf et (k.vreg vs1) i))))) s

/-- VCMP.EQ. -/
def execVcmpEq (n : CoreId) (o : VCmpOp) (s : State) : Out := vCmpInt (fun _ a b => a == b) n o s

/-- VCMP.NE. -/
def execVcmpNe (n : CoreId) (o : VCmpOp) (s : State) : Out := vCmpInt (fun _ a b => a != b) n o s

/-- VCMP.LT. -/
def execVcmpLt (n : CoreId) (o : VCmpOp) (s : State) : Out := vCmpInt (fun w a b => signedOf w a < signedOf w b) n o s

/-- VCMP.LE. -/
def execVcmpLe (n : CoreId) (o : VCmpOp) (s : State) : Out := vCmpInt (fun w a b => signedOf w a ≤ signedOf w b) n o s

/-- VCMP.LTU. -/
def execVcmpLtu (n : CoreId) (o : VCmpOp) (s : State) : Out := vCmpInt (fun _ a b => a < b) n o s

/-- VCMP.LEU. -/
def execVcmpLeu (n : CoreId) (o : VCmpOp) (s : State) : Out := vCmpInt (fun _ a b => a ≤ b) n o s

/-- VCMP.FEQ (R210). -/
def execVcmpFeq (n : CoreId) (o : VCmpOp) (s : State) : Out := vCmpFloat (FVal.numEq) n o s

/-- VCMP.FLT (R210). -/
def execVcmpFlt (n : CoreId) (o : VCmpOp) (s : State) : Out := vCmpFloat (FVal.lt) n o s

/-- VCMP.FLE (R210). -/
def execVcmpFle (n : CoreId) (o : VCmpOp) (s : State) : Out := vCmpFloat (fun a b => a.lt b || a.numEq b) n o s

/-- VCMP.FUNORD (R210). -/
def execVcmpFunord (n : CoreId) (o : VCmpOp) (s : State) : Out := vCmpFloat (fun a b => a.isNan || b.isNan) n o s

/-- PAND on all 64 bits. -/
def execPand (n : CoreId) (pd ps1 ps2 : PReg) (s : State) : Out := predOp (fun a b => a &&& b) n pd ps1 ps2 s

/-- POR on all 64 bits. -/
def execPor (n : CoreId) (pd ps1 ps2 : PReg) (s : State) : Out := predOp (fun a b => a ||| b) n pd ps1 ps2 s

/-- PXOR on all 64 bits. -/
def execPxor (n : CoreId) (pd ps1 ps2 : PReg) (s : State) : Out := predOp (fun a b => a ^^^ b) n pd ps1 ps2 s

/-- PANDN on all 64 bits. -/
def execPandn (n : CoreId) (pd ps1 ps2 : PReg) (s : State) : Out := predOp (fun a b => a &&& ~~~b) n pd ps1 ps2 s

/-- PFROMS: p[VD] ← s[RS]. -/
def execPfroms (n : CoreId) (pd : PReg) (rs : SReg) (s : State) : Out :=
  .next (s.nibCompute n fun k => k.setP pd (k.sreg rs))

/-- PTOS: s[RS] ← p[VS1]. -/
def execPtos (n : CoreId) (rs : SReg) (ps : PReg) (s : State) : Out :=
  .next (s.nibCompute n fun k => k.setS rs (k.preg ps))

end Sys2Proof.Machine
end

