-- ==== Sys2Proof/Machine/NibSys.lean ====
section
/-!
DEFINITION. The system, dispatch, completion, knot, bobbin and stroke instructions of Ductus, but for SVOTE (Tables 5-9 to
5-18, R116 to R119, R162 to R181).
-/
namespace Sys2Proof.Machine

/-! ### Special registers (Table 5-9, R162) -/

/-- A special register as MFS reads it. -/
def State.specRead (s : State) (n : Nat) (k : NibCore) : SpecReg → W64
  | .evec => k.evec.zeroExtend 64
  | .epc => k.epc.zeroExtend 64
  | .ecause => k.ecause.zeroExtend 64
  | .eaddr => k.eaddr.zeroExtend 64
  | .dstat => k.dstat.zeroExtend 64
  | .coreid => s.coreId n
  | .cycle => s.cycle (coreTile n)
  | .hmode => if k.handler then 1 else 0

/-- May MTS write it? -/
def specWritable : SpecReg → Bool
  | .evec => true | .epc => true | .dstat => true
  | _ => false

/-- A special register written: evec and epc take bits [47:0], dstat bits [8:0]. -/
def NibCore.specWrite (k : NibCore) (w : W64) : SpecReg → NibCore
  | .evec => { k with evec := w.truncate 48 }
  | .epc => { k with epc := w.truncate 48 }
  | .dstat => { k with dstat := w.truncate 16 &&& 0x1FF#16 }
  | _ => k

/-- MFS: a special register into rd. -/
def execMfs (n : CoreId) (rd : SReg) (sr : SpecReg) (s : State) : Out :=
  .next (s.nibStep n fun s k => s.nibDone n (k.setS rd (s.specRead n k sr)))

/-- MTS: s[RS1] into a special register; a read-only one is reserved. -/
def execMts (n : CoreId) (rs1 : SReg) (sr : SpecReg) (s : State) : Out :=
  nibGuarded n (specWritable sr) (fun k => k.specWrite (k.sreg rs1) sr) s

/-! ### SYSTEM (Table 5-10) -/

/-- NOP: nothing. -/
def execNop (n : CoreId) (s : State) : Out := .next (s.nibCompute n id)

/-- Every older store of core n drained, then its next step, unless a drained store faulted the context (R110). -/
def State.released (s : State) (n : Nat) (f : State → NibCore → State) : State :=
  let s := s.drainAll n
  if s.canStep n then f s (s.core n) else s

/-- FENCE: completes once every older store has drained (R135). -/
def execFence (n : CoreId) (s : State) : Out :=
  .next (s.nibStep n fun s _ => s.released n fun s k => s.nibDone n k)

/-- IFENCE: drains stores and fetches anew; every fetch of this model reads memory anew (R163). -/
def execIfence (n : CoreId) (s : State) : Out :=
  .next (s.nibStep n fun s _ => s.released n fun s k => s.nibDone n k)

/-- TRAP: the exception, with epc at the TRAP. -/
def execTrap (n : CoreId) (_imm : W32) (s : State) : Out := .next (s.nibStep n fun s _ => s.nibException n 0x08 0)

/-- ERET: leaves handler mode and resumes at epc; outside handler mode it is reserved (R130, R153, R175). -/
def execEret (n : CoreId) (s : State) : Out :=
  .next (s.nibStep n fun s k =>
    if k.handler then s.setCore n { k with handler := false, pc := k.epc, retired := k.retired + 1 } else s.illegal n)

/-- The end of core n's run: its record with OK and RESULT = s1, its knot, and the core free for its next start (R116). -/
def State.endRun (s : State) (n : Nat) : State :=
  let k := s.core n
  let c := s.ctxOf n
  let s := s.setCore n { k with st := .idle, run := none, draws := [], retired := k.retired + 1 }
  match k.run with
  | none => s
  | some r => s.endWork c r.crec r.handle r.knot 0 (coreTile n) (n % 8) 0 r.delayed (k.sreg 1).toNat 0

/-- END: ends the program; in handler mode it is reserved. -/
def execEndProg (n : CoreId) (s : State) : Out :=
  .next (s.nibStep n fun s k => if k.handler then s.illegal n else s.released n fun s _ => s.endRun n)

/-! ### Units and their queues (Table 5-11, R117) -/

/-- A unit a dispatch names: engine, tile (32 is the IO die) and unit. -/
structure Target where
  engine : Nat
  tile : Nat
  unit : Nat
deriving DecidableEq, Repr

/-- Units of an engine on a tile or on the IO die. -/
def unitsOf (engine tile : Nat) : Nat :=
  match engine with
  | 0 => 8 | 1 => if tile = 32 then 64 else 16 | 2 => 1 | 3 => 1 | 4 => 16
  | _ => 0

/-- The target word of a DISPATCH: none when a reserved bit is set or it names no unit. -/
def targetOf (w : W64) : Option Target :=
  let io := bitAt w 5
  let tile := if io then 32 else bits w 4 0
  let t : Target := { engine := bits w 11 8, tile := tile, unit := bits w 21 16 }
  if bits w 63 22 ≠ 0 || bits w 15 12 ≠ 0 || bits w 7 6 ≠ 0 then none
  else if io && (bits w 4 0 ≠ 0 || t.engine ≠ 1) then none
  else if t.unit < unitsOf t.engine tile then some t else none

/-- TILE of a completion record: 0xFF for the IO die (Table 4-5). -/
def Target.recTile (t : Target) : Nat := if t.tile = 32 then 0xFF else t.tile

/-- Is the core neither DISABLED nor FAILED and bound to context c? -/
def State.coreServes (s : State) (c n : Nat) : Bool :=
  s.coreCtx n = some c && (s.core n).st ≠ .disabled && (s.core n).st ≠ .failed

/-- Is a unit in context c's allocation (R112, R194, R270, R301, R337)? -/
def State.ownsUnit (s : State) (c : Nat) (t : Target) : Bool :=
  match t.engine with
  | 0 => s.coreServes c (8 * t.tile + t.unit)
  | 1 => s.flag (.feedCh t.tile t.unit) .OWNED && s.fld (.feedCh t.tile t.unit) .CTX = c
  | 2 => (s.fld (.filetAlloc t.tile) .CTXMASK).testBit c
  | 3 => (s.fld (.folioAlloc t.tile) .CTXMASK).testBit c
  | _ => let r := Reg.tambArray t.tile t.unit
    s.flag r .OWNED && s.fld r .CTX = c && s.fld r .STATE ≤ 2

/-- Has the unit's queue a free entry: 8 posts of a core, 16 works of an engine unit? -/
def State.queueRoom (s : State) (t : Target) : Bool :=
  match t.engine with
  | 0 => (s.core (8 * t.tile + t.unit)).postQ.length < 8
  | 1 => (s.feedCh (64 * t.tile + t.unit)).queue.length < 16
  | 2 => (s.filetOf t.tile).queue.length < 16
  | 3 => (s.folioOf t.tile).queue.length < 16
  | _ => (s.tambOf (16 * t.tile + t.unit)).queue.length < 16

/-- A work at the tail of its unit's queue; for a Nib core, a post that names a record by address. -/
def State.enqueue (s : State) (t : Target) (w : Work) : State :=
  match t.engine with
  | 0 =>
    let n := 8 * t.tile + t.unit
    let p : Post := { arg := .desc w.desc, handle := w.handle, crec := w.crec, knot := w.knot, held := w.held, delayed := w.delayed }
    s.setCore n { s.core n with postQ := (s.core n).postQ ++ [p] }
  | 1 => let i := 64 * t.tile + t.unit; s.setFeedCh i { s.feedCh i with queue := (s.feedCh i).queue ++ [w] }
  | 2 => s.setFilet t.tile { s.filetOf t.tile with queue := (s.filetOf t.tile).queue ++ [w] }
  | 3 => s.setFolio t.tile { s.folioOf t.tile with queue := (s.folioOf t.tile).queue ++ [w] }
  | _ => let i := 16 * t.tile + t.unit; s.setTamb i { s.tambOf i with queue := (s.tambOf i).queue ++ [w] }

/-- What a dispatch meets, in the order of Table 4-4. -/
inductive DispatchRes
  | notOwned | queueFull | slotBusy | go (t : Target)
deriving DecidableEq, Repr

/-- A dispatch of context c judged (R117, R164). -/
def State.judge (s : State) (c : Nat) (target : W64) (crec : Bool) (knot : Option Nat) : DispatchRes :=
  match targetOf target with
  | none => .notOwned
  | some t =>
    let knotOk := match knot with
      | some k => s.knotOwned c k
      | none => true
    if !s.ownsUnit c t || !knotOk then .notOwned
    else if !s.queueRoom t then .queueFull
    else if crec && !s.nextSlotFree c then .slotBusy
    else .go t

/-- An accepted dispatch: its pending record, and the work in its unit's queue, held during the guard (R39). -/
def State.accept (s : State) (c : Nat) (t : Target) (desc : W64) (crec : Bool) (knot : Option Nat) : State × W64 :=
  let r := if crec then s.allocRecord c t.engine t.recTile t.unit else (s, BitVec.allOnes 64)
  let held := r.1.inGuard
  (r.1.enqueue t
    { ctx := c, desc := desc, handle := r.2, crec := crec, knot := knot, held := held, delayed := held, image := false }, r.2)

/-- A dispatch accepted on core n, whose rd takes the handle: nothing more once a record write faulted the context. -/
def State.acceptOn (s : State) (n : Nat) (rd : SReg) (t : Target) (desc : W64) (crec : Bool) (knot : Option Nat) : State :=
  let r := s.accept (s.ctxOf n) t desc crec knot
  if r.1.canStep n then r.1.nibDone n ((r.1.core n).setS rd r.2) else r.1

/-- A refusal: rd receives 0 and dstat the code of Table 4-4. -/
def State.refuseDispatch (s : State) (n : Nat) (k : NibCore) (rd : SReg) (code : BitVec 16) : State :=
  s.nibDone n { k.setS rd 0 with dstat := code }

/-- DISPATCH (R164). KNOT must be zero without KEN. A dispatch that needs a record waits while the ring initialises (R137). -/
def execDispatch (n : CoreId) (rd rs1 rs2 : SReg) (crec wait ken : Bool) (knot : BitVec 12) (s : State) : Out :=
  .next (s.nibStep n fun s k0 =>
    if !ken && knot ≠ 0 then s.illegal n else
    s.released n fun s k =>
      let kn := if ken then some knot.toNat else none
      let target := k0.sreg rs1
      let desc := k0.sreg rs2
      match s.judge (s.ctxOf n) target crec kn with
      | .notOwned => s.refuseDispatch n k rd 0x010#16
      | .go t => s.acceptOn n rd t desc crec kn
      | .queueFull => if wait then s.nibWait n (.dispatch rd target desc crec wait kn) else s.refuseDispatch n k rd 0x014#16
      | .slotBusy =>
        if wait || s.flag (.ctxwCmplStat (s.ctxOf n)) .INIT then s.nibWait n (.dispatch rd target desc crec wait kn)
        else s.refuseDispatch n k rd 0x114#16)

/-! ### COMPL (Tables 5-12 and 5-13, R123, R166, R167) -/

/-- The record of a handle as the completion instructions return it: the slot's, or the synthesised STALE record. -/
def State.recordOf (s : State) (c : Nat) (h : W64) : List Byte :=
  let rec0 := s.bytesAt (s.slotPa c h.toNat) 32
  if h = 0 || h = BitVec.allOnes 64 || ofBytes (rec0.take 8) ≠ h.toNat then
    toBytes 8 h.toNat ++ [2#8, 1#8] ++ List.replicate 22 0#8
  else rec0

/-- READY of a record. -/
def recReady (r : List Byte) : Bool := (r.getD 9 0).getLsbD 0

/-- Quadword i of a record, as CREAD and CWAIT give it: 1 the status quadword, 3 STROKE_LO below DETAIL. -/
def recQuad (r : List Byte) (i : Nat) : W64 := BitVec.ofNat 64 (ofBytes ((r.drop (8 * i)).take 8))

/-- The Well word of a slot in error, if any: a read of the ring that cannot be made (R84, R132). -/
def State.slotBad (s : State) (c : Nat) (h : W64) : Option Nat :=
  (wordsOf (s.slotPa c h.toNat) 32).find? fun w => s.badWord w

/-- A completion instruction's body, unless the slot reads uncorrectable: the bank fails (R84), and `bad` is what the instruction then
does. -/
def State.withSlot (s : State) (n : Nat) (h : W64) (bad f : State → State) : State :=
  if h = 0 || h = BitVec.allOnes 64 then f s else
  match s.slotBad (s.ctxOf n) h with
  | some w => bad (s.wellUe (some (s.ctxOf n)) (w * 8))
  | none => f s

/-- A completion read of a slot in error: the read completes with UNCORR_MEM (R84), which core n takes as any load does. -/
def State.slotUncorr (s : State) (n : Nat) (h : W64) : State := s.nibException n 0x07 (s.slotVa (s.ctxOf n) h.toNat % 2 ^ 48)

/-- CREAD: a quadword of the record; it never waits. -/
def execCread (n : CoreId) (rd rs1 : SReg) (sel : BitVec 2) (s : State) : Out :=
  .next (s.nibStep n fun s k => s.withSlot n (k.sreg rs1) (fun s => s.slotUncorr n (k.sreg rs1)) fun s =>
    s.nibDone n (k.setS rd (recQuad (s.recordOf (s.ctxOf n) (k.sreg rs1)) sel.toNat)))

/-- CWAIT: waits until the record is complete or free; rd takes the status quadword. -/
def execCwait (n : CoreId) (rd rs1 : SReg) (s : State) : Out :=
  .next (s.nibStep n fun s k => s.withSlot n (k.sreg rs1) (fun s => s.slotUncorr n (k.sreg rs1)) fun s =>
    let r := s.recordOf (s.ctxOf n) (k.sreg rs1)
    if recReady r then s.nibDone n (k.setS rd (recQuad r 1)) else s.nibWait n (.cwait rd (k.sreg rs1)))

/-- CRETIRE: the retiring write of a handle (R124, R167). On a slot in error it is a record that cannot be written, and no exception
(R132; notes/assumptions/88). -/
def execCretire (n : CoreId) (rd rs1 : SReg) (s : State) : Out :=
  .next (s.nibStep n fun s k => s.withSlot n (k.sreg rs1) (fun s => s.faultNoUnit (s.ctxOf n) 0x05 0) fun s =>
    let c := s.ctxOf n
    let h := k.sreg rs1
    let pa := s.slotPa c h.toNat
    let r := s.bytesAt pa 32
    if h = 0 || h = BitVec.allOnes 64 || ofBytes (r.take 8) ≠ h.toNat then s.nibDone n (k.setS rd 2)
    else match slotState r with
      | .complete => (s.freeSlot c pa).nibDone n (k.setS rd 0)
      | .pending => s.nibDone n (k.setS rd 1)
      | .free => s.nibDone n (k.setS rd 2))

/-! ### KNOT (Table 5-14, R168, R169) -/

/-- The knot index of a KNOT instruction, and its operand V. -/
def NibCore.knotIndex (k : NibCore) (rs1 : SReg) (oimm : BitVec 13) : Nat := ((k.sreg rs1).toNat % 4096 + oimm.toNat) % 4096
def NibCore.knotV (k : NibCore) (rs2 : SReg) (imm20 : BitVec 20) : Nat := ((k.sreg rs2).toNat + imm20.toNat) % 2 ^ 32

/-- A KNOT instruction on a knot the context owns; another is reserved (R153, R240). -/
def State.onKnot (s : State) (n : Nat) (rs1 : SReg) (oimm : BitVec 13) (f : State → NibCore → Nat → State) : State :=
  s.nibStep n fun s k =>
    let i := k.knotIndex rs1 oimm
    if s.knotOwned (s.ctxOf n) i then f s k i else s.illegal n

/-- KARRIVE: an arrival of V, as a release. -/
def execKarrive (n : CoreId) (rs1 rs2 : SReg) (oimm : BitVec 13) (imm20 : BitVec 20) (s : State) : Out :=
  .next (s.onKnot n rs1 oimm fun s k0 i => s.released n fun s k =>
    (s.arrive (s.ctxOf n) i (k0.knotV rs2 imm20)).nibDone n k)

/-- KSET: the count set to V, as a release. -/
def execKset (n : CoreId) (rs1 rs2 : SReg) (oimm : BitVec 13) (imm20 : BitVec 20) (s : State) : Out :=
  .next (s.onKnot n rs1 oimm fun s k0 i => s.released n fun s k =>
    (s.knotCycle i [] [k0.knotV rs2 imm20] []).nibDone n k)

/-- KTHR: the threshold set to V. -/
def execKthr (n : CoreId) (rs1 rs2 : SReg) (oimm : BitVec 13) (imm20 : BitVec 20) (s : State) : Out :=
  .next (s.onKnot n rs1 oimm fun s k i => (s.knotCycle i [k.knotV rs2 imm20] [] []).nibDone n k)

/-- What KWAIT returns: TIMEOUT in [32], the count below. -/
def kwaitResult (timeout : Bool) (count : Nat) : W64 := BitVec.ofNat 64 ((if timeout then 2 ^ 32 else 0) + count)

/-- The limit of a KWAIT (R169): none for 0, at most 2³² cycles. -/
def kwaitLimit (w : W64) : Option Nat := if w = 0 then none else some (min w.toNat (2 ^ 32))

/-- KWAIT: returns at once when count ≥ V, tests once with NW = 1 (RS3 must then be s0), waits otherwise. -/
def execKwait (n : CoreId) (rd rs1 rs2 rs3 : SReg) (nw : Bool) (oimm : BitVec 13) (imm20 : BitVec 20) (s : State) : Out :=
  .next (s.onKnot n rs1 oimm fun s k i =>
    if nw && rs3 ≠ 0 then s.illegal n else
    let v := k.knotV rs2 imm20
    if v ≤ s.knotCount i then s.nibDone n (k.setS rd (kwaitResult false (s.knotCount i)))
    else if nw then s.nibDone n (k.setS rd (kwaitResult true (s.knotCount i)))
    else s.nibWait n (.kwait rd i v (kwaitLimit (k.sreg rs3))))

/-- KREAD: the count. -/
def execKread (n : CoreId) (rd rs1 : SReg) (oimm : BitVec 13) (s : State) : Out :=
  .next (s.onKnot n rs1 oimm fun s k i => s.nibDone n (k.setS rd (BitVec.ofNat 64 (s.knotCount i))))

/-! ### BOBBIN (Tables 5-15 and 5-16, R170, R171, R248) -/

/-- A bobbin name word: port when REMOTE, and the index with OIMM13; none when a reserved bit is set. -/
def nameOf (w : W64) (oimm : BitVec 13) : Option (Option Nat × Nat) :=
  if bits w 63 24 ≠ 0 || bits w 19 17 ≠ 0 || bits w 15 13 ≠ 0 then none
  else some (if bitAt w 16 then some (bits w 23 20) else none, (bits w 12 0 + oimm.toNat) % 8192)

/-- Does a remote send find the port DOWN, FENCED, in QUARANTINE or ABSENT (R170, Table 12-5)? -/
def State.portRefuses (s : State) (p : Nat) : Bool :=
  [1, 3, 5, 6].contains (s.fld (.portState p) .STATE)

/-- Has the context an armed image with STATUS OK that holds a bobbin send slot on the port (R248)? -/
def State.bobbinSlotOn (s : State) (c p : Nat) : Bool :=
  let i := s.image c
  i.active && s.fld (.strokeImgStat c) .STATUS = 0 &&
    i.slots.any fun e => e.port = p && e.mode = 0 && e.kind = 1

/-- What a send finds: an answer with its status, or no room. -/
inductive SendOutcome
  | done (s : State) (status : Nat)
  | noRoom
deriving DecidableEq, Repr

/-- One try to send a message of context c (R170, R246, R248, R254, R599). -/
def State.trySend (s : State) (c : Nat) (port : Option Nat) (index : Nat) (data : List Byte) : SendOutcome :=
  match port with
  | some p =>
    if s.portRefuses p then .done s 0x17
    else if !s.bobbinSlotOn c p then .done s 0x10
    else if 64 ≤ (s.outQueue p c).length then .noRoom
    else .done (s.setOutQueue p c (s.outQueue p c ++ [{ index := index, data := data }])) 0
  | none =>
    if !s.bobOwned c index then .done s 0x10 else
    match s.bobPlace index data with
    | (s, .ok) => .done s 0
    | (s, .badSize) => .done s 0x10
    | (_, .full) => .noRoom

/-- A message that core n has read, sent: its status in rd, or BUSY with NW = 1, or the wait. -/
def State.sendMessage (s : State) (n : Nat) (rd : SReg) (port : Option Nat) (index : Nat) (data : List Byte) (nw : Bool) :
    State :=
  match s.trySend (s.ctxOf n) port index data with
  | .done s st => s.nibDone n ((s.core n).setS rd (BitVec.ofNat 64 st))
  | .noRoom =>
    if nw then s.nibDone n ((s.core n).setS rd 0x14)
    else s.nibWait n (.bsend rd index port data)

/-- Bytes of a message: L = (IMM20[3:0] + 1) × 16. -/
def msgLen (lm1 : BitVec 4) : Nat := 16 * (lm1.toNat + 1)

/-- BSEND: a release; reads the message at s[RS2], 16-byte aligned, and sends it. A local bobbin the context does not own
is reserved. -/
def execBsend (n : CoreId) (rd rs1 rs2 : SReg) (nw : Bool) (oimm : BitVec 13) (lm1 : BitVec 4) (s : State) : Out :=
  .next (s.nibStep n fun s k0 =>
    match nameOf (k0.sreg rs1) oimm with
    | none => s.illegal n
    | some (port, index) =>
      if port.isNone && !s.bobOwned (s.ctxOf n) index then s.illegal n else
      let va := (k0.sreg rs2).toNat
      if va % 16 ≠ 0 then s.nibException n 0x03 (va % 2 ^ 48) else
      s.released n fun s _ =>
        match s.loadBytes n (addrsFrom va (msgLen lm1)) with
        | (s, .exc cause ea) => s.nibException n cause (ea % 2 ^ 48)
        | (s, .bytes got []) =>
          s.sendMessage n rd port index ((addrsFrom va (msgLen lm1)).map fun a => smGet (fun _ => 0) got a) nw
        | (s, .bytes got host) => s.hostLoad n (.message rd index port nw) va (msgLen lm1) got host)

/-- The addresses of a receive buffer as a store of no particular bytes, to check that its pages translate for writing. -/
def bufferCells (va len : Nat) : List Host.Cell := cellsFrom va (List.replicate len 0)

/-- What BRECV puts in rd: the length in [63:32], the status in [7:0]. -/
def recvResult (len status : Nat) : W64 := BitVec.ofNat 64 (len * 2 ^ 32 + status)

/-- The head of bobbin b received by core n into `len` bytes at va, its queue not empty (R171): the buffer's pages first,
then the length, then the message removed and written after the core's older stores. -/
def State.receive (s : State) (n : Nat) (rd : SReg) (b len va : Nat) : State :=
  match s.storeSegs n (bufferCells va len) with
  | (s, .error (cause, ea)) => s.nibException n cause (ea % 2 ^ 48)
  | (s, .ok _) =>
    let msg := (s.bobbin b).queue.headD []
    if len < msg.length then s.nibDone n ((s.core n).setS rd (recvResult msg.length 0x10)) else
    s.released n fun s _ =>
      match s.storeSegs n (cellsFrom va msg) with
      | (s, .error (cause, ea)) => s.nibException n cause (ea % 2 ^ 48)
      | (s, .ok segs) =>
        let r := (s.bobPop b).performStore (s.ctxOf n) segs
        let s := r.1.storeFaults n r.2
        if s.canStep n then s.nibDone n ((s.core n).setS rd (recvResult msg.length 0)) else s

/-- BRECV: the head message of a local bobbin into a 16-byte aligned buffer; PENDING or the wait when the queue is empty. -/
def execBrecv (n : CoreId) (rd rs1 rs2 : SReg) (nw : Bool) (oimm : BitVec 13) (lm1 : BitVec 4) (s : State) : Out :=
  .next (s.nibStep n fun s k =>
    match nameOf (k.sreg rs1) oimm with
    | none => s.illegal n
    | some (some _, _) => s.illegal n
    | some (none, b) =>
      if !s.bobOwned (s.ctxOf n) b then s.illegal n else
      let va := (k.sreg rs2).toNat
      if va % 16 ≠ 0 then s.nibException n 0x03 (va % 2 ^ 48)
      else if (s.bobbin b).queue ≠ [] then s.receive n rd b (msgLen lm1) va
      else if nw then s.nibDone n (k.setS rd (recvResult 0 1))
      else s.nibWait n (.brecv rd b (msgLen lm1) va))

/-- BCOUNT: the messages queued in a local bobbin. -/
def execBcount (n : CoreId) (rd rs1 : SReg) (oimm : BitVec 13) (s : State) : Out :=
  .next (s.nibStep n fun s k =>
    match nameOf (k.sreg rs1) oimm with
    | none => s.illegal n
    | some (some _, _) => s.illegal n
    | some (none, b) =>
      if s.bobOwned (s.ctxOf n) b then s.nibDone n (k.setS rd (BitVec.ofNat 64 (s.bobbin b).queue.length)) else s.illegal n)

/-! ### STROKE (Table 5-17) -/

/-- SCOUNT: STROKE.COUNT. -/
def execScount (n : CoreId) (rd : SReg) (s : State) : Out :=
  .next (s.nibStep n fun s k => s.nibDone n (k.setS rd (BitVec.ofNat 64 s.count)))

/-- SPHASE: STROKE.PHASE. -/
def execSphase (n : CoreId) (rd : SReg) (s : State) : Out :=
  .next (s.nibStep n fun s k => s.nibDone n (k.setS rd (BitVec.ofNat 64 s.phase)))

/-- STROKE.IMG_STAT[c].STEP, or all ones when the image is not armed with STATUS OK. -/
def State.stepOf (s : State) (c : Nat) : W64 :=
  if (s.image c).active && s.fld (.strokeImgStat c) .STATUS = 0 then BitVec.ofNat 64 (s.fld (.strokeImgStat c) .STEP)
  else BitVec.allOnes 64

/-- SSTEP: the step of the core's context. -/
def execSstep (n : CoreId) (rd : SReg) (s : State) : Out :=
  .next (s.nibStep n fun s k => s.nibDone n (k.setS rd (s.stepOf (s.ctxOf n))))

/-! ### Wakes (Table 5-18, R147, R166, R169, R171, R177, R178) -/

/-- A waiting core goes on with `f` of its registers. -/
def State.wakeWith (s : State) (n : Nat) (f : NibCore → NibCore) : State :=
  let s := s.nibWake n
  s.nibDone n (f (s.core n))

/-- CWAIT_WAKE: a stalled CWAIT whose record is complete or free, or reads uncorrectable. -/
def execCwaitWake (n : CoreId) (s : State) : Out :=
  .next (match (s.core n).wait with
    | .cwait rd h =>
      s.withSlot n h (fun s => (s.nibWake n).slotUncorr n h) fun s =>
      let r := s.recordOf (s.ctxOf n) h
      if recReady r then s.wakeWith n fun k => k.setS rd (recQuad r 1) else s
    | _ => s)

/-- KWAIT_WAKE: a stalled KWAIT whose count has reached V. -/
def execKwaitWake (n : CoreId) (s : State) : Out :=
  .next (match (s.core n).wait with
    | .kwait rd i v _ =>
      if v ≤ s.knotCount i then s.wakeWith n fun k => k.setS rd (kwaitResult false (s.knotCount i)) else s
    | _ => s)

/-- KWAIT_TIMEOUT: the limit expires; TIMEOUT is 0 when the count reached V in the same cycle. -/
def execKwaitTimeout (n : CoreId) (s : State) : Out :=
  .next (match (s.core n).wait with
    | .kwait rd i v (some _) =>
      s.wakeWith n fun k => k.setS rd (kwaitResult (decide (s.knotCount i < v)) (s.knotCount i))
    | _ => s)

/-- BSEND_STALL_ACCEPT: a stalled BSEND, first of those on its queue, is accepted once there is room, or answers what its
port or bobbin now says. -/
def execBsendStallAccept (n : CoreId) (s : State) : Out :=
  .next (match (s.core n).wait with
    | .bsend rd index port data =>
      let first := match port with
        | some p => (s.waitingCores.find? (s.waitsPort p (s.ctxOf n))) = some n.val
        | none => (s.waitingCores.find? (s.waitsSend index)) = some n.val
      if !first then s else
      match s.trySend (s.ctxOf n) port index data with
      | .done s st => s.wakeWith n fun k => k.setS rd (BitVec.ofNat 64 st)
      | .noRoom => s
    | _ => s)

/-- BRECV_WAKE: of the stalled BRECVs on a bobbin, the lowest tile and core takes the head; on a bobbin that its context no longer
owns it returns ILLEGAL_DESC with length 0 (R171, R599). -/
def execBrecvWake (n : CoreId) (s : State) : Out :=
  .next (match (s.core n).wait with
    | .brecv rd b len va =>
      if !s.bobOwned (s.ctxOf n) b then s.wakeWith n fun k => k.setS rd (recvResult 0 0x10)
      else if (s.bobbin b).queue = [] || (s.waitingCores.any fun m => s.waitsRecv b m && m < n.val) then s
      else (s.nibWake n).receive n rd b len va
    | _ => s)

end Sys2Proof.Machine
end

