-- ==== Sys2Proof/Machine/NibEvents.lean ====
section
/-!
DEFINITION. What happens to Nib cores and completion rings beside instructions: binding, starts, drains, failures, and the
lock and initialisation of a ring (R99, R112, R115, R124, R133, R137, R138, R165, R177, R600).
-/
namespace Sys2Proof.Machine

/-- STORE_DRAIN: the oldest buffered store of a core drains. -/
def execStoreDrain (n : CoreId) (s : State) : Out := .next (s.drainOne n)

/-! ### Binding (R112) -/

/-- NIB_BIND: a write of NIB.CORE; one that changes BOUND or CTX is refused unless R112 holds. A bound core is IDLE, an
unbound one OFF. -/
def State.nibBind (s : State) (n : Nat) (bound : Bool) (ctx : Nat) : State :=
  let k := s.core n
  let r := coreReg n
  if s.flag r .BOUND = bound && s.fld r .CTX = ctx then s
  else if (k.st = .off || k.st = .idle) && k.wait = .none && k.imageQ = [] && k.postQ = [] && (!bound || s.flag (.ctxwCmpl ctx) .LOCK) then
    ((s.setFlag r .BOUND bound).setFld r .CTX ctx).setCore n { k with st := if bound then .idle else .off }
  else s.setFlag (.nibStatus (coreTile n)) .BIND_REFUSED true

def execNibBind (n : CoreId) (bound : Bool) (ctx : Ctx) (s : State) : Out := .next (s.nibBind n bound ctx)

/-! ### Starts (R115, R119, R165) -/

/-- A core as a start sets it: every register 0 but pc and s1 to s3; buffered stores, the queues and the counters stay. R115 does not
list epc, ecause and eaddr: they are 0 too (notes/assumptions/63). -/
def NibCore.begin (k : NibCore) (entry arg0 arg1 : W64) (run : Run) : NibCore :=
  let k0 : NibCore :=
    { k with st := .running, handler := false, s := [], v := [], p := [], pc := entry.truncate 48, evec := 0, epc := 0,
             ecause := 0, eaddr := 0, dstat := 0, wait := .none, run := some run, started := k.started + 1, draws := [],
             fetched := none }
  ((k0.setS 1 arg0).setS 2 arg1).setS 3 (if run.crec then run.handle else 0)

/-- A run begun on core n; an entry with bits above the 48 of pc fails R86 at its first fetch (R127, Table 4-8). -/
def State.beginRun (s : State) (n : Nat) (entry arg0 arg1 : W64) (run : Run) : State :=
  let s := s.setCore n ((s.core n).begin entry arg0 arg1 run)
  if entry.toNat < 2 ^ 48 || entry.toNat % 8 ≠ 0 then s
  else (s.translate (s.ctxOf n) 0 (coreTile n) entry.toNat false true).1.nibStop n 0x04 (entry.truncate 48) false

/-- A post that does not start ends at once with a status (R127, R165). -/
def State.endPost (s : State) (n : Nat) (p : Post) (status : Nat) : State :=
  s.endWork (s.ctxOf n) p.crec p.handle p.knot 0 (coreTile n) (n % 8) status p.delayed 0 0

/-- What the start of a run finds at its post record (R127, R165): its bytes, a HOST page, or the status of one that cannot be
read. -/
inductive PostRes
  | bytes (b : List Byte)
  | host (bus : Nat)
  | fails (status : Nat)
deriving DecidableEq, Repr

/-- The post record at va. -/
def State.readPost (s : State) (n : Nat) (va : W64) : State × PostRes :=
  let c := s.ctxOf n
  if va.toNat % 32 ≠ 0 then (s, .fails 0x10) else
  match s.translate c 0 (coreTile n) va.toNat false false with
  | (s, .ok pa _ _) =>
    match s.homeRead (some c) pa 32 with
    | (s, some b) => (s, .bytes b)
    | (s, none) => (s, .fails 0x12)
  | (s, .host bus) => (s, .host bus)
  | (s, .fail _) => (s, .fails 0x11)
  | (s, .uncorr _) => (s, .fails 0x12)

/-- The run that a post begins. -/
def State.postRun (s : State) (p : Post) : Run :=
  { handle := p.handle, crec := p.crec, knot := p.knot, delayed := p.delayed, image := false, stroke := s.count }

/-- A post begun with the bytes of its record: ENTRY, ARG0 and ARG1. -/
def State.beginPost (s : State) (n : Nat) (p : Post) (b : List Byte) : State :=
  if (s.core n).st ≠ .idle then s else
  let q := fun o => BitVec.ofNat 64 (ofBytes ((b.drop o).take 8))
  s.beginRun n (q 0) (q 8) (q 16) (s.postRun p)

/-- A post taken by an idle core; a record on a HOST page is read over PCIe first (R89). -/
def State.startPost (s : State) (n : Nat) (p : Post) : State :=
  match p.arg with
  | .args e a b => s.beginRun n e a b (s.postRun p)
  | .desc va =>
    match s.readPost n va with
    | (s, .bytes b) => s.beginPost n p b
    | (s, .fails st) => s.endPost n p st
    | (s, .host bus) =>
      match s.issueRead (s.ctxOf n) (.nib n) va.toNat bus 32 with
      | (s, true) => s.setCore n { s.core n with wait := .postRead p }
      | (s, false) => s.endPost n p 0x11

/-- NIB_RUN_START: an idle core of a live context takes the head of its image queue, else a post that is not held. -/
def execNibRunStart (n : CoreId) (s : State) : Out :=
  let k := s.core n
  .next <|
    if k.st ≠ .idle || k.wait ≠ .none || !s.ctxLive (s.ctxOf n) then s else
    match k.imageQ with
    | i :: is =>
      (s.setCore n { k with imageQ := is }).beginRun n i.entry i.arg 0
        { handle := 0, crec := false, knot := none, delayed := false, image := true, stroke := s.count }
    | [] =>
      match k.postQ with
      | p :: ps => if p.held then s else (s.setCore n { k with postQ := ps }).startPost n p
      | [] => s

/-! ### Failure (R133) -/

def nibCheckCode : NibCheck → Nat
  | .registerParity => 1 | .storeParity => 2 | .productResidue => 3

/-- The logical core that a physical one of a tile stands for, if mapped and serving. -/
def State.logicalCore (s : State) (t phys : Nat) : Option Nat :=
  (List.range 8).find? fun n => s.physOf 2 t n = phys && (s.core (8 * t + n)).st ≠ .disabled

/-- A failure logged in NIB.FAIL_LOG of its tile: the first is kept. -/
def State.logNibFailure (s : State) (t phys check : Nat) (c : Option Nat) : State :=
  let r := Reg.nibFailLog t
  let s := s.setFlag (.nibStatus t) .FAILED true
  if s.flag r .VALID then s.setFlag r .OVERFLOW true
  else s.setFlds r [(.VALID, 1), (.BOUND, if c.isSome then 1 else 0), (.CTX, c.getD 0), (.PHYS, phys), (.CHECK, check),
    (.STROKE_LO, s.countLo)]

/-- Core n FAILED and unbound: its stores, its queues and its waits are gone. -/
def State.failCore (s : State) (n : Nat) : State :=
  { (s.setCore n { (s.core n).halt .failed with imageQ := [], postQ := [], run := none }).setFlag (coreReg n) .BOUND false with
    waiting := s.waiting.filter (· ≠ Agent.nib n)
    hostReads := s.hostReads.filter fun r => r.reader ≠ HostReader.nib n }

/-- NIB_CORE_FAILURE: a physical core is listed and logged; the logical core that stands on it is FAILED and unbound, and its context
faults. One that failed before has nothing left to fail. -/
def execNibCoreFailure (t : TileId) (phys : Fin 9) (check : NibCheck) (s : State) : Out :=
  let core := (s.logicalCore t phys).map fun n => 8 * t.val + n
  let failed : Bool := match core with
    | some n => (s.core n).st = .failed
    | none => s.perm.defects.any fun d => defectKey d = defectKey (defectEntry 2 0 false 0 t phys)
  .next <|
    if failed then s else
    let c := core.bind s.coreCtx
    let s := (s.list 2 0 false t phys).logNibFailure t phys (nibCheckCode check) c
    let s := (match core with
      | some n => s.failCore n
      | none => s).pfEvent 10
    match core, c with
    | some n, some c => s.contextFault c 0x04 0 t (n % 8) 5
    | _, _ => s

/-! ### Completion rings (R124, R137, R138) -/

/-- RETIRING_WRITE: a write that reaches the frames of a locked ring. -/
def execRetiringWrite (pa : BitVec 40) (data : List Byte) (s : State) : Out :=
  .next (match s.ringAt pa.toNat with
    | some (c, o) => s.ringWrite c o pa.toNat data
    | none => s)

/-- SLOTS_LOG2 and BASE written, under their codes. -/
def State.writeRing (s : State) (c slotsLog2 base : Nat) : State :=
  (s.setFld (.ctxwCmpl c) .SLOTS_LOG2 slotsLog2).setFld (.ctxwCmpl c) .BASE base

/-- The frames of a ring: one base per 64 KiB or part of it, none when R137 fails. -/
def State.ringMap (s : State) (c : Nat) : Option (List Nat) :=
  let g := s.fld (.ctxwCmpl c) .SLOTS_LOG2
  let va := s.fld (.ctxwCmpl c) .BASE * 0x800
  if g < 6 || 14 < g || va % s.ringBytes c ≠ 0 then none else
  let ch := s.ringChunk c
  (List.range (s.ringBytes c / ch)).foldl (fun acc i => acc.bind fun fs =>
    match s.walk c (va + i * ch) true false with
    | .ok pa _ _ => if isWell pa then some (fs ++ [pa]) else none
    | _ => none) (some [])

/-- A refused write of LOCK sets CFG_ERR and raises its vector (R137, R138, Table 13-6). -/
def State.ringRefused (s : State) (c : Nat) : State := (s.setFlag (.ctxwCmplStat c) .CFG_ERR true).vfEvent c 11

/-- A write of CTXW.CMPL with LOCK = 1: an unlocked ring is locked if R137 holds; on a locked one a change of the locked
fields is a violation (R9). -/
def State.ringLock (s : State) (c slotsLog2 base : Nat) : State :=
  let r := Reg.ctxwCmpl c
  if s.flag r .LOCK then
    if s.fld r .SLOTS_LOG2 = slotsLog2 && s.fld r .BASE = base then s else s.setFlag (.ctxwCmplStat c) .WO_VIOLATION true
  else
    let s := s.writeRing c slotsLog2 base
    match s.ringMap c with
    | none => s.ringRefused c
    | some fs =>
      ((s.setContext c { s.context c with ringFrames := fs }).setFlag r .LOCK true).setFlag (.ctxwCmplStat c) .INIT true

def execRingLock (c : Ctx) (slotsLog2 : BitVec 4) (base : BitVec 37) (s : State) : Out :=
  .next (s.ringLock c slotsLog2.toNat base.toNat)

/-- Is a Nib core or a hart bound to context c? -/
def State.hasBound (s : State) (c : Nat) : Bool :=
  ((List.range 256).any fun n => s.coreCtx n = some c) || (List.range 64).any fun h => s.hartCtx h = some c

/-- A write of CTXW.CMPL with LOCK = 0 (R138). -/
def State.ringUnlock (s : State) (c slotsLog2 base : Nat) : State :=
  let r := Reg.ctxwCmpl c
  if s.flag r .LOCK && (s.hasBound c || s.fld (.ctxwCmplStat c) .PENDING ≠ 0) then
    let s := s.ringRefused c
    if s.fld r .SLOTS_LOG2 = slotsLog2 && s.fld r .BASE = base then s else s.setFlag (.ctxwCmplStat c) .WO_VIOLATION true
  else (s.setFlag r .LOCK false).writeRing c slotsLog2 base

def execRingUnlock (c : Ctx) (slotsLog2 : BitVec 4) (base : BitVec 37) (s : State) : Out :=
  .next (s.ringUnlock c slotsLog2.toNat base.toNat)

/-- A slot as initialisation leaves it: free, SEQ = 0, the other fields unchanged (R121). -/
def State.initSlot (s : State) (pa : Nat) : State :=
  s.putCells (cellsFrom pa (toBytes 8 0 ++ [2#8, s.byteAt (pa + 9) ||| 1#8]))

/-- RING_INIT_DONE: every slot free with SEQ = 0, and INIT clears. -/
def execRingInitDone (c : Ctx) (s : State) : Out :=
  .next <|
    if !s.flag (.ctxwCmplStat c) .INIT then s else
    let n := if s.flag (.ctxwCmpl c) .LOCK then s.ringSlots c else 0
    let s := (List.range n).foldl (fun s i => s.initSlot (s.slotPa c i)) s
    s.setFlag (.ctxwCmplStat c) .INIT false

/-! ### Knots (R177, R600) -/

/-- The values of operations whose context owns knot k. -/
def State.ownedOps (s : State) (k : Nat) (l : List (Nat × W32)) : List Nat :=
  (l.filter fun x => s.knotOwned x.1 k).map fun x => x.2.toNat

/-- KTHRs or KSETs of one cycle for the contexts of their cores, in the order they apply: that of the lowest tile and core last
(R177, R256). -/
def State.coreOps (s : State) (l : List (CoreId × W32)) : List (Nat × W32) :=
  (l.insertionSort fun a b => b.1 ≤ a.1).filterMap fun x => (s.coreCtx x.1).map fun c => (c, x.2)

/-- KNOT_ARRIVAL: the operations of one cycle on a knot: the KTHRs and KSETs of cores, and the arrivals made for contexts. One made
for a context that does not own the knot is not applied and faults that context. -/
def execKnotArrival (k : Fin 4096) (thrs sets : List (CoreId × W32)) (adds : List (Ctx × W32)) (s : State) : Out :=
  let ts := s.coreOps thrs
  let ss := s.coreOps sets
  let as := adds.map fun x => (x.1.val, x.2)
  let lost := (ts ++ ss ++ as).filter fun x => !s.knotOwned x.1 k
  let s := s.knotCycle k (s.ownedOps k ts) (s.ownedOps k ss) (s.ownedOps k as)
  .next (s.faultEach (lost.map Prod.fst) 0x05 0xFF 0xFF 0xFFFF 1)

end Sys2Proof.Machine
end

