-- ==== Sys2Proof/Machine/BobEvents.lean ====
section
/-!
DEFINITION. Bobbins and knots beside the instructions: arrivals, messages from a neighbour, and the writes of their
configuration and of a tile's pool (R241 to R244, R247, R250, R255, R260, R263).
-/
namespace Sys2Proof.Machine

/-- A length a message can have: 16 to 256 bytes in units of 16. -/
def messageLen (n : Nat) : Bool := 16 ≤ n && n ≤ 256 && n % 16 = 0

/-- A message of a local sender for context c at a bobbin's home; one that cannot be placed leaves nothing there (R599). -/
def State.localMessage (s : State) (c b : Nat) (data : List Byte) : State :=
  if !s.bobOwned c b then s else
  match s.bobPlace b data with
  | (t, .ok) => t
  | _ => s

/-- A message from a neighbour for receiving context c (R250): placed, or discarded, counted, and the context faulted;
during the context's reset only counted (R263). -/
def State.remoteMessage (s : State) (c b : Nat) (data : List Byte) : State :=
  let drop := s.addFld (.tbobDrops (b / 256)) .COUNT 1
  if s.resetting c then drop else
  let refused := (drop.setFlag (.tbobStatus (b / 256)) .REMOTE_DROP true).faultNoUnit c 0x0D b
  if s.bobOwned c b && s.flag (bobCfg b) .REMOTE_IN then
    match s.bobPlace b data with
    | (t, .ok) => t
    | _ => refused
  else refused

/-- Place of a sender among those of one cycle: local ones by tile and core, then the ports (R247). -/
def sourceRank : BobSource → Nat
  | .core n => n.val
  | .port p => 256 + p.val

/-- One message of a cycle. -/
def State.placeMsg (s : State) (b : Nat) (m : BobMsg) : State :=
  if !messageLen m.data.length then s else
  match m.src with
  | .core _ => s.localMessage m.ctx b m.data
  | .port _ => s.remoteMessage m.ctx b m.data

/-- BOBBIN_ARRIVAL: the messages that reach a bobbin's home in one cycle, placed in the order of R247; a round completes with the
contribution that fills it (R265). -/
def execBobbinArrival (b : BobbinId) (msgs : List BobMsg) (s : State) : Out :=
  .next ((msgs.insertionSort fun x y => sourceRank x.src ≤ sourceRank y.src).foldl (fun s m => s.placeMsg b m) s)

/-- REMOTE_BOBBIN_MESSAGE: one message of a neighbour at its far bobbin. -/
def execRemoteBobbinMessage (c : Ctx) (b : BobbinId) (data : List Byte) (s : State) : Out :=
  .next (if messageLen data.length then s.remoteMessage c b data else s)

/-! ### Storage (R242) -/

/-- The enabled bobbins of a tile. -/
def State.enabledBobbins (s : State) (t : Nat) : List Nat :=
  (List.range 256).filterMap fun l => if s.flag (.bobCfg t l) .ENABLE then some (256 * t + l) else none

/-- The granule runs, (base, size), that the enabled bobbins of a tile hold. -/
def State.usedRuns (s : State) (t : Nat) : List (Nat × Nat) := (s.enabledBobbins t).map fun b => (s.bobbin b).run

/-- Granules a bobbin needs. -/
def bobGranules (f : BobFields) : Nat :=
  let len := 16 * (f.lenM1.toNat + 1)
  let acc := if !f.combine then 0 else
    (len / ctypeSize f.ctype.toNat) * (if f.ctype.toNat = 2 || f.ctype.toNat = 3 then 8 else 40)
  ((f.depthM1.toNat + 1) * len + acc + 255) / 256

/-- Does [a, a + n) lie in the pool and clear of every run? -/
def runFits (size : Nat) (used : List (Nat × Nat)) (n a : Nat) : Bool :=
  a + n ≤ size && used.all fun r => a + n ≤ r.1 || r.1 + r.2 ≤ a

/-- The lowest free run of n granules: it starts at the pool's start or at the end of a run in use. -/
def lowestRun (size : Nat) (used : List (Nat × Nat)) (n : Nat) : Option Nat :=
  ((0 :: used.map fun r => r.1 + r.2).filter (runFits size used n)).foldl (fun m a =>
    match m with
    | none => some a
    | some b => some (min a b)) none

/-! ### BOB.CFG (R241, R244) -/

/-- The fields of a write stored, but ENABLE. -/
def State.bobFields (s : State) (b : Nat) (f : BobFields) : State :=
  s.setFlds (bobCfg b) [(.COMBINE, if f.combine then 1 else 0), (.REMOTE_IN, if f.remoteIn then 1 else 0),
    (.HMODE, if f.hmode then 1 else 0), (.OWNER, f.owner), (.CTYPE, f.ctype.toNat), (.EXPECT, f.expect.toNat),
    (.DEPTH_M1, f.depthM1.toNat), (.LEN_M1, f.lenM1.toNat)]

/-- Would the write change a field other than HMODE? -/
def State.bobChanges (s : State) (b : Nat) (f : BobFields) : Bool :=
  (s.bobFields b { f with hmode := s.flag (bobCfg b) .HMODE }).reg (bobCfg b) ≠ s.reg (bobCfg b)

/-- CFG_ERR of the tile's bobbin block. -/
def State.bobCfgErr (s : State) (t : Nat) : State := s.setFlag (.tbobStatus t) .CFG_ERR true

/-- A write of BOB.CFG with ENABLE = 1. -/
def State.bobEnable (s : State) (b : Nat) (f : BobFields) : State :=
  let t := b / 256
  if s.flag (bobCfg b) .ENABLE then
    let s1 := s.setFlag (bobCfg b) .HMODE f.hmode
    if s.bobChanges b f then s1.bobCfgErr t else s1
  else
    let s := s.bobFields b f
    let ct := f.ctype.toNat
    if f.depthM1.toNat < 3 || (f.combine && (b % 256 < 224 || f.expect = 0 || !(ct = 2 || ct = 3 || ct = 4 || ct = 6))) then
      s.bobCfgErr t
    else
      let n := bobGranules f
      match lowestRun (s.fld (.tbobPool t) .SIZE_G) (s.usedRuns t) n with
      | none => (s.bobCfgErr t).setFlag (.tbobStatus t) .NO_SPACE true
      | some a =>
        (((s.setBobbin b { queue := [], acc := [], run := (a, n) }).setFlag (bobCfg b) .ENABLE true).setFld
          (bobState b) .RECEIVED 0).setFld (bobState b) .CONTRIB 0

def execBobbinEnable (b : BobbinId) (f : BobFields) (s : State) : Out := .next (s.bobEnable b f)

/-- Is a wait outstanding on bobbin b? -/
def State.bobWaited (s : State) (b : Nat) : Bool := s.waitingCores.any fun n => s.waitsSend b n || s.waitsRecv b n

/-- A write of BOB.CFG with ENABLE = 0: refused while a wait is outstanding; otherwise the bobbin is disabled, emptied and
its storage returned, and the other fields are stored. -/
def State.bobDisable (s : State) (b : Nat) (f : BobFields) : State :=
  if s.flag (bobCfg b) .ENABLE && s.bobWaited b then s.bobCfgErr (b / 256)
  else
    let s := if s.flag (bobCfg b) .ENABLE then
        ((s.setFlag (bobCfg b) .ENABLE false).bobEmpty b).setBobbin b Bobbin.empty
      else s
    s.bobFields b f

def execBobbinDisable (b : BobbinId) (f : BobFields) (s : State) : Out := .next (s.bobDisable b f)

/-! ### KNOT.CFG (R244, R255) -/

/-- A 1 written to SATURATED clears it. -/
def State.knotClear (s : State) (k : Nat) (f : KnotFields) : State :=
  if f.clear then s.setFlag (knotCfg k) .SATURATED false else s

def State.knotFields (s : State) (k : Nat) (f : KnotFields) : State :=
  (s.setFlag (knotCfg k) .HMODE f.hmode).setFld (knotCfg k) .OWNER f.owner

/-- COUNT 0 and THRESHOLD all ones. -/
def State.knotZero (s : State) (k : Nat) : State :=
  ((s.setFld (knotVal k) .COUNT 0).setFld (knotVal k) .THRESHOLD (2 ^ 32 - 1)).setFlag (knotCfg k) .SATURATED false

/-- A write of KNOT.CFG with ENABLE = 1: it enables a disabled knot; on an enabled one only HMODE may change. -/
def State.knotEnable (s : State) (k : Nat) (f : KnotFields) : State :=
  if s.flag (knotCfg k) .ENABLE then
    let s1 := (s.knotClear k f).setFlag (knotCfg k) .HMODE f.hmode
    if s.fld (knotCfg k) .OWNER = f.owner then s1 else s1.bobCfgErr (k / 128)
  else
    ((((s.knotClear k f).knotFields k f).setFlag (knotCfg k) .ENABLE true).knotZero k).setFld (knotCfg k) .CHANGES 0

def execKnotEnable (k : KnotId) (f : KnotFields) (s : State) : Out := .next (s.knotEnable k f)

/-- Does a wait, a milestone of an armed image or a Feed trigger name knot k (R244)? -/
def State.knotNamed (s : State) (k : Nat) : Bool :=
  s.waitingCores.any (s.waitsKnot k) ||
  (allContexts.any fun c => (s.image c).active && (s.image c).miles.any fun m => m.knot = k) ||
  s.feed.any fun e => match e.2.cur with
    | some u => !u.running && u.d.trig = 5 && u.d.targ = k
    | none => false

/-- A write of KNOT.CFG with ENABLE = 0. -/
def State.knotDisable (s : State) (k : Nat) (f : KnotFields) : State :=
  if s.flag (knotCfg k) .ENABLE && s.knotNamed k then s.bobCfgErr (k / 128)
  else ((s.setFlag (knotCfg k) .ENABLE false).knotClear k f).knotFields k f

def execKnotDisable (k : KnotId) (f : KnotFields) (s : State) : Out := .next (s.knotDisable k f)

/-! ### The pool (R243, R260) -/

/-- A write of TBOB.POOL: a change is refused while a bobbin of the tile is enabled, and for a pool beyond 24 MiB of Well. -/
def State.poolWrite (s : State) (t size base : Nat) : State :=
  if s.fld (.tbobPool t) .SIZE_G = size && s.fld (.tbobPool t) .BASE_G = base then s
  else if s.enabledBobbins t ≠ [] || 98304 < base + size then s.bobCfgErr t
  else (s.setFld (.tbobPool t) .SIZE_G size).setFld (.tbobPool t) .BASE_G base

def execTbobPoolWrite (t : TileId) (size base : BitVec 17) (s : State) : Out := .next (s.poolWrite t size.toNat base.toNat)

/-- FREE_G and LARGEST_G of TBOB.FREE. -/
def State.poolFree (s : State) (t : Nat) : Nat :=
  s.fld (.tbobPool t) .SIZE_G - ((s.usedRuns t).map Prod.snd).sum

/-- The free run that starts at granule a: up to the next run in use or the pool's end. -/
def freeRunAt (size : Nat) (used : List (Nat × Nat)) (a : Nat) : Nat :=
  if used.any fun r => r.1 ≤ a && a < r.1 + r.2 then 0
  else (used.foldl (fun m r => if a ≤ r.1 then min m r.1 else m) size) - a

def State.poolLargest (s : State) (t : Nat) : Nat :=
  let size := s.fld (.tbobPool t) .SIZE_G
  let used := s.usedRuns t
  (0 :: used.map fun r => r.1 + r.2).foldl (fun m a => max m (freeRunAt size used a)) 0

end Sys2Proof.Machine
end

