-- ==== Sys2Proof/Machine/Convert.lean ====
section
/-!
DEFINITION. The CONVERT instructions and the draws they take (Tables 5-7 and 5-8, R160, R161, R211 to R221).
-/
namespace Sys2Proof.Machine

/-! ### Draws (R218, R221) -/

/-- Draws a core holds. -/
def NibCore.drawsLeft (k : NibCore) : Nat := (k.draws.map DrawRun.left).sum

/-- The values of the first m draws of a list of runs, and the runs without them. -/
def takeDraws : List DrawRun → Nat → List Nat × List DrawRun
  | [], _ => ([], [])
  | r :: rs, m =>
    if m < r.left then
      ((List.range m).map fun i => poolDraw r.s31 r.s23 (r.pos + i), { r with pos := r.pos + m, left := r.left - m } :: rs)
    else
      let x := takeDraws rs (m - r.left)
      (((List.range r.left).map fun i => poolDraw r.s31 r.s23 (r.pos + i)) ++ x.1, x.2)

/-- Does the home accept reservation requests of context c: enabled and not disabling (R221, R229)? -/
def State.poolOpen (s : State) (c : Nat) : Bool := s.flag (.poolCtrl c) .ENABLE && !s.flag (.poolCtrl c) .DISABLING

/-- A request behind those that reached the home before it: of one cycle and one context, the lowest rank first (R234). -/
def queueRequest (r : PoolReq) : List PoolReq → List PoolReq
  | [] => [r]
  | q :: qs =>
    if q.ctx = r.ctx && q.since = r.since && r.user.rank < q.user.rank then r :: q :: qs else q :: queueRequest r qs

/-- A reservation request that reaches the home. -/
def State.poolRequest (s : State) (c : Nat) (u : PoolUser) (count : Nat) : State :=
  { s with poolQ := queueRequest { ctx := c, user := u, count := count, since := s.time } s.poolQ }

/-- A CONVERT with RM = 2 (`stoch`) needs m draws: on a pool that is not enabled it is reserved (R221); with enough draws it computes
f; otherwise it asks for a run of 1,024 and waits, or, the pool disabling, is reserved and loses the draws of its used-up run
(R218). -/
def State.withDraws (s : State) (n m : Nat) (stoch : Bool) (k : NibCore) (f : List Nat → NibCore → NibCore) : State :=
  if stoch && !s.flag (.poolCtrl (s.ctxOf n)) .ENABLE then s.illegal n
  else if m ≤ k.drawsLeft then
    let x := takeDraws k.draws m
    s.nibDone n (f x.1 { k with draws := x.2 })
  else if s.poolOpen (s.ctxOf n) then
    (s.poolRequest (s.ctxOf n) (.nib n) 1024).setCore n { k with wait := .pool }
  else (s.setCore n { k with draws := [] }).illegal n

/-! ### Conversions of elements (R214, R215) -/

/-- One element converted, with a draw. -/
def convertElem (o : CvtOp) (d : Nat) (w : Nat) : Nat :=
  match o.et.format, o.dt.format with
  | some a, some b => b.encode o.rm o.sat d (a.decode w)
  | some a, none => (a.decode w).toIntBits o.rm o.dt.bitsOf o.u
  | none, some b => b.encode o.rm o.sat d (.ofInt (intOf o.et.bitsOf o.u w))
  | none, none =>
    let i := intOf o.et.bitsOf o.u w
    wrapTo o.dt.bitsOf (if o.sat then clampInt o.dt.bitsOf o.u i else i)

/-- The size ratio r. -/
def cvtRatio (o : CvtOp) : Nat := max o.et.size o.dt.size / min o.et.size o.dt.size

/-- The type pairs of R160. -/
def cvtPairOk (o : CvtOp) : Bool :=
  match o.et.isInt, o.dt.isInt with
  | false, false => !o.u && (cvtRatio o) ≤ 4
  | true, true => (cvtRatio o) = 2 || (cvtRatio o) = 4
  | true, false => (o.et = .i32 && o.dt = .fp32) || (o.et = .i16 && (o.dt = .fp16 || o.dt = .bf16))
  | false, true => (o.dt = .i32 && o.et = .fp32) || (o.dt = .i16 && (o.et = .fp16 || o.et = .bf16))

/-- Is RM = 2 accepted: between floating-point types (R161)? -/
def cvtRmOk (o : CvtOp) (narrowing : Bool) : Bool := o.rm ≠ .stochastic || (narrowing && !o.et.isInt && !o.dt.isInt)

/-- Is VCVT with these fields listed? -/
def cvtSameOk (o : CvtOp) : Bool := (cvtPairOk o) && cvtRmOk o false && (cvtRatio o) = 1 && o.part = 0

/-- Is VCVTW with these fields listed? -/
def cvtWideOk (o : CvtOp) : Bool := (cvtPairOk o) && cvtRmOk o false && o.et.size < o.dt.size && o.part.toNat < (cvtRatio o)

/-- Is VCVTN with these fields listed? -/
def cvtNarrowOk (o : CvtOp) : Bool :=
  (cvtPairOk o) && cvtRmOk o true && o.dt.size < o.et.size && o.part = 0 && o.vs1.toNat % (cvtRatio o) = 0

/-- VCVT: element by element at one size. -/
def execVcvt (n : CoreId) (o : CvtOp) (s : State) : Out :=
  nibGuarded n (cvtSameOk o) (fun k => k.setV o.vd (mergeElems (k.preg o.pg) o.dt (k.vreg o.vd) fun i =>
    convertElem o 0 (elemOf o.et (k.vreg o.vs1) i))) s

/-- VCVTW: part PART of VS1 into all of VD. -/
def execVcvtw (n : CoreId) (o : CvtOp) (s : State) : Out :=
  nibGuarded n (cvtWideOk o) (fun k => k.setV o.vd (mergeElems (k.preg o.pg) o.dt (k.vreg o.vd) fun i =>
    convertElem o 0 (elemOf o.et (k.vreg o.vs1) (o.part.toNat * (o.et.count / (cvtRatio o)) + i)))) s

/-- Source element i of VCVTN: of registers VS1 to VS1 + r − 1 in order. -/
def NibCore.narrowSource (k : NibCore) (o : CvtOp) (i : Nat) : Nat :=
  elemOf o.et (k.vreg (o.vs1 + BitVec.ofNat 4 (i / o.et.count))) (i % o.et.count)

/-- VCVTN: r registers into VD; with RM = 2 one draw for each active destination element, from the lowest upwards. -/
def execVcvtn (n : CoreId) (o : CvtOp) (s : State) : Out :=
  .next (s.nibStep n fun s k =>
    if !(cvtNarrowOk o) then s.illegal n else
    let act := activeElems (k.preg o.pg) o.dt
    let m := if o.rm = .stochastic then act.length else 0
    s.withDraws n m (o.rm = .stochastic) k fun ds k => k.setV o.vd (mergeElems (k.preg o.pg) o.dt (k.vreg o.vd) fun i =>
      convertElem o (ds.getD (act.idxOf i) 0) (k.narrowSource o i)))

/-- The element types of QPACK and QUNPACK, with VS1 or VD even for FP32. -/
def qTypeOk (o : QOp) (r : VReg) : Bool := isVfpType o.et && (o.et ≠ .fp32 || r.toNat % 2 = 0)

/-- The bytes of a register, byte lane 0 first. -/
def vecBytes (v : W512) : List Byte := toBytes 64 v.toNat

/-- Element i of 32 that a register, or a pair for FP32, holds. -/
def NibCore.groupElem (k : NibCore) (t : ElemType) (r : VReg) (i : Nat) : Nat :=
  elemOf t (k.vreg (r + BitVec.ofNat 4 (i / t.count))) (i % t.count)

/-- QPACK: 32 elements into one block (R213); with RM = 2 it takes 32 draws. -/
def execQpack (n : CoreId) (o : QOp) (s : State) : Out :=
  .next (s.nibStep n fun s k =>
    if !qTypeOk o o.vs1 then s.illegal n else
    let fm := vfpFormat o.et
    s.withDraws n (if o.rm = .stochastic then 32 else 0) (o.rm = .stochastic) k fun ds k =>
      let xs := (List.range 32).map fun i => fm.decode (k.groupElem o.et o.vs1 i)
      k.setV o.vd (BitVec.ofNat 512 (ofBytes (o.qf.encodeBlock o.rm ds xs))))

/-- QUNPACK: one block into 32 elements, each converted under R214 without saturation; RM = 2 is reserved. -/
def execQunpack (n : CoreId) (o : QOp) (s : State) : Out :=
  nibGuarded n (qTypeOk o o.vd && o.rm ≠ .stochastic) (fun k =>
    let fm := vfpFormat o.et
    let xs := (o.qf.decodeBlock ((vecBytes (k.vreg o.vs1)).take o.qf.blockBytes)).map (fm.encode o.rm false 0)
    let k1 := k.setV o.vd (vecOf o.et fun i => xs.getD i 0)
    if o.et = .fp32 then k1.setV (o.vd + 1) (vecOf o.et fun i => xs.getD (16 + i) 0) else k1) s

end Sys2Proof.Machine
end

