-- ==== Sys2Proof/Machine/Tambour.lean ====
section
/-!
DEFINITION. Tambour arrays: allocation, the start, the product and the end of a work, and a failure (R182 to R203, R221,
R222).
-/
namespace Sys2Proof.Machine

/-! ### Formats (Table 6-2) -/

/-- A type of a Tambour descriptor: a floating-point format or a block format. -/
inductive TambFmt
  | fp (f : FFormat)
  | qb (q : QFormat)
deriving DecidableEq, Repr

def tambFmt : Nat → Option TambFmt
  | 4 => some (.fp binary32)
  | 5 => some (.fp binary16)
  | 6 => some (.fp bfloat16)
  | 7 => some (.fp e4m3Fmt)
  | 8 => some (.fp e5m2Fmt)
  | 9 => some (.qb .qb8)
  | 10 => some (.qb .qb6)
  | 11 => some (.qb .qb4)
  | _ => none

/-- Four times the rate r of Table 6-2. -/
def tambRate : Nat → Nat
  | 4 => 1
  | 5 => 4
  | 6 => 4
  | 11 => 16
  | _ => 8

/-- Row size of n elements. -/
def TambFmt.rowBytes : TambFmt → Nat → Nat
  | .fp f, n => n * (f.width / 8)
  | .qb q, n => n / 32 * q.blockBytes

/-- The values of a row, as operand staging gives them: an element of a block below 2⁻¹²⁶ is a zero (R208, R212). -/
def TambFmt.values : TambFmt → List Byte → List FVal
  | .fp f, b => f.elements b
  | .qb q, b => (chunksOf q.blockBytes b.length b).flatMap fun x => (q.decodeBlock x).map FVal.flush32

/-! ### The product (R185, R222) -/

/-- Groups of k of a list, at most n of them. -/
def groupsOf {α : Type} (k : Nat) : Nat → List α → List (List α)
  | 0, _ => []
  | n + 1, l => if l = [] || k = 0 then [] else l.take k :: groupsOf k n (l.drop k)

/-- A value rounded to FP32. -/
def round32 (v : FVal) : FVal := binary32.decode (binary32.nearest v)

/-- The accumulator of a cell: K-steps of r values summed exactly, each added to partition s mod F with one rounding, the
partitions added in order. -/
def tambDot (rate fold : Nat) (as bs : List FVal) : FVal :=
  let zero : FVal := .fin false 0 0
  let steps := ((groupsOf (max 1 (rate / 4)) as.length (List.zipWith FVal.mul as bs)).map fun g =>
    g.tail.foldl FVal.add (g.headD zero)).zipIdx
  let part := fun p => (steps.filter fun x => x.2 % fold = p).foldl (fun acc x => round32 (acc.add x.1)) zero
  ((List.range fold).drop 1).foldl (fun acc p => round32 (acc.add (part p))) (part 0)

/-- Fold and rows of an output tile (Table 6-3). -/
def tambFold (m : Nat) : Nat := if m ≤ 8 then 4 else if m ≤ 16 then 2 else 1

/-- The value drained for a cell: fma(SCALE, acc, C_in), rounded once to FP32. -/
def tambDrain (scale : Nat) (acc cin : FVal) : FVal := round32 (((binary32.decode scale).mul acc).add cin)

/-! ### Descriptors (Table 6-4, R190) -/

def tambDesc (b : List Byte) : TambDesc :=
  let ctrl := fieldAt b 0 4
  { atype := nbits ctrl 3 0, btype := nbits ctrl 7 4, otype := nbits ctrl 11 8, ctype := nbits ctrl 15 12,
    rm := nbits ctrl 18 16, sat := nbits ctrl 19 19 = 1, scale := fieldAt b 4 4,
    m := fieldAt b 8 2 + 1, n := fieldAt b 10 2 + 1, k := fieldAt b 12 4,
    aAddr := fieldAt b 0x10 8, btAddr := fieldAt b 0x18 8, cinAddr := fieldAt b 0x20 8, coutAddr := fieldAt b 0x28 8,
    lda := fieldAt b 0x30 4, ldb := fieldAt b 0x34 4, ldco := fieldAt b 0x38 4, ldci := fieldAt b 0x3C 4 }

/-- Row size of n elements of a type code; 0 for a code that is no type. -/
def tambRow (code n : Nat) : Nat := match tambFmt code with
  | some f => f.rowBytes n
  | none => 0

/-- Is the type or RM code refused, or a zero bit of CTRL set (R183, R184, R186)? -/
def TambDesc.ctrlBad (d : TambDesc) (zeros : Nat) : Bool :=
  (tambFmt d.atype).isNone || (tambFmt d.btype).isNone || tambRate d.atype ≠ tambRate d.btype || (tambFmt d.otype).isNone ||
    !(d.ctype = 0 || d.ctype = 4 || d.ctype = 5 || d.ctype = 6) || 2 < d.rm || (d.rm = 2 && d.otype = 4) || zeros ≠ 0

/-- Byte offset of the first field that R190 refuses. -/
def TambDesc.firstBad (d : TambDesc) (zeros : Nat) (poolClosed : Bool) : Option Nat :=
  let qbOut := 9 ≤ d.otype
  if d.ctrlBad zeros || (d.rm = 2 && poolClosed) then some 0
  else if qbOut && d.n % 32 ≠ 0 then some 0x08
  else if d.k < 32 || 2 ^ 24 < d.k || d.k % 32 ≠ 0 then some 0x0C
  else if d.aAddr % 16 ≠ 0 then some 0x10
  else if d.btAddr % 16 ≠ 0 then some 0x18
  else if d.cinAddr % 16 ≠ 0 || (d.ctype = 0 && d.cinAddr ≠ 0) then some 0x20
  else if d.coutAddr % 16 ≠ 0 then some 0x28
  else if d.lda % 16 ≠ 0 || d.lda < tambRow d.atype d.k then some 0x30
  else if d.ldb % 16 ≠ 0 || d.ldb < tambRow d.btype d.k then some 0x34
  else if d.ldco % 16 ≠ 0 || d.ldco < tambRow d.otype d.n then some 0x38
  else if d.ldci % 16 ≠ 0 || d.ldci < tambRow d.ctype d.n || (d.ctype = 0 && d.ldci ≠ 0) then some 0x3C
  else none

/-! ### The start (R187, R190, R191, R221) -/

/-- The rows of one operand translated: `count` rows of `size` bytes from `base`, `stride` apart, all in Well of the
array's own tile; else the status and DETAIL that end the work. -/
def State.tambRows (s : State) (c t which base stride count size : Nat) (needW : Bool) :
    State × Except (Nat × Nat) (List TambRow) :=
  (List.range count).foldl (fun acc i =>
    match acc.2 with
    | .error e => (acc.1, .error e)
    | .ok rows =>
      match acc.1.mapRange c 4 t ((base + i * stride) % 2 ^ 64) size needW with
      | (s, .error (.access _)) => (s, .error (0x11, 0x10 + which))
      | (s, .error (.uncorr _)) => let r := s.freeNat 32; (r.2, .error (0x12, r.1))
      | (s, .ok segs) =>
        if segs.all fun g => !g.host && isWell g.addr && tileOfPa g.addr = t then
          (s, .ok (rows ++ [{ segs := segs, data := s.peekSegs segs }]))
        else (s, .error (0x11, 0x20 + which))) (s, .ok [])

/-- The four operands translated, in the order A, BT, C_in, C_out. -/
def State.tambMap (s : State) (c t : Nat) (d : TambDesc) :
    State × Except (Nat × Nat) (List TambRow × List TambRow × List TambRow × List TambRow) :=
  match s.tambRows c t 1 d.aAddr d.lda d.m (tambRow d.atype d.k) false with
  | (s, .error e) => (s, .error e)
  | (s, .ok ra) =>
    match s.tambRows c t 2 d.btAddr d.ldb d.n (tambRow d.btype d.k) false with
    | (s, .error e) => (s, .error e)
    | (s, .ok rb) =>
      match s.tambRows c t 3 d.cinAddr d.ldci (if d.ctype = 0 then 0 else d.m) (tambRow d.ctype d.n) false with
      | (s, .error e) => (s, .error e)
      | (s, .ok rc) =>
        match s.tambRows c t 4 d.coutAddr d.ldco d.m (tambRow d.otype d.n) true with
        | (s, .error e) => (s, .error e)
        | (s, .ok ro) => (s, .ok (ra, rb, rc, ro))

/-- A work that is to end before its first cycle. -/
def TambCur.ending (w : Work) (stroke : Nat) (d : TambDesc) (err : Nat × Nat) : TambCur :=
  { work := w, stroke := stroke, d := d, draws := none, aRows := [], btRows := [], cRows := [], oRows := [], hits := [],
    err := some err }

/-- A descriptor read: checked, its pages translated, its draws asked for. -/
def State.tambCheck (s : State) (t a : Nat) (w : Work) (stroke : Nat) (bs : List Byte) : State × TambCur :=
  let d := tambDesc bs
  match d.firstBad (nbits (fieldAt bs 0 4) 31 20) (!s.poolOpen w.ctx) with
  | some off => (s, .ending w stroke d (0x10, 0x30 + off * 256))
  | none =>
    match s.tambMap w.ctx t d with
    | (s, .error e) => (s, .ending w stroke d e)
    | (s, .ok (ra, rb, rc, ro)) =>
      let s := if d.rm = 2 then s.poolRequest w.ctx (.tamb (16 * t + a)) (d.m * d.n) else s
      (s, { work := w, stroke := stroke, d := d, draws := none, aRows := ra, btRows := rb, cRows := rc, oRows := ro, hits := [],
            err := none })

/-- A work taken by its array: none while its descriptor is on its way from the host. -/
def State.tambBegin (s : State) (t a : Nat) (w : Work) (stroke : Nat) : State × Option TambCur :=
  match s.readDesc (unitKey 4 t a) w.ctx 4 t w.desc 64 64 with
  | (s, .waits) => (s, none)
  | (s, .fails 0x11) => (s, some (.ending w stroke (tambDesc []) (0x11, 5)))
  | (s, .fails 0x10) => let r := s.freeNat 8; (r.2, some (.ending w stroke (tambDesc []) (0x10, 0x30 + r.1 * 256)))
  | (s, .fails st) => let r := s.freeNat 32; (r.2, some (.ending w stroke (tambDesc []) (st, r.1)))
  | (s, .bytes bs) => let r := s.tambCheck t a w stroke bs; (r.1, some r.2)

/-- The work that the array has taken goes on. -/
def State.tambGo (s : State) (t a : Nat) (k : Taken) : State :=
  let i := 16 * t + a
  match s.tambBegin t a k.work k.stroke with
  | (s, some u) => (s.setBuf (unitKey 4 t a) HostBuf.empty).setTamb i { s.tambOf i with taken := none, cur := some u }
  | (s, none) => s.setTamb i { s.tambOf i with taken := some k }

/-- TAMBOUR_WORK_START: an idle array takes the head of its queue, unless the guard holds it; one that waits for its descriptor goes
on. -/
def execTambourWorkStart (t : TileId) (a : ArrayId) (s : State) : Out :=
  let i := 16 * t.val + a.val
  let k := s.tambOf i
  .next (match k.taken, k.queue with
    | some x, _ => if k.cur.isSome || !s.ctxLive x.work.ctx then s else s.tambGo t a x
    | none, [] => s
    | none, w :: ws =>
      if s.fld (.tambArray t a) .STATE ≠ 0 || w.held || !s.ctxLive w.ctx then s else
      (((((s.setFld (.tambArray t a) .STATE 1).countStart 4 t a).setTamb i { k with queue := ws, rest := false }).setBuf (unitKey 4 t a)
        HostBuf.empty).tambGo t a
        { work := w, stroke := s.count, desc := [], washeld := false }))

/-! ### Output tiles (R185, R192, R200) -/

/-- Rows, tiles across and tiles of a work. -/
def TambDesc.tileRows (d : TambDesc) : Nat := 32 / tambFold d.m
def TambDesc.tilesAcross (d : TambDesc) : Nat := (d.n + 31) / 32
def TambDesc.tiles (d : TambDesc) : Nat := (d.m + d.tileRows - 1) / d.tileRows * d.tilesAcross

/-- Do some bytes of a row lie where a segment list writes? -/
def TambRow.meets (r : TambRow) (out : List TambRow) : Bool :=
  r.segs.any fun g => out.any fun o => o.segs.any (g.meets ·)

/-- Did others write some byte of the segments while the work ran? -/
def TambCur.hit (u : TambCur) (segs : List Seg) : Bool := u.hits.any fun a => ({ segs := segs, data := [] } : TambRow).holds a

/-- Was the row written since the start, or does C_out overlap it? -/
def State.rowTouched (s : State) (u : TambCur) (r : TambRow) : Bool :=
  s.peekSegs r.segs ≠ r.data || r.meets u.oRows || u.hit r.segs

/-- Is element (i, j) of C_in touched: written since the start, or overlapped by C_out other than in place? -/
def State.cinTouched (s : State) (u : TambCur) (i j : Nat) : Bool :=
  if u.d.ctype = 0 then false else
  let r := u.cRows.getD i { segs := [], data := [] }
  let z := tambRow u.d.ctype 1
  let segs := subSegs r.segs (j * z) z
  let inPlace := u.d.cinAddr = u.d.coutAddr && u.d.ldci = u.d.ldco && u.d.ctype = u.d.otype
  s.peekSegs segs ≠ (r.data.drop (j * z)).take z ||
    (!inPlace && ({ segs := segs, data := [] } : TambRow).meets u.oRows) || u.hit segs

/-- Did others write element (i, j) of C_out while the work ran? -/
def TambCur.outHit (u : TambCur) (i j : Nat) : Bool :=
  let r := u.oRows.getD i { segs := [], data := [] }
  let lo := tambRow u.d.otype j
  u.hit (subSegs r.segs lo (tambRow u.d.otype (j + 1) - lo))

/-- The value C_in gives element (i, j). -/
def TambCur.cin (u : TambCur) (i j : Nat) : FVal :=
  match tambFmt u.d.ctype, u.cRows[i]? with
  | some (.fp f), some r =>
    let z := f.width / 8
    f.decode (ofBytes ((r.data.drop (j * z)).take z))
  | _, _ => .fin false 0 0

/-- The value drained for element (i, j). -/
def TambCur.value (u : TambCur) (i j : Nat) : FVal :=
  match tambFmt u.d.atype, tambFmt u.d.btype with
  | some fa, some fb =>
    let vals := fun (f : TambFmt) (rows : List TambRow) k => f.values ((rows.getD k { segs := [], data := [] }).data)
    tambDrain u.d.scale (tambDot (tambRate u.d.atype) (tambFold u.d.m) (vals fa u.aRows i) (vals fb u.btRows j)) (u.cin i j)
  | _, _ => .nan

def tambMode (rm : Nat) : RoundMode := if rm = 2 then .stochastic else if rm = 1 then .zero else .nearest

/-- The draw of element (i, j). -/
def TambCur.draw (u : TambCur) (i j : Nat) : Nat :=
  match u.draws with
  | some r => poolDraw r.s31 r.s23 (r.pos + i * u.d.n + j)
  | none => 0

/-- The bytes of elements j of row i for the columns listed, with how many of them R193 counts; an element whose operands
were touched is free. -/
def State.tambCells (s : State) (u : TambCur) (i : Nat) (touched : Nat → Bool) (js : List Nat) : State × List Byte × Nat :=
  match tambFmt u.d.otype with
  | some (.fp f) =>
    js.foldl (fun acc j =>
      let z := f.width / 8
      if touched j then
        let r := acc.1.freeBytes z
        (r.2, acc.2.1 ++ r.1, acc.2.2 + if (f.decode (ofBytes r.1)).isFinite then 0 else 1)
      else
        let v := u.value i j
        let lost := !(f.decode (f.encode (tambMode u.d.rm) false (u.draw i j) v)).isFinite
        (acc.1, acc.2.1 ++ toBytes z (f.encode (tambMode u.d.rm) u.d.sat (u.draw i j) v), acc.2.2 + if lost then 1 else 0))
      (s, [], 0)
  | some (.qb q) =>
    if js.any touched then
      let r := s.freeBytes q.blockBytes
      (r.2, r.1, if (q.decodeBlock r.1).all FVal.isFinite then 0 else 32)
    else
      let vs := js.map (u.value i)
      (s, q.encodeBlock (tambMode u.d.rm) (js.map (u.draw i)) vs, if vs.all FVal.isFinite then 0 else 32)
  | none => (s, [], 0)

/-- Every row of a tile read at its home: false when a read completes with UNCORR_MEM. -/
def State.readRows (s : State) (c : Nat) (rows : List TambRow) : State × Bool :=
  rows.foldl (fun acc r =>
    let x := acc.1.readSegs c r.segs
    (x.1, acc.2 && x.2.isSome)) (s, true)

/-- What a work drains over C_out of another is no write that R192 bars: the elements are ordered by R206. -/
def State.keepHits (s : State) (before : State) : State :=
  { s with tamb := smMap (fun _ => TambArray.idle) (fun i k =>
      let old := match (before.tambOf i).cur with
        | some u => u.hits
        | none => []
      { k with cur := k.cur.map fun u => { u with hits := u.hits.filter fun a => old.contains a || u.reads a } }) s.tamb }

/-- One output tile, in row-major order of tiles: its operands read, its elements written; the number R193 counts, and false
when an operand read or a write completed with UNCORR_MEM. -/
def State.tambTile (s : State) (u : TambCur) (index : Nat) : State × Nat × Bool :=
  let d := u.d
  let is := (List.range d.tileRows).map (index / d.tilesAcross * d.tileRows + ·) |>.filter (· < d.m)
  let js := (List.range 32).map (index % d.tilesAcross * 32 + ·) |>.filter (· < d.n)
  let pick := fun (rows : List TambRow) (l : List Nat) => l.filterMap fun i => rows[i]?
  let rd := s.readRows u.work.ctx (pick u.aRows is ++ pick u.btRows js ++ pick u.cRows is)
  if !rd.2 then (rd.1, 0, false) else
  let colBad := js.filter fun j => match u.btRows[j]? with
    | some r => s.rowTouched u r
    | none => false
  let off := tambRow d.otype (js.headD 0)
  is.foldl (fun acc i =>
    let rowBad := match u.aRows[i]? with
      | some r => s.rowTouched u r
      | none => false
    let x := acc.1.tambCells u i (fun j => rowBad || colBad.contains j || s.cinTouched u i j || u.outHit i j) js
    let segs := subSegs ((u.oRows.getD i { segs := [], data := [] }).segs) off x.2.1.length
    let w := x.1.writeSegs u.work.ctx segs x.2.1
    (w.1.keepHits x.1, acc.2.1 + x.2.2, acc.2.2 && w.2)) (rd.1, 0, true)

/-- Tiles in order until one fails. -/
def State.tambTiles (s : State) (u : TambCur) (l : List Nat) : State × Nat × Bool :=
  l.foldl (fun acc i =>
    if !acc.2.2 then acc else
    let x := acc.1.tambTile u i
    (x.1, acc.2.1 + x.2.1, x.2.2)) (s, 0, true)

/-! ### The end (R193, R195, R516) -/

/-- TAMBOUR_WORK_END: the work's tiles are written and its record completed; `gated` is the number of cycles a throttle
gated. A work that waits for its draws does not end. -/
def execTambourWorkEnd (t : TileId) (a : ArrayId) (gated : W32) (s : State) : Out :=
  let i := 16 * t.val + a.val
  let k := s.tambOf i
  .next (match k.cur with
    | none => s
    | some u =>
      let free := fun (s : State) =>
        (s.setTamb i { s.tambOf i with cur := none, rest := (s.tambOf i).queue ≠ [] }).setFld (.tambArray t a) .STATE 0
      let w := if gated = 0 then u.work else { u.work with delayed := true }
      match u.err with
      | some (st, detail) => (free s).endEngineWork u.work 4 t a st 0 detail
      | none =>
        if u.d.rm = 2 && u.draws.isNone then s else
        let r := s.tambTiles u (List.range u.d.tiles)
        let s := free r.1
        if r.2.2 then
          let s := if gated = 0 then s else (s.addFld (.pwrwCycles u.work.ctx) .CYCLES gated.toNat).vfEvent u.work.ctx 9
          (s.addFld (.tambWorkMacs t) .COUNT (u.d.m * u.d.n * u.d.k)).endEngineWork w 4 t a 0
            (r.2.1 % 2 ^ 32 + gated.toNat * 2 ^ 32) 0
        else
          let f := s.freeNat 32
          f.2.endEngineWork w 4 t a 0x12 0 f.1)

/-! ### Allocation and failure (R194, R198, R202, R203) -/

/-- A write of TAMB.ARRAY. -/
def State.arrayAlloc (s : State) (t a : Nat) (owned : Bool) (ctx : Nat) : State :=
  let r := Reg.tambArray t a
  if s.flag r .OWNED = owned && s.fld r .CTX = ctx then s
  else if s.fld r .STATE = 0 && (s.tambOf (16 * t + a)).queue = [] then (s.setFlag r .OWNED owned).setFld r .CTX ctx
  else s.setFlag (.tambStatus t) .ALLOC_REFUSED true

def execArrayAlloc (t : TileId) (a : ArrayId) (owned : Bool) (ctx : Ctx) (s : State) : Out :=
  .next (s.arrayAlloc t a owned ctx)

def tambCheckCode : TambCheck → Nat
  | .operandParity => 1 | .productResidue => 2 | .accumParity => 3

/-- The logical array that a physical one stands for, if mapped. -/
def State.logicalArray (s : State) (t phys : Nat) : Option Nat :=
  (List.range 16).find? fun a => s.physOf 1 t a = phys && s.fld (.tambArray t a) .STATE ≠ 4 && s.fld (.tambArray t a) .STATE ≠ 6

/-- A running work stopped: the output tiles listed were drained; the rest are not written (R198, R201). -/
def State.stopTamb (s : State) (i : Nat) (drained : List Nat) : State :=
  let s := s.setTamb i { s.tambOf i with taken := none }
  match (s.tambOf i).cur with
  | none => s
  | some u =>
    let s := if u.err.isSome || (u.d.rm = 2 && u.draws.isNone) then s
      else (s.tambTiles u (drained.filter (· < u.d.tiles))).1
    s.setTamb i { s.tambOf i with cur := none }

/-- ARRAY_FAILURE: the physical array is listed and logged, its logical one is FAILED, and the context of a work in progress
faults. -/
def execArrayFailure (t : TileId) (phys : Fin 17) (check : TambCheck) (drained : List Nat) (s : State) : Out :=
  let la := s.logicalArray t phys
  let busy : Option Nat := match la with
    | some a => (s.tambOf (16 * t.val + a)).ctx
    | none => none
  let failed : Bool := match la with
    | some a => s.fld (.tambArray t a) .STATE = 3
    | none => s.deadSpares.contains (t.val, phys.val) ||
        s.perm.defects.any fun d => defectKey d = defectKey (defectEntry 1 0 false 0 t phys)
  .next <|
    if failed then s else
    let s := s.list 1 0 false t phys
    let s := s.setFlag (.tambStatus t) .FAILED true
    let r := Reg.tambFailLog t
    let s := if s.flag r .VALID then s.setFlag r .OVERFLOW true
      else s.setFlds r [(.VALID, 1), (.DURING_WORK, if busy.isSome then 1 else 0),
        (.CTX, busy.getD 0), (.PHYS, phys), (.CHECK, tambCheckCode check), (.STROKE_LO, s.countLo)]
    let s := match la with
      | some a => (s.stopTamb (16 * t.val + a) drained).setFld (.tambArray t a) .STATE 3
      | none => { s with deadSpares := s.deadSpares ++ [(t.val, phys.val)] }
    let s := s.pfEvent 10
    match busy, la with
    | some c, some a => s.contextFault c 0x04 4 t a 1
    | _, _ => s

end Sys2Proof.Machine
end

