-- ==== Sys2Proof/Machine/FiletOps.lean ====
section
/-!
DEFINITION. Filet tables: where a row lies, the redirect map, the load counters, the start and end of a work, and the report
of a stroke (R300 to R303, R312 to R319, R322).
-/
namespace Sys2Proof.Machine

/-! ### Rows (R300) -/

/-- Addresses of the slice of row r at home, and of spill slot i of a shard. -/
def FiletTable.home (k : FiletTable) (r : Nat) : Nat := k.base + r % 32 * k.span + r / 32 * k.width
def FiletTable.spillAddr (k : FiletTable) (shard i : Nat) : Nat :=
  k.base + shard * k.span + (k.rows + 31) / 32 * k.width + i * k.width

/-- A row's redirect entry. -/
def State.redirect (s : State) (key r : Nat) : Option Redirect := s.redirects.find? fun e => e.key = key && e.row = r

/-- The shard that serves row r, and its address there; none when every copy of its entry is uncorrectable (R322). -/
def State.rowPlace (s : State) (key r : Nat) : Option (Nat × Nat) :=
  let k := s.tableOf key
  match s.redirect key r with
  | some e => if e.bad then none else some (e.tile, k.spillAddr e.tile e.slot)
  | none => some (r % 32, k.home r)

/-- Free redirect entries of the package. -/
def State.redirFree (s : State) : Nat := 32768 - ((s.tables.map fun e => if e.2.installed then 32 * e.2.spill else 0).sum)

/-- Is row r of a table being migrated? -/
def State.moving (s : State) (key r : Nat) : Bool :=
  s.filet.any fun e => match e.2.cur with
    | some u => (match u.move with
      | some m => m.key = key && m.row = r
      | none => false)
    | none => false

/-- Runs on some front a work that a PAUSE of the table lets finish: a GATHER, a SCATTER or a migration (R317)? -/
def State.tableBusy (s : State) (key : Nat) : Bool :=
  s.filet.any fun e => match e.2.cur with
    | some u => u.key = key && (u.kind = 0 || u.kind = 1 || u.move.isSome)
    | none => false

/-- A range of a row on its shard translated: all DRAM of that tile. -/
def State.rowSegs (s : State) (c front shard va len : Nat) (needW : Bool) : State × Except Nat (List Seg) :=
  match s.mapRange c 2 front va len needW with
  | (s, .error (.access _)) => (s, .error 0x11)
  | (s, .error (.uncorr _)) => (s, .error 0x12)
  | (s, .ok segs) =>
    if segs.all fun g => !g.host && isDram g.addr && tileOfPa g.addr = shard then (s, .ok segs) else (s, .error 0x11)

/-! ### Load counters (R312) -/

def State.loadOf (s : State) (key shard : Nat) : FiletLoad := smGet (fun _ => FiletLoad.zero) s.loads (32 * key + shard)
def State.setLoad (s : State) (key shard : Nat) (l : FiletLoad) : State :=
  { s with loads := smSet (fun _ => FiletLoad.zero) s.loads (32 * key + shard) l }

/-- A row counted by the 32 space-saving counters; the lowest counter gives way, a free value deciding between equals. -/
def hotCount (hot : List (Nat × Nat)) (row pick : Nat) : List (Nat × Nat) :=
  if hot.any fun e => e.1 = row then hot.map fun e => if e.1 = row then (e.1, e.2 + 1) else e
  else if hot.length < 32 then hot ++ [(row, 1)]
  else
    let low := hot.foldl (fun m e => min m e.2) (hot.headD (0, 0)).2
    let cand := hot.filter fun e => e.2 = low
    let out := (cand.getD (pick % cand.length) (0, 0)).1
    hot.map fun e => if e.1 = out then (row, low + 1) else e

/-- A row read or update served by a shard. -/
def State.serve (s : State) (key shard row : Nat) : State :=
  let f := s.freeNat 32
  let l := f.2.loadOf key shard
  (f.2.addFld (.filetServed shard) .COUNT 1).setLoad key shard
    { load := min (l.load + 1) (2 ^ 32 - 1), hot := hotCount l.hot row f.1 }

/-- The hot entries of a record: at most 15, ordered by count, a free value deciding between equals. -/
def State.hotEntries (s : State) (l : FiletLoad) : List (Nat × Nat) × State :=
  let x := l.hot.foldl (fun (acc : List (Nat × Nat × Nat) × State) e =>
    let f := acc.2.freeNat 32
    (acc.1 ++ [(e.1, e.2, f.1)], f.2)) ([], s)
  let sorted := x.1.mergeSort fun a b => a.2.1 > b.2.1 || (a.2.1 = b.2.1 && a.2.2 ≤ b.2.2)
  ((sorted.take 15).map fun e => (e.1, e.2.1), x.2)

/-- The record of shard t for a table (Table 10-6), for the stroke just ended. -/
def shardRecord (strokeLo load used : Nat) (hot : List (Nat × Nat)) : List Byte :=
  let entries := hot.flatMap fun e => toBytes 8 e.1 ++ toBytes 4 e.2 ++ toBytes 4 0
  let b := toBytes 4 strokeLo ++ toBytes 4 load ++ toBytes 2 used ++ toBytes 2 hot.length ++ toBytes 4 0 ++ entries
  b ++ List.replicate (256 - b.length) 0

/-- One shard's report of one table (R312, R313): written at REPORT + 256 t, or dropped. -/
def State.reportShard (s : State) (key t strokeLo : Nat) : State :=
  let c := key / 64
  let k := s.tableOf key
  let l := s.loadOf key t
  let h := s.hotEntries l
  let used := (s.redirects.filter fun e => e.key = key && e.tile = t).length
  let s := h.2.setLoad key t FiletLoad.zero
  if k.report = 0 then s else
  let lost := fun (s : State) => (s.setFlag (.filetStatus t) .REPORT_LOST true).vfEvent c 5
  match s.mapRange c 2 t (k.report + 256 * t) 256 true with
  | (s, .error _) => lost s
  | (s, .ok segs) =>
    match s.writeMixed c segs (shardRecord strokeLo l.load used h.1) with
    | (s, 0) => s
    | (s, _) => lost s

/-- The reports of every installed table. -/
def State.filetReports (s : State) (strokeLo : Nat) : State :=
  s.tables.foldl (fun s e =>
    if e.2.installed then (List.range 32).foldl (fun s t => s.reportShard e.1 t strokeLo) s else s) s

/-! ### The start of a work (R302, R303, R319) -/

/-- A work that is to end with a status, its DETAIL free: the spec lays out no DETAIL of a Filet record. -/
def State.filetEnds (s : State) (t : Nat) (x : Taken) (kind key status result : Nat) (move : Option FiletMove) : State :=
  let f := if status = 0 then (0, s) else s.freeNat 32
  let u : FiletCur :=
    { work := x.work, stroke := x.stroke, kind := kind, key := key, washeld := x.washeld, status := status, result := result,
      detail := f.1, move := move }
  ((f.2.countStart 2 t 0).setBuf (unitKey 2 t 0) HostBuf.empty).setFilet t { f.2.filetOf t with taken := none, cur := some u }

/-- KIND, and 64 × context + table ID, of a descriptor. -/
def filetKind (b : List Byte) : Nat := nbits (fieldAt b 0 4) 2 0
def filetKey (c : Nat) (b : List Byte) : Nat := 64 * c + nbits (fieldAt b 0 4) 21 16

/-- The front keeps a work that it has taken and cannot run yet. -/
def State.filetWaits (s : State) (t : Nat) (x : Taken) : State := s.setFilet t { s.filetOf t with taken := some x }

/-- A work whose descriptor is read, run when its KIND is the one named; KIND 7 ends it. -/
def State.filetRun (s : State) (t kind : Nat) (x : Taken) (body : State → Taken → State) : State :=
  if filetKind x.desc = 7 then s.filetEnds t x 7 0 0x10 0 none
  else if filetKind x.desc = kind then body s x
  else s.filetWaits t x

/-- A work that the front has taken goes on: its descriptor is read once (R302); one that cannot be read ends it. -/
def State.filetGo (s : State) (t kind : Nat) (x : Taken) (body : State → Taken → State) : State :=
  if x.desc ≠ [] then s.filetRun t kind x body else
  match s.readDesc (unitKey 2 t 0) x.work.ctx 2 t x.work.desc 64 64 with
  | (s, .waits) => s.filetWaits t x
  | (s, .fails st) => s.filetEnds t x 7 0 st 0 none
  | (s, .bytes b) => s.filetRun t kind { x with desc := b } body

/-- Did the reset in progress of the context begin in this cycle? -/
def State.resetsNow (s : State) (c : Nat) : Bool := s.resetting c && (s.context c).resetStart = s.time

/-- May a work of the context go on at a front: not during a reset, but for a RESUME of its first cycle (R330)? -/
def State.filetLive (s : State) (c kind : Nat) : Bool := s.ctxLive c || (kind = 4 && !s.failed && s.resetsNow c)

/-- The work that an idle front takes next: the one it has taken already, a released one, or the head of its queue. -/
def State.filetNext (s : State) (t : Nat) : Option (Taken × FiletUnit) :=
  let u := s.filetOf t
  match u.taken, u.released, u.queue with
  | some x, _, _ => some (x, u)
  | none, h :: hs, _ => some ({ work := h.work, stroke := s.count, desc := h.desc, washeld := true }, { u with released := hs })
  | none, [], w :: ws =>
    if w.held then none else some ({ work := w, stroke := s.count, desc := [], washeld := false }, { u with queue := ws })
  | none, [], [] => none

/-- An idle front goes on with its next work, of the KIND named. -/
def State.filetStart (s : State) (t kind : Nat) (body : State → Taken → State) : State :=
  if (s.filetOf t).cur.isSome then s else
  match s.filetNext t with
  | none => s
  | some (x, u) =>
    if !s.filetLive x.work.ctx kind then s else
    let s := if (s.filetOf t).taken.isNone then s.setBuf (unitKey 2 t 0) HostBuf.empty else s
    (s.setFilet t u).filetGo t kind x body

/-- A GATHER or SCATTER on a paused table: on the hold list, or BUSY when it is full (R302, R318). -/
def State.filetHold (s : State) (t : Nat) (x : Taken) : State :=
  let u := s.filetOf t
  let key := filetKey x.work.ctx x.desc
  if u.held.length < 16 then
    s.setFilet t { u with taken := none, held := u.held ++ [{ work := x.work, key := key, desc := x.desc }] }
  else s.filetEnds t x (filetKind x.desc) key 0x14 0 none

end Sys2Proof.Machine
end

