-- ==== Sys2Proof/Machine/Filet.lean ====
section
/-!
DEFINITION. Filet works: gather, scatter, install, pause, resume, migrate, uninstall, their end, and the allocation of a unit
(Tables 10-2 to 10-7, R301 to R321).
-/
namespace Sys2Proof.Machine

/-- The index that is padding (R306). -/
def padding (size : Nat) : Nat := 2 ^ (8 * size) - 1

/-- The format of a type code 4 to 8. -/
def floatOf : Nat → FFormat
  | 5 => binary16
  | 6 => bfloat16
  | 7 => e4m3Fmt
  | 8 => e5m2Fmt
  | _ => binary32

/-- The slice of row r read at its shard: its elements, or the status that ends the work. -/
def State.rowRead (s : State) (front key r : Nat) : State × Except Nat (List FVal) :=
  let k := s.tableOf key
  let c := key / 64
  match s.rowPlace key r with
  | none => (s, .error 0x12)
  | some (shard, va) =>
    match s.rowSegs c front shard va k.width false with
    | (s, .error st) => (s, .error st)
    | (s, .ok segs) =>
      match s.readSegs c segs with
      | (s, some b) => (s.serve key shard r, .ok ((floatOf k.etype).elements b))
      | (s, none) => (s, .error 0x12)

/-! ### GATHER (Table 10-4, R306 to R308) -/

/-- A value divided by n, to be rounded once: the quotient to 64 further bits, with a sticky bit. -/
def quotNat : FVal → Nat → FVal
  | .fin neg m e, n =>
    let q := m * 2 ^ 64 / n
    .fin neg (2 * q + if m * 2 ^ 64 % n = 0 then 0 else 1) (e - 65)
  | v, _ => v

/-- One element of a bag from its weights and slice elements, in bag order (R306). -/
def poolElem (pool : Nat) (l : List (FVal × FVal)) : FVal :=
  let zero : FVal := .fin false 0 0
  let sum := l.foldl (fun acc x => round32 ((x.1.mul x.2).add acc)) zero
  if l = [] then zero else
  match pool with
  | 1 => sum
  | 2 => round32 (quotNat sum l.length)
  | 3 => ((l.drop 1).map fun x => round32 (x.1.mul x.2)).foldl FVal.maximum (match l with
    | x :: _ => round32 (x.1.mul x.2)
    | [] => zero)
  | _ => match l with
    | x :: _ => round32 (x.1.mul x.2)
    | [] => zero

/-- Does a GATHER descriptor break Table 10-4? -/
def gatherBad (k : FiletTable) (b : List Byte) : Bool :=
  let ctrl := fieldAt b 0 4
  let o := nbits ctrl 11 8
  let size := if nbits ctrl 7 7 = 1 then 8 else 4
  let osize := (floatOf o).width / 8
  let nb := fieldAt b 4 4
  let ni := fieldAt b 8 4
  nbits ctrl 3 3 ≠ 0 || nbits ctrl 15 12 ≠ 0 || nbits ctrl 31 22 ≠ 0 || o < 4 || 6 < o ||
  nb = 0 || 2 ^ 20 < nb || ni = 0 || 2 ^ 20 < ni || (nbits ctrl 5 4 = 0 && nb ≠ ni) ||
  fieldAt b 0x0C 4 % osize ≠ 0 || fieldAt b 0x0C 4 < k.width / ((floatOf k.etype).width / 8) * osize ||
  fieldAt b 0x10 8 % size ≠ 0 || (nbits ctrl 5 4 = 0 && fieldAt b 0x18 8 ≠ 0) ||
  (nbits ctrl 6 6 = 0 && fieldAt b 0x20 8 ≠ 0) || !zeroAt b 0x30 16

/-- Do offsets start at 0, never decrease and end at n? -/
def offsetsOk (l : List Nat) (n : Nat) : Bool :=
  l.head? = some 0 && l.getLast? = some n && (l.zip l.tail).all fun x => x.1 ≤ x.2

/-- The slices of a bag's rows with their weights: none where an index is out of range, or the status of a row that cannot
be read. -/
def State.bagRows (s : State) (t key size : Nat) (l : List (Nat × FVal)) :
    State × Except Nat (Option (List (FVal × List FVal))) :=
  (l.filter fun x => x.1 ≠ padding size).foldl (fun acc x =>
    match acc.2 with
    | .error e => (acc.1, .error e)
    | .ok o =>
      if (acc.1.tableOf key).rows ≤ x.1 then (acc.1, .ok none)
      else match acc.1.rowRead t key x.1 with
        | (s, .error e) => (s, .error e)
        | (s, .ok vs) => (s, .ok (o.map fun rows => rows ++ [(x.2, vs)]))) (s, .ok (some []))

/-- The output row of a bag. -/
def bagOut (pool otype elems : Nat) (rows : Option (List (FVal × List FVal))) : List Byte :=
  let f := floatOf otype
  (List.range elems).flatMap fun i =>
    toBytes (f.width / 8) (match rows with
      | none => f.canonicalNan
      | some rs => f.nearest (poolElem pool (rs.map fun r => (r.1, r.2.getD i .nan))))

/-- The bags of a gather, each evaluated: its output row, or the status of a row it cannot read; and the bags filled with
NaN. -/
def State.gatherBags (s : State) (t key pool otype size : Nat) (bags : List (List (Nat × FVal))) :
    State × List (Except Nat (List Byte)) × Nat :=
  let k := s.tableOf key
  let elems := k.width / ((floatOf k.etype).width / 8)
  bags.foldl (fun acc l =>
    match acc.1.bagRows t key size l with
    | (s, .error e) => (s, acc.2.1 ++ [.error e], acc.2.2)
    | (s, .ok rows) => (s, acc.2.1 ++ [.ok (bagOut pool otype elems rows)], acc.2.2 + if rows.isNone then 1 else 0))
    (s, [], 0)

/-- One output row written: 0, or the status of what it fails with. -/
def State.gatherRow (s : State) (c t va stride : Nat) (r : Except Nat (List Byte) × Nat) : State × Nat :=
  match r.1 with
  | .error e => (s, e)
  | .ok bs => s.engineOut c 2 t ((va + r.2 * stride) % 2 ^ 64) bs

/-- Output rows written. When some row cannot be computed or written, each of the others is written or not by a free bit: the set is
not specified (R308). -/
def State.gatherWrite (s : State) (c t va stride : Nat) (rows : List (Except Nat (List Byte))) : State × Nat :=
  let fails := rows.zipIdx.map fun r => (s.gatherRow c t va stride r).2 != 0
  (rows.zipIdx.zip fails).foldl (fun acc x =>
    let f := if fails.contains true && !x.2 then acc.1.freeNat 1 else (1, acc.1)
    if f.1 = 0 then (f.2, acc.2) else
    let w := f.2.gatherRow c t va stride x.1
    (w.1, if acc.2 = 0 then w.2 else acc.2)) (s, 0)

/-- Redirect entries of a table that a unit finds uncorrectable: REDIR_UE is set, and the copy rebuilt from another unless
every copy is lost (R322). -/
def State.redirUpsets (s : State) (t key : Nat) (l : List (Nat × Bool)) : State :=
  l.foldl (fun s x =>
    match s.redirect key x.1 with
    | none => s
    | some _ =>
      { s.setFlag (.filetStatus t) .REDIR_UE true with
        redirects := s.redirects.map fun e => if e.key = key && e.row = x.1 then { e with bad := e.bad || x.2 } else e }) s

/-- The lists a GATHER reads: indices, offsets and weights, each address and bytes. -/
def gatherLists (b : List Byte) : List (Nat × Nat) :=
  let ctrl := fieldAt b 0 4
  let n := fieldAt b 8 4
  [(fieldAt b 0x10 8, n * (if nbits ctrl 7 7 = 1 then 8 else 4))] ++
    (if nbits ctrl 5 4 = 0 then [] else [(fieldAt b 0x18 8, (fieldAt b 4 4 + 1) * 4)]) ++
    (if nbits ctrl 6 6 = 0 then [] else [(fieldAt b 0x20 8, n * 4)])

/-- A GATHER whose lists are there: RESULT, or the status of what fails. -/
def State.gatherWork (s : State) (t c key : Nat) (b : List Byte) : State × Nat × Nat :=
  let ctrl := fieldAt b 0 4
  let size := if nbits ctrl 7 7 = 1 then 8 else 4
  let n := fieldAt b 8 4
  let nb := fieldAt b 4 4
  let list := fun (s : State) va n size => s.engineList (unitKey 2 t 0) c 2 t va n size
  match list s (fieldAt b 0x10 8) n size with
  | (s, .error e) => (s, e, 0)
  | (s, .ok idx) =>
    match (if nbits ctrl 5 4 = 0 then (s, .ok (List.range (n + 1))) else list s (fieldAt b 0x18 8) (nb + 1) 4) with
    | (s, .error e) => (s, e, 0)
    | (s, .ok off) =>
      if !offsetsOk off n then (s, 0x10, 0) else
      match (if nbits ctrl 6 6 = 0 then (s, .ok (List.replicate n 0x3F800000)) else list s (fieldAt b 0x20 8) n 4) with
      | (s, .error e) => (s, e, 0)
      | (s, .ok wl) =>
        let items := idx.zip (wl.map binary32.decode)
        let bags := (off.zip off.tail).map fun p => (items.drop p.1).take (p.2 - p.1)
        let g := s.gatherBags t key (nbits ctrl 5 4) (nbits ctrl 11 8) size bags
        let r := g.1.gatherWrite c t (fieldAt b 0x28 8) (fieldAt b 0x0C 4) g.2.1
        (r.1, r.2, (idx.filter (· ≠ padding size)).length + g.2.2 * 2 ^ 32)

/-- FILET_GATHER: the front's next work, a GATHER, runs on an installed table, or is held on a paused one; lists on HOST pages are
read first (R89). `upsets` is the rows whose redirect entry reads uncorrectable, with whether every copy does. -/
def execFiletGather (t : TileId) (upsets : List (Nat × Bool)) (s : State) : Out :=
  .next (s.filetStart t 0 fun s x =>
    let c := x.work.ctx
    let key := filetKey c x.desc
    let k := s.tableOf key
    if !k.installed || gatherBad k x.desc then s.filetEnds t x 0 key 0x10 0 none
    else if k.paused then s.filetHold t x
    else match s.hostNeeds (unitKey 2 t 0) c (gatherLists x.desc) with
      | (s, false) => s.filetWaits t x
      | (s, true) =>
        let r := (s.redirUpsets t key upsets).gatherWork t c key x.desc
        r.1.filetEnds t x 0 key r.2.1 r.2.2 none)

/-! ### SCATTER (Table 10-5, R309 to R311, R315) -/

def scatterBad (b : List Byte) : Bool :=
  let ctrl := fieldAt b 0 4
  let g := nbits ctrl 11 8
  let op := nbits ctrl 5 4
  let ni := fieldAt b 8 4
  nbits ctrl 3 3 ≠ 0 || 1 < op || nbits ctrl 6 6 ≠ 0 || nbits ctrl 15 12 ≠ 0 || nbits ctrl 31 22 ≠ 0 || g < 4 || 6 < g ||
  (op = 1 && fieldAt b 4 4 ≠ 0) || ni = 0 || 2 ^ 20 < ni ||
  fieldAt b 0x10 8 % (if nbits ctrl 7 7 = 1 then 8 else 4) ≠ 0 || fieldAt b 0x20 8 % 64 ≠ 0 || !zeroAt b 0x28 24

/-- The distinct rows of a list, rising, each with the positions where it stands, in list order. -/
def distinctRows (idx : List Nat) : List (Nat × List Nat) :=
  (dedup (idx.mergeSort (· ≤ ·))).map fun r => (r, (idx.zipIdx.filter fun x => x.1 = r).map Prod.snd)

/-- The new elements of a row from its gradients, in list order (R309). -/
def rowUpdate (op scale etype : Nat) (grads : List (List FVal)) (old : List FVal) : List Byte :=
  let f := floatOf etype
  old.zipIdx.flatMap fun x =>
    let gs := grads.map fun g => g.getD x.2 .nan
    let m := (gs.drop 1).foldl (fun a g => round32 (a.add g)) (gs.headD .nan)
    toBytes (f.width / 8) (f.nearest (if op = 0 then tambDrain scale m x.1 else gs.getLastD .nan))

/-- One row's read-modify-write at its shard; the status when it cannot be made. -/
def State.rowApply (s : State) (t key r : Nat) (f : List FVal → List Byte) : State × Nat :=
  let k := s.tableOf key
  let c := key / 64
  match s.rowPlace key r with
  | none => (s, 0x12)
  | some (shard, va) =>
    match s.rowSegs c t shard va k.width true with
    | (s, .error st) => (s, st)
    | (s, .ok segs) =>
      match s.readSegs c segs with
      | (s, none) => (s, 0x12)
      | (s, some b) =>
        match s.writeSegs c segs (f ((floatOf k.etype).elements b)) with
        | (s, true) => (s.serve key shard r, 0)
        | (s, false) => (s, 0x12)

/-- The gradients of the positions of one row; the status of a page that cannot be read. -/
def State.gradRows (s : State) (c t base stride elems gtype : Nat) (pos : List Nat) : State × Except Nat (List (List FVal)) :=
  pos.foldl (fun acc p =>
    match acc.2 with
    | .error e => (acc.1, .error e)
    | .ok l =>
      match acc.1.engineList (unitKey 2 t 0) c 2 t ((base + p * stride) % 2 ^ 64) elems ((floatOf gtype).width / 8) with
      | (s, .error e) => (s, .error e)
      | (s, .ok ws) => (s, .ok (l ++ [ws.map (floatOf gtype).decode]))) (s, .ok [])

/-- One distinct row updated from its gradients: 0, or the status of what fails. -/
def State.scatterRow (s : State) (c t key : Nat) (b : List Byte) (r : Nat × List Nat) : State × Nat :=
  let ctrl := fieldAt b 0 4
  let k := s.tableOf key
  let elems := k.width / ((floatOf k.etype).width / 8)
  match s.gradRows c t (fieldAt b 0x18 8) (fieldAt b 0x0C 4) elems (nbits ctrl 11 8) r.2 with
  | (s, .error e) => (s, e)
  | (s, .ok gs) => s.rowApply t key r.1 (rowUpdate (nbits ctrl 5 4) (fieldAt b 4 4) k.etype gs)

/-- The distinct rows updated: the status, and the rows written. Where some row fails, each other row is written or not by a free
bit, for the set is not specified (R311). -/
def State.scatterRows (s : State) (c t key : Nat) (b : List Byte) (rows : List (Nat × List Nat)) : State × Nat × Nat :=
  let fails := rows.map fun r => (s.scatterRow c t key b r).2 != 0
  (rows.zip fails).foldl (fun acc x =>
    let f := if fails.contains true && !x.2 then acc.1.freeNat 1 else (1, acc.1)
    if f.1 = 0 then (f.2, acc.2) else
    let w := f.2.scatterRow c t key b x.1
    (w.1, if acc.2.1 = 0 then w.2 else acc.2.1, acc.2.2 + if w.2 = 0 then 1 else 0)) (s, 0, 0)

/-- The gradient rows of the positions listed: address and bytes. -/
def gradLists (k : FiletTable) (b : List Byte) (pos : List Nat) : List (Nat × Nat) :=
  let elems := k.width / ((floatOf k.etype).width / 8)
  pos.map fun p => ((fieldAt b 0x18 8 + p * fieldAt b 0x0C 4) % 2 ^ 64, elems * ((floatOf (nbits (fieldAt b 0 4) 11 8)).width / 8))

/-- A SCATTER whose index list is there. It waits for its gradients from the host, and while a row it updates is being migrated. -/
def State.scatterWork (s : State) (t : Nat) (x : Taken) (key : Nat) (idx : List Nat) : State :=
  let c := x.work.ctx
  let b := x.desc
  let k := s.tableOf key
  let size := if nbits (fieldAt b 0 4) 7 7 = 1 then 8 else 4
  let good := idx.map fun r => if r = padding size || k.rows ≤ r then k.rows else r
  let rows := (distinctRows good).filter fun r => r.1 ≠ k.rows
  if rows.any fun r => s.moving key r.1 then s.filetWaits t x else
  match s.hostNeeds (unitKey 2 t 0) c (gradLists k b (rows.flatMap Prod.snd)) with
  | (s, false) => s.filetWaits t x
  | (s, true) =>
    let skipped := (idx.filter fun r => r ≠ padding size && k.rows ≤ r).length
    let scr := s.freeBytes (16 * fieldAt b 8 4)
    let o := scr.2.engineOut c 2 t (fieldAt b 0x20 8) scr.1
    if o.2 ≠ 0 then o.1.filetEnds t x 1 key o.2 0 none else
    let r := o.1.scatterRows c t key b rows
    r.1.filetEnds t x 1 key r.2.1 (r.2.2 + skipped * 2 ^ 32) none

/-- FILET_SCATTER: the front's next work, a SCATTER. -/
def execFiletScatter (t : TileId) (upsets : List (Nat × Bool)) (s : State) : Out :=
  .next (s.filetStart t 1 fun s x =>
    let c := x.work.ctx
    let b := x.desc
    let key := filetKey c b
    let k := s.tableOf key
    let size := if nbits (fieldAt b 0 4) 7 7 = 1 then 8 else 4
    if !k.installed || scatterBad b then s.filetEnds t x 1 key 0x10 0 none
    else if k.paused then s.filetHold t x
    else match s.hostNeeds (unitKey 2 t 0) c [(fieldAt b 0x10 8, fieldAt b 8 4 * size)] with
      | (s, false) => s.filetWaits t x
      | (s, true) =>
        match (s.redirUpsets t key upsets).engineList (unitKey 2 t 0) c 2 t (fieldAt b 0x10 8) (fieldAt b 8 4) size with
        | (s, .error e) => s.filetEnds t x 1 key e 0 none
        | (s, .ok idx) => s.scatterWork t x key idx)

/-! ### INSTALL (Table 10-3, R304, R305) -/

def installTable (b : List Byte) (paused : Bool) : FiletTable :=
  { installed := true, etype := nbits (fieldAt b 0 4) 11 8, width := fieldAt b 4 4, rows := fieldAt b 8 8,
    base := fieldAt b 0x10 8, span := fieldAt b 0x18 8, spill := fieldAt b 0x20 4, report := fieldAt b 0x28 8,
    paused := paused }

def installBad (b : List Byte) : Bool :=
  let ctrl := fieldAt b 0 4
  let k := installTable b false
  nbits ctrl 7 3 ≠ 0 || nbits ctrl 15 12 ≠ 0 || nbits ctrl 31 22 ≠ 0 || k.etype < 4 || 8 < k.etype ||
  k.width < 32 || 1024 < k.width || k.width % 32 ≠ 0 || k.rows = 0 || 2 ^ 36 < k.rows || k.base % 0x10000 ≠ 0 ||
  k.span % 0x10000 ≠ 0 || k.span < ((k.rows + 31) / 32 + k.spill) * k.width || 2 ^ 48 < k.base + 32 * k.span ||
  1024 < k.spill || fieldAt b 0x24 4 ≠ 0 || k.report % 256 ≠ 0 || !zeroAt b 0x30 16

/-- The pages R304 checks: 0, or the status of the first that fails. -/
def State.installPages (s : State) (c t : Nat) (k : FiletTable) : State × Nat :=
  let r := (List.range 32).foldl (fun (acc : State × Nat) sh =>
    if acc.2 ≠ 0 then acc else
    match acc.1.rowSegs c t sh (k.spillAddr sh 0) (k.spill * k.width) true with
    | (s, .error e) => (s, e)
    | (s, .ok _) => (s, 0)) (s, 0)
  if r.2 ≠ 0 || k.report = 0 then r else
  match r.1.mapRange c 2 t k.report 0x2000 true with
  | (s, .error (.access _)) => (s, 0x11)
  | (s, .error (.uncorr _)) => (s, 0x12)
  | (s, .ok _) => (s, 0)

/-- A table's redirect entries and load counters gone. -/
def State.dropRedirects (s : State) (key : Nat) : State :=
  { s with redirects := s.redirects.filter fun e => e.key ≠ key, loads := s.loads.filter fun e => e.1 / 32 ≠ key }

/-- A migration that the end of its table ends: nothing is switched, and its record says OK or BUSY, which the spec leaves open. -/
def State.cancelMove (s : State) (t : Nat) : State :=
  let f := s.freeNat 1
  let u := f.2.filetOf t
  f.2.setFilet t { u with cur := u.cur.map fun v => { v with move := none, status := if f.1 = 0 then 0 else 0x14, result := 0 } }

/-- A table's redirect entries, spill slots and migrations no longer exist (R305, R320). -/
def State.clearTable (s : State) (key : Nat) : State :=
  (List.range 32).foldl (fun s t => match (s.filetOf t).cur.bind FiletCur.move with
    | some m => if m.key = key then s.cancelMove t else s
    | none => s) (s.dropRedirects key)

/-- FILET_INSTALL: a new table, or the replacement of a paused one. -/
def execFiletInstall (t : TileId) (s : State) : Out :=
  .next (s.filetStart t 2 fun s x =>
    let c := x.work.ctx
    let key := filetKey c x.desc
    let old := s.tableOf key
    let ends := fun (s : State) st => s.filetEnds t x 2 key st 0 none
    if installBad x.desc || (old.installed && !old.paused) then ends s 0x10 else
    let k := installTable x.desc old.installed
    let r := s.installPages c t k
    if r.2 ≠ 0 then ends r.1 r.2
    else if s.redirFree + (if old.installed then 32 * old.spill else 0) < 32 * k.spill then ends r.1 0x14
    else ends ((r.1.clearTable key).setTable key k) 0)

/-! ### PAUSE, RESUME and UNINSTALL (R317 to R320) -/

/-- Are the bits of a descriptor beside KIND and TABLE zero? -/
def onlyTable (b : List Byte) (upTo : Nat) : Bool :=
  nbits (fieldAt b 0 4) 15 3 = 0 && nbits (fieldAt b 0 4) 31 22 = 0 && zeroAt b upTo (64 - upTo)

/-- FILET_PAUSE: the table is paused in every unit at once. -/
def execFiletPause (t : TileId) (s : State) : Out :=
  .next (s.filetStart t 3 fun s x =>
    let key := filetKey x.work.ctx x.desc
    let k := s.tableOf key
    if !onlyTable x.desc 4 || !k.installed || k.paused then s.filetEnds t x 3 key 0x10 0 none
    else (s.setTable key { k with paused := true }).filetEnds t x 3 key 0 0 none)

/-- The held works of a table released, each unit's in the order held. -/
def State.releaseWorks (s : State) (key : Nat) : State :=
  (List.range 32).foldl (fun s u =>
    let f := s.filetOf u
    s.setFilet u { f with
      released := f.released ++ f.held.filter (fun h => h.key = key), held := f.held.filter fun h => h.key ≠ key }) s

/-- The held works of a table gone: their records are aborted by the reset (R330). -/
def State.dropHeld (s : State) (key : Nat) : State :=
  { s with filet := smMap (fun _ => FiletUnit.idle) (fun _ f => { f with held := f.held.filter fun h => h.key ≠ key }) s.filet }

/-- FILET_RESUME: every held work of the table is released; in the first cycle of its context's reset the table resumes with none. -/
def execFiletResume (t : TileId) (s : State) : Out :=
  .next (s.filetStart t 4 fun s x =>
    let key := filetKey x.work.ctx x.desc
    let k := s.tableOf key
    if !onlyTable x.desc 4 || !(k.installed && k.paused) then s.filetEnds t x 4 key 0x10 0 none
    else
      let s := s.setTable key { k with paused := false }
      if s.ctxLive x.work.ctx then (s.releaseWorks key).filetEnds t x 4 key 0 0 none
      else (s.dropHeld key).setFilet t { (s.dropHeld key).filetOf t with taken := none })

/-- FILET_UNINSTALL: the table's held works end BUSY, and its entries, slots and ID are free. -/
def execFiletUninstall (t : TileId) (s : State) : Out :=
  .next (s.filetStart t 6 fun s x =>
    let key := filetKey x.work.ctx x.desc
    let k := s.tableOf key
    if !onlyTable x.desc 4 || !(k.installed && k.paused) then s.filetEnds t x 6 key 0x10 0 none
    else
      let s := (s.clearTable key).setTable key FiletTable.none
      let s := (List.range 32).foldl (fun s u =>
        let f := s.filetOf u
        let s := s.setFilet u { f with held := f.held.filter fun h => h.key ≠ key }
        (f.held.filter fun h => h.key = key).foldl (fun s h =>
          let x := s.freeNat 32
          x.2.endEngineWork h.work 2 u 0 0x14 0 x.1) s) s
      s.filetEnds t x 6 key 0 0 none)

/-! ### MIGRATE (Table 10-7, R314, R315) -/

/-- The spill slots of a shard that no row and no migration uses. -/
def State.freeSlots (s : State) (key tile : Nat) : List Nat :=
  let moves := s.filet.filterMap fun e => match e.2.cur with
    | some u => u.move
    | none => none
  (List.range (s.tableOf key).spill).filter fun i =>
    !(s.redirects.any fun e => e.key = key && e.tile = tile && e.slot = i) &&
    !(moves.any fun m => m.key = key && m.tile = tile && m.slot = some i)

/-- RESULT of a migration: its tile, and the slot or 0xFFFF for home. -/
def moveResult (tile : Nat) (slot : Option Nat) : Nat := tile + (slot.getD 0xFFFF) * 2 ^ 32

/-- FILET_MIGRATE: the row is marked and its new place taken, or the work is refused. Which free slot is taken is a free
choice: the spec names none. A row whose entry is lost in every copy ends it with UNCORR_MEM (R322); `upsets` as for a gather. -/
def execFiletMigrate (t : TileId) (upsets : List (Nat × Bool)) (s : State) : Out :=
  .next (s.filetStart t 5 fun s x =>
    let b := x.desc
    let key := filetKey x.work.ctx b
    let k := s.tableOf key
    let tile := fieldAt b 4 4
    let row := fieldAt b 8 8
    let ends := fun (s : State) st res mv => s.filetEnds t x 5 key st res mv
    let bits := nbits (fieldAt b 0 4) 15 3 = 0 && nbits (fieldAt b 0 4) 31 22 = 0 && zeroAt b 0x10 48
    if !bits || 32 ≤ tile || !k.installed || k.paused || k.rows ≤ row then ends s 0x10 0 none else
    let s := s.redirUpsets t key (upsets.filter fun y => y.1 = row)
    let home := row % 32
    let e := s.redirect key row
    let lies := match e with
      | some x => x.tile
      | none => home
    let free := s.freeSlots key tile
    if s.moving key row then ends s 0x14 0 none
    else if e.any Redirect.bad then ends s 0x12 0 none
    else if lies = tile then ends s 0 (moveResult tile (e.map Redirect.slot)) none
    else if 32 * k.spill ≤ (s.redirects.filter fun x => x.key = key).length then ends s 0x14 0 none
    else if tile = home then ends s 0 (moveResult tile none) (some { key := key, row := row, tile := tile, slot := none })
    else if free = [] then ends s 0x14 0 none
    else
      let f := s.freeNat 32
      let slot := free.getD (f.1 % free.length) 0
      ends f.2 0 (moveResult tile (some slot)) (some { key := key, row := row, tile := tile, slot := some slot }))

/-- The slice copied to its new place, the entry switched in every copy, the old slot free: or the status of a place that
cannot be read or written, and nothing switched (R315). -/
def State.switchRow (s : State) (t : Nat) (m : FiletMove) : State × Nat :=
  let k := s.tableOf m.key
  let c := m.key / 64
  match s.rowPlace m.key m.row with
  | none => (s, 0x12)
  | some (shard, va) =>
    match s.rowSegs c t shard va k.width false with
    | (s, .error e) => (s, e)
    | (s, .ok src) =>
      match s.readSegs c src with
      | (s, none) => (s, 0x12)
      | (s, some b) =>
        let dest := match m.slot with
          | some i => k.spillAddr m.tile i
          | none => k.home m.row
        match s.rowSegs c t m.tile dest k.width true with
        | (s, .error e) => (s, e)
        | (s, .ok dst) =>
          match s.writeSegs c dst b with
          | (s, false) => (s, 0x12)
          | (s, true) =>
            let rest := s.redirects.filter fun e => !(e.key = m.key && e.row = m.row)
            ({ s with redirects := match m.slot with
                | some i => rest ++ [{ key := m.key, row := m.row, tile := m.tile, slot := i, bad := false }]
                | none => rest }, 0)

/-! ### The end (R303, R317, R319) -/

/-- The work of a front ends: its record and knot arrival; a work released from a hold ends HELD when it carries a record. -/
def State.filetDone (s : State) (t : Nat) (u : FiletCur) (status : Nat) : State :=
  let s := s.setFilet t { s.filetOf t with cur := none }
  let st := if status = 0 && u.washeld && u.work.crec then 0x19 else status
  s.endEngineWork u.work 2 t 0 st u.result (if st = 0 then 0 else u.detail)

/-- The PAUSEs that wait for the works of a table end with the last of them (R317). -/
def State.endPauses (s : State) (key : Nat) : State :=
  if s.tableBusy key then s else
  (List.range 32).foldl (fun s i =>
    match (s.filetOf i).cur with
    | some v => if v.kind = 3 && v.status = 0 && v.key = key && s.ctxLive v.work.ctx then s.filetDone i v 0 else s
    | none => s) s

/-- FILET_WORK_END: the work of a front ends. A migration switches its row first; a PAUSE ends only when no GATHER, SCATTER or
migration of its table runs on any front, and one that waits ends with the last of them. -/
def execFiletWorkEnd (t : TileId) (s : State) : Out :=
  .next (match (s.filetOf t).cur with
    | none => s
    | some u =>
      if !s.ctxLive u.work.ctx && !s.bankEnds u.work.ctx u.status then s
      else if u.kind = 3 then (if u.status = 0 && s.tableBusy u.key then s else s.filetDone t u u.status)
      else match u.move with
      | none => (s.filetDone t u u.status).endPauses u.key
      | some m =>
        let r := s.switchRow t m
        let f := if r.2 = 0 then (u.detail, r.1) else r.1.freeNat 32
        (f.2.filetDone t { u with detail := f.1, result := if r.2 = 0 then u.result else 0 } r.2).endPauses m.key)

/-! ### Allocation (R301, R321) -/

/-- Has context c works queued, running, released or held on a unit? -/
def FiletUnit.uses (u : FiletUnit) (c : Nat) : Bool :=
  u.queue.any (·.ctx = c) || u.released.any (·.work.ctx = c) || u.held.any (·.work.ctx = c) ||
    u.busy.map Prod.fst = some c

/-- A write of FILET.ALLOC: a bit whose context has works on the unit is not cleared. -/
def State.filetAlloc (s : State) (t mask : Nat) : State :=
  let old := s.fld (.filetAlloc t) .CTXMASK
  let keep := allContexts.filter fun c => old.testBit c && !mask.testBit c && (s.filetOf t).uses c
  let s := s.setFld (.filetAlloc t) .CTXMASK (keep.foldl (fun m c => m ||| 2 ^ c) mask)
  if keep = [] then s else s.setFlag (.filetStatus t) .ALLOC_REFUSED true

def execFiletAllocWrite (t : TileId) (mask : W16) (s : State) : Out := .next (s.filetAlloc t mask.toNat)

end Sys2Proof.Machine
end

