-- ==== Sys2Proof/Machine/FolioOps.lean ====
section
/-!
DEFINITION. Folio pools, quotas, sequences and the start and end of a Folio work (R331 to R340, R353, R358).
-/
namespace Sys2Proof.Machine

/-! ### Sequences (R335, R336) -/

/-- Bytes of a stored slice, and tokens of a folio. -/
def FolioSeq.kb (q : FolioSeq) : Nat := tambRow q.sfmt q.dim
def FolioSeq.tpf (q : FolioSeq) : Nat := if q.kb = 0 then 0 else 65536 / (2 * q.kb)

/-- Folios that n tokens take. -/
def FolioSeq.folios (q : FolioSeq) (n : Nat) : Nat := if q.tpf = 0 then 0 else (n + q.tpf - 1) / q.tpf

/-- Locked by a RESERVE, or by a QUANT entry in progress. -/
def FolioSeq.locked (q : FolioSeq) : Bool := q.lockid ≠ 0 || q.quant

/-- Locked by a RESERVE under a LOCKID. -/
def FolioSeq.under (q : FolioSeq) (lockid : Nat) : Bool := q.lockid ≠ 0 && q.lockid = lockid

/-- Package physical address of local folio i of a tile (R331). -/
def State.folioPa (s : State) (t i : Nat) : Nat := t * 0x200000000 + (s.fld (.folioPool t) .BASE_F + i) * 0x10000

/-- Package physical address of the key slice of token n; the value slice follows it. -/
def State.tokenPa (s : State) (q : FolioSeq) (n : Nat) : Nat :=
  s.folioPa q.home (q.chain.getD (n / q.tpf) 0) + n % q.tpf * (2 * q.kb)

/-- The sequences of context c. -/
def State.seqsOf (s : State) (c : Nat) : List (Nat × FolioSeq) := s.seqs.filter fun e => e.1 / 4096 = c && e.2.opened

/-- USED of a context: the folios its sequences hold. -/
def State.folioUsed (s : State) (c : Nat) : Nat := ((s.seqsOf c).map fun e => e.2.chain.length).sum

/-- Free sequence entries of a unit. -/
def State.seqFree (s : State) (t : Nat) : Nat := 2048 - (s.seqs.filter fun e => e.2.opened && e.2.home = t).length

/-! ### Folios (R332 to R334) -/

/-- The PF's Folio vector where a tile's FREE, n before, now lies below a non-zero LOW (R353). -/
def State.freeFell (s : State) (t n : Nat) : State :=
  let low := s.fld (.folioFree t) .LOW
  if (s.folioOf t).free.length < low && low ≤ n then s.pfEvent 11 else s

/-- n free folios of a tile's pool, which ones is a free choice; the PF's Folio vector when FREE falls below LOW (R353). -/
def State.takeFolios (s : State) (t : Nat) : Nat → State × List Nat
  | 0 => (s, [])
  | n + 1 =>
    let u := s.folioOf t
    let f := s.freeNat 32
    let i := u.free.getD (f.1 % u.free.length) 0
    let s := f.2.setFolio t { f.2.folioOf t with free := u.free.filter (· ≠ i) }
    let r := (s.freeFell t u.free.length).takeFolios t n
    (r.1, i :: r.2)

/-- Folios that leave a sequence: to be zeroed before they are free again. -/
def State.freeFolios (s : State) (t : Nat) (l : List Nat) : State :=
  s.setFolio t { s.folioOf t with zeroing := (s.folioOf t).zeroing ++ l }

/-- A folio zeroed by full-line writes, which clear poison (R334, R357). -/
def State.zeroFolio (s : State) (t i : Nat) : State :=
  let lo := s.folioPa t i
  let within := fun (a : Nat) => decide (lo ≤ a ∧ a < lo + 0x10000)
  { s with
    mem := s.mem.filter fun e => !within e.1
    poison := s.poison.filter fun e => !within (e.1 * 64)
    zmap := s.zmap.filter fun e => !within (e.1 * 64)
    dir := s.dir.filter fun e => !within (e.line * 64) }

/-- A sequence cut to the folios that n tokens need; the rest are freed. -/
def State.cutSeq (s : State) (key n : Nat) : State :=
  let q := s.seqOf key
  let keep := q.folios n
  (s.freeFolios q.home (q.chain.drop keep)).setSeq key { q with chain := q.chain.take keep }

/-! ### Writes of the registers (R332, R333, R337) -/

def State.folioFields (s : State) (t base count : Nat) : State :=
  (s.setFld (.folioPool t) .BASE_F base).setFld (.folioPool t) .COUNT count

def State.folioCfgErr (s : State) (t : Nat) : State := s.setFlag (.folioStatus t) .CFG_ERR true

/-- A write of FOLIO.POOL with ENABLE = 1. -/
def State.folioEnable (s : State) (t base count : Nat) : State :=
  let r := Reg.folioPool t
  if s.flag r .ENABLE then
    if s.fld r .BASE_F = base && s.fld r .COUNT = count then s else s.folioCfgErr t
  else
    let s := s.folioFields t base count
    if count = 0 || 32768 < count || 131072 < base + count then s.folioCfgErr t
    else ((s.setFlag r .ENABLE true).setFlag r .INIT true).setFolio t
      { s.folioOf t with free := [], zeroing := (List.range count).filter fun i => !(s.folioOf t).lost.contains (base + i) }

def execFolioPoolEnable (t : TileId) (base : BitVec 17) (count : W16) (s : State) : Out :=
  .next (s.folioEnable t base.toNat count.toNat)

/-- FOLIO_POOL_INIT_DONE: every folio of the pool is zeroed and free. -/
def execFolioPoolInitDone (t : TileId) (s : State) : Out :=
  .next <|
    if !s.flag (.folioPool t) .INIT then s else
    let u := s.folioOf t
    let s := u.zeroing.foldl (fun s i => s.zeroFolio t i) s
    (s.setFolio t { u with free := u.free ++ u.zeroing, zeroing := [] }).setFlag (.folioPool t) .INIT false

/-- The pool taken out of use: no folio is free. -/
def State.folioOff (s : State) (t : Nat) : State :=
  let r := Reg.folioPool t
  let n := (s.folioOf t).free.length
  (((s.setFlag r .ENABLE false).setFlag r .INIT false).setFolio t { s.folioOf t with free := [], zeroing := [] }).freeFell t n

/-- A write of FOLIO.POOL with ENABLE = 0: refused while a folio of the pool belongs to a sequence. Of an enabled pool it does not
change BASE_F or COUNT. -/
def State.folioDisable (s : State) (t base count : Nat) : State :=
  let r := Reg.folioPool t
  if !s.flag r .ENABLE then s.folioFields t base count else
  let s := if s.fld r .BASE_F = base && s.fld r .COUNT = count then s else s.folioCfgErr t
  if s.seqs.any fun e => e.2.opened && e.2.home = t && e.2.chain ≠ [] then s.folioCfgErr t else s.folioOff t

def execFolioPoolDisable (t : TileId) (base : BitVec 17) (count : W16) (s : State) : Out :=
  .next (s.folioDisable t base.toNat count.toNat)

/-- FOLIO_ZEROED: a folio that is being zeroed rejoins FREE. -/
def execFolioZeroed (t : TileId) (folio : BitVec 15) (s : State) : Out :=
  let u := s.folioOf t
  let i := folio.toNat
  .next (if u.zeroing.contains i then
    (s.zeroFolio t i).setFolio t { u with free := u.free ++ [i], zeroing := u.zeroing.filter (· ≠ i) } else s)

/-- Has context c works queued or running on a unit? -/
def FolioUnit.uses (u : FolioUnit) (c : Nat) : Bool :=
  u.queue.any (·.ctx = c) || u.busy.map Prod.fst = some c

/-- A write of FOLIO.ALLOC (R321, R337). -/
def State.folioAlloc (s : State) (t mask : Nat) : State :=
  let old := s.fld (.folioAlloc t) .CTXMASK
  let keep := allContexts.filter fun c => old.testBit c && !mask.testBit c && (s.folioOf t).uses c
  let s := s.setFld (.folioAlloc t) .CTXMASK (keep.foldl (fun m c => m ||| 2 ^ c) mask)
  if keep = [] then s else s.setFlag (.folioStatus t) .ALLOC_REFUSED true

def execFolioAllocWrite (t : TileId) (mask : W16) (s : State) : Out := .next (s.folioAlloc t mask.toNat)

/-- FOLIO_QUOTA_WRITE: the limit of later allocations. -/
def execFolioQuotaWrite (c : Ctx) (limit : BitVec 21) (s : State) : Out :=
  .next (s.setFld (.folioQuota c) .LIMIT limit.toNat)

/-! ### The start of a work (R338, R339) -/

/-- DETAIL of a Folio record. -/
def folioDetail (index offset cause : Nat) : Nat := min index 0xFFFF <<< 16 ||| offset <<< 8 ||| cause <<< 4

/-- The outcome of a work, as its record is to carry it: status, RESULT and DETAIL. -/
structure FolioEnd where
  status : Nat
  result : Nat
  detail : Nat
deriving DecidableEq, Repr

def FolioEnd.ok (result : Nat) : FolioEnd := { status := 0, result := result, detail := 0 }

/-- ILLEGAL_DESC with cause 3 for the field at an offset. -/
def FolioEnd.badField (offset : Nat) : FolioEnd := { status := 0x10, result := 0, detail := folioDetail 0 offset 3 }

/-- A failure at a list entry: ACCESS is cause 1; a descriptor at an address that is no multiple of 64 is cause 3, the offset free;
the spec names no cause of UNCORR_MEM. -/
def State.folioFail (s : State) (status index : Nat) : State × FolioEnd :=
  if status = 0x11 then (s, { status := 0x11, result := 0, detail := folioDetail index 0 1 })
  else if status = 0x10 then let f := s.freeNat 8; (f.2, { status := 0x10, result := 0, detail := folioDetail 0 f.1 3 })
  else let f := s.freeNat 32; (f.2, { status := status, result := 0, detail := f.1 })

/-- The index of the first of n list entries of `size` bytes at va that a front cannot reach. -/
def State.failIndex (s : State) (key c va n size : Nat) : Nat :=
  let ok := (pagePieces va (n * size)).takeWhile fun p => match s.walk c p.1 false false with
    | .ok _ _ _ => true
    | .host bus => (s.bufOf key).covers { host := true, addr := bus, len := p.2, mcomp := false }
    | _ => false
  (ok.map Prod.snd).sum / size

/-- The list of a work as its front reads it; where that fails, the outcome. -/
def State.folioList (s : State) (c t va n size : Nat) : State × Except FolioEnd (List Nat) :=
  match s.engineList (unitKey 3 t 0) c 3 t va n size with
  | (s, .ok l) => (s, .ok l)
  | (s, .error st) => let f := s.folioFail st (s.failIndex (unitKey 3 t 0) c va n size); (f.1, .error f.2)

/-- KIND and the code of its second form (MODE or DISCARD) of a descriptor. -/
def folioKind (b : List Byte) : Nat := nbits (fieldAt b 0 4) 2 0
def folioMode (b : List Byte) : Nat := nbits (fieldAt b 0 4) 3 3

/-- Where a descriptor has its OUT entries (APPEND) or its OUT and OFFS (BUCKET): address and bytes (R354). -/
def folioOuts (b : List Byte) : List (Nat × Nat) :=
  match folioKind b with
  | 1 => [(fieldAt b 0x28 8, 8 * min (fieldAt b 4 4) 4096)]
  | 7 => [(fieldAt b 0x10 8, 8 * min (fieldAt b 4 4) 65536), (fieldAt b 0x18 8, 4 * (nbits (fieldAt b 0 4) 15 12 + 3))]
  | _ => []

/-- The first offset whose condition holds. -/
def firstBad : List (Nat × Bool) → Option Nat
  | [] => none
  | (o, c) :: l => if c then some o else firstBad l

/-- A work that is to end with an outcome; `reads` is the sequence that a FETCH reads. -/
def State.folioEnds (s : State) (t : Nat) (x : Taken) (e : FolioEnd) (reads : Option Nat) : State :=
  let u : FolioCur :=
    { work := x.work, stroke := x.stroke, kind := folioKind x.desc, status := e.status, result := e.result, detail := e.detail,
      reads := reads, outs := folioOuts x.desc, append := none }
  ((s.countStart 3 t 0).setBuf (unitKey 3 t 0) HostBuf.empty).setFolio t { s.folioOf t with taken := none, cur := some u }

/-- The front keeps a work that it has taken and cannot run yet (R338). -/
def State.folioWaits (s : State) (t : Nat) (x : Taken) : State := s.setFolio t { s.folioOf t with taken := some x }

/-- A work whose descriptor is read, run when its KIND and mode are those named. -/
def State.folioRun (s : State) (t : Nat) (isKind : List Byte → Bool) (x : Taken) (body : State → Taken → State) : State :=
  if isKind x.desc then body s x else s.folioWaits t x

/-- A work that the front has taken goes on: its descriptor is read once (R338); one that cannot be read ends it. -/
def State.folioGo (s : State) (t : Nat) (isKind : List Byte → Bool) (x : Taken) (body : State → Taken → State) : State :=
  if x.desc ≠ [] then s.folioRun t isKind x body else
  match s.readDesc (unitKey 3 t 0) x.work.ctx 3 t x.work.desc 64 64 with
  | (s, .waits) => s.folioWaits t x
  | (s, .fails st) => let f := s.folioFail st 0; f.1.folioEnds t x f.2 none
  | (s, .bytes b) => s.folioRun t isKind { x with desc := b } body

/-- An idle front goes on with the work it has taken, or takes the head of its queue. -/
def State.folioStart (s : State) (t : Nat) (isKind : List Byte → Bool) (body : State → Taken → State) : State :=
  let u := s.folioOf t
  match u.cur, u.taken, u.queue with
  | none, some x, _ => if s.ctxLive x.work.ctx then s.folioGo t isKind x body else s
  | none, none, w :: ws =>
    if w.held || !s.ctxLive w.ctx then s else
    ((s.setBuf (unitKey 3 t 0) HostBuf.empty).setFolio t { u with queue := ws }).folioGo t isKind
      { work := w, stroke := s.count, desc := [], washeld := false } body
  | _, _, _ => s

/-- The key of a SID field of context c. -/
def seqKey (c sid : Nat) : Nat := 4096 * c + sid

/-- A sequence entry or chain entry that reads uncorrectable (R358). -/
def State.tableError (s : State) (key : Nat) (b : Bool) : State :=
  let q := s.seqOf key
  if b && q.opened then (s.setSeq key { q with bad := true }).setFlag (.folioStatus q.home) .TABLE_UE true else s

/-- Entries of the context's sequences that read uncorrectable. -/
def State.tableErrors (s : State) (c : Nat) (sids : List (BitVec 12)) : State :=
  sids.foldl (fun s i => s.tableError (seqKey c i.toNat) true) s

end Sys2Proof.Machine
end

