-- ==== Sys2Proof/Machine/Folio.lean ====
section
/-!
DEFINITION. The Folio works: OPEN, APPEND, WRITE, COMMIT, FETCH, TRUNCATE, CLOSE and BUCKET (Tables 11-3 to 11-7, R341 to
R351), and the end of a work.
-/
namespace Sys2Proof.Machine

/-! ### OPEN, TRUNCATE and CLOSE (R341, R342) -/

/-- CTRL bits beside KIND that are set and may not be. -/
def ctrlExtra (b : List Byte) (allowed : Nat) : Bool := fieldAt b 0 4 &&& (0xFFFFFFF8 &&& (0xFFFFFFFF ^^^ allowed)) ≠ 0

/-- FOLIO_OPEN: a sequence with LEN 0. -/
def execFolioOpen (t : TileId) (s : State) : Out :=
  .next (s.folioStart t (fun b => folioKind b = 0) fun s x =>
    let b := x.desc
    let sid := fieldAt b 4 4
    let dim := fieldAt b 8 4
    let home := fieldAt b 0x0C 4
    let sfmt := nbits (fieldAt b 0 4) 11 8
    let key := seqKey x.work.ctx sid
    match firstBad [(0, ctrlExtra b 0xF00 || (tambFmt sfmt).isNone), (4, 4096 ≤ sid || (s.seqOf key).opened),
        (8, dim < 32 || 2048 < dim || dim % 32 ≠ 0), (0x0C, 32 ≤ home), (0x10, !zeroAt b 0x10 48)] with
    | some o => s.folioEnds t x (.badField o) none
    | none =>
      if !s.flag (.folioPool home) .ENABLE then
        s.folioEnds t x { status := 0x10, result := 0, detail := folioDetail 0 0 7 } none
      else if s.seqFree home = 0 then
        let f := s.freeNat 32
        f.2.folioEnds t x { status := 0x14, result := 0, detail := f.1 } none
      else
        let q : FolioSeq := { FolioSeq.none with opened := true, home := home, dim := dim, sfmt := sfmt }
        (s.setSeq key q).folioEnds t x (.ok q.tpf) none)

/-- Does a running FETCH read the sequence? -/
def State.fetching (s : State) (key : Nat) : Bool :=
  s.folio.any fun e => match e.2.cur with
    | some u => u.reads = some key
    | none => false

/-- What TRUNCATE, CLOSE and FETCH find first: an entry in error, a SID that is not open, else the sequence. -/
def State.findSeq (s : State) (key : Nat) : Except (State × FolioEnd) FolioSeq :=
  let q := s.seqOf key
  if !q.opened then .error (s, { status := 0x10, result := 0, detail := folioDetail 0 0 4 })
  else if q.bad then .error (s.folioFail 0x12 0)
  else .ok q

/-- BUSY of a locked sequence. -/
def FolioEnd.locked : FolioEnd := { status := 0x14, result := 0, detail := folioDetail 0 0 5 }

/-- A TRUNCATE that the front has taken: LEN shortened, folios freed, TORN cleared; it waits for a FETCH of the sequence. -/
def State.truncateWork (s : State) (t : Nat) (x : Taken) : State :=
  let b := x.desc
  let sid := fieldAt b 4 4
  let n := fieldAt b 8 4
  let key := seqKey x.work.ctx sid
  match firstBad [(0, ctrlExtra b 0), (4, 4096 ≤ sid), (0x0C, !zeroAt b 0x0C 52)] with
  | some o => s.folioEnds t x (.badField o) none
  | none =>
    match s.findSeq key with
    | .error (s, e) => s.folioEnds t x e none
    | .ok q =>
      if q.locked then s.folioEnds t x .locked none
      else if q.len < n then s.folioEnds t x (.badField 8) none
      else if s.fetching key then s.folioWaits t x
      else
        let s := (s.setSeq key { q with len := n, torn := false }).cutSeq key n
        s.folioEnds t x (.ok (q.chain.length - (s.seqOf key).chain.length)) none

/-- FOLIO_TRUNCATE. -/
def execFolioTruncate (t : TileId) (tableError : Bool) (s : State) : Out :=
  .next (s.folioStart t (fun b => folioKind b = 5) fun s x =>
    (s.tableError (seqKey x.work.ctx (fieldAt x.desc 4 4)) tableError).truncateWork t x)

/-- A sequence whose entry is in error closed: the folios that can still be traced are freed, each by a free choice, and the others
are lost (R358). -/
def State.closeBad (s : State) (key : Nat) : State :=
  let q := s.seqOf key
  let s := q.chain.foldl (fun s i =>
    let f := s.freeNat 1
    if f.1 = 1 then f.2.freeFolios q.home [i]
    else f.2.setFolio q.home
      { f.2.folioOf q.home with lost := (f.2.folioOf q.home).lost ++ [f.2.fld (.folioPool q.home) .BASE_F + i] }) s
  s.setSeq key FolioSeq.none

/-- A CLOSE that the front has taken: every folio freed and the SID free. Of a sequence whose entry is in error the work ends
UNCORR_MEM. -/
def State.closeWork (s : State) (t : Nat) (x : Taken) : State :=
  let b := x.desc
  let sid := fieldAt b 4 4
  let key := seqKey x.work.ctx sid
  match firstBad [(0, ctrlExtra b 0), (4, 4096 ≤ sid), (8, !zeroAt b 8 56)] with
  | some o => s.folioEnds t x (.badField o) none
  | none =>
    if (s.seqOf key).bad then
      let e := (s.closeBad key).folioFail 0x12 0
      e.1.folioEnds t x e.2 none
    else
      match s.findSeq key with
      | .error (s, e) => s.folioEnds t x e none
      | .ok q =>
        if q.locked then s.folioEnds t x .locked none
        else if s.fetching key then s.folioWaits t x
        else ((s.freeFolios q.home q.chain).setSeq key FolioSeq.none).folioEnds t x (.ok q.chain.length) none

/-- FOLIO_CLOSE. -/
def execFolioClose (t : TileId) (tableError : Bool) (s : State) : Out :=
  .next (s.folioStart t (fun b => folioKind b = 6) fun s x =>
    (s.tableError (seqKey x.work.ctx (fieldAt x.desc 4 4)) tableError).closeWork t x)

/-! ### APPEND (Table 11-4, R343 to R346) -/

/-- The first refused condition of Table R343: (STATUS, CAUSE); none for an entry that is accepted. -/
def State.appendTest (s : State) (c key ntok lockid : Nat) : Option (Nat × Nat) :=
  let q := s.seqOf key
  let need := q.folios (q.len + q.res + ntok) - q.chain.length
  if !q.opened then some (0x10, 4)
  else if ntok = 0 || 65536 < ntok || 16777215 < q.len + q.res + ntok then some (0x10, 3)
  else if q.torn then some (0x16, 0)
  else if q.locked && !q.under lockid then some (0x14, 5)
  else if need ≠ 0 && s.fld (.folioQuota c) .LIMIT < s.folioUsed c + need then some (0x15, 6)
  else if (s.folioOf q.home).free.length < need then some (0x15, 7)
  else none

/-- An OUT entry: STATUS, CAUSE, zero, FIRST. -/
def outEntry (status cause first : Nat) : List Byte := toBytes 1 status ++ toBytes 1 cause ++ toBytes 2 0 ++ toBytes 4 first

/-- The folios an accepted entry needs allocated to its chain. -/
def State.growSeq (s : State) (key ntok : Nat) : State :=
  let q := s.seqOf key
  let r := s.takeFolios q.home (q.folios (q.len + q.res + ntok) - q.chain.length)
  r.1.setSeq key { q with chain := q.chain ++ r.2 }

/-- Byte offset, in a list entry, of the field that makes it ILLEGAL_DESC with cause 3: NTOK. -/
def causeOffset (cause : Nat) : Nat := if cause = 3 then 4 else 0

/-- A row of ITYPE in the stored form: unchanged where the two are equal (R344). -/
def storeRow (itype sfmt : Nat) (b : List Byte) : List Byte :=
  if itype = sfmt then b else
  let vs := match tambFmt itype with
    | some f => f.values b
    | none => []
  match tambFmt sfmt with
  | some (.fp f) => vs.flatMap fun v => toBytes (f.width / 8) (f.encode .nearest true 0 v)
  | some (.qb q) => (groupsOf 32 vs.length vs).flatMap fun g => q.encodeBlock .nearest [] g
  | none => []

/-- Bytes stored in a folio at its home: false when a write completes with UNCORR_MEM. -/
def State.folioPut (s : State) (c pa : Nat) (bs : List Byte) : State × Bool := s.homeWrite (some c) false (cellsFrom pa bs)

/-- Bytes of a row at a context virtual address, or the status it ends with. -/
def State.folioRow (s : State) (c t va n : Nat) : State × Except Nat (List Byte) :=
  match s.engineList (unitKey 3 t 0) c 3 t (va % 2 ^ 64) n 1 with
  | (s, .error e) => (s, .error e)
  | (s, .ok l) => (s, .ok (l.map fun x => BitVec.ofNat 8 x))

/-- One token written: its key and value rows read, put through `f`, and stored. 0, or the status of a failure. -/
def State.storeToken (s : State) (c t : Nat) (q : FolioSeq) (n kva vva size : Nat) (f : List Byte → List Byte) : State × Nat :=
  match s.folioRow c t kva size with
  | (s, .error e) => (s, e)
  | (s, .ok k) =>
    match s.folioRow c t vva size with
    | (s, .error e) => (s, e)
    | (s, .ok v) =>
      match s.folioPut c (s.tokenPa q n) (f k ++ f v) with
      | (s, true) => (s, 0)
      | (s, false) => (s, 0x12)

/-- The tokens of a QUANT entry stored; 0, or the status of the first failure. -/
def State.quantTokens (s : State) (c t key ntok row : Nat) (b : List Byte) : State × Nat :=
  let q := s.seqOf key
  let itype := nbits (fieldAt b 0 4) 11 8
  (List.range ntok).foldl (fun acc i =>
    if acc.2 ≠ 0 then acc else
    acc.1.storeToken c t q (q.len + i) (fieldAt b 0x10 8 + (row + i) * fieldAt b 0x20 4)
      (fieldAt b 0x18 8 + (row + i) * fieldAt b 0x24 4) (tambRow itype q.dim) (storeRow itype q.sfmt)) (s, 0)

/-- The source rows of a QUANT entry: address and bytes, keys then values. -/
def quantLists (b : List Byte) (dim ntok row : Nat) : List (Nat × Nat) :=
  let size := tambRow (nbits (fieldAt b 0 4) 11 8) dim
  (List.range ntok).flatMap fun i =>
    [((fieldAt b 0x10 8 + (row + i) * fieldAt b 0x20 4) % 2 ^ 64, size),
     ((fieldAt b 0x18 8 + (row + i) * fieldAt b 0x24 4) % 2 ^ 64, size)]

/-- The OUT entry of an entry written: FIRST is free where the spec states none. 0, or the status of a failure. -/
def State.putOut (s : State) (c t : Nat) (b : List Byte) (i status cause : Nat) (first : Option Nat) : State × Nat :=
  let f := match first with
    | some x => (x, s)
    | none => s.freeNat 32
  f.2.engineOut c 3 t ((fieldAt b 0x28 8 + 8 * i) % 2 ^ 64) (outEntry status cause f.1)

/-- The run after an entry that is not OK, with STATUS and DETAIL (R346). -/
def AppendRun.refuse (a : AppendRun) (status detail : Nat) : AppendRun :=
  { a with refused := a.refused + 1, first := some (a.first.getD (status, detail)), uncorr := a.uncorr || status = 0x12 }

/-- The run after the write of entry i's OUT, whose failure stops the work. -/
def State.putRun (c t : Nat) (b : List Byte) (i status cause : Nat) (first : Option Nat) (x : State × AppendRun) : State × AppendRun :=
  let o := x.1.putOut c t b i status cause first
  if o.2 = 0 then (o.1, x.2) else
  let f := o.1.folioFail o.2 i
  (f.1, { x.2 with stopped := true, first := some (x.2.first.getD (o.2, f.2.detail)), uncorr := x.2.uncorr || o.2 = 0x12 })

/-- An entry refused: (STATUS, CAUSE), and the byte offset of a cause 3. -/
def State.appendRefuse (s : State) (c t : Nat) (b : List Byte) (i status cause offset : Nat) (a : AppendRun) : State × AppendRun :=
  let s := if status = 0x15 then (s.addFld (.foliowExhaust c) .COUNT 1).vfEvent c 4 else s
  State.putRun c t b i status cause none (s, a.refuse status (folioDetail i offset cause))

/-- An entry that an ACCESS or UNCORR_MEM stops the work at (R346). -/
def State.appendStop (s : State) (c t : Nat) (b : List Byte) (i status : Nat) (a : AppendRun) : State × AppendRun :=
  let f := s.folioFail status i
  State.putRun c t b i status (if status = 0x11 then 1 else 0) none (f.1, { a.refuse status f.2.detail with stopped := true })

/-- A QUANT entry that is accepted: folios allocated, the sequence locked and its rows stored; where they cannot be, its folios are
freed and the work stops. -/
def State.quantBegin (s : State) (c t i key ntok : Nat) (b : List Byte) (a : AppendRun) :
    State × AppendRun × Option (Nat × Nat × Nat) :=
  let held := (s.seqOf key).chain.length
  let r := (s.growSeq key ntok).quantTokens c t key ntok a.row b
  if r.2 = 0 then (r.1.setSeq key { r.1.seqOf key with quant := true }, a, some (i, key, ntok)) else
  let g := r.1.seqOf key
  let s := (r.1.freeFolios g.home (g.chain.drop held)).setSeq key { g with chain := g.chain.take held }
  let x := s.appendStop c t b i r.2 a
  (x.1, x.2, none)

/-- A RESERVE entry that is accepted. -/
def State.reserveEntry (s : State) (c t i key ntok : Nat) (b : List Byte) (a : AppendRun) : State × AppendRun :=
  let q := s.seqOf key
  let s := s.growSeq key ntok
  let s := s.setSeq key { s.seqOf key with res := q.res + ntok, lockid := fieldAt b 0x30 4 }
  State.putRun c t b i 0 0 (some (q.len + q.res)) (s, { a with tokens := a.tokens + ntok })

/-- The next entry of an APPEND, and the QUANT entry that it leaves in progress. -/
def State.appendEntry (s : State) (c t i : Nat) (b : List Byte) (entry : Nat) (a : AppendRun) :
    State × AppendRun × Option (Nat × Nat × Nat) :=
  let quant := folioMode b = 0
  let key := seqKey c (entry % 2 ^ 16 % 4096)
  let ntok := entry / 2 ^ 32
  let done := fun (x : State × AppendRun) => (x.1, { x.2 with row := x.2.row + ntok }, none)
  if entry % 2 ^ 32 / 2 ^ 12 ≠ 0 then done (s.appendRefuse c t b i 0x10 3 (if entry % 2 ^ 32 / 2 ^ 16 ≠ 0 then 2 else 0) a)
  else if (s.seqOf key).opened && (s.seqOf key).bad then done (s.appendStop c t b i 0x12 a)
  else
    match s.appendTest c key ntok (if quant then 0 else fieldAt b 0x30 4) with
    | some (st, cause) => done (s.appendRefuse c t b i st cause (causeOffset cause) a)
    | none =>
      if quant then
        let x := s.quantBegin c t i key ntok b a
        (x.1, { x.2.1 with row := x.2.1.row + ntok }, x.2.2)
      else done (s.reserveEntry c t i key ntok b a)

/-- The entries of a RESERVE in list order, until a failure stops it. -/
def State.reserveRun (s : State) (c t : Nat) (b : List Byte) (entries : List (Nat × Nat)) (a : AppendRun) : State × AppendRun :=
  entries.foldl (fun acc e =>
    if acc.2.stopped then acc else
    let r := acc.1.appendEntry c t e.1 b e.2 acc.2
    (r.1, r.2.1)) (s, a)

/-- The outcome that an APPEND shows so far (R346). -/
def AppendRun.outcome (a : AppendRun) : FolioEnd :=
  let o := a.first.getD (0, 0)
  { status := o.1, result := a.tokens % 2 ^ 32 + a.refused % 2 ^ 16 * 2 ^ 32, detail := o.2 }

/-- A front's work with the APPEND as it now stands. -/
def State.appendShow (s : State) (t : Nat) (u : FolioCur) (a : AppendCur) : State :=
  let e := a.run.outcome
  s.setFolio t { s.folioOf t with
    cur := some { u with status := e.status, result := e.result, detail := e.detail, append := some a } }

/-- The QUANT entry in progress ends: its last byte is visible, LEN advances and the lock is released (R344). -/
def State.quantClose (s : State) (c t : Nat) (a : AppendCur) : State × AppendCur :=
  match a.going with
  | none => (s, a)
  | some (i, key, ntok) =>
    let q := s.seqOf key
    let s := s.setSeq key { q with len := q.len + ntok, quant := false }
    let r := State.putRun c t a.desc i 0 0 (some (q.len + q.res)) (s, { a.run with tokens := a.run.tokens + ntok })
    (r.1, { a with run := r.2, going := none })

/-- The next QUANT entry begins; it waits while its rows come from the host (R89). -/
def State.quantStart (s : State) (c t : Nat) (a : AppendCur) : State × AppendCur :=
  match a.entries with
  | [] => (s, a)
  | (i, entry) :: es =>
    if a.run.stopped then (s, { a with entries := [] }) else
    let key := seqKey c (entry % 4096)
    let rows := if (s.appendTest c key (entry / 2 ^ 32) 0).isNone then
        quantLists a.desc (s.seqOf key).dim (entry / 2 ^ 32) a.run.row else []
    match s.hostNeeds (unitKey 3 t 0) c rows with
    | (s, false) => (s, a)
    | (s, true) =>
      let r := s.appendEntry c t i a.desc entry a.run
      (r.1.setBuf (unitKey 3 t 0) HostBuf.empty, { a with entries := es, run := r.2.1, going := r.2.2 })

/-- A QUANT work goes on by one entry. -/
def State.quantNext (s : State) (t : Nat) : State :=
  match (s.folioOf t).cur with
  | some u => match u.append with
    | some a =>
      let c := u.work.ctx
      let x := s.quantClose c t a
      let y := x.1.quantStart c t x.2
      y.1.appendShow t u y.2
    | none => s
  | none => s

/-- What is left of a QUANT work run. -/
def State.quantRest (s : State) (t : Nat) : Nat → State
  | 0 => s
  | n + 1 => (s.quantNext t).quantRest t n

/-- Has the front's work entries to run still? -/
def FolioCur.unfinished (u : FolioCur) : Bool := match u.append with
  | some a => a.entries ≠ [] || a.going.isSome
  | none => false

/-- Does a stride of KSRC fall short of a row of some listed open sequence? -/
def State.strideShort (s : State) (c : Nat) (b : List Byte) (entries : List Nat) : Bool :=
  entries.any fun e =>
    let q := s.seqOf (seqKey c (e % 4096))
    q.opened && fieldAt b 0x20 4 < tambRow (nbits (fieldAt b 0 4) 11 8) q.dim

/-- An APPEND whose list is there: every OUT entry PENDING, then the entries, of a QUANT the first. -/
def State.appendBegin (s : State) (t : Nat) (x : Taken) (entries : List Nat) : State :=
  let b := x.desc
  let c := x.work.ctx
  let o := s.engineOut c 3 t (fieldAt b 0x28 8) (entries.flatMap fun _ => outEntry 1 0 0)
  if o.2 ≠ 0 then
    let f := o.1.folioFail o.2 (((o.1.mapPrefix c (fieldAt b 0x28 8) (8 * entries.length)).map Seg.len).sum / 8)
    f.1.folioEnds t x f.2 none
  else
    let l := entries.zipIdx.map fun e => (e.2, e.1)
    let a : AppendRun := { tokens := 0, refused := 0, first := none, row := 0, stopped := false, uncorr := false }
    let u : FolioCur :=
      { work := x.work, stroke := x.stroke, kind := 1, status := 0, result := 0, detail := 0, reads := none, outs := folioOuts b,
        append := none }
    let s := (o.1.countStart 3 t 0).setFolio t { o.1.folioOf t with taken := none }
    if folioMode b = 0 then (s.appendShow t u { desc := b, entries := l, run := a, going := none }).quantNext t
    else
      let r := s.reserveRun c t b l a
      r.1.appendShow t u { desc := b, entries := [], run := r.2, going := none }

/-- APPEND with a MODE. -/
def State.folioAppend (s : State) (t mode : Nat) (errors : List (BitVec 12)) : State :=
  s.folioStart t (fun b => folioKind b = 1 && folioMode b = mode) fun s x =>
    let b := x.desc
    let c := x.work.ctx
    let itype := nbits (fieldAt b 0 4) 11 8
    let n := fieldAt b 4 4
    let quant := mode = 0
    match firstBad [(0, ctrlExtra b 0xF08 || (if quant then itype < 4 || 6 < itype else itype ≠ 0)), (4, n = 0 || 4096 < n),
        (0x30, if quant then fieldAt b 0x30 4 ≠ 0 else fieldAt b 0x30 4 = 0), (0x34, !zeroAt b 0x34 12)] with
    | some o => s.folioEnds t x (.badField o) none
    | none =>
      match s.hostNeeds (unitKey 3 t 0) c [(fieldAt b 8 8, 8 * n)] with
      | (s, false) => s.folioWaits t x
      | (s, true) =>
        match (s.tableErrors c errors).folioList c t (fieldAt b 8 8) n 8 with
        | (s, .error e) => s.folioEnds t x e none
        | (s, .ok entries) =>
          if quant && s.strideShort c b entries then s.folioEnds t x (.badField 0x20) none
          else s.appendBegin t x entries

/-- APPEND_QUANT: the front's work begins, or goes on by one entry. -/
def execAppendQuant (t : TileId) (errors : List (BitVec 12)) (s : State) : Out :=
  .next (match (s.folioOf t).cur with
    | some u =>
      if s.ctxLive u.work.ctx && u.unfinished then (s.tableErrors u.work.ctx errors).quantNext t else s
    | none => s.folioAppend t 0 errors)

/-- APPEND_RESERVE. -/
def execAppendReserve (t : TileId) (errors : List (BitVec 12)) (s : State) : Out := .next (s.folioAppend t 1 errors)

/-! ### WRITE and COMMIT (Table 11-5, R347, R348) -/

/-- The cause of the first entry of a WRITE that fails, and where: 4 for a SID not open, 5 for one not locked under LOCKID;
for a POS outside the reservation one of the two, by a free bit. -/
def State.writeBad (s : State) (c lockid : Nat) (entries : List Nat) : Option (Nat × Option Nat) :=
  entries.zipIdx.findSome? fun e =>
    let q := s.seqOf (seqKey c (e.1 % 4096))
    let pos := e.1 / 2 ^ 32
    if e.1 % 2 ^ 32 / 2 ^ 12 ≠ 0 || !q.opened then some (e.2, some 4)
    else if !q.under lockid then some (e.2, some 5)
    else if pos < q.len || q.len + q.res ≤ pos then some (e.2, none)
    else none

/-- The first entry of a WRITE whose sequence is in error (R358). -/
def State.writeTorn (s : State) (c : Nat) (entries : List Nat) : Option Nat :=
  entries.findIdx? fun e => let q := s.seqOf (seqKey c (e % 4096)); q.opened && q.bad

/-- The slices that a WRITE copies: address and bytes. -/
def State.writeLists (s : State) (c : Nat) (b : List Byte) (entries : List Nat) : List (Nat × Nat) :=
  entries.zipIdx.flatMap fun e =>
    let kb := (s.seqOf (seqKey c (e.1 % 4096))).kb
    [((fieldAt b 0x10 8 + e.2 * fieldAt b 0x20 4) % 2 ^ 64, kb), ((fieldAt b 0x18 8 + e.2 * fieldAt b 0x24 4) % 2 ^ 64, kb)]

/-- The slices of a WRITE stored; 0, or the status and entry of the first failure. -/
def State.writeTokens (s : State) (c t : Nat) (b : List Byte) (entries : List Nat) : State × Nat × Nat :=
  entries.zipIdx.foldl (fun acc e =>
    if acc.2.1 ≠ 0 then acc else
    let q := acc.1.seqOf (seqKey c (e.1 % 4096))
    let r := acc.1.storeToken c t q (e.1 / 2 ^ 32) (fieldAt b 0x10 8 + e.2 * fieldAt b 0x20 4)
      (fieldAt b 0x18 8 + e.2 * fieldAt b 0x24 4) q.kb id
    (r.1, r.2, e.2)) (s, 0, 0)

/-- A WRITE whose list is there: slices copied into reserved tokens, once every entry has passed. -/
def State.writeWork (s : State) (t : Nat) (x : Taken) (entries : List Nat) : State :=
  let b := x.desc
  let c := x.work.ctx
  match s.writeTorn c entries, s.writeBad c (fieldAt b 0x30 4) entries with
  | some i, _ => let f := s.folioFail 0x12 i; f.1.folioEnds t x f.2 none
  | none, some (i, cause) =>
    let f := match cause with
      | some k => (k, s)
      | none => ((s.freeNat 1).1 + 4, (s.freeNat 1).2)
    f.2.folioEnds t x { status := 0x10, result := 0, detail := folioDetail i 0 f.1 } none
  | none, none =>
    match s.hostNeeds (unitKey 3 t 0) c (s.writeLists c b entries) with
    | (s, false) => s.folioWaits t x
    | (s, true) =>
      let r := s.writeTokens c t b entries
      if r.2.1 = 0 then r.1.folioEnds t x (.ok entries.length) none
      else let f := r.1.folioFail r.2.1 r.2.2; f.1.folioEnds t x f.2 none

/-- FOLIO_WRITE. -/
def execFolioWrite (t : TileId) (errors : List (BitVec 12)) (s : State) : Out :=
  .next (s.folioStart t (fun b => folioKind b = 2) fun s x =>
    let b := x.desc
    let c := x.work.ctx
    let n := fieldAt b 4 4
    match firstBad [(0, ctrlExtra b 0), (4, n = 0 || 65536 < n), (0x28, !zeroAt b 0x28 8), (0x34, !zeroAt b 0x34 12)] with
    | some o => s.folioEnds t x (.badField o) none
    | none =>
      match s.hostNeeds (unitKey 3 t 0) c [(fieldAt b 8 8, 8 * n)] with
      | (s, false) => s.folioWaits t x
      | (s, true) =>
        match (s.tableErrors c errors).folioList c t (fieldAt b 8 8) n 8 with
        | (s, .error e) => s.folioEnds t x e none
        | (s, .ok entries) => s.writeWork t x entries)

/-- One sequence committed, or its reservation discarded. -/
def State.commitSeq (s : State) (key : Nat) (discard : Bool) : State :=
  let q := s.seqOf key
  let s := s.setSeq key { q with len := if discard then q.len else q.len + q.res, res := 0, lockid := 0 }
  if discard then s.cutSeq key q.len else s

/-- COMMIT, with its DISCARD bit. -/
def State.folioCommit (s : State) (t discard : Nat) (errors : List (BitVec 12)) : State :=
  s.folioStart t (fun b => folioKind b = 3 && folioMode b = discard) fun s x =>
    let b := x.desc
    let c := x.work.ctx
    match firstBad [(0, ctrlExtra b 8), (4, !zeroAt b 4 0x2C), (0x34, !zeroAt b 0x34 12)] with
    | some o => s.folioEnds t x (.badField o) none
    | none =>
      let s := s.tableErrors c errors
      let keys := ((s.seqsOf c).filter fun e => e.2.under (fieldAt b 0x30 4)).map Prod.fst
      if keys.any fun k => (s.seqOf k).bad then let f := s.folioFail 0x12 0; f.1.folioEnds t x f.2 none
      else (keys.foldl (fun s k => s.commitSeq k (discard = 1)) s).folioEnds t x (.ok keys.length) none

/-- FOLIO_COMMIT: DISCARD = 0. -/
def execFolioCommit (t : TileId) (errors : List (BitVec 12)) (s : State) : Out := .next (s.folioCommit t 0 errors)

/-- FOLIO_COMMIT_DISCARD: DISCARD = 1. -/
def execFolioCommitDiscard (t : TileId) (errors : List (BitVec 12)) (s : State) : Out := .next (s.folioCommit t 1 errors)

/-! ### FETCH (Table 11-6, R350) -/

/-- A stored slice as OTYPE elements, each its bytes. -/
def fetchElems (sfmt otype : Nat) (b : List Byte) : List (List Byte) :=
  match tambFmt sfmt, tambFmt otype with
  | some f, some (.fp o) => (f.values b).map fun v => toBytes (o.width / 8) (o.nearest v)
  | some (.fp f), _ => chunksOf (f.width / 8) b.length b
  | _, _ => [b]

/-- One token read from its folio and written out; 0 or the status of a failure. -/
def State.fetchToken (s : State) (c t : Nat) (q : FolioSeq) (b : List Byte) (i : Nat) : State × Nat :=
  let otype := nbits (fieldAt b 0 4) 11 8
  let vt := nbits (fieldAt b 0 4) 12 12 = 1
  let n := fieldAt b 8 4 + i
  match s.homeRead (some c) (s.tokenPa q n) (2 * q.kb) with
  | (s, none) => (s, 0x12)
  | (s, some bs) =>
    let k := fetchElems q.sfmt otype (bs.take q.kb)
    let v := fetchElems q.sfmt otype (bs.drop q.kb)
    let r := s.engineOut c 3 t ((fieldAt b 0x10 8 + i * fieldAt b 0x20 4) % 2 ^ 64) k.flatten
    if r.2 ≠ 0 then r
    else if vt then
      v.zipIdx.foldl (fun acc e =>
        if acc.2 ≠ 0 then acc else
        acc.1.engineOut c 3 t ((fieldAt b 0x18 8 + e.2 * fieldAt b 0x24 4 + i * e.1.length) % 2 ^ 64) e.1) r
    else r.1.engineOut c 3 t ((fieldAt b 0x18 8 + i * fieldAt b 0x24 4) % 2 ^ 64) v.flatten

/-- A FETCH of an open sequence: committed tokens copied out. -/
def State.fetchWork (s : State) (t : Nat) (x : Taken) (key : Nat) (q : FolioSeq) : State :=
  let b := x.desc
  let n := fieldAt b 0x0C 4
  if q.len < fieldAt b 8 4 + n then s.folioEnds t x (.badField 8) none
  else if nbits (fieldAt b 0 4) 12 12 = 1 && nbits (fieldAt b 0 4) 11 8 = 0 && 9 ≤ q.sfmt then s.folioEnds t x (.badField 0) none
  else
    let r := (List.range n).foldl (fun (acc : State × Nat) i =>
      if acc.2 ≠ 0 then acc else acc.1.fetchToken x.work.ctx t q b i) (s, 0)
    if r.2 = 0 then r.1.folioEnds t x (.ok (n + if q.torn then 2 ^ 63 else 0)) (some key)
    else let f := r.1.folioFail r.2 0; f.1.folioEnds t x f.2 (some key)

/-- FOLIO_FETCH. -/
def execFolioFetch (t : TileId) (tableError : Bool) (s : State) : Out :=
  .next (s.folioStart t (fun b => folioKind b = 4) fun s x =>
    let b := x.desc
    let otype := nbits (fieldAt b 0 4) 11 8
    let sid := fieldAt b 4 4
    let key := seqKey x.work.ctx sid
    match firstBad [(0, ctrlExtra b 0x1F00 || !(otype = 0 || otype = 4 || otype = 5 || otype = 6)), (4, 4096 ≤ sid),
        (0x0C, fieldAt b 0x0C 4 = 0), (0x28, !zeroAt b 0x28 24)] with
    | some o => s.folioEnds t x (.badField o) none
    | none =>
      match (s.tableError key tableError).findSeq key with
      | .error (s, e) => s.folioEnds t x e none
      | .ok q => (s.tableError key tableError).fetchWork t x key q)

/-! ### BUCKET (Table 11-7, R351) -/

/-- The bucket of a length: the first whose bound is not below it, or the overflow bucket. -/
def bucketOf (bounds : List Nat) (len : Nat) : Nat := (bounds.findIdx? fun x => len ≤ x).getD bounds.length

/-- A BUCKET whose BOUNDS and list are there: OUT grouped by bucket, and OFFS. -/
def State.bucketWork (s : State) (t : Nat) (x : Taken) (bounds sids : List Nat) : State :=
  let b := x.desc
  let c := x.work.ctx
  let fail := fun (s : State) st i => let f := s.folioFail st i; f.1.folioEnds t x f.2 none
  if !(bounds.zip bounds.tail).all (fun x => x.1 < x.2) then s.folioEnds t x (.badField 0x20) none else
  match sids.findIdx? fun i => 4096 ≤ i || !(s.seqOf (seqKey c i)).opened,
      sids.findIdx? fun i => (s.seqOf (seqKey c i)).bad with
  | some i, _ => s.folioEnds t x { status := 0x10, result := 0, detail := folioDetail i 0 4 } none
  | none, some i => fail s 0x12 i
  | none, none =>
    let items := sids.zipIdx.map fun x => (x.2, (s.seqOf (seqKey c x.1)).len)
    let groups := (List.range (bounds.length + 1)).map fun k => items.filter fun x => bucketOf bounds x.2 = k
    let offs := (List.range (bounds.length + 2)).map fun k => ((groups.take k).map List.length).sum
    let r := s.engineOut c 3 t (fieldAt b 0x10 8) (groups.flatten.flatMap fun x => toBytes 4 x.1 ++ toBytes 4 x.2)
    if r.2 ≠ 0 then fail r.1 r.2 0 else
    let r := r.1.engineOut c 3 t (fieldAt b 0x18 8) (offs.flatMap (toBytes 4))
    if r.2 ≠ 0 then fail r.1 r.2 0 else r.1.folioEnds t x (.ok 0) none

/-- FOLIO_BUCKET. -/
def execFolioBucket (t : TileId) (errors : List (BitVec 12)) (s : State) : Out :=
  .next (s.folioStart t (fun b => folioKind b = 7) fun s x =>
    let b := x.desc
    let c := x.work.ctx
    let nb := nbits (fieldAt b 0 4) 15 12 + 1
    let n := fieldAt b 4 4
    match firstBad [(0, ctrlExtra b 0xF000), (4, n = 0 || 65536 < n), (0x28, !zeroAt b 0x28 24)] with
    | some o => s.folioEnds t x (.badField o) none
    | none =>
      match s.hostNeeds (unitKey 3 t 0) c [(fieldAt b 0x20 8, 4 * nb), (fieldAt b 8 8, 4 * n)] with
      | (s, false) => s.folioWaits t x
      | (s, true) =>
        match (s.tableErrors c errors).engineList (unitKey 3 t 0) c 3 t (fieldAt b 0x20 8) nb 4 with
        | (s, .error st) => let f := s.folioFail st 0; f.1.folioEnds t x f.2 none
        | (s, .ok bounds) =>
          match s.folioList c t (fieldAt b 8 8) n 4 with
          | (s, .error e) => s.folioEnds t x e none
          | (s, .ok sids) => s.bucketWork t x bounds sids)

/-! ### The end of a work (R338) -/

/-- A TRUNCATE or CLOSE that a front has taken goes on, once no FETCH of its sequence runs. -/
def State.folioProceed (s : State) (t : Nat) : State :=
  let u := s.folioOf t
  match u.cur, u.taken with
  | none, some x =>
    if x.desc = [] || !s.ctxLive x.work.ctx then s
    else if folioKind x.desc = 5 then s.truncateWork t x
    else if folioKind x.desc = 6 then s.closeWork t x
    else s
  | _, _ => s

/-- A front's finished work: its record, its knot arrival, one more work in DONE; and what waited for its FETCH goes on. An
APPEND that met UNCORR_MEM faults its context whatever its STATUS. -/
def State.folioDone (s : State) (t : Nat) (u : FolioCur) : State :=
  let s := ((s.setFolio t { s.folioOf t with cur := none }).addFld (.folioDone t) .COUNT 1).endEngineWork u.work 3 t 0 u.status u.result
    u.detail
  let s := match u.append with
    | some a => if a.run.uncorr && u.status ≠ 0x12 then s.contextFault u.work.ctx 0x02 3 t 0 0x12 else s
    | none => s
  if u.reads.isSome then (List.range 32).foldl State.folioProceed s else s

/-- FOLIO_WORK_END: what is left of a QUANT work runs first. -/
def execFolioWorkEnd (t : TileId) (s : State) : Out :=
  .next (match (s.folioOf t).cur with
    | none => s
    | some u =>
      if s.bankEnds u.work.ctx u.status then s.folioDone t u
      else if !s.ctxLive u.work.ctx then s
      else
        let s := s.quantRest t (match u.append with
          | some a => if u.unfinished then a.entries.length + 1 else 0
          | none => 0)
        match (s.folioOf t).cur with
        | some v => if v.unfinished then s else s.folioDone t v
        | none => s)

end Sys2Proof.Machine
end

