-- ==== Sys2Proof/Machine/Feed.lean ====
section
/-!
DEFINITION. The Feed engine: channels, descriptors, triggers, COPY and POOL_FILL, the start of a buddy epoch, and the end of
a descriptor (R270 to R294).
-/
namespace Sys2Proof.Machine

/-! ### Channels -/

/-- Does the channel exist: 16 on a tile, 64 on the IO die? -/
def feedExists (t n : Nat) : Bool := if t = 32 then n < 64 else t < 32 && n < 16

/-- A write of FEED.CH (R270); HMODE may change at any time. -/
def State.feedAlloc (s : State) (t n : Nat) (owned hmode : Bool) (ctx : Nat) : State :=
  if !feedExists t n then s else
  let r := Reg.feedCh t n
  let k := s.feedCh (64 * t + n)
  let s := s.setFlag r .HMODE hmode
  if s.flag r .OWNED = owned && s.fld r .CTX = ctx then s
  else if k.cur.isNone && k.queue = [] then (s.setFlag r .OWNED owned).setFld r .CTX ctx
  else s.setFlag (.feedStatus t) .ALLOC_REFUSED true

def execFeedChannelAlloc (t : FeedTile) (n : ChanId) (owned hmode : Bool) (ctx : Ctx) (s : State) : Out :=
  .next (s.feedAlloc t n owned hmode ctx)

/-- SOURCE and TILE of MEM.FAULT for a channel. -/
def feedSource (t : Nat) : Nat := if t = 32 then 6 else 1
def feedFaultTile (t : Nat) : Nat := if t = 32 then 0 else t

/-- TILE of a completion record. -/
def feedRecTile (t : Nat) : Nat := if t = 32 then 0xFF else t

/-! ### Descriptors (Tables 9-2 and 9-3, R275) -/

def feedDesc (b : List Byte) : FeedDesc :=
  let ctrl := fieldAt b 0 4
  { kind := nbits ctrl 2 0, swap := nbits ctrl 5 4, ccode := nbits ctrl 8 6, dir := nbits ctrl 9 9 = 1,
    prio := nbits ctrl 11 10, prio2 := nbits ctrl 13 12, trig := nbits ctrl 16 14, ken := nbits ctrl 17 17 = 1,
    targ := fieldAt b 4 4, len := fieldAt b 8 4, rows := fieldAt b 0x0C 2 + 1,
    src := BitVec.ofNat 64 (fieldAt b 0x10 8), dst := BitVec.ofNat 64 (fieldAt b 0x18 8),
    sstride := fieldAt b 0x20 4, dstride := fieldAt b 0x24 4, escT := fieldAt b 0x28 4,
    knot := fieldAt b 0x2C 4, next := BitVec.ofNat 64 (fieldAt b 0x30 8) }

/-- DETAIL of a Feed record (R276). -/
def feedDetail (index cause wh offset : Nat) : Nat := min index 0xFFFF <<< 16 ||| offset <<< 8 ||| cause <<< 4 ||| wh

/-- Bytes per 32 elements of the form a COPY reads, and of the form it writes. -/
def FeedDesc.srcGroup (d : FeedDesc) : Nat := if d.dir then wireGroup d.ccode else payloadGroup d.ccode
def FeedDesc.dstGroup (d : FeedDesc) : Nat := if d.dir then payloadGroup d.ccode else wireGroup d.ccode

/-- Size of a destination row. -/
def FeedDesc.dstRow (d : FeedDesc) : Nat := if d.ccode = 0 then d.len else d.len / d.srcGroup * d.dstGroup

/-- Alignment of an element of a form with `group` bytes per 32 elements: 4 for binary32, 2 for bfloat16, 1 for a block
form (R278). -/
def groupAlign (group : Nat) : Nat := if group = 128 then 4 else if group = 64 then 2 else 1

/-- Alignment of Table 9-4 or R278 at the source and at the destination. -/
def FeedDesc.align (d : FeedDesc) : Nat × Nat :=
  if d.kind = 1 then (1, 2)
  else if d.ccode ≠ 0 then (groupAlign d.srcGroup, groupAlign d.dstGroup)
  else match d.swap with
    | 0 => (1, 1) | 1 => (2, 2) | _ => (4, 4)

/-- Is TARG refused for its trigger (Table 9-6)? -/
def State.feedTargBad (s : State) (c t : Nat) (d : FeedDesc) : Bool :=
  match d.trig with
  | 0 => d.targ ≠ 0
  | 1 => d.targ ≠ 0
  | 2 => d.targ = 0
  | 3 => !(feedExists t d.targ && s.flag (.feedCh t d.targ) .OWNED && s.fld (.feedCh t d.targ) .CTX = c)
  | 4 => d.targ < 2000 || (s.periodUs - s.fld .strokeTiming .GUARD_US) * 1000 ≤ d.targ
  | _ => !s.knotOwned c d.targ

/-- Byte offset of the first field of a descriptor that R275 refuses. -/
def State.feedFirstBad (s : State) (c t : Nat) (b : List Byte) : Option Nat :=
  let d := feedDesc b
  let ctrl := fieldAt b 0 4
  let copy := d.kind = 0
  let a := d.align
  if nbits ctrl 31 18 ≠ 0 || nbits ctrl 3 3 ≠ 0 || 2 < d.kind || 5 < d.trig || (d.swap ≠ 0 && d.ccode ≠ 0) ||
      (d.kind = 1 && (d.swap ≠ 0 || d.ccode ≠ 0)) || (d.kind = 2 && d.trig ≠ 4) then some 0
  else if s.feedTargBad c t d then some 0x04
  else if d.len = 0 || (d.kind = 2 && 8 < d.len) || (copy && d.ccode = 0 && d.len % a.1 ≠ 0) ||
      (copy && d.ccode ≠ 0 && d.len % d.srcGroup ≠ 0) then some 0x08
  else if fieldAt b 0x0E 2 ≠ 0 || (!copy && d.rows ≠ 1) then some 0x0C
  else if (d.kind = 1 && d.src ≠ 0) || (copy && d.src.toNat % a.1 ≠ 0) then some 0x10
  else if d.kind ≠ 2 && d.dst.toNat % a.2 ≠ 0 then some 0x18
  else if (!copy && d.sstride ≠ 0) || (copy && (d.sstride % a.1 ≠ 0 || d.sstride < d.len)) then some 0x20
  else if (d.kind = 2 && 16 ≤ d.dstride) || (copy && (d.dstride % a.2 ≠ 0 || d.dstride < d.dstRow)) then some 0x24
  else if 4096 ≤ d.knot || (d.ken && !s.knotOwned c d.knot) then some 0x2C
  else if d.next.toNat % 64 ≠ 0 then some 0x30
  else if fieldAt b 0x38 8 ≠ 0 then some 0x38
  else none

/-! ### A descriptor becomes current (R272, R275, R280, R286) -/

/-- The doorbell, NOW and level tests of a descriptor that has just become current (Table 9-6). -/
def State.feedArm (s : State) (i : Nat) : State :=
  let k := s.feedCh i
  match k.cur with
  | none => s
  | some u =>
    if u.err.isSome then s else
    match u.d.trig with
    | 0 => s.setFeedCh i { k with cur := some (u.fire s.time) }
    | 1 => if k.doorbells = 0 then s
      else s.setFeedCh i { k with cur := some (u.fire s.time), doorbells := k.doorbells - 1 }
    | 5 => if s.knotHigh u.d.targ then s.setFeedCh i { k with cur := some (u.fire s.time) } else s
    | _ => s

/-- The bytes of a descriptor read: it is checked, and armed (R275, R286). -/
def State.feedTake (s : State) (i : Nat) (u : FeedCur) (b : List Byte) : State :=
  let t := i / 64
  let c := u.work.ctx
  let put := fun (s : State) (u : FeedCur) => s.setFeedCh i { s.feedCh i with cur := some u }
  let v := { u with d := feedDesc b, reading := none, since := s.time }
  match s.feedFirstBad c t b with
  | some off => put s { v with err := some (0x10, feedDetail u.index 3 3 off) }
  | none =>
    if 65536 ≤ u.index then
      let f := s.freeNat 16
      put f.2 { v with err := some (0x10, 0xFFFF <<< 16 ||| f.1) }
    else if v.d.kind = 2 && (s.epochOf c).active then
      let f := s.freeNat 16
      put f.2 { v with err := some (0x14, min u.index 0xFFFF <<< 16 ||| f.1) }
    else (put s v).feedArm i

/-- Key of a channel as a reader of host memory. -/
def feedKey (i : Nat) : Nat := unitKey 1 (i / 64) (i % 64)

/-- The descriptor at va read for channel i: on HOST pages only by an IO-die channel (R272, R277). -/
def State.feedRead (s : State) (i : Nat) (u : FeedCur) (va : W64) : State :=
  let t := i / 64
  let put := fun (s : State) (u : FeedCur) => s.setFeedCh i { s.feedCh i with cur := some u }
  let lost := fun (s : State) => put s { u with reading := none, err := some (0x11, feedDetail u.index 6 3 0) }
  let host := match s.walk u.work.ctx va.toNat false false with
    | .host _ => true
    | _ => false
  if host && t ≠ 32 && va.toNat % 64 = 0 then lost s else
  match s.readDesc (feedKey i) u.work.ctx (feedSource t) (feedFaultTile t) va 64 64 with
  | (s, .waits) => put s { u with reading := some va }
  | (s, .bytes b) => (s.setBuf (feedKey i) HostBuf.empty).feedTake i u b
  | (s, .fails 0x11) => lost (s.setBuf (feedKey i) HostBuf.empty)
  | (s, .fails st) =>
    let f := s.freeNat 16
    put f.2 { u with reading := none, err := some (st, min u.index 0xFFFF <<< 16 ||| f.1) }

/-- The descriptor at va made current on channel i, as descriptor `index` of its chain. -/
def State.feedCurrent (s : State) (i : Nat) (u : FeedCur) (index : Nat) (va : W64) : State :=
  s.feedRead i { u with
    d := feedDesc [], index := index, running := false, moved := false, escalated := false, since := s.time,
    strokeAt := none, reading := none, draws := none, rd := (0, 0), wr := (0, 0), staged := [], err := none } va

/-- FEED_WORK_START: an idle channel takes the head of its queue, unless the guard holds it; one that waits for a descriptor goes
on. -/
def execFeedWorkStart (t : FeedTile) (n : ChanId) (s : State) : Out :=
  let i := 64 * t.val + n.val
  let k := s.feedCh i
  .next (match k.cur, k.queue with
    | some u, _ => match u.reading with
      | some va => if s.ctxLive u.work.ctx then s.feedRead i u va else s
      | none => s
    | none, w :: ws =>
      if w.held || !s.ctxLive w.ctx then s else
      let u : FeedCur :=
        { work := w, stroke := s.count, d := feedDesc [], index := 0, running := false, moved := false, escalated := false,
          since := s.time, strokeAt := none, reading := none, written := 0, draws := none, rd := (0, 0), wr := (0, 0), staged := [],
          lost := 0, err := none }
      ((s.setFeedCh i { k with queue := ws, started := k.started + 1 }).setBuf (feedKey i) HostBuf.empty).feedCurrent i u 0 w.desc
    | none, [] => s)

/-! ### Triggers (R280, R281, R284) -/

/-- A current, armed descriptor that satisfies p starts running; its context is not closed (R483). -/
def State.feedFire (s : State) (i : Nat) (p : FeedCur → Bool) : State :=
  let k := s.feedCh i
  match k.cur with
  | some u =>
    if s.fires p u then
      { s with closed := breakClosed s.closed u.work.ctx }.setFeedCh i { k with cur := some (u.fire s.time) }
    else s
  | none => s

/-- A doorbell of context c (R281, Table 13-6): it fires, is counted, is lost, or is refused, as every one is during the
context's reset (R470). -/
def State.feedBell (s : State) (c chan : Nat) (io : Bool) (tile : Nat) : State :=
  let t := if io then 32 else tile
  let i := 64 * t + chan
  let refused := (s.setFlag (.feedwDbStat c) .REFUSED true).vfEvent c 7
  if (io && tile ≠ 0) || !feedExists t chan then refused
  else if !(s.flag (.feedCh t chan) .OWNED && s.fld (.feedCh t chan) .CTX = c) || !s.ctxLive c then refused
  else
    let k := s.feedCh i
    let armed := match k.cur with
      | some u => !u.running && u.err.isNone && u.d.trig = 1
      | none => false
    if armed then s.feedFire i fun _ => true
    else if 15 ≤ k.doorbells then (s.setFlag (.feedwDbStat c) .OVERFLOW true).vfEvent c 7
    else s.setFeedCh i { k with doorbells := k.doorbells + 1 }

def execFeedDoorbell (c : Ctx) (chan : ChanId) (io : Bool) (tile : TileId) (s : State) : Out :=
  .next (s.feedBell c chan io tile)

/-- FEED_TIMER_TRIGGER: TARG × 10 ns have passed since a descriptor armed on TIMER became current. -/
def execFeedTimerTrigger (t : FeedTile) (n : ChanId) (s : State) : Out :=
  .next (s.feedFire (64 * t.val + n.val) fun u => u.d.trig = 2 && u.since + u.d.targ ≤ s.time)

/-- FEED_ESCALATION: the priority of a running descriptor becomes PRIO2 once ESC_T × 10 ns have passed since its start. -/
def execFeedEscalation (t : FeedTile) (n : ChanId) (s : State) : Out :=
  let k := s.feedCh (64 * t.val + n.val)
  .next (match k.cur with
    | some u =>
      if u.running && u.d.escT ≠ 0 && u.since + u.d.escT ≤ s.time then
        s.setFeedCh (64 * t.val + n.val) { k with cur := some { u with escalated := true } }
      else s
    | none => s)

/-! ### The beats of a transfer (R277, R278, R282, R89) -/

/-- Bytes of a row with the units of Table 9-4 reversed or exchanged. -/
def feedSwap (mode : Nat) (b : List Byte) : List Byte :=
  match mode with
  | 1 => (chunksOf 2 b.length b).flatMap List.reverse
  | 2 => (chunksOf 4 b.length b).flatMap List.reverse
  | 3 => (chunksOf 4 b.length b).flatMap fun u => u.drop 2 ++ u.take 2
  | _ => b

/-- Whole units or whole groups of a source row as the destination holds them. -/
def FeedDesc.convert (d : FeedDesc) (b : List Byte) : List Byte :=
  if d.ccode ≠ 0 then
    let whole := b.take (b.length / d.srcGroup * d.srcGroup)
    if d.dir then restore d.ccode whole else compress d.ccode whole
  else feedSwap d.swap b

/-- The segments a range translates to at this moment, as far as it does. -/
def State.peekMap (s : State) (c va len : Nat) : List Seg :=
  (pagePieces va len).filterMap fun p =>
    match s.walk c p.1 true false with
    | .ok pa mc _ => some { host := false, addr := pa, len := p.2, mcomp := mc }
    | .host bus => some { host := true, addr := bus, len := p.2, mcomp := false }
    | _ => none

/-- Bytes written to a destination row page by page: the bytes written and the error that ends the work. -/
def State.feedWrite (s : State) (i : Nat) (u : FeedCur) (va : Nat) (bs : List Byte) : State × Nat × Option (Nat × Nat) :=
  let t := i / 64
  let c := u.work.ctx
  let err := fun cause => some (0x11, feedDetail u.index cause 2 0)
  (pagePieces va bs.length).foldl (fun acc p =>
    match acc.2.2 with
    | some _ => acc
    | none =>
      let part := (bs.drop acc.2.1).take p.2
      match acc.1.translate c (feedSource t) (feedFaultTile t) p.1 true false with
      | (s, .fail _) => (s, acc.2.1, err 1)
      | (s, .uncorr _) => let f := s.freeNat 16; (f.2, acc.2.1, some (0x12, min u.index 0xFFFF <<< 16 ||| f.1))
      | (s, .ok pa mc _) =>
        match s.homeWrite (some c) mc (cellsFrom pa part) with
        | (s, true) => (s, acc.2.1 + p.2, none)
        | (s, false) => let f := s.freeNat 16; (f.2, acc.2.1, some (0x12, min u.index 0xFFFF <<< 16 ||| f.1))
      | (s, .host bus) =>
        if t ≠ 32 then (s, acc.2.1, err 2)
        else if s.canIssue c then
          (s.send (.pcieWrite (c + 1) bus part (s.fnOf (c + 1)).relaxed), acc.2.1 + p.2, none)
        else let f := s.freeNat 4; (f.2, acc.2.1, err f.1)) (s, 0, none)

/-- Does the destination share a byte with the source (R277)? -/
def State.feedOverlap (s : State) (u : FeedCur) : Bool :=
  u.d.kind = 0 && (List.range u.d.rows).any fun r =>
    (s.peekMap u.work.ctx ((u.d.dst.toNat + r * u.d.dstride) % 2 ^ 64) u.d.dstRow).any fun o =>
      (List.range u.d.rows).any fun q =>
        (s.peekMap u.work.ctx ((u.d.src.toNat + q * u.d.sstride) % 2 ^ 64) u.d.len).any o.meets

/-- The current work of a channel replaced. -/
def State.setFeedCur (s : State) (i : Nat) (f : FeedCur → FeedCur) : State :=
  s.setFeedCh i { s.feedCh i with cur := (s.feedCh i).cur.map f }

/-- FEED.BEATS advanced. -/
def State.feedBeats (s : State) (i n : Nat) : State := s.addFld (.feedBeats (i / 64) (i % 64)) .COUNT n

/-- The work of channel i is to end with a status and DETAIL, the first that arises. -/
def State.feedErr (s : State) (i : Nat) (e : Nat × Nat) : State :=
  s.setFeedCur i fun v => { v with err := match v.err with
    | some x => some x
    | none => some e }

/-- Rows of a transfer, and the size of a row it writes: the draws of a POOL_FILL are one row. -/
def FeedDesc.outRow (d : FeedDesc) : Nat := if d.kind = 1 then 2 * d.len else d.dstRow

/-- A beat of 64 bytes or what is left of its row, cut where a page ends (notes/assumptions/94): address and length. -/
def beatAt (va row : Nat) (off : Nat) : Nat × Nat :=
  let a := (va + off) % 2 ^ 64
  (a, min (min 64 (row - off)) (0x10000 - a % 0x10000))

/-- The next beat of the source of a COPY, and of the destination of a COPY or a POOL_FILL. -/
def FeedCur.nextRead (u : FeedCur) : Option (Nat × Nat) :=
  if u.d.kind = 0 && u.rd.1 < u.d.rows then some (beatAt (u.d.src.toNat + u.rd.1 * u.d.sstride) u.d.len u.rd.2) else none
def FeedCur.nextWrite (u : FeedCur) : Option (Nat × Nat) :=
  if u.d.kind < 2 && u.wr.1 < u.d.rows then some (beatAt (u.d.dst.toNat + u.wr.1 * u.d.dstride) u.d.outRow u.wr.2) else none

/-- The place after a beat of n bytes in rows of `size`. -/
def nextPlace (p : Nat × Nat) (n size : Nat) : Nat × Nat := if p.2 + n < size then (p.1, p.2 + n) else (p.1 + 1, 0)

/-- The source bytes [lo, hi) of a row that the destination bytes [a, a + n) come from. -/
def FeedDesc.needs (d : FeedDesc) (a n : Nat) : Nat × Nat :=
  if d.kind = 1 || d.ccode = 0 then (a, a + n)
  else (a / d.dstGroup * d.srcGroup, (a + n + d.dstGroup - 1) / d.dstGroup * d.srcGroup)

/-- A byte of a row in the staging buffer. -/
def stagedByte (l : List StagedBeat) (row a : Nat) : Option Byte :=
  (l.find? fun b => b.row = row && b.off ≤ a && a < b.off + b.len && b.tag.isNone).bind fun b => b.data[a - b.off]?

/-- The bytes [lo, hi) of a row, once all are staged. -/
def stagedBytes (l : List StagedBeat) (row lo hi : Nat) : Option (List Byte) :=
  (List.range (hi - lo)).foldr (fun j acc => match stagedByte l row (lo + j), acc with
    | some x, some bs => some (x :: bs)
    | _, _ => none) (some [])

/-- What the next beat of the destination holds, once it is staged. -/
def FeedCur.outBeat (u : FeedCur) : Option (List Byte) :=
  u.nextWrite.bind fun w =>
    let n := u.d.needs u.wr.2 w.2
    (stagedBytes u.staged u.wr.1 n.1 n.2).map fun b =>
      if u.d.kind = 1 then b
      else if u.d.ccode = 0 then feedSwap u.d.swap b
      else ((u.d.convert b).drop (u.wr.2 % u.d.dstGroup)).take w.2

/-- Has the staging buffer 64 bytes free (R282)? It holds 4 KiB. -/
def FeedCur.room (u : FeedCur) : Bool := (u.staged.map StagedBeat.len).sum + 64 ≤ 4096

/-- The beats still needed once the destination stands at u.wr. -/
def FeedCur.trim (u : FeedCur) : FeedCur :=
  let lo := (u.d.needs u.wr.2 0).1
  { u with staged := u.staged.filter fun b => u.wr.1 < b.row || (b.row = u.wr.1 && lo < b.off + b.len) }

/-- Does the work of a channel move data? -/
def State.feedMoves (s : State) (u : FeedCur) : Bool := u.running && !u.moved && u.err.isNone && s.ctxLive u.work.ctx

/-! ### The paths and their arbiters (Table 9-5, R282 to R284, R296) -/

def pathCode : FeedPath → Nat
  | .dram => 0 | .wellRead => 1 | .wellWrite => 2 | .fabricOut => 3 | .fabricIn => 4 | .pcieOut => 5 | .pcieIn => 6

/-- The path by which a channel of tile t reads from a target, and writes to one: what is not of its own tile goes over the fabric
(notes/assumptions/94). -/
def readPath (t : Nat) : Xlat → Option FeedPath
  | .ok pa _ _ => some (if t = 32 || tileOfPa pa ≠ t then .fabricIn else if isDram pa then .dram else .wellRead)
  | .host _ => if t = 32 then some .pcieIn else none
  | _ => none
def writePath (t : Nat) : Xlat → Option FeedPath
  | .ok pa _ _ => some (if t = 32 || tileOfPa pa ≠ t then .fabricOut else if isDram pa then .dram else .wellWrite)
  | .host _ => if t = 32 then some .pcieOut else none
  | _ => none

/-- Where the next beat of the source comes from, while the buffer has room for it; where the staged beat goes. -/
def State.readTarget (s : State) (u : FeedCur) : Option Xlat :=
  if s.feedMoves u && u.room then u.nextRead.map fun b => s.walk u.work.ctx b.1 false false else none
def State.writeTarget (s : State) (u : FeedCur) : Option Xlat :=
  if s.feedMoves u && u.outBeat.isSome then u.nextWrite.map fun b => s.walk u.work.ctx b.1 true false else none

/-- Is a channel of tile t ready on a path as a destination, and as a source? -/
def State.drainsOn (s : State) (t : Nat) (p : FeedPath) (u : FeedCur) : Bool := (s.writeTarget u).bind (writePath t) = some p
def State.fillsOn (s : State) (t : Nat) (p : FeedPath) (u : FeedCur) : Bool := (s.readTarget u).bind (readPath t) = some p

/-- The current priority (R284). -/
def FeedCur.priority (u : FeedCur) : Nat := if u.escalated then u.d.prio2 else u.d.prio

/-- Channels of a tile, or of the IO die. -/
def feedChans (t : Nat) : Nat := if t = 32 then 64 else 16

/-- The channels of t ready on a path, each with its priority. -/
def State.readyOn (s : State) (t : Nat) (p : FeedPath) : List (Nat × Nat) :=
  (List.range (feedChans t)).filterMap fun n => match (s.feedCh (64 * t + n)).cur with
    | some u => if s.drainsOn t p u || s.fillsOn t p u then some (n, u.priority) else none
    | none => none

/-- 1 + the channel granted last on a path at a priority; 0 before any. -/
def arbKey (t : Nat) (p : FeedPath) (prio : Nat) : Nat := (t * 8 + pathCode p) * 4 + prio
def State.lastGrant (s : State) (t : Nat) (p : FeedPath) (prio : Nat) : Nat := smGet (fun _ => 0) s.arb (arbKey t p prio)

/-- The channel that takes the next beat: of those of the highest priority, the first in round-robin order after the one granted
last. -/
def arbiter (l : List (Nat × Nat)) (last : Nat → Nat) : Option (Nat × Nat) :=
  let top := (l.map Prod.snd).foldl max 0
  let best := l.filter fun x => x.2 = top
  match best.find? fun x => last top ≤ x.1 with
  | some x => some x
  | none => best.head?

/-- One beat of the source read into the staging buffer; from the host, its read issued (R89). -/
def State.feedFill (s : State) (i : Nat) (u : FeedCur) : State :=
  let t := i / 64
  let c := u.work.ctx
  match u.nextRead with
  | none => s
  | some (va, n) =>
    let stage := fun (s : State) tag data => s.setFeedCur i fun v =>
      { v with staged := v.staged ++ [{ row := u.rd.1, off := u.rd.2, len := n, tag := tag, data := data }],
               rd := nextPlace u.rd n u.d.len }
    match s.translate c (feedSource t) (feedFaultTile t) va false false with
    | (s, .ok pa _ _) => match s.homeRead (some c) pa n with
      | (s, some bs) => stage s none bs
      | (s, none) => let f := s.freeNat 16; f.2.feedErr i (0x12, min u.index 0xFFFF <<< 16 ||| f.1)
    | (s, .host bus) =>
      let tag := s.nextTag
      match s.issueRead c (.feed t (i % 64)) va bus n with
      | (s, true) => stage s (some tag) []
      | (s, false) => let f := s.freeNat 4; f.2.feedErr i (0x11, feedDetail u.index f.1 1 0)
    | (s, _) => s

/-- A staged beat written; the last one of the descriptor moves it. An uncorrectable error in the buffer ends the work, the beat not
written (R293). -/
def State.feedDrain (s : State) (i : Nat) (u : FeedCur) (stageError : Bool) : State :=
  match u.nextWrite, u.outBeat with
  | some (va, n), some bs =>
    if stageError then
      let f := s.freeNat 16
      (f.2.setFlag (.feedStatus (i / 64)) .STAGE_UE true).feedErr i (0x12, min u.index 0xFFFF <<< 16 ||| f.1)
    else
      let f := if s.feedOverlap u then s.freeBytes n else (bs, s)
      match f.2.feedWrite i u va f.1 with
      | (s, _, some e) => s.feedErr i e
      | (s, _, none) => (s.feedBeats i 1).setFeedCur i fun v =>
        let w := nextPlace v.wr n v.d.outRow
        { v with wr := w, written := v.written + n, moved := decide (v.d.rows ≤ w.1) }.trim
  | _, _ => s

/-- A channel whose next beat does not translate, or lies on a HOST page that a tile channel cannot reach, ends its work (R277). -/
def State.feedSettle (s : State) (i : Nat) : State :=
  let t := i / 64
  match (s.feedCh i).cur with
  | none => s
  | some u =>
    let fails := fun (s : State) (wh va : Nat) (w : Bool) (x : Xlat) => match x with
      | .fail _ => (s.translate u.work.ctx (feedSource t) (feedFaultTile t) va w false).1.feedErr i (0x11, feedDetail u.index 1 wh 0)
      | .uncorr _ =>
        let f := (s.translate u.work.ctx (feedSource t) (feedFaultTile t) va w false).1.freeNat 16
        f.2.feedErr i (0x12, min u.index 0xFFFF <<< 16 ||| f.1)
      | .host _ => if t = 32 then s else s.feedErr i (0x11, feedDetail u.index 2 wh 0)
      | .ok _ _ _ => s
    let s := match s.writeTarget u, u.nextWrite with
      | some x, some b => fails s 2 b.1 true x
      | _, _ => s
    if (s.feedCh i).cur.any fun v => v.err.isSome then s else
    match s.readTarget u, u.nextRead with
    | some x, some b => fails s 1 b.1 false x
    | _, _ => s

/-- A beat granted to a channel of higher priority, counted by the works that were ready for it (R273). -/
def State.countLost (s : State) (t : Nat) (l : List (Nat × Nat)) (prio : Nat) : State :=
  (l.filter fun x => x.2 < prio).foldl (fun s x => s.setFeedCur (64 * t + x.1) fun v => { v with lost := v.lost + 1 }) s

/-- The next beat of a path granted: to the destination first where a channel is ready on it both ways (notes/assumptions/94). -/
def State.feedGrant (s : State) (t : Nat) (p : FeedPath) (stageError : Bool) : State :=
  let l := s.readyOn t p
  match arbiter l (s.lastGrant t p) with
  | none => s
  | some (n, prio) =>
    let i := 64 * t + n
    let s := { (s.countLost t l prio) with arb := smSet (fun _ => 0) s.arb (arbKey t p prio) (n + 1) }
    match (s.feedCh i).cur with
    | some u => if s.drainsOn t p u then s.feedDrain i u stageError else s.feedFill i u
    | none => s

/-- FEED_COPY: a path of a tile or of the IO die grants its next beat; `stageError` says that a staged beat granted reads
uncorrectable. -/
def execFeedCopy (t : FeedTile) (p : FeedPath) (stageError : Bool) (s : State) : Out :=
  let s := (List.range (feedChans t)).foldl (fun s n => s.feedSettle (64 * t.val + n)) s
  .next (s.feedGrant t p stageError)

/-- The data of a host read of a channel. -/
def State.feedData (s : State) (i tag : Nat) (data : List Byte) : State :=
  s.setFeedCur i fun v =>
    { v with staged := v.staged.map fun b => if b.tag = some tag then { b with tag := none, data := data } else b }

/-- A host read of a channel that failed: the work ends with the status; its cause is one the spec does not name. -/
def State.feedReadFails (s : State) (i tag status : Nat) : State :=
  match (s.feedCh i).cur with
  | none => s
  | some u =>
    if u.staged.any fun b => b.tag = some tag then
      let f := s.freeNat 16
      f.2.feedErr i (status, min u.index 0xFFFF <<< 16 ||| f.1)
    else s

/-! ### POOL_FILL (R279, R221) -/

/-- The draws of a POOL_FILL staged, beat by beat, as far as the buffer has room. -/
def FeedCur.stageDraws (u : FeedCur) (r : DrawRun) : Nat → FeedCur
  | 0 => u
  | n + 1 =>
    let left := 2 * u.d.len - u.rd.2
    if left = 0 || !u.room || u.rd.1 ≠ 0 then u else
    let k := min 64 left
    let bytes := (List.range (k / 2)).flatMap fun j => toBytes 2 (poolDraw r.s31 r.s23 (r.pos + u.rd.2 / 2 + j))
    ({ u with staged := u.staged ++ [{ row := 0, off := u.rd.2, len := k, tag := none, data := bytes }],
              rd := nextPlace u.rd k (2 * u.d.len) } : FeedCur).stageDraws r n

/-- FEED_POOL_FILL: a running POOL_FILL asks for its draws; once granted they go into its staging buffer. -/
def execFeedPoolFill (t : FeedTile) (n : ChanId) (s : State) : Out :=
  let i := 64 * t.val + n.val
  .next (match (s.feedCh i).cur with
    | some u =>
      if !(s.feedMoves u && u.d.kind = 1) then s else
      match u.draws with
      | some r => s.setFeedCur i fun v => v.stageDraws r 64
      | none =>
        if s.poolQ.any fun q => q.user = .feed i then s
        else if s.poolOpen u.work.ctx then s.poolRequest u.work.ctx (.feed i) u.d.len
        else
          let f := s.freeNat 16
          f.2.feedErr i (0x10, min u.index 0xFFFF <<< 16 ||| f.1)
    | none => s)

/-! ### BUDDY (R285, R286) -/

/-- What the read of a region list finds. -/
inductive RegionRes
  | regions (es : List (Nat × Nat))
  | waits
  | error (e : Nat × Nat)
deriving DecidableEq, Repr

/-- Byte offset of the first field of a region list that breaks its layout: of two regions that overlap, the address of the later. -/
def regionBad (es : List (Nat × Nat)) : Option Nat :=
  (es.zipIdx.findSome? fun (x : (Nat × Nat) × Nat) =>
    if x.1.1 % 0x10000 ≠ 0 || (es.take x.2).any (fun b => x.1.1 < b.1 + b.2 && b.1 < x.1.1 + x.1.2) then some (16 * x.2)
    else if x.1.2 % 0x10000 ≠ 0 || x.1.2 = 0 then some (16 * x.2 + 8)
    else none)

/-- The region list of a BUDDY descriptor: its entries (VA, SIZE), or the error that ends the work (R276). -/
def State.feedRegions (s : State) (i : Nat) (u : FeedCur) : State × RegionRes :=
  let t := i / 64
  let host := (pagePieces u.d.src.toNat (16 * u.d.len)).any fun p => match s.walk u.work.ctx p.1 false false with
    | .host _ => true
    | _ => false
  if host && t ≠ 32 then (s, .error (0x11, feedDetail u.index 2 4 0)) else
  match s.readRange (feedKey i) u.work.ctx (feedSource t) (feedFaultTile t) u.d.src.toNat (16 * u.d.len) with
  | (s, .waits) => (s, .waits)
  | (s, .fails 0x12) => let f := s.freeNat 16; (f.2, .error (0x12, min u.index 0xFFFF <<< 16 ||| f.1))
  | (s, .fails _) => (s, .error (0x11, feedDetail u.index 6 4 0))
  | (s, .bytes b) =>
    let es := (List.range u.d.len).map fun j => (fieldAt b (16 * j) 8, fieldAt b (16 * j + 8) 8)
    match regionBad es with
    | some off => (s, .error (0x10, feedDetail u.index 3 4 off))
    | none => (s, .regions es)

/-- The pages of the regions, each (address, package physical address, bytes): all tile DRAM with QC = 0. -/
def State.feedPages (s : State) (i : Nat) (u : FeedCur) (es : List (Nat × Nat)) : State × Except (Nat × Nat) (List (Nat × Nat × Nat)) :=
  let t := i / 64
  es.foldl (fun acc e => (pagePieces e.1 e.2).foldl (fun (a : State × Except (Nat × Nat) (List (Nat × Nat × Nat))) p =>
    match a.2 with
    | .error x => (a.1, .error x)
    | .ok ps =>
      match a.1.translate u.work.ctx (feedSource t) (feedFaultTile t) p.1 false false with
      | (s, .ok pa _ qc) =>
        if qc then (s, .error (0x11, feedDetail u.index 7 4 0))
        else if isDram pa then (s, .ok (ps ++ [(p.1, pa, p.2)]))
        else (s, .error (0x11, feedDetail u.index 1 4 0))
      | (s, .uncorr _) => let f := s.freeNat 16; (f.2, .error (0x12, min u.index 0xFFFF <<< 16 ||| f.1))
      | (s, _) => (s, .error (0x11, feedDetail u.index 1 4 0))) acc) (s, .ok [])

/-- A running BUDDY descriptor takes its snapshot, and its epoch streams (R285, R286). -/
def State.buddyStart (s : State) (i : Nat) : State :=
  match (s.feedCh i).cur with
  | some u =>
    let c := u.work.ctx
    if !(s.feedMoves u && u.d.kind = 2) || (s.epochOf c).active then s else
    match s.feedRegions i u with
    | (s, .waits) => s
    | (s, .error e) => (s.setBuf (feedKey i) HostBuf.empty).feedErr i e
    | (s, .regions es) =>
      match (s.setBuf (feedKey i) HostBuf.empty).feedPages i u es with
      | (s, .error e) => s.feedErr i e
      | (s, .ok pages) =>
        let s := s.addFld (.feedwBuddy c) .EPOCH 1
        let s := s.setFlds (.feedwBuddy c) [(.SNAP_LO, s.count % 2 ^ 24), (.STATE, 1)]
        s.setEpoch c
          { active := true, ch := i, port := u.d.dstride, pages := pages, total := (es.map Prod.snd).sum, sent := 0,
            dst := u.d.dst, epoch := s.fld (.feedwBuddy c) .EPOCH, snap := s.count, after := 0 }
  | none => s

/-- A descriptor armed on STROKE starts TARG ns after the boundary of the first work stroke since it became current; never in the
guard (R39) and not in a slip stroke (R59). A BUDDY descriptor takes its snapshot at that instant (R285). -/
def State.strokeFire (s : State) (i : Nat) : State :=
  if s.inGuard || s.stroke.slip then s else
  (s.feedFire i fun u => u.d.trig = 4 && u.strokeAt = some s.count && u.d.targ ≤ s.phaseNs).buddyStart i

/-- FEED_STROKE_TRIGGER: the stroke reaches the TARG of a descriptor armed on STROKE. -/
def execFeedStrokeTrigger (t : FeedTile) (n : ChanId) (s : State) : Out := .next (s.strokeFire (64 * t.val + n.val))

/-- FEED_BUDDY: the same for a BUDDY descriptor; one whose region list was on its way from the host goes on. -/
def execFeedBuddy (t : FeedTile) (n : ChanId) (s : State) : Out :=
  let i := 64 * t.val + n.val
  .next (match (s.feedCh i).cur with
    | some u => if u.d.kind = 2 then (s.strokeFire i).buddyStart i else s
    | none => s)

/-- Every descriptor armed on STROKE whose time has come by `ns`, started: before a work-list entry of that time (R297). -/
def State.strokesBefore (s : State) (ns : Nat) : State :=
  (s.feed.filterMap fun e => match e.2.cur with
    | some u => if u.d.trig = 4 && u.d.targ ≤ ns then some e.1 else none
    | none => none).foldl State.strokeFire s

/-- An epoch ended at its sender: FEEDW.BUDDY takes a state, and the work is to end with a status and DETAIL, or normally
with the bytes sent (R285 to R292). -/
def State.endEpoch (s : State) (c state : Nat) (err : Option (Nat × Nat)) : State :=
  let e := s.epochOf c
  if !e.active then s else
  let s := (s.setEpoch c { e with active := false }).setFld (.feedwBuddy c) .STATE state
  let s := s.setFeedCur e.ch fun v =>
    match err with
    | some x => { v with err := some (x.1, min v.index 0xFFFF <<< 16 ||| x.2), written := v.written + e.sent }
    | none => { v with moved := true, written := v.written + e.total }
  s.vfEvent c 8

/-- BUDDY_NO_COMMIT: neither a commit nor a refusal by the second boundary after the last line. -/
def execBuddyNoCommit (c : Ctx) (s : State) : Out :=
  let e := s.epochOf c
  .next (if e.active && e.sent = e.total && 2 ≤ e.after then s.endEpoch c 8 (some (0x18, 0x55)) else s)

/-! ### The end of a descriptor (R273, R293) -/

/-- The work of channel i ends (R273): its record, its knot, the channel free, and the channel's event (R421). -/
def State.feedEnd (s : State) (i : Nat) (u : FeedCur) (status detail : Nat) : State :=
  let t := i / 64
  let s := s.setFeedCh i { s.feedCh i with cur := none }
  let s := s.endEngineWork u.work 1 (feedRecTile t) (i % 64) status
    (u.written % 2 ^ 48 + min u.lost 0xFFFF * 2 ^ 48) (if status = 0 then 0 else detail)
  s.memberEvent u.work.ctx 1 (t = 32) (if t = 32 then 0 else t) (i % 64)

/-- The end of a descriptor of channel i fires the CHAN triggers that name the channel (Table 9-6). -/
def State.fireChan (s : State) (i : Nat) : State :=
  s.fireFeeds fun j v => j / 64 = i / 64 && j ≠ i && v.d.trig = 3 && v.d.targ = i % 64

/-- FEED_DESCRIPTOR_END: a descriptor that has moved its data makes its knot arrival, fires CHAN triggers, and its successor
becomes current or the work completes; one that failed fires them and ends the work. -/
def execFeedDescriptorEnd (t : FeedTile) (n : ChanId) (s : State) : Out :=
  let i := 64 * t.val + n.val
  .next (match (s.feedCh i).cur with
    | none => s
    | some u =>
      if !s.ctxLive u.work.ctx && !s.bankEnds u.work.ctx ((u.err.map Prod.fst).getD 0) then s
      else match u.err with
      | some (st, detail) => (s.fireChan i).feedEnd i u st detail
      | none =>
        if !(u.running && u.moved) then s
        else
          let s := if u.d.ken then s.arrive u.work.ctx u.d.knot 1 else s
          let s := s.fireChan i
          if u.d.next = 0 then s.feedEnd i u 0 0
          else if !s.ctxLive u.work.ctx then s else s.feedCurrent i u (u.index + 1) u.d.next)

end Sys2Proof.Machine
end

