-- ==== Sys2Proof/Machine/SlotData.lean ====
section
/-!
DEFINITION. The data of a slot: the form on the wire, the sums of reduce-through, the payload a receiver restores, and what a slot
that stops early leaves at its destination (R223, R224, R380, R381, R385, R386, R393, R402 of spec/).
-/
namespace Sys2Proof.Machine

/-! ### A run's role and ports (Table 12-8, R385) -/

/-- ROLE of a MODE 2 slot: 0 THROUGH, 1 HEAD, 2 TAIL, 3 COPY; none in the other modes. -/
def SlotRun.role (r : SlotRun) : Option Nat := if r.e.mode = 2 then r.stream.map (·.role) else none

/-- Does the run send on its port, and does it receive? -/
def SlotRun.sends (r : SlotRun) : Bool := r.e.mode = 0 || (r.e.mode = 2 && r.role ≠ some 2)
def SlotRun.receives (r : SlotRun) : Bool := r.e.mode = 1 || (r.e.mode = 2 && r.role ≠ some 1)

/-- The port a run receives on. -/
def SlotRun.fromPort (r : SlotRun) : Nat := if r.e.mode = 2 then r.e.inPort else r.e.port

/-- Does the run send what it receives: THROUGH or COPY? -/
def SlotRun.forwards (r : SlotRun) : Bool := r.role = some 0 || r.role = some 3

/-- The fields of a stream entry that the program writes. -/
def streamEntry (b : List Byte) : StreamEntry :=
  { addr := fieldAt b 0 8, bytes := fieldAt b 8 4, role := nbits (fieldAt b 0x0C 1) 1 0, ken := nbits (fieldAt b 0x0C 1) 2 2 = 1,
    ptype := nbits (fieldAt b 0x0C 1) 4 3, knot := fieldAt b 0x0E 2, waddr := fieldAt b 0x10 8 }

/-- Wire bytes of a payload under a compression code. -/
def wireLen (code bytes : Nat) : Nat := if code = 0 then bytes else bytes / payloadGroup code * wireGroup code

/-- Local pages of a range, or none where it fails under R86 or lies on HOST pages. -/
def State.linkRange (s : State) (c va len : Nat) (w : Bool) : State × Option (List Seg) :=
  match s.mapRange c 6 0 va len w with
  | (s, .ok segs) => if segs.any Seg.host then (s, none) else (s, some segs)
  | (s, .error _) => (s, none)

/-! ### Reduce-through (R224, R385, R386) -/

/-- A value in binary32, with one rounding to nearest. -/
def in32 (v : FVal) : FVal := binary32.decode (binary32.nearest v)

/-- The payload format of a reduce-through slot. -/
def reduceFormat (code ptype : Nat) : FFormat :=
  match compressForm code with
  | some (f, _) => f
  | none => if ptype = 1 then bfloat16 else binary32

/-- Bytes of a group on the wire, and in the payload; with code 0 a group is one element. -/
def groupWire (code ptype : Nat) : Nat := if code = 0 then (reduceFormat code ptype).width / 8 else wireGroup code
def groupLocal (code ptype : Nat) : Nat := if code = 0 then (reduceFormat code ptype).width / 8 else payloadGroup code

/-- The element-wise sum of a group as it comes and the local one. Code 0 rounds once to the payload type, the others to
binary32. -/
def groupSum (code ptype : Nat) (wire own : List Byte) : List FVal :=
  let f := reduceFormat code ptype
  let inc := if code = 0 then f.elements wire else restoreGroup code wire
  List.zipWith (fun a b => if code = 0 then f.decode (f.nearest (a.add b)) else in32 ((in32 a).add b)) inc (f.elements own)

/-- A sum on the wire, and as TAIL writes it. -/
def sumWire (code ptype : Nat) (vs : List FVal) : List Byte := if code = 0 then (reduceFormat code ptype).store vs else compressGroup code vs

/-- Bytes [off, off + n) of what a run has received, if all of its beats are there. -/
def SlotRun.gotBytes (r : SlotRun) (off n : Nat) : Option (List Byte) :=
  if n = 0 then some [] else
  let js := (List.range ((off + n - 1) / 64 + 1 - off / 64)).map (off / 64 + ·)
  let bs := js.map (smGet (fun _ => []) r.got)
  if bs.any (· = []) then none else some ((bs.flatten.drop (off % 64)).take n)

/-- Bytes a run's sender staged, in order. -/
def SlotRun.outBytes (r : SlotRun) : List Byte := r.out.flatMap (·.data)

/-- Group g of a THROUGH or TAIL run: the sum. -/
def SlotRun.sumGroup (r : SlotRun) (t : StreamEntry) (g : Nat) : Option (List FVal) :=
  let w := groupWire r.e.ccode t.ptype
  let n := groupLocal r.e.ccode t.ptype
  (r.gotBytes (g * w) w).map fun b => groupSum r.e.ccode t.ptype b ((r.outBytes.drop (g * n)).take n)

/-- Bytes [off, off + n) of what a run forwards. -/
def SlotRun.forwardBytes (r : SlotRun) (t : StreamEntry) (off n : Nat) : Option (List Byte) :=
  if r.role = some 3 then r.gotBytes off n else
  if n = 0 then some [] else
  let w := groupWire r.e.ccode t.ptype
  let gs := (List.range ((off + n - 1) / w + 1 - off / w)).map (off / w + ·)
  (gs.foldl (fun (acc : Option (List Byte)) g => acc.bind fun a => (r.sumGroup t g).map fun vs => a ++ sumWire r.e.ccode t.ptype vs)
    (some [])).map fun b => (b.drop (off % w)).take n

/-- Wire bytes of a stream run. -/
def SlotRun.wireBytes (r : SlotRun) : Nat := match r.stream with
  | some t => wireLen r.e.ccode t.bytes
  | none => 0

/-! ### What a receiver writes (R380, R381, R385) -/

/-- Bytes written for a run's context at an address, as far as they can be; false when they cannot. -/
def State.linkWrite (s : State) (c va : Nat) (bs : List Byte) : State × Bool :=
  match s.linkRange c va bs.length true with
  | (s, none) => (s, false)
  | (s, some segs) => s.writeSegs c segs bs

/-- Payload group g of a receiving run, where all of it came. -/
def SlotRun.payloadOf (r : SlotRun) (t : StreamEntry) (g : Nat) : Option (List Byte) :=
  let code := r.e.ccode
  if r.role = some 2 then (r.sumGroup t g).map fun vs => (reduceFormat code t.ptype).store vs
  else if code = 0 then r.gotBytes (64 * g) 64
  else (r.gotBytes (g * wireGroup code) (wireGroup code)).map (restore code)

/-- Bytes of a payload group. -/
def SlotRun.groupSize (r : SlotRun) (t : StreamEntry) : Nat :=
  if r.role = some 2 then groupLocal r.e.ccode t.ptype else if r.e.ccode = 0 then 64 else payloadGroup r.e.ccode

/-- Where a receiving stream run writes, if it writes. -/
def SlotRun.target (r : SlotRun) (t : StreamEntry) : Option Nat :=
  if r.e.mode = 1 then some t.addr else if r.role = some 2 || r.role = some 3 then some t.waddr else none

/-- The groups of a payload, each its address offset and bytes if they came. -/
def SlotRun.groups (r : SlotRun) (t : StreamEntry) : List (Nat × Option (List Byte)) :=
  (List.range (t.bytes / r.groupSize t)).map fun g => (g * r.groupSize t, r.payloadOf t g)

/-- Pieces written or not, a free bit each: what a missed slot leaves at its destination (R381). -/
def State.maybePieces (s : State) (c : Nat) (l : List (Nat × List Byte)) : State :=
  l.foldl (fun s x =>
    let f := s.freeNat 1
    if f.1 = 1 then (f.2.linkWrite c x.1 x.2).1 else f.2) s

/-- The copy of a receive epoch: its address. -/
def RecvEpoch.area (e : RecvEpoch) : Nat := e.dst.toNat + 0x10000 + e.copy * e.total

/-- The lines a buddy slot brought, in order, each its address. -/
def SlotRun.lines (r : SlotRun) (e : RecvEpoch) : List (Nat × List Byte) :=
  r.got.zipIdx.map fun x => (e.area + e.landed + 64 * x.2, x.1.2)

/-- What a receive slot that does not complete leaves at its destination: each group that came is written or not, by a free bit
(R381, R393, R402). -/
def State.slotLeaves (s : State) (r : SlotRun) : State :=
  match r.e.kind, r.stream with
  | 0, some t => match r.target t with
    | some a => s.maybePieces r.ctx ((r.groups t).filterMap fun (g : Nat × Option (List Byte)) => g.2.map fun b => (a + g.1, b))
    | none => s
  | 2, _ => if (s.recvOf r.e.port r.ctx).active then s.maybePieces r.ctx (r.lines (s.recvOf r.e.port r.ctx)) else s
  | _, _ => s

/-! ### An entry changed in use (R379) -/

/-- Does memory hold another entry than the one prefetched? -/
def State.streamChanged (s : State) (r : SlotRun) : Bool :=
  match r.stream with
  | none => false
  | some t =>
    match s.walk r.ctx (s.fld (.linkwStreams r.ctx) .BASE * 0x8000 + 32 * r.e.stream) false false with
    | .ok pa _ _ => streamEntry (s.bytesAt pa 32) ≠ t
    | _ => false

/-- The beats a run received, with free data. -/
def State.spoilRun (s : State) (r : SlotRun) : State × SlotRun :=
  let x := r.got.foldl (fun (acc : State × SMap (List Byte)) g =>
    let f := acc.1.freeBytes g.2.length
    (f.2, acc.2 ++ [(g.1, f.1)])) (s, [])
  (x.1, { r with got := x.2 })

/-- Beats with free data. -/
def State.spoilBeats (s : State) (bs : List Beat) : State × List Beat :=
  bs.foldl (fun (acc : State × List Beat) b =>
    let f := acc.1.freeBytes b.data.length
    (f.2, acc.2 ++ [{ b with data := f.1 }])) (s, [])

end Sys2Proof.Machine
end

