-- ==== Sys2Proof/Machine/LinkOps.lean ====
section
/-!
DEFINITION. Ports and links: their states, what they send, the contexts that hold slots on a port, and what ends when a port
leaves LIVE. Rules R62, R63, R251, R292, R364, R368, R373, R376, R388, R393, R398 of spec/.
-/
namespace Sys2Proof.Machine

def State.port (s : State) (p : Nat) : PortSt := smGet (fun _ => PortSt.idle) s.ports p
def State.setPort (s : State) (p : Nat) (k : PortSt) : State := { s with ports := smSet (fun _ => PortSt.idle) s.ports p k }
def State.link (s : State) (l : Nat) : LinkSt := smGet (fun _ => LinkSt.idle) s.links l
def State.setLink (s : State) (l : Nat) (k : LinkSt) : State := { s with links := smSet (fun _ => LinkSt.idle) s.links l k }

/-- LINK.STATE, LINK.FEC, LINK.RELOCK of package link l: link l mod 8 of die l ÷ 8 (R364). -/
def linkStateReg (l : Nat) : Reg := .linkState (l / 8) (l % 8)
def linkFecReg (l : Nat) : Reg := .linkFec (l / 8) (l % 8)
def linkRelockReg (l : Nat) : Reg := .linkRelock (l / 8) (l % 8)

/-- The package links of port p's bundle (R368). -/
def State.portLinks (s : State) (p : Nat) : List Nat :=
  (List.range (2 ^ s.fld (.portCfg p) .SIZE_LOG2)).map fun i => 8 * s.fld (.portCfg p) .DIR + s.fld (.portCfg p) .FIRST + i

/-! ### The rack's edge (R19, R32, R578, Table 1-3) -/

def State.tray (s : State) (i : Nat) : SwitchTray := smGet (fun _ => SwitchTray.fresh) s.rack.trays i
def State.setTray (s : State) (i : Nat) (k : SwitchTray) : State :=
  { s with rack := { s.rack with trays := smSet (fun _ => SwitchTray.fresh) s.rack.trays i k } }

/-- The local coordinates of tray t, slot i: R19 read backwards. -/
def localOf (t i : Nat) : Nat × Nat := (4 * (t % 2) + i, t / 2)

/-- The switch tray that carries link l of the package at local coordinates (x, y), where the link lies on a face of the rack: ST0
and ST1 the X faces of rows 0 to 2 and 3 to 5, ST2 and ST3 the Y faces of columns 0 to 3 and 4 to 7. -/
def switchTrayOf (x y l : Nat) : Option Nat :=
  let st := fun (edge : Bool) (k : Nat) => if edge then some k else none
  match l / 8 with
  | 0 => st (x = 7) (if y < 3 then 0 else 1)
  | 1 => st (x = 0) (if y < 3 then 0 else 1)
  | 2 => st (y = 5) (if x < 4 then 2 else 3)
  | _ => st (y = 0) (if x < 4 then 2 else 3)

/-- Can the package's link l have signal: a switch tray on its way has set a path? -/
def State.carried (s : State) (l : Nat) : Bool :=
  let pos := localOf s.rack.place.1 s.rack.place.2
  match switchTrayOf pos.1 pos.2 l with
  | some i => (s.tray i).path ≠ .none
  | none => true

/-- Every link of the port's bundle finds signal: the outside gives it, and each link is carried (R388, R578). -/
def State.finds (s : State) (p : Nat) (signal : Bool) : Bool := signal && (s.portLinks p).all s.carried

/-- The enabled port that holds a link. -/
def State.portOfLink (s : State) (l : Nat) : Option Nat :=
  (List.range 16).find? fun p => s.flag (.portCfg p) .ENABLE && (s.portLinks p).contains l

/-- PORT.STATE[p].STATE (Table 12-5): 0 DISABLED, 1 ABSENT, 2 TRAINING, 3 QUARANTINE, 4 LIVE, 5 FENCED, 6 DOWN, 7 TEST. -/
def State.portIs (s : State) (p : Nat) : Nat := s.fld (.portState p) .STATE

def State.live (s : State) (p : Nat) : Bool := s.portIs p = 4

/-- The LIVE ports. -/
def State.livePorts (s : State) : List Nat := (List.range 16).filter s.live

/-- LINK.STATE of a link of a port in a state (Table 12-11): a trained link reads UP, that of a DOWN port FAILED. -/
def linkCode : Nat → Nat
  | 1 => 1 | 2 => 2 | 3 => 3 | 4 => 3 | 5 => 3 | 6 => 6 | 7 => 5
  | _ => 0

/-- Links up of a bundle, for PORT.STATE.LINKS_UP. -/
def upMask (st n : Nat) : Nat := if linkCode st = 3 then 2 ^ n - 1 else 0

/-- Fields of PORT.STATE[p] written; a change raises vector 16 + p (Table 13-7). -/
def State.portFields (s : State) (p : Nat) (fs : List (FName × Nat)) : State :=
  let t := s.setFlds (.portState p) fs
  if t.reg (.portState p) = s.reg (.portState p) then t else t.pfEvent (16 + p)

/-- The links of the port's bundle that no other enabled port holds. -/
def State.ownLinks (s : State) (p : Nat) : List Nat :=
  (s.portLinks p).filter fun l => (List.range 16).all fun q => q = p || !s.flag (.portCfg q) .ENABLE || !(s.portLinks q).contains l

/-- A port takes a state, with further fields of PORT.STATE: its links follow, and a change of the state is reported to the TMC
(Tables 12-5, 12-11, R543). -/
def State.setPortWith (s : State) (p st : Nat) (fs : List (FName × Nat)) : State :=
  let ls := s.ownLinks p
  let changed := s.portIs p ≠ st
  let s := s.portFields p (fs ++ [(.STATE, st), (.STEP, if st = 2 then 1 else 0), (.LINKS_UP, upMask st (s.portLinks p).length)])
  let s := ls.foldl (fun s l => (s.setFld (linkStateReg l) .STATE (linkCode st)).setLink l
    { s.link l with t2 := none, sync := none, relock := none, farRelock := false, late := none }) s
  let s := if st = 4 then s else s.setFlag (.strokeOffset p) .VALID false
  if changed then s.send (.toTmc 0x03 [p, st, s.fld (.portState p) .CAUSE]) else s

def State.setPortState (s : State) (p st : Nat) : State := s.setPortWith p st []

/-! ### What a port sends (R376, R398) -/

/-- Does a link of the port send and take control symbols: not every link relocks (R387, R398)? -/
def State.canSymbol (s : State) (p : Nat) : Bool := (s.portLinks p).any fun l => (s.link l).relock.isNone

/-- The symbols a port's state lets out (Table 12-5): all of a LIVE port, TEST of one in TEST, of the others FENCE, RETRAIN and
DOWN. -/
def symbolOk (st code : Nat) : Bool := st = 4 || [0x04, 0x05, 0x08].contains code || (st = 7 && code = 0x09)

/-- A control symbol sent on a port, unless its only links relock. -/
def State.symbol (s : State) (p code payload : Nat) : State :=
  if s.canSymbol p && symbolOk (s.portIs p) code then s.send (.symbol p code payload) else s

/-- FENCE, RETRAIN and DOWN (Table 12-7). -/
def State.sendFence (s : State) (p cause : Nat) : State := s.symbol p 0x04 cause
def State.sendRetrain (s : State) (p : Nat) : State := s.symbol p 0x05 0
def State.sendDown (s : State) (p cause : Nat) : State := s.symbol p 0x08 cause
/-- MISSED: BINDING, START frame, HTAG. -/
def State.sendMissed (s : State) (p binding start htag : Nat) : State :=
  s.symbol p 0x07 (binding ||| start <<< 16 ||| htag <<< 36)

/-! ### Images and slots on a port (R373, R388) -/

/-- Does slot e use port p: its own port, or the IN_PORT of a reduce-through slot (R385)? -/
def SlotEntry.onPort (e : SlotEntry) (p : Nat) : Bool := e.port = p || (e.mode = 2 && e.inPort = p)

/-- The contexts with armed images that hold slots on port p. -/
def State.contextsOn (s : State) (p : Nat) : List Nat :=
  allContexts.filter fun c => (s.image c).active && (s.image c).slots.any fun e => e.onPort p

/-- The contexts whose image counts as armed on port p for a comparison: STATUS is OK (R373). -/
def State.comparedOn (s : State) (p : Nat) : List Nat :=
  (s.contextsOn p).filter fun c => s.fld (.strokeImgStat c) .STATUS = 0

/-- HTAG of a context: the low 16 bits of its image's HASH. -/
def State.htag (s : State) (c : Nat) : Nat := (s.image c).hash.toNat % 2 ^ 16

/-! ### Stream status (R379, R393) -/

/-- Bytes the machine writes for a context where they translate to tile memory. -/
def State.machineWrite (s : State) (c va : Nat) (bs : List Byte) : State :=
  match s.mapRange c 6 0 va bs.length true with
  | (s, .ok segs) => if segs.any Seg.host then s else (s.writeSegs c segs bs).1
  | (s, .error _) => s

/-- STATUS and STROKE_LO of a stream entry. -/
def State.streamStatus (s : State) (r : SlotRun) (status : Nat) : State :=
  if r.e.kind ≠ 0 then s else
  let a := s.fld (.linkwStreams r.ctx) .BASE * 0x8000 + 32 * r.e.stream
  (s.machineWrite r.ctx (a + 0x0D) (toBytes 1 status)).machineWrite r.ctx (a + 0x18) (toBytes 4 s.countLo)

/-! ### A port leaves LIVE (R251, R292, R388, R393) -/

/-- Has the run's first frame passed: begun, held by a relock, or missed behind a held one? -/
def State.inProgress (s : State) (r : SlotRun) : Bool := r.begun || r.held || (r.missed && r.e.startNs ≤ s.phaseNs)

/-- Every slot in progress on port p ends: streams record LINK_DOWN, and a destination keeps what was written. -/
def State.endSlotsOn (s : State) (p : Nat) : State :=
  let s := (s.slots.filter fun r => r.e.onPort p && s.inProgress r).foldl (fun s r => (s.slotLeaves r).streamStatus r 0x17) s
  { s with slots := s.slots.filter fun r => !r.e.onPort p }

/-- The port's outbound queues emptied, and the sends that wait on them answered by LINK_DOWN when they are tried again. -/
def State.dropOutbound (s : State) (p : Nat) : State := allContexts.foldl (fun s c => s.setOutQueue p c []) s

/-- The buddy epochs on port p end: the sender's with LINK_DOWN, the receiver's without a commit. -/
def State.endEpochsOn (s : State) (p : Nat) : State :=
  allContexts.foldl (fun s c =>
    let s := if (s.epochOf c).active && (s.epochOf c).port = p then
        let f := s.freeNat 16
        f.2.endEpoch c 5 (some (0x17, f.1))
      else s
    s.setRecv p c RecvEpoch.none) s

/-- A LIVE port that leaves LIVE: what ran on it ends, and the listed contexts fault with their cause. -/
def State.portStops (s : State) (p : Nat) (faults : List Nat) (cause arg : Nat) : State :=
  let s := ((s.endSlotsOn p).dropOutbound p).endEpochsOn p
  s.faultEach faults cause 0xFF 0xFF 0xFFFF arg

/-- What a port that goes down, trains or falls silent costs: its outbound messages and buddy epochs, and of a LIVE one LINK_DOWN
for every context with slots on it. -/
def State.linkDown (s : State) (p : Nat) : State :=
  if s.live p then s.portStops p (s.contextsOn p) 0x0C p else (s.dropOutbound p).endEpochsOn p

/-- A port put DOWN with a cause, after sending DOWN (Table 12-5). -/
def State.portDown (s : State) (p cause : Nat) : State :=
  ((s.linkDown p).setPortWith p 6 [(.CAUSE, cause)]).setPort p PortSt.idle

/-- The contexts that a dissent of a cause faults (R62): those of images that differ for cause 5, given; else all compared. -/
def State.fence (s : State) (p cause : Nat) (differ : List Nat) : State :=
  let faults := if cause = 5 then differ else s.comparedOn p
  let s := s.sendFence p cause
  let s := s.setFlds .strokeDissent [(.COUNT_LO, s.countLo), (.CAUSE, cause), (.PORT, p),
    (.FENCED, s.fld .strokeDissent .FENCED ||| 2 ^ p)]
  let s := (s.setFlag .strokeStatus .DISSENT true).pfEvent 4
  let s := s.portStops p faults 0x0B (p ||| cause <<< 8)
  (s.setPortWith p 5 [(.CAUSE, cause)]).setPort p PortSt.idle

/-- Training starts on a port (R375, R393): RETRAIN is sent, a LIVE port stops, and its FENCED bit clears. -/
def State.startTraining (s : State) (p : Nat) : State :=
  let s := (s.sendRetrain p).linkDown p
  let s := s.setFld .strokeDissent .FENCED (s.fld .strokeDissent .FENCED &&& (0xFFFF ^^^ 2 ^ p))
  (s.setPortState p 2).setPort p { PortSt.idle with attempts := 1 }

end Sys2Proof.Machine
end

