-- ==== Sys2Proof/Machine/Sha.lean ====
section
/-!
DEFINITION. SHA-256 (FIPS 180-4), which the spec uses for HASH, RECORD_HASH and image verification, and its low 64 bits: the
last eight bytes of the digest, read as the digest's number (DEDUCED, notes/assumptions/7).
-/
namespace Sys2Proof.Machine

/-! ### The constants: fractions of the roots of primes -/

/-- The first 64 primes. -/
def shaPrimes : List Nat := (List.range 312).filter fun n => 2 ≤ n && (List.range 18).all fun d => d < 2 || n ≤ d || n % d ≠ 0

/-- The largest x + r with r < 2ᵇ whose k-th power is at most n, bit by bit. -/
def rootBelow (k n : Nat) : Nat → Nat → Nat
  | 0, x => x
  | b + 1, x => rootBelow k n b (if (x + 2 ^ b) ^ k ≤ n then x + 2 ^ b else x)

/-- The first 32 bits of the fraction of the k-th root of p. -/
def rootFraction (k p : Nat) : W32 := BitVec.ofNat 32 (rootBelow k (p * 2 ^ (32 * k)) 37 0)

/-! ### A block -/

/-- The exclusive or of a word's rotations to the right. -/
def turns (x : W32) (amounts : List Nat) : W32 := amounts.foldl (fun acc n => acc ^^^ x.rotateRight n) 0

/-- The working words a to h in order, after one round with the sum of its constant and its message word. -/
def shaRound (kw : W32) : List W32 → List W32
  | [a, b, c, d, e, f, g, h] =>
    let chosen := g ^^^ (e &&& (f ^^^ g))
    let most := (a &&& b) ||| (c &&& (a ||| b))
    let t := h + turns e [6, 11, 25] + chosen + kw
    [t + turns a [2, 13, 22] + most, a, b, c, d + t, e, f, g]
  | other => other

/-- The message word that follows sixteen others. -/
def nextWord (win : List W32) : W32 :=
  let early := win.getD 1 0
  let late := win.getD 14 0
  win.getD 0 0 + (turns early [7, 18] ^^^ early >>> 3) + win.getD 9 0 + (turns late [17, 19] ^^^ late >>> 10)

/-- The rounds for the primes listed; `win` holds the next sixteen message words, oldest first. -/
def shaRounds : List Nat → List W32 → List W32 → List W32
  | [], _, v => v
  | p :: ps, win, v => shaRounds ps (win.drop 1 ++ [nextWord win]) (shaRound (rootFraction 3 p + win.getD 0 0) v)

/-- Bytes as one big-endian number. -/
def bigEndian (l : List Byte) : Nat := l.foldl (fun n b => 256 * n + b.toNat) 0

/-- A block of 64 bytes taken into the hash value. -/
def shaBlock (hash : List W32) (block : List Byte) : List W32 :=
  let words := (List.range 16).map fun i => BitVec.ofNat 32 (bigEndian ((block.drop (4 * i)).take 4))
  List.zipWith (· + ·) hash (shaRounds shaPrimes words hash)

/-! ### A message -/

/-- The message padded to whole blocks: a 1 bit, zeros, and its length in bits. -/
def shaPad (m : List Byte) : List Byte :=
  m ++ [0x80#8] ++ List.replicate ((119 - m.length % 64) % 64) 0#8 ++ (toBytes 8 (8 * m.length)).reverse

/-- The low 64 bits of SHA-256 of a message. -/
def sha64 (m : List Byte) : W64 :=
  let p := shaPad m
  let blocks := (List.range (p.length / 64)).map fun i => (p.drop (64 * i)).take 64
  match blocks.foldl shaBlock ((shaPrimes.take 8).map (rootFraction 2)) with
  | [_, _, _, _, _, _, g, h] => g ++ h
  | _ => 0

end Sys2Proof.Machine
end

