-- ==== Sys2Proof/Machine/StrokeOps.lean ====
section
/-!
DEFINITION. The stroke: the package's place in the cluster, the anchor view, slip votes, the READY conditions, and the stop.
Rules R29, R40 to R42, R48, R56 to R58, R66, R67, R70, R71, R73, R452, R454, R580 of spec/.
-/
namespace Sys2Proof.Machine

/-! ### The package's place (R19, R580) -/

def State.myX (s : State) : Nat := s.fld .idPosition .X
def State.myY (s : State) : Nat := s.fld .idPosition .Y

/-- The 128 bytes of the installation record; none of them without one. -/
def State.recordBytes (s : State) : List Byte := match s.perm.record with
  | some r => r.1
  | none => []

/-- RECORD_HASH, which REC.HASH shows: 0 if there is no record. -/
def State.recordHash (s : State) : W64 := match s.perm.record with
  | some r => sha64 r.1
  | none => 0

/-- Anchor entries of a record: (rank, x, y) (Table 18-4). -/
def recordAnchors (r : List Byte) : List (Nat × Nat × Nat) :=
  (List.range (min 4 (fieldAt r 0x12 1))).map fun i => (fieldAt r (0x20 + 8 * i) 1, fieldAt r (0x21 + 8 * i) 1, fieldAt r (0x22 + 8 * i) 1)

/-- The package's rank, when its record names it an anchor candidate. -/
def State.myRank (s : State) : Option Nat :=
  ((recordAnchors s.recordBytes).find? fun a => a.2 = (s.myX, s.myY)).map Prod.fst

/-- Extents of the cluster. -/
def State.xExtent (s : State) : Nat := s.fld .idPosition .X_SPAN + 1
def State.yExtent (s : State) : Nat := s.fld .idPosition .Y_SPAN + 1

/-- Verified firmware set. -/
def State.fwVersion (s : State) : W64 := s.reg .stwFwVersion

/-- Does the stroke clock count: while the stroke runs, or joining once its clock was set (R449)? -/
def State.strokeCounts (s : State) : Bool := s.strokeRuns || (s.strokeState = 1 && s.stroke.clockSet)

/-! ### The anchor view (R41, R42) -/

/-- Is a view fresh at a count? -/
def AnchorView.fresh (v : AnchorView) (count : Nat) : Bool := count - v.stamp ≤ 512

/-- Does view a rank before view b: rank, then the newest stamp, then lower Y, then lower X? -/
def AnchorView.before (a b : AnchorView) : Bool :=
  a.rank < b.rank || (a.rank = b.rank && (b.stamp < a.stamp || (a.stamp = b.stamp && (a.y < b.y || (a.y = b.y && a.x < b.x)))))

/-- STROKE.ANCHOR as the held view gives it; vector 5 when it changes (Table 13-7). -/
def State.showAnchor (s : State) : State :=
  let t := match s.stroke.view with
    | none => s.setFlds .strokeAnchor [(.AGE, 0), (.HOPS, 0), (.STALE, 1), (.SELF, 0), (.RANK, 0), (.Y, 0), (.X, 0)]
    | some v =>
      let fresh := v.fresh s.count
      let self := fresh && v.x = s.myX && v.y = s.myY && v.hops = 0
      s.setFlds .strokeAnchor [(.AGE, s.count - v.stamp), (.HOPS, v.hops), (.STALE, if fresh then 0 else 1),
        (.SELF, if self then 1 else 0), (.RANK, v.rank), (.Y, v.y), (.X, v.x)]
  if s.reg .strokeAnchor = t.reg .strokeAnchor then t else t.pfEvent 5

/-- The view that is held replaced. -/
def State.holdView (s : State) (v : AnchorView) : State := ({ s with stroke := { s.stroke with view := some v } }).showAnchor

/-- A received view: taken when it is fresh and ranks before the held one, or no fresh one is held. -/
def State.offerView (s : State) (v : AnchorView) : State :=
  if !v.fresh s.count then s else
  match s.stroke.view with
  | none => s.holdView v
  | some w => if !w.fresh s.count || v.before w then s.holdView v else s

/-- A candidate that holds no fresh view of a lower rank declares itself (R41). -/
def State.declareAnchor (s : State) : State :=
  match s.myRank with
  | none => s.showAnchor
  | some r =>
    let lower := match s.stroke.view with
      | some v => v.fresh s.count && v.rank < r
      | none => false
    if lower then s.showAnchor else s.holdView { rank := r, x := s.myX, y := s.myY, stamp := s.count, hops := 0 }

/-! ### Slip votes (R56 to R58, R71) -/

/-- Payload of a SLIP symbol (Table 12-7). -/
def slipPayload (countLo : Nat) (v : Vote) : Nat := countLo % 2 ^ 16 ||| v.x <<< 16 ||| v.y <<< 24 ||| v.ctx <<< 32 ||| v.cause <<< 36

/-- A vote for the present stroke: the first is kept and sent on every live port but the one it came on; one that a
package in HOLDOVER raises leaves on no port (R48). One after P − 8 µs sets LATE_VOTE, wherever it was raised (R58, R172). -/
def State.takeVote (s : State) (v : Vote) (origin : Option Nat) : State :=
  let s := if (s.periodUs - 8) * 256000 < s.phase then s.setFlag .strokeStatus .LATE_VOTE true else s
  match s.stroke.vote with
  | some _ => s
  | none =>
    let s := { s with stroke := { s.stroke with vote := some v } }
    let ports := if origin.isNone && s.strokeState = 3 then [] else s.livePorts.filter fun p => some p ≠ origin
    ports.foldl (fun s p => s.symbol p 0x01 (slipPayload s.count v)) s

/-- A vote raised on this package for context c; with no stroke running it has no effect. -/
def State.raiseVote (s : State) (c cause : Nat) : State :=
  if !s.strokeRuns then s else
  let s := { s with stroke := { s.stroke with voted := if s.stroke.voted.contains c then s.stroke.voted else s.stroke.voted ++ [c] } }
  s.takeVote { x := s.myX, y := s.myY, ctx := c, cause := cause } none

/-- SLIP_LIMIT in force; 0 is taken as 1 (Table 2-13). -/
def State.slipLimit (s : State) : Nat := max 1 (s.fld .strokeSlipCfg .SLIP_LIMIT)

/-- Consecutive strokes in which context c raised a vote (R67). -/
def State.consecOf (s : State) (c : Nat) : Nat := smGet (fun _ => 0) s.stroke.consec c

/-! ### READY (R452 to R454) -/

/-- Is every tile at its floor (Table 14-6, bit 2)? -/
def State.floorsMet (s : State) : Bool :=
  ((List.range 32).all fun t => 12 ≤ min 16 (s.fld (.tstartResult t) .ARRAYS_HEALTHY) && 6 ≤ min 8 (s.fld (.tstartResult t) .NIB_HEALTHY)) &&
  48 ≤ s.fld .idUnits .QUILL_ACTIVE

/-- START.REPORT.MISSING: the conditions of Table 14-6 that do not hold. -/
def State.readyMissing (s : State) : Nat :=
  let bit := fun (i : Nat) (ok : Bool) => if ok then 0 else 2 ^ i
  bit 0 (s.flag .idPosition .RECORD_VALID) +
  bit 1 (match s.start.passed with
    | some n => 6 ≤ n
    | none => false) +
  bit 2 s.floorsMet +
  bit 3 ((List.range 16).all fun p => !s.flag (.portCfg p) .ENABLE || s.live p || s.portIs p = 1) +
  bit 4 (s.strokeState = 2) +
  bit 5 (s.perm.defects.length < 4096)

/-- READY declared at a boundary (R452). -/
def State.checkReady (s : State) : State :=
  if !s.flag .startStat .READY && s.readyMissing = 0 && !s.failed then (s.setFlag .startStat .READY true).pfEvent 1 else s

/-! ### The stop of the stroke (R52, R65, R69, R454) -/

/-- An image disarmed: STATUS reads STALE. -/
def State.disarm (s : State) (c : Nat) : State := (s.setImage c Image.empty).setFld (.strokeImgStat c) .STATUS 2

/-- Every image that is to be disarmed is. -/
def State.disarmDue (s : State) : State :=
  allContexts.foldl (fun s c => if (s.image c).phase = .disarming || (s.image c).phase = .dropped then s.disarm c else s) s

/-- The stroke STOPPED: LOCK and READY clear, the clock's own state is gone; a joining package may begin anew. -/
def State.stopStroke (s : State) : State :=
  let s := ((s.setFld .strokeStatus .STATE 0).setFlag .strokeCtrl .LOCK false).setFlag .startStat .READY false
  let s := (List.range 16).foldl (fun s p => s.setFlag (.strokeOffset p) .VALID false) s
  ({ s with stroke := Stroke.stopped, slots := [] }).disarmDue

end Sys2Proof.Machine
end

