-- ==== Sys2Proof/Machine/Hang.lean ====
section
/-!
DEFINITION. The hang detectors: the progress windows, the wait-for detector and its probes (R478 to R488, R499, R502, R505).
-/
namespace Sys2Proof.Machine

/-! ### Waits watched by progress (R478, R479, Table 15-4) -/

/-- HMODE of knots and bobbins. -/
def State.knotWaitfor (s : State) (k : Nat) : Bool := s.flag (knotCfg k) .HMODE
def State.bobWaitfor (s : State) (b : Nat) : Bool := s.flag (bobCfg b) .HMODE

/-- The object of a dispatch that waits: its ring when the unit has room, else the unit. -/
def State.dispatchWatch (s : State) (c who : Nat) (target : W64) : Option Watched :=
  match targetOf target with
  | some t =>
    if s.queueRoom t then some { ctx := c, kind := 4, io := false, tile := 0, index := c, who := who }
    else some { ctx := c, kind := 3, io := t.tile = 32, tile := t.tile % 32, index := 64 * t.engine + t.unit, who := who }
  | none => none

/-- Is a record's work held by a Filet unit (R479)? -/
def State.recordHeld (s : State) (c : Nat) (h : W64) : Bool :=
  s.filet.any fun e => e.2.held.any fun w => w.work.ctx = c && w.work.crec && w.work.handle = h

/-- The object a waiting core waits on, when it is watched by progress. -/
def State.coreWatch (s : State) (n : Nat) : Option Watched :=
  let c := s.ctxOf n
  let mk := fun kind io tile index => some ({ ctx := c, kind := kind, io := io, tile := tile, index := index, who := n } : Watched)
  match (s.core n).wait with
  | .kwait _ k _ none => if s.knotWaitfor k then none else mk 0 false (k / 128) k
  | .kwait _ _ _ (some _) => none
  | .bsend _ b none _ => if s.bobWaitfor b then none else mk 1 false (b / 256) b
  | .bsend _ _ (some p) _ => mk 5 false p c
  | .brecv _ b _ _ => if s.bobWaitfor b then none else mk 1 false (b / 256) b
  | .dispatch _ target _ _ _ _ => s.dispatchWatch c n target
  | .cwait _ h =>
    if s.recordHeld c h then none else
    let r := s.recordOf c h
    let engine := fieldAt r 0x0A 1
    let tile := fieldAt r 0x0B 1
    mk 6 (tile = 0xFF) (tile % 32) (64 * engine + fieldAt r 0x0C 2)
  | _ => none

/-- A hart that waits in a qpost waits on its ring (R142). -/
def State.hartWatch (s : State) (h : Nat) : Option Watched :=
  match (s.hartOf h).wait with
  | .qpost _ _ _ _ => let c := s.fld (hartReg h) .CTX; some { ctx := c, kind := 4, io := false, tile := 0, index := c, who := 256 + h }
  | _ => none

/-- A running descriptor is watched when its channel's HMODE is PROGRESS. -/
def State.feedWatches (s : State) : List Watched :=
  s.feed.filterMap fun e => match e.2.cur with
    | some u =>
      if u.running && !s.flag (feedReg e.1) .HMODE then
        some { ctx := u.work.ctx, kind := 2, io := e.1 / 64 = 32, tile := e.1 / 64 % 32, index := e.1 % 64, who := 1024 + e.1 }
      else none
    | none => none

/-- Every wait under watch now. -/
def State.watched (s : State) : List Watched :=
  (s.waiting.filterMap fun a => match a with
    | .nib n => s.coreWatch n
    | .hart h => s.hartWatch h) ++ s.feedWatches

/-- Works started by a unit: a core's runs, a channel's works, or the count of the others. -/
def State.unitStarts (s : State) (engine tile unit : Nat) : Nat :=
  match engine with
  | 0 => (s.core (8 * tile + unit)).started
  | 1 => (s.feedCh (64 * tile + unit)).started
  | _ => s.startsOf engine tile unit

/-- The progress counter of a watched object (Table 15-4). A Tambour work issues cycles as long as it runs. -/
def State.progressOf (s : State) (w : Watched) : Nat :=
  let tile := if w.io then 32 else w.tile
  let engine := w.index / 64
  let unit := w.index % 64
  match w.kind with
  | 0 => s.fld (knotCfg w.index) .CHANGES
  | 1 => s.fld (bobState w.index) .RECEIVED * 2 ^ 32 + (if s.flag (bobCfg w.index) .COMBINE then s.fld (bobState w.index) .CONTRIB else 0)
  | 2 => s.fld (.feedBeats tile w.index) .COUNT
  | 3 => s.unitStarts engine tile unit
  | 4 => (s.context w.index).retired
  | 5 => smGet (fun _ => 0) s.taken (16 * w.tile + w.index)
  | _ => match engine with
    | 0 => (s.core (8 * tile + unit)).retired
    | 1 => s.fld (.feedBeats tile unit) .COUNT
    | 2 => s.fld (.filetServed tile) .COUNT
    | 3 => s.fld (.folioDone tile) .COUNT
    | _ => if (s.tambOf (16 * tile + unit)).ctx.isSome then s.time else s.startsOf 4 tile unit

/-- A hang declared (R488): CTXH.HANG keeps the first, vector HANG, and the context faults. -/
def State.declareHang (s : State) (w : Watched) (waitfor : Bool) (arg : Nat) : State :=
  let r := Reg.ctxhHang w.ctx
  let s := if s.flag r .VALID then s else
    s.setFlds r [(.VALID, 1), (.WAITFOR, if waitfor then 1 else 0), (.KIND, w.kind), (.IO, if w.io then 1 else 0),
      (.TILE, w.tile), (.INDEX, if w.kind = 3 || w.kind = 6 then w.index % 64 else w.index), (.STROKE_LO, s.countLo)]
  (s.vfEvent w.ctx 3).faultNoUnit w.ctx (if waitfor then 0x10 else 0x0F) (if waitfor then arg else w.kind)

/-- WINDOW of a context; 0 is taken as 8 (Table 15-6). -/
def State.window (s : State) (c : Nat) : Nat := let w := s.fld (.ctxhCfg c) .WINDOW; if w = 0 then 8 else w

/-- The watches after one more work stroke: a counter that moved starts its watch anew. -/
def State.nextWatches (s : State) : List Watch :=
  s.watched.map fun w =>
    let v := s.progressOf w
    match s.watches.find? (fun x => x.obj = w) with
    | some x => if x.value = v then { x with strokes := x.strokes + 1 } else { obj := w, value := v, strokes := 0 }
    | none => { obj := w, value := v, strokes := 0 }

/-- The sample of a work stroke boundary, or of an interval of PERIOD_US while the stroke is not RUNNING (R478, R480). A hang of a context
whose reset begins in the same cycle is recorded too (R502). -/
def State.sampleProgress (s : State) : State :=
  let ws := s.nextWatches
  (ws.filter fun x => s.window x.obj.ctx ≤ x.strokes).foldl
    (fun s x => if s.ctxLive x.obj.ctx || s.resetsNow x.obj.ctx then s.declareHang x.obj false 0 else s)
    { s with watches := ws, sampledAt := s.time }

/-! ### The wait-for detector (R481 to R486, R499) -/

def State.closedOf (s : State) (c : Nat) : Closed := smGet (fun _ => Closed.none) s.closed c
def State.setClosed (s : State) (c : Nat) (k : Closed) : State := { s with closed := smSet (fun _ => Closed.none) s.closed c k }

/-- The object a core is blocked on. -/
def State.coreBlocked (s : State) (n : Nat) : Option Watched :=
  let mk := fun kind tile index => some ({ ctx := s.ctxOf n, kind := kind, io := false, tile := tile, index := index, who := n } : Watched)
  match (s.core n).wait with
  | .kwait _ k _ none => if s.knotWaitfor k then mk 0 (k / 128) k else none
  | .bsend _ b none _ => if s.bobWaitfor b then mk 1 (b / 256) b else none
  | .brecv _ b _ _ => if s.bobWaitfor b then mk 1 (b / 256) b else none
  | _ => none

/-- Is the current descriptor of channel i ARMED on KNOT or CHAN, with HMODE = WAITFOR? -/
def State.feedBlocked (s : State) (i : Nat) (u : FeedCur) : Bool :=
  s.flag (feedReg i) .HMODE && !u.running && u.err.isNone && (u.d.trig = 5 || u.d.trig = 3)

/-- The objects the blocked agents of context c wait on: a channel ARMED on KNOT waits on the knot, one on CHAN on the channel that
TARG names (R290). -/
def State.blockedOn (s : State) (c : Nat) : List Watched :=
  (s.waitingCores.filterMap fun n => if s.coreCtx n = some c then s.coreBlocked n else none) ++
  s.feed.filterMap fun e => match e.2.cur with
    | some u =>
      if u.work.ctx = c && s.feedBlocked e.1 u then
        if u.d.trig = 5 then some { ctx := c, kind := 0, io := false, tile := u.d.targ / 128, index := u.d.targ, who := 1024 + e.1 }
        else some { ctx := c, kind := 2, io := e.1 / 64 = 32, tile := e.1 / 64 % 32, index := u.d.targ, who := 1024 + e.1 }
      else none
    | none => none

/-- Has context c engine work queued, running or held, but for the descriptors of blocked channels? -/
def State.engineWork (s : State) (c : Nat) : Bool :=
  let mine := fun (w : Work) => w.ctx = c
  (s.tamb.any fun e => e.2.queue.any mine || e.2.ctx = some c) ||
  (s.filet.any fun e => e.2.uses c) ||
  (s.folio.any fun e => e.2.queue.any mine || e.2.busy.map Prod.fst = some c) ||
  s.feed.any fun e => e.2.queue.any mine || match e.2.cur with
    | some u => mine u.work && !s.feedBlocked e.1 u
    | none => false

/-- Is core n, bound to the context, blocked, or IDLE with both queues empty? -/
def State.coreQuiet (s : State) (n : Nat) : Bool :=
  (s.coreBlocked n).isSome || ((s.core n).st = .idle && (s.core n).imageQ = [] && (s.core n).postQ = [])

/-- Is context c closed (R482)? -/
def State.isClosed (s : State) (c : Nat) : Bool :=
  s.blockedOn c ≠ [] &&
  ((List.range 256).all fun n => s.coreCtx n ≠ some c || s.coreQuiet n) &&
  ((List.range 64).all fun h => s.hartCtx h ≠ some c || ((s.hartOf h).st ≠ .running && (s.hartOf h).st ≠ .wfi)) &&
  !s.engineWork c && (List.range 16).all fun p => s.outQueue p c = []

/-- The knot that the stream entry of a receive slot names with KEN = 1, as memory holds it; a reduce-through slot receives unless its
ROLE is HEAD (R385). -/
def State.slotKnot (s : State) (c : Nat) (e : SlotEntry) : Option Nat :=
  let va := s.fld (.linkwStreams c) .BASE * 0x8000 + 32 * e.stream
  match s.walk c va false false with
  | .ok pa _ _ =>
    let t := streamEntry (s.bytesAt pa 32)
    if t.ken && !(e.mode = 2 && t.role = 1) then some t.knot else none
  | _ => none

/-- The port that a slot receives on. -/
def SlotEntry.receivePort (e : SlotEntry) : Nat := if e.mode = 2 then e.inPort else e.port

/-- Does a receive slot of context c's armed image feed the object: a bobbin with REMOTE_IN by a BOBBIN slot, a knot by a
STREAM slot whose entry names it? -/
def State.slotFeeds (s : State) (c : Nat) (w : Watched) (e : SlotEntry) : Bool :=
  e.mode ≠ 0 && if w.kind = 1 then e.kind = 1 && s.flag (bobCfg w.index) .REMOTE_IN
    else w.kind = 0 && e.kind = 0 && s.slotKnot c e = some w.index

/-- Is the object port-fed (R482)? -/
def State.portFed (s : State) (c : Nat) (w : Watched) : Bool :=
  (w.kind = 1 && s.flag (bobCfg w.index) .REMOTE_IN) ||
  (w.kind = 0 && (s.image c).active && (s.image c).slots.any (s.slotFeeds c w))

/-- The ports on which probes of context c leave (R484). -/
def State.probePorts (s : State) (c : Nat) : List Nat :=
  (List.range 16).filter fun p =>
    (s.image c).active && (s.image c).slots.any fun e => e.receivePort = p && (s.blockedOn c).any fun w => s.slotFeeds c w e

/-- Payload of a PROBE symbol (R484). -/
def probePayload (i : ProbeId) (htag hops : Nat) : Nat := i.x ||| i.y <<< 8 ||| i.ctx <<< 16 ||| htag <<< 24 ||| i.pid <<< 40 ||| hops <<< 56

/-- A probe of context c sent on its ports. -/
def State.sendProbe (s : State) (c : Nat) (i : ProbeId) (hops : Nat) : State :=
  (s.probePorts c).foldl (fun s p => if s.live p then s.symbol p 0x06 (probePayload i (s.htag c) hops) else s) s

/-- The wait-for detector at a work stroke boundary, for one context. -/
def State.checkClosed (s : State) (c : Nat) : State :=
  if !s.isClosed c || !s.ctxLive c then { s with closed := breakClosed s.closed c } else
  let k := s.closedOf c
  let n := k.strokes + 1
  let fed := (s.blockedOn c).any (s.portFed c)
  if n ≤ 2 then s.setClosed c { k with strokes := n, out := none }
  else if !fed then
    match s.blockedOn c with
    | w :: _ => { s.declareHang w true 0 with closed := breakClosed s.closed c }
    | [] => s
  else
    let pid := (k.pid + 1) % 2 ^ 16
    (s.setClosed c { strokes := n, pid := pid, out := some pid }).sendProbe c { x := s.myX, y := s.myY, ctx := c, pid := pid } 0

/-- Every context's detector, at a work stroke boundary. -/
def State.checkWaitfor (s : State) : State := allContexts.foldl State.checkClosed s

/-- The probes that have not returned by a boundary are forgotten (R486). -/
def State.forgetProbes (s : State) : State := { s with closed := smMap (fun _ => Closed.none) (fun _ k => { k with out := none }) s.closed }

/-- The context that a probe from port p concerns: its armed image has the hash bits and a send slot on the port (R485). -/
def State.probeContext (s : State) (p htag : Nat) : Option Nat :=
  allContexts.find? fun c =>
    (s.image c).active && s.htag c = htag && (s.image c).slots.any fun e => e.port = p && e.mode ≠ 1

/-- PROBE: a received probe is forwarded, dropped, or declares a hang at its origin (R485, R486, R505). -/
def execProbe (p : PortId) (i : ProbeOrigin) (htag pid hops : W16) (s : State) : Out :=
  let id : ProbeId := { x := i.x.toNat, y := i.y.toNat, ctx := i.ctx, pid := pid.toNat }
  .next <|
    if !s.live p || !s.canSymbol p then s
    else if id.x = s.myX && id.y = s.myY then
      if (s.closedOf id.ctx).out = some id.pid && s.isClosed id.ctx then
        match s.blockedOn id.ctx with
        | w :: _ => { s.declareHang w true 1 with closed := breakClosed s.closed id.ctx }
        | [] => s
      else s
    else
      match s.probeContext p htag.toNat with
      | none => s
      | some c =>
        if !s.isClosed c || hops.toNat = 0xFFFF || s.probes.contains id then s
        else
          let l := s.probes ++ [id]
          { s with probes := l.drop (l.length - 64) }.sendProbe c id (hops.toNat + 1)

/-- PROGRESS_INTERVAL: while the stroke is not RUNNING, PERIOD_US of package time serves as a work stroke (R480). -/
def execProgressInterval (s : State) : Out :=
  .next (if s.strokeState = 2 || s.time < s.sampledAt + 100 * s.periodUs then s else s.sampleProgress)

end Sys2Proof.Machine
end

