-- ==== Sys2Proof/Machine/Image.lean ====
section
/-!
DEFINITION. The schedule image: its arming, validation and disarming, its work list and its milestones (R49 to R56, R67, R76,
R77, R378, R391, R453).
-/
namespace Sys2Proof.Machine

/-! ### Arming (R50, R52) -/

/-- A write of STROKE.IMAGE[c]: an image may be armed while its context is being reset, once the old one is disarmed (R470 refuses the
starts of its work, not its arming); a failed package arms none. -/
def State.imageWrite (s : State) (c : Nat) (arm : Bool) (base : Nat) : State :=
  let r := Reg.strokeImage c
  let i := s.image c
  if arm && (i.phase = .disarming || i.phase = .dropped) then s.setFlag .strokeStatus .ARM_REFUSED true
  else
    let armed := s.flag r .ARM
    let s := s.setFld r .BASE base
    if arm then
      if armed || s.failed then s
      else (s.setFlag r .ARM true).setImage c { Image.empty with phase := .validating, base := base * 0x10000 }
    else (s.dropImage c).setFlag r .ARM false

def execImageArm (c : Ctx) (base : W32) (s : State) : Out := .next (s.imageWrite c true base.toNat)
def execImageDisarm (c : Ctx) (base : W32) (s : State) : Out := .next (s.imageWrite c false base.toNat)

/-! ### Validation (R49, R50, R53, R378) -/

/-- Bytes the machine reads through context c's tables for a check of its own: nothing is recorded (R86). -/
def State.checkRead (s : State) (c va len : Nat) : Option (List Byte) :=
  (pagePieces va len).foldl (fun acc p => acc.bind fun bs =>
    match s.walk c p.1 false false with
    | .ok pa _ _ => if (linesOf pa p.2).any s.lineBad then none else some (bs ++ s.bytesAt pa p.2)
    | _ => none) (some [])

/-- A section of the header: offset and entry count. -/
def sectionAt (h : List Byte) (o : Nat) : Nat × Nat := (fieldAt h o 4, fieldAt h (o + 4) 4)

/-- The entries of a section, cut from the image's bytes. -/
def entriesOf (img : List Byte) (sec : Nat × Nat) (size : Nat) : List (List Byte) :=
  (List.range sec.2).map fun i => (img.drop (sec.1 + i * size)).take size

def workEntry (b : List Byte) : WorkEntry :=
  { step := fieldAt b 0 4, startNs := fieldAt b 4 4, target := fieldAt b 8 4, addr := BitVec.ofNat 64 (fieldAt b 0x10 8),
    arg := BitVec.ofNat 64 (fieldAt b 0x18 8) }

def slotEntry (b : List Byte) : SlotEntry :=
  { step := fieldAt b 0 4, startNs := fieldAt b 4 4, lenNs := fieldAt b 8 4, portMode := fieldAt b 0x0C 4 }

def mileEntry (b : List Byte) : MileEntry :=
  { step := fieldAt b 0 4, deadlineNs := fieldAt b 4 4, knot := fieldAt b 8 2, action := fieldAt b 0x0A 1,
    threshold := fieldAt b 0x0C 4 }

/-- TILE, IO, UNIT and KIND of TARGET (Table 2-5). -/
def WorkEntry.tile (e : WorkEntry) : Nat := if nbits e.target 5 5 = 1 then 32 else nbits e.target 4 0
def WorkEntry.unit (e : WorkEntry) : Nat := nbits e.target 13 8
def WorkEntry.isFeed (e : WorkEntry) : Bool := nbits e.target 19 16 = 1

/-- Does a STEP name a step of an image of n steps? -/
def stepOk (n step : Nat) : Bool := step = 0xFFFFFFFF || step < n

/-- Does the unit of TARGET serve context c (R54)? -/
def State.targetServes (s : State) (c : Nat) (e : WorkEntry) : Bool :=
  if e.isFeed then s.flag (.feedCh e.tile e.unit) .OWNED && s.fld (.feedCh e.tile e.unit) .CTX = c
  else s.coreServes c (8 * e.tile + e.unit)

/-- Does a work-list entry keep Table 2-5 and R53? -/
def State.workEntryOk (s : State) (c steps : Nat) (b : List Byte) : Bool :=
  let e := workEntry b
  let io := nbits e.target 5 5 = 1
  let kind := nbits e.target 19 16
  stepOk steps e.step && 2000 ≤ e.startNs && e.startNs < (s.periodUs - s.fld .strokeTiming .GUARD_US) * 1000 &&
  nbits e.target 7 6 = 0 && nbits e.target 15 14 = 0 && nbits e.target 31 20 = 0 && zeroAt b 0x0C 4 &&
  (if io then nbits e.target 4 0 = 0 && kind = 1 else kind ≤ 1 && e.unit < (if kind = 0 then 8 else 16)) &&
  s.targetServes c e

/-- Does a slot entry keep Tables 2-6 and R378, R53, and R391? -/
def State.slotEntryOk (s : State) (c steps : Nat) (b : List Byte) : Bool :=
  let e := slotEntry b
  stepOk steps e.step && 2000 ≤ e.startNs && e.startNs + e.lenNs ≤ s.periodUs * 1000 && e.mode ≤ 2 && nbits e.portMode 31 24 = 0 &&
  e.kind ≤ 2 && (e.kind = 0 || (e.ccode = 0 && e.index = 0 && e.mode ≠ 2)) &&
  (e.kind ≠ 0 || s.flag (.linkwStreams c) .LOCK)

/-- Does a milestone entry keep Table 2-7 and R53? -/
def State.mileEntryOk (s : State) (c steps : Nat) (b : List Byte) : Bool :=
  let e := mileEntry b
  stepOk steps e.step && e.deadlineNs ≤ (s.periodUs - s.fld .strokeTiming .HORIZON_US) * 1000 && e.action ≤ 1 && zeroAt b 0x0B 1 &&
  s.knotOwned c e.knot

/-- Do two slots share time on a port? -/
def slotsClash (a b : SlotEntry) : Bool :=
  ((List.range 16).any fun p => a.onPort p && b.onPort p) && a.startNs < b.startNs + b.lenNs && b.startNs < a.startNs + a.lenNs

/-- Does a slot clash with one of another armed image, whatever the steps and START_COUNT of the two (DESIGN CHOICE,
notes/assumptions/81)? -/
def State.clashes (s : State) (c : Nat) (e : SlotEntry) : Bool :=
  allContexts.any fun d => d ≠ c && (s.image d).active && (s.image d).slots.any (slotsClash e)

/-- Does the package lie inside RECT, on the torus? -/
def State.insideRect (s : State) (rect : Nat) : Bool :=
  let x0 := nbits rect 7 0
  let y0 := nbits rect 15 8
  let w := nbits rect 23 16
  let h := nbits rect 31 24
  x0 < s.xExtent && y0 < s.yExtent && w < s.xExtent && h < s.yExtent &&
  (s.myX + s.xExtent - x0) % s.xExtent ≤ w && (s.myY + s.yExtent - y0) % s.yExtent ≤ h

/-- Are the sections apart from one another and from the header (DESIGN CHOICE, notes/assumptions/81)? -/
def sectionsOk (l : List (Nat × Nat)) : Bool :=
  (l.all fun x => x.2 = 0 || 128 ≤ x.1) &&
  l.zipIdx.all fun a => l.zipIdx.all fun b => b.2 ≤ a.2 || a.1.2 = 0 || b.1.2 = 0 || a.1.1 + a.1.2 ≤ b.1.1 || b.1.1 + b.1.2 ≤ a.1.1

/-- Does the header keep Table 2-4, but for HASH and RECT? -/
def State.headerOk (s : State) (h : List Byte) : Bool :=
  let steps := fieldAt h 0x18 4
  fieldAt h 0 4 = 0x4B525453 && fieldAt h 4 2 = 1 && zeroAt h 6 2 && fieldAt h 8 8 = (s.reg .strokeTiming).toNat &&
  1 ≤ steps && steps ≤ 65536 && zeroAt h 0x40 0x40 && s.count + 1 ≤ fieldAt h 0x10 8 && s.insideRect (fieldAt h 0x1C 4) &&
  sectionsOk [((sectionAt h 0x28).1, 32 * (sectionAt h 0x28).2), ((sectionAt h 0x30).1, 16 * (sectionAt h 0x30).2),
    ((sectionAt h 0x38).1, 16 * (sectionAt h 0x38).2)]

/-- Bytes of the whole image: to the end of its last section. -/
def imageLen (h : List Byte) : Nat :=
  let stop := fun o size => if (sectionAt h o).2 = 0 then 0 else (sectionAt h o).1 + size * (sectionAt h o).2
  max 128 (max (stop 0x28 32) (max (stop 0x30 16) (stop 0x38 16)))

/-- The image that validation finds at `base`, or the status it fails with. -/
def State.validate (s : State) (c base : Nat) : Except Nat Image :=
  match s.checkRead c base 128 with
  | none => .error 0x11
  | some h =>
    if !s.headerOk h then .error 0x10 else
    match s.checkRead c base (imageLen h) with
    | none => .error 0x11
    | some img =>
      let hash := BitVec.ofNat 64 (fieldAt h 0x20 8)
      let steps := fieldAt h 0x18 4
      let ws := entriesOf img (sectionAt h 0x28) 32
      let ss := entriesOf img (sectionAt h 0x30) 16
      let ms := entriesOf img (sectionAt h 0x38) 16
      let slots := ss.map slotEntry
      if sha64 (img.take 0x20 ++ List.replicate 8 0#8 ++ img.drop 0x28) = hash && (ws.all (s.workEntryOk c steps)) &&
          (ss.all (s.slotEntryOk c steps)) && (ms.all (s.mileEntryOk c steps)) && !(slots.any (s.clashes c)) then
        .ok { phase := .armed, base := base, hash := hash, startCount := fieldAt h 0x10 8, steps := steps, begun := false, cut := false,
              works := ws.map workEntry, slots := slots, miles := ms.map mileEntry }
      else .error 0x10

/-- IMAGE_VALIDATION_DONE: PENDING on success; ILLEGAL_DESC or ACCESS otherwise, and the image is not armed. -/
def execImageValidationDone (c : Ctx) (s : State) : Out :=
  let i := s.image c
  .next <|
    if i.phase ≠ .validating then s else
    match s.validate c i.base with
    | .ok img => (s.setImage c img).setFlds (.strokeImgStat c) [(.STATUS, 1), (.STEP, 0)]
    | .error st => (s.setImage c Image.empty).setFld (.strokeImgStat c) .STATUS st

/-! ### The image at work (R51, R54, R56) -/

/-- Does the image of context c run in the present stroke: armed (or to be disarmed), not cut by a reset, STATUS OK, on a READY package
(R33, notes/assumptions/82), and step 0 begun? In a slip stroke at START_COUNT not even its buddy slots run (DESIGN CHOICE,
notes/assumptions/81). -/
def State.imageRuns (s : State) (c : Nat) : Bool :=
  (s.image c).active && !(s.image c).cut && s.fld (.strokeImgStat c) .STATUS = 0 && (s.image c).begun && s.strokeRuns && s.ctxLive c &&
  s.flag .startStat .READY

/-- The current step: STEP mod STEPS, of the 32-bit STEP also once it has wrapped (DESIGN CHOICE, notes/assumptions/81). -/
def State.currentStep (s : State) (c : Nat) : Nat := s.fld (.strokeImgStat c) .STEP % max 1 (s.image c).steps

/-- Does an entry's STEP name the current step? -/
def State.inStep (s : State) (c step : Nat) : Bool := step = 0xFFFFFFFF || step = s.currentStep c

/-- An image start at a core: into its image queue, 4 deep (R115). -/
def State.startCore (s : State) (c n : Nat) (e : WorkEntry) (ix : Nat) : State :=
  let k := s.core n
  if 4 ≤ k.imageQ.length then s.contextFault c 0x06 0 (coreTile n) (n % 8) ix
  else s.setCore n { k with imageQ := k.imageQ ++ [{ entry := e.addr, arg := e.arg }] }

/-- An image start at a Feed channel: a work without a record (R271). -/
def State.startFeed (s : State) (c i : Nat) (e : WorkEntry) (ix : Nat) : State :=
  let k := s.feedCh i
  if 16 ≤ k.queue.length then s.contextFault c 0x06 1 (feedRecTile (i / 64)) (i % 64) ix
  else
    let w : Work := { ctx := c, desc := e.addr, handle := BitVec.allOnes 64, crec := false, knot := none, held := false,
                      delayed := false, image := true }
    s.setFeedCh i { k with queue := k.queue ++ [w] }

/-- WORK_LIST_START: at an entry's START_NS in a work stroke (R54, R271), behind the Feed descriptors whose STROKE trigger has the same
time (R297). -/
def execWorkListStart (c : Ctx) (ix : EntryIx) (s : State) : Out :=
  .next (match (s.image c).works[ix.toNat]? with
    | none => s
    | some e =>
      if !s.imageRuns c || s.stroke.slip || !s.inStep c e.step || s.inGuard || s.phaseNs < e.startNs then s else
      let s := s.strokesBefore e.startNs
      let s := { s with closed := breakClosed s.closed c }
      let engine := if e.isFeed then 1 else 0
      if !s.targetServes c e then s.contextFault c 0x13 engine (if e.tile = 32 then 0xFF else e.tile) e.unit ix.toNat
      else if e.isFeed then s.startFeed c (64 * e.tile + e.unit) e ix.toNat
      else s.startCore c (8 * e.tile + e.unit) e ix.toNat)

/-- MILESTONE_CHECK: at a milestone's deadline, in a work stroke or as a re-check in a slip stroke (R56, R67, R76). -/
def execMilestoneCheck (c : Ctx) (ix : EntryIx) (s : State) : Out :=
  .next (match (s.image c).miles[ix.toNat]? with
    | none => s
    | some m =>
      if !s.imageRuns c || !s.inStep c m.step || s.phaseNs < m.deadlineNs || m.threshold ≤ s.knotCount m.knot then s
      else if m.action = 1 then s.faultNoUnit c 0x07 m.knot
      else if s.slipLimit ≤ s.consecOf c then s.faultNoUnit c 0x08 s.slipLimit
      else s.raiseVote c 0)

end Sys2Proof.Machine
end

