-- ==== Sys2Proof/Machine/Stroke.lean ====
section
/-!
DEFINITION. The commands of the stroke: its boundary, the boundary frames and their comparison, slip votes, the start, join and
stop of the stroke (R37 to R48, R57 to R76, R288, R289, R312, R372, R373, R436, R449, R450, R452, R462, R463 of spec/).
-/
namespace Sys2Proof.Machine

/-! ### The end of a start step (R436, Table 17-4) -/

/-- A start step ends PASSED (cause 0) or FAILED: START.STAT, PF vector 1, and the TMC told of START.STAT. -/
def State.endStep (s : State) (step cause : Nat) : State :=
  let elapsed := min ((s.time - s.start.since) / 1000000) 0xFFFF
  let s := s.setFlds .startStat [(.STEP, step), (.STATE, if cause = 0 then 2 else 3), (.CAUSE, cause), (.ELAPSED, elapsed)]
  (s.send (.toTmc 0x05 [(s.reg .startStat).toNat])).pfEvent 1

/-- A start step begins. -/
def State.beginStep (s : State) (step : Nat) : State :=
  let s := s.setFlds .startStat [(.STEP, step), (.STATE, 1), (.CAUSE, 0)]
  { s with start := { s.start with since := s.time, outcome := 0 } }

/-- A join that ends: the stroke STOPPED again and step 8 FAILED. -/
def State.joinFails (s : State) (cause : Nat) : State := s.stopStroke.endStep 8 cause

/-! ### Boundary frames (R61, R70, R372, R373, Table 12-4) -/

/-- The machine's own bytes written for context c; true when they are. -/
def State.tryWrite (s : State) (c va : Nat) (bs : List Byte) : State × Bool :=
  match s.mapRange c 6 0 va bs.length true with
  | (s, .ok segs) => if segs.any Seg.host then (s, false) else s.writeSegs c segs bs
  | (s, .error _) => (s, false)

/-- The image entries of port p: HASH and current step, in ascending HASH. -/
def State.imageEntries (s : State) (p : Nat) : List (W64 × Nat) :=
  ((s.comparedOn p).map fun c => ((s.image c).hash, s.currentStep c)).mergeSort fun a b => a.1.toNat ≤ b.1.toNat

/-- Beats of 64 bytes, without traffic. -/
def plainBeats (b : List Byte) : List Beat :=
  (List.range ((b.length + 63) / 64)).map fun i => { tag := 0, data := (b.drop (64 * i)).take 64 }

/-- Table 12-4 for link l of port p. `buddies` holds (port, receiving context, epoch, code); a package that holds no view puts
free values there. -/
def State.boundaryPayload (s : State) (p l : Nat) (count t1 : W64) (buddies : List (Nat × Nat × Nat × Nat)) : List Byte × State :=
  let f := s.free
  let v := match s.stroke.view with
    | some v => (toBytes 1 v.rank ++ toBytes 1 v.x ++ toBytes 1 v.y ++ toBytes 5 0 ++ toBytes 8 v.stamp, s)
    | none => (toBytes 3 f.1.toNat ++ toBytes 5 0 ++ toBytes 8 f.2.free.1.toNat, f.2.free.2)
  let es := (s.imageEntries p).flatMap fun e => toBytes 8 e.1.toNat ++ toBytes 4 e.2 ++ toBytes 4 1
  let bs := (List.range 16).flatMap fun c =>
    match buddies.find? fun b => b.1 = p && b.2.1 = c with
    | some b => toBytes 8 b.2.2.1 ++ toBytes 8 b.2.2.2
    | none => toBytes 16 0
  (toBytes 8 s.recordHash.toNat ++ toBytes 8 s.fwVersion.toNat ++ toBytes 8 count.toNat ++ toBytes 8 (s.reg .strokeTiming).toNat ++ v.1
    ++ toBytes 8 t1.toNat ++ toBytes 1 s.myX ++ toBytes 1 s.myY ++ toBytes 1 (s.fld (.portCfg p) .DIR)
    ++ toBytes 1 (s.fld (.portCfg p) .SIZE_LOG2) ++ toBytes 1 l ++ toBytes 3 0 ++ es ++ List.replicate (256 - es.length) 0 ++ bs, v.2)

/-- A BOUNDARY frame of link l of port p with a count; f is the frame number. -/
def State.sendBoundary (s : State) (p l f : Nat) (count t1 : W64) (buddies : List (Nat × Nat × Nat × Nat)) : State :=
  let b := s.boundaryPayload p l count t1 buddies
  b.2.send (.frame l 2 f 0 0 (s.count % 256) (plainBeats b.1))

/-- The boundary frame of one live link, in frame 0; that of a link that relocks is kept, to be sent late (R74). -/
def State.linkBoundary (s : State) (p l : Nat) (t1 : W64) (buddies : List (Nat × Nat × Nat × Nat)) : State :=
  let s := s.setLink l { s.link l with t1 := t1, t2 := none, sync := none, late := none }
  if (s.link l).relock.isNone then s.sendBoundary p l 0 (s.reg .strokeCount) t1 buddies
  else
    let b := s.boundaryPayload p l (s.reg .strokeCount) t1 buddies
    b.2.setLink l { b.2.link l with late := some b.1 }

/-- The boundary frames of every live link, with the stamp t1. -/
def State.sendBoundaries (s : State) (t1 : W64) (buddies : List (Nat × Nat × Nat × Nat)) : State :=
  s.livePorts.foldl (fun s p => (s.portLinks p).foldl (fun s l => s.linkBoundary p l t1 buddies) s) s

/-- The boundary frame of a link whose lock returned inside the boundary window, in its next frame (R74). -/
def State.sendLate (s : State) (l : Nat) : State :=
  match (s.link l).late with
  | some b =>
    let s := s.setLink l { s.link l with late := none }
    if s.strokeCounts && s.phaseNs < 2000 then s.send (.frame l 2 (s.phaseNs / 32 + 1) 0 0 (s.count % 256) (plainBeats b)) else s
  | none => s

/-- The answer of a package without a stroke to a BOUNDARY frame: a stopped frame, in the link's next frame, whose number the
spec does not fix. -/
def State.answerStopped (s : State) (p l : Nat) : State :=
  let f := s.freeNat 20
  let t := f.2.free
  t.2.sendBoundary p l f.1 (BitVec.allOnes 64) t.1 []

/-! ### Buddy commits at the boundary (R287 to R289) -/

/-- The header of a buddy area. -/
def buddyHeader (e : RecvEpoch) : List Byte :=
  toBytes 4 0x59444442 ++ toBytes 1 e.copy ++ toBytes 3 0 ++ toBytes 8 e.epoch ++ toBytes 8 e.snap ++ toBytes 8 e.total
    ++ toBytes 1 e.x ++ toBytes 1 e.y ++ toBytes 1 e.sctx ++ toBytes 29 0

/-- One receiving context on one port: its landed epoch committed, or an area that fails refused. -/
def State.commitEpoch (s : State) (p c : Nat) : State × List (Nat × Nat × Nat × Nat) :=
  let e := s.recvOf p c
  if !e.active then (s, [])
  else if e.bad then (s.setRecv p c RecvEpoch.none, [(p, c, e.epoch, 2)])
  else if e.landed = e.total then
    let w := s.tryWrite c e.dst.toNat (buddyHeader e)
    (w.1.setRecv p c RecvEpoch.none, [(p, c, e.epoch, if w.2 then 1 else 2)])
  else (s, [])

/-- The epochs that a buddy finds no commit pending for, their senders' contexts reset, discarded (R291). -/
def State.dropAborted (s : State) (gone : List (PortId × Ctx)) : State :=
  gone.foldl (fun s x => s.setRecv x.1 x.2 RecvEpoch.none) s

/-- Every receiving context's epoch on every port: the buddy entries of the boundary frames. -/
def State.commitEpochs (s : State) : State × List (Nat × Nat × Nat × Nat) :=
  (List.range 256).foldl (fun acc i =>
    let r := acc.1.commitEpoch (i / 16) (i % 16)
    (r.1, acc.2 ++ r.2)) (s, [])

/-- One more boundary since the last line of each epoch left (R289). -/
def State.ageEpochs (s : State) : State :=
  allContexts.foldl (fun s c =>
    let e := s.epochOf c
    if e.active && e.sent = e.total then s.setEpoch c { e with after := e.after + 1 } else s) s

/-! ### The boundary (R37, R48, R51, R52, R58, R59, R67 to R70, R77) -/

/-- Does work of context c that began in the stroke `k` still run (R68)? -/
def State.overruns (s : State) (c k : Nat) : Bool :=
  (s.nib.any fun e => s.coreCtx e.1 = some c && match e.2.run with
    | some r => r.stroke = k
    | none => false) ||
  (s.feed.any fun e => match e.2.cur with
    | some u => u.work.ctx = c && u.stroke = k
    | none => false) ||
  (s.tamb.any fun e => e.2.busy = some (c, k)) || (s.filet.any fun e => e.2.busy = some (c, k)) ||
  (s.folio.any fun e => e.2.busy = some (c, k))

/-- UNANNOUNCED_OVERRUN of one context with an armed image (R68). -/
def State.checkOverrun (s : State) (k c : Nat) : State :=
  if (s.image c).active && s.overruns c k then
    (s.setFlag .strokeStatus .UNANNOUNCED_OVERRUN true).faultNoUnit c 0x09 0
  else s

/-- The image of one context at a boundary: OK from START_COUNT on, and at a work boundary its next step. -/
def State.imageBoundary (s : State) (work : Bool) (c : Nat) : State :=
  let i := s.image c
  if i.phase ≠ .armed then s else
  let s := if s.fld (.strokeImgStat c) .STATUS = 1 && i.startCount ≤ s.count then s.setFld (.strokeImgStat c) .STATUS 0 else s
  if !work || s.fld (.strokeImgStat c) .STATUS ≠ 0 then s
  else if i.begun then s.addFld (.strokeImgStat c) .STEP 1
  else (s.setImage c { i with begun := true }).setFld (.strokeImgStat c) .STEP 0

/-- A slip stroke begins (R59): its count, its origin, and the slip vectors (Tables 13-6, 13-7). -/
def State.beginSlip (s : State) (v : Vote) : State :=
  let self := v.x = s.myX && v.y = s.myY
  let s := ((s.addFld .strokeSlips .SLIPS 1).setFlag .strokeStatus .SLIP true).setFlds .strokeSlipOrigin
    [(.COUNT_LO, s.countLo), (.SELF, if self then 1 else 0), (.CONTEXT, v.ctx), (.CAUSE, v.cause), (.Y, v.y), (.X, v.x)]
  allContexts.foldl (fun s c => s.vfEvent c 2) (s.pfEvent 3)

/-- Consecutive votes of every context at the boundary that ends a stroke (R67). -/
def nextConsec (voted : List Nat) (old : SMap Nat) : SMap Nat :=
  allContexts.foldl (fun m c => smSet (fun _ => 0) m c (if voted.contains c then smGet (fun _ => 0) old c + 1 else 0)) []

/-- RUNNING or HOLDOVER by the port offsets (R48), and a join that ends (R449). -/
def State.strokeMode (s : State) : State :=
  let valid := (List.range 16).any fun p => s.flag (.strokeOffset p) .VALID
  match s.strokeState with
  | 1 => if 2 ≤ s.stroke.steady then (s.setFld .strokeStatus .STATE 2).endStep 8 0 else s
  | 2 => if valid then s else s.setFld .strokeStatus .STATE 3
  | 3 => if valid then s.setFld .strokeStatus .STATE 2 else s
  | _ => s

/-- Ports whose training passed become LIVE (Table 12-5). -/
def State.portsGoLive (s : State) : State :=
  (List.range 16).foldl (fun s p =>
    if s.portIs p = 2 && (s.port p).passed then (s.setPortState p 4).setPort p { s.port p with passed := false } else s) s

/-- Feed descriptors armed on STROKE see a work stroke begin (Table 9-6). -/
def State.markStrokes (s : State) : State :=
  { s with feed := smMap (fun _ => FeedCh.idle) (fun _ k => { k with cur := k.cur.map fun u =>
      { u with strokeAt := if u.strokeAt.isNone && u.d.trig = 4 then some s.count else u.strokeAt } }) s.feed }

/-- STOP takes effect (R69): every context with an armed image faults, the images are disarmed, the stroke is STOPPED. -/
def State.stopAtBoundary (s : State) : State :=
  let armed := allContexts.filter fun c => (s.image c).active
  let s := armed.foldl (fun s c => s.faultNoUnit c 0x0A 0) s
  (armed.foldl (fun s c => s.disarm c) s).stopStroke

/-- The count, the slip decision and the stroke's own lists at a boundary. -/
def State.turnStroke (s : State) : State :=
  let k := s.stroke
  let s := (s.addFld .strokeCount .COUNT 1).setFld .strokePhase .PHASE 0
  let s := { s with stroke := { k with vote := none, slip := k.vote.isSome, voted := [], consec := nextConsec k.voted k.consec,
                                       missedPrev := k.missedNow, missedNow := [] } }
  let s := (List.range 16).foldl (fun s p => s.setPort p { s.port p with framed := false }) s
  match k.vote with
  | some v => s.beginSlip v
  | none => s

/-- What a boundary does in a stroke that runs or joins. -/
def State.boundary (s : State) (t1 : W64) (gone : List (PortId × Ctx)) : State :=
  let old := s.count
  let s := s.turnStroke
  let work := !s.stroke.slip && s.strokeRuns
  let s := if s.stroke.slip then s else allContexts.foldl (fun s c => s.checkOverrun old c) s
  let s := s.disarmDue.strokeMode.portsGoLive
  let s := allContexts.foldl (fun s c => s.imageBoundary work c) s
  let s := if work then s.markStrokes else s
  let s := if s.strokeRuns then s.declareAnchor else s.showAnchor
  let b := (s.ageEpochs.dropAborted gone).commitEpochs
  let s := b.1.sendBoundaries t1 b.2
  let s := s.filetReports (old % 2 ^ 32)
  let s := s.forgetProbes
  let s := if work then
      let s := if s.strokeState = 2 then s.sampleProgress else s
      s.checkWaitfor
    else s
  if s.stroke.stopping then s.stopAtBoundary else s.checkReady

/-- STROKE_BOUNDARY: the stroke period expires; t1 is the stamp of the boundary frames at the pins, `gone` the receive epochs whose
sender aborted them in its context's reset. -/
def execStrokeBoundary (t1 : W64) (gone : List (PortId × Ctx)) (s : State) : Out :=
  .next (if s.strokeCounts && s.reached (s.periodUs * 1000) then s.boundary t1 gone else s)

/-! ### The close of the boundary window (R39, R43, R44, R47, R449) -/

/-- The mean of a list, toward zero; 0 of none. -/
def meanOf (l : List Int) : Int := l.sum.tdiv l.length

/-- Did the port deliver a boundary frame of a running far end in this stroke (R64, R70)? -/
def PortSt.heard (k : PortSt) : Bool := k.framed && k.missed = 0 && !k.farStopped

/-- The offset and delay of one port from its links' exchanges, its alarm and its fence; a port that delivered no boundary frame takes
no time update (R64). -/
def State.portOffset (s : State) (p : Nat) : State :=
  let ex := if s.live p && (s.port p).heard then (s.portLinks p).filterMap fun l => (s.link l).sync else []
  if ex = [] then s.setFlag (.strokeOffset p) .VALID false else
  let o := meanOf (ex.map Prod.fst)
  let d := meanOf (ex.map Prod.snd)
  let s := s.setFlds (.strokeOffset p) [(.VALID, 1), (.DELAY, (d % 2 ^ 31).toNat), (.OFFSET, (o % 2 ^ 32).toNat)]
  let s := if 5 * 256 < o.natAbs then (s.setFlag .strokeStatus .SKEW_ALARM true).pfEvent 2 else s
  if 16 * 256 < o.natAbs then s.fence p 6 [] else s

/-- The offsets of the ports that are VALID. -/
def State.validOffsets (s : State) : List Int :=
  (List.range 16).filterMap fun p =>
    if s.flag (.strokeOffset p) .VALID then some (BitVec.ofNat 32 (s.fld (.strokeOffset p) .OFFSET)).toInt else none

/-- Held works released: those that dispatches and posts of the guard left on the units (R39). -/
def State.releaseHeld (s : State) : State :=
  let free := fun (w : Work) => { w with held := false }
  { s with
    nib := smMap (fun _ => NibCore.off) (fun _ k => { k with postQ := k.postQ.map fun p => { p with held := false } }) s.nib
    feed := smMap (fun _ => FeedCh.idle) (fun _ k => { k with queue := k.queue.map free }) s.feed
    tamb := smMap (fun _ => TambArray.idle) (fun _ k => { k with queue := k.queue.map free }) s.tamb
    filet := smMap (fun _ => FiletUnit.idle) (fun _ k => { k with queue := k.queue.map free }) s.filet
    folio := smMap (fun _ => FolioUnit.idle) (fun _ k => { k with queue := k.queue.map free }) s.folio }

/-- The rate trim that the machine derives from successive offsets (R44): a value the spec does not give, within ±20 ppm (R42,
notes/assumptions/83). -/
def State.trimRate (s : State) : State :=
  let f := s.freeNat 16
  { f.2 with stroke := { f.2.stroke with trim := (f.1 % 40001 : Nat) - 20000 } }

/-- BOUNDARY_WINDOW_CLOSE. The slew is half the mean offset, over the 16 µs that follow; the anchor and a package in HOLDOVER
do not slew, and keep their rate (R44, R48). -/
def execBoundaryWindowClose (s : State) : Out :=
  .next <|
    if !s.strokeCounts then s else
    let s := (List.range 16).foldl State.portOffset s
    let os := s.validOffsets
    let good := os ≠ [] && os.all fun o => o.natAbs ≤ 5 * 256
    let slews := os ≠ [] && !s.flag .strokeAnchor .SELF && s.strokeState ≠ 3
    let k := { s.stroke with steady := if good then s.stroke.steady + 1 else 0, slew := if slews then (meanOf os).tdiv 2 else 0,
                             slewTicks := if slews then 1600 else 0 }
    let s := { s with stroke := k }
    let s := if slews then s.trimRate else s
    if s.strokeRuns && !s.stroke.slip then s.releaseHeld else s

/-! ### Received frames (R41, R61, R62, R64, R70, R288, R372, R449, R463) -/

/-- The view a frame carries, one hop further (R41). -/
def frameView (f : FrameFields) (count : Nat) : AnchorView :=
  { rank := f.rank.toNat, x := f.anchorX.toNat, y := f.anchorY.toNat, stamp := f.stamp.toNat, hops := count - f.stamp.toNat + 1 }

/-- The contexts of port p whose image the frame does not carry at the same step. -/
def State.differing (s : State) (p : Nat) (l : List FrameImage) : List Nat :=
  (s.comparedOn p).filter fun c =>
    !l.any fun e => e.hash = (s.image c).hash && e.step.toNat = s.currentStep c

/-- The lowest dissent cause a frame gives, if any (R62, R373). -/
def State.frameCause (s : State) (p : Nat) (f : FrameFields) : Option Nat :=
  if f.record ≠ s.recordHash then some 1
  else if f.fw ≠ s.fwVersion then some 2
  else if f.count.toNat ≠ s.count then some 3
  else if f.timing ≠ s.reg .strokeTiming then some 4
  else if f.images.map (fun e => (e.hash, e.step.toNat)) ≠ s.imageEntries p then some 5
  else none

/-- The sender's epoch that a buddy entry speaks of: of its EPOCH, on its port, all its lines sent; that of the context with the
entry's own number first. A refusal may come before the last line left (R288). -/
def State.epochFor (s : State) (p : Nat) (b : FrameBuddy) : Option Nat :=
  (b.rctx.val :: allContexts).find? fun c =>
    let e := s.epochOf c
    e.active && e.port = p && (e.sent = e.total || b.code = .refuse) && e.epoch = b.epoch.toNat

/-- A commit or refusal that arrived (R288). -/
def State.buddyEntry (s : State) (p : Nat) (b : FrameBuddy) : State :=
  match s.epochFor p b with
  | none => s
  | some c => match b.code with
    | .commit => s.endEpoch c 3 none
    | .refuse => s.endEpoch c 6 (some (0x11, 0x55))

/-- The clock of a joining package set from a frame of port p, once (R449). -/
def State.setClock (s : State) (p l : Nat) (f : FrameFields) : State :=
  let s := (s.setReg .strokeCount f.count).setFld .strokePhase .PHASE (s.link l).delay
  { s with stroke := { s.stroke with clockSet := true, setBy := (s.time, p), steady := 0 } }.holdView (frameView f f.count.toNat)

/-- Was the clock of a joining package set by a higher port in this frame slot of 32 ns, so that port p goes before it (R449)? -/
def State.setsBefore (s : State) (p : Nat) : Bool := s.strokeState = 1 && p < s.stroke.setBy.2 && s.time ≤ s.stroke.setBy.1 + 3

/-- A frame compared by an end whose stroke runs or joins; the commits and refusals it brought count whatever it says besides
(R299). -/
def State.compareFrame (s : State) (p l : Nat) (f : FrameFields) (t2 : W64) (late : Bool) : State :=
  let s := f.buddies.foldl (fun s b => s.buddyEntry p b) s
  match s.frameCause p f with
  | some 3 => if s.strokeState = 1 then s.joinFails 11 else s.fence p 3 []
  | some cause => s.fence p cause (if cause = 5 then s.differing p f.images else [])
  | none =>
    let s := s.setPort p { s.port p with framed := true, missed := 0, farStopped := false }
    let s := if late then s else s.setLink l { s.link l with t2 := some t2 }
    if s.setsBefore p then s.setClock p l f else s.offerView (frameView f s.count)

/-- BOUNDARY_FRAME: a frame of a far end whose stroke runs, on link l, with the stamp t2 of its arrival; a late frame's TIME
field is discarded (R74). -/
def execBoundaryFrame (l : LinkId) (f : FrameFields) (t2 : W64) (late : Bool) (s : State) : Out :=
  .next (match s.portOfLink l with
    | none => s
    | some p =>
      let clock := s.strokeCounts
      let s := if s.portIs p = 2 && (s.port p).passed && !clock then
          (s.setPortState p 4).setPort p { s.port p with passed := false } else s
      if !s.live p || (s.link l).relock.isSome then s
      else if clock then s.compareFrame p l f t2 late
      else
        let s := s.setPort p { s.port p with framed := true, missed := 0, farStopped := false }
        let s := s.answerStopped p l
        if s.strokeState = 1 then s.setClock p l f else s)

/-- STOPPED_FRAME: the frame of a STOPPED far end; only RECORD_HASH and FW_VERSION are compared. -/
def execStoppedFrame (l : LinkId) (record fw : W64) (s : State) : Out :=
  .next (match s.portOfLink l with
    | none => s
    | some p =>
      if !s.live p || (s.link l).relock.isSome then s else
      let s := s.setPort p { s.port p with framed := true, missed := 0, farStopped := true }
      if !s.strokeRuns then s
      else if record ≠ s.recordHash then s.fence p 1 []
      else if fw ≠ s.fwVersion then s.fence p 2 []
      else ((s.setFlag (.strokeOffset p) .VALID false).setLink l { s.link l with t2 := none, sync := none }).faultEach
        (s.contextsOn p) 0x0C 0xFF 0xFF 0xFFFF p)

/-- REPLY_FRAME: t2 and t3 of the far end, and t4 of its arrival, complete the exchange of link l (R43). -/
def execReplyFrame (l : LinkId) (t2 t3 t4 : W64) (s : State) : Out :=
  .next (match s.portOfLink l with
    | none => s
    | some p =>
      if !s.live p || (s.link l).relock.isSome || s.strokeState = 0 then s else
      let k := s.link l
      let out := (t2 - k.t1).toInt
      let back := (t4 - t3).toInt
      let asym := (BitVec.ofNat 32 (s.fld (linkStateReg l) .ASYM)).toInt
      s.setLink l { k with sync := some ((out - back).tdiv 2 - asym.tdiv 2, (out + back).tdiv 2) })

/-- BOUNDARY_FRAME_MISSED: a stroke in which a live port delivered none; the second in a row takes the port down (R64). -/
def execBoundaryFrameMissed (p : PortId) (s : State) : Out :=
  let k := s.port p
  .next <|
    if !s.live p || k.framed || !s.strokeCounts then s else
    let s := (s.addFld (.portCount p) .MISSED_BOUNDARY 1).setFlag (.strokeOffset p) .VALID false
    if 1 ≤ k.missed then (s.sendDown p 12).portDown p 12 else s.setPort p { k with framed := true, missed := k.missed + 1 }

/-! ### Slip votes (R56 to R58, R66, R73, R172) -/

/-- SLIP: a vote that arrives on a port; one of a past stroke is discarded. -/
def execSlip (p : PortId) (countLo : W16) (x y : Byte) (c : Ctx) (cause : BitVec 3) (s : State) : Out :=
  .next <|
    if !s.live p || !s.canSymbol p || !s.strokeCounts || countLo.toNat ≠ s.count % 2 ^ 16 then s else
    s.takeVote { x := x.toNat, y := y.toNat, ctx := c, cause := cause.toNat } (some p)

/-- VOTE_SLIP: a vote with cause DRIVER. STROKE.CTRL names no context: the one the vote carries is free. -/
def State.voteSlip (s : State) : State :=
  if !s.strokeRuns then s else
  let f := s.freeNat 4
  f.2.takeVote { x := s.myX, y := s.myY, ctx := f.1, cause := 2 } none

def execVoteSlip (s : State) : Out := .next s.voteSlip

/-- SVOTE: a vote with cause PROGRAM for the core's context. -/
def execSvote (n : CoreId) (s : State) : Out :=
  .next (s.nibStep n fun s k =>
    match s.coreCtx n with
    | some c => (s.nibDone n k).raiseVote c 1
    | none => s.nibDone n k)

/-! ### START and STOP (R60, R69, R436, R449, R450, R457, R462) -/

/-- The torus diameter by X_SPAN and Y_SPAN. -/
def State.diameter (s : State) : Nat := s.xExtent / 2 + s.yExtent / 2

/-- Does STROKE.TIMING break R60? HORIZON_US is compared with H_min in hundredths of a µs. -/
def State.timingBad (s : State) : Bool :=
  let h := s.fld .strokeTiming .HORIZON_US
  let g := s.fld .strokeTiming .GUARD_US
  s.periodUs < 64 || 16384 < s.periodUs || g < 4 || h ≤ g || 100 * h < 35 * s.diameter + 800 || s.periodUs < h + 2

/-- Does a LIVE port face a neighbour whose stroke runs? -/
def State.facesRunning (s : State) : Bool := s.livePorts.any fun p => !(s.port p).farStopped

/-- STROKE_START. -/
def State.strokeStart (s : State) : State :=
  if s.strokeState ≠ 0 || s.failed then s
  else if s.start.passed ≠ some 7 then s.setFlag .startStat .ORDER_ERR true
  else if s.timingBad then s.setFlag .strokeStatus .TIMING_ERR true
  else
    let found := s.flag .startStat .FOUND_ARMED && !s.facesRunning
    let s := ((s.setFlag .strokeCtrl .LOCK true).setFlag .startStat .FOUND_ARMED false).setReg .strokeSlips 0
    let s := { s with stroke := Stroke.stopped }.beginStep 8
    if found then
      let s := ((s.setFld .strokeStatus .STATE 2).setReg .strokeCount 0).setFld .strokePhase .PHASE 0
      s.declareAnchor.endStep 8 0
    else s.setFld .strokeStatus .STATE 1

def execStrokeStart (s : State) : Out := .next s.strokeStart

/-- STROKE_STOP: at the next boundary; at once where the package joins. -/
def State.strokeStop (s : State) : State :=
  if s.strokeRuns then { s with stroke := { s.stroke with stopping := true } }
  else if s.strokeState = 1 then s.joinFails 12
  else s

def execStrokeStop (s : State) : Out := .next s.strokeStop

/-- JOIN_TIMEOUT: 64 strokes after START. -/
def execJoinTimeout (s : State) : Out :=
  .next (if s.strokeState = 1 && s.start.since + 6400 * s.periodUs ≤ s.time then s.joinFails 10 else s)

end Sys2Proof.Machine
end

