-- ==== Sys2Proof/Machine/SlotOps.lean ====
section
/-!
DEFINITION. Slots: when one is due, its frames and capacity, what a sender stages for it, what a hop forwards, and how it is
missed (R59, R248, R249, R286, R377 to R387 of spec/).
-/
namespace Sys2Proof.Machine

/-! ### A slot's place in the stroke (R59, R377) -/

def slotEmpty : SlotEntry := { step := 0, startNs := 0, lenNs := 0, portMode := 0 }

/-- Slot ix of context c's image. -/
def State.slotAt (s : State) (c ix : Nat) : Option SlotEntry := (s.image c).slots[ix]?

/-- First frame, and the frame after the last, of a slot. -/
def SlotEntry.frame0 (e : SlotEntry) : Nat := (e.startNs + 31) / 32
def SlotEntry.frameEnd (e : SlotEntry) : Nat := (e.startNs + e.lenNs) / 32

/-- Links of a port. -/
def State.portSize (s : State) (p : Nat) : Nat := 2 ^ s.fld (.portCfg p) .SIZE_LOG2

/-- Capacity of a slot in beats, on its own port. -/
def State.slotBeats (s : State) (e : SlotEntry) : Nat := (e.frameEnd - e.frame0) * 46 * s.portSize e.port

/-- Is the slot due in the present stroke? In a slip stroke a buddy slot is, and one that was missed in the preceding stroke:
here, or at another end of its chain (`rerun`). -/
def State.slotDue (s : State) (c ix : Nat) (e : SlotEntry) (rerun : Bool) : Bool :=
  s.imageRuns c && s.inStep c e.step && (!s.stroke.slip || e.kind = 2 || rerun || s.stroke.missedPrev.contains (c, ix))

/-- The run of slot ix of context c. -/
def State.slotRun (s : State) (c ix : Nat) : Option SlotRun := s.slots.find? fun r => r.ctx = c && r.idx = ix

/-- A run put in place of the one of the same slot. -/
def State.setSlotRun (s : State) (r : SlotRun) : State :=
  { s with slots := (s.slots.filter fun x => !(x.ctx = r.ctx && x.idx = r.idx)) ++ [r] }

def State.dropSlotRun (s : State) (c ix : Nat) : State :=
  { s with slots := s.slots.filter fun x => !(x.ctx = c && x.idx = ix) }

/-- A run before anything of it happened. -/
def freshRun (c ix : Nat) (e : SlotEntry) (t : Option StreamEntry) : SlotRun :=
  { ctx := c, idx := ix, e := e, stream := t, begun := false, held := false, missed := false, first := e.frame0, rx := none, out := [],
    got := [], lasts := [], msgs := [] }

/-- The MISSED symbol of a run on its own port. -/
def State.sayMissed (s : State) (r : SlotRun) : State := s.sendMissed r.e.port r.e.binding r.e.frame0 (s.htag r.ctx)

/-- The MISSED symbol of a run that sends. -/
def State.tellMissed (s : State) (r : SlotRun) : State := if r.sends then s.sayMissed r else s

/-- The MISSED symbol of a run missed by what it receives: a THROUGH, TAIL or COPY hop, whose role its entry gives, tells its own port
(R386). -/
def State.relayMissed (s : State) (r : SlotRun) : State :=
  if r.e.mode = 2 && (r.role.isSome && r.role ≠ some 1) then s.sayMissed r else s

/-! ### The stream entry (Table 12-8, R379, R383) -/

/-- Does an entry keep Table 12-8 for its slot? ROLE and PTYPE are fields of MODE 2 alone; KNOT is one of the 4,096 (who owns it is judged
at the arrival, R600). -/
def streamOk (e : SlotEntry) (b : List Byte) : Bool :=
  let t := streamEntry b
  t.addr % 64 = 0 && t.bytes % 64 = 0 && (e.ccode = 0 || t.bytes % payloadGroup e.ccode = 0) && nbits (fieldAt b 0x0C 1) 7 5 = 0 &&
  t.ptype ≤ 1 && (e.mode = 2 || (t.role = 0 && t.ptype = 0)) && (!t.ken || t.knot < 4096) && zeroAt b 0x1C 4

/-- The addresses an entry needs in its slot: (address, to be written). -/
def neededRanges (e : SlotEntry) (t : StreamEntry) : List (Nat × Bool) :=
  match e.mode with
  | 0 => [(t.addr, false)]
  | 1 => [(t.addr, true)]
  | _ => match t.role with
    | 2 => [(t.addr, false), (t.waddr, true)]
    | 3 => [(t.waddr, true)]
    | _ => [(t.addr, false)]

/-- A stream error (R383): STATUS, the count, VF vector LINK, the fault, and MISSED where the slot would send. -/
def State.streamError (s : State) (r : SlotRun) (status : Option Nat) : State :=
  let s := match status with
    | some st => s.streamStatus r st
    | none => s
  let s := ((s.addFld (.linkwStat r.ctx) .STREAM_ERR 1).vfEvent r.ctx 6).tellMissed r
  (s.dropSlotRun r.ctx r.idx).faultNoUnit r.ctx 0x0E r.e.stream

/-- Do the wire bytes exceed the capacity of a port that the slot uses (R380, R383)? -/
def State.overCapacity (s : State) (e : SlotEntry) (t : StreamEntry) : Bool :=
  let ports := if e.mode = 2 then (if t.role = 1 then [] else [e.inPort]) ++ (if t.role = 2 then [] else [e.port]) else [e.port]
  ports.any fun p => 64 * ((e.frameEnd - e.frame0) * 46 * s.portSize p) < wireLen e.ccode t.bytes

/-- What the prefetch of a slot finds: the entry, or the STATUS of the error. -/
def State.prefetch (s : State) (c : Nat) (e : SlotEntry) : State × Except (Option Nat) StreamEntry :=
  match s.checkRead c (s.fld (.linkwStreams c) .BASE * 0x8000 + 32 * e.stream) 32 with
  | none => (s, .error none)
  | some b =>
    let t := streamEntry b
    if !streamOk e b || s.overCapacity e t then (s, .error (some 0x10))
    else
      let r := (neededRanges e t).foldl (fun (acc : State × Bool) x =>
        let m := acc.1.linkRange c x.1 t.bytes x.2
        (m.1, acc.2 && m.2.isSome)) (s, true)
      (r.1, if r.2 then .ok t else .error (some 0x11))

/-! ### What a sender stages (R249, R286, R380, R384, R385) -/

/-- Bytes as beats of 64 without tags; the rest of a last beat is not given. -/
def beatsOf (b : List Byte) : List Beat :=
  (List.range ((b.length + 63) / 64)).map fun i => { tag := 0, data := (b.drop (64 * i)).take 64 }

/-- A message as beats: START, LEN_M1 and INDEX in the tag of the first (Table 12-3). -/
def messageBeats (m : OutMsg) : List Beat :=
  (beatsOf m.data).zipIdx.map fun x =>
    if x.2 = 0 then { x.1 with tag := BitVec.ofNat 32 (2 ^ 29 + (m.data.length / 16 - 1) % 16 * 2 ^ 25 + m.index % 2 ^ 13 * 2 ^ 12) } else x.1

/-- Messages from the head of a queue as long as they fit in a number of beats: those taken, and the rest. -/
def takeMessages : List OutMsg → Nat → List OutMsg × List OutMsg
  | [], _ => ([], [])
  | m :: ms, room =>
    let n := (m.data.length + 63) / 64
    if n ≤ room then
      let r := takeMessages ms (room - n)
      (m :: r.1, r.2)
    else ([], m :: ms)

/-- Where the bytes [off, off + n) of a buddy epoch's regions lie, in list order. -/
def epochSegs (e : Epoch) (off n : Nat) : List Seg :=
  subSegs (e.pages.map fun p => { host := false, addr := p.2.1, len := p.2.2, mcomp := false }) off n

/-- A read of an epoch's regions that completes with UNCORR_MEM ends the epoch and its work (R293); Table 9-9 names no STATE for it. -/
def State.epochUncorr (s : State) (c : Nat) : State :=
  let st := s.freeNat 4
  let f := st.2.freeNat 16
  f.2.endEpoch c st.1 (some (0x12, f.1))

/-- A run with what it is to send, as it begins; or the status that stops it. Reads of local data may fail. -/
def State.stage (s : State) (r : SlotRun) : State × Except Nat SlotRun :=
  let c := r.ctx
  let room := s.slotBeats r.e
  match r.e.kind, r.stream with
  | 0, some t =>
    if r.e.mode = 1 || r.role = some 3 then (s, .ok r) else
    match s.linkRange c t.addr t.bytes false with
    | (s, none) => (s, .error 0x11)
    | (s, some segs) =>
      match s.readSegs c segs with
      | (s, none) => (s, .error 0x12)
      | (s, some b) => (s, .ok { r with out := beatsOf (if r.role = some 0 || r.role = some 2 then b else compress r.e.ccode b) })
  | 1, _ =>
    if r.e.mode ≠ 0 then (s, .ok r) else
    let q := takeMessages (s.outQueue r.e.port c) room
    let s := s.setOutQueue r.e.port c q.2
    let n := smGet (fun _ => 0) s.taken (16 * r.e.port + c) + q.1.length
    ({ s with taken := smSet (fun _ => 0) s.taken (16 * r.e.port + c) n }, .ok { r with out := q.1.flatMap messageBeats })
  | 2, _ =>
    let e := s.epochOf c
    if r.e.mode ≠ 0 || !e.active || e.port ≠ r.e.port then (s, .ok r) else
    let n := min (e.total - e.sent) (64 * room)
    match s.readSegs c (epochSegs e e.sent n) with
    | (s, some b) => (s.setEpoch c { s.epochOf c with sent := e.sent + n }, .ok { r with out := beatsOf b })
    | (s, none) => (s.epochUncorr c, .ok r)
  | _, _ => (s, .ok r)

/-- Beats of a run's traffic on its port. -/
def SlotRun.beats (r : SlotRun) : Nat := if r.forwards then (r.wireBytes + 63) / 64 else r.out.length

/-- Frames that a run's traffic takes on its port. -/
def State.framesFor (s : State) (r : SlotRun) : Nat := (r.beats + 46 * s.portSize r.e.port - 1) / (46 * s.portSize r.e.port)

/-- The frame in which a run's traffic leaves first: of one that forwards, LAG frames after its first frame came (R386). -/
def State.sendStart (s : State) (r : SlotRun) : Nat := match r.rx with
  | some f => if r.forwards then max r.first (f + s.fld (.portState r.e.inPort) .LAG) else r.first
  | none => r.first

/-- The run begins at a frame, with its data staged; a failed read stops it. -/
def State.beginSlot (s : State) (r : SlotRun) (frame : Nat) : State :=
  match s.stage r with
  | (s, .ok r) => s.setSlotRun { r with begun := true, held := false, first := frame }
  | (s, .error 0x12) => ((s.tellMissed r).dropSlotRun r.ctx r.idx).faultNoUnit r.ctx 0x02 0x12
  | (s, .error st) => s.streamError r (some st)

/-- A held slot tried again (R387): sent from the next frame when its last frame still ends by S + L, missed otherwise. -/
def State.resumeSlot (s : State) (r : SlotRun) : State :=
  let frame := s.phaseNs / 32 + 1
  let t := s.beginSlot r frame
  match t.slotRun r.ctx r.idx with
  | none => t
  | some x =>
    if t.sendStart x + t.framesFor x ≤ r.e.frameEnd then t
    else (s.setSlotRun { r with held := false, missed := true }).tellMissed r

/-- Does a relock of either end hold the port's slots (R387)? -/
def State.relocking (s : State) (p : Nat) : Bool := (s.portLinks p).any fun l => (s.link l).relock.isSome || (s.link l).farRelock

/-- The slots that a relock held on a port, once no link of it relocks any more. -/
def State.resumeHeld (s : State) (p : Nat) : State :=
  if s.relocking p then s else (s.slots.filter fun r => r.held && r.e.port = p).foldl State.resumeSlot s

/-- Beat j of a run as it leaves. -/
def SlotRun.beat (r : SlotRun) (j : Nat) : Option Beat :=
  if !r.forwards then r.out[j]? else
  match r.stream with
  | some t => (r.forwardBytes t (64 * j) (min 64 (r.wireBytes - 64 * j))).map fun b => { tag := 0, data := b }
  | none => none

/-- The beats of link number li of a port of n links in frame k of the slot (R377): their numbers. -/
def frameBeats (n li k total : Nat) : List Nat :=
  ((List.range 46).map fun pos => k * 46 * n + pos * n + li).filter (· < total)

/-- VALID, and LAST where no later beat goes to the same link. -/
def tagBeat (n total j : Nat) (b : Beat) : Beat :=
  { b with tag := b.tag ||| BitVec.ofNat 32 (2 ^ 31) ||| BitVec.ofNat 32 (if total ≤ j + n then 2 ^ 30 else 0) }

end Sys2Proof.Machine
end

