-- ==== Sys2Proof/Machine/Ports.lean ====
section
/-!
DEFINITION. The commands of ports and links: forming and training a port, its symbols, loss of signal, relock, and the pattern
generators (R63, R363 to R368, R374 to R376, R387 to R400, R451, R459, R594 of spec/).
-/
namespace Sys2Proof.Machine

/-! ### Forming a port (R368, R395) -/

def State.cfgErr (s : State) : State := s.setFlag (.linkdStatus 0) .CFG_ERR true

/-- The geometry in PORT.CFG: DIR, SIZE_LOG2, FIRST. -/
def State.portGeom (s : State) (p : Nat) : Nat × Nat × Nat :=
  (s.fld (.portCfg p) .DIR, s.fld (.portCfg p) .SIZE_LOG2, s.fld (.portCfg p) .FIRST)

def State.setGeom (s : State) (p : Nat) (g : Nat × Nat × Nat) : State :=
  s.setFlds (.portCfg p) [(.DIR, g.1), (.SIZE_LOG2, g.2.1), (.FIRST, g.2.2)]

/-- May the port be enabled: FIRST a multiple of the size, no link in another enabled port? -/
def State.geomOk (s : State) (p : Nat) : Bool :=
  s.fld (.portCfg p) .FIRST % s.portSize p = 0 &&
  (List.range 16).all fun q => q = p || !s.flag (.portCfg q) .ENABLE || (s.portLinks p).all fun l => !(s.portLinks q).contains l

/-- A write of PORT.CFG with ENABLE = 1; `signal` says whether the outside gives every link of the bundle signal. A port in TEST stays there until
DOWN (R389). -/
def State.portEnable (s : State) (p : Nat) (g : Nat × Nat × Nat) (signal : Bool) : State :=
  if s.flag (.portCfg p) .ENABLE then (if s.portGeom p = g then s else s.cfgErr)
  else
    let s := s.setGeom p g
    if !s.geomOk p then s.cfgErr
    else
      let s := s.setFlag (.portCfg p) .ENABLE true
      if s.portIs p ≠ 0 then s
      else if s.finds p signal then s.startTraining p else s.setPortState p 1

def execPortEnable (p : PortId) (dir size : BitVec 2) (first : BitVec 3) (signal : Bool) (s : State) : Out :=
  .next (s.portEnable p (dir.toNat, size.toNat, first.toNat) signal)

/-- A write of PORT.CFG with ENABLE = 0: a LIVE port stops as one that goes down, at this end; one in TEST stays there until DOWN. -/
def State.portDisable (s : State) (p : Nat) (g : Nat × Nat × Nat) : State :=
  if !s.flag (.portCfg p) .ENABLE then s.setGeom p g
  else
    let s := if s.portGeom p = g then s else s.cfgErr
    let s := if s.portIs p = 7 then s else ((s.linkDown p).setPortState p 0).setPort p PortSt.idle
    s.setFlag (.portCfg p) .ENABLE false

def execPortDisable (p : PortId) (dir size : BitVec 2) (first : BitVec 3) (s : State) : Out :=
  .next (s.portDisable p (dir.toNat, size.toNat, first.toNat))

/-! ### PORT.CTRL (R375, R389, R393) -/

/-- Do the port's transmitters run, so that DOWN leaves before they go idle? -/
def State.transmits (s : State) (p : Nat) : Bool := [2, 3, 4, 5, 7].contains (s.portIs p)

/-- A port put DOWN, DOWN sent first. -/
def State.goDown (s : State) (p cause : Nat) : State := (if s.transmits p then s.sendDown p cause else s).portDown p cause

def State.ctrlRetrain (s : State) (p : Nat) : State := if s.portIs p = 0 || s.portIs p = 7 then s else s.startTraining p
def State.ctrlDown (s : State) (p : Nat) : State := if s.portIs p = 0 then s else s.goDown p 14
def State.ctrlTest (s : State) (p : Nat) : State := if [0, 1, 3, 6].contains (s.portIs p) then s.setPortState p 7 else s

def execPortCtrlRetrain (p : PortId) (s : State) : Out := .next (s.ctrlRetrain p)
def execPortCtrlDown (p : PortId) (s : State) : Out := .next (s.ctrlDown p)
def execPortCtrlTest (p : PortId) (s : State) : Out := .next (s.ctrlTest p)

/-! ### Signal (R388, Table 12-5) -/

/-- ABSENT_SAMPLE: the receivers of an ABSENT port are sampled; signal on every link starts training. -/
def execAbsentSample (p : PortId) (signal : Bool) (s : State) : Out :=
  .next (if s.portIs p = 1 && s.finds p signal then s.startTraining p else s)

/-- LOSS_OF_SIGNAL on the links of `lost`: all of a LIVE port make it ABSENT, some put it DOWN with cause 10. -/
def execLossOfSignal (p : PortId) (lost : Byte) (s : State) : Out :=
  let mask := lost.toNat % 2 ^ s.portSize p
  .next <|
    if !s.live p || mask = 0 then s
    else if mask = 2 ^ s.portSize p - 1 then ((s.linkDown p).setPortState p 1).setPort p PortSt.idle
    else s.goDown p 10

/-! ### Training (R374, R375, Table 12-6) -/

/-- TRAINING_STEP_TIMEOUT: the attempt fails; the third puts the port DOWN with cause 9. -/
def execTrainingStepTimeout (p : PortId) (s : State) : Out :=
  let k := s.port p
  .next <|
    if s.portIs p ≠ 2 || k.passed then s
    else if k.attempts < 3 then (s.portFields p [(.STEP, 1)]).setPort p { PortSt.idle with attempts := k.attempts + 1 }
    else s.goDown p 9

/-- LAG of R386 from a port's one-way delay, the mean of its links', in 2⁻⁸ ns. -/
def lagOf (delay : Nat) : Nat := (delay + 229 * 256 + 32 * 256 - 1) / (32 * 256)

/-- What ALIGN leaves on a link. -/
def State.alignLink (s : State) (l : Nat) (a : LinkAlign) : State :=
  (s.setFlds (linkStateReg l) [(.LANEMAP, a.laneMap.toNat), (.INVERT, a.invert.toNat), (.PRECODE, a.precode.toNat), (.ASYM, a.asym.toNat)]).setLink
    l { s.link l with delay := a.delay.toNat }

/-- The handshake frames of a port: a BOUNDARY payload in a TRAINING frame of every link. COUNT is all ones of a STOPPED end, as in
the stopped frame of R70; the frame number and T1 are not fixed by the spec. -/
def State.sendHandshake (s : State) (p : Nat) : State :=
  let count := if s.strokeState ≠ 0 then s.reg .strokeCount else BitVec.allOnes 64
  (s.portLinks p).foldl (fun s l =>
    let f := s.freeNat 20
    let t := f.2.free
    let b := t.2.boundaryPayload p l count t.1 []
    b.2.send (.frame l 4 f.1 0 0 (s.count % 256) (plainBeats b.1))) s

/-- TRAINING_STEP_DONE: a step of Table 12-6 ends on every link; ALIGN leaves what it measured, link by link, fixes LAG, and
HANDSHAKE begins. -/
def execTrainingStepDone (p : PortId) (found : List LinkAlign) (s : State) : Out :=
  let step := s.fld (.portState p) .STEP
  .next <|
    if s.portIs p ≠ 2 || step = 0 || 4 ≤ step then s
    else if step < 3 then s.portFields p [(.STEP, step + 1)]
    else
      let s := ((s.portLinks p).zip found).foldl (fun s x => s.alignLink x.1 x.2) s
      let ds := (s.portLinks p).map fun l => (s.link l).delay
      let s := s.portFields p [(.STEP, 4), (.LAG, lagOf (ds.sum / ds.length))]
      (s.setPort p { s.port p with record := s.recordHash, agreed := [], passed := false }).sendHandshake p

/-- The neighbour in a direction on the torus: 0 +X, 1 −X, 2 +Y, 3 −Y. -/
def State.neighbour (s : State) (dir : Nat) : Nat × Nat :=
  let w := s.xExtent
  let h := s.yExtent
  match dir with
  | 0 => ((s.myX + 1) % w, s.myY)
  | 1 => ((s.myX + w - 1) % w, s.myY)
  | 2 => (s.myX, (s.myY + 1) % h)
  | _ => (s.myX, (s.myY + h - 1) % h)

/-- The first difference of a handshake frame (R374), none where it agrees. The far end's stroke is STOPPED (0), JOINING (1) or runs;
LOCK is 1 unless it is STOPPED (R65). Without a record no neighbour is named. -/
def State.handshakeCause (s : State) (p l far : Nat) (f : FrameFields) : Option Nat :=
  let k := s.port p
  let dir := s.fld (.portCfg p) .DIR
  if f.record ≠ k.record then some 1
  else if f.fw ≠ s.fwVersion then some 2
  else if s.strokeRuns && 2 ≤ far && f.count.toNat ≠ s.count then some 3
  else if s.flag .strokeCtrl .LOCK && 1 ≤ far && f.timing ≠ s.reg .strokeTiming then some 4
  else if f.images.map (fun e => (e.hash, e.step.toNat)) ≠ s.imageEntries p then some 5
  else if k.record = 0 || (f.x.toNat, f.y.toNat) ≠ s.neighbour dir || f.dir.toNat ≠ (dir ^^^ 1) then some 7
  else if f.sizeLog2.toNat ≠ s.fld (.portCfg p) .SIZE_LOG2 || f.link.toNat % s.portSize p ≠ l % s.portSize p then some 8
  else none

/-- HANDSHAKE_FRAME of link l, from an end whose stroke is in state `far`, which no field of Table 12-4 carries: QUARANTINE with the
cause of its first difference; when every link agrees training has passed, and the port is LIVE at once if the stroke is STOPPED at
both ends. No frame carries the far port's number: FAR_PORT is free. -/
def execHandshakeFrame (l : LinkId) (far : BitVec 2) (f : FrameFields) (s : State) : Out :=
  .next (match s.portOfLink l with
    | none => s
    | some p =>
      let k := s.port p
      if s.portIs p ≠ 2 || s.fld (.portState p) .STEP ≠ 4 || k.passed then s else
      let r := s.freeNat 4
      let s := r.2
      let seen : List (FName × Nat) := [(.FAR_X, f.x.toNat), (.FAR_Y, f.y.toNat), (.FAR_PORT, r.1)]
      match s.handshakeCause p l far.toNat f with
      | some cause => ((s.sendFence p cause).setPortWith p 3 ((.CAUSE, cause) :: seen)).setPort p PortSt.idle
      | none =>
        let agreed := if k.agreed.contains l.val then k.agreed else k.agreed ++ [l.val]
        let passed := (s.portLinks p).all fun x => agreed.contains x
        let s := s.setPort p { k with agreed := agreed, farStopped := far.toNat < 2, passed := passed }
        if passed && far = 0 && s.strokeState = 0 then (s.setPortWith p 4 seen).setPort p { s.port p with passed := false }
        else s.portFields p seen)

/-! ### Received symbols (R63, R375, R387, R388, R390) -/

/-- The compared contexts of a port whose images the far end found to differ: the symbol does not say which, so each is one or not by
a free bit (notes/assumptions/84). -/
def State.farDiffer (s : State) : List Nat → List Nat × State
  | [] => ([], s)
  | c :: cs =>
    let f := s.freeNat 1
    let r := f.2.farDiffer cs
    (if f.1 = 1 then c :: r.1 else r.1, r.2)

/-- FENCE_SYMBOL: a LIVE port is fenced with the far end's cause, and the contexts of R62 fault. A port in training is
quarantined. -/
def execFenceSymbol (p : PortId) (cause : Byte) (s : State) : Out :=
  let c := cause.toNat
  .next <|
    if !s.canSymbol p then s
    else if s.live p then
      if c = 5 then
        let d := s.farDiffer (s.comparedOn p)
        d.2.fence p c d.1
      else s.fence p c []
    else if s.portIs p = 2 then (s.setPortWith p 3 [(.CAUSE, c)]).setPort p PortSt.idle
    else s

/-- RETRAIN: this end trains too, once. -/
def execRetrain (p : PortId) (s : State) : Out := .next (if [0, 2, 7].contains (s.portIs p) || !s.canSymbol p then s else s.startTraining p)

/-- DOWN: the port goes DOWN with cause FAR_DOWN; PORT.STATE does not keep the far end's own cause. -/
def execDown (p : PortId) (_cause : Byte) (s : State) : Out := .next (if s.transmits p && s.canSymbol p then s.portDown p 13 else s)

/-- TEST: the far end starts or stops a LINE or FRAMED test with a MODE; this end's port enters TEST where it may, and its
generator and checker 0 take the MODE on every lane of every link. -/
def execTest (p : PortId) (start : Bool) (mode : BitVec 3) (path : BitVec 2) (s : State) : Out :=
  .next <|
    if !s.canSymbol p then s else
    let s := if start then s.ctrlTest p else s
    if s.portIs p ≠ 7 then s else
    (s.ownLinks p).foldl (fun s l => s.setFlds (.linkPg (l / 8) (l % 8) 0)
      [(.ENABLE, if start then 1 else 0), (.MODE, mode.toNat), (.PATH, path.toNat), (.LANES, 0xF), (.LOCKED, 0)]) s

/-- This end's link of a wired pair: link i of die d meets link i of the die of the opposite direction (R364). -/
def wiredLink (l : Nat) : Nat := 8 * (l / 8 ^^^ 1) + l % 8

/-- The far end's link l relocks, or has its lock again, as a symbol on a port that takes one says. -/
def State.farLink (s : State) (l : Nat) (relocks : Bool) : State := match s.portOfLink (wiredLink l) with
  | some p =>
    if !s.live p || !s.canSymbol p then s else
    let s := s.setLink (wiredLink l) { s.link (wiredLink l) with farRelock := relocks }
    if relocks then s else s.resumeHeld p
  | none => s

/-- RELOCK: the far end's link l relocks. -/
def execRelock (l : LinkId) (s : State) : Out := .next (s.farLink l true)

/-- RELOCKED: it has its lock again; what was held for it is tried. -/
def execRelocked (l : LinkId) (s : State) : Out := .next (s.farLink l false)

/-! ### Synthesiser relock (R387, R396, R397) -/

/-- RELOCK_START of link l of a LIVE port: never inside a slot of the port; RELOCK is sent first. -/
def execRelockStart (l : LinkId) (expectedUs : W16) (s : State) : Out :=
  .next (match s.portOfLink l with
    | none => s
    | some p =>
      if !s.live p || (s.link l).relock.isSome || s.slots.any (fun r => r.begun && r.e.onPort p) then s else
      let s := s.symbol p 0x02 (l.val ||| expectedUs.toNat <<< 8)
      let s := (s.setFld (linkStateReg l) .STATE 4).addFld (linkRelockReg l) .COUNT 1
      s.setLink l { s.link l with relock := some s.time })

/-- LOCK_RETURN: the link is UP, its duration is kept, RELOCKED is sent and, inside the boundary window, the boundary frame that the
relock overlapped (R74), and a held slot is tried. -/
def execLockReturn (l : LinkId) (s : State) : Out :=
  .next (match s.portOfLink l, (s.link l).relock with
    | some p, some t0 =>
      let us := min ((s.time - t0) / 100) 0xFFFF
      let s := s.setFlds (linkRelockReg l) [(.LAST_US, us), (.MAX_US, max us (s.fld (linkRelockReg l) .MAX_US))]
      let s := (s.setFld (linkStateReg l) .STATE 3).setLink l { s.link l with relock := none }
      ((s.symbol p 0x03 l.val).sendLate l).resumeHeld p
    | _, _ => s)

/-- RELOCK_TIMEOUT: still incomplete one stroke period after it began. -/
def execRelockTimeout (l : LinkId) (s : State) : Out :=
  .next (match s.portOfLink l, (s.link l).relock with
    | some p, some t0 => if s.time < t0 + 100 * s.periodUs then s else s.goDown p 11
    | _, _ => s)

/-! ### Lane margin and patterns (R367, R389, R390) -/

/-- Counts of four lanes added into four 16-bit fields, saturating. -/
def addLanes (w : W64) (es : List Nat) : W64 :=
  es.zipIdx.foldl (fun w e => setBits w (16 * e.2 + 15) (16 * e.2) (min (bits w (16 * e.2 + 15) (16 * e.2) + e.1) 0xFFFF)) w

/-- LANE_MARGIN_CHECK: the PAM4 symbol errors of the four lanes in 1 s of 106.25 GBd; more than 1,062,500 break R367. -/
def execLaneMarginCheck (l : LinkId) (e0 e1 e2 e3 : W32) (s : State) : Out :=
  let es := [e0, e1, e2, e3].map BitVec.toNat
  let r := Reg.linkSer (l.val / 8) (l.val % 8)
  .next (
    let s := s.setReg r (addLanes (s.reg r) es)
    if es.any (1062500 < ·) then (s.setFlag (.linkdStatus (l.val / 8)) .MARGIN true).pfEvent 8 else s)

/-- The port in TEST that a link belongs to, enabled or not (R389). -/
def State.testPort (s : State) (l : Nat) : Option Nat := (List.range 16).find? fun p => s.portIs p = 7 && (s.ownLinks p).contains l

/-- A write of LINK.PG: an enable needs an idle link or a port in TEST, and pair 1 not lent to a pool. A LINE or FRAMED test is
announced to the far end with its MODE (Table 12-7); how TEST tells a start from a stop, and PATH, is not fixed by the spec. -/
def State.pgWrite (s : State) (l : Nat) (f : PgFields) : State :=
  let r := Reg.linkPg (l / 8) (l % 8) f.g.val
  let lent := f.g.val = 1 && allContexts.any fun c => s.flag (.poolCtrl c) .ENABLE && Nat.testBit (s.fld (.poolCtrl c) .LEND) l
  let port := s.testPort l
  if f.enable && (lent || (port.isNone && (s.portOfLink l).isSome)) then s.setFlag (.linkdStatus (l / 8)) .TEST_REFUSED true
  else
    let s := s.setFlds r [(.ENABLE, if f.enable then 1 else 0), (.MODE, f.mode.toNat), (.INV, if f.inv then 1 else 0),
      (.PATH, f.path.toNat), (.LANES, f.lanes.toNat), (.LOCKED, 0)]
    match port with
    | some p => if f.path.toNat = 0 then s else s.symbol p 0x09 f.mode.toNat
    | none => s

def execPgEnable (l : LinkId) (f : PgFields) (s : State) : Out := .next (s.pgWrite l f)

/-- PATTERN_CHECKER_LOCK: the checker of a lane has locked and counts the bits that differ. -/
def execPatternCheckerLock (l : LinkId) (g : Fin 2) (lane : Fin 4) (errors : W16) (s : State) : Out :=
  let r := Reg.linkPg (l.val / 8) (l.val % 8) g.val
  let e := Reg.linkPgerr (l.val / 8) (l.val % 8) g.val
  .next <|
    if !s.flag r .ENABLE || !Nat.testBit (s.fld r .LANES) lane then s else
    let s := s.setFld r .LOCKED (s.fld r .LOCKED ||| 2 ^ lane.val)
    let n := bits (s.reg e) (16 * lane.val + 15) (16 * lane.val)
    s.setReg e (setBits (s.reg e) (16 * lane.val + 15) (16 * lane.val) (min (n + errors.toNat) 0xFFFF))

/-! ### The stream table (R391) -/

/-- Is every page of the table readable and writable under the context's tables? -/
def State.streamsMapped (s : State) (c : Nat) : Bool :=
  (pagePieces (s.fld (.linkwStreams c) .BASE * 0x8000) 0x8000).all fun p =>
    match s.walk c p.1 true false with
    | .ok .. => true
    | .host _ => true
    | _ => false

/-- A write of LINKW.STREAMS with LOCK = 1: BASE, while unlocked, and then the lock. -/
def State.streamsLock (s : State) (c base : Nat) : State :=
  let r := Reg.linkwStreams c
  if s.flag r .LOCK then (if s.fld r .BASE = base then s else s.setFlag r.violation .WO_VIOLATION true)
  else
    let s := s.setFld r .BASE base
    if s.streamsMapped c then s.setFlag r .LOCK true else s.cfgErr

def execStreamTableLock (c : Ctx) (base : BitVec 33) (s : State) : Out := .next (s.streamsLock c base.toNat)

/-- A write of LINKW.STREAMS with LOCK = 0: refused while an image of the context is armed, when a locked BASE is judged as locked
(R9, R16, R391). -/
def State.streamsUnlock (s : State) (c base : Nat) : State :=
  let r := Reg.linkwStreams c
  if (s.image c).active then
    if s.flag r .LOCK && s.fld r .BASE ≠ base then s.cfgErr.setFlag r.violation .WO_VIOLATION true else s.cfgErr
  else (s.setFlag r .LOCK false).setFld r .BASE base

def execStreamTableUnlock (c : Ctx) (base : BitVec 33) (s : State) : Out := .next (s.streamsUnlock c base.toNat)

end Sys2Proof.Machine
end

