-- ==== Sys2Proof/Machine/Reset.lean ====
section
/-!
DEFINITION. Context reset and package failure: how each unit stops a context's work, the end of the reset, and what a failed
package does (R99, R108, R143, R179, R201, R232, R263, R291, R325, R354, R402, R469 to R476, R503, R504 of spec/).
-/
namespace Sys2Proof.Machine

/-! ### What stops (Table 15-3) -/

/-- The reads of the context's units to the host are waited for no longer (R473). -/
def State.dropUnitReads (s : State) (c : Nat) : State :=
  { s with hostReads := s.hostReads.filter fun r => r.ctx ≠ c || match r.reader with
    | .unit _ => false
    | _ => true }

/-- The context's cores FAULTED with empty queues: the run and the waits are abandoned (R99, R143, R179). -/
def State.stopCores (s : State) (c : Nat) : State :=
  let s := s.haltCores c
  { s with nib := smMap (fun _ => NibCore.off) (fun n k =>
      if s.coreCtx n = some c && k.st ≠ .failed && k.st ≠ .disabled then
        { k with imageQ := [], postQ := [], run := none, handler := false } else k) s.nib }

/-- An array of the context: the output tiles listed were drained before it stopped; its queued works are removed (R201). -/
def State.stopArray (s : State) (c : Nat) (drained : List (Nat × Nat)) (i : Nat) : State :=
  let k := s.tambOf i
  let s := if k.ctx = some c then
      ((s.stopTamb i ((drained.filter fun (d : Nat × Nat) => d.1 = i).map Prod.snd)).setFld (.tambArray (i / 16) (i % 16)) .STATE 0).setBuf
        (unitKey 4 (i / 16) (i % 16)) HostBuf.empty
    else s
  let q := (s.tambOf i).queue.filter fun w => w.ctx ≠ c
  s.setTamb i { s.tambOf i with queue := q, rest := (s.tambOf i).rest && q ≠ [] }

def State.stopArrays (s : State) (c : Nat) (drained : List (Nat × Nat)) : State :=
  (List.range 512).foldl (fun s i => s.stopArray c drained i) (s.dropUnitReads c)

/-- The context's channels idle, without doorbells; its epochs ended, those it receives discarded (R291, R504). -/
def State.stopFeeds (s : State) (c : Nat) : State :=
  let s := (s.endEpoch c 7 none).dropUnitReads c
  let s := (List.range 16).foldl (fun s p => s.setRecv p c RecvEpoch.none) s
  let mine := fun i => s.flag (feedReg i) .OWNED && s.fld (feedReg i) .CTX = c
  { s with feed := smMap (fun _ => FeedCh.idle) (fun i k =>
      { k with queue := k.queue.filter fun w => w.ctx ≠ c
               cur := k.cur.filter fun u => u.work.ctx ≠ c
               doorbells := if mine i then 0 else k.doorbells }) s.feed }

/-- The context's Filet works gone; a migration not yet switched is abandoned (R325). -/
def State.stopFilets (s : State) (c : Nat) : State :=
  { s.dropUnitReads c with filet := smMap (fun _ => FiletUnit.idle) (fun _ k =>
      { queue := k.queue.filter fun w => w.ctx ≠ c, taken := k.taken.filter fun x => x.work.ctx ≠ c, released := k.released.filter fun h => h.work.ctx ≠ c,
        held := k.held.filter fun h => h.work.ctx ≠ c, cur := k.cur.filter fun u => u.work.ctx ≠ c }) s.filet }

/-- A locked sequence rolled back and TORN, which raises its context's Folio vector (R353, R354). -/
def State.tearSeq (s : State) (key : Nat) : State :=
  let q := s.seqOf key
  ((s.setSeq key { q with lockid := 0, quant := false, res := 0, torn := true }).cutSeq key q.len).vfEvent (key / 4096) 4

/-- What an aborted Folio work leaves in its OUT entries or BUCKET output: free bytes, as far as they translate. -/
def State.spoilOuts (s : State) (c t : Nat) (outs : List (Nat × Nat)) : State :=
  outs.foldl (fun s o =>
    let f := s.freeBytes o.2
    (f.2.engineOut c 3 t o.1 f.1).1) s

/-- The context's Folio works gone, the outputs of the running ones unspecified, its locked sequences torn. -/
def State.stopFolios (s : State) (c : Nat) : State :=
  let s := (List.range 32).foldl (fun s t => match (s.folioOf t).cur with
    | some u => if u.work.ctx = c then s.spoilOuts c t u.outs else s
    | none => s) s
  let s := { s with folio := smMap (fun _ => FolioUnit.idle) (fun _ k =>
    { k with queue := k.queue.filter fun w => w.ctx ≠ c, taken := k.taken.filter fun x => x.work.ctx ≠ c,
             cur := k.cur.filter fun u => u.work.ctx ≠ c }) s.folio }
  let s := s.dropUnitReads c
  (((s.seqsOf c).filter fun e => e.2.locked).map Prod.fst).foldl (fun s k => s.tearSeq k) s

/-- A knot of the context at its reset (R263). -/
def State.resetKnot (s : State) (k : Nat) : State :=
  ((s.setFld (knotVal k) .COUNT 0).setFld (knotVal k) .THRESHOLD (2 ^ 32 - 1)).setFlag (knotCfg k) .SATURATED false

/-- The context's slots, of which a destination keeps what was written, and its outbound queues, bobbins and knots (R263, R402). -/
def State.stopLinks (s : State) (c : Nat) : State :=
  let s := (s.slots.filter fun r => r.ctx = c && r.begun).foldl State.slotLeaves s
  let s := { s with slots := s.slots.filter fun r => r.ctx ≠ c }
  let s := (List.range 16).foldl (fun s p => s.setOutQueue p c []) s
  let s := (List.range 8192).foldl (fun s b => if s.bobOwned c b then s.bobEmpty b else s) s
  (List.range 4096).foldl (fun s k => if s.knotOwned c k then s.resetKnot k else s) s

/-- A hart stopped (R92): its reservation, its waits and its bindings are gone. -/
def Hart.stop (k : Hart) (st : HartStatus) : Hart := { k with st := st, resv := none, wait := .none, bind := [] }

/-- The context's harts FAULTED; its lines written home and gone from the caches (R108, R109). -/
def State.stopHarts (s : State) (c : Nat) : State :=
  let s := s.writeHomeAll (s.dir.filter fun e => e.ctx = c)
  { s with
    hart := smMap (fun _ => Hart.off) (fun h k =>
      if s.hartCtx h = some c && (k.st = .running || k.st = .wfi) then k.stop .faulted else k) s.hart
    dir := s.dir.filter fun e => e.ctx ≠ c
    waiting := s.waiting.filter fun a => match a with
      | .hart h => s.hartCtx h ≠ some c
      | .nib _ => true }

/-- The reads to the host outstanding for the context are waited for no longer (R473); the host's own reads through the aperture go on. -/
def State.stopHost (s : State) (c : Nat) : State :=
  { s with hostReads := s.hostReads.filter fun r => r.ctx ≠ c || match r.reader with
    | .bar _ _ _ _ => true
    | _ => false }

/-- Does the reset of context c still wait for the unit of a PENDING bit? -/
def State.unitPending (s : State) (c bit : Nat) : Bool :=
  s.resetting c && (s.fld (.ctxrPending c) .UNITS).testBit bit

/-- RESET_UNIT_STOPPED: a unit of Table 15-3 has stopped the context's work, and its PENDING bit clears. For Tambour, the
output tiles (array, tile) that had drained. -/
def execResetUnitStopped (c : Ctx) (unit : Fin 8) (drained : List (BitVec 9 × W32)) (s : State) : Out :=
  .next <|
    if !s.unitPending c unit then s else
    let s := match unit.val with
      | 0 => (s.stopCores c).abortRecords c
      | 1 => s.stopArrays c (drained.map fun (d : BitVec 9 × W32) => (d.1.toNat, d.2.toNat))
      | 2 => s.stopFeeds c
      | 3 => s.stopFilets c
      | 4 => s.stopFolios c
      | 5 => s.stopLinks c
      | 6 => s.stopHarts c
      | _ => s.stopHost c
    s.setRegBit (.ctxrPending c) unit false

/-! ### Package failure (R474 to R476) -/

/-- A context's work stopped without further records. -/
def State.stopContext (s : State) (c : Nat) : State :=
  let s := ((s.dropImage c).setFlag (.strokeImage c) .ARM false).stopCores c
  let s := ((((s.stopArrays c []).stopFeeds c).stopFilets c).stopFolios c).stopLinks c
  let s := (s.stopHarts c).stopHost c
  { s with poolQ := s.poolQ.filter fun q => q.ctx ≠ c }

/-- Package failure declared (R475); the first declaration stands. A context reset in progress ends FAILED (R503). A shutdown
leaves no power to send DOWN (R525). -/
def State.packageFailure (s : State) (cause ctx units : Nat) : State :=
  if s.failed then s else
  let s := s.setFlds .pkgFail [(.FAILED, 1), (.CAUSE, cause), (.CTX, ctx), (.PENDING, units), (.STROKE_LO, s.countLo)]
  let s := allContexts.foldl (fun s c => if s.resetting c then s.setFld (.ctxrCtrl c) .STATE 2 else s) s
  let s := allContexts.foldl State.stopContext s
  let s := (List.range 16).foldl (fun s p =>
    if s.portIs p = 0 then s else if cause = 4 then s.portDown p 14 else (s.sendDown p 14).portDown p 14) s
  ((s.setFlag .startStat .READY false).pfEvent 14).send (.toTmc 0x04 [(s.reg .pkgFail).toNat])

/-- RESET_DEADLINE: the reset of a context has not completed 20 ms after it began. -/
def execResetDeadline (c : Ctx) (s : State) : Out :=
  .next (if s.resetting c && (s.context c).resetStart + 2000000 ≤ s.time then s.packageFailure 1 c (s.fld (.ctxrPending c) .UNITS) else s)

/-- SHARED_UNIT_ERROR: an uncorrectable error in state that every context shares. -/
def execSharedUnitError (s : State) : Out := .next (s.packageFailure 3 0 0)

/-! ### Context reset (R469, R470) -/

/-- CONTEXT_RESET_REQUEST: a 1 written to CTXR.CTRL.RESET; without effect during a reset. -/
def State.resetRequest (s : State) (c : Nat) : State := if s.resetting c then s else s.faultNoUnit c 0x11 0

def execContextResetRequest (c : Ctx) (s : State) : Out := .next (s.resetRequest c)

/-- Cores FAULTED by the reset are IDLE after it (R143). -/
def State.idleCores (s : State) (c : Nat) : State :=
  { s with nib := smMap (fun _ => NibCore.off) (fun n k =>
      if s.coreCtx n = some c && k.st = .faulted then { k with st := .idle } else k) s.nib }

/-- CONTEXT_RESET_DONE: every unit has stopped and no transaction of the context remains. -/
def execContextResetDone (c : Ctx) (s : State) : Out :=
  .next <|
    if !s.resetting c || s.fld (.ctxrPending c) .UNITS ≠ 0 then s else
    let us := (s.time - (s.context c).resetStart) / 100
    let s := (s.idleCores c).setFld (.ctxrCtrl c) .STATE 0
    let s := (s.addFld (.ctxrTime c) .RESETS 1).setFld (.ctxrTime c) .LAST_US us
    (s.vfEvent c 1).pfEvent (48 + c)

end Sys2Proof.Machine
end

