-- ==== Sys2Proof/Machine/Memory.lean ====
section
/-!
DEFINITION. Accesses at a home as commands of their own, the patrol scrub, invalidations and fabric replays (R78 to R84, R88,
R96, R106, R107, R200, R225, R233, R236 of spec/). What the check symbols say at a read is the command's operand.
-/
namespace Sys2Proof.Machine

/-! ### Who accesses, and how an access ends -/

/-- The context an access is made for. -/
def State.agentCtx (s : State) : MemAgent → Option Nat
  | .nib n => s.coreCtx n
  | .hart h => s.hartCtx h
  | .feed t n => (s.feedCh (64 * t.val + n.val)).cur.map (·.work.ctx)
  | .tambour t a => (s.tambOf (16 * t.val + a.val)).cur.map (·.work.ctx)
  | .filet t => (s.filetOf t).cur.map (·.work.ctx)
  | .folio t => (s.folioOf t).cur.map (·.work.ctx)
  | .aperture c => c.map Fin.val

/-- A work whose access completed with UNCORR_MEM: it is to end with that status (R126). -/
def State.workUncorr (s : State) (a : MemAgent) : State :=
  match a with
  | .feed t n =>
    let f := s.freeNat 16
    f.2.setFeedCur (64 * t.val + n.val) fun u => { u with err := some (0x12, min u.index 0xFFFF <<< 16 ||| f.1) }
  | .tambour t a =>
    let i := 16 * t.val + a.val
    let f := s.freeNat 32
    f.2.setTamb i { s.tambOf i with cur := (s.tambOf i).cur.map fun u => { u with err := some (0x12, f.1) } }
  | .filet t =>
    s.setFilet t { s.filetOf t with cur := (s.filetOf t).cur.map fun u => { u with status := 0x12 } }
  | .folio t =>
    s.setFolio t { s.folioOf t with cur := (s.folioOf t).cur.map fun u => { u with status := 0x12 } }
  | _ => s

/-- A hart's read that completes with UNCORR_MEM faults its context (R80, R597); Table 15-2 names no cause for it, so cause
and ARG are free. -/
def State.hartUncorr (s : State) (c : Nat) : State :=
  let k := s.freeNat 16
  let g := k.2.freeNat 32
  g.2.faultNoUnit c (1 + k.1 % 19) g.1

/-- A read that completes with UNCORR_MEM, as its agent takes it (R80): a core by its exception, a work by its status. -/
def State.readFails (s : State) (a : MemAgent) : State :=
  match a with
  | .nib n =>
    if (s.core n).st = .running then
      let f := s.freeNat 48
      f.2.nibException n 0x07 f.1
    else s
  | .hart h => match s.hartCtx h with
    | some c => s.hartUncorr c
    | none => s
  | .aperture _ => s
  | _ => s.workUncorr a

/-- A partial write that completes with UNCORR_MEM (R82, R110): a store that had retired faults its context. -/
def State.writeFails (s : State) (a : MemAgent) : State :=
  match a with
  | .nib n => match s.coreCtx n with
    | some c => s.contextFault c 0x03 0 (coreTile n) (n.val % 8) 0
    | none => s
  | .hart h => match s.hartCtx h with
    | some c => s.faultNoUnit c 0x03 0
    | none => s
  | .aperture _ => s
  | _ => s.workUncorr a

/-! ### DRAM (R80, R82, R225, R233) -/

/-- An uncorrectable zero-map line: the 512 lines it covers are poisoned, the first is logged, and the zero-map row, whose
place the spec does not give, is listed. -/
def State.zeroMapUe (s : State) (scrub : Bool) (c line : Nat) : State :=
  let first := line / 512 * 512
  let s := (List.range 512).foldl (fun s i => s.setPoison (first + i) true) s
  let f := (s.logUe scrub c (first * 64)).freeNat 35
  f.2.list 4 0 true (tileOfPa (first * 64)) f.1

/-- What the check symbols say, handled at the home: counted when corrected, poisoned and logged otherwise. -/
def State.lineChecked (s : State) (scrub : Bool) (c line : Nat) (err : LineError) : State :=
  match err with
  | .clean => s
  | .corrected => s.addFld (.tmemCeCount (tileOfPa (line * 64))) .COUNT 1
  | .uncorrectable => s.dramUe scrub c (line * 64)
  | .zeroMap => s.zeroMapUe scrub c line

/-- DRAM_READ: a line read at its home; one that a Quill die owns is fetched from it (R96). An access made for no context is logged
with CTX = 0 (notes/assumptions/26). -/
def execDramRead (a : MemAgent) (line : BitVec 32) (err : LineError) (s : State) : Out :=
  let l := line.toNat
  let c := s.agentCtx a
  .next <|
    if s.ownedLine l then
      let s := s.snoopRead l
      s.send (.memReply (l * 64) 0 (s.bytesAt (l * 64) 64))
    else if s.poisoned l then ((s.logUe false (c.getD 0) (l * 64)).send (.memReply (l * 64) 0x12 [])).readFails a
    else if err = .uncorrectable || err = .zeroMap then
      ((s.lineChecked false (c.getD 0) l err).send (.memReply (l * 64) 0x12 [])).readFails a
    else
      let r := (s.lineChecked false (c.getD 0) l err).readLine c l []
      r.1.send (.memReply (l * 64) 0 (r.1.bytesAt (l * 64) 64))

/-- DRAM_FULL_LINE_WRITE: all 64 bytes of a line; the zero map of an MCOMP page is read and may be uncorrectable. -/
def execDramFullLineWrite (a : MemAgent) (line : BitVec 32) (mcomp : Bool) (data : W512) (err : LineError) (s : State) : Out :=
  let l := line.toNat
  let c := s.agentCtx a
  let s := if mcomp && err = .zeroMap then s.zeroMapUe false (c.getD 0) l else s
  .next ((s.writeDramLine c mcomp l (cellsFrom (l * 64) (toBytes 64 data.toNat))).1.send (.memReply (l * 64) 0 []))

/-- DRAM_PARTIAL_WRITE: fewer than 64 bytes merged into the line at its home; the line leaves the Quill caches first (R96). -/
def execDramPartialWrite (a : MemAgent) (line : BitVec 32) (off : Fin 64) (data : List Byte) (err : LineError) (s : State) : Out :=
  let l := line.toNat
  let c := s.agentCtx a
  .next <|
    if data = [] || 64 < off.val + data.length || data.length = 64 then s else
    let err := if s.dir.any (fun e => e.line = l && e.dirty) then .clean else err
    let s := s.dropLine l
    if !s.poisoned l && (err = .uncorrectable || err = .zeroMap) then
      ((s.lineChecked false (c.getD 0) l err).send (.memReply (l * 64) 0x12 [])).writeFails a
    else
      let s := if s.poisoned l then s else s.lineChecked false (c.getD 0) l err
      let r := s.writeDramLine c false l (cellsFrom (l * 64 + off.val) data)
      if r.2 then r.1.send (.memReply (l * 64) 0 []) else (r.1.send (.memReply (l * 64) 0x12 [])).writeFails a

/-! ### Well (R84, R81) -/

/-- Package physical address of a Well word of a tile. -/
def wellPa (t word : Nat) : Nat := wellBase + t * 0x2000000 + 8 * word

/-- WELL_ACCESS: a word of a tile's window read, or bytes of it written; beyond 24 MiB the window is not mapped (R79). -/
def execWellAccess (a : MemAgent) (t : TileId) (word : BitVec 22) (op : WellOp) (err : LineError) (s : State) : Out :=
  let pa := wellPa t word.toNat
  let c := s.agentCtx a
  .next <|
    if !isWell pa then s.send (.memReply pa 0x11 []) else
    let bad := err = .uncorrectable || err = .zeroMap
    let reads : Bool := match op with
      | .read => true
      | .write _ data => data.length < 8
    let s := if !reads then s else if bad then s.setBadWord (pa / 8) true
      else if err = .corrected then s.addFld (.tmemCeCount t) .COUNT 1 else s
    match op with
    | .read =>
      match s.homeRead c pa 8 with
      | (s, some bs) => s.send (.memReply pa 0 bs)
      | (s, none) => (s.send (.memReply pa 0x12 [])).readFails a
    | .write off data =>
      if data = [] || 8 < off.val + data.length then s else
      match s.homeWrite c false (cellsFrom (pa + off.val) data) with
      | (s, true) => s.send (.memReply pa 0 [])
      | (s, false) => (s.send (.memReply pa 0x12 [])).writeFails a

/-! ### The patrol scrub (R81, R107) -/

/-- Lines of a tile: its DRAM, then its Well. -/
def scrubLines : Nat := 2 ^ 27 + 393216

/-- Next line of a tile's scrub. -/
def State.scrubAt (s : State) (t : Nat) : Nat := smGet (fun _ => 0) s.scrub t
def State.setScrub (s : State) (t p : Nat) : State := { s with scrub := smSet (fun _ => 0) s.scrub t p }

/-- A DRAM line that the scrub reads. One that is poisoned already is neither logged again nor an event of the memory vector
(notes/assumptions/77). -/
def State.scrubDram (s : State) (line : Nat) (err : LineError) : State :=
  if s.poisoned line then s
  else if err = .uncorrectable || err = .zeroMap then (s.lineChecked true 0 line err).pfEvent 9
  else s.lineChecked true 0 line err

/-- A Well line that the scrub reads; `word` is the word in error. A word left in error by an earlier pass is found again. -/
def State.scrubWell (s : State) (t line word : Nat) (err : LineError) : State :=
  let pa := wellPa t (8 * line + word)
  let bad := err = .uncorrectable || err = .zeroMap
  let s := if err = .corrected then s.addFld (.tmemCeCount t) .COUNT 1
    else if bad then s.setBadWord (pa / 8) true else s
  if (List.range 8).any fun i => s.badWord (pa / 64 * 8 + i) then
    ((s.logUe true 0 (pa / 64 * 64)).list 3 0 false t (s.physOf 3 t (wellBank pa))).pfEvent 9
  else s

/-- SCRUB_LINE: the scrub of a tile reads its next line; with PERIOD_MIN = 0 it stands still. -/
def execScrubLine (t : TileId) (err : LineError) (word : Fin 8) (s : State) : Out :=
  let p := s.scrubAt t
  .next <|
    if s.fld (.tmemScrub t) .PERIOD_MIN = 0 then s else
    let s := if p < 2 ^ 27 then s.scrubDram (t.val * 2 ^ 27 + p) err else s.scrubWell t (p - 2 ^ 27) word err
    s.setScrub t ((p + 1) % scrubLines)

/-- SCRUB_PERIOD_WRITE: the rate changes at once; the position stays. -/
def execScrubPeriodWrite (t : TileId) (period : W16) (s : State) : Out :=
  .next (s.setFld (.tmemScrub t) .PERIOD_MIN period.toNat)

/-! ### Invalidation (R88) -/

/-- A write of MEM.INVAL with GO = 1. Every walk of this model reads the tables anew, so the range matters to buffered stores
alone, which drain before the invalidation completes. -/
def State.invalStart (s : State) (c : Nat) : State :=
  if s.flag .memInvalStat .BUSY then s.setFlag .memInvalStat .DROPPED true
  else { s.setFlag .memInvalStat .BUSY true with inval := some c }

def execInvalidate (_all : Bool) (_pages : BitVec 10) (ctx : Ctx) (_va : W32) (s : State) : Out := .next (s.invalStart ctx)

/-- INVALIDATION_DONE: the buffered stores of the context have drained, and BUSY clears; not while a read of the context to the host
is outstanding. -/
def execInvalidationDone (s : State) : Out :=
  .next (match s.inval with
    | none => s
    | some c =>
      if s.hostReads.any fun r => r.ctx = c then s else
      let s := (List.range 256).foldl (fun s n => if s.coreCtx n = some c then s.drainAll n else s) s
      { s.setFlag .memInvalStat .BUSY false with inval := none })

/-! ### The fabric (R78, Table 3-13) -/

/-- FABRIC_FLIT_REPLAY: a flit of a link is replayed, `again` when the replay before it failed too; the sixteenth that fails
in a row is package failure. -/
def execFabricFlitReplay (link : W16) (again : Bool) (s : State) : Out :=
  let n := if again then smGet (fun _ => 0) s.replays link.toNat + 1 else 1
  let s := { s with replays := smSet (fun _ => 0) s.replays link.toNat n }
  let s := s.pfEvent 12
  .next (if 16 ≤ n then s.packageFailure 2 0 0 else s)

end Sys2Proof.Machine
end

