-- ==== Sys2Proof/Machine/QuillOps.lean ====
section
/-!
DEFINITION. What every Quill instruction shares: a hart's registers and CSRs, its traps and interrupts, its own translation, and
its loads and stores (R86, R89 to R98, R257, R598, Tables 3-5 and 3-6 of spec/). Where the spec names RISC-V and gives no more,
the layout of the CSRs and the course of a trap are RISC-V's (PRESUMED, notes/assumptions/60).
-/
namespace Sys2Proof.Machine

/-! ### Registers -/

def Hart.xreg (k : Hart) (i : XReg) : W64 := if i = 0 then 0 else smGet (fun _ => 0) k.x i.toNat
/-- A write of x0 is discarded. -/
def Hart.setX (k : Hart) (i : XReg) (w : W64) : Hart := if i = 0 then k else { k with x := smSet (fun _ => 0) k.x i.toNat w }
def Hart.freg (k : Hart) (i : Nat) : W64 := smGet (fun _ => 0) k.f i
def Hart.vecReg (k : Hart) (i : Nat) : BitVec 256 := smGet (fun _ => 0) k.v i
def Hart.setVec (k : Hart) (i : Nat) (w : BitVec 256) : Hart := { k with v := smSet (fun _ => 0) k.v i w }
/-- A CSR as it is stored. -/
def Hart.csrAt (k : Hart) (n : Nat) : W64 := smGet (fun _ => 0) k.csr n
def Hart.setCsr (k : Hart) (n : Nat) (w : W64) : Hart := { k with csr := smSet (fun _ => 0) k.csr n w }
/-- A field of a stored CSR, read and set. -/
def Hart.cbits (k : Hart) (n hi lo : Nat) : Nat := bits (k.csrAt n) hi lo
def Hart.cbit (k : Hart) (n i : Nat) : Bool := bitAt (k.csrAt n) i
def Hart.setCbits (k : Hart) (n hi lo v : Nat) : Hart := k.setCsr n (setBits (k.csrAt n) hi lo v)

/-- FS and VS of mstatus (and of vsstatus while V = 1) set to Dirty. -/
def Hart.dirty (k : Hart) (hi lo : Nat) : Hart :=
  let k := k.setCbits 0x300 hi lo 3
  if k.virt then k.setCbits 0x200 hi lo 3 else k

def Hart.setF (k : Hart) (i : Nat) (w : W64) : Hart := { k with f := smSet (fun _ => 0) k.f i w }.dirty 14 13

/-- The next instruction, `len` bytes on; minstret counts it unless inhibited. -/
def Hart.advance (k : Hart) (len : Nat) : Hart :=
  let k := if k.cbit 0x320 2 then k else k.setCsr 0xB02 (k.csrAt 0xB02 + 1)
  { k with pc := k.pc + BitVec.ofNat 64 len }

/-- The number of a privilege level, and its reading from a field. -/
def Priv.code : Priv → Nat
  | .u => 0 | .s => 1 | .m => 3
def privOf (n : Nat) : Priv := if n = 3 then .m else if n = 1 then .s else .u

/-! ### Traps -/

/-- An exception or interrupt: its cause number, the value of the trap-value register, whether that is a guest virtual address,
and the guest physical address of a guest page fault. -/
structure Trap where
  int : Bool
  cause : Nat
  tval : W64
  gva : Bool
  gpa : W64
deriving DecidableEq, Repr

def Trap.exc (cause : Nat) (tval : W64) : Trap := { int := false, cause := cause, tval := tval, gva := false, gpa := 0 }

/-- pc of a handler: BASE, and 4 × cause above it for an interrupt in vectored mode. -/
def vecPc (tvec : W64) (int : Bool) (cause : Nat) : W64 :=
  setBits tvec 1 0 0 + (if int && bits tvec 1 0 = 1 then BitVec.ofNat 64 (4 * cause) else 0)

/-- The cause register's value. -/
def causeWord (int : Bool) (cause : Nat) : W64 := BitVec.ofNat 64 ((if int then 2 ^ 63 else 0) + cause)

/-- A trap into M-mode. -/
def Hart.trapM (k : Hart) (t : Trap) : Hart :=
  let st := k.csrAt 0x300
  let st := setBits (setBits (setBits st 7 7 (bits st 3 3)) 3 3 0) 12 11 k.priv.code
  let st := setBits (setBits st 39 39 (if k.virt then 1 else 0)) 38 38 (if t.gva then 1 else 0)
  let k1 := ((((k.setCsr 0x300 st).setCsr 0x341 k.pc).setCsr 0x342 (causeWord t.int t.cause)).setCsr 0x343 t.tval).setCsr 0x34B
    (t.gpa >>> 2)
  { k1.setCsr 0x34A 0 with priv := .m, virt := false, pc := vecPc (k.csrAt 0x305) t.int t.cause }

/-- A trap into HS-mode. -/
def Hart.trapS (k : Hart) (t : Trap) : Hart :=
  let st := k.csrAt 0x300
  let st := setBits (setBits (setBits st 5 5 (bits st 1 1)) 1 1 0) 8 8 (if k.priv = .s then 1 else 0)
  let h := k.csrAt 0x600
  let h := setBits (setBits h 7 7 (if k.virt then 1 else 0)) 6 6 (if t.gva then 1 else 0)
  let h := if k.virt then setBits h 8 8 (if k.priv = .s then 1 else 0) else h
  let k1 := ((((k.setCsr 0x300 st).setCsr 0x600 h).setCsr 0x141 k.pc).setCsr 0x142 (causeWord t.int t.cause)).setCsr 0x143 t.tval
  { (k1.setCsr 0x643 (t.gpa >>> 2)).setCsr 0x64A 0 with
    priv := .s, virt := false, pc := vecPc (k.csrAt 0x105) t.int t.cause }

/-- A trap into VS-mode; the VS interrupts take the S numbers. -/
def Hart.trapVS (k : Hart) (t : Trap) : Hart :=
  let st := k.csrAt 0x200
  let st := setBits (setBits (setBits st 5 5 (bits st 1 1)) 1 1 0) 8 8 (if k.priv = .s then 1 else 0)
  let cause := if t.int then t.cause - 1 else t.cause
  let k1 := (((k.setCsr 0x200 st).setCsr 0x241 k.pc).setCsr 0x242 (causeWord t.int cause)).setCsr 0x243 t.tval
  { k1 with priv := .s, virt := true, pc := vecPc (k.csrAt 0x205) t.int cause }

/-- mideleg: the VS and SGEI bits are always delegated. -/
def Hart.mideleg (k : Hart) : W64 := k.csrAt 0x303 ||| 0x1444#64

/-- A trap taken: delegated as medeleg, mideleg, hedeleg and hideleg say. -/
def Hart.trap (k : Hart) (t : Trap) : Hart :=
  let md := if t.int then k.mideleg else k.csrAt 0x302
  let hd := if t.int then k.csrAt 0x603 else k.csrAt 0x602
  let k := { k with wait := .none }
  if k.priv = .m || !bitAt md t.cause then k.trapM t
  else if k.virt && bitAt hd t.cause then k.trapVS t
  else k.trapS t

/-! ### Interrupts (Table 3-6) -/

/-- The bits of mip: the software-set ones, the timers, the guest's, and MEIP while a bit of qevent is set. -/
def State.mip (s : State) (k : Hart) : W64 :=
  let now := s.time
  let w := (k.csrAt 0x344 &&& 0x222#64) ||| (k.csrAt 0x645 &&& 0x444#64)
  let w := setBits w 7 7 (if (k.csrAt 0x7C1).toNat ≤ now then 1 else 0)
  let w := setBits w 11 11 (if k.csrAt 0x7C2 ≠ 0 then 1 else 0)
  let w := if k.cbit 0x30A 63 then setBits w 5 5 (if (k.csrAt 0x14D).toNat ≤ now then 1 else 0) else w
  if k.cbit 0x30A 63 && k.cbit 0x60A 63 && (k.csrAt 0x24D).toNat ≤ (now + (k.csrAt 0x605).toNat) % 2 ^ 64 then setBits w 6 6 1 else w

/-- The interrupt a hart takes now, by RISC-V's order of priority. -/
def State.interrupt (s : State) (k : Hart) : Option Nat :=
  let p := s.mip k &&& k.csrAt 0x304
  let order := [11, 3, 7, 9, 1, 5, 12, 10, 2, 6]
  let toM := p &&& ~~~ k.mideleg
  let toHS := p &&& k.mideleg &&& ~~~ k.csrAt 0x603
  let toVS := p &&& k.mideleg &&& k.csrAt 0x603
  let onM := k.priv ≠ .m || k.cbit 0x300 3
  let onHS := k.priv ≠ .m && (k.virt || k.priv = .u || k.cbit 0x300 1)
  let onVS := k.priv ≠ .m && k.virt && (k.priv = .u || k.cbit 0x200 1)
  (if onM then order.find? (bitAt toM) else none) <|>
  (if onHS then order.find? (bitAt toHS) else none) <|>
  (if onVS then order.find? (bitAt toVS) else none)

/-- Does an enabled interrupt pend, so that WFI ends? -/
def State.wfiEnds (s : State) (k : Hart) : Bool := s.mip k &&& k.csrAt 0x304 ≠ 0

/-- A hart whose interrupts may have changed: WFI ends, and an interrupt that can be taken is. -/
def State.serveHart (s : State) (h : Nat) : State :=
  let k := s.hartOf h
  let k := if k.st = .wfi && s.wfiEnds k then { k with st := .running } else k
  if k.st ≠ .running then s else
  match s.interrupt k with
  | some i =>
    let wait := match k.wait with
      | .none => false
      | .qpost _ _ _ _ => false
      | _ => true
    if wait then s.setHart h k else
    { s.setHart h (k.trap { int := true, cause := i, tval := 0, gva := false, gpa := 0 }) with
      waiting := s.waiting.filter (· ≠ .hart h) }
  | none => s.setHart h k

/-! ### The hart's own translation (Table 3-5) -/

/-- The kind of an access. -/
inductive Acc
  | fetch | load | store
deriving DecidableEq, Repr

def Acc.accessCause : Acc → Nat
  | .fetch => 1 | .load => 5 | .store => 7
def Acc.pageCause : Acc → Nat
  | .fetch => 12 | .load => 13 | .store => 15
def Acc.guestCause : Acc → Nat
  | .fetch => 20 | .load => 21 | .store => 23
def Acc.alignCause : Acc → Nat
  | .fetch => 0 | .load => 4 | .store => 6

/-- Why an access of a hart fails: a trap, or an uncorrectable line, which faults its context. -/
inductive HartFail
  | trap (t : Trap)
  | uncorr
deriving DecidableEq, Repr

/-- The privilege of an access: that of the hart, or the one MPRV gives its loads and stores. -/
structure Mode where
  priv : Priv
  virt : Bool
deriving DecidableEq, Repr

def Hart.mode (k : Hart) (a : Acc) : Mode :=
  if a ≠ .fetch && k.priv = .m && k.cbit 0x300 17 then
    { priv := privOf (k.cbits 0x300 12 11), virt := k.cbit 0x300 39 && k.cbits 0x300 12 11 ≠ 3 }
  else { priv := k.priv, virt := k.virt }

/-- Bounds of a PMP entry's range in bytes, with the granule of 64 KiB. -/
def Hart.pmpRange (k : Hart) (i : Nat) : Option (Nat × Nat) :=
  let cfg := k.cbits (0x3A0 + i / 8 * 2) (8 * (i % 8) + 7) (8 * (i % 8))
  let a := (k.csrAt (0x3B0 + i)).toNat
  match nbits cfg 4 3 with
  | 1 => let lo := if i = 0 then 0 else (k.csrAt (0x3B0 + i - 1)).toNat
    some (lo / 2 ^ 14 * 2 ^ 16, a / 2 ^ 14 * 2 ^ 16)
  | 3 =>
    let a := a ||| (2 ^ 13 - 1)
    let ones := ((List.range 55).find? fun j => !a.testBit j).getD 55
    some (a / 2 ^ (ones + 1) * 2 ^ (ones + 3), (a / 2 ^ (ones + 1) + 1) * 2 ^ (ones + 3))
  | _ => none

/-- Does the PMP allow an access at a hart-physical address? The lowest matching entry decides. -/
def Hart.pmpOk (k : Hart) (p : Priv) (a : Acc) (pa : Nat) : Bool :=
  match (List.range 16).find? fun i => match k.pmpRange i with
    | some r => r.1 ≤ pa && pa < r.2
    | none => false with
  | none => p = .m
  | some i =>
    let cfg := k.cbits (0x3A0 + i / 8 * 2) (8 * (i % 8) + 7) (8 * (i % 8))
    (p = .m && !cfg.testBit 7) || match a with
      | .fetch => cfg.testBit 2
      | .load => cfg.testBit 0
      | .store => cfg.testBit 1

/-- Eight bytes of a hart's page table, by hart-physical address: through the context's tables (R86, R597). -/
def State.hartPte (s : State) (h c : Nat) (a : Acc) (va : W64) (pa : Nat) : State × Except HartFail W64 :=
  let fail := HartFail.trap (.exc a.accessCause va)
  if !(s.hartOf h).pmpOk .s .load pa then (s, .error fail) else
  match s.translate c 5 0 pa false false with
  | (s, .ok pa _ _) =>
    match s.homeRead (some c) pa 8 with
    | (s, some b) => (s, .ok (BitVec.ofNat 64 (ofBytes b)))
    | (s, none) => (s, .error .uncorr)
  | (s, .uncorr _) => (s, .error .uncorr)
  | (s, _) => (s, .error fail)

/-- What a leaf must allow: the kind of access, the user bit as the mode needs it, and A and D set. -/
def pteAllows (e : W64) (a : Acc) (user sum mxr : Bool) : Bool :=
  let kind := match a with
    | .fetch => bitAt e 3
    | .load => bitAt e 1 || (mxr && bitAt e 3)
    | .store => bitAt e 2
  let u := if user then bitAt e 4 else !bitAt e 4 || (sum && a ≠ .fetch)
  kind && u && bitAt e 6 && (a ≠ .store || bitAt e 7)

/-- Is an entry valid: V, no W without R, no reserved bit? -/
def pteValid (e : W64) : Bool := bitAt e 0 && (bitAt e 1 || !bitAt e 2) && bits e 63 54 = 0

/-- A walk from level `lev` (0 the last) with the table at `base`: `top` more index bits at the first level, `read` reads an
entry, `ok` judges a leaf. The hart-physical (or guest-physical) address, or the failure `bad`. -/
def tableWalk (read : State → Nat → State × Except HartFail W64) (ok : W64 → Bool) (bad : HartFail) (va top : Nat) :
    Nat → State → Nat → State × Except HartFail Nat
  | lev, s, base =>
    let ix := va / 2 ^ (12 + 9 * lev) % 2 ^ (9 + top)
    match read s (base + 8 * ix) with
    | (s, .error e) => (s, .error e)
    | (s, .ok e) =>
      let ppn := bits e 53 10
      if !pteValid e then (s, .error bad)
      else if bitAt e 1 || bitAt e 3 then
        if !ok e || ppn % 2 ^ (9 * lev) ≠ 0 then (s, .error bad)
        else (s, .ok (ppn * 4096 + va % 2 ^ (12 + 9 * lev)))
      else match lev with
        | 0 => (s, .error bad)
        | l + 1 => tableWalk read ok bad va 0 l s (ppn * 4096)

/-- Levels below the first of a MODE of satp (Sv39, Sv48), none for Bare. -/
def svLevels (mode : Nat) : Option Nat := if mode = 8 then some 2 else if mode = 9 then some 3 else none

/-- The G stage: a guest-physical address through hgatp; its own failures are guest page faults. -/
def State.gStage (s : State) (h c : Nat) (a : Acc) (pteRead : Bool) (va : W64) (gpa : Nat) : State × Except HartFail Nat :=
  let k := s.hartOf h
  let bad := HartFail.trap { int := false, cause := a.guestCause, tval := va, gva := true, gpa := BitVec.ofNat 64 gpa }
  match svLevels (k.cbits 0x680 63 60) with
  | none => (s, .ok gpa)
  | some l =>
    if 2 ^ (12 + 9 * (l + 1) + 2) ≤ gpa then (s, .error bad) else
    tableWalk (fun s pa => s.hartPte h c a va pa)
      (fun e => pteAllows e (if pteRead then .load else a) true false (k.cbit 0x300 19)) bad gpa 2 l s
      (k.cbits 0x680 43 0 * 4096)

/-- Do the bits of va above the translated ones all equal the highest translated one? -/
def canonical (va : W64) (n : Nat) : Bool := va = ((va.truncate n).signExtend 64)

/-- A hart's address translated by its own tables to a hart-physical address, and the PMP's judgement. -/
def State.hartXlat (s : State) (h c : Nat) (a : Acc) (m : Mode) (va : W64) : State × Except HartFail Nat :=
  let k := s.hartOf h
  let fail := HartFail.trap { int := false, cause := a.accessCause, tval := va, gva := m.virt, gpa := 0 }
  let judged := fun (r : State × Except HartFail Nat) => match r with
    | (s, .ok pa) => if k.pmpOk m.priv a pa then (s, Except.ok pa) else (s, .error fail)
    | (s, .error e) => (s, .error e)
  if m.priv = .m then judged (s, .ok va.toNat) else
  let satp := if m.virt then k.csrAt 0x280 else k.csrAt 0x180
  let sum := if m.virt then k.cbit 0x200 18 else k.cbit 0x300 18
  let mxr := k.cbit 0x300 19 || (m.virt && k.cbit 0x200 19)
  let bad := HartFail.trap { int := false, cause := a.pageCause, tval := va, gva := m.virt, gpa := 0 }
  let stage1 : State × Except HartFail Nat := match svLevels (bits satp 63 60) with
    | none => (s, .ok va.toNat)
    | some l =>
      if !canonical va (12 + 9 * (l + 1)) then (s, .error bad) else
      tableWalk (fun s pa =>
          if m.virt then
            match s.gStage h c a true va pa with
            | (s, .ok p) => s.hartPte h c a va p
            | (s, .error e) => (s, .error e)
          else s.hartPte h c a va pa)
        (fun e => pteAllows e a (m.priv = .u) sum mxr) bad va.toNat 0 l s (bits satp 43 0 * 4096)
  judged (if !m.virt then stage1 else match stage1 with
    | (s, .ok gpa) => s.gStage h c a false va gpa
    | (s, .error e) => (s, .error e))

/-! ### Loads, stores and fetches (R86, R90, R96, R97, R597, R598) -/

/-- Where an access of a hart ends: tile memory with the page's MCOMP and QC bits, or the host. -/
inductive HartPlace
  | tile (pa : Nat) (mcomp qc : Bool)
  | host (bus : Nat)
deriving DecidableEq, Repr

/-- The place of an access within one 64-byte block. -/
def State.hartPlace (s : State) (h c : Nat) (a : Acc) (m : Mode) (va : W64) : State × Except HartFail HartPlace :=
  let fail := HartFail.trap { int := false, cause := a.accessCause, tval := va, gva := m.virt, gpa := 0 }
  match s.hartXlat h c a m va with
  | (s, .error e) => (s, .error e)
  | (s, .ok pa) =>
    match s.translate c 5 0 pa (a = .store) (a = .fetch) with
    | (s, .ok pa mc qc) => (s, .ok (.tile pa mc qc))
    | (s, .host bus) => if a = .fetch then (s, .error fail) else (s, .ok (.host bus))
    | (s, .uncorr _) => (s, .error .uncorr)
    | (s, .fail _) => (s, .error fail)

/-- Is a line held by a die? -/
def State.holds (s : State) (line die : Nat) : Bool := s.dir.any fun e => e.line = line && e.dies.contains die

/-- Bytes of tile memory read by a hart: from its die's cache, filled when the page may be cached, in state M when `own` (R96 to
R98), or at the home. -/
def State.quillRead (s : State) (h c pa n : Nat) (mc qc own : Bool) : State × Option (List Byte) :=
  if !(qc && isDram pa) then s.homeRead (some c) pa n else
  let line := pa / 64
  let r := if s.holds line (h / 32) then (s, some (s.bytesAt pa n)) else s.homeRead (some c) pa n
  (if r.2.isSome then r.1.cacheLine line (h / 32) c mc own false else r.1, r.2)

/-- Bytes written by a hart: into its die's cache, the line held in M there (R96, R97), or at the home. False when the line
they merge into is uncorrectable. -/
def State.quillWrite (s : State) (h c pa : Nat) (mc qc : Bool) (bs : List Byte) : State × Bool :=
  let line := pa / 64
  if !(qc && isDram pa) then s.homeWrite (some c) mc (cellsFrom pa bs) else
  let r := if s.holds line (h / 32) then (s, some []) else s.homeRead (some c) pa bs.length
  match r.2 with
  | none => (r.1, false)
  | some _ =>
    let s := ((r.1.loseResv line).guardRegions line).putCells (cellsFrom pa bs)
    (s.cacheLine line (h / 32) c mc true true, true)

/-- What a load of a hart finds. -/
inductive HartLoad
  | bytes (b : List Byte)
  | host (bus : Nat)
deriving DecidableEq, Repr

/-- Does an access of n bytes at va cross a 64-byte block? -/
def crosses (va : W64) (n : Nat) : Bool := va.toNat / 64 ≠ (va.toNat + n - 1) / 64

/-- A load of n bytes. -/
def State.hartLoad (s : State) (h c : Nat) (m : Mode) (va : W64) (n : Nat) : State × Except HartFail HartLoad :=
  if crosses va n then (s, .error (.trap { int := false, cause := 4, tval := va, gva := m.virt, gpa := 0 })) else
  match s.hartPlace h c .load m va with
  | (s, .error e) => (s, .error e)
  | (s, .ok (.host bus)) => (s, .ok (.host bus))
  | (s, .ok (.tile pa mc qc)) =>
    match s.quillRead h c pa n mc qc false with
    | (s, some b) => (s, .ok (.bytes b))
    | (s, none) => (s, .error .uncorr)

/-- A store: it retires; one that finds its line uncorrectable, or a host write that cannot be issued, faults the context
(R82, R110, R598). -/
def State.hartStore (s : State) (h c : Nat) (m : Mode) (va : W64) (bs : List Byte) : State × Except HartFail Unit :=
  if crosses va bs.length then (s, .error (.trap { int := false, cause := 6, tval := va, gva := m.virt, gpa := 0 })) else
  match s.hartPlace h c .store m va with
  | (s, .error e) => (s, .error e)
  | (s, .ok (.host bus)) =>
    if s.canIssue c then (s.send (.pcieWrite (c + 1) bus bs false), .ok ()) else (s.faultNoUnit c 0x03 1, .ok ())
  | (s, .ok (.tile pa mc qc)) =>
    match s.quillWrite h c pa mc qc bs with
    | (s, true) => (s, .ok ())
    | (s, false) => (s.faultNoUnit c 0x03 0, .ok ())

/-! ### Steps -/

/-- May hart h execute: RUNNING, waiting for nothing, its context live? -/
def State.hartReady (s : State) (h : Nat) : Bool :=
  (s.hartOf h).st = .running && (s.hartOf h).wait = .none &&
    match s.hartCtx h with
    | some c => s.ctxLive c
    | none => false

/-- A failure taken: the trap, or the fault of the context. -/
def State.hartFails (s : State) (h c : Nat) (e : HartFail) : State :=
  match e with
  | .trap t => s.setHart h ((s.hartOf h).trap t)
  | .uncorr => s.hartUncorr c

/-- An illegal instruction with the bits of the word. -/
def State.hartIllegal (s : State) (h : Nat) (word : Nat) : State :=
  s.setHart h ((s.hartOf h).trap (.exc 2 (BitVec.ofNat 64 word)))

/-- The instruction at a hart's pc: two bytes, or four when their low bits are 11. -/
def State.hartFetch (s : State) (h c : Nat) : State × Except HartFail Nat :=
  let k := s.hartOf h
  let half := fun (s : State) (va : W64) => match s.hartPlace h c .fetch (k.mode .fetch) va with
    | (s, .ok (.tile pa mc qc)) => match s.quillRead h c pa 2 mc qc false with
      | (s, some b) => (s, Except.ok (ofBytes b))
      | (s, none) => (s, .error HartFail.uncorr)
    | (s, .ok (.host _)) => (s, .error (.trap (.exc 1 va)))
    | (s, .error e) => (s, .error e)
  match half s k.pc with
  | (s, .error e) => (s, .error e)
  | (s, .ok lo) =>
    if lo % 4 ≠ 3 then (s, .ok lo) else
    match half s (k.pc + 2) with
    | (s, .error e) => (s, .error e)
    | (s, .ok hi) => (s, .ok (lo + hi * 2 ^ 16))

/-- One instruction of hart h: an interrupt that can be taken first, then the fetch, then the body with the word. -/
def State.hartStep (s : State) (h : Nat) (body : State → Nat → Nat → State) : State :=
  if !s.hartReady h then s else
  match s.interrupt (s.hartOf h) with
  | some _ => s.serveHart h
  | none =>
    let c := s.fld (hartReg h) .CTX
    match s.hartFetch h c with
    | (s, .error e) => s.hartFails h c e
    | (s, .ok w) => body s c w

/-- Hart h takes the registers k and goes on, `len` bytes further. -/
def State.hartDone (s : State) (h : Nat) (k : Hart) (len : Nat) : State := s.setHart h (k.advance len)

/-- A load that waits for the host (R89); one that cannot be issued raises a load access fault. -/
def State.hartHost (s : State) (h c : Nat) (va : W64) (gva : Bool) (bus n : Nat) (w : HartWait) : State :=
  match s.issueRead c (.hart h) va.toNat bus n with
  | (s, true) => s.setHart h { s.hartOf h with wait := w }
  | (s, false) => s.hartFails h c (.trap { int := false, cause := 5, tval := va, gva := gva, gpa := 0 })

end Sys2Proof.Machine
end

