-- ==== Sys2Proof/Machine/Scalar.lean ====
section
/-!
DEFINITION. The scalar Ductus instructions: ALU, multiply and divide, loads, stores, branches and jumps (Table 5-4, R154 to
R156).
-/
namespace Sys2Proof.Machine

/-! ### Shared computations -/

/-- Operand b of a scalar ALU instruction, with IMM32 sign-extended (R152). -/
def NibCore.operandB (k : NibCore) : ScalarB → W64
  | .reg r => k.sreg r
  | .imm i => i.signExtend 64

/-- Operand b of AND, OR and XOR: SALUI zero-extends IMM32 (Table 5-4). -/
def NibCore.operandBZ (k : NibCore) : ScalarB → W64
  | .reg r => k.sreg r
  | .imm i => i.zeroExtend 64

/-- A three-operand scalar instruction. -/
def scalarOp (f : W64 → W64 → W64) (n : CoreId) (rd rs1 : SReg) (b : ScalarB) (s : State) : Out :=
  .next (s.nibCompute n fun k => k.setS rd (f (k.sreg rs1) (k.operandB b)))

/-- A three-operand bitwise instruction. -/
def bitwiseOp (f : W64 → W64 → W64) (n : CoreId) (rd rs1 : SReg) (b : ScalarB) (s : State) : Out :=
  .next (s.nibCompute n fun k => k.setS rd (f (k.sreg rs1) (k.operandBZ b)))

/-- A unary scalar instruction. -/
def unaryOp (f : W64 → W64) (n : CoreId) (rd rs1 : SReg) (s : State) : Out :=
  .next (s.nibCompute n fun k => k.setS rd (f (k.sreg rs1)))

/-- A register–register instruction of class SMUL. -/
def mulOp (f : W64 → W64 → W64) (n : CoreId) (rd rs1 rs2 : SReg) (s : State) : Out :=
  .next (s.nibCompute n fun k => k.setS rd (f (k.sreg rs1) (k.sreg rs2)))

/-- 1 if b, else 0. -/
def boolWord (b : Bool) : W64 := if b then 1 else 0

/-- Leading zeros of a; 64 for 0. -/
def clz64 (a : W64) : W64 := if a = 0 then 64 else BitVec.ofNat 64 (63 - Nat.log2 a.toNat)

/-- Trailing zeros of a; 64 for 0. -/
def ctz64 (a : W64) : W64 := BitVec.ofNat 64 (((List.range 64).find? fun i => a.getLsbD i).getD 64)

/-- Set bits of a. -/
def popc64 (a : W64) : W64 := BitVec.ofNat 64 ((List.range 64).countP fun i => a.getLsbD i)

/-- The bytes of a reversed. -/
def bswap64 (a : W64) : W64 := BitVec.ofNat 64 (ofBytes (toBytes 8 a.toNat).reverse)

/-- High 64 bits of the signed product. -/
def mulh64 (a b : W64) : W64 := BitVec.ofInt 64 (a.toInt * b.toInt / 2 ^ 64)

/-- High 64 bits of the unsigned product. -/
def mulhu64 (a b : W64) : W64 := BitVec.ofNat 64 (a.toNat * b.toNat / 2 ^ 64)

/-- Signed quotient towards zero; all ones for a zero divisor; −2⁶³ for −2⁶³ ÷ −1 (R154). -/
def div64 (a b : W64) : W64 := if b = 0 then BitVec.allOnes 64 else BitVec.ofInt 64 (a.toInt.tdiv b.toInt)

/-- Unsigned quotient; all ones for a zero divisor. -/
def divu64 (a b : W64) : W64 := if b = 0 then BitVec.allOnes 64 else a / b

/-- Signed remainder; the dividend for a zero divisor; 0 for −2⁶³ ÷ −1. -/
def rem64 (a b : W64) : W64 := if b = 0 then a else BitVec.ofInt 64 (a.toInt.tmod b.toInt)

/-- Unsigned remainder; the dividend for a zero divisor. -/
def remu64 (a b : W64) : W64 := if b = 0 then a else a % b

/-! ### Loads, stores and branches -/

/-- A loaded value of `size` bytes, sign- or zero-extended. -/
def extendLoad (size : Nat) (signed : Bool) (v : Nat) : W64 :=
  if signed then BitVec.ofInt 64 (signedOf (8 * size) v) else BitVec.ofNat 64 v

/-- A scalar load (R155): aligned, translated, the value extended into rd; from a HOST page it waits for its completion. -/
def loadOp (size : Nat) (signed : Bool) (n : CoreId) (rd rs1 : SReg) (imm : W32) (s : State) : Out :=
  .next (s.nibStep n fun s k =>
    let va := (k.sreg rs1 + imm.signExtend 64).toNat
    if va % size ≠ 0 then s.nibException n 0x03 (va % 2 ^ 48) else
    match s.loadBytes n (addrsFrom va size) with
    | (s, .exc cause ea) => s.nibException n cause (ea % 2 ^ 48)
    | (s, .bytes got []) => s.nibDone n ((s.core n).setS rd (extendLoad size signed (gotValue got va size)))
    | (s, .bytes got host) => s.hostLoad n (.scalar rd size signed) va size got host)

/-- A scalar store (R155): aligned, translated, buffered. -/
def storeOp (size : Nat) (n : CoreId) (rs1 rs2 : SReg) (imm : W32) (s : State) : Out :=
  .next (s.nibStep n fun s k =>
    let va := (k.sreg rs1 + imm.signExtend 64).toNat
    if va % size ≠ 0 then s.nibException n 0x03 (va % 2 ^ 48)
    else s.nibStore n (cellsFrom va (toBytes size (k.sreg rs2).toNat)))

/-- A jump to a 64-bit target (R156): ACCESS_FETCH at the jump when bits [63:48] are set; else pc takes the target. -/
def State.jumpTo (s : State) (n : Nat) (k : NibCore) (target : W64) : State :=
  if target.toNat / 2 ^ 48 ≠ 0 then s.nibException n 0x04 (target.toNat % 2 ^ 48)
  else s.setCore n { k with pc := BitVec.ofNat 48 target.toNat, retired := k.retired + 1 }

/-- pc + 8 × offset as a 64-bit sum. -/
def pcPlus (pc : BitVec 48) (off : W32) : W64 := pc.zeroExtend 64 + 8 * off.signExtend 64

/-- A conditional branch (R156). -/
def branchOp (f : W64 → W64 → Bool) (n : CoreId) (rs1 rs2 : SReg) (off : W32) (s : State) : Out :=
  .next (s.nibStep n fun s k =>
    if f (k.sreg rs1) (k.sreg rs2) then s.jumpTo n k (pcPlus k.pc off) else s.nibDone n k)

/-! ### The instructions -/


/-- ADD: rd ← a + b, modulo 2⁶⁴ (R154). -/
def execAdd (n : CoreId) (rd rs1 : SReg) (b : ScalarB) (s : State) : Out := scalarOp (fun a b => a + b) n rd rs1 b s

/-- SUB: rd ← a − b (R154). -/
def execSub (n : CoreId) (rd rs1 : SReg) (b : ScalarB) (s : State) : Out := scalarOp (fun a b => a - b) n rd rs1 b s

/-- SLL: a shifted left by b[5:0]. -/
def execSll (n : CoreId) (rd rs1 : SReg) (b : ScalarB) (s : State) : Out := scalarOp (fun a b => a <<< (b.toNat % 64)) n rd rs1 b s

/-- SRL: a shifted right logically by b[5:0]. -/
def execSrl (n : CoreId) (rd rs1 : SReg) (b : ScalarB) (s : State) : Out := scalarOp (fun a b => a >>> (b.toNat % 64)) n rd rs1 b s

/-- SRA: a shifted right arithmetically by b[5:0]. -/
def execSra (n : CoreId) (rd rs1 : SReg) (b : ScalarB) (s : State) : Out := scalarOp (fun a b => a.sshiftRight (b.toNat % 64)) n rd rs1 b s

/-- SLT: 1 if a < b, signed. -/
def execSlt (n : CoreId) (rd rs1 : SReg) (b : ScalarB) (s : State) : Out := scalarOp (fun a b => boolWord (a.slt b)) n rd rs1 b s

/-- SLTU: 1 if a < b, unsigned. -/
def execSltu (n : CoreId) (rd rs1 : SReg) (b : ScalarB) (s : State) : Out := scalarOp (fun a b => boolWord (a.ult b)) n rd rs1 b s

/-- MIN: the signed minimum. -/
def execMin (n : CoreId) (rd rs1 : SReg) (b : ScalarB) (s : State) : Out := scalarOp (fun a b => if b.slt a then b else a) n rd rs1 b s

/-- MAX: the signed maximum. -/
def execMax (n : CoreId) (rd rs1 : SReg) (b : ScalarB) (s : State) : Out := scalarOp (fun a b => if a.slt b then b else a) n rd rs1 b s

/-- MINU: the unsigned minimum. -/
def execMinu (n : CoreId) (rd rs1 : SReg) (b : ScalarB) (s : State) : Out := scalarOp (fun a b => if b.ult a then b else a) n rd rs1 b s

/-- MAXU: the unsigned maximum. -/
def execMaxu (n : CoreId) (rd rs1 : SReg) (b : ScalarB) (s : State) : Out := scalarOp (fun a b => if a.ult b then b else a) n rd rs1 b s

/-- AND: bitwise; SALUI zero-extends IMM32. -/
def execAnd (n : CoreId) (rd rs1 : SReg) (b : ScalarB) (s : State) : Out := bitwiseOp (fun a b => a &&& b) n rd rs1 b s

/-- OR: bitwise; SALUI zero-extends IMM32. -/
def execOr (n : CoreId) (rd rs1 : SReg) (b : ScalarB) (s : State) : Out := bitwiseOp (fun a b => a ||| b) n rd rs1 b s

/-- XOR: bitwise; SALUI zero-extends IMM32. -/
def execXor (n : CoreId) (rd rs1 : SReg) (b : ScalarB) (s : State) : Out := bitwiseOp (fun a b => a ^^^ b) n rd rs1 b s

/-- CLZ: leading zeros; 64 for 0. -/
def execClz (n : CoreId) (rd rs1 : SReg) (s : State) : Out := unaryOp clz64 n rd rs1 s

/-- CTZ: trailing zeros; 64 for 0. -/
def execCtz (n : CoreId) (rd rs1 : SReg) (s : State) : Out := unaryOp ctz64 n rd rs1 s

/-- POPC: set bits. -/
def execPopc (n : CoreId) (rd rs1 : SReg) (s : State) : Out := unaryOp popc64 n rd rs1 s

/-- BSWAP: the bytes reversed. -/
def execBswap (n : CoreId) (rd rs1 : SReg) (s : State) : Out := unaryOp bswap64 n rd rs1 s

/-- LUI: rd ← (IMM32 << 32) | (a & 0xFFFF_FFFF). -/
def execLui (n : CoreId) (rd rs1 : SReg) (imm : W32) (s : State) : Out :=
  unaryOp (fun a => (imm.zeroExtend 64 <<< 32) ||| (a &&& 0xFFFFFFFF#64)) n rd rs1 s

/-- MUL: low 64 bits of the product. -/
def execMul (n : CoreId) (rd rs1 rs2 : SReg) (s : State) : Out := mulOp (fun a b => a * b) n rd rs1 rs2 s

/-- MULH: high 64 bits, signed. -/
def execMulh (n : CoreId) (rd rs1 rs2 : SReg) (s : State) : Out := mulOp (mulh64) n rd rs1 rs2 s

/-- MULHU: high 64 bits, unsigned. -/
def execMulhu (n : CoreId) (rd rs1 rs2 : SReg) (s : State) : Out := mulOp (mulhu64) n rd rs1 rs2 s

/-- DIV: signed quotient (R154). -/
def execDiv (n : CoreId) (rd rs1 rs2 : SReg) (s : State) : Out := mulOp (div64) n rd rs1 rs2 s

/-- DIVU: unsigned quotient (R154). -/
def execDivu (n : CoreId) (rd rs1 rs2 : SReg) (s : State) : Out := mulOp (divu64) n rd rs1 rs2 s

/-- REM: signed remainder (R154). -/
def execRem (n : CoreId) (rd rs1 rs2 : SReg) (s : State) : Out := mulOp (rem64) n rd rs1 rs2 s

/-- REMU: unsigned remainder (R154). -/
def execRemu (n : CoreId) (rd rs1 rs2 : SReg) (s : State) : Out := mulOp (remu64) n rd rs1 rs2 s

/-- LB: loads 1 byte, sign-extended (R155). -/
def execLb (n : CoreId) (rd rs1 : SReg) (imm : W32) (s : State) : Out := loadOp 1 true n rd rs1 imm s

/-- LH: loads 2 bytes, sign-extended (R155). -/
def execLh (n : CoreId) (rd rs1 : SReg) (imm : W32) (s : State) : Out := loadOp 2 true n rd rs1 imm s

/-- LW: loads 4 bytes, sign-extended (R155). -/
def execLw (n : CoreId) (rd rs1 : SReg) (imm : W32) (s : State) : Out := loadOp 4 true n rd rs1 imm s

/-- LD: loads 8 bytes, sign-extended (R155). -/
def execLd (n : CoreId) (rd rs1 : SReg) (imm : W32) (s : State) : Out := loadOp 8 true n rd rs1 imm s

/-- LBU: loads 1 byte, zero-extended (R155). -/
def execLbu (n : CoreId) (rd rs1 : SReg) (imm : W32) (s : State) : Out := loadOp 1 false n rd rs1 imm s

/-- LHU: loads 2 bytes, zero-extended (R155). -/
def execLhu (n : CoreId) (rd rs1 : SReg) (imm : W32) (s : State) : Out := loadOp 2 false n rd rs1 imm s

/-- LWU: loads 4 bytes, zero-extended (R155). -/
def execLwu (n : CoreId) (rd rs1 : SReg) (imm : W32) (s : State) : Out := loadOp 4 false n rd rs1 imm s

/-- SB: stores the low 1 byte of s[RS2] (R155). -/
def execSb (n : CoreId) (rs1 rs2 : SReg) (imm : W32) (s : State) : Out := storeOp 1 n rs1 rs2 imm s

/-- SH: stores the low 2 bytes of s[RS2] (R155). -/
def execSh (n : CoreId) (rs1 rs2 : SReg) (imm : W32) (s : State) : Out := storeOp 2 n rs1 rs2 imm s

/-- SW: stores the low 4 bytes of s[RS2] (R155). -/
def execSw (n : CoreId) (rs1 rs2 : SReg) (imm : W32) (s : State) : Out := storeOp 4 n rs1 rs2 imm s

/-- SD: stores the low 8 bytes of s[RS2] (R155). -/
def execSd (n : CoreId) (rs1 rs2 : SReg) (imm : W32) (s : State) : Out := storeOp 8 n rs1 rs2 imm s

/-- BEQ: pc ← pc + 8 × OFF32 when the comparison holds (R156). -/
def execBeq (n : CoreId) (rs1 rs2 : SReg) (off : W32) (s : State) : Out := branchOp (fun a b => a == b) n rs1 rs2 off s

/-- BNE: pc ← pc + 8 × OFF32 when the comparison holds (R156). -/
def execBne (n : CoreId) (rs1 rs2 : SReg) (off : W32) (s : State) : Out := branchOp (fun a b => a != b) n rs1 rs2 off s

/-- BLT: pc ← pc + 8 × OFF32 when the comparison holds (R156). -/
def execBlt (n : CoreId) (rs1 rs2 : SReg) (off : W32) (s : State) : Out := branchOp (fun a b => a.slt b) n rs1 rs2 off s

/-- BGE: pc ← pc + 8 × OFF32 when the comparison holds (R156). -/
def execBge (n : CoreId) (rs1 rs2 : SReg) (off : W32) (s : State) : Out := branchOp (fun a b => !a.slt b) n rs1 rs2 off s

/-- BLTU: pc ← pc + 8 × OFF32 when the comparison holds (R156). -/
def execBltu (n : CoreId) (rs1 rs2 : SReg) (off : W32) (s : State) : Out := branchOp (fun a b => a.ult b) n rs1 rs2 off s

/-- BGEU: pc ← pc + 8 × OFF32 when the comparison holds (R156). -/
def execBgeu (n : CoreId) (rs1 rs2 : SReg) (off : W32) (s : State) : Out := branchOp (fun a b => !a.ult b) n rs1 rs2 off s

/-- JAL: rd ← pc + 8; pc ← pc + 8 × IMM32 (R156). -/
def execJal (n : CoreId) (rd : SReg) (imm : W32) (s : State) : Out :=
  .next (s.nibStep n fun s k =>
    s.jumpTo n (k.setS rd ((k.pc + 8).zeroExtend 64)) (pcPlus k.pc imm))

/-- JALR: rd ← pc + 8; pc ← a + IMM32 (R156). -/
def execJalr (n : CoreId) (rd rs1 : SReg) (imm : W32) (s : State) : Out :=
  .next (s.nibStep n fun s k =>
    s.jumpTo n (k.setS rd ((k.pc + 8).zeroExtend 64)) (k.sreg rs1 + imm.signExtend 64))

end Sys2Proof.Machine
end

