-- ==== Sys2Proof/Machine/Quill.lean ====
section
/-!
DEFINITION. Quill harts: binding, starting and stopping, the Xquill instructions, qevent, failures; dispatches and posts that
waited; accesses to HOST pages and their completions (R89 to R95, R102, R103, R109, R127, R128, R147, R257, R258, R413, R598 of
spec/).
-/
namespace Sys2Proof.Machine

/-! ### QUILL.HART (R91, R92, R109) -/

def State.bindRefused (s : State) (h : Nat) : State := s.setFlag (.quillStatus (h / 32)) .BIND_REFUSED true

/-- BOUND, CTX and RESET_PC stored. -/
def State.hartFields (s : State) (h : Nat) (f : HartFields) : State :=
  s.setFlds (hartReg h) [(.BOUND, if f.bound then 1 else 0), (.CTX, f.ctx), (.RESET_PC, f.resetPc.toNat)]

/-- A hart started: every register at its reset value, M-mode, pc at RESET_PC with bit 0 clear. -/
def State.startHart (s : State) (h : Nat) : State :=
  (s.setHart h { Hart.off with st := .running, pc := BitVec.ofNat 64 (s.fld (hartReg h) .RESET_PC / 2 * 2) }).setFlag (hartReg h) .RUN true

/-- A hart stopped and OFF. -/
def State.stopHart (s : State) (h : Nat) : State :=
  { (s.setHart h ((s.hartOf h).stop .off)).setFlag (hartReg h) .RUN false with
    waiting := s.waiting.filter (· ≠ .hart h)
    hostReads := s.hostReads.filter fun r => r.reader ≠ .hart h }

/-- A write of QUILL.HART[h]; `run` is none where the write does not reach RUN (R595). A write to a DISABLED or FAILED hart stores
nothing, not even CTX and RESET_PC (notes/assumptions/89). -/
def State.hartWrite (s : State) (h : Nat) (run : Option Bool) (f : HartFields) : State :=
  let st := (s.hartOf h).st
  let off : Bool := st = .failed || st = .disabled
  if run = some true && (off || !f.bound) then s.bindRefused h
  else if off || (st = .faulted && s.resetting (s.fld (hartReg h) .CTX)) then s
  else if st = .running || st = .wfi then (if run = some false then s.stopHart h else s)
  else
    let s := s.hartFields h f
    match run with
    | some true => s.startHart h
    | some false => s.stopHart h
    | none => s

def execQuillHartBind (h : HartId) (run : Bool) (f : HartFields) (s : State) : Out := .next (s.hartWrite h (some run) f)
def execHartRun (h : HartId) (f : HartFields) (s : State) : Out := .next (s.hartWrite h (some true) f)
def execHartStop (h : HartId) (f : HartFields) (s : State) : Out := .next (s.hartWrite h (some false) f)

/-! ### Xquill (Table 3-7, R94, R95, R127, R128) -/

/-- May qpost and qvote run: not in U-mode or VU-mode without UEN? -/
def Hart.xquillOk (k : Hart) : Bool := k.priv ≠ .u || k.cbit 0x7C0 0

def execQstroke (h : HartId) (rd : XReg) (s : State) : Out :=
  .next (s.hartStep h fun s _ _ => s.hartDone h ((s.hartOf h).setX rd (BitVec.ofNat 64 s.count)) 4)

def execQphase (h : HartId) (rd : XReg) (s : State) : Out :=
  .next (s.hartStep h fun s _ _ => s.hartDone h ((s.hartOf h).setX rd (BitVec.ofNat 64 s.phase)) 4)

/-- qvote: a vote with cause PROGRAM for the hart's context. -/
def State.qvote (s : State) (h c w : Nat) : State :=
  if !(s.hartOf h).xquillOk then s.hartIllegal h w else
  let s := s.raiseVote c 1
  s.hartDone h (s.hartOf h) 4

def execQvote (h : HartId) (s : State) : Out := .next (s.hartStep h fun s c w => s.qvote h c w)

/-- A refused qpost: rd takes 0, qstat the status. -/
def State.qpostRefused (s : State) (h : Nat) (rd : XReg) (status : Nat) : State :=
  s.hartDone h (((s.hartOf h).setX rd 0).setCbits 0x7C3 7 0 status) 4

/-- What a qpost finds at its post record: its bytes, a HOST page, an uncorrectable line, or a record that cannot be read. -/
inductive QpostRead
  | bytes (b : List Byte)
  | host (bus : Nat)
  | uncorr
  | bad
deriving DecidableEq, Repr

/-- The post record at a context virtual address. -/
def State.qpostRecord (s : State) (c : Nat) (va : W64) : State × QpostRead :=
  match s.translate c 5 0 va.toNat false false with
  | (s, .ok pa _ _) => match s.homeRead (some c) pa 32 with
    | (s, some b) => (s, .bytes b)
    | (s, none) => (s, .uncorr)
  | (s, .host bus) => (s, .host bus)
  | (s, .uncorr _) => (s, .uncorr)
  | (s, .fail _) => (s, .bad)

/-- A qpost whose record and target are good, accepted: the record allocated, the post queued, rd the handle. -/
def State.qpostAccept (s : State) (h c : Nat) (rd : XReg) (n : Nat) (b : List Byte) : State :=
  let r := s.allocRecord c 0 (coreTile n) (n % 8)
  let s := r.1
  let q := fun o => BitVec.ofNat 64 (fieldAt b o 8)
  let held := s.inGuard
  let p : Post :=
    { arg := .args (q 0) (q 8) (q 16), handle := r.2, crec := true,
      knot := if fieldAt b 0x1A 1 % 2 = 1 then some (fieldAt b 0x18 2) else none, held := held, delayed := held }
  let s := s.setCore n { s.core n with postQ := (s.core n).postQ ++ [p] }
  if s.hartReady h then s.hartDone h ((s.hartOf h).setX rd r.2) 4 else s

/-- The core that a qpost's target word names. -/
def qpostCore (target : W64) : Nat := bits target 4 0 * 8 + bits target 7 5

/-- The status that refuses a qpost before its record is read. Of several that hold, ILLEGAL_DESC comes before BUSY, and both before
the ACCESS of the record (notes/assumptions/89). -/
def State.qpostBars (s : State) (c : Nat) (record target : W64) : Option Nat :=
  if record.toNat % 32 ≠ 0 || !s.coreServes c (qpostCore target) || !s.flag (.ctxwCmpl c) .LOCK then some 0x10
  else if 8 ≤ (s.core (qpostCore target)).postQ.length then some 0x14
  else none

/-- A qpost whose record was read: refused, accepted, or in wait for a ring slot. -/
def State.qpostGo (s : State) (h c : Nat) (rd : XReg) (record target : W64) (b : List Byte) : State :=
  match s.qpostBars c record target with
  | some st => s.qpostRefused h rd st
  | none =>
    if s.nextSlotFree c then s.qpostAccept h c rd (qpostCore target) b
    else { s.setHart h { s.hartOf h with wait := .qpost rd record target b } with waiting := s.waiting ++ [.hart h] }

/-- qpost. A record on a HOST page is read over PCIe first (R89). -/
def State.qpost (s : State) (h c w : Nat) (rd rs1 rs2 : XReg) : State :=
  let k := s.hartOf h
  let record := k.xreg rs1
  let target := k.xreg rs2
  if !k.xquillOk then s.hartIllegal h w else
  match s.qpostBars c record target with
  | some st => s.qpostRefused h rd st
  | none =>
    match s.qpostRecord c record with
    | (s, .uncorr) => s.hartUncorr c
    | (s, .bad) => s.qpostRefused h rd 0x11
    | (s, .bytes b) => s.qpostGo h c rd record target b
    | (s, .host bus) =>
      match s.issueRead c (.hart h) record.toNat bus 32 with
      | (s, true) => s.setHart h { s.hartOf h with wait := .qpostRead rd record target }
      | (s, false) => s.qpostRefused h rd 0x11

def execQpost (h : HartId) (rd rs1 rs2 : XReg) (s : State) : Out :=
  .next (s.hartStep h fun s c w => s.qpost h c w rd rs1 rs2)

/-! ### Waits for an entry or a slot (R128, R147) -/

/-- What a waiting agent asks for: its context, the unit it names and whether it needs a record. -/
def State.request (s : State) : Agent → Option (Nat × W64 × Bool)
  | .nib n => match (s.core n).wait with
    | .dispatch _ target _ crec _ _ => some (s.ctxOf n, target, crec)
    | _ => none
  | .hart h => match (s.hartOf h).wait with
    | .qpost _ _ target _ => some (s.fld (hartReg h) .CTX, setBits (target &&& 0x1F#64) 18 16 (bits target 7 5), true)
    | _ => none

/-- Can the request be accepted now? -/
def State.grantable (s : State) (a : Agent) : Bool :=
  match a, s.request a with
  | .nib n, some (c, target, crec) => match (s.core n).wait with
    | .dispatch _ _ _ _ _ knot => (match s.judge c target crec knot with
      | .go _ => true
      | _ => false)
    | _ => false
  | .hart _, some (c, _, _) => s.nextSlotFree c
  | _, _ => false

/-- Is no earlier wait served by the same entry or slot? -/
def State.firstInLine (s : State) (a : Agent) : Bool :=
  match s.request a with
  | none => false
  | some (c, target, crec) =>
    (s.waiting.find? fun b => match s.request b with
      | some (c', target', crec') => s.grantable b && (target = target' || (c = c' && crec && crec'))
      | none => false).all (· = a)

/-- STALLED_DISPATCH_ACCEPT: a stalled dispatch or qpost, first in line, is accepted; one that would now be refused is, with WAIT = 0
also for a full queue or, once the ring is initialised, for its slot (R137, Table 4-4). -/
def execStalledDispatchAccept (a : Waiter) (s : State) : Out :=
  .next (match a with
    | .nib n =>
      (match (s.core n).wait with
      | .dispatch rd target desc crec stall knot =>
        if !s.ctxLive (s.ctxOf n) then s else
        let refuse := fun code => let s := s.nibWake n; s.refuseDispatch n (s.core n) rd code
        (match s.judge (s.ctxOf n) target crec knot with
        | .go t => if s.firstInLine (.nib n) then (s.nibWake n).acceptOn n rd t desc crec knot else s
        | .notOwned => refuse 0x010#16
        | .queueFull => if stall then s else refuse 0x014#16
        | .slotBusy => if stall || s.flag (.ctxwCmplStat (s.ctxOf n)) .INIT then s else refuse 0x114#16)
      | _ => s)
    | .hart h =>
      (match (s.hartOf h).wait, s.hartCtx h with
      | .qpost rd record target b, some c =>
        if !s.ctxLive c || (s.qpostBars c record target = none && !(s.nextSlotFree c && s.firstInLine (.hart h))) then s else
        { s.setHart h { s.hartOf h with wait := .none } with
          waiting := s.waiting.filter (· ≠ Agent.hart h)
          watches := s.watches.filter fun w => w.obj.who ≠ 256 + h }.qpostGo h c rd record target b
      | _, _ => s))

/-! ### qevent (R257, R258) -/

/-- The condition that a binding of a hart of context c follows. -/
def State.eventHolds (s : State) (c : Nat) (b : W64) : Bool :=
  let i := bits b 12 0
  bitAt b 63 && if bitAt b 62 then s.bobOwned c i && (s.bobbin i).queue ≠ [] else s.knotOwned c i && s.knotHigh i

/-- A write of qebind by hart h of context c. -/
def State.qebindWrite (s : State) (h c : Nat) (w : W64) : Hart :=
  let k := s.hartOf h
  let i := k.cbits 0x7C4 5 0
  let put := fun (k : Hart) (v : W64) => { k with bind := smSet (fun _ => 0) k.bind i v }
  let owned := if bitAt w 62 then s.bobOwned c (bits w 12 0) else s.knotOwned c (bits w 12 0)
  if bits w 61 13 ≠ 0 || (bitAt w 63 && !owned) then (put k 0).setCbits 0x7C3 7 0 0x10 else put k w

/-- QEBIND_WRITE: an M-mode write of qebind. -/
def execQebindWrite (h : HartId) (data : W64) (s : State) : Out :=
  .next (s.hartStep h fun s c w =>
    if (s.hartOf h).priv ≠ .m then s.hartIllegal h w else s.hartDone h (s.qebindWrite h c data) 4)

/-- QEVENT_UPDATE: a bit of qevent follows its condition; MEIP follows qevent. -/
def execQeventUpdate (h : HartId) (bit : BitVec 6) (s : State) : Out :=
  let k := s.hartOf h
  let v := match s.hartCtx h with
    | some c => s.eventHolds c (smGet (fun _ => 0) k.bind bit.toNat)
    | none => false
  .next ((s.setHart h (k.setCbits 0x7C2 bit.toNat bit.toNat (if v then 1 else 0))).serveHart h)

/-- MACHINE_TIMER_INTERRUPT: the package time has reached a hart's timer: WFI ends, or the interrupt is taken. -/
def execMachineTimerInterrupt (h : HartId) (s : State) : Out := .next (s.serveHart h)

/-! ### Failures (R102, R103) -/

/-- QUILL_CORE_FAILURE. -/
def execQuillCoreFailure (h : HartId) (s : State) : Out :=
  let st := (s.hartOf h).st
  .next <|
    if st = .failed || st = .disabled then s else
    let d := h.val / 32
    let c := s.hartCtx h
    let r := Reg.quillMcheck d
    let s := s.list 5 0 false d (h.val % 32)
    let s := if s.flag r .VALID then s else
      s.setFlds r [(.VALID, 1), (.CORE, h.val % 32), (.CTX, c.getD 0)]
    let s := { s.setHart h ((s.hartOf h).stop .failed) with
      waiting := s.waiting.filter (· ≠ Agent.hart h), hostReads := s.hostReads.filter fun q => q.reader ≠ HostReader.hart h }
    let s := ((s.setFlag (hartReg h) .BOUND false).setFlag (hartReg h) .RUN false).pfEvent 10
    match c with
    | some c => s.faultNoUnit c 0x04 3
    | none => s

/-- QUILL_CACHE_UE: a line of a Quill cache is uncorrectable; if modified, its data is lost, and its home line is poisoned and
logged. -/
def execQuillCacheUe (line : BitVec 32) (s : State) : Out :=
  let l := line.toNat
  .next (match s.dir.find? (fun e => e.line = l) with
    | none => s
    | some e =>
      let s := { s with dir := s.dir.filter fun e => e.line ≠ l }
      let s := if e.dirty then (s.setPoison l true).logUe false e.ctx (l * 64) else s
      s.faultNoUnit e.ctx 0x04 4)

/-! ### HOST pages (R89, R90, R413, R424, R425, R598) -/

/-- The tag and SOURCE of an agent's accesses to the host. -/
def memAgentSource : MemAgent → Nat
  | .nib _ => 0 | .hart _ => 5 | .feed t _ => feedSource t | .tambour _ _ => 4 | .filet _ => 2 | .folio _ => 3
  | .aperture _ => 6

/-- HOST_PAGE_ACCESS: an access of an agent at a virtual address of its context whose leaf is marked HOST. A read is answered
when its completion comes; an atomic, or a fetch of a hart, is a fault and sends nothing. -/
def execHostPageAccess (a : MemAgent) (va : W64) (op : HostOp) (s : State) : Out :=
  .next (match s.agentCtx a with
    | none => s
    | some c =>
      match s.walk c va.toNat (match op with
          | .store _ => true
          | .atomic => true
          | _ => false) (op = .fetch) with
      | .host bus =>
        (match op with
        | .load len =>
          (match s.issueRead c .access va.toNat bus len with
          | (s, true) => s
          | (s, false) => s.send (.memReply bus 0x11 []))
        | .store data =>
          if s.canIssue c then
            let ro := match a with
              | .feed _ _ => (s.fnOf (c + 1)).relaxed
              | _ => false
            s.send (.pcieWrite (c + 1) bus data ro)
          else (match a with
            | .nib n => s.contextFault c 0x03 0 (coreTile n) (n.val % 8) 1
            | .hart _ => s.faultNoUnit c 0x03 1
            | _ => s.send (.memReply bus 0x11 []))
        | .atomic => (match a with
          | .hart h => s.setHart h ((s.hartOf h).trap (.exc 7 va))
          | _ => s)
        | .fetch => (match a with
          | .hart h => s.setHart h ((s.hartOf h).trap (.exc 1 va))
          | .nib _ => (match s.issueRead c .access va.toNat bus 8 with
            | (s, true) => s
            | (s, false) => s.send (.memReply bus 0x11 []))
          | _ => s))
      | _ => s)

/-- A core's load ended by its last completion: what it was for goes on. -/
def State.nibLoaded (s : State) (n : Nat) (kind : LoadKind) (va len : Nat) (got : List Host.Cell) : State :=
  let s := s.setCore n { s.core n with wait := .none }
  let k := s.core n
  match kind with
  | .scalar rd size signed => s.nibDone n (k.setS rd (extendLoad size signed (gotValue got va size)))
  | .vector o bcast => s.nibDone n (k.setV o.v (k.loadedVec o bcast va got))
  | .message rd index port nw =>
    s.sendMessage n rd port index ((addrsFrom va len).map fun a => smGet (fun _ => 0) got a) nw

/-- The data of a host read of a core. -/
def State.nibData (s : State) (n : Nat) (r : HostRead) (data : List Byte) : State :=
  match (s.core n).wait with
  | .hostLoad kind va len got left =>
    let got := got ++ cellsFrom r.va data
    if 2 ≤ left then s.setCore n { s.core n with wait := .hostLoad kind va len got (left - 1) }
    else s.nibLoaded n kind va len got
  | .hostFetch => s.setCore n { s.core n with wait := .none, fetched := some (s.core n).pc }
  | .postRead p => (s.setCore n { s.core n with wait := .none }).beginPost n p data
  | _ => s

/-- A host read of a core that failed: a load raises ACCESS_LOAD or UNCORR_MEM, and its other reads count no more; a fetch raises
ACCESS_FETCH or UNCORR_MEM; a post ends with ACCESS or UNCORR_MEM. -/
def State.nibReadFails (s : State) (n : Nat) (uncorr : Bool) : State :=
  match (s.core n).wait with
  | .hostLoad _ va _ _ _ =>
    let s := { s.setCore n { s.core n with wait := .none } with hostReads := s.hostReads.filter fun r => r.reader ≠ HostReader.nib n }
    s.nibException n (if uncorr then 0x07 else 0x05) (va % 2 ^ 48)
  | .hostFetch => (s.setCore n { s.core n with wait := .none }).nibException n (if uncorr then 0x07 else 0x04) (s.core n).pc.toNat
  | .postRead p => (s.setCore n { s.core n with wait := .none }).endPost n p (if uncorr then 0x12 else 0x11)
  | _ => s

/-- Bytes of an element laid into a vector register group. -/
def Hart.setElem (k : Hart) (vreg i size v : Nat) : Hart :=
  let r := vreg + i * size / 32
  let o := 8 * (i * size % 32)
  let m := (2 ^ (8 * size) - 1) * 2 ^ o
  k.setVec r (BitVec.ofNat 256 ((k.vecReg r).toNat - ((k.vecReg r).toNat &&& m) + v % 2 ^ (8 * size) * 2 ^ o))

/-! ### Elements of vector loads -/

/-- Why the fields of one element stop: all are loaded, one waits for the host, or one failed. -/
inductive FieldsEnd
  | done | waits
  | fails (e : HartFail)

/-- An element written into a register group, and VS dirty. -/
def Hart.loadElem (k : Hart) (v i size w : Nat) : Hart := (k.setElem v i size w).dirty 10 9

/-- The fields of one element of a vector load: `size` bytes each, one after the other from va, `emul` registers apart. A field
that is not aligned raises address-misaligned (Table 3-6). -/
def State.vecFields (s : State) (h c size emul vd elem nf : Nat) (va : W64) (fof : Bool) : List Nat → State × FieldsEnd
  | [] => (s, .done)
  | f :: fs =>
    let m := (s.hartOf h).mode .load
    let a := va + BitVec.ofNat 64 (f * size)
    let bad := fun (n : Nat) => FieldsEnd.fails (.trap { int := false, cause := n, tval := a, gva := m.virt, gpa := 0 })
    if a.toNat % size ≠ 0 then (s, bad 4) else
    match s.hartLoad h c m a size with
    | (s, .error e) => (s, .fails e)
    | (s, .ok (.bytes b)) =>
      (s.setHart h ((s.hartOf h).loadElem (vd + f * emul) elem size (ofBytes b))).vecFields h c size emul vd elem nf va fof fs
    | (s, .ok (.host bus)) =>
      match s.issueRead c (.hart h) a.toNat bus size with
      | (s, true) => (s.setHart h { s.hartOf h with wait := .hostElem vd elem size emul f nf va fof m.virt }, .waits)
      | (s, false) => (s, bad 5)

/-- A failure of element `elem`: a fault-only-first load that has loaded an element ends with vl there; any other takes it. -/
def State.vecFails (s : State) (h c : Nat) (e : HartFail) (elem : Nat) (fof : Bool) : State :=
  if fof && elem ≠ 0 && e ≠ .uncorr then
    s.hartDone h ((((s.hartOf h).setCsr 0xC20 (BitVec.ofNat 64 elem)).setCsr 8 0).dirty 10 9) 4
  else s.hartFails h c e

/-- The data of a host read of a hart: a scalar load goes on; a field of a vector load is written, and the rest of its element
loaded; the load goes on behind it. -/
def State.hartData (s : State) (h : Nat) (data : List Byte) : State :=
  let k := s.hartOf h
  match k.wait with
  | .hostLoad rd size signed fp len _ =>
    let v := ofBytes (data.take size)
    let k := { k with wait := .none }
    s.hartDone h (if fp then k.setF rd.toNat (BitVec.ofNat 64 (if size = 4 then v + (2 ^ 64 - 2 ^ 32) else v))
      else k.setX rd (extendLoad size signed v)) len
  | .hostElem vd elem size emul f nf va fof _ =>
    let c := s.fld (hartReg h) .CTX
    let s := s.setHart h ({ k with wait := .none }.loadElem (vd + f * emul) elem size (ofBytes (data.take size)))
    match s.vecFields h c size emul vd elem nf va fof ((List.range nf).drop (f + 1)) with
    | (s, .done) => s.setHart h ((s.hartOf h).setCsr 8 (BitVec.ofNat 64 (elem + 1)))
    | (s, .waits) => s
    | (s, .fails e) => s.vecFails h c e elem fof
  | .qpostRead rd record target =>
    (s.setHart h { k with wait := .none }).qpostGo h (s.fld (hartReg h) .CTX) rd record target data
  | _ => s

/-- A host read of a hart that failed: a load access fault, or the fault of its context. -/
def State.hartReadFails (s : State) (h : Nat) (r : HostRead) (uncorr : Bool) : State :=
  let fail := fun (gva : Bool) => if uncorr then HartFail.uncorr
    else .trap { int := false, cause := 5, tval := BitVec.ofNat 64 r.va, gva := gva, gpa := 0 }
  let s' := s.setHart h { s.hartOf h with wait := .none }
  match (s.hartOf h).wait with
  | .none => s
  | .qpost _ _ _ _ => s
  | .qpostRead rd _ _ => if uncorr then s'.hartUncorr r.ctx else s'.qpostRefused h rd 0x11
  | .hostLoad _ _ _ _ _ gva => s'.hartFails h r.ctx (fail gva)
  | .hostElem _ elem _ _ _ _ _ fof gva => s'.vecFails h r.ctx (fail gva) elem fof

/-- A read of the package ended: with its data, with ACCESS, or with UNCORR_MEM. -/
def State.readEnds (s : State) (r : HostRead) (st : ReadStatus) (data : List Byte) : State :=
  let s := { s with hostReads := s.hostReads.filter fun q => q.tag ≠ r.tag }
  let code := if st = .poisoned then 0x12 else 0x11
  match r.reader with
  | .nib n => if st = .sc then s.nibData n r data else s.nibReadFails n (st = .poisoned)
  | .hart h => if st = .sc then s.hartData h data else s.hartReadFails h r (st = .poisoned)
  | .feed t ch => if st = .sc then s.feedData (64 * t + ch) r.tag data else s.feedReadFails (64 * t + ch) r.tag code
  | .unit key =>
    let b := s.bufOf key
    s.setBuf key (if st = .sc then { b with cells := b.cells ++ cellsFrom r.bus data } else { b with fail := code })
  | .bar va0 len got clean => s.apertureData r va0 len { data := got, clean := clean } st data
  | .access => if st = .sc then s.send (.memReply r.bus 0 data) else s.send (.memReply r.bus code [])

/-- HOST_READ_COMPLETION: a completion for a read that is outstanding; one for a read that is not, or with a length that is
not the read's, is discarded (R473). -/
def execHostReadCompletion (tag : W32) (st : ReadStatus) (data : List Byte) (s : State) : Out :=
  .next (match s.hostReads.find? (fun r => r.tag = tag.toNat) with
    | some r => if st = .sc && data.length ≠ r.len then s else s.readEnds r st data
    | none => s)

/-- An error of a function logged under AER: a completion timeout, or an unsupported request (R403, R422). -/
def State.aerLog (s : State) (f : Nat) (timeout : Bool) : State :=
  let k := s.fnOf f
  (s.setFn f (if timeout then { k with aerTimeout := true } else { k with aerUr := true })).pfEvent 13

/-- COMPLETION_TIMEOUT: the read ends as with UR. -/
def execCompletionTimeout (tag : W32) (s : State) : Out :=
  .next (match s.hostReads.find? (fun r => r.tag = tag.toNat) with
    | some r => (s.aerLog (r.ctx + 1) true).readEnds r .ur []
    | none => s)

end Sys2Proof.Machine
end

