-- ==== Sys2Proof/Machine/Start.lean ====
section
/-!
DEFINITION. Package reset, boot, and the start steps: limits, power, the start test, the mapping of spares, the known-answer
runs and the ports (R24, R28 to R30, R194, R388, R436 to R450, R456, R457, R460, R461, R507, R508, R518, R591 of spec/).
-/
namespace Sys2Proof.Machine

/-! ### Package reset (R388, R423, R456, R476, R497, R591) -/

/-- A commit in progress when power or the package goes: the record is there whole or not at all (R583, R591). -/
def State.settleCommit (s : State) : State :=
  match s.start.commit with
  | none => s
  | some r =>
    let f := s.free
    if bitAt f.1 0 then { f.2 with perm := { f.2.perm with record := some r } } else f.2

/-- Every register and unit at its reset value. What waits, what was sent, and what lies outside the package stay; so does the
permanent store. -/
def State.packageReset (s : State) : State :=
  let s := s.settleCommit
  { State.reset with pending := s.pending, freeIx := s.freeIx, perm := s.perm, straps := s.straps, outbox := s.outbox,
                     rack := s.rack }

/-- A TMC, and what changes of one. -/
def State.tmc (s : State) (t : Nat) : Tmc := smGet (fun _ => Tmc.fresh) s.rack.tmcs t
def State.setTmc (s : State) (t : Nat) (k : Tmc) : State :=
  { s with rack := { s.rack with tmcs := smSet (fun _ => Tmc.fresh) s.rack.tmcs t k } }

/-- Is a slot of a tray held in reset by its TMC (R544, R557, R559)? -/
def Tmc.holds (k : Tmc) (slot : Nat) : Bool := k.heldShelf || k.heldBy.testBit slot

/-- Is the package held in reset? -/
def State.heldInReset (s : State) : Bool := (s.tmc s.rack.place.1).holds s.rack.place.2

/-- PACKAGE_RESET: the start that follows begins with POWER_GOOD. -/
def execPackageReset (s : State) : Out := .next s.packageReset

/-! ### Boot (R24, R29, R30, R437, R438, R507) -/

/-- ID.VARIANT (Tables 1-8 and 1-11). -/
def variantWord : W64 :=
  if Config.variantE then BitVec.ofNat 64 (1400 <<< 32 ||| 1150 <<< 16 ||| 1050 <<< 4 ||| 2)
  else BitVec.ofNat 64 (1800 <<< 32 ||| 1500 <<< 16 ||| 1250 <<< 4 ||| 1)

/-- ID.POSITION of a record and a position (Table 1-13, R19, R30). -/
def positionWord (r : List Byte) (x y : Nat) : W64 :=
  let span := fun (o : Nat) => (r.getD o 0).toNat
  BitVec.ofNat 64 (1 <<< 63 ||| span 0x11 <<< 48 ||| span 0x10 <<< 40 ||| (x % 4) <<< 36 ||| (2 * (y % 6) + x % 8 / 4) <<< 32
    ||| (y / 6 * 32 + x / 8) <<< 16 ||| y <<< 8 ||| x)

/-- What the permanent store gives: ID.VARIANT, ID.POSITION, and the power tables (weights 21 to 31 stay 0, R507); the boot is
counted. -/
def State.loadStore (s : State) : State :=
  let s := { s with perm := { s.perm with boots := s.perm.boots + 1 } }
  let s := s.setReg .idVariant variantWord
  let s := match s.perm.record with
    | some (r, x, y) => s.setReg .idPosition (positionWord r x y)
    | none => s
  let s := (List.range 21).foldl (fun s i => s.setFld (.pwrW i) .WEIGHT (Config.weight i).toNat) s
  (List.range 16).foldl (fun s j => s.setFld (.pwrStatic j) .WATTS (Config.staticW j).toNat) s

/-- POWER_GOOD: step 0 begins. `fw` is the verified firmware set, none when an image fails; `store` says that the permanent store
can be read; `straps` that the straps of the tray slot can (R581). A package held in reset does not start. -/
def execPowerGood (fw : Option W64) (store straps : Bool) (s : State) : Out :=
  if s.heldInReset then .next s else
  let p := s.packageReset
  let s := { p with straps := if straps then some s.rack.place else none, rack := { p.rack with unpowered := false } }
  let s := s.beginStep 0
  .next (match fw with
    | none => { s with start := { s.start with outcome := 1 } }
    | some v =>
      let s := s.setReg .stwFwVersion v
      if store then s.loadStore else { s with start := { s.start with outcome := 2 } })

/-! ### The order of the steps (R436, R438, R456, R457, R461) -/

/-- May step k be begun: is it the next one, and does none run? -/
def State.stepNext (s : State) (k : Nat) : Bool :=
  (match s.start.passed with
    | some n => k = n + 1 && k ≤ 7
    | none => false) && s.fld .startStat .STATE ≠ 1

/-- A step that its rules let begin, with what it does and the outcome it is to end with; ORDER_ERR otherwise. -/
def State.runStep (s : State) (k : Nat) (f : State → State × Nat) : State :=
  if s.stepNext k then
    let r := f (s.beginStep k)
    { r.1 with start := { r.1.start with outcome := r.2 } }
  else s.setFlag .startStat .ORDER_ERR true

/-! ### Run limits (R439, R440) -/

/-- The limits in force: tile MHz, sustained W, peak W. -/
def State.limits (s : State) : Nat × Nat × Nat :=
  s.start.limits.getD (s.fld .idVariant .TILE_MHZ, s.fld .idVariant .SUSTAINED_W, s.fld .idVariant .PEAK_W)

/-- The variant limit of a field of START.RUNLIM. -/
def State.variantOf (s : State) (f : FName) : Nat := s.fld .idVariant f

/-- A write of some fields of START.RUNLIM (R439, R595). A field that has its first write, or any once step 1 has begun, is violated; a
write with a field of zero or above the variant has no effect and is no first write. -/
def State.runlimWrite (s : State) (fs : List (FName × Nat)) : State :=
  let late := fun (x : FName × Nat) => decide (1 ≤ s.fld .startStat .STEP) || s.fld .startRunlim x.1 ≠ 0
  let s := if fs.any late then s.setFlag .idStatus .WO_VIOLATION true else s
  if fs.all late then s
  else if fs.any fun x => x.2 = 0 || s.variantOf x.1 < x.2 then s.setFlag .startStat .CFG_ERR true
  else s.setFlds .startRunlim (fs.filter fun x => !late x)

def execRunlimWrite (mhz : BitVec 12) (sust peak : W16) (s : State) : Out :=
  .next (s.runlimWrite [(.TILE_MHZ, mhz.toNat), (.SUSTAINED_W, sust.toNat), (.PEAK_W, peak.toNat)])

/-- The run limit of a field: the one written, or the variant's. -/
def State.runLimit (s : State) (f : FName) : Nat := if s.fld .startRunlim f = 0 then s.variantOf f else s.fld .startRunlim f

/-- Step 1: the run limits, or the variant's, come into force, and Rref is to be set (R518). -/
def State.stepLimits (s : State) (ok : Bool) : State :=
  s.runStep 1 fun s =>
    let l := (s.runLimit .TILE_MHZ, s.runLimit .SUSTAINED_W, s.runLimit .PEAK_W)
    if ok then ({ s with start := { s.start with limits := some l }, power := { s.power with refDue := true } }, 0) else (s, 3)

/-- START_LIMITS: `ok` says that the clocks and the power controller take the limits. -/
def execStartLimits (ok : Bool) (s : State) : Out := .next (s.stepLimits ok)

/-- Step 2: the power block must be locked and both caps set (R508). -/
def State.stepPower (s : State) : State :=
  s.runStep 2 fun s =>
    (s, if s.flag .pwrCtrl .LOCK && s.fld .pwrCap .PEAK_W ≠ 0 && s.fld .pwrCap .SUST_W ≠ 0 then 0 else 4)

def execStartPower (s : State) : Out := .next s.stepPower

/-! ### The start test (R441 to R444, R460) -/

def State.listMem (s : State) : MemFailure → State
  | .row t z ch bank row => s.list 4 1 z t (ch.toNat <<< 30 ||| bank.toNat <<< 24 ||| row.toNat)
  | .bank t b => s.list 3 1 false t b

/-- TILE and KIND of a Quill core: its die. -/
def State.listQuill (s : State) (h : Nat) : State := s.list 5 1 false (h / 32) (h % 32)

def State.listUnit (s : State) : PhysUnit → State
  | .array t p => s.list 1 1 false t p
  | .nib t p => s.list 2 1 false t p
  | .quill h => s.listQuill h

/-- Step 3: memory is tested; what it held is gone, and the failures are listed. -/
def State.stepMemtest (s : State) (failures : List MemFailure) : State :=
  s.runStep 3 fun s =>
    ({ failures.foldl State.listMem s with mem := [], poison := [], wellBad := [], zmap := [], dir := [] }, 0)

def execStartMemtest (failures : List MemFailure) (s : State) : Out := .next (s.stepMemtest failures)

/-- Step 4: the failures are listed; `other` is a failure of a unit without a spare (R442). -/
def State.stepUnittest (s : State) (failures : List PhysUnit) (other : Bool) : State :=
  s.runStep 4 fun s => (failures.foldl State.listUnit s, if other then 6 else 0)

def execStartUnittest (failures : List PhysUnit) (other : Bool) (s : State) : Out := .next (s.stepUnittest failures other)

/-! ### Spare substitution (R445, Table 14-4) -/

/-- Is a unit on the defect list? -/
def State.isListed (s : State) (kind tile loc : Nat) : Bool :=
  s.perm.defects.any fun e => bits e 63 60 = kind && bits e 39 35 = tile && bits e 34 0 = loc

/-- The healthy physical units of a kind on a tile, of n, upwards. -/
def State.healthy (s : State) (kind tile n : Nat) : List Nat := (List.range n).filter fun p => !s.isListed kind tile p

/-- Logical units 0 to n − 1 of a kind take the healthy physical units in order; 63 stands for none. -/
def State.mapUnits (s : State) (kind tile n : Nat) (phys : List Nat) : State :=
  (List.range n).foldl (fun s i => s.setPhys kind tile i (phys.getD i 63)) s

/-- Listed rows of a tile, by bank (LOC without ROW), and how many have no spare: 32 spare rows a bank. -/
def State.rowsShort (s : State) (tile : Nat) : Nat :=
  let rows := dedup ((s.perm.defects.filter fun e => bits e 63 60 = 4 && bits e 39 35 = tile).map fun e => bits e 34 0)
  let banks := rows.map (· / 2 ^ 24)
  ((dedup banks).map fun b => banks.count b - 32).sum

/-- The Well banks of a tile: the listed ones among 0 to 47 take the unused spares 48 and 49, lowest first; how many have none. -/
def State.mapBanks (s : State) (tile : Nat) : State × Nat :=
  let bad := (List.range 48).filter fun b => s.isListed 3 tile b
  let spares := [48, 49].filter fun b => !s.isListed 3 tile b
  let s := (List.range 48).foldl (fun s b => s.setPhys 3 tile b b) s
  ((bad.zip spares).foldl (fun s p => s.setPhys 3 tile p.1 p.2) s, bad.length - spares.length)

/-- One tile mapped, and TSTART.RESULT written; true when a row or a bank has no spare. -/
def State.mapTile (s : State) (t : Nat) : State × Bool :=
  let arrays := s.healthy 1 t 17
  let nibs := s.healthy 2 t 9
  let rows := s.rowsShort t
  let s := (s.mapUnits 1 t 16 arrays).mapUnits 2 t 8 nibs
  let b := s.mapBanks t
  let listed := ((List.range 50).filter fun x => s.isListed 3 t x).length
  (b.1.setFlds (.tstartResult t) [(.ROWS_SHORT, min rows 255), (.BANKS_SHORT, b.2), (.WELL_LISTED, listed),
    (.NIB_HEALTHY, nibs.length), (.ARRAYS_HEALTHY, arrays.length)], rows ≠ 0 || b.2 ≠ 0)

/-- The listed Quill cores DISABLED (R102). -/
def State.mapQuill (s : State) : State :=
  (List.range 64).foldl (fun s h =>
    if s.isListed 5 (h / 32) (h % 32) then s.setHart h { s.hartOf h with st := .disabled } else s) s

/-- MAP over the tiles of a list. -/
def State.mapAll (s : State) (tiles : List Nat) : State × Bool :=
  let r := tiles.foldl (fun acc t =>
    let x := acc.1.mapTile t
    (x.1, acc.2 || x.2)) (s, false)
  (r.1.mapQuill, r.2)

/-- Step 5: cause MAP when a tile has a row or a bank without a spare. -/
def State.stepMap (s : State) : State :=
  s.runStep 5 fun s =>
    let r := s.mapAll (List.range 32)
    (r.1, if r.2 then 7 else 0)

def execStartMap (s : State) : Out := .next s.stepMap

/-! ### Known-answer runs (R446, R447) -/

/-- Is the unit mapped, and on a tile or die that the round runs on? -/
def State.katRuns (s : State) (tiles dies : List Nat) : KatUnit → Bool
  | .array t a => tiles.contains t.val && a.val < s.fld (.tstartResult t) .ARRAYS_HEALTHY
  | .nib t n => tiles.contains t.val && n.val < s.fld (.tstartResult t) .NIB_HEALTHY
  | .quill h => dies.contains (h.val / 32) && (s.hartOf h).st ≠ .disabled

def State.listKat (s : State) : KatUnit → State
  | .array t a => s.list 1 1 false t (s.physOf 1 t a)
  | .nib t n => s.list 2 1 false t (s.physOf 2 t n)
  | .quill h => s.listQuill h

def katTile : KatUnit → Option Nat
  | .array t _ => some t
  | .nib t _ => some t
  | .quill _ => none
def katDie : KatUnit → Option Nat
  | .quill h => some (h.val / 32)
  | _ => none

/-- Round n of KAT and those after it: a mismatch lists its unit, and MAP and KAT are repeated where it lies, in at most three
rounds. The state and the outcome. -/
def State.katRounds : Nat → List KatRound → List Nat → List Nat → State → State × Nat
  | _, [], tiles, _, s => (tiles.foldl (fun s t => s.addFld (.tstartResult t) .ROUNDS 1) s, 0)
  | n, r :: rs, tiles, dies, s =>
    let s := tiles.foldl (fun s t => s.addFld (.tstartResult t) .ROUNDS 1) s
    let bad := r.units.filter (s.katRuns tiles dies)
    if r.other then (s, 8)
    else if bad = [] then (s, 0)
    else
      let s := bad.foldl State.listKat s
      if 3 ≤ n then (s, 8) else
      let ts := dedup (bad.filterMap katTile)
      let m := s.mapAll ts
      if m.2 then (m.1, 7) else katRounds (n + 1) rs ts (dedup (bad.filterMap katDie)) m.1

/-- Step 6. `rounds` holds what each round finds. A full list ends it (R444). -/
def State.stepKat (s : State) (rounds : List KatRound) : State :=
  s.runStep 6 fun s =>
    let s := (List.range 32).foldl (fun s t => s.setFld (.tstartResult t) .ROUNDS 0) s
    let r := State.katRounds 1 rounds (List.range 32) [0, 1] s
    (r.1, if r.2 ≠ 0 then r.2 else if 4096 ≤ r.1.perm.defects.length then 9 else 0)

def execStartKat (rounds : List KatRound) (s : State) : Out := .next (s.stepKat rounds)

/-- ID.UNITS of the mapping (Table 1-12). -/
def State.unitsWord (s : State) : W64 :=
  let tiles := List.range 32
  let arrays := tiles.map fun t => s.fld (.tstartResult t) .ARRAYS_HEALTHY
  let nibs := tiles.map fun t => s.fld (.tstartResult t) .NIB_HEALTHY
  let quill := ((List.range 64).filter fun h => (s.hartOf h).st ≠ .disabled).length
  let degraded := arrays.any (· < 16) || nibs.any (· < 8) || quill < 64
  BitVec.ofNat 64 ((nibs.map (· - 8)).sum <<< 56 ||| (arrays.map (· - 16)).sum <<< 48 ||| (nibs.map (min 8)).sum <<< 32 |||
    (if degraded then 1 else 0) <<< 31 ||| (arrays.map (min 16)).sum <<< 16 ||| quill)

/-- Step 6 passed: ID.UNITS is written, arrays are IDLE or DISABLED, cores OFF or DISABLED. -/
def State.katPassed (s : State) : State :=
  let s := s.setReg .idUnits s.unitsWord
  let s := (List.range 512).foldl (fun s i =>
    let on := i % 16 < s.fld (.tstartResult (i / 16)) .ARRAYS_HEALTHY
    s.setFld (.tambArray (i / 16) (i % 16)) .STATE (if on then 0 else 4)) s
  (List.range 256).foldl (fun s n =>
    if n % 8 < s.fld (.tstartResult (n / 8)) .NIB_HEALTHY then s else s.setCore n { s.core n with st := .disabled }) s

/-! ### Ports and founding (R448, R450) -/

/-- Step 7: it ends once no enabled port trains. -/
def State.stepPorts (s : State) : State := s.runStep 7 fun s => (s, 0)

def execStartPorts (s : State) : Out := .next s.stepPorts

/-- Does an enabled port train? -/
def State.portsTrain (s : State) : Bool := (List.range 16).any fun p => s.flag (.portCfg p) .ENABLE && s.portIs p = 2

/-- FOUND: armed on a package whose record names it an anchor candidate. -/
def State.armFound (s : State) : State :=
  if s.flag .idPosition .RECORD_VALID && s.myRank.isSome then s.setFlag .startStat .FOUND_ARMED true
  else s.setFlag .startStat .ORDER_ERR true

def execStartFound (s : State) : Out := .next s.armFound

/-! ### The end of a step (R436, R461) -/

/-- The running step ends with its outcome. -/
def State.finishStep (s : State) (k : Nat) : State :=
  let out := s.start.outcome
  let s := s.endStep k out
  if out ≠ 0 then s else
  let s := { s with start := { s.start with passed := some k } }
  if k = 6 then s.katPassed else s

/-- START_STEP_DONE: the running step of 0 to 7 has done its work; step 7 has not while an enabled port trains. -/
def execStartStepDone (s : State) : Out :=
  let k := s.fld .startStat .STEP
  .next <|
    if s.fld .startStat .STATE ≠ 1 || 7 < k || (k = 7 && s.portsTrain) then s else s.finishStep k

/-- The limit of a step from 3 onwards, in ticks of 10 ns (Table 14-2). -/
def State.stepLimit (s : State) : Nat → Nat
  | 3 => 6000000000
  | 4 => 4000000000
  | 5 => 200000000
  | 6 => 4500000000
  | _ => 3 * (2400000 + 100 * s.periodUs) + 10000000

/-- START_STEP_TIMEOUT: a step from 3 onwards reaches its limit; a step that passes in the same cycle passes. -/
def execStartStepTimeout (s : State) : Out :=
  let k := s.fld .startStat .STEP
  .next <|
    if s.fld .startStat .STATE ≠ 1 || 7 < k || k < 3 || s.time < s.start.since + s.stepLimit k then s
    else if k = 7 && !s.portsTrain then s.finishStep k
    else s.endStep k 5

/-- A write of START.CMD with a STEP that names none of the steps 1 to 7. -/
def State.stepRefused (s : State) : State := s.setFlag .startStat .ORDER_ERR true

end Sys2Proof.Machine
end

