-- ==== Sys2Proof/Machine/Power.lean ====
section
/-!
DEFINITION. The power controller: the estimate of a tick, the allowed power, the ladder index, the ramp reference, ballast, the
counters of contexts, droop, and junction temperature (R24, R195, R196, R506 to R535 of spec/).
-/
namespace Sys2Proof.Machine

/-! ### The estimate (R506) -/

/-- E of one event of weight w (2⁻⁸ pJ in 2 µs), in units of power. -/
def eventUnits : Nat := 720720 * 500

/-- Power of n events of counter i. -/
def State.eventPower (s : State) (i n : Nat) : Nat := s.fld (.pwrW i) .WEIGHT * n * eventUnits

/-- The static power at H, interpolated: H in 1/8 °C. -/
def State.staticPower (s : State) : Nat :=
  let h := s.fld .pwrTemp .H
  let w := fun j => s.fld (.pwrStatic j) .WATTS
  if h ≤ 240 then w 0 * wattUnits
  else if 840 ≤ h then w 15 * wattUnits
  else
    let j := (h - 240) / 40
    let f := (h - 240) % 40
    (w j * (40 - f) + w (j + 1) * f) * (wattUnits / 40)

def noMacs : ClassMacs := { fp32 := 0, fp16 := 0, fp8 := 0, qb4 := 0 }

/-- Measured power of the arrays of class k. -/
def State.classPower (s : State) (n : TickCounts) (k : Nat) : Nat :=
  let m := n.classes.getD k noMacs
  s.eventPower 0 m.fp32 + s.eventPower 1 m.fp16 + s.eventPower 2 m.fp8 + s.eventPower 3 m.qb4

/-- Power of the counters i in a list; `rest` holds counters 5 to 31. -/
def State.countersPower (s : State) (n : TickCounts) (l : List Nat) : Nat :=
  (l.map fun i => s.eventPower i (n.rest.getD (i - 5) 0)).sum

/-- Counters gated by the engine gate, and those of P_fixed (Table 16-2, R514). -/
def gatedCounters : List Nat := (List.range 12).map (· + 5)
def fixedCounters : List Nat := [17, 18, 19, 20]
def spareCounters : List Nat := (List.range 11).map (· + 21)

/-- P of a tick, saturating at 65,535 W. -/
def State.estimate (s : State) (n : TickCounts) : Nat :=
  min (((List.range 4).map (s.classPower n)).sum + s.eventPower 4 n.ballast.sum + s.countersPower n gatedCounters
    + s.countersPower n fixedCounters + s.countersPower n spareCounters + s.staticPower) (65535 * wattUnits)

/-! ### Caps (R509, R532) -/

/-- The effective caps, in hundredths of a watt. -/
def State.peakCap (s : State) : Nat :=
  let p := min (100 * s.limits.2.2) (100 * s.fld .pwrCap .PEAK_W)
  let m := s.fld .pwrMgmt .PEAK_W
  let p := if m = 0 then p else min p (100 * m)
  if s.power.tcap = 0 then p else min p s.power.tcap
def State.sustCap (s : State) : Nat :=
  let p := min (100 * s.limits.2.1) (100 * s.fld .pwrCap .SUST_W)
  let m := s.fld .pwrMgmt .SUST_W
  let p := if m = 0 then p else min p (100 * m)
  min p s.peakCap

/-- Units of power in hundredths of a watt. -/
def centi (n : Nat) : Nat := n * (wattUnits / 100)

/-! ### Allowed power (R510, R511) -/

/-- Each entry at most b. -/
def capAll (b : Nat) (l : List Nat) : List Nat := l.map (min b)

/-- The falls of a decision: the past reckoned at no more than the new bounds of the caps. -/
def PowerSt.fall (p : PowerSt) (peak sust : Nat) : PowerSt :=
  let p := if peak < p.peak then { p with peakPast := capAll (centi (peak - 800)) p.peakPast } else p
  let b := centi (sust - 200)
  let p := if sust < p.sust then { p with sustPast := capAll (b * 500) p.sustPast, sustBin := min (b * p.binTicks) p.sustBin } else p
  { p with peak := peak, sust := sust }

/-- A tick put into the histories; a bin of 500 ticks closes. -/
def PowerSt.record (p : PowerSt) (e d : Nat) : PowerSt :=
  let p := { p with ticks := (e :: p.ticks).take 500, peakPast := (e :: p.peakPast).take 500, rampPast := (e :: p.rampPast).take 500,
                    demand := (d :: p.demand).take 500, energy := p.energy + e, bin := p.bin + e, sustBin := p.sustBin + e,
                    binTicks := p.binTicks + 1 }
  if p.binTicks < 500 then p else
  { p with bins := (p.bin :: p.bins).take 999, sustPast := (p.sustBin :: p.sustPast).take 999, bin := 0, sustBin := 0, binTicks := 0 }

/-- The terms A_peak, A_sust, A_ramp and A_sup. A_sust is rounded down. -/
def PowerSt.terms (p : PowerSt) : Int × Int × Int × Int :=
  let past := fun (l : List Nat) => ((l.take 499).sum : Int)
  let w := (wattUnits : Int)
  (500 * ((centi p.peak : Int) - 8 * w) - past p.peakPast,
   (500000 * ((centi p.sust : Int) - 2 * w) - (p.sustPast.sum : Int) - (p.sustBin : Int)) / ((500 - p.binTicks : Nat) : Int),
   500 * ((p.ref : Int) + 64 * w) - past p.rampPast,
   65535 * w)

def leastTerm (t : Int × Int × Int × Int) : Int := min (min t.1 t.2.1) (min t.2.2.1 t.2.2.2)

/-! ### Throttling (R513, R514, R519) -/

/-- L of class k, and G, at ladder index q. -/
def classLevel (q k : Nat) : Nat := min (q - 15 * k) 15
def gateLevel (q : Nat) : Nat := min (q - 60) 15

/-- Power with the throttle taken away: measured × 16 ÷ (16 − level). -/
def unthrottled (p level : Nat) : Nat := p * 16 / (16 - level)

/-- Predicted power at q, from the static, fixed, class and engine powers. -/
def predicted (static fixed : Nat) (u : List Nat) (ug q : Nat) : Nat :=
  static + fixed + (u.zipIdx.map fun x => x.1 * (16 - classLevel q x.2) / 16).sum + ug * (16 - gateLevel q) / 16

/-- Is logical array a of tile t at ballast's disposal: IDLE, and no work that ended left others in its queue (R196, R197)? -/
def State.ballastIdle (s : State) (t a : Nat) : Bool :=
  let k := s.tambOf (16 * t + a)
  s.fld (.tambArray t a) .STATE = 0 && k.ctx.isNone && !k.rest

/-- Is physical array p of tile t the spare, at ballast's disposal? -/
def State.spareArray (s : State) (t p : Nat) : Bool :=
  !s.isListed 1 t p && !s.deadSpares.contains (t, p) && (List.range 16).all fun a => s.physOf 1 t a ≠ p

/-- Arrays of a tile at ballast's disposal: mapped and IDLE, or the spare (R196). -/
def State.ballastArrays (s : State) (t : Nat) : Nat :=
  let idle := (List.range 16).filter (s.ballastIdle t)
  let spare := (List.range 17).any (s.spareArray t)
  if s.start.passed.any (6 ≤ ·) then idle.length + if spare then 1 else 0 else 0

/-- Ballast power of n arrays at b sixteenths. -/
def State.ballastPower (s : State) (n b : Nat) : Nat := s.eventPower 4 (1024 * 2 * s.limits.1) * n * b / 16

/-- The levels ballast can run at, and the code of one. -/
def ballastSteps : List Nat := List.range 15 ++ [16]
def ballastCode (b : Nat) : Nat := min b 15

/-! ### A decision's parts -/

/-- Status bits set; vector 6 when one of bits 2 to 4 and 6 to 9 rises (R527). -/
def State.powerStatus (s : State) (l : List (FName × Bool)) : State :=
  let rises := l.any fun x => x.2 && !s.flag .pwrStatus x.1
  let s := l.foldl (fun s x => if x.2 then s.setFlag .pwrStatus x.1 true else s) s
  if rises then s.pfEvent 6 else s

/-- CLASS_c of a context. -/
def State.powerClass (s : State) (c : Nat) : Nat := bits (s.reg .pwrClass) (4 * c + 1) (4 * c)

/-- Has context c work queued or running on a Nib core or an engine (R516)? -/
def State.hasWork (s : State) (c : Nat) : Bool :=
  (s.nib.any fun e => s.coreCtx e.1 = some c && (e.2.run.isSome || e.2.imageQ ≠ [] || e.2.postQ ≠ [])) ||
  (s.feed.any fun e => (e.2.queue.any fun w => w.ctx = c) || e.2.cur.any fun u => u.work.ctx = c) ||
  (s.tamb.any fun e => (e.2.queue.any fun w => w.ctx = c) || e.2.ctx = some c) ||
  (s.filet.any fun e => (e.2.queue.any fun w => w.ctx = c) || (e.2.released.any fun h => h.work.ctx = c) ||
    (e.2.held.any fun h => h.work.ctx = c) || e.2.busy.map Prod.fst = some c) ||
  (s.folio.any fun e => (e.2.queue.any fun w => w.ctx = c) || e.2.busy.map Prod.fst = some c)

/-- PWRW.TICKS of one context for a tick at the levels of `q`, and its vector 9. -/
def State.countThrottle (s : State) (q c : Nat) : State :=
  let cls := classLevel q (s.powerClass c) ≠ 0
  let gate := gateLevel q ≠ 0 && s.hasWork c
  let s := if cls then s.addFld (.pwrwTicks c) .CLASS 1 else s
  let s := if gate then s.addFld (.pwrwTicks c) .GATE 1 else s
  if cls || gate then s.vfEvent c 9 else s

/-- What runs under the engine gate completes as DELAYED (R516). -/
def State.markGated (s : State) : State :=
  let late := fun (w : Work) => { w with delayed := true }
  { s with
    nib := smMap (fun _ => NibCore.off) (fun _ k => { k with run := k.run.map fun r => { r with delayed := true } }) s.nib
    feed := smMap (fun _ => FeedCh.idle) (fun _ k => { k with cur := k.cur.map fun u => { u with work := late u.work } }) s.feed
    filet := smMap (fun _ => FiletUnit.idle) (fun _ k => { k with cur := k.cur.map fun u => { u with work := late u.work } }) s.filet
    folio := smMap (fun _ => FolioUnit.idle) (fun _ k => { k with cur := k.cur.map fun u => { u with work := late u.work } }) s.folio }

/-- RATE: 25 to 600 W/s (R526); HOLDOFF; FLOOR_W, 0 on a failed package (R518, R529). -/
def State.rampRate (s : State) : Nat := max 25 (min 600 (s.fld .pwrRamp .RATE_WPS))
def State.holdoff (s : State) : Bool := s.flag .pwrRamp .HOLDOFF || s.flag .pwrMgmt .HOLDOFF
def State.floorW (s : State) : Nat := if s.failed then 0 else s.fld .pwrRamp .FLOOR_W

/-- Rref of R518 after a decision, and whether a cap forced it down. -/
def State.nextRef (s : State) (estimate : Nat) : Nat × Bool :=
  let p := s.power
  if p.refDue then (estimate, false) else
  let t := min (max (p.demand.sum / 500) (s.floorW * wattUnits)) (centi p.sust)
  let step := s.rampRate * (wattUnits / 500000)
  if p.ref < t then (min t (p.ref + step), false)
  else if s.holdoff then (t, false)
  else if centi p.peak + 64 * wattUnits < p.ref then (centi p.peak, true)
  else (max t (p.ref - step), false)

/-- Rref set; a fall bounds what A_ramp reckons of the past (R511). -/
def PowerSt.setRef (p : PowerSt) (r : Nat) : PowerSt :=
  { p with ref := r, refDue := false, rampPast := if r < p.ref then capAll (r + 64 * wattUnits) p.rampPast else p.rampPast }

/-- The ballast level of R519 and whether it falls short: the powers are those of q = 0. -/
def State.ballastLevel (s : State) (base : Nat) (allow : Int) : Nat × Bool :=
  let n := ((List.range 32).map s.ballastArrays).sum
  let fits := ballastSteps.filter fun b => ((base + s.ballastPower n b : Nat) : Int) ≤ allow
  match fits.find? fun b => s.power.ref ≤ base + s.ballastPower n b + 64 * wattUnits with
  | some b => (b, false)
  | none => (fits.getLast?.getD 0, true)

/-- Powers in watts, as PWR.EST shows them: rounded down. -/
def watts (p : Nat) : Nat := p / wattUnits

/-- PWR.EST and PWR.ENERGY after a tick. A mean takes ticks before package reset as 0. -/
def State.showEstimate (s : State) (e : Nat) : State :=
  let p := s.power
  let s := s.setFlds .pwrEst [(.TICK_W, watts e), (.MEAN_1MS_W, watts (p.ticks.sum / 500)),
    (.MEAN_1S_W, watts ((p.bins.sum + p.bin) / (500 * 999 + p.binTicks))), (.REF_W, watts p.ref)]
  s.setFld .pwrEnergy .MJ (p.energy / (wattUnits * 500))

/-- TAMB.BALLAST.LEVEL of every tile. -/
def State.setBallast (s : State) (b : Nat) : State :=
  (List.range 32).foldl (fun s t => s.setFld (.tambBallast t) .LEVEL (ballastCode b)) s

/-- A term that is the least one of A, at a ladder index above 0. -/
def boundBy (q : Nat) (a t : Int) : Bool := q ≠ 0 && a = t

/-- POWER_TICK: the tick that ends had the activity n. -/
def execPowerTick (n : TickCounts) (s : State) : Out :=
  let q := s.fld .pwrState .Q
  let static := s.staticPower
  let fixed := s.countersPower n fixedCounters
  let u := (List.range 4).map fun k => unthrottled (s.classPower n k) (classLevel q k)
  let ug := unthrottled (s.countersPower n gatedCounters) (gateLevel q)
  let e := s.estimate n
  -- the tick just ended: counters, histories, falls of the caps
  let s := (List.range 32).foldl (fun s t => s.addFld (.tambBallastMacs t) .COUNT (n.ballast.getD t 0)) s
  let s := (List.range 16).foldl (fun s c => s.countThrottle q c) s
  let s := if gateLevel q ≠ 0 then s.markGated else s
  let mgmtFell := (s.fld .pwrMgmt .PEAK_W ≠ 0 && (s.power.mgmt.1 = 0 || s.fld .pwrMgmt .PEAK_W < s.power.mgmt.1)) ||
    (s.fld .pwrMgmt .SUST_W ≠ 0 && (s.power.mgmt.2 = 0 || s.fld .pwrMgmt .SUST_W < s.power.mgmt.2))
  let tcapFell := s.power.tcap ≠ 0 && (s.power.tcapWas = 0 || s.power.tcap < s.power.tcapWas)
  let p := ((s.power.record e (static + fixed + u.sum + ug)).fall s.peakCap s.sustCap)
  let p := { p with mgmt := (s.fld .pwrMgmt .PEAK_W, s.fld .pwrMgmt .SUST_W), tcapWas := p.tcap }
  let s := { s with power := p }
  -- the allowed power and the ladder index
  let t := p.terms
  let a := leastTerm t
  let fits := (List.range 76).find? fun q => ((predicted static fixed u ug q : Nat) : Int) ≤ a
  let q' := match fits with
    | none => 75
    | some m => if q < m then m else if m < q then q - 1 else q
  -- the ramp reference
  let r := s.nextRef e
  let s := { s with power := s.power.setRef r.1 }
  -- ballast
  let b := if q' = 0 && !s.holdoff then s.ballastLevel (predicted static fixed u ug 0) a else (0, false)
  let s := s.setBallast b.1
  let s := s.setFlds .pwrState [(.Q, q'), (.BALLAST, ballastCode b.1), (.GATE, gateLevel q'),
    (.ALLOW_W, min (a / (wattUnits : Int)).toNat 65535),
    (.LEVELS, classLevel q' 0 ||| classLevel q' 1 <<< 4 ||| classLevel q' 2 <<< 8 ||| classLevel q' 3 <<< 12)]
  let s := if gateLevel q' ≠ 0 then s.markGated else s
  let mp := 100 * s.fld .pwrMgmt .PEAK_W
  let ms := 100 * s.fld .pwrMgmt .SUST_W
  let byMgmt := (boundBy q' a t.1 && mp ≠ 0 && mp = p.peak) || (boundBy q' a t.2.1 && ((ms ≠ 0 && ms = p.sust) || (mp ≠ 0 && mp = p.sust)))
  let s := s.powerStatus [(.CAP_PEAK, boundBy q' a t.1), (.CAP_SUST, boundBy q' a t.2.1), (.CAP_MGMT, byMgmt || (mgmtFell && tcapFell)),
    (.RAMP, boundBy q' a t.2.2.1), (.CAP_UNMET, fits.isNone), (.FLOOR_SHORT, b.2), (.RAMP_BROKEN, r.2)]
  .next (s.showEstimate e)

/-! ### The driver's writes (R507, R526) -/

/-- A write of PWR.CTRL: DROOP_MV of the write first, then LOCK (R507). -/
def State.ctrlWrite (s : State) (data : W64) : State := s.writeCodes .pwrCtrl data (maskOf 31 0)

/-- POWER_LOCK: a write of PWR.CTRL that sets LOCK. -/
def execPowerLock (droop : Byte) (s : State) : Out := .next (s.ctrlWrite (BitVec.ofNat 64 (2 ^ 31 ||| droop.toNat <<< 8)))

/-- CAP_WRITE: both caps lie in 500 W to their run limits, or nothing is written. -/
def State.capWrite (s : State) (peak sust : Nat) : State :=
  let l := s.limits
  if 500 ≤ peak && peak ≤ l.2.2 && 500 ≤ sust && sust ≤ l.2.1 then s.setFlds .pwrCap [(.PEAK_W, peak), (.SUST_W, sust)]
  else s.setFlag .pwrStatus .CFG_ERR true

def execCapWrite (peak sust : W16) (s : State) : Out := .next (s.capWrite peak.toNat sust.toNat)

/-! ### Droop (R522) -/

/-- DROOP_DETECT: the tile's clock is stretched, and the event counted. -/
def execDroopDetect (t : TileId) (s : State) : Out :=
  .next <|
    if s.power.stretched.contains t.val then s else
    let s := s.satFld (.pwrDroop t) .EVENTS 1
    { s with power := { s.power with stretched := s.power.stretched ++ [t.val] } }

/-- DROOP_END: the stretch ends after some cycles, 32 at least; each lasted two periods. -/
def execDroopEnd (t : TileId) (cycles : W32) (s : State) : Out :=
  let n := max 32 cycles.toNat
  .next <|
    if !s.power.stretched.contains t.val then s else
    let s := s.satFld (.pwrDroop t) .STRETCHED n
    let lost := smGet (fun _ => 0) s.power.lost t.val
    { s with power := { s.power with stretched := s.power.stretched.filter (· ≠ t.val), lost := smSet (fun _ => 0) s.power.lost t.val (lost + n) } }

/-! ### Junction temperature (R523 to R525, R536) -/

/-- The hottest point and its number; the lowest of equals. -/
def hottest (points : List (BitVec 16)) : Nat × Nat :=
  points.zipIdx.foldl (fun best x => if best.1 < x.1.toNat then (x.1.toNat, x.2) else best) ((points.getD 0 0).toNat, 0)

/-- The shutdown of R525: the supply of tiles, Quill and link dies is removed, and what they held is gone. -/
def State.shutdown (s : State) : State :=
  if s.flag .pwrStatus .SHUTDOWN then s else
  let s := ((s.setFlag .pwrStatus .SHUTDOWN true).pfEvent 7).packageFailure 4 0 0
  { s with mem := [], poison := [], wellBad := [], zmap := [], dir := [] }

/-- JUNCTION_SAMPLE: the 147 points, in 1/8 °C; other lists are no sample. -/
def execJunctionSample (points : List W16) (s : State) : Out :=
  .next <|
    if points.length ≠ 147 then s else
    let h := hottest points
    let hot := if 920 ≤ h.1 then s.power.hot + 1 else 0
    let s := s.setFlds .pwrTemp [(.H, h.1), (.SENSOR, h.2)]
    let s := { s with power := { s.power with points := points, hot := hot, cool := s.power.cool && h.1 < 776 } }
    if 2 ≤ hot then s.shutdown else s

/-- TCAP set, in hundredths of a watt. -/
def State.setTcap (s : State) (v : Nat) : State :=
  let s := s.setFld .pwrTemp .TCAP_W (v / 100)
  { s with power := { s.power with tcap := v } }

/-- THERMAL_CAP_UPDATE: at every 1 ms of package time. -/
def execThermalCapUpdate (s : State) : Out :=
  let h := s.fld .pwrTemp .H
  let peak := s.limits.2.2
  let c := s.power.tcap
  let t :=
    if 800 ≤ h then
      let s' := s.setTcap (max 50000 ((if c = 0 then 100 * peak else c) - 2 * peak))
      if c = 0 then (s'.setFlag .pwrStatus .THERMAL true).pfEvent 7 else s'
    else if s.power.cool && c ≠ 0 then
      s.setTcap (if 100 * peak ≤ c + peak then 0 else c + peak)
    else s
  .next { t with power := { t.power with cool := h < 776 } }

end Sys2Proof.Machine
end

