-- ==== Sys2Proof/Machine/HostIf.lean ====
section
/-!
DEFINITION. The host interface: the BAR2 windows, unsupported requests, the knot doorbell, MSI-X, the vector map, and the resets,
link and power states of PCIe (R403, R404, R408 to R410, R414 to R417, R420, R423 to R428, R430, R431, R434 of spec/).
-/
namespace Sys2Proof.Machine

/-! ### The apertures of the VFs (R409, R428) -/

/-- VF_APERTURE_ACCESS: a request to BAR2 of the VF of context c. -/
def execVfApertureAccess (c : Ctx) (off : W32) (op : BarOp) (s : State) : Out :=
  let f := c.val + 1
  let va := s.fld (.hostwHwin c) .BASE * 2 ^ 32 + off.toNat
  .next <|
    if !(s.fnOf f).enabled || !s.fnAwake f then s.unsupported f op
    else if 2 ^ 32 < off.toNat + barLen op || barLen op = 0 then s
    else if !s.flag (.hostwHwin c) .ENABLE then
      let s := s.setFlds .memFault [(.CTX, c), (.SOURCE, 6), (.TILE, 0), (.CAUSE, 6), (.VA, va)]
      (s.hwinFault c 6 va (barWrites op)).barFails f op
    else State.apertureRun c op va (linePieces va (barLen op)) { data := [], clean := true } s

/-! ### The physical window (R410) -/

/-- PF_WINDOW_ACCESS: a request to BAR2 of the PF. -/
def execPfWindowAccess (off : W32) (op : BarOp) (s : State) : Out :=
  let pa := s.fld .ioPwin .BASE * 2 ^ 32 + off.toNat
  .next <|
    if !s.fnAwake 0 then s.unsupported 0 op
    else if 2 ^ 32 < off.toNat + barLen op || barLen op = 0 then s
    else if !s.flag .ioPwin .ENABLE || !(linePieces pa (barLen op)).all fun p => isMapped p.1 then
      (s.setFlag .ioStatus .HOST_ERR true).barFails 0 op
    else
      let r := (linePieces pa (barLen op)).foldl (fun (acc : State × BarRun) p =>
        acc.1.barPiece none false p.1 p.2 (barPart op (p.1 - pa) p.2) acc.2) (s, { data := [], clean := true })
      r.1.barDone 0 op r.2

/-- UNSUPPORTED_REQUEST: a request that uses what Table 13-2 does not support. -/
def execUnsupportedRequest (f : FnId) (posted : Bool) (s : State) : Out :=
  .next (if posted then s.aerLog f false else s.send (.pcieCpl f 1 false []))

/-! ### The knot doorbell (R414, R415) -/

/-- A knot doorbell; refused on a knot the context does not own, and during the context's reset (R470). -/
def State.knotDoorbell (s : State) (c knot value : Nat) : State :=
  if s.knotOwned c knot && s.ctxLive c then s.arrive c knot value
  else (s.setFlag (.hostwStat c) .KDB_REFUSED true).vfEvent c 7

/-- KNOT_DOORBELL: a write of HOSTW.KNOT_DB, delivered. -/
def execKnotDoorbell (c : Ctx) (knot : BitVec 12) (value : W32) (s : State) : Out :=
  .next (s.knotDoorbell c knot.toNat value.toNat)

/-! ### MSI-X (R416, R417, R425 to R427) -/

/-- One vector armed; a waiting event is taken at once. -/
def State.armVector (s : State) (f v : Nat) : State :=
  if bitAt (s.reg (pendReg f v)) (v % 64) then
    ((s.setRegBit (pendReg f v) (v % 64) false).setRegBit (armedReg f v) (v % 64) false).message f v
  else s.setRegBit (armedReg f v) (v % 64) true

/-- Words of ARMED that a function has. -/
def armWords (f : Nat) : Nat := if f = 0 then 4 else 2

/-- A write of ones to ARMED: those of a disabled VF stay 0. -/
def State.arm (s : State) (f word : Nat) (mask : W64) : State :=
  if armWords f ≤ word || (f ≠ 0 && !(s.fnOf f).enabled) then s else
  (List.range 64).foldl (fun s i => if bitAt mask i then s.armVector f (64 * word + i) else s) s

def execVectorArm (f : FnId) (word : Fin 4) (mask : W64) (s : State) : Out := .next (s.arm f word mask)

/-- Vectors of a function. -/
def vectorsOf (f : Nat) : Nat := if f = 0 then 256 else 128

/-- The messages that a function holds in its PBA and may send now, sent. -/
def State.sendHeld (s : State) (f : Nat) : State :=
  (List.range (vectorsOf f)).foldl (fun s v =>
    if bitAt (s.reg (pbaReg f v)) (v % 64) && !s.msixHeld f v && (s.fnOf f).msixEnable then
      (s.setRegBit (pbaReg f v) (v % 64) false).message f v
    else s) s

/-- MSIX_UNMASK: a write of a vector's Mask, or of MSI-X Enable and Function Mask; what is unmasked is sent. -/
def State.msixWrite (s : State) (f : Nat) : MsixOp → State
  | .vector v mask =>
    if vectorsOf f ≤ v.toNat then s else (s.setFlag (msixData f v.toNat) .MASK mask).sendHeld f
  | .control enable mask => (s.setFn f { s.fnOf f with msixEnable := enable, funcMask := mask }).sendHeld f

def execMsixUnmask (f : FnId) (op : MsixOp) (s : State) : Out :=
  .next (if f.val ≠ 0 && !(s.fnOf f).enabled then s else s.msixWrite f op)

/-! ### The vector map (R420) -/

/-- Does an entry keep R420? -/
def vmapOk (e : W64) : Bool :=
  match bits e 62 61 with
  | 0 => true
  | 1 =>
    if bitAt e 55 then bits e 60 56 = 0 && bits e 54 52 ≤ 3 && bits e 31 16 = 0
    else bits e 54 52 = 0 && bits e 31 16 = 0
  | _ => false

/-- A write of VMAP[i].MAP: reserved bits read zero; an entry that breaks R420 is stored with VALID = 0. -/
def State.vmapWrite (s : State) (c i : Nat) (e : W64) : State :=
  let e := e &&& ~~~ maskOf 51 32
  if vmapOk e then s.setReg (.vmapMap c i) e
  else (s.setReg (.vmapMap c i) (setBits e 63 63 0)).setFlag (.vecwStat c) .MAP_ERR true

def execVmapWrite (c : Ctx) (i : Fin 112) (e : W64) (s : State) : Out := .next (s.vmapWrite c i e)

/-! ### Resets of PCIe (R423, R424, R434) -/

/-- Registers back at their reset values. -/
def State.resetRegs (s : State) (l : List Reg) : State := l.foldl (fun s r => s.setReg r r.resetWord) s

/-- The MSI-X table and PBA of a function. -/
def msixRegs (f : Nat) : List Reg :=
  ((List.range (vectorsOf f)).flatMap fun v => [msixAddr f v, msixData f v]) ++
    (List.range (vectorsOf f / 64)).map fun w => pbaReg f (64 * w)

/-- HOSTW, VMAP and VECW of a window. -/
def windowRegs (c : Nat) : List Reg :=
  [.hostwHwin c, .hostwStat c, .hostwHwinFault c, .vecwArmed c 0, .vecwArmed c 1, .vecwPend c 0, .vecwPend c 1, .vecwStat c] ++
    (List.range 112).flatMap fun i => [.vmapMap c i, .vmapHit c i]

/-- VF_FLR: the VF's face returns to reset, then its context is reset; what the reset raises waits in PEND. -/
def execVfFlr (c : Ctx) (s : State) : Out :=
  let f := c.val + 1
  .next <|
    if !(s.fnOf f).enabled then s else
    let s := s.resetRegs (msixRegs f ++ windowRegs c)
    let s := s.setFn f { FnState.fresh with enabled := true }
    s.faultNoUnit c 0x12 0

/-- PF_FLR: a package reset. -/
def execPfFlr (s : State) : Out := .next s.packageReset

/-- The reads of the package outstanding for some contexts, ended with ACCESS. -/
def State.endReads (s : State) (p : Nat → Bool) : State :=
  (s.hostReads.filter fun r => p r.ctx).foldl (fun s r => s.readEnds r .ur []) s

/-- HOT_RESET: a hot reset, or the loss of the link. -/
def execHotReset (s : State) : Out :=
  let s := (List.range 17).foldl (fun s f => (s.resetRegs (msixRegs f)).setFn f FnState.fresh) s
  let s := s.setFlds .ioPcieStat [(.LINK_UP, 0), (.LANES, 0), (.RATE, 0), (.DEGRADED, 0)]
  .next (s.endReads fun _ => true)

/-! ### Link and power states (R404, R425, R427) -/

/-- Widths a link trains at (Table 13-2). -/
def linkWidths : List Nat := [1, 2, 4, 8, 16]

/-- PCIE_LINK_UP: the link reaches L0 at a rate (code less 1) and a width (less 1); never with a partner without FLIT mode. -/
def execPcieLinkUp (rate : Fin 6) (lanes : Fin 16) (flit : Bool) (s : State) : Out :=
  let w := lanes.val + 1
  let deg := w < 16 || rate.val < 5
  .next <|
    if !flit || !linkWidths.contains w then s else
    let s := s.setFlds .ioPcieStat [(.LINK_UP, 1), (.LANES, w), (.RATE, rate.val + 1), (.DEGRADED, if deg then 1 else 0)]
    if deg then s.pfEvent 13 else s

/-- POWER_STATE_CHANGE: a function enters D3hot, or returns to D0 and sends what it held; the PF takes every VF with it. -/
def execPowerStateChange (f : FnId) (d3 : Bool) (s : State) : Out :=
  let s := s.setFn f { s.fnOf f with d3 := d3 }
  .next <|
    if d3 then s.endReads fun c => f.val = 0 || f.val = c + 1
    else if f.val = 0 then (List.range 17).foldl State.sendHeld s
    else s.sendHeld f

/-- VF_ENABLE: VF Enable of the SR-IOV capability. VFs that go lose their configuration, their MSI-X state and what was armed. -/
def execVfEnable (on : Bool) (s : State) : Out :=
  .next <|
    (List.range 16).foldl (fun s c =>
      let k := s.fnOf (c + 1)
      if k.enabled = on then s
      else if on then s.setFn (c + 1) { k with enabled := true }
      else (s.resetRegs (msixRegs (c + 1) ++ [.vecwArmed c 0, .vecwArmed c 1])).setFn (c + 1) FnState.fresh) s

end Sys2Proof.Machine
end

