-- ==== Sys2Proof/Machine/Steward.lean ====
section
/-!
DEFINITION. The Steward as an MCTP endpoint: the messages of Table 17-4 that it takes, and the MCTP control messages (R526, R532,
R539, R541, R544 of spec/); and the package without supply (R563, R591).
-/
namespace Sys2Proof.Machine

/-- Does the Steward answer: is the package powered and out of reset (R538)? -/
def State.stewardUp (s : State) : Bool := !s.rack.unpowered && !s.heldInReset

/-- Is sequence number a newer than b, in serial arithmetic modulo 2¹⁶ (R541)? -/
def serialNewer (a b : Nat) : Bool :=
  let d := (a + 2 ^ 16 - b) % 2 ^ 16
  0 < d && d < 2 ^ 15

/-- A management cap as it is written: 0 is none, and one below 500 W is 500 W (R526). -/
def mgmtCap (w : Nat) : Nat := if w = 0 then 0 else max w 500

/-- SET_MGMT: applied when its SEQ is newer; AUTONOMOUS and SEQ are kept in STW.SB either way; the answer is the SEQ in force. -/
def execSetMgmt (peak sust : W16) (holdoff autonomous : Bool) (seq : W16) (s : State) : Out :=
  .next <|
    if !s.stewardUp then s else
    let s := s.setFlds .stwSb [(.AUTONOMOUS, if autonomous then 1 else 0), (.LAST_SEQ, seq.toNat)]
    let s := if serialNewer seq.toNat (s.fld .pwrMgmt .SEQ) then
        s.setFlds .pwrMgmt [(.HOLDOFF, if holdoff then 1 else 0), (.PEAK_W, mgmtCap peak.toNat), (.SUST_W, mgmtCap sust.toNat),
          (.SEQ, seq.toNat)]
      else s
    s.send (.stewardReply 0x01 [s.fld .pwrMgmt .SEQ])

/-- GET_SENSORS: the 147 points of the latest sample, and PWR.EST; the TMC of the package's tray keeps them for the slot (Table
17-5). -/
def execGetSensors (s : State) : Out :=
  .next <|
    if !s.stewardUp then s else
    let l := ((List.range 147).map fun i => (s.power.points.getD i 0).toNat) ++ [(s.reg .pwrEst).toNat]
    let k := s.tmc s.rack.place.1
    let s := if k.powered && !k.failed then s.setTmc s.rack.place.1 { k with points := smSet (fun _ => []) k.points s.rack.place.2 l } else s
    s.send (.stewardReply 0x02 l)

/-- FW_CHUNK: a part of a recovery image; `good` says whether the whole verifies, and only then is any of it kept (R544). -/
def execFwChunk (part : List Byte) (last good : Bool) (s : State) : Out :=
  .next <|
    if !s.stewardUp then s else
    let img := s.stw.image ++ part
    if !last then { s with stw := { s.stw with image := img } }
    else
      let s := { s with stw := { s.stw with image := [] } }
      if good then { s with perm := { s.perm with firmware := some img } } else s

/-- TO_DRIVER: up to 240 bytes into STW.MBOX; BUSY while a message waits. -/
def execToDriver (data : List Byte) (s : State) : Out :=
  .next <|
    if !s.stewardUp || 240 < data.length then s
    else if s.flag .stwMboxStat .FULL then s.send (.stewardReply 0x07 [0x14])
    else
      let words := (data.length + 7) / 8
      let s := (List.range words).foldl (fun s i =>
        let d := (data.drop (8 * i)).take 8
        s.setReg (.stwMbox i) (BitVec.ofNat 64 (ofBytes d + (s.reg (.stwMbox i)).toNat / 2 ^ (8 * d.length) * 2 ^ (8 * d.length)))) s
      let s := s.setFlds .stwMboxStat [(.FULL, 1), (.LEN, data.length)]
      (s.pfEvent 0).send (.stewardReply 0x07 [0])

/-! ### MCTP control messages (R539) -/

/-- SET_ENDPOINT_ID. -/
def execSetEndpointId (eid : Byte) (s : State) : Out :=
  .next (if !s.stewardUp then s else { s with stw := { s.stw with eid := eid } }.send (.mctpReply 0x01 [eid.toNat]))

/-- GET_ENDPOINT_ID. -/
def execGetEndpointId (s : State) : Out :=
  .next (if !s.stewardUp then s else s.send (.mctpReply 0x02 [s.stw.eid.toNat]))

/-- GET_MCTP_VERSION_SUPPORT: the spec does not give the versions. -/
def execGetMctpVersionSupport (s : State) : Out :=
  .next <|
    if !s.stewardUp then s else
    let f := s.freeNat 32
    f.2.send (.mctpReply 0x04 [f.1])

/-- GET_MESSAGE_TYPE_SUPPORT: vendor defined, IANA. -/
def execGetMessageTypeSupport (s : State) : Out :=
  .next (if !s.stewardUp then s else s.send (.mctpReply 0x05 [0x7F]))

/-! ### Supply (R563, R591) -/

/-- The package loses its supply: what it held is gone, and its transmitters are idle. -/
def State.losePower (s : State) : State :=
  let s := s.packageReset
  { s with rack := { s.rack with unpowered := true } }

/-- PACKAGE_POWER_LOSS. -/
def execPackagePowerLoss (s : State) : Out := .next s.losePower

end Sys2Proof.Machine
end

