-- ==== Sys2Proof/Machine/Clock.lean ====
section
/-!
DEFINITION. The block's clocks over one tick of 10 ns: package time, tile cycles, the phase of the stroke clock with its slew (R44,
R440, Table 3-6, Table 2-13 of spec/), and the clock the rack's parts count their leases by. Nothing else happens at a tick: every
event is a command (notes/assumptions/3).
-/
namespace Sys2Proof.Machine

/-- Units of 2⁻⁸ ns in a tick. -/
def tickPhase : Nat := 2560

/-- The slew of this tick: an equal share of what is left of it (R44). -/
def Stroke.share (k : Stroke) : Int := if k.slewTicks = 0 then 0 else k.slew.tdiv k.slewTicks

/-- The stroke with one share made. -/
def Stroke.slewed (k : Stroke) : Stroke := { k with slew := k.slew - k.share, slewTicks := k.slewTicks - 1 }

/-- The rate trim over this tick, in 10⁻⁹ of 2⁻⁸ ns, with what earlier ticks left (R42, R44, R48). -/
def Stroke.trimmed (k : Stroke) : Int := k.trimRest + tickPhase * k.trim

/-- The stroke with the trim of one tick made. -/
def Stroke.afterTrim (k : Stroke) : Stroke := { k with trimRest := k.trimmed.tmod 1000000000 }

/-- The stroke clock over one tick. It never runs backwards, and waits at the end of the period for STROKE_BOUNDARY. -/
def State.strokeTick (s : State) : State :=
  if !s.strokeCounts then s else
  let step := ((tickPhase : Int) + s.stroke.share + s.stroke.trimmed.tdiv 1000000000).toNat
  ({ s with stroke := s.stroke.slewed.afterTrim }).setFld .strokePhase .PHASE (min (s.phase + step) (max s.phase (s.periodUs * 256000 - 1)))

/-- One tick: the package's clocks stand still while it is unpowered or held in reset. -/
def State.tick (s : State) : State :=
  let s := { s with rack := { s.rack with now := s.rack.now + 1 } }
  if !s.stewardUp then s else { s with time := s.time + 1, cyc100 := s.cyc100 + s.limits.1 }.strokeTick

end Sys2Proof.Machine
end

