-- ==== Sys2Proof/Machine/Tmc.lean ====
section
/-!
DEFINITION. The TMCs: leases, the commands of Table 17-3, the messages of Stewards, shelf-good lines and the fallback, cooling,
the watchdog and power reports (R537 to R549, R555, R557, R559, R563 to R566, R575 of spec/).
-/
namespace Sys2Proof.Machine

/-! ### Records -/

/-- Rack manager m: 0 RM-A, 1 RM-B. -/
def State.rm (s : State) (m : Nat) : Rm := if m = 0 then s.rack.rmA else s.rack.rmB
def State.setRm (s : State) (m : Nat) (k : Rm) : State :=
  { s with rack := if m = 0 then { s.rack with rmA := k } else { s.rack with rmB := k } }

/-- Does a TMC run? -/
def Tmc.up (k : Tmc) : Bool := k.powered && !k.failed

/-- Leases that manager m holds, of TMCs that run. -/
def State.leasesOf (s : State) (m : Nat) : List Nat := (List.range 12).filter fun t => (s.tmc t).up && (s.tmc t).lease.holder = m + 1

/-- The manager that acts as active: one in that role that holds 7 of the 12 leases (R549). -/
def State.activeRm (s : State) : Option Nat := [0, 1].find? fun m => (s.rm m).active && decide (7 ≤ (s.leasesOf m).length)

/-- The shared configuration changed by manager m; a standby that is SYNCED applies it (R552). -/
def State.setCfg (s : State) (m : Nat) (c : RackCfg) : State :=
  let n := (s.rm m).seq + 1
  let s := s.setRm m { s.rm m with cfg := c, seq := n }
  if (s.rm (1 - m)).synced then s.setRm (1 - m) { s.rm (1 - m) with cfg := c, seq := n } else s

/-- An event of manager m: logged, and sent where there are subscriptions. -/
def State.raiseAt (s : State) (m : Nat) (e : RackEvent) : State :=
  let c := (s.rm m).cfg
  let s := s.setCfg m { c with events := c.events ++ [e] }
  if c.subs = [] then s else s.send (.event e)

/-- A Redfish event of the manager that acts as active. -/
def State.raise (s : State) (e : RackEvent) : State :=
  match s.activeRm with
  | none => s
  | some m => s.raiseAt m e

/-! ### Leases (R548, R549, R565) -/

/-- 10 ns units in a millisecond. -/
def msUnits : Nat := 100000

/-- Was the lease granted to RM-B in this same millisecond, in which RM-A comes first (R565)? -/
def Tmc.yields (k : Tmc) (m now : Nat) : Bool :=
  m = 0 && k.lease.holder = 2 && k.lease.since / msUnits = now / msUnits

/-- Does the TMC grant its lease to manager m? -/
def Tmc.grants (k : Tmc) (m now : Nat) : Bool :=
  k.lease.holder = m + 1 || k.yields m now ||
  (k.lease.holder = 0 && match k.lease.expired with
    | some t => t + 500 * msUnits ≤ now
    | none => true)

/-- The lease granted, on a request with the sequence number given. -/
def Tmc.grant (k : Tmc) (m now seq : Nat) : Tmc :=
  { k with lease := { holder := m + 1, seq := seq, expires := now + 3000 * msUnits, since := if k.lease.holder = m + 1 then k.lease.since else now,
                      released := false, expired := none } }

/-- A TMC's answer to a datagram. -/
def State.answer (s : State) (d : Datagram) (status : Nat) (data : List Nat) : State :=
  s.send (.tmcReply d.tray d.m d.seq.toNat status data)

/-- A manager that holds 7 leases acts as active (R549); a switchover under way has succeeded (R554). -/
def State.checkActive (s : State) (m : Nat) : State :=
  if (s.rm m).active || (s.leasesOf m).length < 7 then s else
  let s := s.setRm m { s.rm m with active := true, peerLost := false, short := false, synced := true, handover := false, cold := false }
  let s := s.raise (.active m)
  if s.rack.switchover = some (1 - m) then { s with rack := { s.rack with switchover := none } }.raise .switched else s

/-- LEASE_REQ, and a renewal after expiry. RM-B, asking in the same millisecond as RM-A, is answered BUSY (R565). -/
def State.leaseReq (s : State) (d : Datagram) : State :=
  let k := s.tmc d.tray
  let s' := if k.yields d.m s.rack.now then s.send (.tmcReply d.tray 1 k.lease.seq 0x14 []) else s
  if k.grants d.m s.rack.now then ((s'.setTmc d.tray (k.grant d.m s.rack.now d.seq.toNat)).answer d 0 []).checkActive d.m
  else s.answer d 0x14 []

def execLeaseReq (d : Datagram) (s : State) : Out := .next (if (s.tmc d.tray).up then s.leaseReq d else s)

/-- LEASE_RENEW. -/
def execLeaseRenew (d : Datagram) (s : State) : Out := .next (if (s.tmc d.tray).up then s.leaseReq d else s)

/-- LEASE_RELEASE: the holder's lease ends without a guard. -/
def execLeaseRelease (d : Datagram) (s : State) : Out :=
  let k := s.tmc d.tray
  .next <|
    if !k.up then s
    else if k.lease.holder ≠ d.m.val + 1 then s.answer d 0x14 []
    else (s.setTmc d.tray { k with lease := { Lease.none with expires := s.rack.now, released := true } }).answer d 0 []

/-- LEASE_EXPIRY: a lease was not renewed in 3 s of rack time. -/
def execLeaseExpiry (t : TrayId) (s : State) : Out :=
  let k := s.tmc t
  .next <|
    if !k.up || k.lease.holder = 0 || s.rack.now < k.lease.expires then s
    else s.setTmc t { k with lease := { Lease.none with expires := s.rack.now, expired := some s.rack.now } }

/-- A command of codes 0x10 to 0x14: the holder's has its effect, any other is answered BUSY (R540, R555). -/
def State.holderOnly (s : State) (d : Datagram) (f : State → State) : State :=
  let k := s.tmc d.tray
  if !k.up then s else if k.lease.holder = d.m.val + 1 then f s else s.answer d 0x14 []

/-! ### Caps (R541, R556, R557, R566) -/

/-- Caps of a slot as the holder commanded them. -/
def Tmc.capsOf (k : Tmc) (slot : Nat) : Caps := smGet (fun _ => Caps.zero) k.caps slot

/-- The lower of two caps; 0 is none. -/
def lowerCap (a b : Nat) : Nat := if a = 0 then b else if b = 0 then a else min a b

/-- What SET_MGMT carries for a slot: the commanded caps, lowered by the fallback while it is in force. -/
def Tmc.sentCaps (k : Tmc) (slot : Nat) : Caps :=
  let c := k.capsOf slot
  if k.fallbackOn then { peak := lowerCap c.peak k.fallback, sust := lowerCap c.sust k.fallback, holdoff := true } else c

/-- SET_MGMT sent to the slots listed, with a newer SEQ. -/
def State.sendMgmt (s : State) (t : Nat) (slots : List Nat) : State :=
  let k := { s.tmc t with seq := ((s.tmc t).seq + 1) % 2 ^ 16 }
  let s := s.setTmc t k
  slots.foldl (fun s i =>
    let c := k.sentCaps i
    s.send (.toSteward t i 0x01 [c.peak, c.sust, if c.holdoff then 1 else 0, if k.lease.holder = 0 then 1 else 0, k.seq])) s

/-- SET_CAPS: for one package, or all four. -/
def execSetCaps (d : Datagram) (slot : Option SlotId) (peak sust : W16) (holdoff : Bool) (s : State) : Out :=
  .next (s.holderOnly d fun s =>
    let slots := match slot with
      | some i => [i.val]
      | none => [0, 1, 2, 3]
    let k := s.tmc d.tray
    let c : Caps := { peak := peak.toNat, sust := sust.toNat, holdoff := holdoff }
    let s := s.setTmc d.tray { k with caps := slots.foldl (fun m i => smSet (fun _ => Caps.zero) m i c) k.caps }
    (s.sendMgmt d.tray slots).answer d 0 [])

/-- SET_FALLBACK. -/
def execSetFallback (d : Datagram) (cap : W16) (s : State) : Out :=
  .next (s.holderOnly d fun s => (s.setTmc d.tray { s.tmc d.tray with fallback := cap.toNat }).answer d 0 [])

/-- SET_COOLING: a target of 40 to 55 °C and a minimum opening of 20 to 100 %; others change nothing. -/
def execSetCooling (d : Datagram) (target minPct : Byte) (s : State) : Out :=
  .next (s.holderOnly d fun s =>
    let t := target.toNat
    let p := minPct.toNat
    if 40 ≤ t && t ≤ 55 && 20 ≤ p && p ≤ 100 then (s.setTmc d.tray { s.tmc d.tray with target := t, minPct := p }).answer d 0 []
    else
      let f := s.freeNat 8
      f.2.answer d f.1 [])

/-! ### Resets of packages (R544, R557, R559) -/

/-- The reset line of a slot; the package itself is reset when it sits there. -/
def State.resetSlot (s : State) (t slot : Nat) (on : Bool) : State :=
  let s := if on && s.rack.place = (t, slot) then s.packageReset else s
  s.send (.resetLine t slot on)

/-- PKG_RESET: asserted or released. -/
def execPkgReset (d : Datagram) (slot : SlotId) (hold : Bool) (s : State) : Out :=
  .next (s.holderOnly d fun s =>
    let k := s.tmc d.tray
    let others := k.heldBy &&& (15 - 2 ^ slot.val)
    let s := s.setTmc d.tray { k with heldBy := if hold then others ||| 2 ^ slot.val else others }
    let s := if hold || !(s.tmc d.tray).holds slot then s.resetSlot d.tray slot hold else s
    s.answer d 0 [])

/-- FW_RECOVER: a part of an image forwarded as FW_CHUNK. -/
def execFwRecover (d : Datagram) (slot : SlotId) (part : List Byte) (last : Bool) (s : State) : Out :=
  .next (s.holderOnly d fun s =>
    (s.send (.toSteward d.tray slot 0x06 ((if last then 1 else 0) :: part.map (·.toNat)))).answer d 0 [])

/-! ### Reads (R540, R542, R543, Table 17-9) -/

/-- A command of codes 0x20 to 0x24, served from either manager. -/
def State.served (s : State) (d : Datagram) (f : State → State) : State := if (s.tmc d.tray).up then f s else s

def execReadSensors (d : Datagram) (s : State) : Out :=
  .next (s.served d fun s =>
    let k := s.tmc d.tray
    s.answer d 0 (k.sensors ++ [k.valve, k.shelfGood] ++ (List.range 4).flatMap fun i => smGet (fun _ => []) k.points i))

def execReadPower (d : Datagram) (s : State) : Out :=
  .next (s.served d fun s =>
    s.answer d 0 ((List.range 4).flatMap fun i =>
      let r := smGet (fun _ => PowerReport.zero) (s.tmc d.tray).reports i
      [r.mean, r.largest, r.estimate]))

def execReadPorts (d : Datagram) (s : State) : Out :=
  .next (s.served d fun s =>
    s.answer d 0 ((List.range 64).flatMap fun i =>
      let r := smGet (fun _ => (0, 0)) (s.tmc d.tray).ports i
      [r.1, r.2]))

/-- TMC.LEASE: REMAIN_MS counts to expiry, and negative since. -/
def Tmc.leaseWord (k : Tmc) (now : Nat) : Nat :=
  let ms := ((k.lease.expires : Int) - now) / msUnits
  k.lease.holder <<< 62 ||| (if k.lease.released then 1 else 0) <<< 61 ||| (if k.lease.holder = 0 then 1 else 0) <<< 60
    ||| (if k.lease.holder = 0 && k.lease.expired.isNone then 0 else (ms % 2 ^ 32).toNat)

def Tmc.coolWord (k : Tmc) : Nat := k.target <<< 16 ||| k.minPct <<< 8 ||| k.valve
def Tmc.statusWord (k : Tmc) : Nat :=
  let b := fun (x : Bool) => if x then 1 else 0
  k.absent <<< 12 ||| k.estimateLow <<< 8 ||| k.shelfGood <<< 4 ||| b k.flowLost <<< 3 ||| b k.fallbackOn <<< 2 ||| b k.watchdog <<< 1

/-- READ_REG: the four registers of Table 17-8; the spec does not say what another offset reads as. -/
def execReadReg (d : Datagram) (off : Byte) (s : State) : Out :=
  .next (s.served d fun s =>
    let k := s.tmc d.tray
    match off.toNat with
    | 0x00 => s.answer d 0 [k.leaseWord s.rack.now]
    | 0x08 => s.answer d 0 [k.fallback]
    | 0x10 => s.answer d 0 [k.coolWord]
    | 0x18 => s.answer d 0 [k.statusWord]
    | _ =>
      let f := s.freeNat 64
      f.2.answer d 0 [f.1])

/-- READ_LOG: the entries from an index on. -/
def execReadLog (d : Datagram) (index : Nat) (s : State) : Out :=
  .next (s.served d fun s => s.answer d 0 (((s.tmc d.tray).log.drop index).flatMap fun (e : Nat × Nat) => [e.1, e.2]))

/-! ### Messages of the Stewards (R475, R538, R543) -/

def State.ifUp (s : State) (t : Nat) (f : Tmc → State) : State := if (s.tmc t).up then f (s.tmc t) else s

/-- PORT_STATE. -/
def execPortState (t : TrayId) (slot : SlotId) (p : PortId) (state : BitVec 3) (cause : Byte) (s : State) : Out :=
  .next (s.ifUp t fun k =>
    s.setTmc t { k with ports := smSet (fun _ => (0, 0)) k.ports (16 * slot.val + p.val) (state.toNat, cause.toNat) })

/-- FAIL_REPORT. -/
def execFailReport (t : TrayId) (slot : SlotId) (word : W64) (s : State) : Out :=
  .next (s.ifUp t fun k => s.setTmc t { k with fails := smSet (fun _ => 0) k.fails slot word })

/-- BOOT_STATUS. -/
def execBootStatus (t : TrayId) (slot : SlotId) (word : W64) (s : State) : Out :=
  .next (s.ifUp t fun k => s.setTmc t { k with boots := smSet (fun _ => 0) k.boots slot word })

/-- I3C_ENUMERATION: a slot answers and takes its endpoint ID, or is ABSENT. -/
def execI3cEnumeration (t : TrayId) (slot : SlotId) (answers : Bool) (eid : Byte) (s : State) : Out :=
  .next (s.ifUp t fun k =>
    let others := k.absent &&& (15 - 2 ^ slot.val)
    let s := s.setTmc t { k with absent := if answers then others else others ||| 2 ^ slot.val }
    if answers && s.rack.place = (t.val, slot.val) && s.stewardUp then
      { s.setFlag .stwSb .TMC_UP true with stw := { s.stw with eid := eid } }
    else s)

/-! ### Status bits and the log -/

/-- A TMC with one more log entry: the bit of TMC.STATUS that was set. -/
def Tmc.note (k : Tmc) (now bit : Nat) : Tmc := { k with log := k.log ++ [(now, bit)] }

/-- TMC_WATCHDOG: the valve opens, WATCHDOG is set, the firmware restarts; leases end by expiry (R546). -/
def execTmcWatchdog (t : TrayId) (s : State) : Out :=
  .next (s.ifUp t fun k => s.setTmc t ({ k with valve := 100, watchdog := true }.note s.rack.now 1))

/-- COOLING_REGULATION: the valve takes an opening from the minimum to 100 %, which the spec does not give further (R545). -/
def execCoolingRegulation (t : TrayId) (sensors : List W16) (s : State) : Out :=
  .next (s.ifUp t fun k =>
    let f := s.freeNat 16
    f.2.setTmc t { k with sensors := sensors.map (·.toNat), valve := k.minPct + f.1 % (101 - k.minPct) })

/-- ID.VARIANT.SUSTAINED_W of the packages of the rack (R25). -/
def sustainedW : Nat := if Config.variantE then 1150 else 1500

/-- POWER_REPORT: one report interval of a slot; ten in a row that exceed the estimate by more than 7.5 % of SUSTAINED_W set
ESTIMATE_LOW (R542). -/
def execPowerReport (t : TrayId) (slot : SlotId) (mean largest estimate : W16) (s : State) : Out :=
  .next (s.ifUp t fun k =>
    let r := smGet (fun _ => PowerReport.zero) k.reports slot
    let n := if 40 * estimate.toNat + 3 * sustainedW < 40 * mean.toNat then r.run + 1 else 0
    let r : PowerReport := { mean := mean.toNat, largest := largest.toNat, estimate := estimate.toNat, run := n }
    let k := { k with reports := smSet (fun _ => PowerReport.zero) k.reports slot r }
    if n = 10 then
      (s.setTmc t ({ k with estimateLow := k.estimateLow ||| 2 ^ slot.val }.note s.rack.now (8 + slot.val))).raise (.estimateLow t slot)
    else s.setTmc t k)

/-! ### Shelf-good lines and lost flow (R557, R559) -/

/-- Good shelves of a mask. -/
def goodShelves (m : Nat) : Nat := ((List.range 4).filter fun i => m.testBit i).length

/-- The four packages of a tray reset. -/
def State.resetTray (s : State) (t : Nat) : State := (List.range 4).foldl (fun s i => s.resetSlot t i true) s

/-- SHELF_GOOD_CHANGE: the lines as debounced over 10 ms. -/
def execShelfGoodChange (t : TrayId) (lines : BitVec 4) (s : State) : Out :=
  .next (s.ifUp t fun k =>
    let n := goodShelves lines.toNat
    let was := k.fallbackOn
    let k := { k with shelfGood := lines.toNat, fallbackOn := n ≤ 2, heldShelf := k.heldShelf || n ≤ 1,
                       goodSince := if 2 ≤ n && goodShelves k.shelfGood < 2 then s.rack.now else k.goodSince }
    let k := if n ≤ 2 && !was then k.note s.rack.now 2 else k
    let s := s.setTmc t k
    if n ≤ 1 then s.resetTray t
    else if n = 2 || was then s.sendMgmt t [0, 1, 2, 3]
    else s)

/-- SHELF_RESET_RELEASE: two or more shelves have been good for 10 s. -/
def execShelfResetRelease (t : TrayId) (s : State) : Out :=
  .next (s.ifUp t fun k =>
    if !k.heldShelf || goodShelves k.shelfGood < 2 || s.rack.now < k.goodSince + 10000 * msUnits then s else
    let s := s.setTmc t { k with heldShelf := false }
    let s := (List.range 4).foldl (fun s i => if (s.tmc t).holds i then s else s.resetSlot t i false) s
    if k.fallbackOn then s.sendMgmt t [0, 1, 2, 3] else s)

/-- FLOW_LOST: the tray's packages are reset, and stay so until the holder releases them. -/
def execFlowLost (t : TrayId) (s : State) : Out :=
  .next (s.ifUp t fun k => (s.setTmc t ({ k with flowLost := true, heldBy := 15 }.note s.rack.now 3)).resetTray t)

/-! ### Power and failure of a tray (R545, R564, R575) -/

/-- TMC_FAILURE: the valve opens; nothing of the tray is commanded or reported any more. -/
def execTmcFailure (t : TrayId) (s : State) : Out := .next (s.setTmc t { s.tmc t with failed := true, valve := 100 })

/-- TRAY_POWER_SWITCH: opened, the TMC and the packages are off; closed, the TMC starts with its stored set points and the packages
get power-good, this one with what its firmware, store and straps give. -/
def execTrayPowerSwitch (t : TrayId) (closed : Bool) (fw : Option W64) (store straps : Bool) (s : State) : Out :=
  let k := s.tmc t
  let fresh := { Tmc.fresh with target := k.target, minPct := k.minPct, failed := k.failed }
  let here := s.rack.place.1 = t.val
  if closed then
    if k.powered then .next s else
    let s := s.setTmc t fresh
    if here then execPowerGood fw store straps s else .next s
  else
    let s := s.setTmc t { fresh with powered := false }
    .next (if here then s.losePower else s)

end Sys2Proof.Machine
end

