-- ==== Sys2Proof/Machine/Managers.lean ====
section
/-!
DEFINITION. The rack managers: heartbeats, leases, takeover and handover, resynchronisation, shelf polling, and the CDU and its
alarms (R545, R547 to R558, R561, R562, R567, R571, R572 of spec/).
-/
namespace Sys2Proof.Machine

/-! ### What a manager sends -/

def allTrays : List Nat := List.range 12

/-- A datagram to each tray of a list. -/
def State.toTrays (s : State) (m : Nat) (l : List Nat) (code : Nat) (args : Nat → List Nat) : State :=
  l.foldl (fun s t => s.send (.datagram m t code (args t))) s

/-- A manager's heartbeat, on both paths (R547). -/
def State.beat (s : State) (m : Nat) : State :=
  let k := s.rm m
  let h : Heard := { active := k.active, healthy := k.healthy, synced := k.synced, seq := k.seq, leases := (s.leasesOf m).length,
                     handover := k.handover }
  (s.send (.heartbeat m 0 h)).send (.heartbeat m 1 h)

/-- LEASE_REQ to every TMC. -/
def State.requestAll (s : State) (m : Nat) : State := s.toTrays m allTrays 0x01 fun _ => []

/-- LEASE_RELEASE to every tray whose lease the manager holds. -/
def State.releaseAll (s : State) (m : Nat) : State := s.toTrays m (s.leasesOf m) 0x03 fun _ => []

/-- A manager becomes standby, and is SYNCED again when it has resynchronised (R552). -/
def State.stepDown (s : State) (m : Nat) : State :=
  let s := s.raiseAt m (.standby m)
  s.setRm m { s.rm m with active := false, short := false, synced := false }

/-! ### Heartbeats (R547, R550, R551) -/

/-- May manager m ask for leases because the rack's power has returned: RM-A at once, RM-B after 2 s (R552)? -/
def State.coldStart (s : State) (m : Nat) : Bool := (s.rm m).cold && (m = 0 || 2000 * msUnits ≤ s.rack.now)

/-- Has an interval passed since the time given, if there is one? -/
def passedSince (since : Option Nat) (gap now : Nat) : Bool := since.all fun t => t + gap ≤ now

/-- HEARTBEAT: heard by manager m on a path. One with HANDOVER makes a standby that is SYNCED request every lease; no other
heartbeat of the active does (R552). -/
def execHeartbeat (m : RmId) (_path : Fin 2) (h : HeartbeatFields) (s : State) : Out :=
  let k := s.rm m
  let x : Heard := { active := h.active, healthy := h.healthy, synced := h.synced, seq := h.seq.toNat, leases := h.leases, handover := h.handover }
  let s := s.setRm m { k with heard := some x, heardAt := s.rack.now, cold := false, peerLost := false }
  .next (if h.handover && !k.active && k.synced then s.requestAll m else s)

/-- HEARTBEAT_TIMER: every 250 ms; a standby that has declared the active lost requests every lease with it, and so does a manager
that starts with the rack. -/
def execHeartbeatTimer (m : RmId) (s : State) : Out :=
  let k := s.rm m
  .next <|
    if !passedSince k.beatAt (250 * msUnits) s.rack.now then s else
    let s := (s.setRm m { k with beatAt := some s.rack.now }).beat m
    if (k.peerLost || s.coldStart m) && !k.active then s.requestAll m else s

/-- ACTIVE_LOST: no heartbeat on either path for 1 s. -/
def execActiveLost (m : RmId) (s : State) : Out :=
  let k := s.rm m
  .next (if k.active || s.rack.now < k.heardAt + 1000 * msUnits || (k.cold && !s.coldStart m) then s
    else (s.setRm m { k with peerLost := true }).requestAll m)

/-- HEARTBEAT_PATH_LOSS: both managers raise an alarm; no takeover follows. -/
def execHeartbeatPathLoss (path : Fin 2) (s : State) : Out :=
  let s := (s.setRm 0 { s.rm 0 with alarm := true }).setRm 1 { s.rm 1 with alarm := true }
  .next (s.raise (.pathAlarm path))

/-! ### Leases (R549) -/

/-- LEASE_RENEWAL_TIMER: every 1 s. A manager that has held fewer than 7 leases for an interval releases them and is standby. -/
def execLeaseRenewalTimer (m : RmId) (s : State) : Out :=
  let mine := s.leasesOf m
  let k := s.rm m
  .next <|
    if (mine = [] && !k.active) || !passedSince k.renewedAt (1000 * msUnits) s.rack.now then s
    else if mine.length < 7 && k.short then (s.releaseAll m).stepDown m
    else
      let s := s.setRm m { k with short := mine.length < 7, renewedAt := some s.rack.now }
      let s := s.toTrays m mine 0x02 fun _ => []
      if 7 ≤ mine.length then s.toTrays m (allTrays.filter fun t => !mine.contains t) 0x01 fun _ => [] else s

/-! ### Handover and switchover (R551, R554, R567) -/

/-- The active hands over: HANDOVER in its heartbeats, its leases released, and it is standby, SYNCED since the two states are equal
(R551, R554). -/
def State.handOver (s : State) (m : Nat) : State :=
  let s := (s.setRm m { s.rm m with handover := true }).beat m
  let s := (s.toTrays m allTrays 0x03 fun _ => []).stepDown m
  s.setRm m { s.rm m with synced := true }

/-- Does the active's last heartbeat of the standby report SYNCED and healthy? -/
def State.standbyFit (s : State) (m : Nat) : Bool := (s.rm m).heard.any fun h => h.synced && h.healthy

/-- SELF_DIAGNOSIS of the active. -/
def execSelfDiagnosis (m : RmId) (ok : Bool) (s : State) : Out :=
  let k := s.rm m
  .next <|
    if !k.active then s
    else if ok then s.setRm m { k with healthy := true }
    else
      let s := s.setRm m { k with healthy := false }
      if s.standbyFit m then s.handOver m
      else (s.setRm m { s.rm m with alarm := true }).raise (.diagnosis m)

/-- RESYNCHRONISATION: a manager that is not active takes the active's state and reports SYNCED. -/
def execResynchronisation (m : RmId) (s : State) : Out :=
  let other := s.rm (1 - m.val)
  .next <|
    if (s.rm m).active || !other.active then s
    else s.setRm m { s.rm m with cfg := other.cfg, seq := other.seq, synced := true, handover := false }

/-- FAILOVER_REVERT: 2 s after a planned switchover the new active holds fewer than 7 leases; the former one takes them back. -/
def execFailoverRevert (s : State) : Out :=
  .next (match s.rack.switchover with
    | none => s
    | some f =>
      let new := 1 - f
      let mine := s.leasesOf new
      if 7 ≤ mine.length || s.rack.now < s.rack.switchAt + 2000 * msUnits then s else
      let s := s.releaseAll new
      let s := (if (s.rm new).active then s.stepDown new else s).requestAll f
      let s := s.setRm f { s.rm f with handover := false }
      let s := { s with rack := { s.rack with switchover := none } }
      s.send (.event (.reverted (allTrays.filter fun t => !mine.contains t))))

/-! ### Caps (R556, R557, R561, R562) -/

/-- C₂ of a non-package load. -/
def capTwo (npl : Nat) : Nat := (2 * 36000 - npl - 2000) / 48

/-- The caps that the manager commands for a package: SetPoint, and C₂ while two shelves or fewer are good. -/
def RackCfg.commanded (c : RackCfg) (t slot : Nat) : List Nat :=
  let p := smGet (fun _ => 0) c.setPoints (4 * t + slot)
  let w := if c.capped then lowerCap p (capTwo c.npl) else p
  [slot, w, w, if c.capped then 1 else 0]

/-- SET_CAPS for every package of the rack. -/
def State.commandCaps (s : State) (m : Nat) : State :=
  (List.range 4).foldl (fun s i => s.toTrays m allTrays 0x10 fun t => (s.rm m).cfg.commanded t i) s

/-- SHELF_POLL: the shelves as the active reads them. -/
def execShelfPoll (good : BitVec 4) (s : State) : Out :=
  .next (match s.activeRm with
    | none => s
    | some m =>
      let n := goodShelves good.toNat
      let c := (s.rm m).cfg
      let s := { s with rack := { s.rack with shelves := good.toNat } }
      if decide (n ≤ 2) = c.capped then s else
      let s := (s.setCfg m { c with capped := n ≤ 2 }).raise (.shelves n)
      s.commandCaps m)

/-- NPL_CHANGE: C₂ is computed anew and written into every TMC.FALLBACK. -/
def execNplChange (w : W16) (s : State) : Out :=
  .next (match s.activeRm with
    | none => s
    | some m =>
      let s := s.setCfg m { (s.rm m).cfg with npl := w.toNat }
      s.toTrays m allTrays 0x11 fun _ => [capTwo w.toNat])

/-! ### The CDU (R558, R572) -/

/-- PUMP_TRANSFER: the standby pump starts and is duty from then on. -/
def execPumpTransfer (s : State) : Out :=
  let p := 1 - s.rack.duty
  let s := { s with rack := { s.rack with duty := p, pumps := if s.rack.pumps.contains p then s.rack.pumps else s.rack.pumps ++ [p] } }
  .next (s.raise (.pump p))

/-- PUMP_SWAP: after 168 h the pumps change places. -/
def execPumpSwap (s : State) : Out :=
  let p := 1 - s.rack.duty
  .next { s with rack := { s.rack with duty := p, pumps := [p] } }

/-- TANK_LEVEL_ALARM. -/
def execTankLevelAlarm (s : State) : Out :=
  .next ({ s with rack := { s.rack with tankAlarm := true } }.raise .tankLevel)

end Sys2Proof.Machine
end

