-- ==== Sys2Proof/Machine/Redfish.lean ====
section
/-!
DEFINITION. The Redfish service of the active rack manager (R545, R554, R560, R561, R571, Table 17-7 of spec/). The HTTP status of
an answer other than 404, 409 and 501 is PRESUMED from HTTP (notes/assumptions/90).
-/
namespace Sys2Proof.Machine

/-! ### Sessions and roles (R560) -/

def RackCfg.userOf (c : RackCfg) (token : Nat) : Option Nat := (c.sessions.find? fun e => e.1 = token).map Prod.snd
/-- The role of a session, if it is one. -/
def RackCfg.roleOf (c : RackCfg) (token : Nat) : Option RoleName :=
  (c.userOf token).bind fun u => (c.accounts.find? fun e => e.1 = u).map Prod.snd

/-- A request to the service, served where a manager is active. -/
def State.service (s : State) (f : Nat → RackCfg → State) : State :=
  match s.activeRm with
  | none => s
  | some m => f m (s.rm m).cfg

def State.reply (s : State) (status : Nat) (body : List Nat) : State := s.send (.redfish status body)

/-- A request that changes something: of a session whose role may (Administrator alone where `admin`), else 401 or 403. -/
def State.authorised (s : State) (token : Nat) (admin : Bool) (f : Nat → RackCfg → State) : State :=
  s.service fun m c => match c.roleOf token with
    | none => s.reply 401 []
    | some .administrator => f m c
    | some .operator => if admin then s.reply 403 [] else f m c
    | some .readOnly => s.reply 403 []

/-! ### Reads -/

def boolNat (b : Bool) : Nat := if b then 1 else 0

/-- What a resource holds, as numbers. -/
def State.resource (s : State) (c : RackCfg) : RedfishRes → List Nat
  | .root => []
  | .sessions => c.sessions.map Prod.fst
  | .accounts => c.accounts.map Prod.fst
  | .rack => [boolNat c.capped, c.npl, s.rack.shelves]
  | .tray t =>
    let k := s.tmc t
    k.sensors ++ [k.valve, k.shelfGood, k.target, smGet (fun _ => k.target) c.cooling t] ++
      (List.range 4).map fun i => smGet (fun _ => 0) c.setPoints (4 * t.val + i)
  | .switch i => match (s.tray i).path with
    | .none => [0]
    | .loop => [1]
    | .optic => [2]
  | .mgmt => []
  | .system t =>
    let k := s.tmc t
    ((List.range 4).flatMap fun i =>
      let r := smGet (fun _ => PowerReport.zero) k.reports i
      [r.mean, r.largest, r.estimate, boolNat (k.absent.testBit i)]) ++
      ((List.range 64).flatMap fun i =>
        let p := smGet (fun _ => (0, 0)) k.ports i
        [p.1, p.2]) ++
      (List.range 4).flatMap fun i => smGet (fun _ => []) k.points i
  | .cdu => [s.rack.duty, s.rack.pumps.length, s.rack.supply, boolNat s.rack.tankAlarm]
  | .manager m => [boolNat (s.rm m).active, boolNat (s.rm m).synced, boolNat (s.rm m).healthy, (s.leasesOf m).length, (s.rm m).cfg.events.length]
  | .events => c.subs
  | .update => []
  | .other => []

/-- REDFISH_GET: 404 for a resource that Table 17-7 does not list, 501 for a query parameter. -/
def execRedfishGet (token : Nat) (r : RedfishRes) (query : Bool) (s : State) : Out :=
  .next (s.service fun _ c =>
    if r = .other then s.reply 404 []
    else if query then s.reply 501 []
    else if r ≠ .root && (c.roleOf token).isNone then s.reply 401 []
    else s.reply 200 (s.resource c r))

/-! ### Set points (R545, R561, R571) -/

/-- PKG_CAP_SETPOINT: 0 removes the cap. -/
def execPkgCapSetpoint (token : Nat) (t : TrayId) (slot : SlotId) (w : W16) (s : State) : Out :=
  .next (s.authorised token false fun m c =>
    let c := { c with setPoints := smSet (fun _ => 0) c.setPoints (4 * t.val + slot.val) w.toNat }
    ((s.setCfg m c).send (.datagram m t 0x10 (c.commanded t slot))).reply 200 [])

/-- COOLING_SETPOINT: 40 to 55 °C. -/
def execCoolingSetpoint (token : Nat) (t : TrayId) (target : Byte) (s : State) : Out :=
  .next (s.authorised token false fun m c =>
    if target.toNat < 40 || 55 < target.toNat then s.reply 400 [] else
    let c := { c with cooling := smSet (fun _ => 0) c.cooling t target.toNat }
    ((s.setCfg m c).send (.datagram m t 0x12 [target.toNat, (s.tmc t).minPct])).reply 200 [])

/-- CDU_SUPPLY_SETPOINT: 30 to 40 °C. -/
def execCduSupplySetpoint (token : Nat) (celsius : Byte) (s : State) : Out :=
  .next (s.authorised token false fun _ _ =>
    if celsius.toNat < 30 || 40 < celsius.toNat then s.reply 400 []
    else { s with rack := { s.rack with supply := celsius.toNat } }.reply 200 [])

/-! ### Actions (R554, R560, R567) -/

/-- PROCESSOR_RESET: PKG_RESET asserted, and released unless the reset is held. -/
def execProcessorReset (token : Nat) (t : TrayId) (slot : SlotId) (held : Bool) (s : State) : Out :=
  .next (s.authorised token false fun m _ =>
    let s := s.send (.datagram m t 0x13 [slot.val, 1])
    let s := if held then s else s.send (.datagram m t 0x13 [slot.val, 0])
    s.reply 200 [])

/-- MANAGER_RESET: the manager restarts as a standby that is to resynchronise; its leases end by expiry. -/
def execManagerReset (token : Nat) (m : RmId) (s : State) : Out :=
  .next (s.authorised token false fun _ _ =>
    let s := s.reply 200 []
    s.setRm m { Rm.fresh with cfg := (s.rm m).cfg, seq := (s.rm m).seq, heardAt := s.rack.now, cold := false })

/-- FORCE_FAILOVER on manager m's resource; `shelfEvent`: a shelf fails or returns before HANDOVER has been sent. -/
def execForceFailover (token : Nat) (m : RmId) (shelfEvent : Bool) (s : State) : Out :=
  .next (s.authorised token false fun a _ =>
    if a ≠ m.val || !s.standbyFit m then s.reply 409 []
    else if shelfEvent then (s.reply 202 []).send (.event (.reverted []))
    else
      let s := (s.reply 202 []).handOver m
      { s with rack := { s.rack with switchover := some m.val, switchAt := s.rack.now } })

/-- SESSION_CREATE: a session for a user with the right credentials, or one deleted. -/
def execSessionCreate (op : SessionOp) (s : State) : Out :=
  .next (s.service fun m c => match op with
    | .create user ok =>
      if !ok || !(c.accounts.any fun e => e.1 = user) then s.reply 401 [] else
      (s.setCfg m { c with sessions := c.sessions ++ [(c.nextToken, user)], nextToken := c.nextToken + 1 }).reply 201 [c.nextToken]
    | .delete token =>
      if (c.userOf token).isNone then s.reply 401 [] else
      (s.setCfg m { c with sessions := c.sessions.filter fun e => e.1 ≠ token }).reply 204 [])

/-- ACCOUNT_CHANGE: by an Administrator. -/
def execAccountChange (token : Nat) (op : AccountOp) (s : State) : Out :=
  .next (s.authorised token true fun m c => match op with
    | .set user role =>
      (s.setCfg m { c with accounts := (c.accounts.filter fun e => e.1 ≠ user) ++ [(user, role)] }).reply 200 []
    | .delete user =>
      (s.setCfg m { c with accounts := c.accounts.filter fun e => e.1 ≠ user, sessions := c.sessions.filter fun e => e.2 ≠ user }).reply 204 [])

/-- SUBSCRIPTION_CHANGE. -/
def execSubscriptionChange (token : Nat) (op : SubscriptionOp) (s : State) : Out :=
  .next (s.authorised token false fun m c => match op with
    | .create => (s.setCfg m { c with subs := c.subs ++ [c.nextSub], nextSub := c.nextSub + 1 }).reply 201 [c.nextSub]
    | .delete n => (s.setCfg m { c with subs := c.subs.filter (· ≠ n) }).reply 204 [])

/-- SIMPLE_UPDATE: a firmware update starts; its images reach their devices as FW_RECOVER and FW_CHUNK. -/
def execSimpleUpdate (token : Nat) (s : State) : Out :=
  .next (s.authorised token false fun _ _ => (s.raise .update).reply 202 [])

end Sys2Proof.Machine
end

