-- ==== Sys2Proof/Machine/Install.lean ====
section
/-!
DEFINITION. The installation record: its checks, its commit in a package, and the records and paths of switch trays (R19, R31, R40,
R578 to R585, R590 of spec/).
-/
namespace Sys2Proof.Machine

/-! ### Checks (Table 18-6) -/

/-- RESULT 2: MAGIC, FORMAT and the zero fields. -/
def recordFormatOk (r : List Byte) : Bool :=
  r.length = 128 && fieldAt r 0 4 = 0x4C545349 && fieldAt r 4 2 = 1 && zeroAt r 6 2 && zeroAt r 0x13 13 && zeroAt r 0x40 64 &&
  ((List.range 4).all fun i =>
    if i < fieldAt r 0x12 1 then zeroAt r (0x20 + 8 * i + 3) 5 else zeroAt r (0x20 + 8 * i) 8)

/-- RESULT 3: extents of R31. -/
def recordExtentOk (r : List Byte) : Bool :=
  let x := fieldAt r 0x10 1 + 1
  let y := fieldAt r 0x11 1 + 1
  x % 8 = 0 && y % 6 = 0 && y ≤ 252

/-- RESULT 4: two to four anchors inside the extents, of different ranks from 0 to 3, two of them in different racks (R40). -/
def recordAnchorsOk (r : List Byte) : Bool :=
  let n := fieldAt r 0x12 1
  let as := recordAnchors r
  let rack := fun (a : Nat × Nat × Nat) => a.2.2 / 6 * 32 + a.2.1 / 8
  2 ≤ n && n ≤ 4 && (as.all fun a => a.1 ≤ 3 && a.2.1 ≤ fieldAt r 0x10 1 && a.2.2 ≤ fieldAt r 0x11 1) && (dedup (as.map Prod.fst)).length = n &&
  1 < (dedup (as.map rack)).length

/-- RESULT 5: the position inside the extents. -/
def recordHolds (r : List Byte) (x y : Nat) : Bool := x ≤ fieldAt r 0x10 1 && y ≤ fieldAt r 0x11 1

/-- RESULT 6: R19 gives the strapped tray and slot. -/
def strapsOk (straps : Option (Nat × Nat)) (x y : Nat) : Bool :=
  straps = some (2 * (y % 6) + x % 8 / 4, x % 4)

/-- The first check that fails, in the order of Table 18-6; 0 where all pass. -/
def commitCheck (straps : Option (Nat × Nat)) (r : List Byte) (x y : Nat) : Nat :=
  if !recordFormatOk r then 2
  else if !recordExtentOk r then 3
  else if !recordAnchorsOk r then 4
  else if !recordHolds r x y then 5
  else if !strapsOk straps x y then 6
  else 0

/-! ### The package's commit (R582 to R584, R590) -/

/-- The staged record. -/
def State.staged (s : State) : List Byte := (List.range 16).flatMap fun i => toBytes 8 (s.reg (.recStage i)).toNat

/-- RECORD_COMMIT: a 1 written to REC.CTRL.COMMIT. -/
def State.recordCommit (s : State) : State :=
  if s.flag .recStatus .BUSY then s
  else if s.flag .idPosition .RECORD_VALID then s.setFlag .idStatus .WO_VIOLATION true
  else
    let r := s.staged
    let x := s.fld .recPos .X
    let y := s.fld .recPos .Y
    let k := commitCheck s.straps r x y
    if k ≠ 0 then s.setFld .recStatus .RESULT k
    else { s.setFlag .recStatus .BUSY true with start := { s.start with commit := some (r, x, y) } }

def execRecordCommit (s : State) : Out := .next s.recordCommit

/-- RECORD_COMMIT_DONE: the write completes, or the store fails (RESULT 7) and nothing is written. -/
def execRecordCommitDone (ok : Bool) (s : State) : Out :=
  .next (match s.start.commit with
    | none => s
    | some (r, x, y) =>
      let s := { s.setFlag .recStatus .BUSY false with start := { s.start with commit := none } }
      if !ok then s.setFld .recStatus .RESULT 7 else
      let s := { s with perm := { s.perm with record := some (r, x, y) } }
      (s.setFld .recStatus .RESULT 1).setReg .idPosition (positionWord r x y))

/-! ### Switch trays (R578, R585) -/

/-- SWITCH_TRAY_POWER_ON: every path of the tray follows its record and position. -/
def execSwitchTrayPowerOn (i : SwitchId) (s : State) : Out :=
  let k := s.tray i
  let path := match k.record with
    | none => TrayPath.none
    | some (r, st, _) =>
      let one := if st < 2 then fieldAt r 0x10 1 = 7 else fieldAt r 0x11 1 = 5
      if one then .loop else .optic
  .next (s.setTray i { k with path := path })

/-- Do the switch trays that hold a record report different hashes? -/
def State.recordsDiffer (s : State) : Bool :=
  let l := (List.range 4).filterMap fun i => (s.tray i).record.map fun e => sha64 e.1
  l.any fun a => l.any fun b => a ≠ b

/-- SWITCH_TRAY_RECORD_WRITE: the record and position (ST, RACK) of a switch tray, written once; `ok` says that its store takes
them. -/
def execSwitchTrayRecordWrite (i : SwitchId) (record : List Byte) (st : Byte) (rack : W16) (ok : Bool) (s : State) : Out :=
  let k := s.tray i
  let n := rack.toNat
  .next <|
    if k.record.isSome || !ok || !recordFormatOk record || !recordExtentOk record || !recordAnchorsOk record || 3 < st.toNat ||
      !recordHolds record (8 * (n % 32)) (6 * (n / 32)) then s
    else
      let s := s.setTray i { k with record := some (record, st.toNat, n) }
      if s.recordsDiffer then s.raise .recordsDiffer else s

end Sys2Proof.Machine
end

