-- ==== Sys2Proof/WellFormed.lean ====
section
/-!
DEFINITION. Which commands are well formed: a Ductus instruction is one that its listed codes accept (R152, R153, R157, R160 to R162,
R164, R169 of spec/), a message has a message's length, and a register access touches one to eight bytes.
-/
namespace Sys2Proof

open Machine in
/-- Does an instruction accept its element type and the rest of its fields? What depends on the state (ownership, handler mode) is
not asked here. -/
def Instr.nibWellFormed : Instr → Bool
  | .vadd _ o => o.et.isInt
  | .vsub _ o => o.et.isInt
  | .vmul _ o => o.et.isInt
  | .vmulh _ o => o.et.isInt
  | .vmulhu _ o => o.et.isInt
  | .vand _ o => o.et.isInt
  | .vor _ o => o.et.isInt
  | .vxor _ o => o.et.isInt
  | .vsll _ o => o.et.isInt
  | .vsrl _ o => o.et.isInt
  | .vsra _ o => o.et.isInt
  | .vmin _ o => o.et.isInt
  | .vmax _ o => o.et.isInt
  | .vminu _ o => o.et.isInt
  | .vmaxu _ o => o.et.isInt
  | .vsadd _ o => o.et.isInt
  | .vssub _ o => o.et.isInt
  | .vfadd _ o => isVfpType o.et
  | .vfsub _ o => isVfpType o.et
  | .vfmul _ o => isVfpType o.et
  | .vfma _ o _ => isVfpType o.et
  | .vfmin _ o => isVfpType o.et
  | .vfmax _ o => isVfpType o.et
  | .vfabs _ _ _ _ et => isVfpType et
  | .vfneg _ _ _ _ et => isVfpType et
  | .vext _ _ _ et ix => ix.toNat < et.count
  | .vins _ _ _ et ix => ix.toNat < et.count
  | .vredadd _ _ _ _ et => et.isInt
  | .vredmin _ _ _ _ et => et.isInt
  | .vredmax _ _ _ _ et => et.isInt
  | .vfredadd _ _ _ _ et => isVfpType et
  | .vcmpEq _ o => o.et.isInt
  | .vcmpNe _ o => o.et.isInt
  | .vcmpLt _ o => o.et.isInt
  | .vcmpLe _ o => o.et.isInt
  | .vcmpLtu _ o => o.et.isInt
  | .vcmpLeu _ o => o.et.isInt
  | .vcmpFeq _ o => isVfpType o.et
  | .vcmpFlt _ o => isVfpType o.et
  | .vcmpFle _ o => isVfpType o.et
  | .vcmpFunord _ o => isVfpType o.et
  | .vcvt _ o => cvtSameOk o
  | .vcvtw _ o => cvtWideOk o
  | .vcvtn _ o => cvtNarrowOk o
  | .qpack _ o => qTypeOk o o.vs1
  | .qunpack _ o => qTypeOk o o.vd && o.rm ≠ .stochastic
  | .mts _ _ r => specWritable r
  | .dispatch _ _ _ _ _ _ ken knot => ken || knot = 0
  | .kwait _ _ _ _ rs3 nw _ _ => !nw || rs3 = 0
  | _ => true

/-- Does a command carry bytes that fit where it takes them? -/
def Instr.payloadWellFormed : Instr → Bool
  | .registerWrite _ _ data => 1 ≤ data.length && data.length ≤ 8
  | .dramPartialWrite _ _ off data _ => 1 ≤ data.length && off.val + data.length ≤ 64 && data.length ≠ 64
  | .bobbinArrival _ msgs => msgs.all fun m => Machine.messageLen m.data.length
  | .remoteBobbinMessage _ _ data => Machine.messageLen data.length
  | _ => true

/-- Is a command well formed? -/
def Instr.wellFormed (i : Instr) : Bool := i.nibWellFormed && i.payloadWellFormed

end Sys2Proof
end

