-- ==== Sys2Proof/Machine/NibWord.lean ====
section
/-!
DEFINITION. ILLEGAL_INSTRUCTION: a word that is no instruction raises ILLEGAL and nothing of it takes effect (R153 of spec/).
-/
namespace Sys2Proof.Machine

/-- Is a word a reserved encoding whatever the state: reserved in class, opcode, zero field or listed code? -/
def reservedWord (n : CoreId) (w : W64) : Bool :=
  match decodeNib n w with
  | some i => !i.nibWellFormed
  | none => true

/-- ILLEGAL_INSTRUCTION: core n meets the word w. A word that is an instruction has that instruction's command, and nothing here. -/
def execIllegalInstruction (n : CoreId) (w : W64) (s : State) : Out :=
  .next (if reservedWord n w then s.nibStep n fun s _ => s.illegal n else s)

end Sys2Proof.Machine
end

