-- ==== Sys2Proof/Machine/Pool.lean ====
section
/-!
DEFINITION. The rounding entropy pool: its registers and the grant of a reservation (R217, R218, R221, R228, R229, R232).
-/
namespace Sys2Proof.Machine

/-- LEND, SEED and POS stored. -/
def State.poolFields (s : State) (c : Nat) (f : PoolFields) : State :=
  (((s.setFld (.poolCtrl c) .LEND f.lend.toNat).setFld (.poolSeed c) .S23 f.s23.toNat).setFld (.poolSeed c) .S31
    f.s31.toNat).setFld (.poolPos c) .POS f.pos.toNat

/-- The LEND bits held by the other pools that are enabled or disabling. -/
def State.lentElsewhere (s : State) (c : Nat) : Nat :=
  allContexts.foldl (fun m x => if x ≠ c && s.flag (.poolCtrl x) .ENABLE then m ||| s.fld (.poolCtrl x) .LEND else m) 0

/-- Is the second generator of link l in use for a link test: its pair enabled in LINK.PG (R389)? -/
def State.genTesting (s : State) (l : Nat) : Bool := s.flag (.linkPg (l / 8) (l % 8) 1) .ENABLE

/-- POOL_ENABLE: LEND, SEED and POS are applied first, then judged; an enabled or disabling pool keeps them (R228, R229). -/
def State.poolEnable (s : State) (c : Nat) (f : PoolFields) : State :=
  let err := fun (s : State) => s.setFlag .poolStatus .CFG_ERR true
  if s.flag (.poolCtrl c) .ENABLE then
    let t := s.poolFields c f
    if t.reg (.poolCtrl c) = s.reg (.poolCtrl c) && t.reg (.poolSeed c) = s.reg (.poolSeed c) && t.reg (.poolPos c) = s.reg (.poolPos c)
    then s else err s
  else
    let s := s.poolFields c f
    if f.lend = 0 || f.lend.toNat &&& s.lentElsewhere c ≠ 0 || (List.range 32).any fun l => f.lend.getLsbD l && s.genTesting l
    then err s else s.setFlag (.poolCtrl c) .ENABLE true

def execPoolEnable (c : Ctx) (f : PoolFields) (s : State) : Out := .next (s.poolEnable c f)

/-- POOL_DISABLE: the pool is disabling until the requests before the write are granted. -/
def State.poolDisable (s : State) (c : Nat) : State :=
  if s.flag (.poolCtrl c) .ENABLE then s.setFlag (.poolCtrl c) .DISABLING true else s

def execPoolDisable (c : Ctx) (s : State) : Out := .next (s.poolDisable c)

/-- POOL_DISABLED: with no request left, a disabling pool is disabled and releases its generators. -/
def execPoolDisabled (c : Ctx) (s : State) : Out :=
  .next (if s.flag (.poolCtrl c) .DISABLING && !(s.poolQ.any fun q => q.ctx = c.val) then
    (s.setFlag (.poolCtrl c) .ENABLE false).setFlag (.poolCtrl c) .DISABLING false else s)

/-- A run of draws handed to who asked for it. -/
def State.giveDraws (s : State) (u : PoolUser) (r : DrawRun) : State :=
  match u with
  | .nib n =>
    let k := s.core n
    if k.wait = .pool then s.setCore n { k with wait := .none, draws := k.draws ++ [r] } else s
  | .tamb i => s.setTamb i { s.tambOf i with cur := (s.tambOf i).cur.map fun x => { x with draws := some r } }
  | .feed i => s.setFeedCh i { s.feedCh i with cur := (s.feedCh i).cur.map fun x => { x with draws := some r } }

/-- POOL_GRANT: the request at the head of the home's queue takes the run at POS, and POS advances by its length. -/
def execPoolGrant (s : State) : Out :=
  .next (match s.poolQ with
    | [] => s
    | q :: qs =>
      let r : DrawRun :=
        { s31 := s.fld (.poolSeed q.ctx) .S31, s23 := s.fld (.poolSeed q.ctx) .S23, pos := s.fld (.poolPos q.ctx) .POS,
          left := q.count }
      (({ s with poolQ := qs }.setFld (.poolPos q.ctx) .POS (r.pos + q.count)).giveDraws q.user r))

end Sys2Proof.Machine
end

