-- ==== Sys2Proof/Machine/Slots.lean ====
section
/-!
DEFINITION. The commands of slots: prefetch, start, frames out and in, MISSED, and the end (R59, R249, R250, R286 to R289, R371,
R372, R377 to R387, R393, R401, R402 of spec/).
-/
namespace Sys2Proof.Machine

/-! ### Before the slot (R379, R383) -/

/-- The prefetch of a slot's run: its entry, or the stream error. A run that a MISSED came for already tells its own port now that its
role is known; a HEAD, which receives nothing, runs. -/
def State.fetchStream (s : State) (r : SlotRun) : State :=
  match s.prefetch r.ctx r.e with
  | (s, .error st) => s.streamError r st
  | (s, .ok t) =>
    let r := { r with stream := some t, missed := r.missed && !(r.e.mode = 2 && t.role = 1) }
    if r.missed then (s.setSlotRun r).relayMissed r else s.setSlotRun r

/-- STREAM_PREFETCH: the machine reads the slot's stream entry, once per use, 4,000 ns before the slot or at the boundary. -/
def execStreamPrefetch (c : Ctx) (ix : EntryIx) (rerun : Bool) (s : State) : Out :=
  let i := ix.toNat
  .next (match s.slotAt c i with
    | none => s
    | some e =>
      if e.kind ≠ 0 || !s.slotDue c i e rerun || !s.reached (e.startNs - 4000) then s else
      let r := (s.slotRun c i).getD (freshRun c i e none)
      if r.begun || r.stream.isSome then s else s.fetchStream r)

/-! ### The slot's first frame (R59, R377, R387) -/

/-- SLOT_START: the slot begins on a LIVE port, is held by a relock, or is missed at once behind a held one. -/
def execSlotStart (c : Ctx) (ix : EntryIx) (rerun : Bool) (s : State) : Out :=
  let i := ix.toNat
  .next (match s.slotAt c i with
    | none => s
    | some e =>
      if !s.slotDue c i e rerun || !s.reached e.startNs then s else
      let known := s.slotRun c i
      if e.kind = 0 && !(known.any fun r => r.stream.isSome) then s else
      let r := known.getD (freshRun c i e none)
      if r.begun || r.held || r.missed then s
      else if !s.live e.port then s.dropSlotRun c i
      else if s.slots.any fun x => x.held && x.e.port = e.port then (s.setSlotRun { r with missed := true }).tellMissed r
      else if r.sends && s.relocking e.port then s.setSlotRun { r with held := true }
      else s.beginSlot r e.frame0)

/-! ### Frames that leave (R370, R372, R380, R386) -/

/-- The run that sends on port p. -/
def State.sender (s : State) (p : Nat) : Option SlotRun :=
  s.slots.find? fun r => r.e.port = p && r.sends && r.begun && !r.missed && s.ctxLive r.ctx

/-- The frame of the run's traffic that leaves in frame f. -/
def State.slotFrame (s : State) (r : SlotRun) (f : Nat) : Option Nat :=
  if f < s.sendStart r || r.e.frameEnd ≤ f || (r.forwards && r.rx.isNone) then none else some (f - s.sendStart r)

/-- A frame of slot traffic of run r on link l; data that are not there make the slot missed, and a changed entry leaves them
unspecified. -/
def State.sendData (s : State) (l f k : Nat) (r : SlotRun) (staged : Bool) : State :=
  let n := s.portSize r.e.port
  let total := r.beats
  let js := frameBeats n ((s.portLinks r.e.port).idxOf l) k total
  let bs := js.map fun j => (r.beat j).map (tagBeat n total j)
  if js = [] then s.send (.frame l 0 f 0 0 (s.count % 256) [])
  else if !staged || bs.any Option.isNone then (s.setSlotRun { r with missed := true }).tellMissed r
  else
    let x := if s.streamChanged r then s.spoilBeats (bs.filterMap id) else (s, bs.filterMap id)
    x.1.send (.frame l 1 f (s.htag r.ctx) r.e.binding (s.count % 256) x.2)

/-- FRAME_DEPARTURE: frame f of link l; t3 is the stamp of a REPLY, `staged` whether the frame's slot data is there. Frame 0 is
the boundary's own; a frame that would cross the next boundary is not sent. -/
def execFrameDeparture (l : LinkId) (f : BitVec 20) (t3 : W64) (staged : Bool) (s : State) : Out :=
  let f := f.toNat
  .next (match s.portOfLink l with
    | none => s
    | some p =>
      let idle := fun (s : State) => s.send (.frame l 0 f 0 0 (s.count % 256) [])
      if (s.link l).relock.isSome || (s.strokeCounts && s.periodUs * 1000 < 32 * (f + 1)) then s
      else if s.portIs p = 2 then s.send (.frame l 4 f 0 0 (s.count % 256) [])
      else if s.portIs p = 3 || s.portIs p = 5 then idle s
      else if !s.live p || (f = 0 && s.strokeState ≠ 0) then s
      else if f = 32 && s.strokeState ≠ 0 then
        match (s.link l).t2 with
        | some t2 => s.send (.frame l 3 f 0 0 (s.count % 256) (plainBeats (toBytes 8 t2.toNat ++ toBytes 8 t3.toNat)))
        | none => idle s
      else match s.sender p with
        | none => idle s
        | some r => match s.slotFrame r f with
          | none => idle s
          | some k => s.sendData l f k r staged)

/-! ### Frames that arrive (R371, R380, R382, R385, R401) -/

/-- A run that receives on port p, begun or held by a relock of its own port. -/
def State.receiver (s : State) (p : Nat) (q : SlotRun → Bool) : Option SlotRun :=
  s.slots.find? fun r => r.fromPort = p && r.receives && (r.begun || r.held) && s.ctxLive r.ctx && q r

/-- Does an armed image have a receive slot on port p with a frame's HTAG and BINDING (R382)? -/
def State.matched (s : State) (p : Nat) (htag binding : Nat) : Bool :=
  (s.contextsOn p).any fun c => s.htag c = htag && (s.image c).slots.zipIdx.any fun x =>
    x.1.binding = binding && (if x.1.mode = 2 then x.1.inPort = p && ((s.slotRun c x.2).bind SlotRun.role) ≠ some 1
      else x.1.mode = 1 && x.1.port = p)

/-- A run of slot r missed by what its port brings: a hop sends MISSED on. -/
def State.missRun (s : State) (r : SlotRun) : State :=
  if r.missed then s else (s.setSlotRun { r with missed := true }).relayMissed r

/-- The beats of a frame added to a run: frame k of the slot is the one k frames after the first that came. -/
def State.takeFrame (s : State) (l f : Nat) (r : SlotRun) (beats : List FrameBeat) : State :=
  let n := s.portSize r.fromPort
  let li := (s.portLinks r.fromPort).idxOf l
  let k := f - r.rx.getD f
  let r := beats.foldl (fun (r : SlotRun) b =>
    let j := k * 46 * n + b.pos.val * n + li
    { r with got := smSet (fun _ => []) r.got j (toBytes 64 b.data.toNat),
             lasts := if b.last then r.lasts ++ [j] else r.lasts,
             msgs := if b.start then r.msgs ++ [(j, b.index.toNat, 16 * (b.lenM1.toNat + 1))] else r.msgs }) { r with rx := some (r.rx.getD f) }
  s.setSlotRun r

/-- The first line of a buddy epoch (R287): the area's header is read, and the copy it does not name is taken. -/
def State.startEpoch (s : State) (p c : Nat) (b : BuddyStart) : State :=
  let h := s.checkRead c b.dst.toNat 64
  let copy := match h with
    | some x => if fieldAt x 0 4 = 0x59444442 then 1 - fieldAt x 4 1 % 2 else 0
    | none => 0
  s.setRecv p c { active := true, dst := b.dst, copy := copy, total := b.total.toNat, landed := 0, epoch := b.epoch.toNat,
                  snap := b.snap.toNat, x := b.x.toNat, y := b.y.toNat, sctx := b.sctx.val, bad := h.isNone }

/-- DATA_FRAME: frame f of the far end on link l; `buddy` is what the first line of a buddy epoch tells. A lost frame damages the
slot that receives on the port; one that matches no receive slot of an armed image is counted. -/
def execDataFrame (l : LinkId) (f : BitVec 20) (htag binding : W16) (beats : List FrameBeat) (buddy : Option BuddyStart) (lost : Bool)
    (s : State) : Out :=
  .next (match s.portOfLink l with
    | none => s
    | some p =>
      if !s.live p || (s.link l).relock.isSome then s
      else if lost then
        let s := (s.satFld (.portCount p) .FRAMES_LOST 1).satFld (linkFecReg l) .UNCORR 1
        match s.receiver p fun _ => true with
        | some r => s.missRun r
        | none => s
      else match s.receiver p fun r => r.e.binding = binding.toNat && s.htag r.ctx = htag.toNat with
        | none => if s.matched p htag.toNat binding.toNat then s else s.addFld (.portCount p) .UNMATCHED 1
        | some r =>
          if r.missed then s else
          let s := match buddy with
            | some b => if r.e.kind = 2 then s.startEpoch p r.ctx b else s
            | none => s
          s.takeFrame l f.toNat r beats)

/-- MISSED: the sender will not send the slot; it is missed, whether or not it has begun. One that comes once the slot is over finds it
ended (R381). -/
def execMissed (p : PortId) (binding : W16) (start : BitVec 20) (htag : W16) (s : State) : Out :=
  let fits := fun (c : Nat) (e : SlotEntry) =>
    e.binding = binding.toNat && e.frame0 = start.toNat && s.htag c = htag.toNat && (if e.mode = 2 then e.inPort = p.val else e.mode = 1 && e.port = p)
  let due := allContexts.flatMap fun c => ((s.image c).slots.zipIdx.filter fun x => fits c x.1 && s.slotDue c x.2 x.1 true).map fun x => (c, x.2, x.1)
  .next (match due with
    | [] => s
    | x :: _ =>
      let known := s.slotRun x.1 x.2.1
      if !s.live p || !s.canSymbol p || (known.isNone && s.reached (x.2.2.startNs + x.2.2.lenNs)) then s else
      let r := known.getD (freshRun x.1 x.2.1 x.2.2 none)
      if r.role = some 1 then s else s.missRun r)

/-! ### The end of the slot (R250, R288, R380, R381, R385, R402) -/

/-- Did every beat of a number of beats come? -/
def SlotRun.hasBeats (r : SlotRun) (n : Nat) : Bool := (List.range n).all fun j => smGet (fun _ => []) r.got j ≠ []

/-- Did everything come that the far end sends: every beat of a stream's wire form; of messages or lines, whose number the slot does not
tell, every beat up to the last of each of the n links (Table 12-3)? -/
def SlotRun.complete (r : SlotRun) (n : Nat) : Bool :=
  if r.e.kind = 0 then r.hasBeats ((r.wireBytes + 63) / 64) else
  let total := r.got.foldl (fun m x => max m (x.1 + 1)) 0
  r.hasBeats total && (List.range total).all fun j => j + n < total || r.lasts.contains j

/-- The messages a bobbin slot brought: far bobbin and bytes. -/
def SlotRun.messages (r : SlotRun) : List (Nat × List Byte) :=
  r.msgs.filterMap fun m => (r.gotBytes (64 * m.1) m.2.2).map fun b => (m.2.1, b)

/-- A slot that was missed, at this end. -/
def State.slotMissed (s : State) (r : SlotRun) : State :=
  let c := r.ctx
  let s := match r.e.kind with
    | 1 => r.messages.foldl (fun (s : State) (m : Nat × List Byte) =>
        let f := s.freeNat 1
        if f.1 = 1 then f.2.remoteMessage c m.1 m.2 else f.2) s
    | 2 =>
      let e := s.epochOf c
      (if r.e.mode = 0 && r.begun && e.active then s.setEpoch c { e with sent := e.sent - 64 * r.out.length } else s).slotLeaves r
    | _ => s.slotLeaves r
  let s := ((s.streamStatus r 0x18).satFld (.portCount r.e.port) .SLOTS_MISSED 1).addFld (.linkwStat c) .MISSED 1
  { s with stroke := { s.stroke with missedNow := s.stroke.missedNow ++ [(c, r.idx)] } }.vfEvent c 6

/-- STATUS = OK, then the knot. -/
def State.streamDone (s : State) (r : SlotRun) (t : StreamEntry) : State :=
  let s := s.streamStatus r 0
  if t.ken then s.arrive r.ctx t.knot 1 else s

/-- A slot that ran to its end. -/
def State.slotDone (s : State) (r : SlotRun) : State :=
  let c := r.ctx
  match r.e.kind, r.stream with
  | 0, some t => match r.target t with
    | none => s.streamDone r t
    | some a =>
      match (r.groups t).foldl (fun (acc : State × Bool) g =>
          let w := acc.1.linkWrite c (a + g.1) (g.2.getD [])
          (w.1, acc.2 && w.2)) (s, true) with
      | (s, true) => s.streamDone r t
      | (s, false) => s.streamError r (some 0x11)
  | 1, _ => if r.e.mode = 1 then r.messages.foldl (fun s m => s.remoteMessage c m.1 m.2) s else s
  | 2, _ =>
    if r.e.mode = 1 then
      let e := s.recvOf r.e.port c
      if !e.active || e.bad then s else
      let w := (r.lines e).foldl (fun (acc : State × Bool) x =>
        let y := acc.1.linkWrite c x.1 x.2
        (y.1, acc.2 && y.2)) (s, true)
      w.1.setRecv r.e.port c { e with landed := e.landed + 64 * r.got.length, bad := !w.2 }
    else
      let e := s.epochOf c
      let s := if e.active then s.feedBeats e.ch r.out.length else s
      if e.active && e.sent = e.total then s.setFld (.feedwBuddy c) .STATE 2 else s
  | _, _ => s

/-- Does a run end missed: held, marked, or without all its data? A hop must also have forwarded everything by S + L. -/
def State.endsMissed (s : State) (r : SlotRun) : Bool :=
  let late := r.forwards && r.e.frameEnd < s.sendStart r + s.framesFor r
  r.missed || r.held || (r.receives && !r.complete (s.portSize r.fromPort)) || late

/-- SLOT_END: at S + L the slot completes or is missed; of a context in reset, what was written stays and no STATUS is written (R402). What
a slot brought whose entry was changed is unspecified. -/
def execSlotEnd (c : Ctx) (ix : EntryIx) (s : State) : Out :=
  .next (match s.slotRun c ix.toNat with
    | none => s
    | some r =>
      if !s.reached (r.e.startNs + r.e.lenNs) then s else
      let x := if s.streamChanged r then s.spoilRun r else (s, r)
      let s := x.1.dropSlotRun c ix.toNat
      let r := x.2
      if !s.ctxLive c then (if r.begun then s.slotLeaves r else s)
      else if !(r.begun || r.held || r.missed) then s
      else if s.endsMissed r then
        let s := if r.missed then s else if r.held then s.tellMissed r else s.relayMissed r
        s.slotMissed r
      else s.slotDone r)

end Sys2Proof.Machine
end

