-- ==== Sys2Proof/Machine/RegView.lean ====
section
/-!
DEFINITION. What a BAR0 read returns: the registers, the fields that mirror units and the permanent store, the side effects of a
read, and the faces of the functions (R8, R10 to R13, R15, R27, R35, R406, R425, R437, R465 of spec/).
-/
namespace Sys2Proof.Machine

/-! ### Mirrors of units -/

/-- NIB.CORE.STATE (Table 4-10). -/
def NibCore.code (k : NibCore) : Nat :=
  match k.st with
  | .off => 0
  | .idle => 1
  | .running => if k.handler then 4 else 2
  | .waiting => 3
  | .faulted => 5
  | .disabled => 6
  | .failed => 7

/-- QUILL.HART.STATE (Table 3-12). -/
def HartStatus.code : HartStatus → Nat
  | .off => 0
  | .running => 1
  | .wfi => 2
  | .faulted => 3
  | .disabled => 4
  | .failed => 5

/-- A word with several fields laid over it: (hi, lo, value). -/
def overlay (w : W64) (l : List (Nat × Nat × Nat)) : W64 := l.foldl (fun w f => setBits w f.1 f.2.1 f.2.2) w

/-- A bit for each of the n indices that p holds of. -/
def bitsWhere (n : Nat) (p : Nat → Bool) : Nat := ((List.range n).map fun i => if p i then 2 ^ i else 0).sum

/-- Does logical array a of tile t run ballast (R196)? -/
def State.ballasts (s : State) (t a : Nat) : Bool :=
  s.fld (.tambBallast t) .LEVEL ≠ 0 && s.ballastIdle t a

/-- TAMB.ARRAY: the throttle level is that of the owner's class (R195). -/
def State.viewArray (s : State) (t a : Nat) : W64 :=
  let r := Reg.tambArray t a
  let k := s.tambOf (16 * t + a)
  let st := s.fld r .STATE
  let phys := if st = 6 || 17 ≤ s.physOf 1 t a then 0 else s.physOf 1 t a
  let cls := bits (s.reg .pwrClass) (4 * s.fld r .CTX + 1) (4 * s.fld r .CTX)
  let lvl := if s.flag r .OWNED then nbits (s.fld .pwrState .LEVELS) (4 * cls + 3) (4 * cls) else 0
  overlay (s.reg r) [(55, 48, if s.ballasts t a then 2 else st), (44, 40, phys), (36, 32, k.queue.length), (31, 28, lvl)]

/-- TAMB.BALLAST.RUNNING, by physical array. -/
def State.ballastRunning (s : State) (t : Nat) : Nat :=
  bitsWhere 17 fun p =>
    (List.range 16).any (fun a => s.physOf 1 t a = p && s.ballasts t a) ||
    (s.fld (.tambBallast t) .LEVEL ≠ 0 && s.start.passed.any (6 ≤ ·) && s.spareArray t p)

/-- FEED.CH: STATE, PRIO and TRIG of the current descriptor. -/
def State.viewChannel (s : State) (t n : Nat) : W64 :=
  let k := s.feedCh (64 * t + n)
  let cur := match k.cur with
    | none => (0, 0, 0)
    | some u =>
      (if u.running || u.err.isSome then 2 else 1, u.priority, u.d.trig)
  overlay (s.reg (.feedCh t n)) [(55, 48, cur.1), (47, 46, cur.2.1), (44, 40, k.queue.length), (39, 36, k.doorbells), (34, 32, cur.2.2)]

/-- FILET.UNIT. -/
def State.viewFilet (s : State) (t : Nat) : W64 :=
  let u := s.filetOf t
  overlay 0 [(63, 48, s.redirFree), (44, 40, u.held.length), (36, 32, min 16 (u.queue.length + u.released.length)),
    (31, 24, if u.busy.isSome then 1 else 0)]

/-- FOLIO.UNIT. -/
def State.viewFolio (s : State) (t : Nat) : W64 :=
  let u := s.folioOf t
  overlay 0 [(43, 32, s.seqFree t), (28, 24, u.queue.length), (23, 16, if u.busy.isSome then 1 else 0)]

/-- FOLIOW.STAT: sequences open, and those TORN. -/
def State.viewSeqs (s : State) (c : Nat) : W64 :=
  let l := s.seqsOf c
  overlay 0 [(44, 32, l.length), (12, 0, (l.filter fun e => e.2.torn).length)]

/-- HOSTW.ID. -/
def State.viewId (s : State) (c : Nat) : W64 :=
  let f := s.fnOf (c + 1)
  overlay (s.reg (.hostwId c)) [(9, 9, if f.msixEnable && !f.funcMask then 1 else 0), (8, 8, if f.enabled then 1 else 0)]

/-- The record as the package reports it, once step 0 or a commit has made it valid (R583). -/
def State.shownRecord (s : State) : List Byte := if s.flag .idPosition .RECORD_VALID then s.recordBytes else []

/-- REC.STATUS: the straps as step 0 read them (R581). -/
def State.viewRecStatus (s : State) : W64 :=
  match s.straps with
  | some p => overlay (s.reg .recStatus) [(15, 12, p.1), (11, 10, p.2), (9, 9, 1)]
  | none => s.reg .recStatus

/-- DRAM lines poisoned in a tile. -/
def State.poisonCount (s : State) (t : Nat) : Nat := (s.poison.filter fun e => tileOfPa (64 * e.1) = t).length

/-- What a register reads as: its own bits, with the fields that mirror units and the permanent store. -/
def State.view (s : State) (r : Reg) : W64 :=
  match r with
  | .nibCore t n => overlay (s.reg r) [(55, 48, (s.core (8 * t + n)).code), (47, 0, (s.core (8 * t + n)).pc.toNat)]
  | .quillHart d h => overlay (s.reg r) [(55, 48, (s.hartOf (32 * d + h)).st.code)]
  | .tmemPoison t => BitVec.ofNat 64 (s.poisonCount t)
  | .tambArray t a => s.viewArray t a
  | .tambBallast t => overlay (s.reg r) [(20, 4, s.ballastRunning t)]
  | .bobState t l => overlay (s.reg r) [(44, 32, (s.bobbin (256 * t + l)).queue.length)]
  | .tbobFree t => overlay 0 [(48, 32, s.poolLargest t), (16, 0, s.poolFree t)]
  | .feedCh t n => s.viewChannel t n
  | .feedTimer _ => BitVec.ofNat 64 (s.time % 2 ^ 32)
  | .filetUnit t => s.viewFilet t
  | .filetwTables c => BitVec.ofNat 64 (bitsWhere 64 fun i => (s.tableOf (64 * c + i)).installed)
  | .filetwPaused c => BitVec.ofNat 64 (bitsWhere 64 fun i => (s.tableOf (64 * c + i)).paused)
  | .folioFree t => overlay (s.reg r) [(15, 0, (s.folioOf t).free.length)]
  | .folioUnit t => s.viewFolio t
  | .folioQuota c => overlay (s.reg r) [(52, 32, s.folioUsed c)]
  | .foliowStat c => s.viewSeqs c
  | .hostwId c => s.viewId c
  | .startReport => BitVec.ofNat 64 s.readyMissing
  | .stwBoots => BitVec.ofNat 64 s.perm.boots.toNat
  | .stwDefectCnt =>
    overlay 0 [(31, 31, if 4096 ≤ s.perm.defects.length then 1 else 0), (12, 0, s.perm.defects.length)]
  | .stwDefect i => s.perm.defects.getD i 0
  | .recStatus => s.viewRecStatus
  | .recHash => if s.shownRecord = [] then 0 else s.recordHash
  | .recData i => BitVec.ofNat 64 (ofBytes ((s.shownRecord.drop (8 * i)).take 8))
  | _ => s.reg r

/-! ### The faces of the functions (R406, R425, R437) -/

/-- Does the register belong to the MSI-X table or PBA of a VF, which the PF does not see (R406)? -/
def Reg.vfOnly : Reg → Bool
  | .vfMsixAddr _ _ => true
  | .vfMsixData _ _ => true
  | .vfPba _ _ => true
  | _ => false

/-- The BAR0 offset that offset `off` of a function's BAR0 stands for; none beyond a VF's window. -/
def barOffset (f off : Nat) : Option Nat :=
  if f = 0 then some off else if off < 0x10000 then some (0x3800000 + (f - 1) * 0x10000 + off) else none

/-- The register that a function finds at a 64-bit word, while its block is readable. -/
def State.regFor (s : State) (f a : Nat) : Option Reg :=
  if s.start.passed.isNone && 0x200000 ≤ a then none else
  match regAt a with
  | some r => if f = 0 && r.vfOnly then none else some r
  | none => none

/-- Does BAR0 of the function answer: powered, out of reset, enabled, and not in D3hot? -/
def State.barOpen (s : State) (f : Nat) : Bool := s.stewardUp && (f = 0 || (s.fnOf f).enabled) && s.fnAwake f

/-! ### A read (R11, R12) -/

/-- Does the machine advance or clear fields of the register that a writer sets: POOL.POS by grants (R218), STROKE.IMAGE.ARM by a
context reset (R470)? -/
def Reg.rwUpdated : Reg → Bool
  | .poolPos _ => true
  | .strokeImage _ => true
  | _ => false

/-- A 64-bit register that the machine updates: one with a field it writes (R12). -/
def Reg.latches (r : Reg) : Bool :=
  !r.is32 && (r.rwUpdated || r.fields.any fun f => f.acc = .RO || f.acc = .RC || f.acc = .W1C || f.acc = .W1S)

/-- Is the read an aligned 32-bit read of a low half? -/
def readsLow (a n : Nat) : Bool := a % 8 = 0 && n = 4

/-- Of the word at a, does a read at off take bytes of the high half alone? A read that goes on into the next register does so of the
first word (DEDUCED, notes/assumptions/85). -/
def readsHigh (a off : Nat) : Bool := a + 4 ≤ off

/-- The word of the register at offset a as a read at `off` sees it. -/
def State.readWord (s : State) (f a off : Nat) : W64 :=
  match s.regFor f a with
  | none => 0
  | some r =>
    match smGet (fun _ => none) s.latch r.addr with
    | some h => if readsHigh a off then setBits (s.view r) 63 32 h.toNat else s.view r
    | none => s.view r

/-- The side effects of a read on the register at offset a: a register with RC fields is cleared, and an aligned low-half read
latches the high half. -/
def State.readEffect (s : State) (f a off n : Nat) : State :=
  match s.regFor f a with
  | none => s
  | some r =>
    let s := if readsLow off n && r.latches then
        { s with latch := smSet (fun _ => none) s.latch r.addr (some (BitVec.ofNat 32 (bits (s.view r) 63 32))) }
      else s
    let rc := r.fields.foldl (fun m x => if x.acc = .RC then m ||| maskOf x.hi x.lo else m) 0
    if rc = 0 then s else s.setReg r (s.reg r &&& ~~~ rc)

/-- The offsets of the 64-bit words that [off, off + n) touches. -/
def touchedWords (off n : Nat) : List Nat := if off / 8 = (off + n - 1) / 8 then [off / 8 * 8] else [off / 8 * 8, off / 8 * 8 + 8]

/-- A BAR0 read of n bytes, 1 to 8, through a function. -/
def State.barRead (s : State) (f off n : Nat) : State :=
  if !s.stewardUp then s
  else if !s.barOpen f then s.unsupported f (.read n)
  else match barOffset f off with
    | none => s
    | some a =>
      let ws := touchedWords a n
      let bytes := ws.flatMap fun w => toBytes 8 (s.readWord f w a).toNat
      let s' := ws.foldl (fun s w => s.readEffect f w a n) s
      s'.send (.regData a n (ofBytes ((bytes.drop (a % 8)).take n)))

/-- READ_CLEAR_READ: a read of n + 1 bytes; every RC register it touches is cleared whole. -/
def execReadClearRead (f : FnId) (off : BitVec 26) (n : Fin 8) (s : State) : Out := .next (s.barRead f off.toNat (n + 1))

/-- LOW_HALF_READ: an aligned 32-bit read of the low half of a 64-bit word. -/
def execLowHalfRead (f : FnId) (word : BitVec 23) (s : State) : Out := .next (s.barRead f (8 * word.toNat) 4)

end Sys2Proof.Machine
end

