-- ==== Sys2Proof/Machine/RegWrite.lean ====
section
/-!
DEFINITION. BAR0 writes: which write acts, and what it does to the register it meets (R8 to R11, R16, R17, R228, R229, R406,
R425, R437, R595 of spec/). A register whose write starts an operation meets the operation its own command performs.
-/
namespace Sys2Proof.Machine

/-! ### Writes that start an operation -/

/-- A write of BOB.CFG. -/
def bobFieldsOf (w : W64) : BobFields :=
  { combine := bitAt w 62, remoteIn := bitAt w 61, hmode := bitAt w 60, owner := Fin.ofNat 16 (bits w 59 56),
    ctype := BitVec.ofNat 4 (bits w 55 52), expect := BitVec.ofNat 16 (bits w 47 32), depthM1 := BitVec.ofNat 12 (bits w 27 16),
    lenM1 := BitVec.ofNat 4 (bits w 11 8) }

def State.writeBob (s : State) (b : Nat) (w : W64) : State :=
  if bitAt w 63 then s.bobEnable b (bobFieldsOf w) else s.bobDisable b (bobFieldsOf w)

/-- A write of KNOT.CFG: w its merged fields, d the bits written. -/
def State.writeKnot (s : State) (k : Nat) (w d : W64) : State :=
  let f : KnotFields := { hmode := bitAt w 62, clear := bitAt d 61, owner := Fin.ofNat 16 (bits w 59 56) }
  if bitAt w 63 then s.knotEnable k f else s.knotDisable k f

/-- A write of POOL.CTRL, POOL.SEED or POOL.POS while the pool is enabled: a change is refused (R228). -/
def State.poolFrozen (s : State) (changes : Bool) : State :=
  if changes then s.setFlag .poolStatus .CFG_ERR true else s

def State.writePoolCtrl (s : State) (c : Nat) (w : W64) : State :=
  let lend := bits w 31 0
  if bitAt w 63 then
    s.poolEnable c { lend := BitVec.ofNat 32 lend, s23 := BitVec.ofNat 23 (s.fld (.poolSeed c) .S23),
                     s31 := BitVec.ofNat 31 (s.fld (.poolSeed c) .S31), pos := s.reg (.poolPos c) }
  else if s.flag (.poolCtrl c) .ENABLE then (s.poolFrozen (s.fld (.poolCtrl c) .LEND ≠ lend)).poolDisable c
  else s.setFld (.poolCtrl c) .LEND lend

/-- A write of POOL.SEED or POOL.POS. -/
def State.writePoolField (s : State) (c : Nat) (r : Reg) (data mask : W64) : State :=
  let t := s.writeCodes r data mask
  if s.flag (.poolCtrl c) .ENABLE then s.poolFrozen (t.reg r ≠ s.reg r) else t

/-- A write of QUILL.HART: w its merged fields; the write reaches RUN with the high half alone. -/
def State.writeHart (s : State) (h : Nat) (w mask : W64) : State :=
  s.hartWrite h (if bitAt mask 63 then some (bitAt w 63) else none)
    { bound := bitAt w 62, ctx := Fin.ofNat 16 (bits w 59 56), resetPc := BitVec.ofNat 48 (bits w 47 0) }

/-- A write of LINK.PG. -/
def State.writePg (s : State) (l g : Nat) (w : W64) : State :=
  s.pgWrite l { g := Fin.ofNat 2 g, enable := bitAt w 63, mode := BitVec.ofNat 3 (bits w 62 60), inv := bitAt w 59,
                path := BitVec.ofNat 2 (bits w 58 57), lanes := BitVec.ofNat 4 (bits w 55 52) }

/-- A write of PORT.CFG; the outside gives every link of the bundle signal. -/
def State.writePort (s : State) (p : Nat) (w : W64) : State :=
  let g := (bits w 39 38, bits w 37 36, bits w 34 32)
  if bitAt w 63 then s.portEnable p g true else s.portDisable p g

/-- A write of PORT.CTRL: its actions, the lowest bit first. -/
def State.writePortCtrl (s : State) (p : Nat) (d : W64) : State :=
  let s := if bitAt d 0 then s.ctrlRetrain p else s
  let s := if bitAt d 1 then s.ctrlDown p else s
  if bitAt d 2 then s.ctrlTest p else s

/-- A write of STROKE.CTRL: its actions, the lowest bit first. -/
def State.writeStrokeCtrl (s : State) (d : W64) : State :=
  let s := if bitAt d 1 then s.strokeStart else s
  let s := if bitAt d 2 then s.strokeStop else s
  if bitAt d 3 then s.voteSlip else s

/-- The step a write of START.CMD names; what a test of steps 1, 3, 4 and 6 finds is an operand of the step's own command, and here
nothing is found. -/
def State.writeStep (s : State) (k : Nat) : State :=
  match k with
  | 0 => s
  | 1 => s.stepLimits true
  | 2 => s.stepPower
  | 3 => s.stepMemtest []
  | 4 => s.stepUnittest [] false
  | 5 => s.stepMap
  | 6 => s.stepKat []
  | 7 => s.stepPorts
  | _ => s.stepRefused

def State.writeStart (s : State) (d : W64) : State :=
  let s := s.writeStep (bits d 3 0)
  if bitAt d 8 then s.armFound else s

/-- A write of CTXW.CMPL. -/
def State.writeCmpl (s : State) (c : Nat) (w : W64) : State :=
  if bitAt w 63 then s.ringLock c (bits w 55 52) (bits w 47 11) else s.ringUnlock c (bits w 55 52) (bits w 47 11)

/-- A write of LINKW.STREAMS. -/
def State.writeStreams (s : State) (c : Nat) (w : W64) : State :=
  if bitAt w 63 then s.streamsLock c (bits w 47 15) else s.streamsUnlock c (bits w 47 15)

/-- A write of FOLIO.POOL. -/
def State.writeFolioPool (s : State) (t : Nat) (w : W64) : State :=
  if bitAt w 63 then s.folioEnable t (bits w 16 0) (bits w 47 32) else s.folioDisable t (bits w 16 0) (bits w 47 32)

/-- The fields of START.RUNLIM that a write covers. -/
def runlimFields (w mask : W64) : List (FName × Nat) :=
  (if bitAt mask 0 then [(.TILE_MHZ, bits w 15 4), (.SUSTAINED_W, bits w 31 16)] else []) ++
    if bitAt mask 32 then [(.PEAK_W, bits w 47 32)] else []

/-! ### One register written -/

/-- The bits of a register that a write can act on. -/
def Reg.writable (r : Reg) : W64 :=
  r.fields.foldl (fun m f => if f.acc = .RO || f.acc = .RC then m else m ||| maskOf f.hi f.lo) 0

/-- A write of `data` that covers the bits of `mask` (R595): w is the register as the write would leave its RW and LK fields, d
the bits written, with those of an unwritten half zero. -/
def State.writeReg (s : State) (r : Reg) (data mask : W64) : State :=
  let d := data &&& mask
  let w := (s.reg r &&& ~~~ mask) ||| d
  if mask &&& r.writable = 0 then s else
  match r with
  | .strokeCtrl => s.writeStrokeCtrl d
  | .strokeImage c => s.imageWrite c (bitAt w 63) (bits w 47 16)
  | .memInval => if bitAt d 63 then s.invalStart (bits d 51 48) else s
  | .quillHart i h => s.writeHart (32 * i + h) w mask
  | .nibCore t n => s.nibBind (8 * t + n) (bitAt w 63) (bits w 59 56)
  | .ctxwCmpl c => s.writeCmpl c w
  | .tambArray t a => s.arrayAlloc t a (bitAt w 63) (bits w 59 56)
  | .poolCtrl c => s.writePoolCtrl c w
  | .poolSeed c => s.writePoolField c r data mask
  | .poolPos c => s.writePoolField c r data mask
  | .bobCfg t l => s.writeBob (256 * t + l) w
  | .knotCfg t l => s.writeKnot (128 * t + l) w d
  | .tbobPool t => s.poolWrite t (bits w 48 32) (bits w 16 0)
  | .feedCh t n => s.feedAlloc t n (bitAt w 63) (bitAt w 62) (bits w 59 56)
  | .feedwDoorbell c => s.feedBell c (bits d 21 16) (bitAt d 5) (bits d 4 0)
  | .filetAlloc t => s.filetAlloc t (bits w 15 0)
  | .folioAlloc t => s.folioAlloc t (bits w 15 0)
  | .folioPool t => s.writeFolioPool t w
  | .linkPg i l g => s.writePg (8 * i + l) g w
  | .portCfg p => s.writePort p w
  | .portCtrl p => s.writePortCtrl p d
  | .linkwStreams c => if bitAt mask 63 then s.writeStreams c w else s.writeCodes r data mask
  | .hostwKnotDb c => s.knotDoorbell c (bits d 11 0) (bits d 63 32)
  | .vmapMap c i => s.vmapWrite c i w
  | .vecwArmed c k => s.arm (c + 1) k d
  | .pfvecArmed k => s.arm 0 k d
  | .pfMsixData _ => (s.writeCodes r data mask).sendHeld 0
  | .vfMsixData c _ => (s.writeCodes r data mask).sendHeld (c + 1)
  | .startCmd => s.writeStart d
  | .startRunlim => s.runlimWrite (runlimFields w mask)
  | .ctxrCtrl c => if bitAt d 31 then s.resetRequest c else s
  | .pwrCap => s.capWrite (bits w 47 32) (bits w 31 16)
  | .recCtrl => if bitAt d 0 then s.recordCommit else s
  | _ => s.writeCodes r data mask

/-! ### The write as the bus brings it -/

/-- The word at which a naturally aligned 32- or 64-bit write acts, its data and the bits it covers; none for any other (R11). -/
def writeLanes (a : Nat) (data : List Byte) : Option (Nat × W64 × W64) :=
  if data.length = 8 && a % 8 = 0 then some (a, BitVec.ofNat 64 (ofBytes data), maskOf 63 0)
  else if data.length = 4 && a % 8 = 0 then some (a, BitVec.ofNat 64 (ofBytes data), maskOf 31 0)
  else if data.length = 4 && a % 8 = 4 then some (a - 4, BitVec.ofNat 64 (ofBytes data * 2 ^ 32), maskOf 63 32)
  else none

/-- A BAR0 write through a function. -/
def State.barWrite (s : State) (f off : Nat) (data : List Byte) : State :=
  if !s.barOpen f then s else
  match barOffset f off with
  | none => s
  | some a =>
    match writeLanes a data with
    | none => s
    | some (a, d, m) =>
      match s.regFor f a with
      | none => s
      | some r => s.writeReg r d m

/-- REGISTER_WRITE: a write of some bytes at an offset of a function's BAR0. -/
def execRegisterWrite (f : FnId) (off : BitVec 26) (data : List Byte) (s : State) : Out := .next (s.barWrite f off.toNat data)

end Sys2Proof.Machine
end

