-- ==== Sys2Proof/Machine/RvFp.lean ====
section
/-!
DEFINITION. The arithmetic of the F and D extensions that Table 3-5 of spec/ names: IEEE 754 binary32 and binary64 with RISC-V's
five rounding modes and five flags. The rules are RISC-V's (PRESUMED, notes/assumptions/60).
-/
namespace Sys2Proof

def rvSingle : FFormat := { ebits := 8, mbits := 23, bias := 127, flush := false, noInf := false }
def rvDouble : FFormat := { ebits := 11, mbits := 52, bias := 1023, flush := false, noInf := false }

/-- A result: its bits, and the flags it raises: NX 1, UF 2, OF 4, DZ 8, NV 16. -/
structure FpRes where
  val : Nat
  flags : Nat
deriving DecidableEq, Repr

def fpOk (v : Nat) : FpRes := { val := v, flags := 0 }
/-- An invalid operation: the canonical NaN. -/
def FFormat.invalid (f : FFormat) : FpRes := { val := f.canonicalNan, flags := 16 }

/-! ### Rounding -/

/-- Does the magnitude grow by one: quotient a, remainder r of 2^k? Modes 0 RNE, 1 RTZ, 2 RDN, 3 RUP, 4 RMM. -/
def rvUp (rm : Nat) (neg : Bool) (a r k : Nat) : Bool :=
  match rm with
  | 0 => 2 ^ k < 2 * r || (2 * r = 2 ^ k && a % 2 = 1)
  | 2 => neg && r ≠ 0
  | 3 => !neg && r ≠ 0
  | 4 => 2 ^ k ≤ 2 * r
  | _ => false

/-- m × 2^e as a multiple of 2^q, and whether it is inexact. -/
def rvAt (rm : Nat) (neg : Bool) (m : Nat) (e q : Int) : Nat × Bool :=
  if q ≤ e then (scaleTo m e q, false) else
  let k := (q - e).toNat
  let a := m / 2 ^ k
  let r := m % 2 ^ k
  (if rvUp rm neg a r k then a + 1 else a, r ≠ 0)

/-- ±m × 2^e rounded into a format; tininess is detected after rounding. -/
def FFormat.rvEncode (f : FFormat) (rm : Nat) (neg : Bool) (m : Nat) (e : Int) : FpRes :=
  if m = 0 then fpOk (f.signed neg 0) else
  let q0 := log2Of m e - f.mbits
  let q := max q0 f.qmin
  let n := rvAt rm neg m e q
  if f.over n.1 q then
    let inf := rm = 0 || rm = 4 || (rm = 2 && neg) || (rm = 3 && !neg)
    { val := if inf then f.infBits neg else f.largestBits neg, flags := 5 }
  else
    let n0 := (rvAt rm neg m e q0).1
    let tiny := q0 < f.qmin && log2Of n0 q0 < f.qmin + f.mbits
    { val := f.signed neg (f.gridBits n.1 q), flags := (if n.2 then 1 else 0) + if n.2 && tiny then 2 else 0 }

/-- A value rounded into a format; an exact zero keeps its sign. -/
def FFormat.rvOf (f : FFormat) (rm : Nat) : FVal → FpRes
  | .nan => fpOk f.canonicalNan
  | .inf neg => fpOk (f.infBits neg)
  | .fin neg m e => f.rvEncode rm neg m e

/-! ### Operands -/

/-- Is the word a signalling NaN? -/
def FFormat.isSnan (f : FFormat) (w : Nat) : Bool := (f.decode w).isNan && !w.testBit (f.mbits - 1)

def FVal.isInf : FVal → Bool
  | .inf _ => true
  | _ => false

def FVal.isZero : FVal → Bool
  | .fin _ m _ => m = 0
  | _ => false

/-- The sign of a sum that is exactly zero: that of both operands, else − under RDN. -/
def zeroSum (rm : Nat) (a b : FVal) : FVal → FVal
  | .fin s m e => if m = 0 then .fin (if a.isZero && b.isZero && a.isNeg = b.isNeg then a.isNeg else rm = 2) 0 e else .fin s m e
  | v => v

/-- NV for a signalling NaN among the operands. -/
def FFormat.snans (f : FFormat) (ws : List Nat) : Nat := if ws.any f.isSnan then 16 else 0

/-! ### Operations -/

def FFormat.rvAdd (f : FFormat) (rm a b : Nat) : FpRes :=
  let x := f.decode a
  let y := f.decode b
  if x.isNan || y.isNan then { val := f.canonicalNan, flags := f.snans [a, b] }
  else if x.isInf && y.isInf && x.isNeg ≠ y.isNeg then FFormat.invalid f
  else f.rvOf rm (zeroSum rm x y (x.add y))

/-- A word with its sign changed. -/
def FFormat.flip (f : FFormat) (w : Nat) : Nat :=
  let top := 2 ^ (f.ebits + f.mbits)
  if w.testBit (f.ebits + f.mbits) then w - top else w + top

/-- a − b: a NaN is judged as it stands. -/
def FFormat.rvSub (f : FFormat) (rm a b : Nat) : FpRes := f.rvAdd rm a (f.flip b)

def FFormat.rvMul (f : FFormat) (rm a b : Nat) : FpRes :=
  let x := f.decode a
  let y := f.decode b
  if x.isNan || y.isNan then { val := f.canonicalNan, flags := f.snans [a, b] }
  else if (x.isInf && y.isZero) || (x.isZero && y.isInf) then FFormat.invalid f
  else f.rvOf rm (x.mul y)

/-- ±(a × b) ± c with one rounding; ∞ × 0 is invalid even with a quiet NaN for c. -/
def FFormat.rvFma (f : FFormat) (rm : Nat) (negProd negC : Bool) (a b c : Nat) : FpRes :=
  let x := f.decode a
  let y := f.decode b
  let z := if negC then (f.decode c).neg else f.decode c
  if (x.isInf && y.isZero) || (x.isZero && y.isInf) then FFormat.invalid f
  else if x.isNan || y.isNan || z.isNan then { val := f.canonicalNan, flags := f.snans [a, b, c] }
  else
    let p := if negProd then (x.mul y).neg else x.mul y
    if p.isInf && z.isInf && p.isNeg ≠ z.isNeg then FFormat.invalid f
    else f.rvOf rm (zeroSum rm p z (p.add z))

def FFormat.rvDiv (f : FFormat) (rm a b : Nat) : FpRes :=
  let x := f.decode a
  let y := f.decode b
  if x.isNan || y.isNan then { val := f.canonicalNan, flags := f.snans [a, b] }
  else if (x.isInf && y.isInf) || (x.isZero && y.isZero) then FFormat.invalid f
  else
    let neg := x.isNeg != y.isNeg
    match x, y with
    | .inf _, _ => fpOk (f.infBits neg)
    | _, .inf _ => fpOk (f.signed neg 0)
    | .fin _ m e, .fin _ n d =>
      if n = 0 then { val := f.infBits neg, flags := 8 } else
      let q := m * 2 ^ 128 / n
      let r := m * 2 ^ 128 % n
      f.rvEncode rm neg (2 * q + if r = 0 then 0 else 1) (e - d - 129)
    | _, _ => fpOk f.canonicalNan

def FFormat.rvSqrt (f : FFormat) (rm a : Nat) : FpRes :=
  match f.decode a with
  | .nan => { val := f.canonicalNan, flags := f.snans [a] }
  | .inf neg => if neg then FFormat.invalid f else fpOk a
  | .fin neg m e =>
    if m = 0 then fpOk a
    else if neg then FFormat.invalid f
    else
      let odd := e % 2 ≠ 0
      let n := (if odd then 2 * m else m) * 2 ^ 128
      let e' := (if odd then e - 1 else e) / 2 - 64
      let q := Nat.sqrt n
      f.rvEncode rm false (2 * q + if q * q = n then 0 else 1) (e' - 1)

/-- FMIN and FMAX: a NaN yields to a number; −0 is below +0. -/
def FFormat.rvMinMax (f : FFormat) (isMax : Bool) (a b : Nat) : FpRes :=
  let x := f.decode a
  let y := f.decode b
  let v := if x.isNan && y.isNan then f.canonicalNan
    else if x.isNan then b
    else if y.isNan then a
    else if isMax then (if x.below y then b else a)
    else if y.below x then b else a
  { val := v, flags := f.snans [a, b] }

/-- FSGNJ, FSGNJN, FSGNJX: the magnitude of a with a sign from b. -/
def FFormat.rvSgnj (f : FFormat) (kind a b : Nat) : Nat :=
  let sa := a.testBit (f.ebits + f.mbits)
  let sb := b.testBit (f.ebits + f.mbits)
  let s := if kind = 0 then sb else if kind = 1 then !sb else sa != sb
  f.signed s (a % 2 ^ (f.ebits + f.mbits))

/-- FEQ (kind 2), FLT (1) and FLE (0). -/
def FFormat.rvCmp (f : FFormat) (kind a b : Nat) : FpRes :=
  let x := f.decode a
  let y := f.decode b
  if x.isNan || y.isNan then { val := 0, flags := if kind = 2 then f.snans [a, b] else 16 }
  else
    let v := if kind = 2 then x.numEq y else if kind = 1 then x.lt y else x.lt y || x.numEq y
    fpOk (if v then 1 else 0)

/-- FCLASS. -/
def FFormat.rvClass (f : FFormat) (a : Nat) : Nat :=
  match f.decode a with
  | .nan => if f.isSnan a then 2 ^ 8 else 2 ^ 9
  | .inf neg => if neg then 1 else 2 ^ 7
  | .fin neg m _ =>
    if m = 0 then (if neg then 2 ^ 3 else 2 ^ 4)
    else if m < 2 ^ f.mbits then (if neg then 2 ^ 2 else 2 ^ 5)
    else if neg then 2 ^ 1 else 2 ^ 6

/-- A value to an n-bit integer; what is out of range, and NaN, is invalid and saturates (NaN to the largest). -/
def FFormat.rvToInt (f : FFormat) (rm n : Nat) (unsigned : Bool) (a : Nat) : FpRes :=
  let r := intRange n unsigned
  match f.decode a with
  | .nan => { val := wrapTo n r.2, flags := 16 }
  | .inf neg => { val := wrapTo n (if neg then r.1 else r.2), flags := 16 }
  | .fin neg m e =>
    let k := rvAt rm neg m e 0
    let i := if neg then -(k.1 : Int) else (k.1 : Int)
    if i < r.1 || r.2 < i then { val := wrapTo n (clampInt n unsigned i), flags := 16 }
    else { val := wrapTo n i, flags := if k.2 then 1 else 0 }

/-- An integer to a value. -/
def FFormat.rvFromInt (f : FFormat) (rm : Nat) (i : Int) : FpRes := f.rvEncode rm (i < 0) i.natAbs 0

/-- A value of one format in another. -/
def rvConvert (src dst : FFormat) (rm a : Nat) : FpRes :=
  match src.decode a with
  | .nan => { val := dst.canonicalNan, flags := src.snans [a] }
  | v => dst.rvOf rm v

/-- Rounded to odd: what narrowing uses before a second rounding. -/
def rvConvertOdd (src dst : FFormat) (a : Nat) : FpRes :=
  let r := rvConvert src dst 1 a
  if r.flags % 2 = 1 then { r with val := r.val ||| 1 } else r

/-! ### The 7-bit estimates -/

/-- 256 ÷ √(p ÷ d) to the nearest integer. -/
def nearRsqrt (p d : Nat) : Nat :=
  ((List.range 300).find? fun n => 4 * 65536 * d < (2 * n + 1) * (2 * n + 1) * p).getD 0

/-- The exponent and the fraction, below one, of a finite magnitude that is not zero. -/
def FFormat.normed (f : FFormat) (m : Nat) (e : Int) : Int × Nat :=
  (log2Of m e, m * 2 ^ (f.mbits - Nat.log2 m) - 2 ^ f.mbits)

/-- An estimate of the reciprocal square root to 7 bits. -/
def FFormat.rvRsqrt7 (f : FFormat) (a : Nat) : FpRes :=
  match f.decode a with
  | .nan => { val := f.canonicalNan, flags := f.snans [a] }
  | .inf neg => if neg then FFormat.invalid f else fpOk 0
  | .fin neg m e =>
    if m = 0 then { val := f.infBits neg, flags := 8 }
    else if neg then FFormat.invalid f
    else
      let n := f.normed m e
      let j := n.2 / 2 ^ (f.mbits - 6)
      let odd := n.1 % 2 ≠ 0
      let out := nearRsqrt ((2 * j + 129) * if odd then 2 else 1) 128 - 128
      let x := (if odd then -(n.1 + 1) / 2 else -n.1 / 2 - 1) + f.bias
      fpOk (x.toNat * 2 ^ f.mbits + out * 2 ^ (f.mbits - 7))

/-- An estimate of the reciprocal to 7 bits. -/
def FFormat.rvRec7 (f : FFormat) (rm a : Nat) : FpRes :=
  match f.decode a with
  | .nan => { val := f.canonicalNan, flags := f.snans [a] }
  | .inf neg => fpOk (f.signed neg 0)
  | .fin neg m e =>
    if m = 0 then { val := f.infBits neg, flags := 8 } else
    let n := f.normed m e
    let x := -n.1 - 1 + f.bias
    if (2 ^ f.ebits - 1 : Int) ≤ x then
      let inf := rm = 0 || rm = 4 || (rm = 2 && neg) || (rm = 3 && !neg)
      { val := if inf then f.infBits neg else f.largestBits neg, flags := 5 }
    else
      let j := n.2 / 2 ^ (f.mbits - 7)
      let out := (65536 + (2 * j + 257) / 2) / (2 * j + 257) - 128
      let sig := 2 ^ f.mbits + out * 2 ^ (f.mbits - 7)
      if 1 ≤ x then fpOk (f.signed neg (x.toNat * 2 ^ f.mbits + (sig - 2 ^ f.mbits)))
      else fpOk (f.signed neg (sig / 2 ^ (1 - x).toNat))

end Sys2Proof
end

