-- ==== Sys2Proof/Machine/RvInt.lean ====
section
/-!
DEFINITION. The integer instructions of a Quill hart: RV64I, M, Zba and Zbb on register values, and the expansion of C (Table 3-5
of spec/). The encodings and results are RISC-V's (PRESUMED, notes/assumptions/60).
-/
namespace Sys2Proof.Machine

/-! ### Fields of a 32-bit instruction -/

def rvRd (w : Nat) : XReg := BitVec.ofNat 5 (nbits w 11 7)
def rvRs1 (w : Nat) : XReg := BitVec.ofNat 5 (nbits w 19 15)
def rvRs2 (w : Nat) : XReg := BitVec.ofNat 5 (nbits w 24 20)
def rvF3 (w : Nat) : Nat := nbits w 14 12
def rvF7 (w : Nat) : Nat := nbits w 31 25

/-- A signed field of n bits as a 64-bit word. -/
def sx (n v : Nat) : W64 := BitVec.ofInt 64 (signedOf n v)

def immI (w : Nat) : W64 := sx 12 (nbits w 31 20)
def immS (w : Nat) : W64 := sx 12 (nbits w 31 25 * 32 + nbits w 11 7)
def immB (w : Nat) : W64 :=
  sx 13 (nbits w 31 31 * 4096 + nbits w 7 7 * 2048 + nbits w 30 25 * 32 + nbits w 11 8 * 2)
def immU (w : Nat) : W64 := sx 32 (nbits w 31 12 * 4096)
def immJ (w : Nat) : W64 :=
  sx 21 (nbits w 31 31 * 2 ^ 20 + nbits w 19 12 * 4096 + nbits w 20 20 * 2048 + nbits w 30 21 * 2)

/-! ### Arithmetic on n-bit numbers -/

/-- Leading and trailing zeros, and ones, of an n-bit number. -/
def leadingZeros (n v : Nat) : Nat := if v = 0 then n else n - 1 - Nat.log2 v
def trailingZeros (n v : Nat) : Nat := ((List.range n).find? fun i => v.testBit i).getD n
def onesOf (n v : Nat) : Nat := ((List.range n).filter fun i => v.testBit i).length

/-- v rotated right by k places of n. -/
def rotateRight (n v k : Nat) : Nat := (v / 2 ^ (k % n) + v * 2 ^ (n - k % n)) % 2 ^ n

/-- Division and remainder: by zero all ones and the dividend; the one overflow wraps. -/
def divOf (n : Nat) (unsigned : Bool) (a b : Nat) : Nat :=
  if b % 2 ^ n = 0 then 2 ^ n - 1 else wrapTo n ((intOf n unsigned a).tdiv (intOf n unsigned b))
def remOf (n : Nat) (unsigned : Bool) (a b : Nat) : Nat := wrapTo n ((intOf n unsigned a).tmod (intOf n unsigned b))

/-- The high n bits of a product. -/
def mulHigh (n : Nat) (ua ub : Bool) (a b : Nat) : Nat := wrapTo n (intOf n ua a * intOf n ub b / (2 : Int) ^ n)

/-- A register-register or register-immediate operation of OP on 64-bit values; none for a reserved encoding. -/
def rvAlu (f7 f3 : Nat) (a b : W64) : Option W64 :=
  let sh := b.toNat % 64
  let o := fun (v : Nat) => some (BitVec.ofNat 64 v)
  match f7, f3 with
  | 0x00, 0 => some (a + b)
  | 0x00, 1 => some (a <<< sh)
  | 0x00, 2 => o (if a.slt b then 1 else 0)
  | 0x00, 3 => o (if a.ult b then 1 else 0)
  | 0x00, 4 => some (a ^^^ b)
  | 0x00, 5 => some (a >>> sh)
  | 0x00, 6 => some (a ||| b)
  | 0x00, 7 => some (a &&& b)
  | 0x20, 0 => some (a - b)
  | 0x20, 5 => some (a.sshiftRight sh)
  | 0x20, 4 => some (~~~ (a ^^^ b))
  | 0x20, 6 => some (a ||| ~~~ b)
  | 0x20, 7 => some (a &&& ~~~ b)
  | 0x01, 0 => some (a * b)
  | 0x01, 1 => o (mulHigh 64 false false a.toNat b.toNat)
  | 0x01, 2 => o (mulHigh 64 false true a.toNat b.toNat)
  | 0x01, 3 => o (mulHigh 64 true true a.toNat b.toNat)
  | 0x01, 4 => o (divOf 64 false a.toNat b.toNat)
  | 0x01, 5 => o (divOf 64 true a.toNat b.toNat)
  | 0x01, 6 => o (remOf 64 false a.toNat b.toNat)
  | 0x01, 7 => o (remOf 64 true a.toNat b.toNat)
  | 0x05, 4 => some (if a.slt b then a else b)
  | 0x05, 5 => some (if a.ult b then a else b)
  | 0x05, 6 => some (if a.slt b then b else a)
  | 0x05, 7 => some (if a.ult b then b else a)
  | 0x10, 2 => some (b + a <<< 1)
  | 0x10, 4 => some (b + a <<< 2)
  | 0x10, 6 => some (b + a <<< 3)
  | 0x30, 1 => o (rotateRight 64 a.toNat (64 - sh))
  | 0x30, 5 => o (rotateRight 64 a.toNat sh)
  | _, _ => none

/-- A 32-bit result, sign-extended. -/
def word32 (v : Nat) : Option W64 := some (sx 32 v)

/-- An operation of OP-32. -/
def rvAlu32 (f7 f3 rs2 : Nat) (a b : W64) : Option W64 :=
  let x := a.toNat % 2 ^ 32
  let y := b.toNat % 2 ^ 32
  let sh := y % 32
  let unsignedA := BitVec.ofNat 64 x
  match f7, f3 with
  | 0x00, 0 => word32 (x + y)
  | 0x20, 0 => word32 (x + 2 ^ 32 - y)
  | 0x00, 1 => word32 (x * 2 ^ sh)
  | 0x00, 5 => word32 (x / 2 ^ sh)
  | 0x20, 5 => word32 (wrapTo 32 (signedOf 32 x / (2 : Int) ^ sh))
  | 0x01, 0 => word32 (x * y)
  | 0x01, 4 => word32 (divOf 32 false x y)
  | 0x01, 5 => word32 (divOf 32 true x y)
  | 0x01, 6 => word32 (remOf 32 false x y)
  | 0x01, 7 => word32 (remOf 32 true x y)
  | 0x04, 0 => some (b + unsignedA)
  | 0x10, 2 => some (b + unsignedA <<< 1)
  | 0x10, 4 => some (b + unsignedA <<< 2)
  | 0x10, 6 => some (b + unsignedA <<< 3)
  | 0x30, 1 => word32 (rotateRight 32 x (32 - sh))
  | 0x30, 5 => word32 (rotateRight 32 x sh)
  | 0x04, 4 => if rs2 = 0 then some (BitVec.ofNat 64 (x % 2 ^ 16)) else none
  | _, _ => none

/-- The one-operand instructions of OP-IMM with funct3 = 1, by their 12 bits. -/
def rvUnary (imm : Nat) (a : W64) : Option W64 :=
  let o := fun (v : Nat) => some (BitVec.ofNat 64 v)
  match imm with
  | 0x600 => o (leadingZeros 64 a.toNat)
  | 0x601 => o (trailingZeros 64 a.toNat)
  | 0x602 => o (onesOf 64 a.toNat)
  | 0x604 => some (sx 8 a.toNat)
  | 0x605 => some (sx 16 a.toNat)
  | _ => none

/-- OP-IMM. -/
def rvAluImm (w : Nat) (a : W64) : Option W64 :=
  let imm := immI w
  let f6 := nbits w 31 26
  let sh := BitVec.ofNat 64 (nbits w 25 20)
  match rvF3 w with
  | 1 => if f6 = 0 then rvAlu 0 1 a sh else rvUnary (nbits w 31 20) a
  | 5 =>
    if f6 = 0 then rvAlu 0 5 a sh
    else if f6 = 0x10 then rvAlu 0x20 5 a sh
    else if f6 = 0x18 then rvAlu 0x30 5 a sh
    else if nbits w 31 20 = 0x287 then
      some (BitVec.ofNat 64 (ofBytes ((toBytes 8 a.toNat).map fun b => if b = 0 then 0 else 0xFF)))
    else if nbits w 31 20 = 0x6B8 then some (BitVec.ofNat 64 (ofBytes (toBytes 8 a.toNat).reverse))
    else none
  | f3 => rvAlu 0 f3 a imm

/-- OP-IMM-32. -/
def rvAluImm32 (w : Nat) (a : W64) : Option W64 :=
  let x := a.toNat % 2 ^ 32
  let sh := BitVec.ofNat 64 (nbits w 24 20)
  match rvF3 w, rvF7 w with
  | 0, _ => rvAlu32 0 0 1 a (immI w)
  | 1, 0 => rvAlu32 0 1 1 a sh
  | 1, 0x30 =>
    match nbits w 24 20 with
    | 0 => some (BitVec.ofNat 64 (leadingZeros 32 x))
    | 1 => some (BitVec.ofNat 64 (trailingZeros 32 x))
    | 2 => some (BitVec.ofNat 64 (onesOf 32 x))
    | _ => none
  | 1, _ => if nbits w 31 26 = 2 then some (BitVec.ofNat 64 x <<< nbits w 25 20) else none
  | 5, 0 => rvAlu32 0 5 1 a sh
  | 5, 0x20 => rvAlu32 0x20 5 1 a sh
  | 5, 0x30 => rvAlu32 0x30 5 1 a sh
  | _, _ => none

/-- A branch's condition; none for a reserved one. -/
def rvBranch (f3 : Nat) (a b : W64) : Option Bool :=
  match f3 with
  | 0 => some (a = b)
  | 1 => some (a ≠ b)
  | 4 => some (a.slt b)
  | 5 => some (!a.slt b)
  | 6 => some (a.ult b)
  | 7 => some (!a.ult b)
  | _ => none

/-! ### Compressed instructions -/

/-- 32-bit encodings from their fields. -/
def encR (f7 rs2 rs1 f3 rd op : Nat) : Nat := f7 * 2 ^ 25 + rs2 * 2 ^ 20 + rs1 * 2 ^ 15 + f3 * 2 ^ 12 + rd * 128 + op
def encI (imm rs1 f3 rd op : Nat) : Nat := imm % 4096 * 2 ^ 20 + rs1 * 2 ^ 15 + f3 * 2 ^ 12 + rd * 128 + op
def encS (imm rs2 rs1 f3 op : Nat) : Nat :=
  nbits imm 11 5 * 2 ^ 25 + rs2 * 2 ^ 20 + rs1 * 2 ^ 15 + f3 * 2 ^ 12 + nbits imm 4 0 * 128 + op
def encB (imm rs2 rs1 f3 : Nat) : Nat :=
  nbits imm 12 12 * 2 ^ 31 + nbits imm 10 5 * 2 ^ 25 + rs2 * 2 ^ 20 + rs1 * 2 ^ 15 + f3 * 2 ^ 12 + nbits imm 4 1 * 256 +
    nbits imm 11 11 * 128 + 0x63
def encJ (imm rd : Nat) : Nat :=
  nbits imm 20 20 * 2 ^ 31 + nbits imm 10 1 * 2 ^ 21 + nbits imm 11 11 * 2 ^ 20 + nbits imm 19 12 * 2 ^ 12 + rd * 128 + 0x6F

/-- A signed field of n bits, wrapped to 32. -/
def sx32 (n v : Nat) : Nat := wrapTo 32 (signedOf n v)

/-- Quadrant 0. -/
def expand0 (w : Nat) : Option Nat :=
  let rd := 8 + nbits w 4 2
  let rs := 8 + nbits w 9 7
  let dOff := nbits w 12 10 * 8 + nbits w 6 5 * 64
  let wOff := nbits w 12 10 * 8 + nbits w 6 6 * 4 + nbits w 5 5 * 64
  match nbits w 15 13 with
  | 0 =>
    let imm := nbits w 12 11 * 16 + nbits w 10 7 * 64 + nbits w 6 6 * 4 + nbits w 5 5 * 8
    if imm = 0 then none else some (encI imm 2 0 rd 0x13)
  | 1 => some (encI dOff rs 3 rd 0x07)
  | 2 => some (encI wOff rs 2 rd 0x03)
  | 3 => some (encI dOff rs 3 rd 0x03)
  | 5 => some (encS dOff rd rs 3 0x27)
  | 6 => some (encS wOff rd rs 2 0x23)
  | 7 => some (encS dOff rd rs 3 0x23)
  | _ => none

/-- Quadrant 1, the arithmetic on registers x8 to x15. -/
def expandArith (w : Nat) : Option Nat :=
  let rd := 8 + nbits w 9 7
  let rs2 := 8 + nbits w 4 2
  let sh := nbits w 12 12 * 32 + nbits w 6 2
  match nbits w 11 10 with
  | 0 => some (encI sh rd 5 rd 0x13)
  | 1 => some (encI (0x400 + sh) rd 5 rd 0x13)
  | 2 => some (encI (sx32 6 sh) rd 7 rd 0x13)
  | _ =>
    match nbits w 12 12 * 4 + nbits w 6 5 with
    | 0 => some (encR 0x20 rs2 rd 0 rd 0x33)
    | 1 => some (encR 0 rs2 rd 4 rd 0x33)
    | 2 => some (encR 0 rs2 rd 6 rd 0x33)
    | 3 => some (encR 0 rs2 rd 7 rd 0x33)
    | 4 => some (encR 0x20 rs2 rd 0 rd 0x3B)
    | 5 => some (encR 0 rs2 rd 0 rd 0x3B)
    | _ => none

/-- Quadrant 1. -/
def expand1 (w : Nat) : Option Nat :=
  let rd := nbits w 11 7
  let imm6 := nbits w 12 12 * 32 + nbits w 6 2
  let jOff := sx32 12 (nbits w 12 12 * 2048 + nbits w 11 11 * 16 + nbits w 10 9 * 256 + nbits w 8 8 * 1024 + nbits w 7 7 * 64 +
    nbits w 6 6 * 128 + nbits w 5 3 * 2 + nbits w 2 2 * 32)
  let bOff := sx32 9 (nbits w 12 12 * 256 + nbits w 11 10 * 8 + nbits w 6 5 * 64 + nbits w 4 3 * 2 + nbits w 2 2 * 32)
  match nbits w 15 13 with
  | 0 => some (encI (sx32 6 imm6) rd 0 rd 0x13)
  | 1 => if rd = 0 then none else some (encI (sx32 6 imm6) rd 0 rd 0x1B)
  | 2 => some (encI (sx32 6 imm6) 0 0 rd 0x13)
  | 3 =>
    if imm6 = 0 then none
    else if rd = 2 then
      some (encI (sx32 10 (nbits w 12 12 * 512 + nbits w 6 6 * 16 + nbits w 5 5 * 64 + nbits w 4 3 * 128 + nbits w 2 2 * 32)) 2 0 2 0x13)
    else some (sx32 6 imm6 % 2 ^ 20 * 4096 + rd * 128 + 0x37)
  | 4 => expandArith w
  | 5 => some (encJ jOff 0)
  | 6 => some (encB bOff 0 (8 + nbits w 9 7) 0)
  | _ => some (encB bOff 0 (8 + nbits w 9 7) 1)

/-- Quadrant 2. -/
def expand2 (w : Nat) : Option Nat :=
  let rd := nbits w 11 7
  let rs2 := nbits w 6 2
  let dOff := nbits w 12 12 * 32 + nbits w 6 5 * 8 + nbits w 4 2 * 64
  let wOff := nbits w 12 12 * 32 + nbits w 6 4 * 4 + nbits w 3 2 * 64
  let dStore := nbits w 12 10 * 8 + nbits w 9 7 * 64
  match nbits w 15 13 with
  | 0 => some (encI (nbits w 12 12 * 32 + rs2) rd 1 rd 0x13)
  | 1 => some (encI dOff 2 3 rd 0x07)
  | 2 => if rd = 0 then none else some (encI wOff 2 2 rd 0x03)
  | 3 => if rd = 0 then none else some (encI dOff 2 3 rd 0x03)
  | 4 =>
    if nbits w 12 12 = 0 then
      if rs2 ≠ 0 then some (encR 0 rs2 0 0 rd 0x33) else if rd = 0 then none else some (encI 0 rd 0 0 0x67)
    else if rs2 ≠ 0 then some (encR 0 rs2 rd 0 rd 0x33)
    else if rd = 0 then some 0x00100073
    else some (encI 0 rd 0 1 0x67)
  | 5 => some (encS dStore rs2 2 3 0x27)
  | 6 => some (encS (nbits w 12 9 * 4 + nbits w 8 7 * 64) rs2 2 2 0x23)
  | _ => some (encS dStore rs2 2 3 0x23)

/-- The 32-bit instruction a 16-bit one stands for; none for a reserved one. -/
def rvExpand (w : Nat) : Option Nat :=
  match w % 4 with
  | 0 => expand0 w
  | 1 => expand1 w
  | _ => expand2 w

end Sys2Proof.Machine
end

