-- ==== Sys2Proof/Machine/RvCsr.lean ====
section
/-!
DEFINITION. The CSRs of a Quill hart: which exist, who may reach them, what a read returns and what a write keeps (Tables 3-5 and
3-6, R93 to R95, R257, R258 of spec/). Where the spec names only the extension, the numbers, fields and rules are RISC-V's, and
what RISC-V leaves to the implementation is a choice of the model (notes/assumptions/60 and 61).
-/
namespace Sys2Proof.Machine

/-- Bits set to 1 in a mask. -/
def maskBits (l : List Nat) : W64 := BitVec.ofNat 64 ((l.map fun i => 2 ^ i).sum)

/-- w with the bits of a mask taken from v. -/
def mergeBits (w v m : W64) : W64 := (w &&& ~~~ m) ||| (v &&& m)

/-! ### Writable bits -/

def mstatusMask : W64 := maskBits [1, 3, 5, 7, 8, 9, 10, 11, 12, 13, 14, 17, 18, 19, 20, 21, 22, 38, 39]
def sstatusMask : W64 := maskBits [1, 5, 8, 9, 10, 13, 14, 18, 19]
def hstatusMask : W64 := maskBits [6, 7, 8, 9, 20, 21, 22]
def envcfgMask : W64 := maskBits [0, 4, 5, 6, 63]

/-- misa: RV64 with I, M, A, F, D, C, V, H, S and U (R93). -/
def misaWord : W64 := maskBits [0, 2, 3, 5, 7, 8, 12, 18, 20, 21, 63]

/-- SD, UXL (and SXL) of a status word. -/
def statusRead (w : W64) (sxl : Bool) : W64 :=
  let w := setBits w 63 63 (if bits w 14 13 = 3 || bits w 10 9 = 3 then 1 else 0)
  let w := setBits w 33 32 2
  if sxl then setBits w 35 34 2 else w

/-! ### Reads -/

/-- pmpaddr with the granule of 64 KiB (G = 14). -/
def Hart.pmpAddrRead (k : Hart) (i : Nat) : W64 :=
  let a := k.csrAt (0x3B0 + i)
  if k.cbits (0x3A0 + i / 8 * 2) (8 * (i % 8) + 4) (8 * (i % 8) + 3) = 3 then setBits a 12 0 0x1FFF else setBits a 13 0 0

/-- The S interrupts that are delegated, and the VS ones. -/
def Hart.sMask (k : Hart) : W64 := k.mideleg &&& 0x222#64
def Hart.vsMask (k : Hart) : W64 := k.csrAt 0x603 &&& 0x444#64

/-- henvcfg as menvcfg allows it. -/
def Hart.henvcfg (k : Hart) : W64 := setBits (k.csrAt 0x60A) 63 63 (if k.cbit 0x60A 63 && k.cbit 0x30A 63 then 1 else 0)

/-- CSRs that hold plain words, with the bits a write keeps: a trap's saved registers, scratch registers and the like. -/
def plainCsr (n : Nat) : Option W64 :=
  let all := maskOf 63 0
  let no0 := maskOf 63 1
  if [0x140, 0x240, 0x340, 0x142, 0x242, 0x342, 0x143, 0x243, 0x343, 0x14D, 0x24D, 0x605, 0x643, 0x64A, 0x34A, 0x34B, 0x7C1].contains n
  then some all
  else if [0x141, 0x241, 0x341].contains n then some no0
  else if 0x323 ≤ n && n ≤ 0x32A then some all
  else if [0x106, 0x306, 0x606].contains n then some (maskOf 10 0)
  else match n with
    | 0x320 => some (maskBits [0, 2, 3, 4, 5, 6, 7, 8, 9, 10])
    | 0x302 => some 0xF0B7FF#64
    | 0x303 => some 0x222#64
    | 0x602 => some 0xB1FF#64
    | 0x603 => some 0x444#64
    | 0x304 => some 0xEEE#64
    | 0x344 => some 0x222#64
    | 0x645 => some 0x444#64
    | 0x200 => some sstatusMask
    | 0x600 => some hstatusMask
    | 0x30A => some envcfgMask
    | 0x60A => some envcfgMask
    | 0x10A => some (maskOf 6 4 ||| 1#64)
    | 0xB02 => some all
    | 0x7C0 => some 1#64
    | 0x7C3 => some (maskOf 7 0)
    | 0x7C4 => some (maskOf 5 0)
    | 0x008 => some (maskOf 7 0)
    | _ => none

/-- A read of CSR n, after the access checks; none where the CSR does not exist. A counter whose rate the spec does not give reads a
free value. -/
def State.csrRead (s : State) (h : Nat) (k : Hart) (n : Nat) : Option (W64 × State) :=
  let o := fun (v : W64) => some (v, s)
  match n with
  | 0x001 => o (k.csrAt 3 &&& 0x1F#64)
  | 0x002 => o (BitVec.ofNat 64 (k.cbits 3 7 5))
  | 0x003 => o (k.csrAt 3)
  | 0x009 => o (BitVec.ofNat 64 (k.cbits 0xF 0 0))
  | 0x00A => o (BitVec.ofNat 64 (k.cbits 0xF 2 1))
  | 0x00F => o (k.csrAt 0xF)
  | 0xC00 => some s.free
  | 0xC01 => o (BitVec.ofNat 64 s.time + if k.virt then k.csrAt 0x605 else 0)
  | 0xC02 => o (k.csrAt 0xB02)
  | 0xC20 => o (k.csrAt 0xC20)
  | 0xC21 => o (k.csrAt 0xC21)
  | 0xC22 => o 32
  | 0x100 => o (statusRead (k.csrAt 0x300 &&& sstatusMask) false)
  | 0x104 => o (k.csrAt 0x304 &&& k.sMask)
  | 0x144 => o (s.mip k &&& k.sMask)
  | 0x105 => o (k.csrAt 0x105)
  | 0x180 => o (k.csrAt 0x180)
  | 0x200 => o (statusRead (k.csrAt 0x200) false)
  | 0x204 => o ((k.csrAt 0x304 &&& k.vsMask) >>> 1)
  | 0x205 => o (k.csrAt 0x205)
  | 0x244 => o ((s.mip k &&& k.vsMask) >>> 1)
  | 0x280 => o (k.csrAt 0x280)
  | 0x600 => o (setBits (k.csrAt 0x600) 33 32 2)
  | 0x604 => o (k.csrAt 0x304 &&& 0x1444#64)
  | 0x607 => o 0
  | 0x644 => o (s.mip k &&& 0x1444#64)
  | 0x60A => o k.henvcfg
  | 0x680 => o (k.csrAt 0x680)
  | 0xE12 => o 0
  | 0xF11 => o 0
  | 0xF12 => o 0
  | 0xF13 => o 1
  | 0xF14 => o (BitVec.ofNat 64 h)
  | 0xF15 => o 0
  | 0x300 => o (statusRead (k.csrAt 0x300) true)
  | 0x301 => o misaWord
  | 0x303 => o k.mideleg
  | 0x305 => o (k.csrAt 0x305)
  | 0x344 => o (s.mip k)
  | 0x3A0 => o (k.csrAt 0x3A0)
  | 0x3A2 => o (k.csrAt 0x3A2)
  | 0xB00 => some s.free
  | 0x7C2 => o (k.csrAt 0x7C2)
  | 0x7C5 => o (smGet (fun _ => 0) k.bind (k.cbits 0x7C4 5 0))
  | _ =>
    if 0xC03 ≤ n && n ≤ 0xC0A then some s.free
    else if 0xC0B ≤ n && n ≤ 0xC1F then o 0
    else if 0xB03 ≤ n && n ≤ 0xB0A then some s.free
    else if 0xB0B ≤ n && n ≤ 0xB1F then o 0
    else if 0x32B ≤ n && n ≤ 0x33F then o 0
    else if 0x3B0 ≤ n && n ≤ 0x3BF then o (k.pmpAddrRead (n - 0x3B0))
    else if (plainCsr n).isSome then o (k.csrAt n)
    else none

/-! ### Writes -/

/-- A PMP configuration byte: kept where locked, or where the new one is reserved (W without R) or names NA4. -/
def pmpByte (old new : Nat) : Nat :=
  let new := new &&& 0x9F
  if old.testBit 7 || (new.testBit 1 && !new.testBit 0) || nbits new 4 3 = 2 then old else new

/-- Is pmpaddr i locked: by its own entry, or by the next one in TOR mode? -/
def Hart.pmpLocked (k : Hart) (i : Nat) : Bool :=
  let cfg := fun (i : Nat) => k.cbits (0x3A0 + i / 8 * 2) (8 * (i % 8) + 7) (8 * (i % 8))
  (cfg i).testBit 7 || (i < 15 && (cfg (i + 1)).testBit 7 && nbits (cfg (i + 1)) 4 3 = 1)

/-- A write of a translation root: kept out where MODE is none of Bare, Sv39 and Sv48. -/
def Hart.writeRoot (k : Hart) (n : Nat) (v m : W64) : Hart := if [0, 8, 9].contains (bits v 63 60) then k.setCsr n (v &&& m) else k

/-- A write of CSR n, after the access checks. -/
def State.csrWrite (s : State) (h c : Nat) (k : Hart) (n : Nat) (v : W64) : Hart :=
  match n with
  | 0x001 => k.setCbits 3 4 0 v.toNat
  | 0x002 => k.setCbits 3 7 5 v.toNat
  | 0x003 => k.setCsr 3 (v &&& 0xFF#64)
  | 0x009 => k.setCbits 0xF 0 0 v.toNat
  | 0x00A => k.setCbits 0xF 2 1 v.toNat
  | 0x00F => k.setCsr 0xF (v &&& 7#64)
  | 0x100 => k.setCsr 0x300 (mergeBits (k.csrAt 0x300) v sstatusMask)
  | 0x104 => k.setCsr 0x304 (mergeBits (k.csrAt 0x304) v k.sMask)
  | 0x144 => k.setCsr 0x344 (mergeBits (k.csrAt 0x344) v (k.sMask &&& 2#64))
  | 0x105 => k.setCsr n (setBits v 1 1 0)
  | 0x205 => k.setCsr n (setBits v 1 1 0)
  | 0x305 => k.setCsr n (setBits v 1 1 0)
  | 0x180 => k.writeRoot n v (maskOf 63 0)
  | 0x280 => k.writeRoot n v (maskOf 63 0)
  | 0x680 => k.writeRoot n v (maskOf 63 60 ||| maskOf 57 2)
  | 0x204 => k.setCsr 0x304 (mergeBits (k.csrAt 0x304) (v <<< 1) k.vsMask)
  | 0x244 => k.setCsr 0x645 (mergeBits (k.csrAt 0x645) (v <<< 1) (k.vsMask &&& 4#64))
  | 0x604 => k.setCsr 0x304 (mergeBits (k.csrAt 0x304) v 0x444#64)
  | 0x644 => k.setCsr 0x645 (mergeBits (k.csrAt 0x645) v 4#64)
  | 0x300 =>
    let v := if bits v 12 11 = 2 then setBits v 12 11 (k.cbits 0x300 12 11) else v
    k.setCsr 0x300 (mergeBits (k.csrAt 0x300) v mstatusMask)
  | 0x3A0 => k.setCsr n (BitVec.ofNat 64 (ofBytes ((List.range 8).map fun i =>
      BitVec.ofNat 8 (pmpByte (k.cbits n (8 * i + 7) (8 * i)) (bits v (8 * i + 7) (8 * i))))))
  | 0x3A2 => k.setCsr n (BitVec.ofNat 64 (ofBytes ((List.range 8).map fun i =>
      BitVec.ofNat 8 (pmpByte (k.cbits n (8 * i + 7) (8 * i)) (bits v (8 * i + 7) (8 * i))))))
  | 0x7C5 => s.qebindWrite h c v
  | _ =>
    if 0x3B0 ≤ n && n ≤ 0x3BF then (if k.pmpLocked (n - 0x3B0) then k else k.setCsr n (v &&& maskOf 53 0))
    else match plainCsr n with
      | some m => k.setCsr n (mergeBits (k.csrAt n) v m)
      | none => k

/-! ### Access -/

/-- Why an access is refused: an illegal instruction, or a virtual one (cause 22). -/
inductive CsrBar
  | illegal | virtual
deriving DecidableEq, Repr

/-- The CSR that a number names while V = 1: the VS copies of the S registers. -/
def vsNumber (n : Nat) : Nat :=
  if [0x100, 0x104, 0x105, 0x140, 0x141, 0x142, 0x143, 0x144, 0x14D, 0x180].contains n then n + 0x100 else n

/-- Is floating point, is the vector unit off? -/
def Hart.fpOff (k : Hart) : Bool := k.cbits 0x300 14 13 = 0 || (k.virt && k.cbits 0x200 14 13 = 0)
def Hart.vecOff (k : Hart) : Bool := k.cbits 0x300 10 9 = 0 || (k.virt && k.cbits 0x200 10 9 = 0)

/-- May the user-level counter of bit i be read? -/
def Hart.counterBar (k : Hart) (i : Nat) : Option CsrBar :=
  if k.priv = .m then none
  else if !k.cbit 0x306 i then some .illegal
  else if k.virt && !k.cbit 0x606 i then some .virtual
  else if k.priv = .u && !k.cbit 0x106 i then some (if k.virt then .virtual else .illegal)
  else none

/-- What bars the access, beyond its privilege level. -/
def Hart.csrSpecial (k : Hart) (n : Nat) : Option CsrBar :=
  if 1 ≤ n && n ≤ 3 then (if k.fpOff then some .illegal else none)
  else if n = 8 || n = 9 || n = 0xA || n = 0xF || (0xC20 ≤ n && n ≤ 0xC22) then (if k.vecOff then some .illegal else none)
  else if 0xC00 ≤ n && n ≤ 0xC1F then k.counterBar (n - 0xC00)
  else if n = 0x180 && k.priv = .s then
    (if k.virt then (if k.cbit 0x600 20 then some .virtual else none) else if k.cbit 0x300 20 then some .illegal else none)
  else if n = 0x680 && k.priv = .s && k.cbit 0x300 20 then some .illegal
  else if (n = 0x14D || n = 0x24D) && k.priv ≠ .m then
    (if !(k.cbit 0x30A 63 && k.cbit 0x306 1) then some .illegal
    else if k.virt && !(k.henvcfg.getLsbD 63 && k.cbit 0x606 1) then some .virtual else none)
  else none

/-- What bars an access to CSR n. -/
def Hart.csrBar (k : Hart) (n : Nat) (write : Bool) : Option CsrBar :=
  let level := nbits n 9 8
  if write && nbits n 11 10 = 3 then some .illegal
  else if k.priv = .m then k.csrSpecial n
  else if level = 3 then some .illegal
  else if level = 2 && k.virt then some .virtual
  else if level = 2 && k.priv = .u then some .illegal
  else if level = 1 && k.priv = .u then some (if k.virt then .virtual else .illegal)
  else k.csrSpecial n

/-- A virtual instruction with the bits of the word. -/
def State.hartVirtual (s : State) (h : Nat) (word : Nat) : State :=
  s.setHart h ((s.hartOf h).trap (.exc 22 (BitVec.ofNat 64 word)))

/-- FS or VS set to Dirty by a write of their CSRs. -/
def Hart.dirtyCsr (k : Hart) (n : Nat) : Hart :=
  if 1 ≤ n && n ≤ 3 then k.dirty 14 13
  else if n = 8 || n = 9 || n = 0xA || n = 0xF then k.dirty 10 9
  else k

/-- CSRRW, CSRRS, CSRRC and their immediate forms. -/
def State.rvCsr (s : State) (h c w raw : Nat) : State :=
  let k := s.hartOf h
  let n0 := nbits w 31 20
  let f3 := rvF3 w
  let src := if f3 < 4 then k.xreg (rvRs1 w) else BitVec.ofNat 64 (nbits w 19 15)
  let write := f3 % 4 = 1 || nbits w 19 15 ≠ 0
  let n := if k.virt then vsNumber n0 else n0
  match s.csrRead h k n with
  | none => s.hartIllegal h raw
  | some (old, s1) =>
    match k.csrBar n0 write with
    | some .illegal => s.hartIllegal h raw
    | some .virtual => s.hartVirtual h raw
    | none =>
      let v := match f3 % 4 with
        | 1 => src
        | 2 => old ||| src
        | _ => old &&& ~~~ src
      let k := if write then (s.csrWrite h c k n v).dirtyCsr n else k
      s1.hartDone h (k.setX (rvRd w) old) 4

end Sys2Proof.Machine
end

