-- ==== Sys2Proof/Machine/RvMem.lean ====
section
/-!
DEFINITION. Scalar memory instructions of a Quill hart: loads and stores, atomics, LR and SC, cache-block operations and the
hypervisor's loads and stores (R86, R90, R96 to R98, R597, R598, Tables 3-5 and 3-6 of spec/; encodings PRESUMED,
notes/assumptions/60).
-/
namespace Sys2Proof.Machine

/-! ### Loads and stores -/

/-- A load into a register: done, failed, or waiting for the host (R89). -/
def State.loadInto (s : State) (h c : Nat) (m : Mode) (va : W64) (size : Nat) (signed fp : Bool) (rd : XReg) (len : Nat) : State :=
  match s.hartLoad h c m va size with
  | (s, .error e) => s.hartFails h c e
  | (s, .ok (.bytes b)) =>
    let k := s.hartOf h
    let v := ofBytes b
    s.hartDone h (if fp then k.setF rd.toNat (BitVec.ofNat 64 (if size = 4 then v + (2 ^ 64 - 2 ^ 32) else v))
      else k.setX rd (extendLoad size signed v)) len
  | (s, .ok (.host bus)) => s.hartHost h c va m.virt bus size (.hostLoad rd size signed fp len m.virt)

/-- A store of the low bytes of a value. -/
def State.storeFrom (s : State) (h c : Nat) (m : Mode) (va : W64) (size v len : Nat) : State :=
  match s.hartStore h c m va (toBytes size v) with
  | (s, .error e) => s.hartFails h c e
  | (s, .ok ()) => s.hartDone h (s.hartOf h) len

/-- LB to LWU. -/
def State.rvLoad (s : State) (h c w raw len : Nat) : State :=
  let k := s.hartOf h
  let va := k.xreg (rvRs1 w) + immI w
  if rvF3 w = 7 then s.hartIllegal h raw
  else s.loadInto h c (k.mode .load) va (2 ^ (rvF3 w % 4)) (rvF3 w < 4) false (rvRd w) len

/-- SB to SD. -/
def State.rvStore (s : State) (h c w raw len : Nat) : State :=
  let k := s.hartOf h
  if 3 < rvF3 w then s.hartIllegal h raw
  else s.storeFrom h c (k.mode .store) (k.xreg (rvRs1 w) + immS w) (2 ^ rvF3 w) (k.xreg (rvRs2 w)).toNat len

/-- FLW and FLD. -/
def State.rvLoadFp (s : State) (h c w raw len : Nat) : State :=
  let k := s.hartOf h
  if k.fpOff || !(rvF3 w = 2 || rvF3 w = 3) then s.hartIllegal h raw
  else s.loadInto h c (k.mode .load) (k.xreg (rvRs1 w) + immI w) (2 ^ rvF3 w) false true (rvRd w) len

/-- FSW and FSD. -/
def State.rvStoreFp (s : State) (h c w raw len : Nat) : State :=
  let k := s.hartOf h
  if k.fpOff || !(rvF3 w = 2 || rvF3 w = 3) then s.hartIllegal h raw
  else s.storeFrom h c (k.mode .store) (k.xreg (rvRs1 w) + immS w) (2 ^ rvF3 w) (k.freg (nbits w 24 20)).toNat len

/-! ### Atomics (R90, R97) -/

/-- The new value of an atomic operation on size-byte operands; none for a reserved one. -/
def amoResult (f5 n a b : Nat) : Option Nat :=
  match f5 with
  | 0x00 => some (a + b)
  | 0x01 => some b
  | 0x04 => some (a ^^^ b)
  | 0x08 => some (a ||| b)
  | 0x0C => some (a &&& b)
  | 0x10 => some (if signedOf n a < signedOf n b then a else b)
  | 0x14 => some (if signedOf n a < signedOf n b then b else a)
  | 0x18 => some (min a b)
  | 0x1C => some (max a b)
  | _ => none

/-- The place of an atomic: one on the host is a store/AMO access fault (R90). -/
def State.amoPlace (s : State) (h c : Nat) (a : Acc) (va : W64) : State × Except HartFail (Nat × Bool × Bool) :=
  let m := (s.hartOf h).mode a
  match s.hartPlace h c a m va with
  | (s, .error e) => (s, .error e)
  | (s, .ok (.host _)) => (s, .error (.trap { int := false, cause := 7, tval := va, gva := m.virt, gpa := 0 }))
  | (s, .ok (.tile pa mc qc)) => (s, .ok (pa, mc, qc))

/-- LR: the line is reserved, held in M where it may be cached (R97). -/
def State.rvLr (s : State) (h c w : Nat) (va : W64) (size : Nat) : State :=
  match s.amoPlace h c .load va with
  | (s, .error e) => s.hartFails h c e
  | (s, .ok (pa, mc, qc)) =>
    match s.quillRead h c pa size mc qc true with
    | (s, some b) =>
      s.hartDone h ({ s.hartOf h with resv := some (pa / 64) }.setX (rvRd w) (extendLoad size true (ofBytes b))) 4
    | (s, none) => s.hartUncorr c

/-- SC: it writes, and rd is 0, while the reservation of the line is held; rd is 1 otherwise. The reservation is gone. -/
def State.rvSc (s : State) (h c w : Nat) (va : W64) (size : Nat) : State :=
  match s.amoPlace h c .store va with
  | (s, .error e) => s.hartFails h c e
  | (s, .ok (pa, mc, qc)) =>
    let k := s.hartOf h
    let drop := fun (s : State) (v : W64) => s.hartDone h ({ s.hartOf h with resv := none }.setX (rvRd w) v) 4
    if k.resv ≠ some (pa / 64) then drop s 1 else
    match s.quillWrite h c pa mc qc (toBytes size (k.xreg (rvRs2 w)).toNat) with
    | (s, true) => drop s 0
    | (s, false) => drop (s.faultNoUnit c 0x03 0) 0

/-- An atomic read-modify-write. -/
def State.rvAmo (s : State) (h c w raw : Nat) : State :=
  let k := s.hartOf h
  let size := 2 ^ rvF3 w
  let f5 := nbits w 31 27
  let va := k.xreg (rvRs1 w)
  if !(rvF3 w = 2 || rvF3 w = 3) || (f5 = 2 && rvRs2 w ≠ 0) || !(f5 = 2 || f5 = 3 || (amoResult f5 0 0 0).isSome) then s.hartIllegal h raw
  else if va.toNat % size ≠ 0 then
    let a := if f5 = 2 then Acc.load else Acc.store
    s.hartFails h c (.trap { int := false, cause := a.alignCause, tval := va, gva := (k.mode a).virt, gpa := 0 })
  else if f5 = 2 then s.rvLr h c w va size
  else if f5 = 3 then s.rvSc h c w va size
  else
    match s.amoPlace h c .store va with
    | (s, .error e) => s.hartFails h c e
    | (s, .ok (pa, mc, qc)) =>
      match s.quillRead h c pa size mc qc true with
      | (s, none) => s.hartUncorr c
      | (s, some b) =>
        let old := ofBytes b
        let src := (k.xreg (rvRs2 w)).toNat % 2 ^ (8 * size)
        let r := s.quillWrite h c pa mc qc (toBytes size ((amoResult f5 (8 * size) old src).getD 0))
        let s := if r.2 then r.1 else r.1.faultNoUnit c 0x03 0
        s.hartDone h ((s.hartOf h).setX (rvRd w) (extendLoad size true old)) 4

/-! ### Cache blocks (Zicbom, Table 3-6) -/

/-- Is a cache-block operation barred: kind 0 inval, 1 clean, 2 flush? -/
def Hart.cboBar (k : Hart) (kind : Nat) : Option CsrBar :=
  let on := fun (n : Nat) => if kind = 0 then k.cbits n 5 4 = 1 || k.cbits n 5 4 = 3 else k.cbit n 6
  if k.priv = .m then none
  else if !on 0x30A then some .illegal
  else if k.virt then (if !on 0x60A || (k.priv = .u && !on 0x10A) then some .virtual else none)
  else if k.priv = .u && !on 0x10A then some .illegal
  else none

/-- cbo.inval (performed as cbo.flush), cbo.clean and cbo.flush. -/
def State.rvCbo (s : State) (h c w raw : Nat) : State :=
  let k := s.hartOf h
  let kind := nbits w 31 20
  let va := k.xreg (rvRs1 w)
  if nbits w 11 7 ≠ 0 || 2 < kind then s.hartIllegal h raw else
  match k.cboBar kind with
  | some .illegal => s.hartIllegal h raw
  | some .virtual => s.hartVirtual h raw
  | none =>
    let r := match s.hartPlace h c .load (k.mode .load) va with
      | (s, .error (.trap _)) => s.hartPlace h c .store (k.mode .store) va
      | r => r
    match r with
    | (s, .error e) => s.hartFails h c e
    | (s, .ok (.tile pa _ _)) =>
      let line := pa / 64
      let s := if kind = 1 then s.snoopRead line else s.dropLine line
      s.hartDone h (s.hartOf h) 4
    | (s, .ok (.host _)) => s.hartDone h (s.hartOf h) 4

/-- FENCE, FENCE.I and the cache-block operations. -/
def State.rvMiscMem (s : State) (h c w raw : Nat) : State :=
  match rvF3 w with
  | 0 => s.hartDone h (s.hartOf h) 4
  | 1 => s.hartDone h (s.hartOf h) 4
  | 2 => s.rvCbo h c w raw
  | _ => s.hartIllegal h raw

/-! ### The hypervisor's loads and stores -/

/-- HLVX: the leaf must let the guest fetch; its failures are those of a load. -/
def HartFail.asLoad : HartFail → HartFail
  | .trap t => .trap { t with cause := if t.cause = 1 then 5 else if t.cause = 12 then 13 else if t.cause = 20 then 21 else t.cause }
  | .uncorr => .uncorr

def State.rvHlvx (s : State) (h c w size : Nat) (m : Mode) (va : W64) : State :=
  let bad := fun (n : Nat) => HartFail.trap { int := false, cause := n, tval := va, gva := true, gpa := 0 }
  if crosses va size then s.hartFails h c (bad 4) else
  match s.hartXlat h c .fetch m va with
  | (s, .error e) => s.hartFails h c e.asLoad
  | (s, .ok p) =>
    if !(s.hartOf h).pmpOk m.priv .load p then s.hartFails h c (bad 5) else
    match s.translate c 5 0 p false false with
    | (s, .ok pa mc qc) =>
      match s.quillRead h c pa size mc qc false with
      | (s, some b) => s.hartDone h ((s.hartOf h).setX (rvRd w) (extendLoad size false (ofBytes b))) 4
      | (s, none) => s.hartUncorr c
    | (s, .host bus) => s.hartHost h c va true bus size (.hostLoad (rvRd w) size false false 4 true)
    | (s, .uncorr _) => s.hartUncorr c
    | (s, .fail _) => s.hartFails h c (bad 5)

/-- HLV, HLVX and HSV. -/
def State.rvHyp (s : State) (h c w raw : Nat) : State :=
  let k := s.hartOf h
  let f7 := rvF7 w
  let rs2 := nbits w 24 20
  let size := 2 ^ (f7 / 2 % 4)
  let m : Mode := { priv := if k.cbit 0x600 8 then .s else .u, virt := true }
  let va := k.xreg (rvRs1 w)
  if f7 < 0x30 || 0x37 < f7 then s.hartIllegal h raw
  else if k.virt then s.hartVirtual h raw
  else if k.priv = .u && !k.cbit 0x600 9 then s.hartIllegal h raw
  else if f7 % 2 = 1 then
    if nbits w 11 7 ≠ 0 then s.hartIllegal h raw else s.storeFrom h c m va size (k.xreg (rvRs2 w)).toNat 4
  else if rs2 = 0 then s.loadInto h c m va size true false (rvRd w) 4
  else if rs2 = 1 && size < 8 then s.loadInto h c m va size false false (rvRd w) 4
  else if rs2 = 3 && (size = 2 || size = 4) then s.rvHlvx h c w size m va
  else s.hartIllegal h raw

end Sys2Proof.Machine
end

