-- ==== Sys2Proof/Machine/RvPriv.lean ====
section
/-!
DEFINITION. The privileged instructions of a Quill hart: calls, breakpoints, returns from traps, WFI and the fences of translation
(R93, Tables 3-5 and 3-6 of spec/; encodings and rules PRESUMED, notes/assumptions/60).
-/
namespace Sys2Proof.Machine

/-- ECALL: the cause says from which mode. -/
def State.rvEcall (s : State) (h : Nat) : State :=
  let k := s.hartOf h
  let cause := match k.priv with
    | .m => 11
    | .s => if k.virt then 10 else 9
    | .u => 8
  s.setHart h (k.trap (.exc cause 0))

/-- EBREAK. -/
def State.rvEbreak (s : State) (h : Nat) : State :=
  let k := s.hartOf h
  s.setHart h (k.trap (.exc 3 k.pc))

/-- A return goes on at pc in a mode. -/
def Hart.returnTo (k : Hart) (pc : W64) (priv : Priv) (virt : Bool) : Hart := { k.advance 0 with pc := pc, priv := priv, virt := virt }

/-- MRET: from M-mode only. -/
def State.rvMret (s : State) (h raw : Nat) : State :=
  let k := s.hartOf h
  if k.priv ≠ .m then s.hartIllegal h raw else
  let st := k.csrAt 0x300
  let p := privOf (bits st 12 11)
  let v := p ≠ .m && bitAt st 39
  let st' := setBits (setBits (setBits st 3 3 (bits st 7 7)) 7 7 1) 12 11 0
  let st' := setBits (if p = .m then st' else setBits st' 17 17 0) 39 39 0
  s.setHart h ((k.setCsr 0x300 st').returnTo (k.csrAt 0x341) p v)

/-- SRET in M-mode or HS-mode: to the mode hstatus.SPV and SPP name. -/
def Hart.sretHs (k : Hart) : Hart :=
  let st := k.csrAt 0x300
  let p := if bitAt st 8 then Priv.s else Priv.u
  let st' := setBits (setBits (setBits st 1 1 (bits st 5 5)) 5 5 1) 8 8 0
  ((k.setCsr 0x300 (setBits st' 17 17 0)).setCbits 0x600 7 7 0).returnTo (k.csrAt 0x141) p (k.cbit 0x600 7)

/-- SRET in VS-mode. -/
def Hart.sretVs (k : Hart) : Hart :=
  let st := k.csrAt 0x200
  let p := if bitAt st 8 then Priv.s else Priv.u
  let st' := setBits (setBits (setBits st 1 1 (bits st 5 5)) 5 5 1) 8 8 0
  (k.setCsr 0x200 st').returnTo (k.csrAt 0x241) p true

/-- SRET: barred in U-mode, by TSR in HS-mode, by VTSR in VS-mode. -/
def State.rvSret (s : State) (h raw : Nat) : State :=
  let k := s.hartOf h
  if k.virt then
    (if k.priv = .u || k.cbit 0x600 22 then s.hartVirtual h raw else s.setHart h k.sretVs)
  else if k.priv = .u || (k.priv = .s && k.cbit 0x300 22) then s.hartIllegal h raw
  else s.setHart h k.sretHs

/-- WFI: the hart waits for an enabled interrupt, without a limit; barred where RISC-V bars it. -/
def State.rvWfi (s : State) (h raw : Nat) : State :=
  let k := s.hartOf h
  if k.priv ≠ .m && k.cbit 0x300 21 then s.hartIllegal h raw
  else if k.virt && (k.priv = .u || k.cbit 0x600 21) then s.hartVirtual h raw
  else if k.priv = .u then s.hartIllegal h raw
  else if s.wfiEnds k then s.hartDone h k 4
  else s.setHart h { k.advance 4 with st := .wfi }

/-- SFENCE.VMA. Nothing in the model caches a translation. -/
def State.rvSfence (s : State) (h raw : Nat) : State :=
  let k := s.hartOf h
  if k.virt then (if k.priv = .u || k.cbit 0x600 20 then s.hartVirtual h raw else s.hartDone h k 4)
  else if k.priv = .u || (k.priv = .s && k.cbit 0x300 20) then s.hartIllegal h raw
  else s.hartDone h k 4

/-- HFENCE.VVMA, and HFENCE.GVMA, which TVM bars in HS-mode. -/
def State.rvHfence (s : State) (h raw : Nat) (g : Bool) : State :=
  let k := s.hartOf h
  if k.virt then s.hartVirtual h raw
  else if k.priv = .u || (g && k.priv = .s && k.cbit 0x300 20) then s.hartIllegal h raw
  else s.hartDone h k 4

/-- SYSTEM with funct3 = 0. -/
def State.rvSystem0 (s : State) (h w raw : Nat) : State :=
  if nbits w 11 7 ≠ 0 then s.hartIllegal h raw
  else if rvF7 w = 0x09 then s.rvSfence h raw
  else if rvF7 w = 0x11 then s.rvHfence h raw false
  else if rvF7 w = 0x31 then s.rvHfence h raw true
  else if nbits w 19 15 ≠ 0 then s.hartIllegal h raw
  else match nbits w 31 20 with
    | 0x000 => s.rvEcall h
    | 0x001 => s.rvEbreak h
    | 0x102 => s.rvSret h raw
    | 0x302 => s.rvMret h raw
    | 0x105 => s.rvWfi h raw
    | _ => s.hartIllegal h raw

/-- SYSTEM. -/
def State.rvSystem (s : State) (h c w raw : Nat) : State :=
  match rvF3 w with
  | 0 => s.rvSystem0 h w raw
  | 4 => s.rvHyp h c w raw
  | _ => s.rvCsr h c w raw

end Sys2Proof.Machine
end

