-- ==== Sys2Proof/Machine/RvFloat.lean ====
section
/-!
DEFINITION. The F and D instructions of a Quill hart on its registers (Table 3-5 of spec/; encodings and rules PRESUMED,
notes/assumptions/60). A single lies NaN-boxed in its 64-bit register.
-/
namespace Sys2Proof.Machine

/-- The format of fmt: 0 single, 1 double. -/
def fpFormat (fmt : Nat) : Option FFormat := if fmt = 0 then some rvSingle else if fmt = 1 then some rvDouble else none

/-- An operand: a single that is not boxed is the canonical NaN. -/
def Hart.fpArg (k : Hart) (fmt i : Nat) : Nat :=
  let w := (k.freg i).toNat
  if fmt = 1 then w else if w / 2 ^ 32 = 2 ^ 32 - 1 then w % 2 ^ 32 else rvSingle.canonicalNan

/-- A result boxed. -/
def fpBox (fmt v : Nat) : W64 := BitVec.ofNat 64 (if fmt = 1 then v else v + (2 ^ 64 - 2 ^ 32))

/-- Flags raised in fcsr. -/
def Hart.raiseFp (k : Hart) (flags : Nat) : Hart :=
  if flags = 0 then k else (k.setCsr 3 (k.csrAt 3 ||| BitVec.ofNat 64 flags)).dirty 14 13

/-- The rounding mode an instruction names; none for a reserved one. -/
def Hart.roundMode (k : Hart) (rm : Nat) : Option Nat :=
  let m := if rm = 7 then k.cbits 3 7 5 else rm
  if m < 5 then some m else none

/-- A floating-point result into f[rd], and an integer one into x[rd]. -/
def State.fpDone (s : State) (h w fmt : Nat) (r : FpRes) : State :=
  s.hartDone h (((s.hartOf h).raiseFp r.flags).setF (nbits w 11 7) (fpBox fmt r.val)) 4
def State.fpDoneX (s : State) (h w flags : Nat) (v : W64) : State :=
  s.hartDone h (((s.hartOf h).raiseFp flags).setX (rvRd w) v) 4

/-- FMADD, FMSUB, FNMSUB and FNMADD, by opcode. -/
def State.rvFmaOp (s : State) (h w raw : Nat) : State :=
  let k := s.hartOf h
  let fmt := nbits w 26 25
  match fpFormat fmt, k.roundMode (rvF3 w) with
  | some f, some rm =>
    let op := nbits w 6 2
    let a := k.fpArg fmt (nbits w 19 15)
    let b := k.fpArg fmt (nbits w 24 20)
    let c := k.fpArg fmt (nbits w 31 27)
    s.fpDone h w fmt (f.rvFma rm (op = 0x12 || op = 0x13) (op = 0x11 || op = 0x13) a b c)
  | _, _ => s.hartIllegal h raw

/-- FCVT from a value to an integer: kind 0 W, 1 WU, 2 L, 3 LU. -/
def State.rvToIntOp (s : State) (h w : Nat) (f : FFormat) (rm a kind : Nat) : State :=
  let r := f.rvToInt rm (if kind < 2 then 32 else 64) (kind % 2 = 1) a
  s.fpDoneX h w r.flags (if kind < 2 then sx 32 r.val else BitVec.ofNat 64 r.val)

/-- The integer that FCVT takes from x[rs1]. -/
def fpIntArg (kind : Nat) (x : W64) : Int :=
  if kind = 0 then signedOf 32 x.toNat else if kind = 1 then ((x.toNat % 2 ^ 32 : Nat) : Int)
  else if kind = 2 then x.toInt else (x.toNat : Int)

/-- FMV and FCLASS. -/
def State.rvFmvX (s : State) (h w raw fmt : Nat) (f : FFormat) : State :=
  let k := s.hartOf h
  let bits := (k.freg (nbits w 19 15)).toNat
  if nbits w 24 20 ≠ 0 then s.hartIllegal h raw
  else if rvF3 w = 0 then s.fpDoneX h w 0 (if fmt = 1 then BitVec.ofNat 64 bits else sx 32 bits)
  else if rvF3 w = 1 then s.fpDoneX h w 0 (BitVec.ofNat 64 (f.rvClass (k.fpArg fmt (nbits w 19 15))))
  else s.hartIllegal h raw

/-- OP-FP. -/
def State.rvOpFp (s : State) (h w raw : Nat) : State :=
  let k := s.hartOf h
  let fmt := nbits w 26 25
  let f3 := rvF3 w
  let rs2 := nbits w 24 20
  match fpFormat fmt with
  | none => s.hartIllegal h raw
  | some f =>
    let a := k.fpArg fmt (nbits w 19 15)
    let b := k.fpArg fmt rs2
    let rounded := fun (op : Nat → State) => match k.roundMode f3 with
      | some rm => op rm
      | none => s.hartIllegal h raw
    match nbits w 31 27 with
    | 0x00 => rounded fun rm => s.fpDone h w fmt (f.rvAdd rm a b)
    | 0x01 => rounded fun rm => s.fpDone h w fmt (f.rvSub rm a b)
    | 0x02 => rounded fun rm => s.fpDone h w fmt (f.rvMul rm a b)
    | 0x03 => rounded fun rm => s.fpDone h w fmt (f.rvDiv rm a b)
    | 0x0B => if rs2 ≠ 0 then s.hartIllegal h raw else rounded fun rm => s.fpDone h w fmt (f.rvSqrt rm a)
    | 0x04 => if f3 < 3 then s.fpDone h w fmt (fpOk (f.rvSgnj f3 a b)) else s.hartIllegal h raw
    | 0x05 => if f3 < 2 then s.fpDone h w fmt (f.rvMinMax (f3 = 1) a b) else s.hartIllegal h raw
    | 0x14 =>
      if f3 < 3 then
        let r := f.rvCmp f3 a b
        s.fpDoneX h w r.flags (BitVec.ofNat 64 r.val)
      else s.hartIllegal h raw
    | 0x18 => if 3 < rs2 then s.hartIllegal h raw else rounded fun rm => s.rvToIntOp h w f rm a rs2
    | 0x1A =>
      if 3 < rs2 then s.hartIllegal h raw
      else rounded fun rm => s.fpDone h w fmt (f.rvFromInt rm (fpIntArg rs2 (k.xreg (rvRs1 w))))
    | 0x08 =>
      if rs2 + fmt ≠ 1 then s.hartIllegal h raw
      else rounded fun rm =>
        let src := if rs2 = 1 then rvDouble else rvSingle
        s.fpDone h w fmt (rvConvert src f rm (k.fpArg rs2 (nbits w 19 15)))
    | 0x1C => s.rvFmvX h w raw fmt f
    | 0x1E =>
      if rs2 ≠ 0 || f3 ≠ 0 then s.hartIllegal h raw
      else
        let x := (k.xreg (rvRs1 w)).toNat
        s.fpDone h w fmt (fpOk (if fmt = 1 then x else x % 2 ^ 32))
    | _ => s.hartIllegal h raw

/-- The instructions that need FS on. -/
def State.rvFloat (s : State) (h w raw : Nat) : State :=
  if (s.hartOf h).fpOff then s.hartIllegal h raw
  else if nbits w 6 0 = 0x53 then s.rvOpFp h w raw
  else s.rvFmaOp h w raw

end Sys2Proof.Machine
end

