-- ==== Sys2Proof/Machine/RvVec.lean ====
section
/-!
DEFINITION. The vector unit of a Quill hart: its configuration, register groups and integer instructions (V 1.0 with VLEN = 256 and
ELEN = 64, Table 3-5 of spec/; encodings and rules PRESUMED, notes/assumptions/60). A reserved group or overlap of registers raises
an illegal instruction. An agnostic element keeps its value or becomes all ones, as a free bit says (notes/assumptions/62).
-/
namespace Sys2Proof.Machine

/-! ### Configuration -/

/-- What vtype, vl and vstart say: bytes of SEW, log₂ LMUL, and the agnostic bits. -/
structure VCfg where
  sew : Nat
  lm : Int
  vl : Nat
  vstart : Nat
  ta : Bool
  ma : Bool
deriving DecidableEq, Repr

/-- log₂ LMUL of its code. -/
def lmulOf (code : Nat) : Int := if code < 4 then (code : Int) else (code : Int) - 8

/-- VLMAX of an SEW in bytes and a log₂ LMUL. -/
def vlMax (sew : Nat) (lm : Int) : Nat := if 0 ≤ lm then 32 / sew * 2 ^ lm.toNat else 32 / sew / 2 ^ (-lm).toNat

/-- Is a vtype supported: no reserved bit or code, SEW at most LMUL × 64? -/
def vtypeOk (v : W64) : Bool :=
  bits v 63 8 = 0 && bits v 2 0 ≠ 4 && bits v 5 3 < 4 && 1 ≤ vlMax (2 ^ bits v 5 3) (lmulOf (bits v 2 0)) &&
  (0 ≤ lmulOf (bits v 2 0) || 2 ^ bits v 5 3 * 2 ^ (-(lmulOf (bits v 2 0))).toNat ≤ 8)

/-- The configuration in force; none while vill is set. -/
def Hart.vcfg (k : Hart) : Option VCfg :=
  let t := k.csrAt 0xC21
  if bitAt t 63 then none else
  some { sew := 2 ^ bits t 5 3, lm := lmulOf (bits t 2 0), vl := (k.csrAt 0xC20).toNat, vstart := (k.csrAt 8).toNat, ta := bitAt t 6,
         ma := bitAt t 7 }

/-- A vector instruction done: vstart 0, VS dirty. -/
def State.vecDone (s : State) (h : Nat) (k : Hart) : State := s.hartDone h ((k.setCsr 8 0).dirty 10 9) 4

/-- VSETVLI, VSETIVLI and VSETVL. -/
def State.rvVset (s : State) (h w raw : Nat) : State :=
  let k := s.hartOf h
  let imm := nbits w 31 30 = 3
  let reg := nbits w 31 31 = 1 && !imm
  if reg && nbits w 30 25 ≠ 0 then s.hartIllegal h raw else
  let vt := if reg then k.xreg (rvRs2 w) else BitVec.ofNat 64 (if imm then nbits w 29 20 else nbits w 30 20)
  let max := vlMax (2 ^ bits vt 5 3) (lmulOf (bits vt 2 0))
  let ok := vtypeOk vt
  let avl := if imm then nbits w 19 15
    else if rvRs1 w ≠ 0 then (k.xreg (rvRs1 w)).toNat
    else if rvRd w ≠ 0 then 2 ^ 64 else (k.csrAt 0xC20).toNat
  let vl := if ok then min avl max else 0
  let k := (k.setCsr 0xC21 (if ok then vt else maskBits [63])).setCsr 0xC20 (BitVec.ofNat 64 vl)
  s.vecDone h (k.setX (rvRd w) (BitVec.ofNat 64 vl))

/-! ### Register groups -/

/-- Registers of a group of log₂ EMUL. -/
def groupRegs (lm : Int) : Nat := 2 ^ lm.toNat

/-- log₂ EMUL of elements of e bytes. -/
def VCfg.emul (c : VCfg) (e : Nat) : Int := c.lm + (Nat.log2 e : Int) - (Nat.log2 c.sew : Int)

/-- Is a group legal: EMUL from 1/8 to 8, its first register aligned? -/
def groupOk (v : Nat) (lm : Int) : Bool := -3 ≤ lm && lm ≤ 3 && v % groupRegs lm = 0

/-- May a destination group overlap a source group (EEW in bytes, 0 for a mask)? -/
def overlapOk (vd dE : Nat) (dLm : Int) (vs sE : Nat) (sLm : Int) : Bool :=
  let dn := groupRegs dLm
  let sn := groupRegs sLm
  vd + dn ≤ vs || vs + sn ≤ vd || dE = sE || (dE < sE && vd = vs) || (sE < dE && 0 ≤ sLm && vs = vd + dn - sn)

/-- Do two groups share no register? -/
def disjoint (vd : Nat) (dLm : Int) (vs : Nat) (sLm : Int) : Bool := vd + groupRegs dLm ≤ vs || vs + groupRegs sLm ≤ vd

/-- Element i of e bytes of a group. -/
def Hart.elem (k : Hart) (v i e : Nat) : Nat :=
  nbits (k.vecReg (v + i * e / 32)).toNat (8 * (i * e % 32) + 8 * e - 1) (8 * (i * e % 32))

/-- Bit i of a mask register. -/
def Hart.maskAt (k : Hart) (v i : Nat) : Bool := (k.vecReg v).getLsbD i

/-- Is element i active? -/
def Hart.active (k : Hart) (vm : Bool) (i : Nat) : Bool := vm || k.maskAt 0 i

/-- Bits that decide what agnostic elements become. -/
def State.agnostic (s : State) : (Nat → Bool) × State :=
  (fun i => bitAt (Config.freeBits (s.freeIx + i / 64)) (i % 64), { s with freeIx := s.freeIx + 4 })

/-- A group written from vstart to vl by f, which reads the registers as they were; the rest undisturbed or agnostic. -/
def Hart.putGroup (k : Hart) (c : VCfg) (free : Nat → Bool) (vm : Bool) (vd e regs : Nat) (f : Nat → Nat) : Hart :=
  if c.vl ≤ c.vstart then k else
  (List.range (32 / e * regs)).foldl (fun acc i =>
    let ones := 2 ^ (8 * e) - 1
    if i < c.vstart then acc
    else if i < c.vl then
      (if k.active vm i then acc.setElem vd i e (f i) else if c.ma && free i then acc.setElem vd i e ones else acc)
    else if c.ta && free i then acc.setElem vd i e ones else acc) k

/-- A mask register written likewise; its tail is always agnostic. -/
def Hart.putMask (k : Hart) (c : VCfg) (free : Nat → Bool) (vm : Bool) (vd : Nat) (f : Nat → Bool) : Hart :=
  if c.vl ≤ c.vstart then k else
  k.setVec vd (BitVec.ofNat 256 (((List.range 256).map fun i =>
    let old := k.maskAt vd i
    let b := if i < c.vstart then old
      else if i < c.vl then (if k.active vm i then f i else old || (c.ma && free i))
      else old || free i
    if b then 2 ^ i else 0).sum))

/-! ### Finishing -/

/-- vxsat set. -/
def Hart.saturate (k : Hart) (b : Bool) : Hart := if b then k.setCbits 0xF 0 0 1 else k

/-- The elements an instruction computes. -/
def VCfg.body (c : VCfg) (k : Hart) (vm : Bool) : List Nat :=
  ((List.range c.vl).drop c.vstart).filter (k.active vm)

/-- An instruction that writes a group of elements of e bytes; f gives each element's value and whether it saturates. -/
def State.vecGroup (s : State) (h raw : Nat) (c : VCfg) (vm : Bool) (vd e : Nat) (ok : Bool) (f : Nat → Nat × Bool) : State :=
  if !ok || !groupOk vd (c.emul e) || (!vm && vd = 0) then s.hartIllegal h raw else
  let k := s.hartOf h
  let a := s.agnostic
  let k' := (k.putGroup c a.1 vm vd e (groupRegs (c.emul e)) fun i => (f i).1).saturate ((c.body k vm).any fun i => (f i).2)
  a.2.vecDone h k'

/-- An instruction that writes a mask. -/
def State.vecMask (s : State) (h raw : Nat) (c : VCfg) (vm : Bool) (vd : Nat) (ok : Bool) (f : Nat → Bool) : State :=
  if !ok then s.hartIllegal h raw else
  let a := s.agnostic
  a.2.vecDone h ((s.hartOf h).putMask c a.1 vm vd f)

/-! ### Fields and operands -/

def vVd (w : Nat) : Nat := nbits w 11 7
def vVs1 (w : Nat) : Nat := nbits w 19 15
def vVs2 (w : Nat) : Nat := nbits w 24 20
def vVm (w : Nat) : Bool := w.testBit 25
def vF6 (w : Nat) : Nat := nbits w 31 26

/-- Where the second operand comes from: a vector, x[rs1], or the immediate. -/
def Hart.opB (k : Hart) (w e : Nat) (unsignedImm : Bool) (i : Nat) : Nat :=
  match rvF3 w with
  | 0 => k.elem (vVs1 w) i e
  | 2 => k.elem (vVs1 w) i e
  | 3 => if unsignedImm then vVs1 w else wrapTo (8 * e) (signedOf 5 (vVs1 w))
  | _ => (k.xreg (rvRs1 w)).toNat % 2 ^ (8 * e)

/-- Is the second operand a vector? -/
def isVV (w : Nat) : Bool := rvF3 w = 0 || rvF3 w = 2 || rvF3 w = 1

/-- Is the second operand's group legal, when it is a vector? -/
def opBOk (w : Nat) (lm : Int) : Bool := !isVV w || groupOk (vVs1 w) lm

/-! ### Fixed point -/

/-- v ÷ 2^d rounded under vxrm: 0 up, 1 even, 2 down, 3 to odd. -/
def fixRound (xrm : Nat) (v : Int) (d : Nat) : Int :=
  let q := v / (2 : Int) ^ d
  let r := (v % (2 : Int) ^ d).toNat
  let up := match xrm with
    | 0 => d ≠ 0 && 2 ^ d ≤ 2 * r
    | 1 => 2 ^ d < 2 * r || (d ≠ 0 && 2 * r = 2 ^ d && q % 2 = 1)
    | 2 => false
    | _ => r ≠ 0 && q % 2 = 0
  if up then q + 1 else q

/-- An integer kept in n bits by saturation, and whether it had to be. -/
def satTo (n : Nat) (unsigned : Bool) (i : Int) : Nat × Bool :=
  let j := clampInt n unsigned i
  (wrapTo n j, j ≠ i)

/-! ### Element operations -/

/-- Single-width operations of OPI: a is the element of vs2, b the other operand, n the width in bits. -/
def viBin (n xrm f6 a b : Nat) : Option (Nat × Bool) :=
  let sa := signedOf n a
  let sb := signedOf n b
  let sh := b % n
  let o := fun (v : Nat) => some (v % 2 ^ n, false)
  match f6 with
  | 0x00 => o (a + b)
  | 0x02 => o (a + 2 ^ n - b)
  | 0x03 => o (b + 2 ^ n - a)
  | 0x04 => o (min a b)
  | 0x05 => o (if sa < sb then a else b)
  | 0x06 => o (max a b)
  | 0x07 => o (if sa < sb then b else a)
  | 0x09 => o (a &&& b)
  | 0x0A => o (a ||| b)
  | 0x0B => o (a ^^^ b)
  | 0x20 => some (satTo n true (a + b))
  | 0x21 => some (satTo n false (sa + sb))
  | 0x22 => some (satTo n true ((a : Int) - b))
  | 0x23 => some (satTo n false (sa - sb))
  | 0x25 => o (a * 2 ^ sh)
  | 0x27 => some (satTo n false (fixRound xrm (sa * sb) (n - 1)))
  | 0x28 => o (a / 2 ^ sh)
  | 0x29 => o (wrapTo n (sa / (2 : Int) ^ sh))
  | 0x2A => o (wrapTo n (fixRound xrm a sh))
  | 0x2B => o (wrapTo n (fixRound xrm sa sh))
  | _ => none

/-- Is the operation encoded in the form: 0 VV, 4 VX, 3 VI? -/
def viForm (f6 f3 : Nat) : Bool :=
  match f3 with
  | 0 => f6 ≠ 0x03
  | 3 => !([0x02, 0x04, 0x05, 0x06, 0x07, 0x22, 0x23, 0x27].contains f6)
  | _ => true

/-- Single-width operations of OPM. -/
def vmBin (n xrm f6 a b : Nat) : Option (Nat × Bool) :=
  let o := fun (v : Nat) => some (v % 2 ^ n, false)
  match f6 with
  | 0x08 => o (wrapTo n (fixRound xrm ((a : Int) + b) 1))
  | 0x09 => o (wrapTo n (fixRound xrm (signedOf n a + signedOf n b) 1))
  | 0x0A => o (wrapTo n (fixRound xrm ((a : Int) - b) 1))
  | 0x0B => o (wrapTo n (fixRound xrm (signedOf n a - signedOf n b) 1))
  | 0x20 => o (divOf n true a b)
  | 0x21 => o (divOf n false a b)
  | 0x22 => o (remOf n true a b)
  | 0x23 => o (remOf n false a b)
  | 0x24 => o (mulHigh n true true a b)
  | 0x25 => o (a * b)
  | 0x26 => o (mulHigh n false true a b)
  | 0x27 => o (mulHigh n false false a b)
  | _ => none

/-- Multiply-adds of OPM: d is the old element of vd. -/
def vmAcc (n f6 a b d : Nat) : Option Nat :=
  let neg := fun (v : Nat) => 2 ^ n - v % 2 ^ n
  match f6 with
  | 0x29 => some ((b * d + a) % 2 ^ n)
  | 0x2B => some ((neg (b * d) + a) % 2 ^ n)
  | 0x2D => some ((b * a + d) % 2 ^ n)
  | 0x2F => some ((neg (b * a) + d) % 2 ^ n)
  | _ => none

/-- Widening operations of OPM, n the narrow width: d is the old wide element. -/
def vmWide (n f6 a b d : Nat) : Option Nat :=
  let m := 2 * n
  let sa := signedOf n a
  let sb := signedOf n b
  let o := fun (i : Int) => some (wrapTo m i)
  match f6 with
  | 0x30 => o (a + b)
  | 0x31 => o (sa + sb)
  | 0x32 => o ((a : Int) - b)
  | 0x33 => o (sa - sb)
  | 0x34 => o (a + b)
  | 0x35 => o (a + sb)
  | 0x36 => o ((a : Int) - b)
  | 0x37 => o ((a : Int) - sb)
  | 0x38 => o ((a : Int) * b)
  | 0x3A => o (sa * b)
  | 0x3B => o (sa * sb)
  | 0x3C => o ((a : Int) * b + d)
  | 0x3D => o (sa * sb + d)
  | 0x3E => o (sa * b + d)
  | 0x3F => o ((a : Int) * sb + d)
  | _ => none

/-- Comparisons of OPI. -/
def viCmp (n f6 a b : Nat) : Bool :=
  let sa := signedOf n a
  let sb := signedOf n b
  match f6 with
  | 0x18 => a = b
  | 0x19 => a ≠ b
  | 0x1A => a < b
  | 0x1B => sa < sb
  | 0x1C => a ≤ b
  | 0x1D => sa ≤ sb
  | 0x1E => b < a
  | _ => sb < sa

/-- The forms of a comparison. -/
def viCmpForm (f6 f3 : Nat) : Bool :=
  match f3 with
  | 0 => f6 < 0x1E
  | 3 => f6 ≠ 0x1A && f6 ≠ 0x1B
  | _ => true

/-- A reduction's step. -/
def vmRed (n f6 a b : Nat) : Nat :=
  match f6 with
  | 0 => (a + b) % 2 ^ n
  | 1 => a &&& b
  | 2 => a ||| b
  | 3 => a ^^^ b
  | 4 => min a b
  | 5 => if signedOf n a < signedOf n b then a else b
  | 6 => max a b
  | _ => if signedOf n a < signedOf n b then b else a

/-! ### OPI -/

/-- vslideup and vslidedown by k places; the elements below the offset of a slide up are not written. -/
def State.rvSlide (s : State) (h w raw : Nat) (c : VCfg) (up : Bool) : State :=
  let k := s.hartOf h
  let by' := if rvF3 w = 3 then vVs1 w else (k.xreg (rvRs1 w)).toNat
  let e := c.sew
  let vd := vVd w
  let vs := vVs2 w
  let ok := groupOk vs c.lm && (!up || disjoint vd c.lm vs c.lm)
  if up then
    s.vecGroup h raw { c with vstart := max c.vstart (min by' 256) } (vVm w) vd e ok fun i => (k.elem vs (i - by') e, false)
  else
    s.vecGroup h raw c (vVm w) vd e ok fun i => (if vlMax e c.lm ≤ i + by' then 0 else k.elem vs (i + by') e, false)

/-- vrgather, and vrgatherei16 (`ei16`). -/
def State.rvGather (s : State) (h w raw : Nat) (c : VCfg) (ei16 : Bool) : State :=
  let k := s.hartOf h
  let e := c.sew
  let ixE := if ei16 then 2 else e
  let ix := fun (i : Nat) => match rvF3 w with
    | 0 => k.elem (vVs1 w) i ixE
    | 3 => vVs1 w
    | _ => (k.xreg (rvRs1 w)).toNat
  let ok := groupOk (vVs2 w) c.lm && disjoint (vVd w) c.lm (vVs2 w) c.lm &&
    (rvF3 w ≠ 0 || (groupOk (vVs1 w) (c.emul ixE) && disjoint (vVd w) c.lm (vVs1 w) (c.emul ixE)))
  s.vecGroup h raw c (vVm w) (vVd w) e ok fun i => (if vlMax e c.lm ≤ ix i then 0 else k.elem (vVs2 w) (ix i) e, false)

/-- vadc, vmadc, vsbc and vmsbc. -/
def State.rvCarry (s : State) (h w raw : Nat) (c : VCfg) : State :=
  let k := s.hartOf h
  let e := c.sew
  let n := 8 * e
  let f6 := vF6 w
  let vm := vVm w
  let cin := fun (i : Nat) => if !vm && k.maskAt 0 i then 1 else 0
  let a := fun (i : Nat) => k.elem (vVs2 w) i e
  let b := fun (i : Nat) => k.opB w e false i
  let ok := groupOk (vVs2 w) c.lm && opBOk w c.lm && (f6 < 0x12 || rvF3 w ≠ 3)
  match f6 with
  | 0x10 => s.vecGroup h raw c true (vVd w) e (ok && !vm && vVd w ≠ 0) fun i => ((a i + b i + cin i) % 2 ^ n, false)
  | 0x12 => s.vecGroup h raw c true (vVd w) e (ok && !vm && vVd w ≠ 0) fun i => ((a i + 2 ^ (n + 1) - b i - cin i) % 2 ^ n, false)
  | _ =>
    let ok := ok && overlapOk (vVd w) 0 0 (vVs2 w) e c.lm && (!isVV w || overlapOk (vVd w) 0 0 (vVs1 w) e c.lm)
    if f6 = 0x11 then s.vecMask h raw { c with ma := false } true (vVd w) ok fun i => 2 ^ n ≤ a i + b i + cin i
    else s.vecMask h raw { c with ma := false } true (vVd w) ok fun i => a i < b i + cin i

/-- vmerge and vmv.v. -/
def State.rvMerge (s : State) (h w raw : Nat) (c : VCfg) : State :=
  let k := s.hartOf h
  let e := c.sew
  let b := fun (i : Nat) => k.opB w e false i
  if vVm w then s.vecGroup h raw c true (vVd w) e (vVs2 w = 0 && opBOk w c.lm) fun i => (b i, false)
  else
    s.vecGroup h raw c true (vVd w) e (vVd w ≠ 0 && groupOk (vVs2 w) c.lm && opBOk w c.lm) fun i =>
      (if k.maskAt 0 i then b i else k.elem (vVs2 w) i e, false)

/-- Narrowing shifts and clips. -/
def State.rvNarrow (s : State) (h w raw : Nat) (c : VCfg) : State :=
  let k := s.hartOf h
  let e := c.sew
  let n := 8 * e
  let ok := e < 8 && groupOk (vVs2 w) (c.lm + 1) && opBOk w c.lm && overlapOk (vVd w) e c.lm (vVs2 w) (2 * e) (c.lm + 1)
  s.vecGroup h raw c (vVm w) (vVd w) e ok fun i =>
    let a := k.elem (vVs2 w) i (2 * e)
    let sh := k.opB w e true i % (2 * n)
    let xrm := k.cbits 0xF 2 1
    match vF6 w with
    | 0x2C => (a / 2 ^ sh % 2 ^ n, false)
    | 0x2D => (wrapTo n (signedOf (2 * n) a / (2 : Int) ^ sh), false)
    | 0x2E => satTo n true (fixRound xrm a sh)
    | _ => satTo n false (fixRound xrm (signedOf (2 * n) a) sh)

/-- vmv1r.v to vmv8r.v: whole registers. -/
def State.rvMoveRegs (s : State) (h w raw : Nat) : State :=
  let k := s.hartOf h
  let n := vVs1 w + 1
  if !(vVm w) || !([1, 2, 4, 8].contains n) || vVd w % n ≠ 0 || vVs2 w % n ≠ 0 then s.hartIllegal h raw
  else s.vecDone h ((List.range n).foldl (fun acc i => acc.setVec (vVd w + i) (k.vecReg (vVs2 w + i))) k)

/-- A reduction into element 0 of vd: e the width of the sum, `src` an element widened to it. -/
def State.vecReduce (s : State) (h w raw : Nat) (c : VCfg) (e : Nat) (ok : Bool) (op : Nat → Nat → Nat) (src : Nat → Nat) : State :=
  if !ok || !groupOk (vVs2 w) c.lm || c.vstart ≠ 0 then s.hartIllegal h raw else
  let k := s.hartOf h
  if c.vl = 0 then s.vecDone h k else
  let v := (c.body k (vVm w)).foldl (fun acc i => op acc (src i)) (k.elem (vVs1 w) 0 e)
  let a := s.agnostic
  a.2.vecDone h (k.putGroup { c with vl := 1 } a.1 true (vVd w) e 1 fun _ => v)

/-- OPIVV, OPIVX and OPIVI. -/
def State.rvOpi (s : State) (h w raw : Nat) (c : VCfg) : State :=
  let k := s.hartOf h
  let e := c.sew
  let n := 8 * e
  let f6 := vF6 w
  let f3 := rvF3 w
  if f6 = 0x0C then s.rvGather h w raw c false
  else if f6 = 0x0E then (if f3 = 0 then s.rvGather h w raw c true else s.rvSlide h w raw c true)
  else if f6 = 0x0F then (if f3 = 0 then s.hartIllegal h raw else s.rvSlide h w raw c false)
  else if 0x10 ≤ f6 && f6 ≤ 0x13 then s.rvCarry h w raw c
  else if f6 = 0x17 then s.rvMerge h w raw c
  else if 0x18 ≤ f6 && f6 ≤ 0x1F then
    let ok := viCmpForm f6 f3 && groupOk (vVs2 w) c.lm && opBOk w c.lm && overlapOk (vVd w) 0 0 (vVs2 w) e c.lm &&
      (!isVV w || overlapOk (vVd w) 0 0 (vVs1 w) e c.lm)
    s.vecMask h raw c (vVm w) (vVd w) ok fun i => viCmp n f6 (k.elem (vVs2 w) i e) (k.opB w e false i)
  else if f6 = 0x27 && f3 = 3 then s.rvMoveRegs h w raw
  else if 0x2C ≤ f6 && f6 ≤ 0x2F then s.rvNarrow h w raw c
  else if f6 = 0x30 || f6 = 0x31 then
    let wide := fun (i : Nat) => if f6 = 0x30 then k.elem (vVs2 w) i e else wrapTo (2 * n) (signedOf n (k.elem (vVs2 w) i e))
    s.vecReduce h w raw c (2 * e) (f3 = 0 && e < 8) (fun x y => (x + y) % 2 ^ (2 * n)) wide
  else
    let imm := [0x25, 0x28, 0x29, 0x2A, 0x2B].contains f6
    let xrm := k.cbits 0xF 2 1
    let ok := viForm f6 f3 && groupOk (vVs2 w) c.lm && opBOk w c.lm && (viBin n xrm f6 0 0).isSome
    s.vecGroup h raw c (vVm w) (vVd w) e ok fun i => (viBin n xrm f6 (k.elem (vVs2 w) i e) (k.opB w e imm i)).getD (0, false)

/-! ### OPM -/

/-- Mask-register logic. -/
def maskLogic (f6 : Nat) (a b : Bool) : Bool :=
  match f6 with
  | 0x18 => a && !b
  | 0x19 => a && b
  | 0x1A => a || b
  | 0x1B => a != b
  | 0x1C => a || !b
  | 0x1D => !(a && b)
  | 0x1E => !(a || b)
  | _ => a == b

/-- vmsbf, vmsof, vmsif, viota and vid. -/
def State.rvMaskUnary (s : State) (h w raw : Nat) (c : VCfg) : State :=
  let k := s.hartOf h
  let vm := vVm w
  let vs := vVs2 w
  let set := fun (i : Nat) => k.active vm i && k.maskAt vs i
  let first := (List.range c.vl).find? set
  let ok := c.vstart = 0 && vVd w ≠ vs && (vm || vVd w ≠ 0)
  match vVs1 w with
  | 1 => s.vecMask h raw c vm (vVd w) ok fun i => first.all (i < ·)
  | 2 => s.vecMask h raw c vm (vVd w) ok fun i => first = some i
  | 3 => s.vecMask h raw c vm (vVd w) ok fun i => first.all (i ≤ ·)
  | 0x10 =>
    s.vecGroup h raw c vm (vVd w) c.sew (c.vstart = 0 && disjoint (vVd w) c.lm vs 0) fun i =>
      (((List.range i).filter set).length % 2 ^ (8 * c.sew), false)
  | 0x11 => s.vecGroup h raw c vm (vVd w) c.sew (vs = 0) fun i => (i % 2 ^ (8 * c.sew), false)
  | _ => s.hartIllegal h raw

/-- vmv.x.s, vcpop and vfirst; vmv.s.x. -/
def State.rvVecScalar (s : State) (h w raw : Nat) (c : VCfg) : State :=
  let k := s.hartOf h
  let vm := vVm w
  let set := fun (i : Nat) => k.active vm i && k.maskAt (vVs2 w) i
  if rvF3 w = 6 then
    if vVs2 w ≠ 0 || !vm then s.hartIllegal h raw else
    let a := s.agnostic
    a.2.vecDone h (k.putGroup { c with vl := min c.vl 1 } a.1 true (vVd w) c.sew 1 fun _ => (k.xreg (rvRs1 w)).toNat)
  else match vVs1 w with
    | 0 => if vm then s.vecDone h (k.setX (rvRd w) (sx (8 * c.sew) (k.elem (vVs2 w) 0 c.sew))) else s.hartIllegal h raw
    | 0x10 =>
      if c.vstart ≠ 0 then s.hartIllegal h raw
      else s.vecDone h (k.setX (rvRd w) (BitVec.ofNat 64 ((List.range c.vl).filter set).length))
    | 0x11 =>
      if c.vstart ≠ 0 then s.hartIllegal h raw
      else s.vecDone h (k.setX (rvRd w) (match (List.range c.vl).find? set with
        | some i => BitVec.ofNat 64 i
        | none => maskOf 63 0))
    | _ => s.hartIllegal h raw

/-- vzext and vsext. -/
def State.rvExtend (s : State) (h w raw : Nat) (c : VCfg) : State :=
  let k := s.hartOf h
  let code := vVs1 w
  let ratio := if code < 4 then 8 else if code < 6 then 4 else 2
  let e := c.sew / ratio
  let lm := c.lm - (Nat.log2 ratio : Int)
  let ok := 2 ≤ code && code ≤ 7 && 1 ≤ e && groupOk (vVs2 w) lm && overlapOk (vVd w) c.sew c.lm (vVs2 w) e lm
  s.vecGroup h raw c (vVm w) (vVd w) c.sew ok fun i =>
    let a := k.elem (vVs2 w) i e
    (if code % 2 = 0 then a else wrapTo (8 * c.sew) (signedOf (8 * e) a), false)

/-- vslide1up and vslide1down; `x` is the scalar. -/
def State.rvSlide1 (s : State) (h w raw : Nat) (c : VCfg) (up : Bool) (x : Nat) : State :=
  let k := s.hartOf h
  let e := c.sew
  let vs := vVs2 w
  if up then
    s.vecGroup h raw c (vVm w) (vVd w) e (groupOk vs c.lm && disjoint (vVd w) c.lm vs c.lm) fun i =>
      (if i = 0 then x else k.elem vs (i - 1) e, false)
  else
    s.vecGroup h raw c (vVm w) (vVd w) e (groupOk vs c.lm) fun i => (if i + 1 = c.vl then x else k.elem vs (i + 1) e, false)

/-- vcompress. -/
def State.rvCompress (s : State) (h w raw : Nat) (c : VCfg) : State :=
  let k := s.hartOf h
  let e := c.sew
  let src := (List.range c.vl).filter fun i => k.maskAt (vVs1 w) i
  let ok := vVm w && c.vstart = 0 && groupOk (vVd w) c.lm && groupOk (vVs2 w) c.lm && disjoint (vVd w) c.lm (vVs2 w) c.lm &&
    disjoint (vVd w) c.lm (vVs1 w) 0
  if !ok then s.hartIllegal h raw
  else if c.vl = 0 then s.vecDone h k
  else
    let a := s.agnostic
    let c' := { c with vl := src.length }
    -- with nothing set, every element is tail
    let k' := if src = [] then k else k.putGroup c' a.1 true (vVd w) e (groupRegs c.lm) fun i => k.elem (vVs2 w) (src.getD i 0) e
    a.2.vecDone h k'

/-- Widening operations. -/
def State.rvWide (s : State) (h w raw : Nat) (c : VCfg) : State :=
  let k := s.hartOf h
  let e := c.sew
  let f6 := vF6 w
  let wideA := 0x34 ≤ f6 && f6 ≤ 0x37
  let aE := if wideA then 2 * e else e
  let aLm := if wideA then c.lm + 1 else c.lm
  let ok := e < 8 && (vmWide 8 f6 0 0 0).isSome && (f6 ≠ 0x3E || rvF3 w = 6) && groupOk (vVs2 w) aLm && opBOk w c.lm &&
    overlapOk (vVd w) (2 * e) (c.lm + 1) (vVs2 w) aE aLm && (!isVV w || overlapOk (vVd w) (2 * e) (c.lm + 1) (vVs1 w) e c.lm)
  s.vecGroup h raw c (vVm w) (vVd w) (2 * e) ok fun i =>
    ((vmWide (8 * e) f6 (k.elem (vVs2 w) i aE) (k.opB w e false i) (k.elem (vVd w) i (2 * e))).getD 0, false)

/-- OPMVV and OPMVX. -/
def State.rvOpm (s : State) (h w raw : Nat) (c : VCfg) : State :=
  let k := s.hartOf h
  let e := c.sew
  let n := 8 * e
  let f6 := vF6 w
  let vv := rvF3 w = 2
  let a := fun (i : Nat) => k.elem (vVs2 w) i e
  let b := fun (i : Nat) => k.opB w e false i
  let grpOk := groupOk (vVs2 w) c.lm && opBOk w c.lm
  if f6 < 8 then s.vecReduce h w raw c e vv (vmRed n f6) a
  else if f6 = 0x0E || f6 = 0x0F then
    if vv then s.hartIllegal h raw else s.rvSlide1 h w raw c (f6 = 0x0E) ((k.xreg (rvRs1 w)).toNat % 2 ^ n)
  else if f6 = 0x10 then s.rvVecScalar h w raw c
  else if f6 = 0x12 then (if vv then s.rvExtend h w raw c else s.hartIllegal h raw)
  else if f6 = 0x14 then (if vv then s.rvMaskUnary h w raw c else s.hartIllegal h raw)
  else if f6 = 0x17 then (if vv then s.rvCompress h w raw c else s.hartIllegal h raw)
  else if 0x18 ≤ f6 && f6 ≤ 0x1F then
    s.vecMask h raw c true (vVd w) (vv && vVm w) fun i => maskLogic f6 (k.maskAt (vVs2 w) i) (k.maskAt (vVs1 w) i)
  else if 0x30 ≤ f6 then s.rvWide h w raw c
  else if (vmAcc n f6 0 0 0).isSome then
    s.vecGroup h raw c (vVm w) (vVd w) e grpOk fun i => ((vmAcc n f6 (a i) (b i) (k.elem (vVd w) i e)).getD 0, false)
  else
    let xrm := k.cbits 0xF 2 1
    s.vecGroup h raw c (vVm w) (vVd w) e (grpOk && (vmBin n xrm f6 0 0).isSome) fun i => (vmBin n xrm f6 (a i) (b i)).getD (0, false)

end Sys2Proof.Machine
end

