-- ==== Sys2Proof/Machine/RvVecFp.lean ====
section
/-!
DEFINITION. The floating-point vector instructions of a Quill hart, on singles and doubles: half-precision vector arithmetic is not
supported (Table 3-5 of spec/, R93; encodings and rules PRESUMED, notes/assumptions/60). An unordered sum is a free value: RISC-V
leaves the order of its additions open.
-/
namespace Sys2Proof.Machine

/-- The format of elements of e bytes; none for halves and bytes. -/
def vecFormat (e : Nat) : Option FFormat := if e = 4 then some rvSingle else if e = 8 then some rvDouble else none

/-- The first operand beside vs2: an element of vs1, or f[rs1]. -/
def Hart.fopB (k : Hart) (w e i : Nat) : Nat :=
  if rvF3 w = 1 then k.elem (vVs1 w) i e else k.fpArg (if e = 8 then 1 else 0) (vVs1 w)

/-- Flags raised over the elements an instruction computes. -/
def bodyFlags (c : VCfg) (k : Hart) (vm : Bool) (f : Nat → FpRes) : Nat := (c.body k vm).foldl (fun a i => a ||| (f i).flags) 0

/-- An instruction that writes a group of elements of e bytes, with flags. -/
def State.vecFp (s : State) (h raw : Nat) (c : VCfg) (vm : Bool) (vd e : Nat) (ok : Bool) (f : Nat → FpRes) : State :=
  if !ok || !groupOk vd (c.emul e) || (!vm && vd = 0) then s.hartIllegal h raw else
  let k := s.hartOf h
  let a := s.agnostic
  a.2.vecDone h ((k.putGroup c a.1 vm vd e (groupRegs (c.emul e)) fun i => (f i).val).raiseFp (bodyFlags c k vm f))

/-- A comparison: a mask of results that are not 0, with flags. -/
def State.vecFpMask (s : State) (h raw : Nat) (c : VCfg) (vm : Bool) (vd : Nat) (ok : Bool) (f : Nat → FpRes) : State :=
  if !ok then s.hartIllegal h raw else
  let k := s.hartOf h
  let a := s.agnostic
  a.2.vecDone h ((k.putMask c a.1 vm vd fun i => (f i).val ≠ 0).raiseFp (bodyFlags c k vm f))

/-! ### Single-width arithmetic -/

/-- Operations of two values: a is the element of vs2. -/
def vfBin (f : FFormat) (rm f6 a b : Nat) : Option FpRes :=
  match f6 with
  | 0x00 => some (f.rvAdd rm a b)
  | 0x02 => some (f.rvSub rm a b)
  | 0x04 => some (f.rvMinMax false a b)
  | 0x06 => some (f.rvMinMax true a b)
  | 0x08 => some (fpOk (f.rvSgnj 0 a b))
  | 0x09 => some (fpOk (f.rvSgnj 1 a b))
  | 0x0A => some (fpOk (f.rvSgnj 2 a b))
  | 0x20 => some (f.rvDiv rm a b)
  | 0x21 => some (f.rvDiv rm b a)
  | 0x24 => some (f.rvMul rm a b)
  | 0x27 => some (f.rvSub rm b a)
  | _ => none

/-- Fused operations, by the low bits of funct6: the product and the addend negated or not; d is the old element of vd. -/
def vfFused (f : FFormat) (rm f6 a b d : Nat) : FpRes :=
  let negP := f6 % 2 = 1
  let negC := f6 % 4 = 1 || f6 % 4 = 2
  if f6 < 0x2C then f.rvFma rm negP negC b d a else f.rvFma rm negP negC b a d

/-- Comparisons of vs2 with the other operand. -/
def vfCmp (f : FFormat) (f6 a b : Nat) : Option FpRes :=
  match f6 with
  | 0x18 => some (f.rvCmp 2 a b)
  | 0x19 => some (f.rvCmp 0 a b)
  | 0x1B => some (f.rvCmp 1 a b)
  | 0x1C => let r := f.rvCmp 2 a b; some { r with val := 1 - r.val }
  | 0x1D => some (f.rvCmp 1 b a)
  | 0x1F => some (f.rvCmp 0 b a)
  | _ => none

/-- One operand: square root, the estimates and the class. -/
def vfUnary1 (f : FFormat) (rm code a : Nat) : Option FpRes :=
  match code with
  | 0x00 => some (f.rvSqrt rm a)
  | 0x04 => some (f.rvRsqrt7 a)
  | 0x05 => some (f.rvRec7 rm a)
  | 0x10 => some (fpOk (f.rvClass a))
  | _ => none

/-! ### Conversions -/

/-- A conversion, by the low bits of its code, from elements of eS bytes to elements of eD: none where a format is absent. -/
def vfConvert (rm code eS eD a : Nat) : Option FpRes :=
  let toInt := fun (rm : Nat) (u : Bool) => (vecFormat eS).map fun f => f.rvToInt rm (8 * eD) u a
  match code % 8 with
  | 0 => toInt rm true
  | 1 => toInt rm false
  | 2 => (vecFormat eD).map fun f => f.rvFromInt rm a
  | 3 => (vecFormat eD).map fun f => f.rvFromInt rm (signedOf (8 * eS) a)
  | 4 => match vecFormat eS, vecFormat eD with
    | some f, some g => if eS = eD then none else some (rvConvert f g rm a)
    | _, _ => none
  | 5 => match vecFormat eS, vecFormat eD with
    | some f, some g => if eD < eS then some (rvConvertOdd f g a) else none
    | _, _ => none
  | 6 => toInt 1 true
  | _ => toInt 1 false

/-- VFUNARY0: conversions of one width, widening (codes 8 to 15) and narrowing (16 to 23). -/
def State.rvVfConvert (s : State) (h w raw : Nat) (c : VCfg) (rm : Nat) : State :=
  let k := s.hartOf h
  let code := vVs1 w
  let e := c.sew
  let wide := code / 8 = 1
  let narrow := code / 8 = 2
  let eS := if narrow then 2 * e else e
  let eD := if wide then 2 * e else e
  let ok := code < 24 && eS ≤ 8 && eD ≤ 8 && (vfConvert rm code eS eD 0).isSome && groupOk (vVs2 w) (c.emul eS) &&
    overlapOk (vVd w) eD (c.emul eD) (vVs2 w) eS (c.emul eS)
  s.vecFp h raw c (vVm w) (vVd w) eD ok fun i => (vfConvert rm code eS eD (k.elem (vVs2 w) i eS)).getD (fpOk 0)

/-! ### Widening arithmetic -/

/-- A single as a double, with the flag of a signalling NaN. -/
def widened (a : Nat) : FpRes := rvConvert rvSingle rvDouble 0 a

/-- Widening operations on doubles, the narrow operands widened. -/
def vfWide (rm f6 : Nat) (a b : FpRes) (d : Nat) : Option FpRes :=
  let f := rvDouble
  let o := fun (r : FpRes) => some { r with flags := r.flags ||| a.flags ||| b.flags }
  match f6 with
  | 0x30 => o (f.rvAdd rm a.val b.val)
  | 0x32 => o (f.rvSub rm a.val b.val)
  | 0x34 => o (f.rvAdd rm a.val b.val)
  | 0x36 => o (f.rvSub rm a.val b.val)
  | 0x38 => o (f.rvMul rm a.val b.val)
  | 0x3C => o (f.rvFma rm false false b.val a.val d)
  | 0x3D => o (f.rvFma rm true true b.val a.val d)
  | 0x3E => o (f.rvFma rm false true b.val a.val d)
  | 0x3F => o (f.rvFma rm true false b.val a.val d)
  | _ => none

def State.rvVfWide (s : State) (h w raw : Nat) (c : VCfg) (rm : Nat) : State :=
  let k := s.hartOf h
  let f6 := vF6 w
  let wideA := f6 = 0x34 || f6 = 0x36
  let aE := if wideA then 8 else 4
  let aLm := if wideA then c.lm + 1 else c.lm
  let ok := c.sew = 4 && (vfWide rm f6 (fpOk 0) (fpOk 0) 0).isSome && groupOk (vVs2 w) aLm && opBOk w c.lm &&
    overlapOk (vVd w) 8 (c.lm + 1) (vVs2 w) aE aLm && (!isVV w || overlapOk (vVd w) 8 (c.lm + 1) (vVs1 w) 4 c.lm)
  s.vecFp h raw c (vVm w) (vVd w) 8 ok fun i =>
    let a := k.elem (vVs2 w) i aE
    (vfWide rm f6 (if wideA then fpOk a else widened a) (widened (k.fopB w 4 i)) (k.elem (vVd w) i 8)).getD (fpOk 0)

/-! ### Reductions -/

/-- A reduction in the order of the elements: e the width of the result. -/
def State.vecFpReduce (s : State) (h w raw : Nat) (c : VCfg) (e : Nat) (ok : Bool) (op : Nat → Nat → FpRes) (src : Nat → FpRes) :
    State :=
  if !ok || !groupOk (vVs2 w) c.lm || c.vstart ≠ 0 then s.hartIllegal h raw else
  let k := s.hartOf h
  if c.vl = 0 then s.vecDone h k else
  let r := (c.body k (vVm w)).foldl (fun acc i =>
    let b := src i
    let r := op acc.val b.val
    { val := r.val, flags := acc.flags ||| r.flags ||| b.flags }) (fpOk (k.elem (vVs1 w) 0 e))
  let a := s.agnostic
  a.2.vecDone h ((k.putGroup { c with vl := 1 } a.1 true (vVd w) e 1 fun _ => r.val).raiseFp r.flags)

/-- An unordered sum: a free value, and free flags; with no active element the scalar itself. -/
def State.vecFpSum (s : State) (h w raw : Nat) (c : VCfg) (e : Nat) (ok : Bool) : State :=
  if !ok || !groupOk (vVs2 w) c.lm || c.vstart ≠ 0 then s.hartIllegal h raw else
  let k := s.hartOf h
  if c.vl = 0 then s.vecDone h k else
  let v := s.free
  let fl := v.2.free
  let a := fl.2.agnostic
  let r : FpRes := if c.body k (vVm w) = [] then fpOk (k.elem (vVs1 w) 0 e)
    else { val := v.1.toNat % 2 ^ (8 * e), flags := fl.1.toNat % 32 }
  a.2.vecDone h ((k.putGroup { c with vl := 1 } a.1 true (vVd w) e 1 fun _ => r.val).raiseFp r.flags)

/-! ### Moves -/

/-- vfmv.f.s and vfmv.s.f. -/
def State.rvVfScalar (s : State) (h w raw : Nat) (c : VCfg) : State :=
  let k := s.hartOf h
  let e := c.sew
  if !(vVm w) then s.hartIllegal h raw
  else if rvF3 w = 1 then
    if vVs1 w ≠ 0 then s.hartIllegal h raw
    else s.vecDone h (k.setF (nbits w 11 7) (fpBox (if e = 8 then 1 else 0) (k.elem (vVs2 w) 0 e)))
  else if vVs2 w ≠ 0 then s.hartIllegal h raw
  else
    let a := s.agnostic
    a.2.vecDone h (k.putGroup { c with vl := min c.vl 1 } a.1 true (vVd w) e 1 fun _ => k.fopB w e 0)

/-- vfmerge.vfm and vfmv.v.f. -/
def State.rvVfMerge (s : State) (h w raw : Nat) (c : VCfg) : State :=
  let k := s.hartOf h
  let e := c.sew
  let b := k.fopB w e 0
  if vVm w then s.vecGroup h raw c true (vVd w) e (vVs2 w = 0) fun _ => (b, false)
  else
    s.vecGroup h raw c true (vVd w) e (vVd w ≠ 0 && groupOk (vVs2 w) c.lm) fun i =>
      (if k.maskAt 0 i then b else k.elem (vVs2 w) i e, false)

/-! ### Dispatch -/

/-- The forms: operations with a vector operand only, and with a scalar only. -/
def vfForm (f6 : Nat) (vv : Bool) : Bool :=
  if [0x01, 0x03, 0x05, 0x07, 0x12, 0x13, 0x31, 0x33].contains f6 then vv
  else if [0x0E, 0x0F, 0x17, 0x1D, 0x1F, 0x21, 0x27].contains f6 then !vv
  else true

/-- Operations on elements of SEW in format f. -/
def State.rvVfSingle (s : State) (h w raw : Nat) (c : VCfg) (rm : Nat) (f : FFormat) : State :=
  let k := s.hartOf h
  let e := c.sew
  let f6 := vF6 w
  let a := fun (i : Nat) => k.elem (vVs2 w) i e
  let b := fun (i : Nat) => k.fopB w e i
  let grpOk := groupOk (vVs2 w) c.lm && opBOk w c.lm
  match f6 with
  | 0x01 => s.vecFpSum h w raw c e true
  | 0x03 => s.vecFpReduce h w raw c e true (f.rvAdd rm) fun i => fpOk (a i)
  | 0x05 => s.vecFpReduce h w raw c e true (f.rvMinMax false) fun i => fpOk (a i)
  | 0x07 => s.vecFpReduce h w raw c e true (f.rvMinMax true) fun i => fpOk (a i)
  | 0x0E => s.rvSlide1 h w raw c true (b 0)
  | 0x0F => s.rvSlide1 h w raw c false (b 0)
  | 0x10 => s.rvVfScalar h w raw c
  | 0x13 =>
    s.vecFp h raw c (vVm w) (vVd w) e (groupOk (vVs2 w) c.lm && (vfUnary1 f rm (vVs1 w) 0).isSome) fun i =>
      (vfUnary1 f rm (vVs1 w) (a i)).getD (fpOk 0)
  | 0x17 => s.rvVfMerge h w raw c
  | _ =>
    if 0x18 ≤ f6 && f6 ≤ 0x1F then
      let ok := grpOk && (vfCmp f f6 0 0).isSome && overlapOk (vVd w) 0 0 (vVs2 w) e c.lm &&
        (!isVV w || overlapOk (vVd w) 0 0 (vVs1 w) e c.lm)
      s.vecFpMask h raw c (vVm w) (vVd w) ok fun i => (vfCmp f f6 (a i) (b i)).getD (fpOk 0)
    else if 0x28 ≤ f6 && f6 ≤ 0x2F then
      s.vecFp h raw c (vVm w) (vVd w) e grpOk fun i => vfFused f rm f6 (a i) (b i) (k.elem (vVd w) i e)
    else
      s.vecFp h raw c (vVm w) (vVd w) e (grpOk && (vfBin f rm f6 0 0).isSome) fun i => (vfBin f rm f6 (a i) (b i)).getD (fpOk 0)

/-- OPFVV and OPFVF: FS must be on and frm hold a rounding mode. -/
def State.rvOpf (s : State) (h w raw : Nat) (c : VCfg) : State :=
  let k := s.hartOf h
  let f6 := vF6 w
  let rm := k.cbits 3 7 5
  if k.fpOff || 4 < rm || !vfForm f6 (rvF3 w = 1) then s.hartIllegal h raw
  else if f6 = 0x12 then s.rvVfConvert h w raw c rm
  else if f6 = 0x31 then s.vecFpSum h w raw c 8 (c.sew = 4)
  else if f6 = 0x33 then s.vecFpReduce h w raw c 8 (c.sew = 4) (rvDouble.rvAdd rm) fun i => widened (k.elem (vVs2 w) i 4)
  else if 0x30 ≤ f6 then s.rvVfWide h w raw c rm
  else match vecFormat c.sew with
    | some f => s.rvVfSingle h w raw c rm f
    | none => s.hartIllegal h raw

end Sys2Proof.Machine
end

