-- ==== Sys2Proof/Machine/RvVecMem.lean ====
section
/-!
DEFINITION. Vector loads and stores of a Quill hart: unit-stride, strided, indexed, segments, whole registers, masks and
fault-only-first (V 1.0, Tables 3-5 and 3-6 of spec/; encodings and rules PRESUMED, notes/assumptions/60). Elements are accessed in
order; a failing one leaves vstart at it.
-/
namespace Sys2Proof.Machine

/-- A vector access, laid out: the element size, registers a field takes, fields, the address of each element, how many elements
there are, and whether the load is fault-only-first. -/
structure VMem where
  vm : Bool
  size : Nat
  emul : Nat
  nf : Nat
  vl : Nat
  addr : Nat → W64
  fof : Bool

/-- Bytes of an element width; none for the widths of scalar accesses. -/
def vWidth (f3 : Nat) : Option Nat :=
  match f3 with
  | 0 => some 1
  | 5 => some 2
  | 6 => some 4
  | 7 => some 8
  | _ => none

/-- Does a group of nf fields of log₂ EMUL lie within the registers? -/
def segOk (vd nf : Nat) (lm : Int) : Bool := groupOk vd lm && nf * groupRegs lm ≤ 8 && vd + nf * groupRegs lm ≤ 32

/-- A unit-stride access of element size e: plain, whole registers, a mask, or fault-only-first (loads). -/
def Hart.unitAccess (k : Hart) (c : VCfg) (w e nf : Nat) (load : Bool) : Option VMem :=
  let base := k.xreg (rvRs1 w)
  let vd := vVd w
  let addr := fun (i : Nat) => base + BitVec.ofNat 64 (i * nf * e)
  let plain := fun (fof : Bool) =>
    if segOk vd nf (c.emul e) then
      some { vm := vVm w, size := e, emul := groupRegs (c.emul e), nf := nf, vl := c.vl, addr := addr, fof := fof : VMem }
    else none
  match vVs2 w with
  | 0 => plain false
  | 8 =>
    if vVm w && [1, 2, 4, 8].contains nf && vd % nf = 0 && (load || e = 1) then
      some { vm := true, size := e, emul := nf, nf := 1, vl := nf * 32 / e, addr := fun i => base + BitVec.ofNat 64 (i * e), fof := false }
    else none
  | 0xB =>
    if vVm w && e = 1 && nf = 1 then
      some { vm := true, size := 1, emul := 1, nf := 1, vl := (c.vl + 7) / 8, addr := addr, fof := false }
    else none
  | 0x10 => if load then plain true else none
  | _ => none

/-- The access a word names; none for a reserved one. -/
def Hart.vecAccess (k : Hart) (c : VCfg) (w e : Nat) (load : Bool) : Option VMem :=
  let base := k.xreg (rvRs1 w)
  let nf := nbits w 31 29 + 1
  let vd := vVd w
  if nbits w 28 28 ≠ 0 || (load && !(vVm w) && vd = 0) then none else
  match nbits w 27 26 with
  | 0 => k.unitAccess c w e nf load
  | 2 =>
    if segOk vd nf (c.emul e) then
      let stride := k.xreg (rvRs2 w)
      some { vm := vVm w, size := e, emul := groupRegs (c.emul e), nf := nf, vl := c.vl,
             addr := fun i => base + BitVec.ofNat 64 i * stride, fof := false }
    else none
  | _ =>
    let vs := vVs2 w
    let free := !load || (if nf = 1 then overlapOk vd c.sew c.lm vs e (c.emul e)
      else vd + nf * groupRegs c.lm ≤ vs || vs + groupRegs (c.emul e) ≤ vd)
    if segOk vd nf c.lm && groupOk vs (c.emul e) && free then
      some { vm := vVm w, size := c.sew, emul := groupRegs c.lm, nf := nf, vl := c.vl,
             addr := fun i => base + BitVec.ofNat 64 (k.elem vs i e), fof := false }
    else none

/-- vstart set to the element in progress. -/
def State.setVstart (s : State) (h i : Nat) : State := s.setHart h ((s.hartOf h).setCsr 8 (BitVec.ofNat 64 i))

/-- The tail and the masked-off elements of a load, undisturbed or agnostic. -/
def State.vecLoadEnd (s : State) (h : Nat) (c : VCfg) (v : VMem) (vd : Nat) : State :=
  let a := s.agnostic
  let keep := fun (k : Hart) (f : Nat) =>
    k.putGroup { c with vl := v.vl } a.1 v.vm (vd + f * v.emul) v.size v.emul fun i => k.elem (vd + f * v.emul) i v.size
  a.2.vecDone h ((List.range v.nf).foldl keep (s.hartOf h))

/-- The elements of a load, in order. -/
def State.vecLoad (s : State) (h c vd : Nat) (cfg : VCfg) (v : VMem) : List Nat → State
  | [] => s.vecLoadEnd h cfg v vd
  | i :: rest =>
    if !(s.hartOf h).active v.vm i then s.vecLoad h c vd cfg v rest else
    match (s.setVstart h i).vecFields h c v.size v.emul vd i v.nf (v.addr i) v.fof (List.range v.nf) with
    | (s, .done) => s.vecLoad h c vd cfg v rest
    | (s, .waits) => s
    | (s, .fails e) => s.vecFails h c e i v.fof

/-- The fields of one element of a store. -/
def State.vecStoreFields (s : State) (h c vd i : Nat) (v : VMem) : List Nat → State × Option HartFail
  | [] => (s, none)
  | f :: fs =>
    let k := s.hartOf h
    let m := k.mode .store
    let a := v.addr i + BitVec.ofNat 64 (f * v.size)
    if a.toNat % v.size ≠ 0 then (s, some (.trap { int := false, cause := 6, tval := a, gva := m.virt, gpa := 0 })) else
    match s.hartStore h c m a (toBytes v.size (k.elem (vd + f * v.emul) i v.size)) with
    | (s, .error e) => (s, some e)
    | (s, .ok ()) => s.vecStoreFields h c vd i v fs

/-- The elements of a store, in order. -/
def State.vecStore (s : State) (h c vd : Nat) (v : VMem) : List Nat → State
  | [] => s.vecDone h (s.hartOf h)
  | i :: rest =>
    if !(s.hartOf h).active v.vm i then s.vecStore h c vd v rest else
    match (s.setVstart h i).vecStoreFields h c vd i v (List.range v.nf) with
    | (s, none) => s.vecStore h c vd v rest
    | (s, some e) => s.hartFails h c e

/-- Does the word name whole registers, which need no vtype? -/
def isWhole (w : Nat) : Bool := nbits w 27 26 = 0 && vVs2 w = 8

/-- Does the word load a mask, whose tail is always agnostic? -/
def isMaskLoad (w : Nat) : Bool := nbits w 27 26 = 0 && vVs2 w = 0xB

/-- Vector loads (opcode LOAD-FP) and stores (STORE-FP). -/
def State.rvVecMem (s : State) (h c w raw : Nat) (load : Bool) : State :=
  let k := s.hartOf h
  let cfg := k.vcfg <|> if isWhole w then
    some { sew := 1, lm := 0, vl := 0, vstart := (k.csrAt 8).toNat, ta := false, ma := false } else none
  match vWidth (rvF3 w), cfg with
  | some e, some cfg =>
    if k.vecOff then s.hartIllegal h raw else
    (match k.vecAccess cfg w e load with
    | none => s.hartIllegal h raw
    | some v =>
      let todo := (List.range v.vl).drop cfg.vstart
      if load then s.vecLoad h c (vVd w) { cfg with ta := (cfg.ta || isMaskLoad w) && !(isWhole w) } v todo else s.vecStore h c (vVd w) v todo)
  | _, _ => s.hartIllegal h raw

end Sys2Proof.Machine
end

