-- ==== Sys2Proof/Machine/Riscv.lean ====
section
/-!
DEFINITION. RISCV_INSTRUCTION: one instruction of a Quill hart, as the word at its pc says (R93, R94, Tables 3-5 to 3-7 of spec/).
An encoding of no supported extension raises an illegal instruction. The base opcodes are RISC-V's (PRESUMED,
notes/assumptions/60).
-/
namespace Sys2Proof.Machine

/-- A jump or taken branch: every target with bit 0 clear is aligned, since C is supported. -/
def State.rvJump (s : State) (h : Nat) (k : Hart) (len : Nat) (target : W64) : State :=
  s.setHart h { k.advance len with pc := target }

/-- A result in rd; an illegal instruction where there is none. -/
def State.rvResult (s : State) (h w raw len : Nat) : Option W64 → State
  | some v => s.hartDone h ((s.hartOf h).setX (rvRd w) v) len
  | none => s.hartIllegal h raw

/-- JALR. -/
def State.rvJalr (s : State) (h w raw len : Nat) : State :=
  let k := s.hartOf h
  if rvF3 w ≠ 0 then s.hartIllegal h raw
  else s.rvJump h (k.setX (rvRd w) (k.pc + BitVec.ofNat 64 len)) len (setBits (k.xreg (rvRs1 w) + immI w) 0 0 0)

/-- A conditional branch. -/
def State.rvBranchOp (s : State) (h w raw len : Nat) : State :=
  let k := s.hartOf h
  match rvBranch (rvF3 w) (k.xreg (rvRs1 w)) (k.xreg (rvRs2 w)) with
  | some true => s.rvJump h k len (k.pc + immB w)
  | some false => s.hartDone h k len
  | none => s.hartIllegal h raw

/-- Is the word a prefetch of Zicbop, which Table 3-5 lists as not supported (R93)? -/
def isPrefetch (w : Nat) : Bool := rvF3 w = 6 && nbits w 11 7 = 0 && [0, 1, 3].contains (nbits w 24 20)

/-- OP-V. -/
def State.rvOpV (s : State) (h w raw : Nat) : State :=
  let k := s.hartOf h
  if k.vecOff then s.hartIllegal h raw
  else if rvF3 w = 7 then s.rvVset h w raw
  else match k.vcfg with
    | none => s.hartIllegal h raw
    | some c =>
      match rvF3 w with
      | 1 => s.rvOpf h w raw c
      | 5 => s.rvOpf h w raw c
      | 2 => s.rvOpm h w raw c
      | 6 => s.rvOpm h w raw c
      | _ => s.rvOpi h w raw c

/-- Custom-0: Xquill (Table 3-7, R94). -/
def State.rvXquill (s : State) (h c w raw : Nat) : State :=
  let k := s.hartOf h
  if rvF7 w ≠ 0 then s.hartIllegal h raw else
  match rvF3 w with
  | 0 => s.hartDone h (k.setX (rvRd w) (BitVec.ofNat 64 s.count)) 4
  | 1 => s.hartDone h (k.setX (rvRd w) (BitVec.ofNat 64 s.phase)) 4
  | 2 => s.qpost h c raw (rvRd w) (rvRs1 w) (rvRs2 w)
  | 3 => if rvRd w ≠ 0 || rvRs1 w ≠ 0 then s.hartIllegal h raw else s.qvote h c raw
  | _ => s.hartIllegal h raw

/-- A 32-bit instruction of `len` bytes; `raw` is the word as it was fetched. -/
def State.rvWord (s : State) (h c w raw len : Nat) : State :=
  let k := s.hartOf h
  let x1 := k.xreg (rvRs1 w)
  let x2 := k.xreg (rvRs2 w)
  let vecWidth := (vWidth (rvF3 w)).isSome
  match nbits w 6 0 with
  | 0x37 => s.rvResult h w raw len (some (immU w))
  | 0x17 => s.rvResult h w raw len (some (k.pc + immU w))
  | 0x6F => s.rvJump h (k.setX (rvRd w) (k.pc + BitVec.ofNat 64 len)) len (k.pc + immJ w)
  | 0x67 => s.rvJalr h w raw len
  | 0x63 => s.rvBranchOp h w raw len
  | 0x03 => s.rvLoad h c w raw len
  | 0x23 => s.rvStore h c w raw len
  | 0x13 => if isPrefetch w then s.hartIllegal h raw else s.rvResult h w raw len (rvAluImm w x1)
  | 0x1B => s.rvResult h w raw len (rvAluImm32 w x1)
  | 0x33 => s.rvResult h w raw len (rvAlu (rvF7 w) (rvF3 w) x1 x2)
  | 0x3B => s.rvResult h w raw len (rvAlu32 (rvF7 w) (rvF3 w) (nbits w 24 20) x1 x2)
  | 0x0F => s.rvMiscMem h c w raw
  | 0x73 => s.rvSystem h c w raw
  | 0x2F => s.rvAmo h c w raw
  | 0x07 => if vecWidth then s.rvVecMem h c w raw true else s.rvLoadFp h c w raw len
  | 0x27 => if vecWidth then s.rvVecMem h c w raw false else s.rvStoreFp h c w raw len
  | 0x53 => s.rvFloat h w raw
  | 0x43 => s.rvFloat h w raw
  | 0x47 => s.rvFloat h w raw
  | 0x4B => s.rvFloat h w raw
  | 0x4F => s.rvFloat h w raw
  | 0x57 => s.rvOpV h w raw
  | 0x0B => s.rvXquill h c w raw
  | _ => s.hartIllegal h raw

/-- The instruction of a fetched word: 16 bits are expanded first. -/
def State.rvExec (s : State) (h c raw : Nat) : State :=
  if raw % 4 = 3 then s.rvWord h c raw raw 4 else
  match rvExpand raw with
  | some w => s.rvWord h c w raw 2
  | none => s.hartIllegal h raw

/-- RISCV_INSTRUCTION: hart h executes the instruction at its pc. -/
def execRiscvInstruction (h : HartId) (s : State) : Out := .next (s.hartStep h fun s c raw => s.rvExec h c raw)

end Sys2Proof.Machine
end

