-- ==== Sys2Proof/Machine/Dispatch.lean ====
section
/-!
DEFINITION. The effect of each command on everything but the queue: one direct call of its meaning per constructor.
-/
namespace Sys2Proof.Machine

def exec (i : Instr) (s : State) : Host.Outcome State Fault Refusal :=
  match i with
  | .registerWrite f off data => Sys2Proof.Machine.execRegisterWrite f off data s
  | .readClearRead f off n => Sys2Proof.Machine.execReadClearRead f off n s
  | .lowHalfRead f word => Sys2Proof.Machine.execLowHalfRead f word s
  | .powerGood fw store straps => Sys2Proof.Machine.execPowerGood fw store straps s
  | .packageReset => Sys2Proof.Machine.execPackageReset s
  | .strokeBoundary t1 gone => Sys2Proof.Machine.execStrokeBoundary t1 gone s
  | .boundaryWindowClose => Sys2Proof.Machine.execBoundaryWindowClose s
  | .boundaryFrame l f t2 late => Sys2Proof.Machine.execBoundaryFrame l f t2 late s
  | .stoppedFrame l record fw => Sys2Proof.Machine.execStoppedFrame l record fw s
  | .replyFrame l t2 t3 t4 => Sys2Proof.Machine.execReplyFrame l t2 t3 t4 s
  | .boundaryFrameMissed p => Sys2Proof.Machine.execBoundaryFrameMissed p s
  | .imageArm c base => Sys2Proof.Machine.execImageArm c base s
  | .imageDisarm c base => Sys2Proof.Machine.execImageDisarm c base s
  | .imageValidationDone c => Sys2Proof.Machine.execImageValidationDone c s
  | .workListStart c ix => Sys2Proof.Machine.execWorkListStart c ix s
  | .milestoneCheck c ix => Sys2Proof.Machine.execMilestoneCheck c ix s
  | .slip p countLo x y c cause => Sys2Proof.Machine.execSlip p countLo x y c cause s
  | .strokeStart => Sys2Proof.Machine.execStrokeStart s
  | .strokeStop => Sys2Proof.Machine.execStrokeStop s
  | .voteSlip => Sys2Proof.Machine.execVoteSlip s
  | .joinTimeout => Sys2Proof.Machine.execJoinTimeout s
  | .dramRead a line err => Sys2Proof.Machine.execDramRead a line err s
  | .dramFullLineWrite a line mcomp data err => Sys2Proof.Machine.execDramFullLineWrite a line mcomp data err s
  | .dramPartialWrite a line off data err => Sys2Proof.Machine.execDramPartialWrite a line off data err s
  | .wellAccess a t word op err => Sys2Proof.Machine.execWellAccess a t word op err s
  | .scrubLine t err word => Sys2Proof.Machine.execScrubLine t err word s
  | .scrubPeriodWrite t period => Sys2Proof.Machine.execScrubPeriodWrite t period s
  | .invalidate all pages ctx va => Sys2Proof.Machine.execInvalidate all pages ctx va s
  | .invalidationDone => Sys2Proof.Machine.execInvalidationDone s
  | .hostPageAccess a va op => Sys2Proof.Machine.execHostPageAccess a va op s
  | .hostReadCompletion tag st data => Sys2Proof.Machine.execHostReadCompletion tag st data s
  | .completionTimeout tag => Sys2Proof.Machine.execCompletionTimeout tag s
  | .quillHartBind h run f => Sys2Proof.Machine.execQuillHartBind h run f s
  | .hartRun h f => Sys2Proof.Machine.execHartRun h f s
  | .hartStop h f => Sys2Proof.Machine.execHartStop h f s
  | .riscvInstruction h => Sys2Proof.Machine.execRiscvInstruction h s
  | .qstroke h rd => Sys2Proof.Machine.execQstroke h rd s
  | .qphase h rd => Sys2Proof.Machine.execQphase h rd s
  | .qpost h rd rs1 rs2 => Sys2Proof.Machine.execQpost h rd rs1 rs2 s
  | .qvote h => Sys2Proof.Machine.execQvote h s
  | .qebindWrite h data => Sys2Proof.Machine.execQebindWrite h data s
  | .qeventUpdate h bit => Sys2Proof.Machine.execQeventUpdate h bit s
  | .quillCoreFailure h => Sys2Proof.Machine.execQuillCoreFailure h s
  | .quillCacheUe line => Sys2Proof.Machine.execQuillCacheUe line s
  | .fabricFlitReplay link again => Sys2Proof.Machine.execFabricFlitReplay link again s
  | .storeDrain n => Sys2Proof.Machine.execStoreDrain n s
  | .nibBind n bound ctx => Sys2Proof.Machine.execNibBind n bound ctx s
  | .nibRunStart n => Sys2Proof.Machine.execNibRunStart n s
  | .nibCoreFailure t phys check => Sys2Proof.Machine.execNibCoreFailure t phys check s
  | .retiringWrite pa data => Sys2Proof.Machine.execRetiringWrite pa data s
  | .ringLock c slotsLog2 base => Sys2Proof.Machine.execRingLock c slotsLog2 base s
  | .ringInitDone c => Sys2Proof.Machine.execRingInitDone c s
  | .ringUnlock c slotsLog2 base => Sys2Proof.Machine.execRingUnlock c slotsLog2 base s
  | .stalledDispatchAccept a => Sys2Proof.Machine.execStalledDispatchAccept a s
  | .illegalInstruction n w => Sys2Proof.Machine.execIllegalInstruction n w s
  | .add n rd rs1 b => Sys2Proof.Machine.execAdd n rd rs1 b s
  | .sub n rd rs1 b => Sys2Proof.Machine.execSub n rd rs1 b s
  | .and n rd rs1 b => Sys2Proof.Machine.execAnd n rd rs1 b s
  | .or n rd rs1 b => Sys2Proof.Machine.execOr n rd rs1 b s
  | .xor n rd rs1 b => Sys2Proof.Machine.execXor n rd rs1 b s
  | .sll n rd rs1 b => Sys2Proof.Machine.execSll n rd rs1 b s
  | .srl n rd rs1 b => Sys2Proof.Machine.execSrl n rd rs1 b s
  | .sra n rd rs1 b => Sys2Proof.Machine.execSra n rd rs1 b s
  | .slt n rd rs1 b => Sys2Proof.Machine.execSlt n rd rs1 b s
  | .sltu n rd rs1 b => Sys2Proof.Machine.execSltu n rd rs1 b s
  | .min n rd rs1 b => Sys2Proof.Machine.execMin n rd rs1 b s
  | .max n rd rs1 b => Sys2Proof.Machine.execMax n rd rs1 b s
  | .minu n rd rs1 b => Sys2Proof.Machine.execMinu n rd rs1 b s
  | .maxu n rd rs1 b => Sys2Proof.Machine.execMaxu n rd rs1 b s
  | .clz n rd rs1 => Sys2Proof.Machine.execClz n rd rs1 s
  | .ctz n rd rs1 => Sys2Proof.Machine.execCtz n rd rs1 s
  | .popc n rd rs1 => Sys2Proof.Machine.execPopc n rd rs1 s
  | .bswap n rd rs1 => Sys2Proof.Machine.execBswap n rd rs1 s
  | .lui n rd rs1 imm => Sys2Proof.Machine.execLui n rd rs1 imm s
  | .mul n rd rs1 rs2 => Sys2Proof.Machine.execMul n rd rs1 rs2 s
  | .mulh n rd rs1 rs2 => Sys2Proof.Machine.execMulh n rd rs1 rs2 s
  | .mulhu n rd rs1 rs2 => Sys2Proof.Machine.execMulhu n rd rs1 rs2 s
  | .div n rd rs1 rs2 => Sys2Proof.Machine.execDiv n rd rs1 rs2 s
  | .divu n rd rs1 rs2 => Sys2Proof.Machine.execDivu n rd rs1 rs2 s
  | .rem n rd rs1 rs2 => Sys2Proof.Machine.execRem n rd rs1 rs2 s
  | .remu n rd rs1 rs2 => Sys2Proof.Machine.execRemu n rd rs1 rs2 s
  | .lb n rd rs1 imm => Sys2Proof.Machine.execLb n rd rs1 imm s
  | .lh n rd rs1 imm => Sys2Proof.Machine.execLh n rd rs1 imm s
  | .lw n rd rs1 imm => Sys2Proof.Machine.execLw n rd rs1 imm s
  | .ld n rd rs1 imm => Sys2Proof.Machine.execLd n rd rs1 imm s
  | .lbu n rd rs1 imm => Sys2Proof.Machine.execLbu n rd rs1 imm s
  | .lhu n rd rs1 imm => Sys2Proof.Machine.execLhu n rd rs1 imm s
  | .lwu n rd rs1 imm => Sys2Proof.Machine.execLwu n rd rs1 imm s
  | .sb n rs1 rs2 imm => Sys2Proof.Machine.execSb n rs1 rs2 imm s
  | .sh n rs1 rs2 imm => Sys2Proof.Machine.execSh n rs1 rs2 imm s
  | .sw n rs1 rs2 imm => Sys2Proof.Machine.execSw n rs1 rs2 imm s
  | .sd n rs1 rs2 imm => Sys2Proof.Machine.execSd n rs1 rs2 imm s
  | .beq n rs1 rs2 off => Sys2Proof.Machine.execBeq n rs1 rs2 off s
  | .bne n rs1 rs2 off => Sys2Proof.Machine.execBne n rs1 rs2 off s
  | .blt n rs1 rs2 off => Sys2Proof.Machine.execBlt n rs1 rs2 off s
  | .bge n rs1 rs2 off => Sys2Proof.Machine.execBge n rs1 rs2 off s
  | .bltu n rs1 rs2 off => Sys2Proof.Machine.execBltu n rs1 rs2 off s
  | .bgeu n rs1 rs2 off => Sys2Proof.Machine.execBgeu n rs1 rs2 off s
  | .jal n rd imm => Sys2Proof.Machine.execJal n rd imm s
  | .jalr n rd rs1 imm => Sys2Proof.Machine.execJalr n rd rs1 imm s
  | .vadd n o => Sys2Proof.Machine.execVadd n o s
  | .vsub n o => Sys2Proof.Machine.execVsub n o s
  | .vmul n o => Sys2Proof.Machine.execVmul n o s
  | .vmulh n o => Sys2Proof.Machine.execVmulh n o s
  | .vmulhu n o => Sys2Proof.Machine.execVmulhu n o s
  | .vand n o => Sys2Proof.Machine.execVand n o s
  | .vor n o => Sys2Proof.Machine.execVor n o s
  | .vxor n o => Sys2Proof.Machine.execVxor n o s
  | .vsll n o => Sys2Proof.Machine.execVsll n o s
  | .vsrl n o => Sys2Proof.Machine.execVsrl n o s
  | .vsra n o => Sys2Proof.Machine.execVsra n o s
  | .vmin n o => Sys2Proof.Machine.execVmin n o s
  | .vmax n o => Sys2Proof.Machine.execVmax n o s
  | .vminu n o => Sys2Proof.Machine.execVminu n o s
  | .vmaxu n o => Sys2Proof.Machine.execVmaxu n o s
  | .vsadd n o => Sys2Proof.Machine.execVsadd n o s
  | .vssub n o => Sys2Proof.Machine.execVssub n o s
  | .vsel n o => Sys2Proof.Machine.execVsel n o s
  | .vfadd n o => Sys2Proof.Machine.execVfadd n o s
  | .vfsub n o => Sys2Proof.Machine.execVfsub n o s
  | .vfmul n o => Sys2Proof.Machine.execVfmul n o s
  | .vfma n o vs3 => Sys2Proof.Machine.execVfma n o vs3 s
  | .vfmin n o => Sys2Proof.Machine.execVfmin n o s
  | .vfmax n o => Sys2Proof.Machine.execVfmax n o s
  | .vfabs n vd vs1 pg et => Sys2Proof.Machine.execVfabs n vd vs1 pg et s
  | .vfneg n vd vs1 pg et => Sys2Proof.Machine.execVfneg n vd vs1 pg et s
  | .vld n o => Sys2Proof.Machine.execVld n o s
  | .vldbc n o => Sys2Proof.Machine.execVldbc n o s
  | .vst n o => Sys2Proof.Machine.execVst n o s
  | .vbcast n vd rs pg et => Sys2Proof.Machine.execVbcast n vd rs pg et s
  | .vext n rs vs1 et ix => Sys2Proof.Machine.execVext n rs vs1 et ix s
  | .vins n vd rs et ix => Sys2Proof.Machine.execVins n vd rs et ix s
  | .vshuf n vd vs1 b pg => Sys2Proof.Machine.execVshuf n vd vs1 b pg s
  | .vredadd n rs vs1 pg et => Sys2Proof.Machine.execVredadd n rs vs1 pg et s
  | .vredmin n rs vs1 pg et => Sys2Proof.Machine.execVredmin n rs vs1 pg et s
  | .vredmax n rs vs1 pg et => Sys2Proof.Machine.execVredmax n rs vs1 pg et s
  | .vfredadd n rs vs1 pg et => Sys2Proof.Machine.execVfredadd n rs vs1 pg et s
  | .vcmpEq n o => Sys2Proof.Machine.execVcmpEq n o s
  | .vcmpNe n o => Sys2Proof.Machine.execVcmpNe n o s
  | .vcmpLt n o => Sys2Proof.Machine.execVcmpLt n o s
  | .vcmpLe n o => Sys2Proof.Machine.execVcmpLe n o s
  | .vcmpLtu n o => Sys2Proof.Machine.execVcmpLtu n o s
  | .vcmpLeu n o => Sys2Proof.Machine.execVcmpLeu n o s
  | .vcmpFeq n o => Sys2Proof.Machine.execVcmpFeq n o s
  | .vcmpFlt n o => Sys2Proof.Machine.execVcmpFlt n o s
  | .vcmpFle n o => Sys2Proof.Machine.execVcmpFle n o s
  | .vcmpFunord n o => Sys2Proof.Machine.execVcmpFunord n o s
  | .pand n pd ps1 ps2 => Sys2Proof.Machine.execPand n pd ps1 ps2 s
  | .por n pd ps1 ps2 => Sys2Proof.Machine.execPor n pd ps1 ps2 s
  | .pxor n pd ps1 ps2 => Sys2Proof.Machine.execPxor n pd ps1 ps2 s
  | .pandn n pd ps1 ps2 => Sys2Proof.Machine.execPandn n pd ps1 ps2 s
  | .pfroms n pd rs => Sys2Proof.Machine.execPfroms n pd rs s
  | .ptos n rs ps => Sys2Proof.Machine.execPtos n rs ps s
  | .vcvt n o => Sys2Proof.Machine.execVcvt n o s
  | .vcvtw n o => Sys2Proof.Machine.execVcvtw n o s
  | .vcvtn n o => Sys2Proof.Machine.execVcvtn n o s
  | .qpack n o => Sys2Proof.Machine.execQpack n o s
  | .qunpack n o => Sys2Proof.Machine.execQunpack n o s
  | .mfs n rd sr => Sys2Proof.Machine.execMfs n rd sr s
  | .mts n rs1 sr => Sys2Proof.Machine.execMts n rs1 sr s
  | .dispatch n rd rs1 rs2 crec wait ken knot => Sys2Proof.Machine.execDispatch n rd rs1 rs2 crec wait ken knot s
  | .cread n rd rs1 sel => Sys2Proof.Machine.execCread n rd rs1 sel s
  | .cwait n rd rs1 => Sys2Proof.Machine.execCwait n rd rs1 s
  | .cwaitWake n => Sys2Proof.Machine.execCwaitWake n s
  | .cretire n rd rs1 => Sys2Proof.Machine.execCretire n rd rs1 s
  | .karrive n rs1 rs2 oimm imm20 => Sys2Proof.Machine.execKarrive n rs1 rs2 oimm imm20 s
  | .kwait n rd rs1 rs2 rs3 nw oimm imm20 => Sys2Proof.Machine.execKwait n rd rs1 rs2 rs3 nw oimm imm20 s
  | .kwaitWake n => Sys2Proof.Machine.execKwaitWake n s
  | .kwaitTimeout n => Sys2Proof.Machine.execKwaitTimeout n s
  | .kread n rd rs1 oimm => Sys2Proof.Machine.execKread n rd rs1 oimm s
  | .kset n rs1 rs2 oimm imm20 => Sys2Proof.Machine.execKset n rs1 rs2 oimm imm20 s
  | .kthr n rs1 rs2 oimm imm20 => Sys2Proof.Machine.execKthr n rs1 rs2 oimm imm20 s
  | .knotArrival k thrs sets adds => Sys2Proof.Machine.execKnotArrival k thrs sets adds s
  | .bsend n rd rs1 rs2 nw oimm lm1 => Sys2Proof.Machine.execBsend n rd rs1 rs2 nw oimm lm1 s
  | .bsendStallAccept n => Sys2Proof.Machine.execBsendStallAccept n s
  | .brecv n rd rs1 rs2 nw oimm lm1 => Sys2Proof.Machine.execBrecv n rd rs1 rs2 nw oimm lm1 s
  | .brecvWake n => Sys2Proof.Machine.execBrecvWake n s
  | .bcount n rd rs1 oimm => Sys2Proof.Machine.execBcount n rd rs1 oimm s
  | .scount n rd => Sys2Proof.Machine.execScount n rd s
  | .sphase n rd => Sys2Proof.Machine.execSphase n rd s
  | .sstep n rd => Sys2Proof.Machine.execSstep n rd s
  | .svote n => Sys2Proof.Machine.execSvote n s
  | .nop n => Sys2Proof.Machine.execNop n s
  | .fence n => Sys2Proof.Machine.execFence n s
  | .endProg n => Sys2Proof.Machine.execEndProg n s
  | .trap n imm => Sys2Proof.Machine.execTrap n imm s
  | .eret n => Sys2Proof.Machine.execEret n s
  | .ifence n => Sys2Proof.Machine.execIfence n s
  | .bobbinArrival b msgs => Sys2Proof.Machine.execBobbinArrival b msgs s
  | .remoteBobbinMessage c b data => Sys2Proof.Machine.execRemoteBobbinMessage c b data s
  | .bobbinEnable b f => Sys2Proof.Machine.execBobbinEnable b f s
  | .bobbinDisable b f => Sys2Proof.Machine.execBobbinDisable b f s
  | .knotEnable k f => Sys2Proof.Machine.execKnotEnable k f s
  | .knotDisable k f => Sys2Proof.Machine.execKnotDisable k f s
  | .tbobPoolWrite t size base => Sys2Proof.Machine.execTbobPoolWrite t size base s
  | .tambourWorkStart t a => Sys2Proof.Machine.execTambourWorkStart t a s
  | .tambourWorkEnd t a gated => Sys2Proof.Machine.execTambourWorkEnd t a gated s
  | .arrayAlloc t a owned ctx => Sys2Proof.Machine.execArrayAlloc t a owned ctx s
  | .arrayFailure t phys check drained => Sys2Proof.Machine.execArrayFailure t phys check drained s
  | .poolEnable c f => Sys2Proof.Machine.execPoolEnable c f s
  | .poolDisable c => Sys2Proof.Machine.execPoolDisable c s
  | .poolDisabled c => Sys2Proof.Machine.execPoolDisabled c s
  | .poolGrant => Sys2Proof.Machine.execPoolGrant s
  | .feedChannelAlloc t n owned hmode ctx => Sys2Proof.Machine.execFeedChannelAlloc t n owned hmode ctx s
  | .feedWorkStart t n => Sys2Proof.Machine.execFeedWorkStart t n s
  | .feedCopy t p stageError => Sys2Proof.Machine.execFeedCopy t p stageError s
  | .feedPoolFill t n => Sys2Proof.Machine.execFeedPoolFill t n s
  | .feedBuddy t n => Sys2Proof.Machine.execFeedBuddy t n s
  | .feedDescriptorEnd t n => Sys2Proof.Machine.execFeedDescriptorEnd t n s
  | .feedDoorbell c chan io tile => Sys2Proof.Machine.execFeedDoorbell c chan io tile s
  | .feedTimerTrigger t n => Sys2Proof.Machine.execFeedTimerTrigger t n s
  | .feedStrokeTrigger t n => Sys2Proof.Machine.execFeedStrokeTrigger t n s
  | .feedEscalation t n => Sys2Proof.Machine.execFeedEscalation t n s
  | .buddyNoCommit c => Sys2Proof.Machine.execBuddyNoCommit c s
  | .filetAllocWrite t mask => Sys2Proof.Machine.execFiletAllocWrite t mask s
  | .filetGather t upsets => Sys2Proof.Machine.execFiletGather t upsets s
  | .filetScatter t upsets => Sys2Proof.Machine.execFiletScatter t upsets s
  | .filetInstall t => Sys2Proof.Machine.execFiletInstall t s
  | .filetPause t => Sys2Proof.Machine.execFiletPause t s
  | .filetResume t => Sys2Proof.Machine.execFiletResume t s
  | .filetMigrate t upsets => Sys2Proof.Machine.execFiletMigrate t upsets s
  | .filetUninstall t => Sys2Proof.Machine.execFiletUninstall t s
  | .folioPoolEnable t base count => Sys2Proof.Machine.execFolioPoolEnable t base count s
  | .folioPoolInitDone t => Sys2Proof.Machine.execFolioPoolInitDone t s
  | .folioPoolDisable t base count => Sys2Proof.Machine.execFolioPoolDisable t base count s
  | .folioZeroed t folio => Sys2Proof.Machine.execFolioZeroed t folio s
  | .folioAllocWrite t mask => Sys2Proof.Machine.execFolioAllocWrite t mask s
  | .folioQuotaWrite c limit => Sys2Proof.Machine.execFolioQuotaWrite c limit s
  | .folioOpen t => Sys2Proof.Machine.execFolioOpen t s
  | .appendQuant t e => Sys2Proof.Machine.execAppendQuant t e s
  | .appendReserve t e => Sys2Proof.Machine.execAppendReserve t e s
  | .folioWrite t e => Sys2Proof.Machine.execFolioWrite t e s
  | .folioCommit t e => Sys2Proof.Machine.execFolioCommit t e s
  | .folioCommitDiscard t e => Sys2Proof.Machine.execFolioCommitDiscard t e s
  | .folioFetch t tableError => Sys2Proof.Machine.execFolioFetch t tableError s
  | .folioTruncate t e => Sys2Proof.Machine.execFolioTruncate t e s
  | .folioClose t tableError => Sys2Proof.Machine.execFolioClose t tableError s
  | .folioBucket t e => Sys2Proof.Machine.execFolioBucket t e s
  | .portEnable p dir size first signal => Sys2Proof.Machine.execPortEnable p dir size first signal s
  | .portDisable p dir size first => Sys2Proof.Machine.execPortDisable p dir size first s
  | .portCtrlRetrain p => Sys2Proof.Machine.execPortCtrlRetrain p s
  | .portCtrlDown p => Sys2Proof.Machine.execPortCtrlDown p s
  | .portCtrlTest p => Sys2Proof.Machine.execPortCtrlTest p s
  | .absentSample p signal => Sys2Proof.Machine.execAbsentSample p signal s
  | .lossOfSignal p lost => Sys2Proof.Machine.execLossOfSignal p lost s
  | .trainingStepTimeout p => Sys2Proof.Machine.execTrainingStepTimeout p s
  | .trainingStepDone p found => Sys2Proof.Machine.execTrainingStepDone p found s
  | .handshakeFrame l st f => Sys2Proof.Machine.execHandshakeFrame l st f s
  | .frameDeparture l f t3 staged => Sys2Proof.Machine.execFrameDeparture l f t3 staged s
  | .dataFrame l f htag binding beats buddy lost => Sys2Proof.Machine.execDataFrame l f htag binding beats buddy lost s
  | .streamPrefetch c ix rerun => Sys2Proof.Machine.execStreamPrefetch c ix rerun s
  | .slotStart c ix rerun => Sys2Proof.Machine.execSlotStart c ix rerun s
  | .slotEnd c ix => Sys2Proof.Machine.execSlotEnd c ix s
  | .relock l => Sys2Proof.Machine.execRelock l s
  | .relocked l => Sys2Proof.Machine.execRelocked l s
  | .fenceSymbol p cause => Sys2Proof.Machine.execFenceSymbol p cause s
  | .retrain p => Sys2Proof.Machine.execRetrain p s
  | .probe p ix htag pid hops => Sys2Proof.Machine.execProbe p ix htag pid hops s
  | .missed p binding start htag => Sys2Proof.Machine.execMissed p binding start htag s
  | .down p cause => Sys2Proof.Machine.execDown p cause s
  | .test p start mode path => Sys2Proof.Machine.execTest p start mode path s
  | .relockStart l expectedUs => Sys2Proof.Machine.execRelockStart l expectedUs s
  | .lockReturn l => Sys2Proof.Machine.execLockReturn l s
  | .relockTimeout l => Sys2Proof.Machine.execRelockTimeout l s
  | .laneMarginCheck l e0 e1 e2 e3 => Sys2Proof.Machine.execLaneMarginCheck l e0 e1 e2 e3 s
  | .pgEnable l f => Sys2Proof.Machine.execPgEnable l f s
  | .streamTableLock c base => Sys2Proof.Machine.execStreamTableLock c base s
  | .streamTableUnlock c base => Sys2Proof.Machine.execStreamTableUnlock c base s
  | .vfApertureAccess c off op => Sys2Proof.Machine.execVfApertureAccess c off op s
  | .pfWindowAccess off op => Sys2Proof.Machine.execPfWindowAccess off op s
  | .unsupportedRequest f posted => Sys2Proof.Machine.execUnsupportedRequest f posted s
  | .knotDoorbell c knot value => Sys2Proof.Machine.execKnotDoorbell c knot value s
  | .vectorArm f word mask => Sys2Proof.Machine.execVectorArm f word mask s
  | .msixUnmask f op => Sys2Proof.Machine.execMsixUnmask f op s
  | .vmapWrite c ix e => Sys2Proof.Machine.execVmapWrite c ix e s
  | .vfFlr c => Sys2Proof.Machine.execVfFlr c s
  | .pfFlr => Sys2Proof.Machine.execPfFlr s
  | .hotReset => Sys2Proof.Machine.execHotReset s
  | .pcieLinkUp rate lanes flit => Sys2Proof.Machine.execPcieLinkUp rate lanes flit s
  | .powerStateChange f d3 => Sys2Proof.Machine.execPowerStateChange f d3 s
  | .startLimits ok => Sys2Proof.Machine.execStartLimits ok s
  | .startPower => Sys2Proof.Machine.execStartPower s
  | .startMemtest failures => Sys2Proof.Machine.execStartMemtest failures s
  | .startUnittest failures other => Sys2Proof.Machine.execStartUnittest failures other s
  | .startMap => Sys2Proof.Machine.execStartMap s
  | .startKat rounds => Sys2Proof.Machine.execStartKat rounds s
  | .startPorts => Sys2Proof.Machine.execStartPorts s
  | .startFound => Sys2Proof.Machine.execStartFound s
  | .startStepDone => Sys2Proof.Machine.execStartStepDone s
  | .startStepTimeout => Sys2Proof.Machine.execStartStepTimeout s
  | .runlimWrite mhz sust peak => Sys2Proof.Machine.execRunlimWrite mhz sust peak s
  | .contextResetRequest c => Sys2Proof.Machine.execContextResetRequest c s
  | .contextResetDone c => Sys2Proof.Machine.execContextResetDone c s
  | .resetDeadline c => Sys2Proof.Machine.execResetDeadline c s
  | .sharedUnitError => Sys2Proof.Machine.execSharedUnitError s
  | .powerTick n => Sys2Proof.Machine.execPowerTick n s
  | .powerLock droop => Sys2Proof.Machine.execPowerLock droop s
  | .capWrite peak sust => Sys2Proof.Machine.execCapWrite peak sust s
  | .droopDetect t => Sys2Proof.Machine.execDroopDetect t s
  | .droopEnd t cycles => Sys2Proof.Machine.execDroopEnd t cycles s
  | .junctionSample points => Sys2Proof.Machine.execJunctionSample points s
  | .thermalCapUpdate => Sys2Proof.Machine.execThermalCapUpdate s
  | .leaseReq d => Sys2Proof.Machine.execLeaseReq d s
  | .leaseRenew d => Sys2Proof.Machine.execLeaseRenew d s
  | .leaseRelease d => Sys2Proof.Machine.execLeaseRelease d s
  | .setCaps d slot peak sust holdoff => Sys2Proof.Machine.execSetCaps d slot peak sust holdoff s
  | .setFallback d cap => Sys2Proof.Machine.execSetFallback d cap s
  | .setCooling d target minPct => Sys2Proof.Machine.execSetCooling d target minPct s
  | .pkgReset d slot hold => Sys2Proof.Machine.execPkgReset d slot hold s
  | .fwRecover d slot part last => Sys2Proof.Machine.execFwRecover d slot part last s
  | .readSensors d => Sys2Proof.Machine.execReadSensors d s
  | .readPower d => Sys2Proof.Machine.execReadPower d s
  | .readPorts d => Sys2Proof.Machine.execReadPorts d s
  | .readReg d off => Sys2Proof.Machine.execReadReg d off s
  | .readLog d index => Sys2Proof.Machine.execReadLog d index s
  | .setMgmt peak sust holdoff autonomous seq => Sys2Proof.Machine.execSetMgmt peak sust holdoff autonomous seq s
  | .getSensors => Sys2Proof.Machine.execGetSensors s
  | .portState t slot p state cause => Sys2Proof.Machine.execPortState t slot p state cause s
  | .failReport t slot word => Sys2Proof.Machine.execFailReport t slot word s
  | .bootStatus t slot word => Sys2Proof.Machine.execBootStatus t slot word s
  | .fwChunk part last good => Sys2Proof.Machine.execFwChunk part last good s
  | .toDriver data => Sys2Proof.Machine.execToDriver data s
  | .setEndpointId eid => Sys2Proof.Machine.execSetEndpointId eid s
  | .getEndpointId => Sys2Proof.Machine.execGetEndpointId s
  | .getMctpVersionSupport => Sys2Proof.Machine.execGetMctpVersionSupport s
  | .getMessageTypeSupport => Sys2Proof.Machine.execGetMessageTypeSupport s
  | .i3cEnumeration t slot answers eid => Sys2Proof.Machine.execI3cEnumeration t slot answers eid s
  | .heartbeat m path h => Sys2Proof.Machine.execHeartbeat m path h s
  | .heartbeatTimer m => Sys2Proof.Machine.execHeartbeatTimer m s
  | .leaseExpiry t => Sys2Proof.Machine.execLeaseExpiry t s
  | .leaseRenewalTimer m => Sys2Proof.Machine.execLeaseRenewalTimer m s
  | .activeLost m => Sys2Proof.Machine.execActiveLost m s
  | .selfDiagnosis m ok => Sys2Proof.Machine.execSelfDiagnosis m ok s
  | .resynchronisation m => Sys2Proof.Machine.execResynchronisation m s
  | .forceFailover token m shelfEvent => Sys2Proof.Machine.execForceFailover token m shelfEvent s
  | .failoverRevert => Sys2Proof.Machine.execFailoverRevert s
  | .shelfPoll good => Sys2Proof.Machine.execShelfPoll good s
  | .shelfGoodChange t lines => Sys2Proof.Machine.execShelfGoodChange t lines s
  | .shelfResetRelease t => Sys2Proof.Machine.execShelfResetRelease t s
  | .tmcWatchdog t => Sys2Proof.Machine.execTmcWatchdog t s
  | .coolingRegulation t sensors => Sys2Proof.Machine.execCoolingRegulation t sensors s
  | .powerReport t slot mean largest estimate => Sys2Proof.Machine.execPowerReport t slot mean largest estimate s
  | .pumpTransfer => Sys2Proof.Machine.execPumpTransfer s
  | .pumpSwap => Sys2Proof.Machine.execPumpSwap s
  | .flowLost t => Sys2Proof.Machine.execFlowLost t s
  | .tankLevelAlarm => Sys2Proof.Machine.execTankLevelAlarm s
  | .redfishGet token r query => Sys2Proof.Machine.execRedfishGet token r query s
  | .pkgCapSetpoint token t slot w => Sys2Proof.Machine.execPkgCapSetpoint token t slot w s
  | .coolingSetpoint token t target => Sys2Proof.Machine.execCoolingSetpoint token t target s
  | .cduSupplySetpoint token celsius => Sys2Proof.Machine.execCduSupplySetpoint token celsius s
  | .processorReset token t slot held => Sys2Proof.Machine.execProcessorReset token t slot held s
  | .managerReset token m => Sys2Proof.Machine.execManagerReset token m s
  | .sessionCreate op => Sys2Proof.Machine.execSessionCreate op s
  | .accountChange token op => Sys2Proof.Machine.execAccountChange token op s
  | .subscriptionChange token op => Sys2Proof.Machine.execSubscriptionChange token op s
  | .simpleUpdate token => Sys2Proof.Machine.execSimpleUpdate token s
  | .recordCommit => Sys2Proof.Machine.execRecordCommit s
  | .recordCommitDone ok => Sys2Proof.Machine.execRecordCommitDone ok s
  | .switchTrayPowerOn ix => Sys2Proof.Machine.execSwitchTrayPowerOn ix s
  | .switchTrayRecordWrite ix record st rack ok => Sys2Proof.Machine.execSwitchTrayRecordWrite ix record st rack ok s
  | .trayPowerSwitch t closed fw store straps => Sys2Proof.Machine.execTrayPowerSwitch t closed fw store straps s
  | .filetWorkEnd t => Sys2Proof.Machine.execFiletWorkEnd t s
  | .folioWorkEnd t => Sys2Proof.Machine.execFolioWorkEnd t s
  | .resetUnitStopped c unit drained => Sys2Proof.Machine.execResetUnitStopped c unit drained s
  | .machineTimerInterrupt h => Sys2Proof.Machine.execMachineTimerInterrupt h s
  | .vfEnable on => Sys2Proof.Machine.execVfEnable on s
  | .patternCheckerLock l g lane errors => Sys2Proof.Machine.execPatternCheckerLock l g lane errors s
  | .heartbeatPathLoss path => Sys2Proof.Machine.execHeartbeatPathLoss path s
  | .tmcFailure t => Sys2Proof.Machine.execTmcFailure t s
  | .packagePowerLoss => Sys2Proof.Machine.execPackagePowerLoss s
  | .nplChange w => Sys2Proof.Machine.execNplChange w s
  | .progressInterval => Sys2Proof.Machine.execProgressInterval s

end Sys2Proof.Machine
end

