-- ==== Sys2Proof/Safety.lean ====
section
/-!
DEFINITION. What counts as a safe run of the block: steps that never stop, and states whose memory and register file are in their
one canonical form.
-/
namespace Sys2Proof

/-- Does a command complete in a state? -/
def Completes (c : Instr) (s : Machine.State) : Prop := ∃ t, Machine.exec c s = .next t

/-- n steps from s end in t. -/
def Runs : Nat → Machine.State → Machine.State → Prop
  | 0, s, t => s = t
  | n + 1, s, t => ∃ u, Machine.step s = .next u ∧ Runs n u t

/-- A property that every step keeps. -/
def StepKeeps (P : Machine.State → Prop) : Prop := ∀ s t, P s → Machine.step s = .next t → P t

end Sys2Proof
end

