-- ==== Sys2Proof/Certificates/Slice0/Obligations.lean ====
section
/-!
DEFINITION. The statements about this model, each a proposition named Obligations.<what it states>. OBLIGATIONS.json lists them.
-/

namespace Sys2Proof.Claims
open Sys2Proof.Machine

/-! ### Words of the statements -/

/-- Core n executes an instruction: it can step, and its fetch, which leaves s1, finds nothing wrong. -/
def Executes (s s1 : State) (n : CoreId) : Prop := s.canStep n = true ∧ s.fetch n = (s1, .ok)

/-- Core n goes on behind an instruction with registers k: pc + 8 modulo 2⁴⁸, one instruction more retired. -/
def finished (s : State) (n : Nat) (k : NibCore) : State := s.setCore n { k with pc := k.pc + 8, retired := k.retired + 1 }

/-- An instruction that completes by changing registers as f says, and nothing else. -/
def Computes (i : Instr) (n : CoreId) (f : NibCore → NibCore) : Prop :=
  ∀ s s1, Executes s s1 n → exec i s = .next (finished s1 n (f (s1.core n)))

/-- Hart h executes an instruction: it is ready, no interrupt is taken before it, and its fetch, which leaves s1, finds the word
w. -/
def HartExecutes (s s1 : State) (h : HartId) (w : Nat) : Prop :=
  s.hartReady h = true ∧ s.interrupt (s.hartOf h) = none ∧ s.hartFetch h (s.fld (hartReg h) .CTX) = (s1, .ok w)

/-- What raising the vote v does in a stroke that runs, from s to t: a stroke that had a vote sends nothing more; a first vote
leaves, in state
RUNNING, as a SLIP symbol on every live port with a link that does not relock; one after P − 8 µs sets LATE_VOTE. -/
def Raised (s t : State) (v : Vote) : Prop :=
  (s.stroke.vote ≠ none → t.outbox = s.outbox) ∧
  ((s.periodUs - 8) * 256000 < s.phase → t.flag .strokeStatus .LATE_VOTE = true) ∧
  (s.stroke.vote = none → s.strokeState = 2 → ∀ p ∈ s.livePorts, s.canSymbol p = true → .symbol p 0x01 (slipPayload s.count v) ∈ t.outbox)

/-- Every element of `new`: f of its index where active, that of `old` where not. -/
def LanesAre (p : W64) (et : ElemType) (old new : W512) (f : Nat → Nat) : Prop :=
  ∀ j, j < et.count → elemOf et new j = if activeElem p et j then f j else elemOf et old j

/-- The front of Filet unit t, idle, goes on with its next work, of a live context, whose descriptor of the kind is x.desc: read
before, or
read now; s1 is the state then. -/
def FiletTakes (s s1 : State) (t kind : Nat) (x : Taken) : Prop :=
  (s.filetOf t).cur = none ∧ filetKind x.desc = kind ∧ s.ctxLive x.work.ctx = true ∧ ∃ y u, s.filetNext t = some (y, u) ∧
    let s0 := (if (s.filetOf t).taken.isNone then s.setBuf (unitKey 2 t 0) HostBuf.empty else s).setFilet t u
    ((y.desc ≠ [] ∧ x = y ∧ s1 = s0) ∨
     (y.desc = [] ∧ x = { y with desc := x.desc } ∧ s0.readDesc (unitKey 2 t 0) y.work.ctx 2 t y.work.desc 64 64 = (s1, .bytes x.desc)))

/-- The front of Filet unit t runs work w, which is to end with the status, RESULT and migration. -/
def FiletRuns (v : State) (t : Nat) (w : Work) (kind status result : Nat) (move : Option FiletMove) : Prop :=
  ∃ x, (v.filetOf t).cur = some x ∧ x.work = w ∧ x.kind = kind ∧ x.status = status ∧ x.result = result ∧ x.move = move

/-- The front of Folio unit t, idle, goes on with the work it has taken, or takes the head of its queue, of a live context; its
descriptor
is x.desc, read before or read now; s1 is the state then. -/
def FolioTakes (s s1 : State) (t : Nat) (x : Taken) : Prop :=
  let u := s.folioOf t
  u.cur = none ∧ s.ctxLive x.work.ctx = true ∧
    ((u.taken = some x ∧ x.desc ≠ [] ∧ s1 = s) ∨
     ∃ y s0, y.desc = [] ∧ x = { y with desc := x.desc } ∧
      ((u.taken = some y ∧ s0 = s) ∨
       (u.taken = none ∧ ∃ ws, u.queue = y.work :: ws ∧ y.work.held = false ∧ y.stroke = s.count ∧ y.washeld = false ∧
         s0 = (s.setBuf (unitKey 3 t 0) HostBuf.empty).setFolio t { u with queue := ws })) ∧
      s0.readDesc (unitKey 3 t 0) y.work.ctx 3 t y.work.desc 64 64 = (s1, .bytes x.desc))

/-- The front of Folio unit t runs work w, which is to end with the status and RESULT. -/
def FolioRuns (v : State) (t : Nat) (w : Work) (status result : Nat) : Prop :=
  ∃ x, (v.folioOf t).cur = some x ∧ x.work = w ∧ x.status = status ∧ x.result = result

end Sys2Proof.Claims

open Sys2Proof Sys2Proof.Machine Sys2Proof.Claims

/-- For every command c, every list of further commands and every state s whose queue is c followed by them, step s is exec of c
on s with the further commands as its queue. -/
def Obligations.StepRunsFrontCommand : Prop :=
  ∀ (c : Instr) (rest : List Instr) (s : State), s.pending = c :: rest → step s = exec c { s with pending := rest }

/-- For every command and every state, exec answers a next state. What that state is, the statements family by family say. -/
def Obligations.EveryCommandAnswersNext : Prop := ∀ (c : Instr) (s : State), ∃ t, exec c s = .next t

/-- (The tick as the meaning of an empty queue is the model's choice, log entry 3.) With an empty queue step answers a next
state in which the rack's clock is one tick on; package time is one tick on while the package is powered and out of reset, else
as before; memory, the Nib cores, the harts and STROKE.COUNT are unchanged; and, for a stroke period of at most 16,384 µs,
STROKE.PHASE is at least what it was. -/
def Obligations.IdleStepIsOneClockTick : Prop :=
  ∀ s : State, s.pending = [] →
    ∃ t, step s = .next t ∧ t.pending = [] ∧ t.rack.now = s.rack.now + 1 ∧
      t.time = s.time + (if s.stewardUp then 1 else 0) ∧ t.mem = s.mem ∧ t.nib = s.nib ∧ t.hart = s.hart ∧ t.count = s.count ∧
      (s.periodUs ≤ 16384 → s.phase ≤ t.phase)


/-- For the register files of a Nib core: after a write of w to s[i], s[j] reads w if j = i and i is not s0, and what it read
before otherwise (so s0 reads 0); likewise p[j], where p0 reads all ones; v[j] reads what was written to it last; and a write of
one file leaves the other two alone. -/
def Obligations.NibRegisterFiles : Prop :=
  (∀ (k : NibCore) (i j : SReg) (w : W64), (k.setS i w).sreg j = if i = j ∧ i ≠ 0 then w else k.sreg j) ∧
  (∀ k : NibCore, k.sreg 0 = 0) ∧
  (∀ (k : NibCore) (i j : PReg) (w : W64), (k.setP i w).preg j = if i = j ∧ i ≠ 0 then w else k.preg j) ∧
  (∀ k : NibCore, k.preg 0 = BitVec.allOnes 64) ∧
  (∀ (k : NibCore) (i j : VReg) (w : W512), (k.setV i w).vreg j = if i = j then w else k.vreg j) ∧
  (∀ (k : NibCore) (i : SReg) (w : W64), (k.setS i w).v = k.v ∧ (k.setS i w).p = k.p ∧ (k.setS i w).pc = k.pc) ∧
  (∀ (k : NibCore) (i : PReg) (w : W64), (k.setP i w).v = k.v ∧ (k.setP i w).s = k.s ∧ (k.setP i w).pc = k.pc) ∧
  (∀ (k : NibCore) (i : VReg) (w : W512), (k.setV i w).s = k.s ∧ (k.setV i w).p = k.p ∧ (k.setV i w).pc = k.pc)

/-- For every core that executes (it can step and its fetch finds nothing wrong), ADD, SUB, AND, OR, XOR, SLL, SRL, SRA, SLT,
SLTU, MIN, MAX, MINU and MAXU, with a register or an immediate as operand b (sign-extended, but zero-extended in AND, OR and
XOR), CLZ, CTZ, POPC, BSWAP and LUI answer a next state: the state after the fetch in which the core has rd set to the result of
Table 5-4, pc 8 further and one more instruction retired. Results: sums and differences modulo 2^64; shifts by b mod 64; SLT and
MIN and MAX on signed values, SLTU, MINU, MAXU on unsigned ones; CLZ and CTZ of 0 are 64. -/
def Obligations.ScalarAluResults : Prop :=
  ∀ (n : CoreId) (rd rs1 : SReg) (b : ScalarB) (imm : W32),
  Computes (.add n rd rs1 b) n (fun k => k.setS rd (BitVec.ofNat 64 ((k.sreg rs1).toNat + (k.operandB b).toNat))) ∧
  Computes (.sub n rd rs1 b) n (fun k => k.setS rd (BitVec.ofInt 64 ((k.sreg rs1).toInt - (k.operandB b).toInt))) ∧
  Computes (.and n rd rs1 b) n (fun k => k.setS rd (k.sreg rs1 &&& k.operandBZ b)) ∧
  Computes (.or n rd rs1 b) n (fun k => k.setS rd (k.sreg rs1 ||| k.operandBZ b)) ∧
  Computes (.xor n rd rs1 b) n (fun k => k.setS rd (k.sreg rs1 ^^^ k.operandBZ b)) ∧
  Computes (.sll n rd rs1 b) n (fun k => k.setS rd (BitVec.ofNat 64 ((k.sreg rs1).toNat * 2 ^ ((k.operandB b).toNat % 64)))) ∧
  Computes (.srl n rd rs1 b) n (fun k => k.setS rd (BitVec.ofNat 64 ((k.sreg rs1).toNat / 2 ^ ((k.operandB b).toNat % 64)))) ∧
  Computes (.sra n rd rs1 b) n (fun k => k.setS rd (BitVec.ofInt 64 ((k.sreg rs1).toInt / 2 ^ ((k.operandB b).toNat % 64)))) ∧
  Computes (.slt n rd rs1 b) n (fun k => k.setS rd (if (k.sreg rs1).toInt < (k.operandB b).toInt then 1 else 0)) ∧
  Computes (.sltu n rd rs1 b) n (fun k => k.setS rd (if (k.sreg rs1).toNat < (k.operandB b).toNat then 1 else 0)) ∧
  Computes (.min n rd rs1 b) n (fun k => k.setS rd (BitVec.ofInt 64 (min (k.sreg rs1).toInt (k.operandB b).toInt))) ∧
  Computes (.max n rd rs1 b) n (fun k => k.setS rd (BitVec.ofInt 64 (max (k.sreg rs1).toInt (k.operandB b).toInt))) ∧
  Computes (.minu n rd rs1 b) n (fun k => k.setS rd (BitVec.ofNat 64 (min (k.sreg rs1).toNat (k.operandB b).toNat))) ∧
  Computes (.maxu n rd rs1 b) n (fun k => k.setS rd (BitVec.ofNat 64 (max (k.sreg rs1).toNat (k.operandB b).toNat))) ∧
  Computes (.lui n rd rs1 imm) n (fun k => k.setS rd (BitVec.ofNat 64 (imm.toNat * 2 ^ 32 + (k.sreg rs1).toNat % 2 ^ 32))) ∧
  (∃ clz ctz popc : W64 → Nat,
    Computes (.clz n rd rs1) n (fun k => k.setS rd (BitVec.ofNat 64 (clz (k.sreg rs1)))) ∧
    Computes (.ctz n rd rs1) n (fun k => k.setS rd (BitVec.ofNat 64 (ctz (k.sreg rs1)))) ∧
    Computes (.popc n rd rs1) n (fun k => k.setS rd (BitVec.ofNat 64 (popc (k.sreg rs1)))) ∧
    (∀ a, clz a ≤ 64 ∧ (∀ i, i < clz a → a.getLsbD (63 - i) = false) ∧ (clz a < 64 → a.getLsbD (63 - clz a) = true)) ∧
    (∀ a, ctz a ≤ 64 ∧ (∀ i, i < ctz a → a.getLsbD i = false) ∧ (ctz a < 64 → a.getLsbD (ctz a) = true)) ∧
    ∀ a, popc a = ((List.range 64).filter fun i => a.getLsbD i).length) ∧
  ∃ swap : W64 → W64, Computes (.bswap n rd rs1) n (fun k => k.setS rd (swap (k.sreg rs1))) ∧
    ∀ a, ∀ i < 8, (swap a).extractLsb' (8 * i) 8 = a.extractLsb' (8 * (7 - i)) 8

/-- For every core that executes: MUL, MULH and MULHU set rd to the low half, the signed high half and the unsigned high half of
the product. DIV and DIVU by 0 give all ones, REM and REMU by 0 the dividend; DIV of -2^63 by -1 gives -2^63 and REM of them 0;
otherwise DIV and REM give quotient and remainder truncated towards zero, and DIVU and REMU the unsigned ones. Each answers a
next state: no exception is raised. ADD and SUB, the other arithmetic that can exceed 64 bits, wrap modulo 2^64 too. -/
def Obligations.MultiplyAndDivide : Prop :=
  ∀ (n : CoreId) (rd rs1 rs2 : SReg) (op : ScalarB),
  Computes (.add n rd rs1 op) n (fun k => k.setS rd (BitVec.ofNat 64 ((k.sreg rs1).toNat + (k.operandB op).toNat))) ∧
  Computes (.sub n rd rs1 op) n (fun k => k.setS rd (BitVec.ofInt 64 ((k.sreg rs1).toInt - (k.operandB op).toInt))) ∧
  Computes (.mul n rd rs1 rs2) n (fun k => k.setS rd (BitVec.ofNat 64 ((k.sreg rs1).toNat * (k.sreg rs2).toNat))) ∧
  Computes (.mulh n rd rs1 rs2) n (fun k => k.setS rd (BitVec.ofInt 64 ((k.sreg rs1).toInt * (k.sreg rs2).toInt / 2 ^ 64))) ∧
  Computes (.mulhu n rd rs1 rs2) n (fun k => k.setS rd (BitVec.ofNat 64 ((k.sreg rs1).toNat * (k.sreg rs2).toNat / 2 ^ 64))) ∧
  Computes (.div n rd rs1 rs2) n (fun k => k.setS rd
    (let a := k.sreg rs1
     let b := k.sreg rs2
     if b = 0 then BitVec.allOnes 64 else if a.toInt = -2 ^ 63 ∧ b.toInt = -1 then a else BitVec.ofInt 64 (a.toInt.tdiv b.toInt))) ∧
  Computes (.divu n rd rs1 rs2) n (fun k => k.setS rd
    (if k.sreg rs2 = 0 then BitVec.allOnes 64 else BitVec.ofNat 64 ((k.sreg rs1).toNat / (k.sreg rs2).toNat))) ∧
  Computes (.rem n rd rs1 rs2) n (fun k => k.setS rd
    (let a := k.sreg rs1
     let b := k.sreg rs2
     if b = 0 then a else if a.toInt = -2 ^ 63 ∧ b.toInt = -1 then 0 else BitVec.ofInt 64 (a.toInt.tmod b.toInt))) ∧
  Computes (.remu n rd rs1 rs2) n (fun k => k.setS rd
    (if k.sreg rs2 = 0 then k.sreg rs1 else BitVec.ofNat 64 ((k.sreg rs1).toNat % (k.sreg rs2).toNat)))

/-- For every core that executes, with k its registers: BEQ, BNE, BLT, BGE, BLTU and BGEU whose comparison fails go on behind
the instruction; one whose comparison holds, JAL and JALR go to pc + 8 x offset (JALR to s[RS1] + IMM32) when bits [63:48] of
that 64-bit sum are zero, with one more instruction retired and, for the jumps, rd = pc + 8; when they are not zero the
exception ACCESS_FETCH (cause 4) with eaddr = bits [47:0] of the target is raised, on the registers as they were. -/
def Obligations.BranchesAndJumps : Prop :=
  ∀ (n : CoreId) (rd rs1 rs2 : SReg) (off : W32) (s s1 : State), Executes s s1 n →
  let k := s1.core n
  let a := k.sreg rs1
  let b := k.sreg rs2
  let goes := fun (k' : NibCore) (target : W64) =>
    if target.toNat < 2 ^ 48 then Host.Outcome.next (ρ := Refusal) (φ := Fault) (s1.setCore n { k' with pc := target.truncate 48, retired := k'.retired + 1 })
    else .next (s1.nibException n 0x04 (target.toNat % 2 ^ 48))
  let there := k.pc.zeroExtend 64 + 8 * off.signExtend 64
  let link := k.setS rd ((k.pc + 8).zeroExtend 64)
  let cond := fun (p : Prop) [Decidable p] => if p then goes k there else .next (finished s1 n k)
  exec (.beq n rs1 rs2 off) s = cond (a = b) ∧
  exec (.bne n rs1 rs2 off) s = cond (a ≠ b) ∧
  exec (.blt n rs1 rs2 off) s = cond (a.toInt < b.toInt) ∧
  exec (.bge n rs1 rs2 off) s = cond (b.toInt ≤ a.toInt) ∧
  exec (.bltu n rs1 rs2 off) s = cond (a.toNat < b.toNat) ∧
  exec (.bgeu n rs1 rs2 off) s = cond (b.toNat ≤ a.toNat) ∧
  exec (.jal n rd off) s = goes link there ∧
  exec (.jalr n rd rs1 off) s = goes link (a + off.signExtend 64)

/-- For every core that executes and has no buffered store: if the address s[RS1] + IMM32 is aligned to the access size and
translates to tile memory, and the read at the home succeeds with some bytes, then LB, LH, LW, LD (sign-extended), LBU, LHU and
LWU (zero-extended) answer the state after that read in which the core has rd set to the extended value and goes on behind the
instruction. -/
def Obligations.ScalarLoadsReadMemory : Prop :=
  ∀ (n : CoreId) (rd rs1 : SReg) (imm : W32) (s s1 s2 : State) (pa size : Nat) (mcomp qc : Bool) (bytes : List Byte),
  Executes s s1 n → (s1.core n).stores = [] →
  let va := ((s1.core n).sreg rs1 + imm.signExtend 64).toNat
  va % size = 0 → s1.walk (s1.ctxOf n) va false false = .ok pa mcomp qc → s1.homeRead (some (s1.ctxOf n)) pa size = (s2, some bytes) →
  let signed := finished s2 n ((s2.core n).setS rd (BitVec.ofInt 64 (signedOf (8 * size) (ofBytes bytes))))
  let unsigned := finished s2 n ((s2.core n).setS rd (BitVec.ofNat 64 (ofBytes bytes)))
  (size = 1 → exec (.lb n rd rs1 imm) s = .next signed ∧ exec (.lbu n rd rs1 imm) s = .next unsigned) ∧
  (size = 2 → exec (.lh n rd rs1 imm) s = .next signed ∧ exec (.lhu n rd rs1 imm) s = .next unsigned) ∧
  (size = 4 → exec (.lw n rd rs1 imm) s = .next signed ∧ exec (.lwu n rd rs1 imm) s = .next unsigned) ∧
  (size = 8 → exec (.ld n rd rs1 imm) s = .next signed)

/-- For every core that executes with fewer than 16 buffered stores: if s[RS1] + IMM32 is aligned to the size and translates for
writing to tile memory at pa, then SB, SH, SW and SD answer the state after the fetch in which the core's store buffer has one
more entry, the low bytes of s[RS2] from pa on, and the core goes on behind the instruction. -/
def Obligations.ScalarStoresAreBuffered : Prop :=
  ∀ (n : CoreId) (rs1 rs2 : SReg) (imm : W32) (s s1 : State) (pa size : Nat) (mcomp qc : Bool),
  Executes s s1 n → (s1.core n).stores.length < 16 →
  let k := s1.core n
  let va := (k.sreg rs1 + imm.signExtend 64).toNat
  va % size = 0 → s1.walk (s1.ctxOf n) va true false = .ok pa mcomp qc →
  let entry : StoreEntry := [{ host := false, mcomp := mcomp, cells := cellsFrom pa (toBytes size (k.sreg rs2).toNat) }]
  let t := finished s1 n { k with stores := k.stores ++ [entry] }
  (size = 1 → exec (.sb n rs1 rs2 imm) s = .next t) ∧
  (size = 2 → exec (.sh n rs1 rs2 imm) s = .next t) ∧
  (size = 4 → exec (.sw n rs1 rs2 imm) s = .next t) ∧
  (size = 8 → exec (.sd n rs1 rs2 imm) s = .next t)

/-- For a running core with no buffered store: a precise exception with a cause other than UNCORR_MEM, while evec is not 0 and
the core is not in its handler, sets handler mode, epc = pc, ecause, eaddr and pc = evec and changes nothing else; in every
other case the core stops. For a core that executes: TRAP raises cause 8 with eaddr 0; a word with a reserved class, opcode,
zero field or code raises ILLEGAL (cause 1) with eaddr 0; a load or store whose address is not aligned to its size raises
DATA_ALIGN (cause 3) with bits [47:0] of the address. -/
def Obligations.NibExceptionsEnterHandlerOrStop : Prop :=
  (∀ (s : State) (n cause ea : Nat), (s.core n).stores = [] → (s.core n).st = .running →
    let k := s.core n
    s.nibException n cause ea =
      if k.evec ≠ 0 ∧ cause ≠ 7 ∧ k.handler = false then
        s.setCore n { k with handler := true, epc := k.pc, ecause := BitVec.ofNat 8 cause, eaddr := BitVec.ofNat 48 ea, pc := k.evec }
      else s.nibStop n cause k.pc k.handler) ∧
  ∀ (n : CoreId) (s s1 : State), Executes s s1 n →
    (∀ imm, exec (.trap n imm) s = .next (s1.nibException n 0x08 0)) ∧
    (∀ w, reservedWord n w = true → exec (.illegalInstruction n w) s = .next (s1.nibException n 0x01 0)) ∧
    ∀ (rd rs1 rs2 : SReg) (imm : W32),
      let va := ((s1.core n).sreg rs1 + imm.signExtend 64).toNat
      let t := s1.nibException n 0x03 (va % 2 ^ 48)
      (va % 2 ≠ 0 → exec (.lh n rd rs1 imm) s = .next t ∧ exec (.lhu n rd rs1 imm) s = .next t ∧ exec (.sh n rs1 rs2 imm) s = .next t) ∧
      (va % 4 ≠ 0 → exec (.lw n rd rs1 imm) s = .next t ∧ exec (.lwu n rd rs1 imm) s = .next t ∧ exec (.sw n rs1 rs2 imm) s = .next t) ∧
      (va % 8 ≠ 0 → exec (.ld n rd rs1 imm) s = .next t ∧ exec (.sd n rs1 rs2 imm) s = .next t)

/-- For every core that executes and every integer element type: VADD, VSUB, VMUL, VMULH, VMULHU, VAND, VOR, VXOR, VSLL, VSRL,
VSRA, VMIN, VMAX, VMINU, VMAXU, VSADD and VSSUB, with VS2 or a repeated scalar as operand b, answer the state in which VD holds,
in every element that PG makes active, the result of Table 5-6 on the elements of VS1 and b at the element width, and its old
element elsewhere; nothing else of the core changes but pc. VSEL, of any type, takes VS1's element where active and b's
elsewhere. VSHUF takes in active byte lane i byte lane (byte i of b) mod 64 of VS1; VBCAST takes the low bits of s[RS]; VINS
replaces one element. -/
def Obligations.VectorIntegerLanes : Prop :=
  ∀ (n : CoreId) (o : VBin) (s s1 : State), Executes s s1 n →
  let k := s1.core n
  let w := o.et.bitsOf
  let a := fun i => elemOf o.et (k.vreg o.vs1) i
  let b := fun i => k.elemB o.et o.b i
  let gives := fun (i : Instr) (f : Nat → Nat) =>
    ∃ v, exec i s = .next (finished s1 n (k.setV o.vd v)) ∧ LanesAre (k.preg o.pg) o.et (k.vreg o.vd) v f
  (o.et.isInt = true →
    gives (.vadd n o) (fun i => (a i + b i) % 2 ^ w) ∧
    gives (.vsub n o) (fun i => (a i + 2 ^ w - b i) % 2 ^ w) ∧
    gives (.vmul n o) (fun i => a i * b i % 2 ^ w) ∧
    gives (.vmulh n o) (fun i => wrapTo w (signedOf w (a i) * signedOf w (b i) / 2 ^ w)) ∧
    gives (.vmulhu n o) (fun i => a i * b i / 2 ^ w) ∧
    gives (.vand n o) (fun i => a i &&& b i) ∧
    gives (.vor n o) (fun i => a i ||| b i) ∧
    gives (.vxor n o) (fun i => a i ^^^ b i) ∧
    gives (.vsll n o) (fun i => a i * 2 ^ (b i % w) % 2 ^ w) ∧
    gives (.vsrl n o) (fun i => a i / 2 ^ (b i % w)) ∧
    gives (.vsra n o) (fun i => wrapTo w (signedOf w (a i) / 2 ^ (b i % w))) ∧
    gives (.vmin n o) (fun i => wrapTo w (min (signedOf w (a i)) (signedOf w (b i)))) ∧
    gives (.vmax n o) (fun i => wrapTo w (max (signedOf w (a i)) (signedOf w (b i)))) ∧
    gives (.vminu n o) (fun i => min (a i) (b i)) ∧
    gives (.vmaxu n o) (fun i => max (a i) (b i)) ∧
    gives (.vsadd n o) (fun i => wrapTo w (max (-2 ^ (w - 1)) (min (2 ^ (w - 1) - 1) (signedOf w (a i) + signedOf w (b i))))) ∧
    gives (.vssub n o) (fun i => wrapTo w (max (-2 ^ (w - 1)) (min (2 ^ (w - 1) - 1) (signedOf w (a i) - signedOf w (b i)))))) ∧
  (∃ v, exec (.vsel n o) s = .next (finished s1 n (k.setV o.vd v)) ∧
    ∀ i < o.et.count, elemOf o.et v i = if activeElem (k.preg o.pg) o.et i then a i else b i) ∧
  (∃ v, exec (.vshuf n o.vd o.vs1 o.b o.pg) s = .next (finished s1 n (k.setV o.vd v)) ∧
    LanesAre (k.preg o.pg) .i8 (k.vreg o.vd) v fun i => elemOf .i8 (k.vreg o.vs1) (k.elemB .i8 o.b i % 64)) ∧
  ∀ (rs : SReg) (ix : BitVec 6),
    (∃ v, exec (.vbcast n o.vd rs o.pg o.et) s = .next (finished s1 n (k.setV o.vd v)) ∧
      LanesAre (k.preg o.pg) o.et (k.vreg o.vd) v fun _ => (k.sreg rs).toNat % 2 ^ w) ∧
    (ix.toNat < o.et.count → ∃ v, exec (.vins n o.vd rs o.et ix) s = .next (finished s1 n (k.setV o.vd v)) ∧
      ∀ i < o.et.count, elemOf o.et v i = if i = ix.toNat then (k.sreg rs).toNat % 2 ^ w else elemOf o.et (k.vreg o.vd) i)

/-- For every core that executes and every element type FP32, FP16 or BF16: VFADD, VFSUB, VFMUL, VFMA (VS1 x b + VS3), VFMIN,
VFMAX, VFABS and VFNEG answer the state in which VD holds, in every active element, the nearest value of the element type to the
exact result on the decoded elements, and its old element elsewhere. -/
def Obligations.VectorFloatLanes : Prop :=
  ∀ (n : CoreId) (o : VBin) (vs3 : VReg) (s s1 : State), Executes s s1 n → isVfpType o.et = true →
  let k := s1.core n
  let fm := vfpFormat o.et
  let a := fun i => fm.decode (elemOf o.et (k.vreg o.vs1) i)
  let b := fun i => fm.decode (k.elemB o.et o.b i)
  let gives := fun (i : Instr) (f : Nat → FVal) =>
    ∃ v, exec i s = .next (finished s1 n (k.setV o.vd v)) ∧
      LanesAre (k.preg o.pg) o.et (k.vreg o.vd) v fun j => fm.nearest (f j) % 2 ^ o.et.bitsOf
  gives (.vfadd n o) (fun i => (a i).add (b i)) ∧
  gives (.vfsub n o) (fun i => (a i).add (b i).neg) ∧
  gives (.vfmul n o) (fun i => (a i).mul (b i)) ∧
  gives (.vfma n o vs3) (fun i => ((a i).mul (b i)).add (fm.decode (elemOf o.et (k.vreg vs3) i))) ∧
  gives (.vfmin n o) (fun i => (a i).minimum (b i)) ∧
  gives (.vfmax n o) (fun i => (a i).maximum (b i)) ∧
  gives (.vfabs n o.vd o.vs1 o.pg o.et) (fun i => (a i).abs) ∧
  gives (.vfneg n o.vd o.vs1 o.pg o.et) (fun i => (a i).neg)

/-- For every core that executes: with no active element VLD, VLDBC and VST go on behind the instruction and change nothing
else. With one, and an address s[RS] + IMM25 aligned to the element size: VLD, when the bytes of the active elements are loaded
from tile memory, sets every active element of VD to its bytes; VLDBC sets every active element to the one element loaded; VST,
with fewer than 16 buffered stores and every page of the active elements translating for writing, adds one entry of exactly
those pieces to the store buffer. -/
def Obligations.VectorLoadsAndStores : Prop :=
  ∀ (n : CoreId) (o : VMemOp) (s s1 : State), Executes s s1 n →
  let k := s1.core n
  let va := k.vecAddr o
  let act := activeElems (k.preg o.pg) o.et
  (act = [] → exec (.vld n o) s = .next (finished s1 n k) ∧ exec (.vldbc n o) s = .next (finished s1 n k) ∧
    exec (.vst n o) s = .next (finished s1 n k)) ∧
  (act ≠ [] → va % o.et.size = 0 →
    (∀ s2 got, s1.loadBytes n (activeAddrs (k.preg o.pg) o.et va) = (s2, .bytes got []) →
      ∃ v, exec (.vld n o) s = .next (finished s2 n ((s2.core n).setV o.v v)) ∧
        LanesAre ((s2.core n).preg o.pg) o.et ((s2.core n).vreg o.v) v fun i => gotValue got ((va + i * o.et.size) % 2 ^ 64) o.et.size) ∧
    (∀ s2 got, s1.loadBytes n (addrsFrom va o.et.size) = (s2, .bytes got []) →
      ∃ v, exec (.vldbc n o) s = .next (finished s2 n ((s2.core n).setV o.v v)) ∧
        LanesAre ((s2.core n).preg o.pg) o.et ((s2.core n).vreg o.v) v fun _ => gotValue got va o.et.size) ∧
    (∀ s2 entry, k.stores.length < 16 → entry ≠ [] →
      s1.storeSegs n (act.flatMap fun i => cellsFrom (va + i * o.et.size) (toBytes o.et.size (elemOf o.et (k.vreg o.v) i))) = (s2, .ok entry) →
      exec (.vst n o) s = .next (finished s2 n { k with stores := k.stores ++ [entry] })))

/-- For every core that executes: VREDADD sets s[RS] to the sum of the active elements modulo 2^width, sign-extended; VREDMIN
and VREDMAX to their signed minimum and maximum; over no active element each gives 0; VFREDADD to the ordered sum, 0 over no
active element and, of one active element, that element rounded to its own type; VEXT to one element, zero-extended. -/
def Obligations.ReductionsAndExtract : Prop :=
  ∀ (n : CoreId) (rs : SReg) (vs1 : VReg) (pg : PReg) (et : ElemType) (ix : BitVec 6) (s s1 : State), Executes s s1 n →
  let k := s1.core n
  let act := activeElems (k.preg pg) et
  let x := fun i => elemOf et (k.vreg vs1) i
  let sx := fun i => signedOf et.bitsOf (x i)
  let sets := fun (i : Instr) (w : W64) => exec i s = .next (finished s1 n (k.setS rs w))
  (et.isInt = true →
    sets (.vredadd n rs vs1 pg et) (BitVec.ofInt 64 (signedOf et.bitsOf (wrapTo et.bitsOf (act.map sx).sum))) ∧
    (∃ m : Int, sets (.vredmin n rs vs1 pg et) (BitVec.ofInt 64 m) ∧ (act = [] → m = 0) ∧
      (act ≠ [] → (∃ i ∈ act, m = sx i) ∧ ∀ i ∈ act, m ≤ sx i)) ∧
    ∃ m : Int, sets (.vredmax n rs vs1 pg et) (BitVec.ofInt 64 m) ∧ (act = [] → m = 0) ∧
      (act ≠ [] → (∃ i ∈ act, m = sx i) ∧ ∀ i ∈ act, sx i ≤ m)) ∧
  (isVfpType et = true →
    let fm := vfpFormat et
    (act = [] → sets (.vfredadd n rs vs1 pg et) 0) ∧
    ∀ i is, act = i :: is → sets (.vfredadd n rs vs1 pg et)
      (BitVec.ofNat 64 (is.foldl (fun acc j => fm.nearest ((fm.decode acc).add (fm.decode (x j)))) (fm.nearest (fm.decode (x i)))))) ∧
  (ix.toNat < et.count → sets (.vext n rs vs1 et ix) (BitVec.ofNat 64 (x ix.toNat)))

/-- For every core that executes: the integer compares EQ, NE, LT, LE (signed), LTU, LEU (unsigned), on integer types, and FEQ,
FLT, FLE and FUNORD, on FP32, FP16 and BF16, set the predicate VD so that bit j is 1 exactly when the element that holds byte
lane j is active and its compare holds. PAND, POR, PXOR, PANDN, PFROMS and PTOS set their destination to the bitwise result on
all 64 bits. Nothing else changes but pc. -/
def Obligations.ComparesAndPredicates : Prop :=
  (∀ (n : CoreId) (o : VCmpOp) (s s1 : State), Executes s s1 n →
    let k := s1.core n
    let w := o.et.bitsOf
    let a := fun i => elemOf o.et (k.vreg o.vs1) i
    let b := fun i => k.elemB o.et o.b i
    let fm := vfpFormat o.et
    let fa := fun i => fm.decode (a i)
    let fb := fun i => fm.decode (b i)
    let gives := fun (i : Instr) (f : Nat → Bool) =>
      ∃ p : W64, exec i s = .next (finished s1 n (k.setP o.pd p)) ∧
        ∀ j < 64, p.getLsbD j = (activeElem (k.preg o.pg) o.et (j / o.et.size) && f (j / o.et.size))
    (o.et.isInt = true →
      gives (.vcmpEq n o) (fun i => a i = b i) ∧ gives (.vcmpNe n o) (fun i => a i ≠ b i) ∧
      gives (.vcmpLt n o) (fun i => signedOf w (a i) < signedOf w (b i)) ∧
      gives (.vcmpLe n o) (fun i => signedOf w (a i) ≤ signedOf w (b i)) ∧
      gives (.vcmpLtu n o) (fun i => a i < b i) ∧ gives (.vcmpLeu n o) (fun i => a i ≤ b i)) ∧
    (isVfpType o.et = true →
      gives (.vcmpFeq n o) (fun i => (fa i).numEq (fb i)) ∧ gives (.vcmpFlt n o) (fun i => (fa i).lt (fb i)) ∧
      gives (.vcmpFle n o) (fun i => (fa i).lt (fb i) || (fa i).numEq (fb i)) ∧
      gives (.vcmpFunord n o) (fun i => (fa i).isNan || (fb i).isNan))) ∧
  ∀ (n : CoreId) (pd p1 p2 : PReg) (rs : SReg),
    Computes (.pand n pd p1 p2) n (fun k => k.setP pd (k.preg p1 &&& k.preg p2)) ∧
    Computes (.por n pd p1 p2) n (fun k => k.setP pd (k.preg p1 ||| k.preg p2)) ∧
    Computes (.pxor n pd p1 p2) n (fun k => k.setP pd (k.preg p1 ^^^ k.preg p2)) ∧
    Computes (.pandn n pd p1 p2) n (fun k => k.setP pd (k.preg p1 &&& ~~~ k.preg p2)) ∧
    Computes (.pfroms n pd rs) n (fun k => k.setP pd (k.sreg rs)) ∧
    Computes (.ptos n rs p1) n (fun k => k.setS rs (k.preg p1))

/-- For every core that executes and fields that the operation accepts: VCVT sets active element i of VD to element i of VS1
converted, VCVTW to element PART x count + i, VCVTN, with RM other than 2, to element i of the group VS1 on; with RM = 2 on an
enabled pool and enough draws held, VCVTN converts the active elements with the held draws in rising order and keeps the rest;
with RM = 2 on a pool not enabled it is a reserved instruction. QPACK, with RM other than 2, packs the 32 elements of its group
into one block from byte 0 of VD, other bytes zero. QUNPACK sets VD (and VD + 1 for FP32) to the 32 values of the block in VS1.
-/
def Obligations.ConversionsComplete : Prop :=
  ∀ (n : CoreId) (s s1 : State), Executes s s1 n →
  let k := s1.core n
  (∀ o : CvtOp,
    let gives := fun (i : Instr) (k' : NibCore) (f : Nat → Nat) =>
      ∃ v, exec i s = .next (finished s1 n (k'.setV o.vd v)) ∧
        LanesAre (k.preg o.pg) o.dt (k.vreg o.vd) v fun j => f j % 2 ^ o.dt.bitsOf
    (cvtSameOk o = true → gives (.vcvt n o) k fun j => convertElem o 0 (elemOf o.et (k.vreg o.vs1) j)) ∧
    (cvtWideOk o = true → gives (.vcvtw n o) k fun j =>
      convertElem o 0 (elemOf o.et (k.vreg o.vs1) (o.part.toNat * o.dt.count + j))) ∧
    (cvtNarrowOk o = true → o.rm ≠ .stochastic → gives (.vcvtn n o) k fun j => convertElem o 0 (k.narrowSource o j)) ∧
    (cvtNarrowOk o = true → o.rm = .stochastic → s1.flag (.poolCtrl (s1.ctxOf n)) .ENABLE = false → exec (.vcvtn n o) s = .next (s1.illegal n)) ∧
    (cvtNarrowOk o = true → o.rm = .stochastic → s1.flag (.poolCtrl (s1.ctxOf n)) .ENABLE = true → (activeElems (k.preg o.pg) o.dt).length ≤ k.drawsLeft →
      let x := takeDraws k.draws (activeElems (k.preg o.pg) o.dt).length
      gives (.vcvtn n o) { k with draws := x.2 } fun j =>
        convertElem o (x.1.getD ((activeElems (k.preg o.pg) o.dt).idxOf j) 0) (k.narrowSource o j))) ∧
  ∀ o : QOp, let fm := vfpFormat o.et
    (qTypeOk o o.vs1 = true → o.rm ≠ .stochastic →
      exec (.qpack n o) s = .next (finished s1 n (k.setV o.vd (BitVec.ofNat 512 (ofBytes (o.qf.encodeBlock o.rm []
        ((List.range 32).map fun i => fm.decode (k.groupElem o.et o.vs1 i)))))))) ∧
    (qTypeOk o o.vd = true → o.rm ≠ .stochastic →
      let xs := (o.qf.decodeBlock ((toBytes 64 (k.vreg o.vs1).toNat).take o.qf.blockBytes)).map (fm.encode o.rm false 0)
      exec (.qunpack n o) s = .next (finished s1 n
        (if o.et = .fp32 then (k.setV o.vd (vecOf o.et fun i => xs.getD i 0)).setV (o.vd + 1) (vecOf o.et fun i => xs.getD (16 + i) 0)
         else k.setV o.vd (vecOf o.et fun i => xs.getD i 0))))

/-- For every core that executes: NOP changes nothing but pc. MFS sets rd to the special register: evec, epc, ecause, eaddr and
dstat zero-extended, coreid, the tile cycles since package reset, and hmode. MTS of evec and epc stores bits [47:0] of s[RS1],
of dstat bits [8:0]. In handler mode ERET leaves it and goes to epc; outside it ERET is ILLEGAL, as END is in it. FENCE, IFENCE
and, outside handler mode, END first drain every buffered store; if the core can then go on (no drained store faulted its
context), FENCE and IFENCE change nothing more but pc, and END ends the run. -/
def Obligations.SystemInstructions : Prop :=
  ∀ (n : CoreId) (rd rs1 : SReg),
  Computes (.nop n) n id ∧
  Computes (.mts n rs1 .evec) n (fun k => { k with evec := (k.sreg rs1).truncate 48 }) ∧
  Computes (.mts n rs1 .epc) n (fun k => { k with epc := (k.sreg rs1).truncate 48 }) ∧
  Computes (.mts n rs1 .dstat) n (fun k => { k with dstat := BitVec.ofNat 16 ((k.sreg rs1).toNat % 512) }) ∧
  Computes (.mfs n rd .evec) n (fun k => k.setS rd (k.evec.zeroExtend 64)) ∧
  Computes (.mfs n rd .epc) n (fun k => k.setS rd (k.epc.zeroExtend 64)) ∧
  Computes (.mfs n rd .ecause) n (fun k => k.setS rd (k.ecause.zeroExtend 64)) ∧
  Computes (.mfs n rd .eaddr) n (fun k => k.setS rd (k.eaddr.zeroExtend 64)) ∧
  Computes (.mfs n rd .dstat) n (fun k => k.setS rd (k.dstat.zeroExtend 64)) ∧
  Computes (.mfs n rd .hmode) n (fun k => k.setS rd (if k.handler then 1 else 0)) ∧
  ∀ s s1, Executes s s1 n →
    let k := s1.core n
    exec (.mfs n rd .coreid) s = .next (finished s1 n (k.setS rd (s1.coreId n))) ∧
    exec (.mfs n rd .cycle) s = .next (finished s1 n (k.setS rd (s1.cycle (n.val / 8)))) ∧
    exec (.eret n) s = .next (if k.handler then s1.setCore n { k with handler := false, pc := k.epc, retired := k.retired + 1 }
      else s1.nibException n 0x01 0) ∧
    (k.handler = true → exec (.endProg n) s = .next (s1.nibException n 0x01 0)) ∧
    ((s1.drainAll n).canStep n = true → let s2 := s1.drainAll n
      exec (.fence n) s = .next (finished s2 n (s2.core n)) ∧ exec (.ifence n) s = .next (finished s2 n (s2.core n)) ∧
      (k.handler = false → exec (.endProg n) s = .next (s2.endRun n)))

/-- For every core that executes and can go on once its older stores have drained (KNOT is zero without KEN): a target word that
names no unit, or a unit or knot that is not the context's, gives rd = 0 and dstat = 0x010. A full queue gives rd = 0 and dstat
= 0x014 without WAIT, and the wait with it. With a free queue entry but no free slot for the record, WAIT, or a ring that
initialises, waits, and otherwise rd = 0 and dstat = 0x114. Otherwise the work is at the queue's tail, HELD and DELAYED if the
phase is in the guard, with its record allocated and rd its handle (the context's next sequence number), or all ones without a
record; the core goes on. -/
def Obligations.DispatchIsJudgedInOrder : Prop :=
  ∀ (n : CoreId) (rd rs1 rs2 : SReg) (crec wait ken : Bool) (knot : BitVec 12) (s s1 : State), Executes s s1 n →
  (ken = true ∨ knot = 0) → (s1.drainAll n).canStep n = true →
  let s2 := s1.drainAll n
  let k := s2.core n
  let c := s2.ctxOf n
  let target := (s1.core n).sreg rs1
  let desc := (s1.core n).sreg rs2
  let kn := if ken then some knot.toNat else none
  let waits : Out := .next (s2.nibWait n (.dispatch rd target desc crec wait kn))
  let refuses := fun code : BitVec 16 => (.next (finished s2 n { k.setS rd 0 with dstat := code }) : Out)
  let goes := exec (.dispatch n rd rs1 rs2 crec wait ken knot) s
  (targetOf target = none → goes = refuses 0x010) ∧
  ∀ t, targetOf target = some t →
    ((s2.ownsUnit c t = false ∨ (ken = true ∧ s2.knotOwned c knot.toNat = false)) → goes = refuses 0x010) ∧
    (s2.ownsUnit c t = true → (ken = true → s2.knotOwned c knot.toNat = true) →
      (s2.queueRoom t = false → goes = if wait then waits else refuses 0x014) ∧
      (s2.queueRoom t = true → crec = true → s2.nextSlotFree c = false →
        goes = if wait || s2.flag (.ctxwCmplStat c) .INIT then waits else refuses 0x114) ∧
      (s2.queueRoom t = true → (crec = true → s2.nextSlotFree c = true) →
        let r := if crec then s2.allocRecord c t.engine t.recTile t.unit else (s2, BitVec.allOnes 64)
        let w : Work := { ctx := c, desc := desc, handle := r.2, crec := crec, knot := kn, held := r.1.inGuard,
                          delayed := r.1.inGuard, image := false }
        let s3 := r.1.enqueue t w
        r.2 = (if crec then BitVec.ofNat 64 (s2.nextSeq c) else BitVec.allOnes 64) ∧
        (s3.canStep n = true → goes = .next (finished s3 n ((s3.core n).setS rd r.2)))))

/-- For every core that executes, with a slot whose Well words are not in error, or a handle of 0 or all ones: the record of a
handle is the slot's 32 bytes if the handle is neither 0 nor all ones and equals the slot's SEQ, else the STALE record (SEQ the
handle, STATUS STALE, READY 1, the rest 0). CREAD sets rd to quadword SEL of it; CWAIT sets rd to the status quadword when READY
is 1 and otherwise waits; CRETIRE sets rd to 2 when the record is not held or free, to 1 when it is pending, and to 0 when it is
complete, and then frees the slot. -/
def Obligations.CompletionInstructions : Prop :=
  ∀ (n : CoreId) (rd rs1 : SReg) (sel : BitVec 2) (s s1 : State), Executes s s1 n →
  let k := s1.core n
  let c := s1.ctxOf n
  let h := k.sreg rs1
  let pa := s1.slotPa c h.toNat
  let slot := s1.bytesAt pa 32
  let none' := h = 0 ∨ h = BitVec.allOnes 64
  let stale := none' ∨ ofBytes (slot.take 8) ≠ h.toNat
  (none' ∨ s1.slotBad c h = none) →
  (stale → exec (.cread n rd rs1 sel) s = .next (finished s1 n (k.setS rd (if sel = 0 then h else if sel = 1 then 0x102 else 0))) ∧
    exec (.cwait n rd rs1) s = .next (finished s1 n (k.setS rd 0x102)) ∧
    exec (.cretire n rd rs1) s = .next (finished s1 n (k.setS rd 2))) ∧
  (¬ stale → let q := fun i => BitVec.ofNat 64 (ofBytes ((slot.drop (8 * i)).take 8))
    exec (.cread n rd rs1 sel) s = .next (finished s1 n (k.setS rd (q sel.toNat))) ∧
    exec (.cwait n rd rs1) s = .next (if (slot.getD 9 0).getLsbD 0 then finished s1 n (k.setS rd (q 1)) else s1.nibWait n (.cwait rd h)) ∧
    (slotState slot = .pending → exec (.cretire n rd rs1) s = .next (finished s1 n (k.setS rd 1))) ∧
    (slotState slot = .free → exec (.cretire n rd rs1) s = .next (finished s1 n (k.setS rd 2))) ∧
    (slotState slot = .complete → exec (.cretire n rd rs1) s = .next (finished (s1.freeSlot c pa) n (k.setS rd 0))))

/-- A core resumes when it runs again with no wait, rd set, pc 8 further, one more instruction retired and no place among the
waiters. CWAIT_WAKE resumes a stalled CWAIT whose slot is not in error and whose record is ready, with the status quadword.
KWAIT_WAKE resumes a stalled KWAIT with count at least V, with the count; KWAIT_TIMEOUT one with a limit, with the count and
TIMEOUT = 1 exactly when the count is below V. BSEND_STALL_ACCEPT resumes the first waiter of a port's queue or a bobbin that
has room, with 0, its message at the tail. STALLED_DISPATCH_ACCEPT, in a live context, resumes a stalled DISPATCH whose target
is no longer the context's, with rd = 0 and dstat = 0x010; one with WAIT = 0 that meets a full queue with 0x014, or, once the
ring is initialised, no free slot with 0x114; and accepts one that is first in line. BRECV_WAKE lets the lowest core that waits
on a bobbin with a message receive its head, and resumes a core whose context no longer owns the bobbin with ILLEGAL_DESC and
length 0. Before that, none of them changes anything. -/
def Obligations.StalledInstructionsResume : Prop :=
  ∀ (n : CoreId) (s : State) (rd : SReg),
  let k := s.core n
  let resumes := fun (i : Instr) (w : W64) => ∃ t, exec i s = .next t ∧
    t.core n = ({ k with st := .running, wait := .none }.setS rd w).advance ∧ Agent.nib n ∉ t.waiting ∧ t.mem = s.mem
  let still := fun (i : Instr) => exec i s = .next s
  (∀ h, k.wait = .cwait rd h → (h = 0 ∨ h = BitVec.allOnes 64 ∨ s.slotBad (s.ctxOf n) h = none) →
    (recReady (s.recordOf (s.ctxOf n) h) = true → resumes (.cwaitWake n) (recQuad (s.recordOf (s.ctxOf n) h) 1)) ∧
    (recReady (s.recordOf (s.ctxOf n) h) = false → still (.cwaitWake n))) ∧
  (∀ i v l, k.wait = .kwait rd i v l →
    (v ≤ s.knotCount i → resumes (.kwaitWake n) (BitVec.ofNat 64 (s.knotCount i))) ∧
    (s.knotCount i < v → still (.kwaitWake n)) ∧
    (l = none → still (.kwaitTimeout n)) ∧
    (l ≠ none → resumes (.kwaitTimeout n) (BitVec.ofNat 64 ((if s.knotCount i < v then 2 ^ 32 else 0) + s.knotCount i)))) ∧
  (∀ i p data, k.wait = .bsend rd i (some p) data → s.waitingCores.find? (s.waitsPort p (s.ctxOf n)) = some n.val →
    s.portRefuses p = false → s.bobbinSlotOn (s.ctxOf n) p = true →
    ((s.outQueue p (s.ctxOf n)).length < 64 → resumes (.bsendStallAccept n) 0 ∧
      ∀ t, exec (.bsendStallAccept n) s = .next t →
        t.outQueue p (s.ctxOf n) = s.outQueue p (s.ctxOf n) ++ [{ index := i, data := data }]) ∧
    (64 ≤ (s.outQueue p (s.ctxOf n)).length → still (.bsendStallAccept n))) ∧
  (∀ i data, k.wait = .bsend rd i none data → s.waitingCores.find? (s.waitsSend i) = some n.val →
    s.bobOwned (s.ctxOf n) i = true → s.flag (bobCfg i) .COMBINE = false → data.length ≤ s.bobMaxLen i →
    (s.bobRoom i = true → resumes (.bsendStallAccept n) 0 ∧
      ∀ t, exec (.bsendStallAccept n) s = .next t → (t.bobbin i).queue = (s.bobbin i).queue ++ [data]) ∧
    (s.bobRoom i = false → still (.bsendStallAccept n))) ∧
  (∀ target desc crec stall kn, k.wait = .dispatch rd target desc crec stall kn → s.ctxLive (s.ctxOf n) = true →
    let refused := fun code : BitVec 16 => ∃ t, exec (.stalledDispatchAccept (.nib n)) s = .next t ∧
      t.core n = ({ { k with st := .running, wait := .none }.setS rd 0 with dstat := code }).advance ∧ Agent.nib n ∉ t.waiting
    (s.judge (s.ctxOf n) target crec kn = .notOwned → refused 0x010) ∧
    (s.judge (s.ctxOf n) target crec kn = .queueFull → if stall then still (.stalledDispatchAccept (.nib n)) else refused 0x014) ∧
    (s.judge (s.ctxOf n) target crec kn = .slotBusy → if stall || s.flag (.ctxwCmplStat (s.ctxOf n)) .INIT
      then still (.stalledDispatchAccept (.nib n)) else refused 0x114) ∧
    (∀ u, s.judge (s.ctxOf n) target crec kn = .go u → s.firstInLine (.nib n) = true →
      exec (.stalledDispatchAccept (.nib n)) s = .next ((s.nibWake n).acceptOn n rd u desc crec kn))) ∧
  ∀ b len va, k.wait = .brecv rd b len va →
    (s.bobOwned (s.ctxOf n) b = false → resumes (.brecvWake n) 0x10) ∧
    (s.bobOwned (s.ctxOf n) b = true → (s.bobbin b).queue = [] → still (.brecvWake n)) ∧
    (s.bobOwned (s.ctxOf n) b = true → (s.bobbin b).queue ≠ [] → (∀ m ∈ s.waitingCores, s.waitsRecv b m = true → n.val ≤ m) →
      exec (.brecvWake n) s = .next ((s.nibWake n).receive n rd b len va))

/-- For every core that executes, on a knot of its context: KREAD sets rd to the count. KTHR sets the threshold to V and leaves
the count. KWAIT sets rd to the count at once when count is at least V; below it, with NW = 1 and RS3 = s0, to the count with
bit 32 set; with NW = 0 it waits, with no limit if s[RS3] is 0 and else with the smaller of s[RS3] and 2^32 cycles. KSET and
KARRIVE, when the core can go on once its stores have drained and the knot is still its context's, change the count to V, or to
the smaller of count + V and 2^32 - 1 (setting SATURATED exactly when the sum exceeds that), count one more in CHANGES modulo
2^32 and go on. On a knot that is not the context's, each raises ILLEGAL. -/
def Obligations.KnotInstructions : Prop :=
  ∀ (n : CoreId) (rd rs1 rs2 rs3 : SReg) (nw : Bool) (oimm : BitVec 13) (imm20 : BitVec 20) (s s1 : State), Executes s s1 n →
  let k := s1.core n
  let i := ((k.sreg rs1).toNat % 4096 + oimm.toNat) % 4096
  let v := ((k.sreg rs2).toNat + imm20.toNat) % 2 ^ 32
  let count := s1.knotCount i
  let s2 := s1.drainAll n
  (s1.knotOwned (s1.ctxOf n) i = false →
    exec (.kread n rd rs1 oimm) s = .next (s1.nibException n 0x01 0) ∧ exec (.kset n rs1 rs2 oimm imm20) s = .next (s1.nibException n 0x01 0) ∧
    exec (.kthr n rs1 rs2 oimm imm20) s = .next (s1.nibException n 0x01 0) ∧
    exec (.karrive n rs1 rs2 oimm imm20) s = .next (s1.nibException n 0x01 0) ∧
    exec (.kwait n rd rs1 rs2 rs3 nw oimm imm20) s = .next (s1.nibException n 0x01 0)) ∧
  (s1.knotOwned (s1.ctxOf n) i = true →
    exec (.kread n rd rs1 oimm) s = .next (finished s1 n (k.setS rd (BitVec.ofNat 64 count))) ∧
    (∃ t, exec (.kthr n rs1 rs2 oimm imm20) s = .next t ∧ t.fld (knotVal i) .THRESHOLD = v ∧ t.knotCount i = count ∧ t.core n = k.advance) ∧
    (v ≤ count → (nw = true → rs3 = 0) →
      exec (.kwait n rd rs1 rs2 rs3 nw oimm imm20) s = .next (finished s1 n (k.setS rd (BitVec.ofNat 64 count)))) ∧
    (count < v → nw = true → rs3 = 0 →
      exec (.kwait n rd rs1 rs2 rs3 nw oimm imm20) s = .next (finished s1 n (k.setS rd (BitVec.ofNat 64 (2 ^ 32 + count))))) ∧
    (count < v → nw = false → exec (.kwait n rd rs1 rs2 rs3 nw oimm imm20) s =
      .next (s1.nibWait n (.kwait rd i v (if k.sreg rs3 = 0 then none else some (min (k.sreg rs3).toNat (2 ^ 32)))))) ∧
    (s2.canStep n = true → s2.knotOwned (s2.ctxOf n) i = true →
      (∃ t, exec (.kset n rs1 rs2 oimm imm20) s = .next t ∧ t.knotCount i = v ∧ t.core n = (s2.core n).advance ∧
        t.fld (knotCfg i) .CHANGES = (s2.fld (knotCfg i) .CHANGES + 1) % 2 ^ 32) ∧
      ∃ t, exec (.karrive n rs1 rs2 oimm imm20) s = .next t ∧ t.knotCount i = min (s2.knotCount i + v) (2 ^ 32 - 1) ∧
        t.flag (knotCfg i) .SATURATED = (s2.flag (knotCfg i) .SATURATED || decide (2 ^ 32 ≤ s2.knotCount i + v)) ∧
        t.core n = (s2.core n).advance ∧ t.fld (knotCfg i) .CHANGES = (s2.fld (knotCfg i) .CHANGES + 1) % 2 ^ 32))

/-- KNOT_ARRIVAL, with operations of contexts that own the knot: the threshold becomes the last one given, the count the last
set (or the old count) with every increment added, saturating at 2^32 - 1, CHANGES counts one for each set and each arrival
modulo 2^32, and (with the channels' table in canonical form) every Feed descriptor armed for this knot by its owner runs
exactly when count at least threshold holds after and did not before. KNOT_DOORBELL adds its value to a knot of the context; on
another, or during the context's reset, it sets KDB_REFUSED and changes no count. KNOT_ENABLE enables a disabled knot with its
fields, COUNT, CHANGES and SATURATED 0 and THRESHOLD all ones. KNOT_DISABLE disables a knot that nothing names and is refused
with CFG_ERR otherwise. -/
def Obligations.KnotEventsAndConfiguration : Prop :=
  (∀ (k : Fin 4096) (thrs sets : List (CoreId × W32)) (adds : List (Ctx × W32)) (s : State),
    (∀ x ∈ thrs ++ sets, ∃ c, s.coreCtx x.1 = some c ∧ s.knotOwned c k = true) → (∀ x ∈ adds, s.knotOwned x.1 k = true) →
    (thrs.map Prod.fst).Nodup → (sets.map Prod.fst).Nodup →
    ∃ t, exec (.knotArrival k thrs sets adds) s = .next t ∧
      (thrs = [] → t.fld (knotVal k) .THRESHOLD = s.fld (knotVal k) .THRESHOLD) ∧
      (∀ x ∈ thrs, (∀ y ∈ thrs, x.1 ≤ y.1) → t.fld (knotVal k) .THRESHOLD = x.2.toNat) ∧
      (∀ base : Nat, (sets = [] → base = s.knotCount k) → (∀ x ∈ sets, (∀ y ∈ sets, x.1 ≤ y.1) → base = x.2.toNat) →
        t.knotCount k = (adds.map fun x => x.2.toNat).foldl (fun n v => min (n + v) (2 ^ 32 - 1)) base) ∧
      t.fld (knotCfg k) .CHANGES = (s.fld (knotCfg k) .CHANGES + sets.length + adds.length) % 2 ^ 32 ∧
      (¬ (t.knotHigh k = true ∧ s.knotHigh k = false) → t.feed = s.feed) ∧
      (smWf (fun _ => FeedCh.idle) s.feed = true → t.knotHigh k = true → s.knotHigh k = false → ∀ (j : Nat) (u : FeedCur), (s.feedCh j).cur = some u → u.running = false →
        u.err = none → u.reading = none → s.ctxLive u.work.ctx = true → u.d.trig = 5 → u.d.targ = k → u.work.ctx = s.fld (knotCfg k) .OWNER →
        (t.feedCh j).cur = some { u with running := true, since := s.time })) ∧
  (∀ (c : Ctx) (knot : BitVec 12) (v : W32) (s : State),
    (s.knotOwned c knot.toNat = true → s.ctxLive c = true → ∃ t, exec (.knotDoorbell c knot v) s = .next t ∧
      t.knotCount knot.toNat = min (s.knotCount knot.toNat + v.toNat) (2 ^ 32 - 1)) ∧
    ((s.knotOwned c knot.toNat = false ∨ s.ctxLive c = false) → ∃ t, exec (.knotDoorbell c knot v) s = .next t ∧ t.flag (.hostwStat c) .KDB_REFUSED = true ∧
      ∀ j < 4096, t.knotCount j = s.knotCount j)) ∧
  ∀ (k : KnotId) (f : KnotFields) (s : State),
    (s.flag (knotCfg k) .ENABLE = false → ∃ t, exec (.knotEnable k f) s = .next t ∧ t.flag (knotCfg k) .ENABLE = true ∧
      t.fld (knotCfg k) .OWNER = f.owner ∧ t.flag (knotCfg k) .HMODE = f.hmode ∧ t.flag (knotCfg k) .SATURATED = false ∧
      t.fld (knotCfg k) .CHANGES = 0 ∧ t.knotCount k = 0 ∧ t.fld (knotVal k) .THRESHOLD = 2 ^ 32 - 1) ∧
    (s.flag (knotCfg k) .ENABLE = true → s.knotNamed k = false →
      ∃ t, exec (.knotDisable k f) s = .next t ∧ t.flag (knotCfg k) .ENABLE = false ∧ t.knotCount k = s.knotCount k) ∧
    (s.flag (knotCfg k) .ENABLE = true → s.knotNamed k = true → ∃ t, exec (.knotDisable k f) s = .next t ∧
      t.flag (knotCfg k) .ENABLE = true ∧ t.flag (.tbobStatus (k.val / 128)) .CFG_ERR = true)

/-- For every core that executes. On a local bobbin of its context: BCOUNT sets rd to the queued messages; BRECV into a 16-byte
aligned buffer with an empty queue sets rd to PENDING (1) with NW = 1 and waits with NW = 0. BRECV of a head no longer than its
buffer, whose pages translate to tile memory, removes the head, writes it to the buffer and sets rd to its length in [63:32]; a
longer head stays, with status 0x10. BSEND of an aligned message that loads from tile memory, after the older stores: to a plain
bobbin with room it appends the message and gives 0; longer than MAXLEN gives 0x10; with no room it gives BUSY (0x14) with NW =
1 and waits with NW = 0. Remotely: LINK_DOWN (0x17) on a port that is down, 0x10 with no bobbin slot on it, else the message at
the queue's tail and 0, or BUSY or the wait at 64 entries. -/
def Obligations.BobbinInstructions : Prop :=
  ∀ (n : CoreId) (rd rs1 rs2 : SReg) (nw : Bool) (oimm : BitVec 13) (lm1 : BitVec 4) (s s1 : State), Executes s s1 n →
  let k := s1.core n
  let va := (k.sreg rs2).toNat
  let len := 16 * (lm1.toNat + 1)
  (∀ b, nameOf (k.sreg rs1) oimm = some (none, b) → s1.bobOwned (s1.ctxOf n) b = true →
    exec (.bcount n rd rs1 oimm) s = .next (finished s1 n (k.setS rd (BitVec.ofNat 64 (s1.bobbin b).queue.length))) ∧
    (va % 16 = 0 → (s1.bobbin b).queue = [] → exec (.brecv n rd rs1 rs2 nw oimm lm1) s =
      .next (if nw then finished s1 n (k.setS rd 1) else s1.nibWait n (.brecv rd b len va))) ∧
    (∀ msg rest s2 e2, va % 16 = 0 → (s1.bobbin b).queue = msg :: rest → s1.storeSegs n (bufferCells va len) = (s2, .ok e2) →
      (len < msg.length → exec (.brecv n rd rs1 rs2 nw oimm lm1) s =
        .next (finished s2 n ((s2.core n).setS rd (BitVec.ofNat 64 (msg.length * 2 ^ 32 + 0x10))))) ∧
      (msg.length ≤ len → ∀ s4 segs, let s3 := s2.drainAll n
        s3.canStep n = true → s3.storeSegs n (cellsFrom va msg) = (s4, .ok segs) →
        let r := (s4.bobPop b).performStore (s4.ctxOf n) segs
        let s5 := r.1.storeFaults n r.2
        s5.canStep n = true → exec (.brecv n rd rs1 rs2 nw oimm lm1) s =
          .next (finished s5 n ((s5.core n).setS rd (BitVec.ofNat 64 (msg.length * 2 ^ 32))))))) ∧
  (∀ port b s2 s3 got, nameOf (k.sreg rs1) oimm = some (port, b) → (port = none → s1.bobOwned (s1.ctxOf n) b = true) →
    va % 16 = 0 → s2 = s1.drainAll n → s2.canStep n = true → s2.loadBytes n (addrsFrom va len) = (s3, .bytes got []) →
    let msg := (addrsFrom va len).map fun a => smGet (fun _ => 0) got a
    let gives := fun (t : State) (status : W64) => exec (.bsend n rd rs1 rs2 nw oimm lm1) s = .next (finished t n ((t.core n).setS rd status))
    let noRoom := (nw = true → gives s3 0x14) ∧
      (nw = false → exec (.bsend n rd rs1 rs2 nw oimm lm1) s = .next (s3.nibWait n (.bsend rd b port msg)))
    (port = none → s3.bobOwned (s3.ctxOf n) b = true → s3.flag (bobCfg b) .COMBINE = false →
      (s3.bobMaxLen b < len → gives s3 0x10) ∧
      (len ≤ s3.bobMaxLen b → s3.bobRoom b = false → noRoom) ∧
      (len ≤ s3.bobMaxLen b → s3.bobRoom b = true → ∃ t, gives t 0 ∧ (t.bobbin b).queue = (s3.bobbin b).queue ++ [msg])) ∧
    ∀ p, port = some p → let q := s3.outQueue p (s3.ctxOf n)
      (s3.portRefuses p = true → gives s3 0x17) ∧
      (s3.portRefuses p = false → s3.bobbinSlotOn (s3.ctxOf n) p = false → gives s3 0x10) ∧
      (s3.portRefuses p = false → s3.bobbinSlotOn (s3.ctxOf n) p = true →
        (64 ≤ q.length → noRoom) ∧
        (q.length < 64 → gives (s3.setOutQueue p (s3.ctxOf n) (q ++ [{ index := b, data := msg }])) 0)))

/-- BOBBIN_ARRIVAL, of 16 to 256 bytes in steps of 16, at a bobbin of the context: at a plain one with room, and no longer than
MAXLEN, it is appended. At a combining one, of MAXLEN bytes, it is added element by element to the accumulators, CONTRIB one
more; the EXPECT-th contribution, with room, queues the sum and returns CONTRIB to 0. REMOTE_BOBBIN_MESSAGE is placed alike at a
bobbin with REMOTE_IN; one that cannot be placed adds one to DROPS, sets REMOTE_DROP and faults the context with BOBBIN_REMOTE,
or, in its reset, adds to DROPS alone. BOBBIN_ENABLE of legal fields takes the lowest run that fits; with none it sets NO_SPACE
and CFG_ERR. BOBBIN_DISABLE with no wait on it empties the bobbin. TBOB_POOL_WRITE is refused while a bobbin of the tile is
enabled, or beyond 24 MiB. -/
def Obligations.BobbinArrivalsAndConfiguration : Prop :=
  (∀ (c : Ctx) (b : BobbinId) (data : List Byte) (s : State), messageLen data.length = true → s.bobOwned c b = true →
    let k := s.bobbin b
    let acc := addContribution k.acc (contribution (s.fld (bobCfg b) .CTYPE) data)
    let placed := fun (i : Instr) (queue : List (List Byte)) (acc : List Accum) (contrib : Nat) =>
      ∃ t, exec i s = .next t ∧ (t.bobbin b).queue = queue ∧ (t.bobbin b).acc = acc ∧ t.fld (bobState b) .CONTRIB = contrib
    let all := fun (queue : List (List Byte)) (acc : List Accum) (contrib : Nat) => (∀ n : CoreId, placed (.bobbinArrival b [{ src := .core n, ctx := c, data := data }]) queue acc contrib) ∧
      (s.resetting c = false → s.flag (bobCfg b) .REMOTE_IN = true → placed (.remoteBobbinMessage c b data) queue acc contrib)
    (s.flag (bobCfg b) .COMBINE = false → data.length ≤ s.bobMaxLen b → s.bobRoom b = true →
      all (k.queue ++ [data]) k.acc (s.fld (bobState b) .CONTRIB)) ∧
    (s.flag (bobCfg b) .COMBINE = true → data.length = s.bobMaxLen b →
      let n := s.fld (bobState b) .CONTRIB + 1
      (n < s.fld (bobCfg b) .EXPECT → all k.queue acc n) ∧
      (s.fld (bobCfg b) .EXPECT ≤ n → s.bobRoom b = true → all (k.queue ++ [acc.flatMap fun a =>
        toBytes (ctypeSize (s.fld (bobCfg b) .CTYPE)) (a.toElem (s.fld (bobCfg b) .CTYPE))]) [] 0))) ∧
  (∀ (c : Ctx) (b : BobbinId) (data : List Byte) (s : State), messageLen data.length = true →
    (s.resetting c = true ∨ s.bobOwned c b = false ∨ s.flag (bobCfg b) .REMOTE_IN = false ∨
      (s.flag (bobCfg b) .COMBINE = false ∧ (s.bobMaxLen b < data.length ∨ s.bobRoom b = false))) →
    ∃ t, exec (.remoteBobbinMessage c b data) s = .next t ∧ t.bob = s.bob ∧
      t.fld (.tbobDrops (b.val / 256)) .COUNT = (s.fld (.tbobDrops (b.val / 256)) .COUNT + 1) % 2 ^ 64 ∧
      (s.resetting c = false → t.flag (.tbobStatus (b.val / 256)) .REMOTE_DROP = true ∧
        (s.flag (.ctxfCause c) .VALID = false → t.fld (.ctxfCause c) .CAUSE = 0x0D ∧ t.fld (.ctxfDetail c) .ARG = b))) ∧
  (∀ (b : BobbinId) (f : BobFields) (s : State), s.flag (bobCfg b) .ENABLE = false → 3 ≤ f.depthM1.toNat →
    (f.combine = true → 224 ≤ b.val % 256 ∧ f.expect ≠ 0 ∧ f.ctype.toNat ∈ [2, 3, 4, 6]) →
    let t0 := s.bobFields b f
    let run := lowestRun (t0.fld (.tbobPool (b.val / 256)) .SIZE_G) (t0.usedRuns (b.val / 256)) (bobGranules f)
    (∀ a, run = some a → ∃ t, exec (.bobbinEnable b f) s = .next t ∧ t.flag (bobCfg b) .ENABLE = true ∧
      t.bobbin b = { queue := [], acc := [], run := (a, bobGranules f) } ∧ t.fld (bobState b) .RECEIVED = 0 ∧ t.fld (bobState b) .CONTRIB = 0 ∧
      t.fld (bobCfg b) .OWNER = f.owner ∧ t.bobMaxLen b = 16 * (f.lenM1.toNat + 1) ∧ t.bobDepth b = f.depthM1.toNat + 1) ∧
    (run = none → ∃ t, exec (.bobbinEnable b f) s = .next t ∧ t.flag (bobCfg b) .ENABLE = false ∧
      t.flag (.tbobStatus (b.val / 256)) .NO_SPACE = true ∧ t.flag (.tbobStatus (b.val / 256)) .CFG_ERR = true)) ∧
  (∀ (b : BobbinId) (f : BobFields) (s : State), s.flag (bobCfg b) .ENABLE = true →
    (s.bobWaited b = true → ∃ t, exec (.bobbinDisable b f) s = .next t ∧ t.flag (bobCfg b) .ENABLE = true ∧ t.bobbin b = s.bobbin b ∧
      t.flag (.tbobStatus (b.val / 256)) .CFG_ERR = true) ∧
    (s.bobWaited b = false → ∃ t, exec (.bobbinDisable b f) s = .next t ∧ t.flag (bobCfg b) .ENABLE = false ∧ t.bobbin b = Bobbin.empty)) ∧
  ∀ (t : TileId) (size base : BitVec 17) (s : State),
    (s.enabledBobbins t ≠ [] ∨ 24 * 2 ^ 20 / 256 < base.toNat + size.toNat → ∃ u, exec (.tbobPoolWrite t size base) s = .next u ∧
      u.reg (.tbobPool t) = s.reg (.tbobPool t) ∧ u.flag (.tbobStatus t) .CFG_ERR = true) ∧
    (s.enabledBobbins t = [] → base.toNat + size.toNat ≤ 24 * 2 ^ 20 / 256 → ∃ u, exec (.tbobPoolWrite t size base) s = .next u ∧
      u.fld (.tbobPool t) .SIZE_G = size.toNat ∧ u.fld (.tbobPool t) .BASE_G = base.toNat)

/-- For every core that executes: SCOUNT and SPHASE set rd to STROKE.COUNT and STROKE.PHASE, SSTEP to the current step of the
context's image, or all ones unless it is armed with STATUS OK. For every hart that executes: QSTROKE and QPHASE set rd to COUNT
and PHASE and go 4 bytes on. SVOTE, and QVOTE outside U-mode or with UEN set, complete; while the stroke runs the context is
then among those that voted and the stroke has a vote: the one it had, or this package's with cause PROGRAM (1), which leaves,
in state RUNNING, as a SLIP symbol on every live port with a link that does not relock; a vote raised after P - 8 us sets
LATE_VOTE; while it does not run nothing but the pc and the instruction count changes. VOTE_SLIP, while it runs, gives the
stroke a vote likewise, with cause DRIVER (2), and changes nothing otherwise. QVOTE in U-mode without UEN is an illegal
instruction. -/
def Obligations.StrokeInstructions : Prop :=
  (∀ (n : CoreId) (rd : SReg) (s s1 : State), Executes s s1 n →
    let k := s1.core n
    exec (.scount n rd) s = .next (finished s1 n (k.setS rd (BitVec.ofNat 64 s1.count))) ∧
    exec (.sphase n rd) s = .next (finished s1 n (k.setS rd (BitVec.ofNat 64 s1.phase))) ∧
    exec (.sstep n rd) s = .next (finished s1 n (k.setS rd
      (if (s1.image (s1.ctxOf n)).active = true ∧ s1.fld (.strokeImgStat (s1.ctxOf n)) .STATUS = 0
       then BitVec.ofNat 64 (s1.fld (.strokeImgStat (s1.ctxOf n)) .STEP) else BitVec.allOnes 64))) ∧
    (s1.strokeRuns = false → s1.coreCtx n ≠ none → exec (.svote n) s = .next (finished s1 n k)) ∧
    (∀ c, s1.strokeRuns = true → s1.coreCtx n = some c → ∃ t, exec (.svote n) s = .next t ∧ t.core n = k.advance ∧
      c ∈ t.stroke.voted ∧ t.stroke.vote = some (s1.stroke.vote.getD { x := s1.myX, y := s1.myY, ctx := c, cause := 1 }) ∧
      Raised s1 t { x := s1.myX, y := s1.myY, ctx := c, cause := 1 })) ∧
  (∀ (h : HartId) (rd : XReg) (s s1 : State) (w : Nat), HartExecutes s s1 h w →
    let k := s1.hartOf h
    exec (.qstroke h rd) s = .next (s1.hartDone h (k.setX rd (BitVec.ofNat 64 s1.count)) 4) ∧
    exec (.qphase h rd) s = .next (s1.hartDone h (k.setX rd (BitVec.ofNat 64 s1.phase)) 4) ∧
    (k.priv = .u → k.cbit 0x7C0 0 = false → exec (.qvote h) s = .next (s1.hartIllegal h w)) ∧
    ((k.priv ≠ .u ∨ k.cbit 0x7C0 0 = true) →
      (s1.strokeRuns = false → exec (.qvote h) s = .next (s1.hartDone h k 4)) ∧
      (s1.strokeRuns = true → ∃ t, exec (.qvote h) s = .next t ∧ t.hartOf h = k.advance 4 ∧ s.fld (hartReg h) .CTX ∈ t.stroke.voted ∧
        t.stroke.vote = some (s1.stroke.vote.getD { x := s1.myX, y := s1.myY, ctx := s.fld (hartReg h) .CTX, cause := 1 }) ∧
        Raised s1 t { x := s1.myX, y := s1.myY, ctx := s.fld (hartReg h) .CTX, cause := 1 }))) ∧
  ∀ s : State, (s.strokeRuns = false → exec .voteSlip s = .next s) ∧
    (s.strokeRuns = true → ∃ t v, exec .voteSlip s = .next t ∧ t.stroke.vote = some v ∧
      (∀ w, s.stroke.vote = some w → v = w) ∧ (s.stroke.vote = none → v.x = s.myX ∧ v.y = s.myY ∧ v.cause = 2 ∧ v.ctx < 16) ∧
      Raised s t v)

/-- For an idle core of a live context: with an image start at the head of its image queue, NIB_RUN_START takes it, and the core
runs with pc its ENTRY (low 48 bits), s1 its ARG and every other register 0. With no image start and a post at the head that is
not held: a qpost's carries ENTRY, ARG0 and ARG1; a DISPATCH's names a record that is read for them; the core runs with s1 and
s2 those and s3 the handle if it has a record. Buffered stores and the other queue stay. (An ENTRY of 2^48 or more fails at the
first fetch.) A DISPATCH's record that cannot be read ends the post with its status, without a run; one on a HOST page is asked
for, and the core waits for it. A held post, no post, or a core that is not idle changes nothing. -/
def Obligations.NibRunsStart : Prop :=
  ∀ (n : CoreId) (s : State),
  let k := s.core n
  let runs := fun (entry a b c : W64) (imageQ : List ImageStart) (postQ : List Post) => ∃ t, exec (.nibRunStart n) s = .next t ∧
    (t.core n).st = .running ∧ (t.core n).pc = entry.truncate 48 ∧
    (∀ j, (t.core n).sreg j = if j = 1 then a else if j = 2 then b else if j = 3 then c else 0) ∧ (∀ j, (t.core n).vreg j = 0) ∧
    (∀ j, j ≠ 0 → (t.core n).preg j = 0) ∧ (t.core n).handler = false ∧ (t.core n).evec = 0 ∧ (t.core n).wait = .none ∧
    (t.core n).stores = k.stores ∧ (t.core n).imageQ = imageQ ∧ (t.core n).postQ = postQ ∧ (t.core n).started = k.started + 1
  (k.st ≠ .idle ∨ k.wait ≠ .none → exec (.nibRunStart n) s = .next s) ∧
  (k.imageQ = [] → (∀ p ∈ k.postQ.head?, p.held = true) → exec (.nibRunStart n) s = .next s) ∧
  (k.st = .idle → k.wait = .none → s.ctxLive (s.ctxOf n) = true →
    (∀ i is, k.imageQ = i :: is → i.entry.toNat < 2 ^ 48 → runs i.entry i.arg 0 0 is k.postQ) ∧
    (∀ p ps, k.imageQ = [] → k.postQ = p :: ps → p.held = false →
      (∀ e a b, p.arg = .args e a b → e.toNat < 2 ^ 48 → runs e a b (if p.crec then p.handle else 0) [] ps) ∧
      (∀ va, p.arg = .desc va → let s0 := s.setCore n { k with postQ := ps }
        let q := fun (b : List Byte) (o : Nat) => BitVec.ofNat 64 (ofBytes ((b.drop o).take 8))
        (∀ s1 b, s0.readPost n va = (s1, .bytes b) → (s1.core n).st = .idle → (s1.core n) = (s0.core n) → (q b 0).toNat < 2 ^ 48 →
          runs (q b 0) (q b 8) (q b 16) (if p.crec then p.handle else 0) [] ps) ∧
        (∀ s1 status, s0.readPost n va = (s1, .fails status) → exec (.nibRunStart n) s = .next
          (s1.endWork (s1.ctxOf n) p.crec p.handle p.knot 0 (n.val / 8) (n.val % 8) status p.delayed 0 0)) ∧
        (∀ s1 bus, s0.readPost n va = (s1, .host bus) → s1.canIssue (s1.ctxOf n) = true → ∃ t, exec (.nibRunStart n) s = .next t ∧
          (t.core n).wait = .postRead p ∧ t.hostReads = s1.hostReads ++
            [{ tag := s1.nextTag, ctx := s1.ctxOf n, reader := .nib n, va := va.toNat, bus := bus, len := 32 }]))))

/-- NIB_BIND of a core that is OFF or IDLE with empty queues, to a context with a locked ring or to none, and no read
outstanding, sets BOUND and CTX, and the core is IDLE or OFF; in any other case in which it would change them it sets
BIND_REFUSED and changes neither. STORE_DRAIN takes the oldest entry; for an entry of one segment in tile memory whose write
succeeds the state is that after the write; for one that fails the other stores of the buffer drain too, and the context faults
with STORE_FAILED. NIB_CORE_FAILURE of a physical core lists it unless listed or the list is full and logs the first failure of
the tile. If a logical core stands on it, neither FAILED nor DISABLED, that core is FAILED and unbound, its queues and stores
empty, and, if it was bound and no fault is recorded, its context faults with UNIT_FAILED, ARG 5. If none does and the core is
not listed, no core changes. -/
def Obligations.NibBindingDrainsAndFailures : Prop :=
  (∀ (n : CoreId) (bound : Bool) (ctx : Ctx) (s : State),
    let r := coreReg n
    let k := s.core n
    let may := (k.st = .off ∨ k.st = .idle) ∧ k.wait = .none ∧ k.imageQ = [] ∧ k.postQ = [] ∧ (bound = true → s.flag (.ctxwCmpl ctx) .LOCK = true)
    let changes := s.flag r .BOUND ≠ bound ∨ s.fld r .CTX ≠ ctx
    (changes → may → ∃ t, exec (.nibBind n bound ctx) s = .next t ∧ t.flag r .BOUND = bound ∧ t.fld r .CTX = ctx ∧
      t.core n = { k with st := if bound then .idle else .off }) ∧
    (changes → ¬ may → ∃ t, exec (.nibBind n bound ctx) s = .next t ∧ t.reg r = s.reg r ∧ t.core n = k ∧
      t.flag (.nibStatus (n.val / 8)) .BIND_REFUSED = true) ∧
    (¬ changes → exec (.nibBind n bound ctx) s = .next s)) ∧
  (∀ (n : CoreId) (s : State) (g : WSeg) (es : List StoreEntry), (s.core n).stores = [g] :: es → g.host = false →
    let s1 := s.setCore n { s.core n with stores := es }
    ∀ t ok, s1.homeWrite (some (s1.ctxOf n)) g.mcomp g.cells = (t, ok) →
      (ok = true → exec (.storeDrain n) s = .next t) ∧
      (ok = false → (t.core n).stores = [] → exec (.storeDrain n) s = .next (t.contextFault (t.ctxOf n) 0x03 0 (n.val / 8) (n.val % 8) 0)) ∧
      (ok = false → ∃ u, exec (.storeDrain n) s = .next u ∧ (u.core n).stores = [])) ∧
  ∀ (t : TileId) (phys : Fin 9) (check : NibCheck) (s : State),
    let entry := defectEntry 2 0 false s.perm.boots.toNat t phys
    let reported := fun v : State => v.flag (.nibStatus t) .FAILED = true ∧
      v.perm.defects = (if 4096 ≤ s.perm.defects.length ∨ ∃ d ∈ s.perm.defects, defectKey d = defectKey entry then s.perm.defects
        else s.perm.defects ++ [entry]) ∧
      (s.flag (.nibFailLog t) .VALID = false → v.flag (.nibFailLog t) .VALID = true ∧ v.fld (.nibFailLog t) .PHYS = phys ∧
        v.fld (.nibFailLog t) .CHECK = nibCheckCode check)
    (s.logicalCore t phys = none → (∀ d ∈ s.perm.defects, defectKey d ≠ defectKey (defectEntry 2 0 false 0 t phys)) →
      ∃ v, exec (.nibCoreFailure t phys check) s = .next v ∧ reported v ∧ v.nib = s.nib) ∧
    ∀ i, s.logicalCore t phys = some i → (s.core (8 * t.val + i)).st ≠ .failed →
      ∃ v, exec (.nibCoreFailure t phys check) s = .next v ∧ reported v ∧ (v.core (8 * t.val + i)).st = .failed ∧
        (v.core (8 * t.val + i)).imageQ = [] ∧ (v.core (8 * t.val + i)).postQ = [] ∧ (v.core (8 * t.val + i)).stores = [] ∧
        v.flag (coreReg (8 * t.val + i)) .BOUND = false ∧
        ∀ c, s.coreCtx (8 * t.val + i) = some c → s.flag (.ctxfCause c) .VALID = false → v.fld (.ctxfCause c) .CAUSE = 0x04 ∧
          v.fld (.ctxfDetail c) .ENGINE = 0 ∧ v.fld (.ctxfDetail c) .TILE = t ∧ v.fld (.ctxfDetail c) .UNIT = i ∧
          v.fld (.ctxfDetail c) .ARG = 5

/-- RING_LOCK of an unlocked ring stores SLOTS_LOG2 and BASE; if the ring then meets R137 (2^6 to 2^14 slots, aligned, every
frame writable Well) LOCK and INIT are 1 and its frames are kept, else CFG_ERR is 1 and LOCK stays 0. On a locked ring it
changes nothing, but sets WO_VIOLATION if a field would change. RING_INIT_DONE of a ring in INIT leaves every slot free with SEQ
0 (frames aligned) and INIT 0. RING_UNLOCK of a ring with no bound core or hart and nothing pending clears LOCK; otherwise it
sets CFG_ERR and LOCK stays 1. RETIRING_WRITE: 8 bytes equal to the SEQ of a complete slot free it (its Well words not in
error); on a slot not complete nothing changes; any other write to a ring's frames sets BAD_WRITE and stores nothing; beyond
every ring nothing changes. -/
def Obligations.CompletionRings : Prop :=
  (∀ (c : Ctx) (g : BitVec 4) (base : BitVec 37) (s : State),
    let r := Reg.ctxwCmpl c
    let s0 := s.writeRing c g.toNat base.toNat
    (s.flag r .LOCK = false →
      (∀ fs, s0.ringMap c = some fs → ∃ t, exec (.ringLock c g base) s = .next t ∧ t.flag r .LOCK = true ∧
        t.flag (.ctxwCmplStat c) .INIT = true ∧ t.fld r .SLOTS_LOG2 = g.toNat ∧ t.fld r .BASE = base.toNat ∧
        (t.context c).ringFrames = fs) ∧
      (s0.ringMap c = none → ∃ t, exec (.ringLock c g base) s = .next t ∧ t.flag r .LOCK = false ∧
        t.flag (.ctxwCmplStat c) .CFG_ERR = true)) ∧
    (s.flag r .LOCK = true →
      (s.fld r .SLOTS_LOG2 = g.toNat → s.fld r .BASE = base.toNat → exec (.ringLock c g base) s = .next s) ∧
      ((s.fld r .SLOTS_LOG2 ≠ g.toNat ∨ s.fld r .BASE ≠ base.toNat) →
        ∃ t, exec (.ringLock c g base) s = .next t ∧ t.reg r = s.reg r ∧ t.flag (.ctxwCmplStat c) .WO_VIOLATION = true) ∧
      ((s.hasBound c = true ∨ s.fld (.ctxwCmplStat c) .PENDING ≠ 0) → ∃ t, exec (.ringUnlock c g base) s = .next t ∧
        t.flag r .LOCK = true ∧ t.flag (.ctxwCmplStat c) .CFG_ERR = true) ∧
      (s.hasBound c = false → s.fld (.ctxwCmplStat c) .PENDING = 0 → ∃ t, exec (.ringUnlock c g base) s = .next t ∧
        t.flag r .LOCK = false ∧ t.fld r .SLOTS_LOG2 = g.toNat ∧ t.fld r .BASE = base.toNat))) ∧
  (∀ (c : Ctx) (s : State), s.flag (.ctxwCmplStat c) .INIT = true → s.flag (.ctxwCmpl c) .LOCK = true →
    (∀ f ∈ (s.context c).ringFrames, f % 32 = 0) → ∃ t, exec (.ringInitDone c) s = .next t ∧ t.flag (.ctxwCmplStat c) .INIT = false ∧
      ∀ i < s.ringSlots c, slotState (t.bytesAt (s.slotPa c i) 32) = .free ∧ t.wordAt (s.slotPa c i) 8 = 0) ∧
  ∀ (pa : BitVec 40) (data : List Byte) (s : State),
    (s.ringAt pa.toNat = none → exec (.retiringWrite pa data) s = .next s) ∧
    ∀ c o, s.ringAt pa.toNat = some (c, o) →
      let slot := s.bytesAt pa.toNat 32
      let retires := data.length = 8 ∧ o % 32 = 0 ∧ data = s.bytesAt pa.toNat 8
      (retires → slotState slot = .complete → (∀ w ∈ wordsOf pa.toNat 32, s.badWord w = false) →
        ∃ t, exec (.retiringWrite pa data) s = .next t ∧ slotState (t.bytesAt pa.toNat 32) = .free ∧
          ∀ a, a ≠ pa.toNat + 8 → a ≠ pa.toNat + 9 → t.byteAt a = s.byteAt a) ∧
      (retires → slotState slot ≠ .complete → exec (.retiringWrite pa data) s = .next s) ∧
      (¬ retires → ∃ t, exec (.retiringWrite pa data) s = .next t ∧ t.mem = s.mem ∧ t.flag (.ctxwCmplStat c) .BAD_WRITE = true)


/-- QUILL_HART_BIND with RUN = 1, and HART_RUN, of a hart that is OFF, or FAULTED outside its context's reset: with BOUND = 1
the fields are stored, RUN is 1 and the hart runs in M-mode with pc RESET_PC (bit 0 clear) and every other register at reset;
with BOUND = 0 BIND_REFUSED is set and nothing else changes. With RUN = 0, and HART_STOP: a RUNNING or WFI hart is OFF with RUN
0 and its LR reservation, waits and bindings gone; an OFF one stores the fields. RUN = 1 of a RUNNING or WFI hart changes
nothing with BOUND = 1 and sets BIND_REFUSED with BOUND = 0; of a FAILED or DISABLED one it sets BIND_REFUSED; of a FAULTED one
in its context's reset, and RUN = 0 of a FAILED or DISABLED one, change nothing. -/
def Obligations.HartBindingRunAndStop : Prop :=
  ∀ (h : HartId) (f : HartFields) (s : State),
  let k := s.hartOf h
  let r := hartReg h
  let both := fun (run : Bool) (p : Instr → Prop) => p (.quillHartBind h run f) ∧ p (if run then .hartRun h f else .hartStop h f)
  let same := fun (i : Instr) => exec i s = .next s
  let stored := fun (t : State) => t.flag r .BOUND = f.bound ∧ t.fld r .CTX = f.ctx ∧ t.fld r .RESET_PC = f.resetPc.toNat
  ((k.st = .off ∨ (k.st = .faulted ∧ s.resetting (s.fld r .CTX) = false)) →
    (f.bound = true → both true fun i => ∃ t, exec i s = .next t ∧ stored t ∧ t.flag r .RUN = true ∧
      t.hartOf h = { Hart.off with st := .running, pc := BitVec.ofNat 64 (f.resetPc.toNat / 2 * 2) }) ∧
    (f.bound = false → both true fun i => exec i s = .next (s.setFlag (.quillStatus (h.val / 32)) .BIND_REFUSED true)) ∧
    both false fun i => ∃ t, exec i s = .next t ∧ stored t ∧ t.flag r .RUN = false ∧ (t.hartOf h).st = .off) ∧
  ((k.st = .running ∨ k.st = .wfi) →
    (f.bound = true → both true same) ∧
    (f.bound = false → both true fun i => exec i s = .next (s.setFlag (.quillStatus (h.val / 32)) .BIND_REFUSED true)) ∧
    both false fun i => ∃ t, exec i s = .next t ∧ t.flag r .RUN = false ∧ (t.hartOf h).st = .off ∧ (t.hartOf h).resv = none ∧
      (t.hartOf h).wait = .none ∧ (t.hartOf h).bind = [] ∧ Agent.hart h ∉ t.waiting ∧ t.flag r .BOUND = s.flag r .BOUND) ∧
  ((k.st = .failed ∨ k.st = .disabled) → both false same ∧
    both true fun i => exec i s = .next (s.setFlag (.quillStatus (h.val / 32)) .BIND_REFUSED true)) ∧
  (k.st = .faulted → s.resetting (s.fld r .CTX) = true → (f.bound = true → both true same) ∧ both false same)

/-- For every hart that executes the word w (opcode, funct3 and funct7 as RISC-V encodes them, log 60): LUI, AUIPC, ADDI, ADD,
SUB, SLTU, XOR, MUL, DIVU (all ones by zero), JAL, JALR, BEQ and BLTU set rd and pc as RISC-V says and change nothing else but
minstret. LD of 8 bytes that one 64-byte block holds in tile memory sets rd to them. SD of 8 bytes whose write succeeds goes on
behind it. FENCE goes on behind it. A word whose opcode is none of those of Table 3-5 traps as an illegal instruction with the
word as its trap value. -/
def Obligations.RiscvIntegerInstructions : Prop :=
  ∀ (h : HartId) (w : Nat) (s s1 : State), HartExecutes s s1 h w →
  let k := s1.hartOf h
  let c := s.fld (hartReg h) .CTX
  let a := k.xreg (rvRs1 w)
  let b := k.xreg (rvRs2 w)
  let is := fun (op f3 f7 : Nat) => nbits w 6 0 = op ∧ rvF3 w = f3 ∧ rvF7 w = f7
  let gives := fun (v : W64) => exec (.riscvInstruction h) s = .next (s1.hartDone h (k.setX (rvRd w) v) 4)
  let jumps := fun (k' : Hart) (pc : W64) => exec (.riscvInstruction h) s = .next (s1.setHart h { k'.advance 4 with pc := pc })
  (nbits w 6 0 = 0x37 → gives (immU w)) ∧
  (nbits w 6 0 = 0x17 → gives (k.pc + immU w)) ∧
  (nbits w 6 0 = 0x13 → rvF3 w = 0 → gives (a + immI w)) ∧
  (is 0x33 0 0 → gives (a + b)) ∧
  (is 0x33 0 0x20 → gives (a - b)) ∧
  (is 0x33 3 0 → gives (if a.toNat < b.toNat then 1 else 0)) ∧
  (is 0x33 4 0 → gives (a ^^^ b)) ∧
  (is 0x33 0 1 → gives (BitVec.ofNat 64 (a.toNat * b.toNat))) ∧
  (is 0x33 5 1 → gives (if b = 0 then BitVec.allOnes 64 else BitVec.ofNat 64 (a.toNat / b.toNat))) ∧
  (nbits w 6 0 = 0x6F → jumps (k.setX (rvRd w) (k.pc + 4)) (k.pc + immJ w)) ∧
  (nbits w 6 0 = 0x67 → rvF3 w = 0 → jumps (k.setX (rvRd w) (k.pc + 4)) ((a + immI w) &&& ~~~ 1)) ∧
  (nbits w 6 0 = 0x63 → rvF3 w = 0 → (a = b → jumps k (k.pc + immB w)) ∧ (a ≠ b → exec (.riscvInstruction h) s = .next (s1.hartDone h k 4))) ∧
  (nbits w 6 0 = 0x63 → rvF3 w = 6 → (a.toNat < b.toNat → jumps k (k.pc + immB w)) ∧
    (b.toNat ≤ a.toNat → exec (.riscvInstruction h) s = .next (s1.hartDone h k 4))) ∧
  (nbits w 6 0 = 0x03 → rvF3 w = 3 → ∀ s2 bytes, s1.hartLoad h c (k.mode .load) (a + immI w) 8 = (s2, .ok (.bytes bytes)) → bytes.length = 8 →
    exec (.riscvInstruction h) s = .next (s2.hartDone h ((s2.hartOf h).setX (rvRd w) (BitVec.ofNat 64 (ofBytes bytes))) 4)) ∧
  (nbits w 6 0 = 0x23 → rvF3 w = 3 → ∀ s2, s1.hartStore h c (k.mode .store) (a + immS w) (toBytes 8 b.toNat) = (s2, .ok ()) →
    exec (.riscvInstruction h) s = .next (s2.hartDone h (s2.hartOf h) 4)) ∧
  (nbits w 6 0 = 0x0F → rvF3 w = 0 → exec (.riscvInstruction h) s = .next (s1.hartDone h k 4)) ∧
  (nbits w 6 0 ∈ [0x2B, 0x3F, 0x5B, 0x5F, 0x6B, 0x77, 0x7B, 0x7F, 0x1F] → exec (.riscvInstruction h) s = .next
    (s1.setHart h (k.trap { int := false, cause := 2, tval := BitVec.ofNat 64 w, gva := false, gpa := 0 })))

/-- For every hart that executes, outside U-mode or with UEN: a post record not 32-byte aligned, a target core that does not
serve the hart's context, or an unlocked ring gives rd = 0 and qstat ILLEGAL_DESC; a full post queue BUSY; a record that does
not translate ACCESS; one on a HOST page is asked for by a read of the host and the hart waits, ACCESS where no read can be
issued. A readable record that nothing else refuses, with its ring slot free, is posted: ENTRY, ARG0 and ARG1 of the record at
the tail of the core's post queue with a completion record of its own, held and delayed in the guard, the record's knot if it
has one, and rd the handle; with no free slot the hart waits, and nothing else changes. In U-mode without UEN qpost is an
illegal instruction. STALLED_DISPATCH_ACCEPT of a hart that waits tries it again once a slot is free and no earlier wait is
served by it. -/
def Obligations.QpostJudged : Prop :=
  ∀ (h : HartId) (rd rs1 rs2 : XReg) (s s1 : State) (w : Nat), HartExecutes s s1 h w →
  let k := s1.hartOf h
  let c := s.fld (hartReg h) .CTX
  let record := k.xreg rs1
  let target := k.xreg rs2
  let n := bits target 4 0 * 8 + bits target 7 5
  let goes := exec (.qpost h rd rs1 rs2) s
  let refused := fun (t : State) (status : Nat) => goes = .next (t.hartDone h (((t.hartOf h).setX rd 0).setCbits 0x7C3 7 0 status) 4)
  (k.xquillOk = false → goes = .next (s1.hartIllegal h w)) ∧
  (k.xquillOk = true →
    ((record.toNat % 32 ≠ 0 ∨ s1.coreServes c n = false ∨ s1.flag (.ctxwCmpl c) .LOCK = false) → refused s1 0x10) ∧
    (record.toNat % 32 = 0 → s1.coreServes c n = true → s1.flag (.ctxwCmpl c) .LOCK = true →
      (8 ≤ (s1.core n).postQ.length → refused s1 0x14) ∧
      ((s1.core n).postQ.length < 8 →
        (∀ s2, s1.qpostRecord c record = (s2, .bad) → refused s2 0x11) ∧
        (∀ s2 bus, s1.qpostRecord c record = (s2, .host bus) →
          (s2.canIssue c = false → refused s2 0x11) ∧
          (s2.canIssue c = true → ∃ t, goes = .next t ∧ (t.hartOf h).wait = .qpostRead rd record target ∧
            t.hostReads = s2.hostReads ++ [{ tag := s2.nextTag, ctx := c, reader := .hart h, va := record.toNat, bus := bus, len := 32 }])) ∧
        (∀ s2 b, s1.qpostRecord c record = (s2, .bytes b) → s2.qpostBars c record target = none →
          (s2.nextSlotFree c = false → goes =
            .next { s2.setHart h { s2.hartOf h with wait := .qpost rd record target b } with waiting := s2.waiting ++ [.hart h] }) ∧
          (s2.nextSlotFree c = true →
            let r := s2.allocRecord c 0 (n / 8) (n % 8)
            r.1.hartReady h = true → ∃ t, goes = .next t ∧ t.hartOf h = ((r.1.hartOf h).setX rd (BitVec.ofNat 64 (s2.nextSeq c))).advance 4 ∧
              (t.core n).postQ = (r.1.core n).postQ ++ [{ arg := .args (BitVec.ofNat 64 (ofBytes (b.take 8))) (BitVec.ofNat 64 (ofBytes ((b.drop 8).take 8)))
                                                                 (BitVec.ofNat 64 (ofBytes ((b.drop 16).take 8))),
                                                          handle := BitVec.ofNat 64 (s2.nextSeq c), crec := true,
                                                          knot := if ofBytes ((b.drop 26).take 1) % 2 = 1 then some (ofBytes ((b.drop 24).take 2)) else none,
                                                          held := r.1.inGuard, delayed := r.1.inGuard }])))))

/-- QEBIND_WRITE, for a hart that executes in M-mode, stores the binding at the index of qesel if its reserved bits are 0 and it
names a bobbin or knot of the context, or VALID is 0; else it stores 0 and qstat is 0x10; outside M-mode it is an illegal
instruction. QEVENT_UPDATE makes the bit of qevent its binding's condition and leaves the others. MACHINE_TIMER_INTERRUPT at a
running hart that waits for nothing, in M-mode with MIE, MTIE the only enable, the timer not delegated and qmtimecmp at most the
time, traps: mepc = pc, mcause = 2^63 + 7, MIE 0, MPIE 1, pc from mtvec (the CSR layout is PRESUMED, log 60). QUILL_CORE_FAILURE
makes a hart FAILED, unbound and stopped, lists it and faults its context with UNIT_FAILED, ARG 3. QUILL_CACHE_UE of a cached
line drops it, poisons its home if modified, and faults its context with ARG 4; of a line not cached it changes nothing. -/
def Obligations.QuillEventsAndFailures : Prop :=
  (∀ (h : HartId) (data : W64) (s s1 : State) (w : Nat), HartExecutes s s1 h w →
    let k := s1.hartOf h
    let c := s.fld (hartReg h) .CTX
    let ok := bits data 61 13 = 0 ∧ (bitAt data 63 = true →
      (if bitAt data 62 then s1.bobOwned c (bits data 12 0) else s1.knotOwned c (bits data 12 0)) = true)
    (k.priv ≠ .m → exec (.qebindWrite h data) s = .next (s1.hartIllegal h w)) ∧
    (k.priv = .m → ∃ t, exec (.qebindWrite h data) s = .next t ∧
      smGet (fun _ => 0) (t.hartOf h).bind (k.cbits 0x7C4 5 0) = (if bits data 61 13 = 0 ∧ (bitAt data 63 = true →
        (if bitAt data 62 then s1.bobOwned c (bits data 12 0) else s1.knotOwned c (bits data 12 0)) = true) then data else 0) ∧
      (¬ ok → (t.hartOf h).cbits 0x7C3 7 0 = 0x10) ∧ (t.hartOf h).pc = k.pc + 4)) ∧
  (∀ (h : HartId) (b : BitVec 6) (s : State), ∃ t, exec (.qeventUpdate h b) s = .next t ∧
    (∀ c, s.hartCtx h = some c → bitAt ((t.hartOf h).csrAt 0x7C2) b.toNat = s.eventHolds c (smGet (fun _ => 0) (s.hartOf h).bind b.toNat)) ∧
    (s.hartCtx h = none → bitAt ((t.hartOf h).csrAt 0x7C2) b.toNat = false) ∧
    ∀ j < 64, j ≠ b.toNat → bitAt ((t.hartOf h).csrAt 0x7C2) j = bitAt ((s.hartOf h).csrAt 0x7C2) j) ∧
  (∀ (h : HartId) (s : State), let k := s.hartOf h
    (k.st = .running → k.wait = .none → k.priv = .m → k.cbit 0x300 3 = true → k.csrAt 0x304 = 0x80 → k.cbit 0x303 7 = false →
      (k.csrAt 0x7C1).toNat ≤ s.time → ∃ t, exec (.machineTimerInterrupt h) s = .next t ∧
        (t.hartOf h).csrAt 0x341 = k.pc ∧ (t.hartOf h).csrAt 0x342 = 0x8000000000000007 ∧ (t.hartOf h).cbit 0x300 3 = false ∧
        (t.hartOf h).cbit 0x300 7 = true ∧ (t.hartOf h).priv = .m ∧ (t.hartOf h).x = k.x ∧
        (t.hartOf h).pc = setBits (k.csrAt 0x305) 1 0 0 + (if bits (k.csrAt 0x305) 1 0 = 1 then 28 else 0)) ∧
    (k.st ≠ .running → k.st ≠ .wfi → exec (.machineTimerInterrupt h) s = .next s)) ∧
  (∀ (h : HartId) (s : State), (s.hartOf h).st ≠ .failed → (s.hartOf h).st ≠ .disabled → ∃ t, exec (.quillCoreFailure h) s = .next t ∧
    (t.hartOf h).st = .failed ∧ (t.hartOf h).resv = none ∧ t.flag (hartReg h) .BOUND = false ∧ t.flag (hartReg h) .RUN = false ∧
    (s.perm.defects.length < 4096 → ∃ d ∈ t.perm.defects, defectKey d = defectKey (defectEntry 5 0 false s.perm.boots.toNat (h.val / 32) (h.val % 32))) ∧
    ∀ c, s.hartCtx h = some c → s.flag (.ctxfCause c) .VALID = false →
      t.fld (.ctxfCause c) .CAUSE = 0x04 ∧ t.fld (.ctxfDetail c) .ARG = 3) ∧
  ∀ (line : BitVec 32) (s : State),
    (s.dir.find? (fun e => e.line = line.toNat) = none → exec (.quillCacheUe line) s = .next s) ∧
    ∀ e, s.dir.find? (fun e => e.line = line.toNat) = some e → ∃ t, exec (.quillCacheUe line) s = .next t ∧
      (∀ x ∈ t.dir, x.line ≠ line.toNat) ∧ t.poisoned line.toNat = (s.poisoned line.toNat || e.dirty) ∧
      (e.ctx < 16 → s.flag (.ctxfCause e.ctx) .VALID = false → t.fld (.ctxfCause e.ctx) .CAUSE = 0x04 ∧ t.fld (.ctxfDetail e.ctx) .ARG = 4)

/-- For every register of the package (an instance within its range): the BAR0 map finds it at its own offset, a multiple of 8,
so no two registers share one; its fields lie in bits 63 to 0 and share no bit. Under a write of data to the bits of a mask: a
written bit of an RW field takes its data bit; of a W1C field it clears where the data bit is 1; of a W1S field it sets there;
of an LK field it takes its data bit unless the register is locked; a bit of an RO, RC, WO or WZ field, and every unwritten bit,
stays. If the register is locked and a written LK bit would have changed, WO_VIOLATION of its block is 1. No register other than
these two changes, and nothing but registers. -/
def Obligations.RegisterMapAndAccessCodes : Prop :=
  (∀ r : Reg, r.valid = true → regAt r.addr = some r ∧ r.addr % 8 = 0 ∧ r.addr < 2 ^ 26) ∧
  (∀ r q : Reg, r.valid = true → q.valid = true → r.addr = q.addr → r = q) ∧
  (∀ (r : Reg), ∀ f ∈ r.fields, f.lo ≤ f.hi ∧ f.hi < 64) ∧
  (∀ (r : Reg), ∀ f ∈ r.fields, ∀ g ∈ r.fields, f ≠ g → f.hi < g.lo ∨ g.hi < f.lo) ∧
  ∀ (r : Reg) (s : State) (data mask : W64), r.valid = true →
  let t := s.writeCodes r data mask
  let lk := s.locked r
  (∀ f ∈ r.fields, ∀ i, f.lo ≤ i → i ≤ f.hi →
    bitAt (t.reg r) i = if bitAt mask i then
        (match f.acc with
        | .RW => bitAt data i
        | .W1C => bitAt (s.reg r) i && !bitAt data i
        | .W1S => bitAt (s.reg r) i || bitAt data i
        | .LK => if lk then bitAt (s.reg r) i else bitAt data i
        | _ => bitAt (s.reg r) i)
      else bitAt (s.reg r) i) ∧
  ((∃ f ∈ r.fields, f.acc = .LK ∧ lk = true ∧ ∃ i, f.lo ≤ i ∧ i ≤ f.hi ∧ bitAt mask i = true ∧ bitAt data i ≠ bitAt (s.reg r) i) →
    t.flag r.violation .WO_VIOLATION = true) ∧
  (∀ q : Reg, q.addr ≠ r.addr → q.addr ≠ r.violation.addr → t.reg q = s.reg q) ∧
  { t with regs := s.regs } = s

/-- Through a function whose BAR0 answers: REGISTER_WRITE of 8 bytes at a register performs that write; of 4 bytes at a multiple
of 4 the write of that half; a write of another length, or misaligned, or where there is no register, changes nothing.
LOW_HALF_READ of a register returns its low half and, where the machine updates the register, latches its high half;
READ_CLEAR_READ of 8 bytes at a register returns it whole, and a read of bytes of the high half alone returns those of the
latched half if there is one, of the live half if not; each leaves every RC field of it 0 and nothing else of it changed, and no
read but the aligned one of a low half changes a latch. Where there is no register a read of any width returns 0. A read through
a function whose BAR0 does not answer, while the package runs, completes as an unsupported request; a write there changes
nothing. -/
def Obligations.RegisterAccesses : Prop :=
  (∀ (f : FnId) (off : BitVec 26) (data : List Byte) (s : State),
    (s.barOpen f = false → exec (.registerWrite f off data) s = .next s) ∧
    (s.barOpen f = true → ∀ a, barOffset f off.toNat = some a →
      (∀ r, s.regFor f a = some r → a % 8 = 0 →
        (data.length = 8 → exec (.registerWrite f off data) s = .next (s.writeReg r (BitVec.ofNat 64 (ofBytes data)) (BitVec.allOnes 64))) ∧
        (data.length = 4 → exec (.registerWrite f off data) s = .next (s.writeReg r (BitVec.ofNat 64 (ofBytes data)) 0xFFFFFFFF))) ∧
      (∀ r, a % 8 = 4 → s.regFor f (a - 4) = some r → data.length = 4 →
        exec (.registerWrite f off data) s = .next (s.writeReg r (BitVec.ofNat 64 (ofBytes data * 2 ^ 32)) 0xFFFFFFFF00000000)) ∧
      (s.regFor f (a / 8 * 8) = none ∨ ¬ (data.length = 8 ∧ a % 8 = 0 ∨ data.length = 4 ∧ a % 4 = 0) →
        exec (.registerWrite f off data) s = .next s))) ∧
  (∀ (f : FnId) (word : BitVec 23) (s : State), s.barOpen f = true → ∀ a, barOffset f (8 * word.toNat) = some a →
    let rcZero := fun (t : State) (r : Reg) => (∀ x ∈ r.fields, x.acc = .RC → bits (t.reg r) x.hi x.lo = 0) ∧
      ∀ x ∈ r.fields, x.acc ≠ .RC → bits (t.reg r) x.hi x.lo = bits (s.reg r) x.hi x.lo
    (∀ r, s.regFor f a = some r → r.valid = true →
      (∃ t, exec (.lowHalfRead f word) s = .next t ∧ t.outbox = s.outbox ++ [.regData a 4 ((s.view r).toNat % 2 ^ 32)] ∧
        (r.latches = true → smGet (fun _ => none) t.latch r.addr = some (BitVec.ofNat 32 (bits (s.view r) 63 32))) ∧ rcZero t r) ∧
      (∃ t, exec (.readClearRead f (BitVec.ofNat 26 (8 * word.toNat)) 7) s = .next t ∧
        t.outbox = s.outbox ++ [.regData a 8 (s.view r).toNat] ∧ t.latch = s.latch ∧ rcZero t r) ∧
      ∀ k m : Nat, k + m ≤ 3 → ∃ t, exec (.readClearRead f (BitVec.ofNat 26 (8 * word.toNat + 4 + k)) (Fin.ofNat 8 m)) s = .next t ∧ rcZero t r ∧
        t.latch = s.latch ∧ t.outbox = s.outbox ++ [.regData (a + 4 + k) (m + 1) ((match smGet (fun _ => none) s.latch r.addr with
          | some h => h.toNat
          | none => bits (s.view r) 63 32) / 256 ^ k % 256 ^ (m + 1))]) ∧
    (s.regFor f a = none → exec (.lowHalfRead f word) s = .next (s.send (.regData a 4 0)))) ∧
  ∀ (f : FnId) (off : BitVec 26) (n : Fin 8) (s : State),
    (s.barOpen f = true → ∀ a, barOffset f off.toNat = some a →
      (¬ (a % 8 = 0 ∧ n = 3) → ∃ t, exec (.readClearRead f off n) s = .next t ∧ t.latch = s.latch) ∧
      ((∀ w ∈ touchedWords a (n.val + 1), s.regFor f w = none) → exec (.readClearRead f off n) s = .next (s.send (.regData a (n.val + 1) 0)))) ∧
    (s.stewardUp = true → s.barOpen f = false → exec (.readClearRead f off n) s = .next (s.send (.pcieCpl f 1 false []))) ∧
    (s.stewardUp = false → exec (.readClearRead f off n) s = .next s)

/-- Through the PF's BAR0, of a package whose step 0 has passed, 8 bytes written at TMEM.SCRUB store PERIOD_MIN; at MEM.ROOT of
a context its BASE and ENABLE; at STROKE.TIMING its three fields unless STROKE.CTRL.LOCK is set. A write of CTXR.CTRL with RESET
set, BOB.CFG, KNOT.CFG, NIB.CORE, QUILL.HART, TBOB.POOL or STROKE.CTRL with START performs what CONTEXT_RESET_REQUEST,
BOBBIN_ENABLE or BOBBIN_DISABLE, KNOT_ENABLE or KNOT_DISABLE, NIB_BIND, QUILL_HART_BIND, TBOB_POOL_WRITE or STROKE_START does
with those fields. -/
def Obligations.WrittenFieldsTakeEffect : Prop :=
  ∀ (s : State) (data : List Byte), s.barOpen 0 = true → s.start.passed.isSome = true → data.length = 8 →
  let w := BitVec.ofNat 64 (ofBytes data)
  let write := fun (r : Reg) => exec (.registerWrite 0 (BitVec.ofNat 26 r.addr) data) s
  (∀ t : TileId, ∃ u, write (.tmemScrub t) = .next u ∧ u.fld (.tmemScrub t) .PERIOD_MIN = bits w 15 0 ∧ u.mem = s.mem) ∧
  (∀ c : Ctx, ∃ u, write (.memRoot c) = .next u ∧ u.fld (.memRoot c) .BASE = bits w 39 13 ∧ u.flag (.memRoot c) .ENABLE = bitAt w 63) ∧
  (s.flag .strokeCtrl .LOCK = false → ∃ u, write .strokeTiming = .next u ∧ ∀ f ∈ Reg.fields .strokeTiming, f.acc = .LK →
    u.fld .strokeTiming f.name = bits w f.hi f.lo) ∧
  (s.flag .strokeCtrl .LOCK = true → ∃ u, write .strokeTiming = .next u ∧ u.reg .strokeTiming = s.reg .strokeTiming) ∧
  (∀ c : Ctx, bitAt w 31 = true → write (.ctxrCtrl c) = exec (.contextResetRequest c) s) ∧
  (∀ b : BobbinId, write (bobCfg b) = if bitAt w 63 then exec (.bobbinEnable b (bobFieldsOf w)) s else exec (.bobbinDisable b (bobFieldsOf w)) s) ∧
  (∀ k : KnotId, let f : KnotFields := { hmode := bitAt w 62, clear := bitAt w 61, owner := Fin.ofNat 16 (bits w 59 56) }
    write (knotCfg k) = if bitAt w 63 then exec (.knotEnable k f) s else exec (.knotDisable k f) s) ∧
  (∀ n : CoreId, write (coreReg n) = exec (.nibBind n (bitAt w 63) (Fin.ofNat 16 (bits w 59 56))) s) ∧
  (∀ h : HartId, write (hartReg h) = exec (.quillHartBind h (bitAt w 63)
    { bound := bitAt w 62, ctx := Fin.ofNat 16 (bits w 59 56), resetPc := BitVec.ofNat 48 (bits w 47 0) }) s) ∧
  (∀ t : TileId, write (.tbobPool t) = exec (.tbobPoolWrite t (BitVec.ofNat 17 (bits w 48 32)) (BitVec.ofNat 17 (bits w 16 0))) s) ∧
  (bitAt w 1 = true → bitAt w 2 = false → bitAt w 3 = false → write .strokeCtrl = exec .strokeStart s)

/-- Memory's list is canonical when addresses rise strictly and no entry is what an unlisted byte reads as (0: the model's
choice, log entry 1). Storing cells of distinct addresses keeps it canonical, makes each address read its byte and leaves every
other address as it was; a number stored as n bytes reads back modulo 2^(8n), lowest byte first. At reset memory lists nothing,
so it is canonical and every byte reads 0. -/
def Obligations.MemoryKeepsItsCanonicalForm : Prop :=
  (∀ (s : State) (cs : List Host.Cell), smWf memDefault s.mem = true →
    smWf memDefault (s.putCells cs).mem = true) ∧
  (∀ (s : State) (cs : List Host.Cell), (cs.map Prod.fst).Nodup →
    (∀ x ∈ cs, (s.putCells cs).byteAt x.1 = x.2) ∧ ∀ a, a ∉ cs.map Prod.fst → (s.putCells cs).byteAt a = s.byteAt a) ∧
  (∀ (s : State) (pa n v : Nat), (s.putCells (cellsFrom pa (toBytes n v))).wordAt pa n = v % 2 ^ (8 * n)) ∧
  smWf memDefault State.reset.mem = true ∧ ∀ a, State.reset.byteAt a = 0

/-- A read of n bytes at their home of lines that are not poisoned, or that a Quill die owns and supplies, and in Well without a
word in error that it reads, returns the bytes memory holds and leaves memory; of a poisoned line no die owns it returns none,
as UNCORR_MEM. A write within one DRAM line outside every locked ring: of all 64 bytes, or of fewer to a line that is not
poisoned or that a die holds modified, it succeeds, stores exactly its bytes, takes the line out of every Quill cache and ends
every hart's reservation of it; a whole line is not poisoned afterwards and its zero-map bit is 1 exactly when the page has
MCOMP and all 64 bytes are 0; a partial one clears the bit. A partial write to a poisoned line that no die holds modified fails,
stores nothing and is logged. -/
def Obligations.HomeAccesses : Prop :=
  (∀ (s : State) (c : Option Nat) (pa n : Nat),
    ((∀ l ∈ linesOf pa n, isDram (l * 64) = true → s.lineBad l = false) →
      (∀ w ∈ wordsOf pa n, isDram (w * 8) = false → s.badWord w = false) →
      ∃ t, s.homeRead c pa n = (t, some (s.bytesAt pa n)) ∧ t.mem = s.mem ∧ t.nib = s.nib) ∧
    (∀ l, pa / 64 = l → 0 < n → (pa + n - 1) / 64 = l → isDram (l * 64) = true → s.lineBad l = true →
      ∃ t, s.homeRead c pa n = (t, none) ∧ t.mem = s.mem)) ∧
  ∀ (s : State) (c : Option Nat) (mcomp : Bool) (pa : Nat) (bs : List Byte), bs ≠ [] → isDram pa = true →
    (pa + bs.length - 1) / 64 = pa / 64 → s.ringAt pa = none →
    let line := pa / 64
    let held := ∃ e ∈ s.dir, e.line = line ∧ e.dirty = true
    ((bs.length = 64 ∨ s.poisoned line = false ∨ held) → ∃ t, s.homeWrite c mcomp (cellsFrom pa bs) = (t, true) ∧
      t.bytesAt pa bs.length = bs ∧ (∀ a, (a < pa ∨ pa + bs.length ≤ a) → t.byteAt a = s.byteAt a) ∧
      (∀ e ∈ t.dir, e.line ≠ line) ∧ t.poisoned line = false ∧
      (smWf (fun _ => Hart.off) s.hart = true → ∀ h, (t.hartOf h).resv ≠ some line) ∧
      t.zeroMapped line = (decide (bs.length = 64) && mcomp && bs.all (· = 0))) ∧
    (bs.length ≠ 64 → s.poisoned line = true → ¬ held → ∃ t, s.homeWrite c mcomp (cellsFrom pa bs) = (t, false) ∧ t.mem = s.mem ∧
      t.flag (.tmemUeLog (tileOfPa pa)) .VALID = true)

/-- For a context whose tables are enabled, with their root and every table in DRAM and no line read poisoned: an address below
2^48 whose level-1 entry names a table, whose level-2 entry is a valid 32 MiB leaf in DRAM that permits the access, translates
to the leaf's address plus the offset; likewise through a level-2 entry that names a table, to a valid 64 KiB leaf, in tile
memory or marked HOST. Without ENABLE the cause is 6, above 2^48 it is 7; an invalid level-1 entry gives 1; a 64 KiB leaf
without the permission gives 2. A failed translation writes MEM.FAULT with the context, SOURCE, TILE, CAUSE and address and
changes nothing else; one that succeeds changes nothing. -/
def Obligations.PageWalk : Prop :=
  ∀ (c : Ctx) (s : State) (va : Nat) (needW needX : Bool),
  let root := s.fld (.memRoot c) .BASE * 0x2000
  let entry := fun (a : Nat) => BitVec.ofNat 64 (s.wordAt a 8)
  let a1 := root + 8 * (va / 2 ^ 38 % 2 ^ 10)
  let e1 := entry a1
  let table := fun (e : W64) (align : Nat) => bitAt e 0 = true ∧ bitAt e 1 = false ∧ bitAt e 4 = false ∧ bits e 63 56 = 0 ∧ bits e 11 7 = 0 ∧
    pteAddr e % align = 0 ∧ pteAddr e < wellBase
  let a2 := pteAddr e1 + 8 * (va / 2 ^ 25 % 2 ^ 13)
  let e2 := entry a2
  let a3 := pteAddr e2 + 8 * (va / 2 ^ 16 % 2 ^ 9)
  let e3 := entry a3
  let permits := fun (e : W64) => (needW = true → bitAt e 2 = true) ∧ (needX = true → bitAt e 3 = true)
  let walk := s.walk c va needW needX
  (s.flag (.memRoot c) .ENABLE = false → walk = .fail 6) ∧
  (s.flag (.memRoot c) .ENABLE = true → 2 ^ 48 ≤ va → walk = .fail 7) ∧
  (s.flag (.memRoot c) .ENABLE = true → va < 2 ^ 48 → root < wellBase → s.poisoned (a1 / 64) = false →
    (bitAt e1 0 = false → walk = .fail 1) ∧
    (table e1 0x10000 → s.poisoned (a2 / 64) = false →
      (bitAt e2 0 = true → bitAt e2 1 = true → bits e2 63 56 = 0 → bits e2 11 7 = 0 → bitAt e2 4 = false → pteAddr e2 % 0x2000000 = 0 →
        pteAddr e2 < wellBase → permits e2 → walk = .ok (pteAddr e2 + va % 0x2000000) (bitAt e2 5) (bitAt e2 6)) ∧
      (table e2 0x1000 → s.poisoned (a3 / 64) = false → bitAt e3 0 = true → bitAt e3 1 = true → bits e3 63 56 = 0 → bits e3 11 7 = 0 →
        (bitAt e3 4 = false → pteAddr e3 % 0x10000 = 0 → isMapped (pteAddr e3) = true →
          (permits e3 → walk = .ok (pteAddr e3 + va % 0x10000) (bitAt e3 5) (bitAt e3 6)) ∧ (¬ permits e3 → walk = .fail 2)) ∧
        (bitAt e3 4 = true → permits e3 → walk = .host (pteAddr e3 + va % 0x10000))))) ∧
  ∀ src tile, src < 8 → tile < 32 → va < 2 ^ 64 →
    (∀ pa m q, walk = .ok pa m q → s.translate c src tile va needW needX = (s, walk)) ∧
    (∀ k, walk = .fail k → ∃ t, s.translate c src tile va needW needX = (t, walk) ∧ { t with regs := s.regs } = s ∧
      t.fld .memFault .CTX = c ∧ t.fld .memFault .SOURCE = src ∧ t.fld .memFault .TILE = tile ∧ t.fld .memFault .CAUSE = k)

/-- DRAM_READ of a line that a Quill die owns replies OK with its 64 bytes, whatever the home's symbols say. Of any other line
that is not poisoned, clean or corrected, it replies the same; corrected adds one to CE_COUNT. Uncorrectable, it poisons and
logs the line, lists its row and replies UNCORR_MEM, and a running core that reads takes UNCORR_MEM. DRAM_FULL_LINE_WRITE stores
its 64 bytes and replies OK. DRAM_PARTIAL_WRITE stores its bytes in a clean line and replies OK; on a poisoned one that no die
holds modified it stores nothing and replies UNCORR_MEM. WELL_ACCESS of a mapped word: a clean read replies with its 8 bytes; an
uncorrectable one replies UNCORR_MEM and lists the bank; beyond 24 MiB it replies ACCESS. SCRUB_LINE with a period of 0 changes
nothing; else the position moves to the next line, wrapping, and an uncorrectable DRAM line is poisoned, an uncorrectable Well
line logged. SCRUB_PERIOD_WRITE stores the period. -/
def Obligations.LineAccessesAndScrub : Prop :=
  (∀ (a : MemAgent) (line : BitVec 32) (s : State), s.ownedLine line.toNat = true → ∀ err, ∃ t, exec (.dramRead a line err) s = .next t ∧
    t.outbox = s.outbox ++ [.memReply (line.toNat * 64) 0 (s.bytesAt (line.toNat * 64) 64)] ∧ t.mem = s.mem ∧ t.ownedLine line.toNat = false) ∧
  (∀ (a : MemAgent) (line : BitVec 32) (s : State), s.poisoned line.toNat = false → s.ownedLine line.toNat = false →
    let l := line.toNat
    (isDram (l * 64) = true → ∀ err, err = .clean ∨ err = .corrected → ∃ t, exec (.dramRead a line err) s = .next t ∧
      t.outbox = s.outbox ++ [.memReply (l * 64) 0 (s.bytesAt (l * 64) 64)] ∧ t.mem = s.mem ∧
      t.fld (.tmemCeCount (tileOfPa (l * 64))) .COUNT =
        (s.fld (.tmemCeCount (tileOfPa (l * 64))) .COUNT + if err = .corrected then 1 else 0) % 2 ^ 64) ∧
    (isDram (l * 64) = true → (∃ c, a = .aperture c) → ∃ t, exec (.dramRead a line .uncorrectable) s = .next t ∧ t.mem = s.mem ∧
      t.outbox = s.outbox ++ [.memReply (l * 64) 0x12 []] ∧ t.poisoned l = true ∧ t.flag (.tmemUeLog (tileOfPa (l * 64))) .VALID = true ∧
      (s.perm.defects.length < 4096 → ∃ d ∈ t.perm.defects, (defectKey d).1 = 4 ∧ bits d 39 35 = tileOfPa (l * 64))) ∧
    (isDram (l * 64) = true → ∀ n, a = .nib n → (s.core n).st = .running → (s.core n).stores = [] → (s.core n).evec = 0 →
      s.flag (.ctxwNibExc (s.ctxOf n)) .VALID = false → ∃ t, exec (.dramRead a line .uncorrectable) s = .next t ∧
        t.fld (.ctxwNibExc (s.ctxOf n)) .CAUSE = 0x07)) ∧
  (∀ (a : MemAgent) (line : BitVec 32) (mcomp : Bool) (data : W512) (s : State), isDram (line.toNat * 64) = true →
    ∃ t, exec (.dramFullLineWrite a line mcomp data .clean) s = .next t ∧ t.poisoned line.toNat = false ∧
      t.bytesAt (line.toNat * 64) 64 = toBytes 64 data.toNat ∧ Output.memReply (line.toNat * 64) 0 [] ∈ t.outbox) ∧
  (∀ (a : MemAgent) (line : BitVec 32) (off : Fin 64) (data : List Byte) (s : State), data ≠ [] → off.val + data.length ≤ 64 → data.length ≠ 64 →
    let pa := line.toNat * 64 + off.val
    (s.poisoned line.toNat = false → ∃ t, exec (.dramPartialWrite a line off data .clean) s = .next t ∧ t.bytesAt pa data.length = data ∧
      (∀ b, (b < pa ∨ pa + data.length ≤ b) → t.byteAt b = s.byteAt b) ∧ Output.memReply (line.toNat * 64) 0 [] ∈ t.outbox) ∧
    (s.poisoned line.toNat = true → (∀ e ∈ s.dir, e.line = line.toNat → e.dirty = false) → (∃ c, a = .aperture c) →
      ∃ t, exec (.dramPartialWrite a line off data .clean) s = .next t ∧ t.mem = s.mem ∧
      Output.memReply (line.toNat * 64) 0x12 [] ∈ t.outbox)) ∧
  (∀ (a : MemAgent) (t : TileId) (word : BitVec 22) (s : State), let pa := wellPa t word.toNat
    (0x1800000 ≤ 8 * word.toNat → ∀ op err, exec (.wellAccess a t word op err) s = .next (s.send (.memReply pa 0x11 []))) ∧
    (8 * word.toNat < 0x1800000 →
      (s.badWord (pa / 8) = false → exec (.wellAccess a t word .read .clean) s = .next (s.send (.memReply pa 0 (s.bytesAt pa 8)))) ∧
      (∃ u, exec (.wellAccess a t word .read .uncorrectable) s = .next u ∧ Output.memReply pa 0x12 [] ∈ u.outbox ∧
        (s.perm.defects.length < 4096 → s.physOf 3 t (wellBank pa) < 64 → ∃ d ∈ u.perm.defects, (defectKey d).1 = 3 ∧ bits d 39 35 = t)) ∧
      ∀ (off : Fin 8) (data : List Byte), data ≠ [] → off.val + data.length ≤ 8 → s.badWord (pa / 8) = false → s.ringAt (pa + off) = none →
        ∃ u, exec (.wellAccess a t word (.write off data) .clean) s = .next u ∧ u.bytesAt (pa + off) data.length = data ∧
          ∀ b, (b < pa + off.val ∨ pa + off.val + data.length ≤ b) → u.byteAt b = s.byteAt b)) ∧
  (∀ (t : TileId) (err : LineError) (word : Fin 8) (s : State),
    (s.fld (.tmemScrub t) .PERIOD_MIN = 0 → exec (.scrubLine t err word) s = .next s) ∧
    (s.fld (.tmemScrub t) .PERIOD_MIN ≠ 0 → ∃ u, exec (.scrubLine t err word) s = .next u ∧ u.scrubAt t = (s.scrubAt t + 1) % (2 ^ 27 + 393216) ∧
      u.mem = s.mem ∧ (s.scrubAt t < 2 ^ 27 → err = .uncorrectable → u.poisoned (t.val * 2 ^ 27 + s.scrubAt t) = true) ∧
      (2 ^ 27 ≤ s.scrubAt t → s.scrubAt t < 2 ^ 27 + 393216 → err = .uncorrectable → u.flag (.tmemUeLog t) .VALID = true))) ∧
  ∀ (t : TileId) (p : W16) (s : State), ∃ u, exec (.scrubPeriodWrite t p) s = .next u ∧ u.fld (.tmemScrub t) .PERIOD_MIN = p.toNat ∧
    u.scrub = s.scrub

/-- INVALIDATE with BUSY clear sets BUSY; with BUSY set it sets DROPPED. INVALIDATION_DONE of one under way clears BUSY with
every store that the cores of its context had buffered drained, but changes nothing while a read of the context to the host is
outstanding. HOST_PAGE_ACCESS of an agent of a context that can issue requests, at an address that walks to a HOST leaf: a load
sends a PCIe read of the VF with a new tag and waits for it; a store sends a PCIe write of its bytes; an atomic or a fetch of a
hart traps as a store or an instruction access fault. HOST_READ_COMPLETION with data of the length asked ends the read: an
access is answered with the data, a core's scalar load takes it, sign- or zero-extended, and goes on; with UR or CA a core with
a handler takes ACCESS_LOAD in it, and poisoned a core stops with UNCORR_MEM in NIB_EXC. COMPLETION_TIMEOUT ends it as UR does
and logs the function's timeout. Of a tag not outstanding both change nothing. FABRIC_FLIT_REPLAY counts replays in a row and
raises PF vector 12; the 16th declares package failure with cause 2, where none stood. -/
def Obligations.InvalidationHostAndFabric : Prop :=
  (∀ (all : Bool) (pages : BitVec 10) (c : Ctx) (va : W32) (s : State),
    (s.flag .memInvalStat .BUSY = false → ∃ t, exec (.invalidate all pages c va) s = .next t ∧ t.flag .memInvalStat .BUSY = true ∧ t.inval = some c.val) ∧
    (s.flag .memInvalStat .BUSY = true → ∃ t, exec (.invalidate all pages c va) s = .next t ∧ t.flag .memInvalStat .DROPPED = true ∧ t.inval = s.inval)) ∧
  (∀ s : State, (s.inval = none → exec .invalidationDone s = .next s) ∧
    ∀ c, s.inval = some c → ((∃ r ∈ s.hostReads, r.ctx = c) → exec .invalidationDone s = .next s) ∧
      ((∀ r ∈ s.hostReads, r.ctx ≠ c) → ∃ t, exec .invalidationDone s = .next t ∧ t.flag .memInvalStat .BUSY = false ∧ t.inval = none ∧
        ∀ n < 256, s.coreCtx n = some c → (t.core n).stores = [])) ∧
  (∀ (a : MemAgent) (va : W64) (s : State) (c bus : Nat), s.agentCtx a = some c → s.canIssue c = true →
    (∀ len, s.walk c va.toNat false false = .host bus → ∃ t, exec (.hostPageAccess a va (.load len)) s = .next t ∧
      t.outbox = s.outbox ++ [.pcieRead (c + 1) s.nextTag bus len] ∧ t.nextTag = s.nextTag + 1 ∧
      t.hostReads = s.hostReads ++ [{ tag := s.nextTag, ctx := c, reader := .access, va := va.toNat, bus := bus, len := len }]) ∧
    (∀ data, s.walk c va.toNat true false = .host bus → ∃ t ro, exec (.hostPageAccess a va (.store data)) s = .next t ∧
      t.outbox = s.outbox ++ [.pcieWrite (c + 1) bus data ro] ∧ t.mem = s.mem) ∧
    (∀ h, a = .hart h →
      (s.walk c va.toNat true false = .host bus →
        exec (.hostPageAccess a va .atomic) s = .next (s.setHart h ((s.hartOf h).trap (.exc 7 va)))) ∧
      (s.walk c va.toNat false true = .host bus →
        exec (.hostPageAccess a va .fetch) s = .next (s.setHart h ((s.hartOf h).trap (.exc 1 va)))))) ∧
  (∀ (tag : W32) (st : ReadStatus) (data : List Byte) (s : State),
    (s.hostReads.find? (fun r => r.tag = tag.toNat) = none →
      exec (.hostReadCompletion tag st data) s = .next s ∧ exec (.completionTimeout tag) s = .next s) ∧
    ∀ r, s.hostReads.find? (fun r => r.tag = tag.toNat) = some r →
      (st = .sc → data.length ≠ r.len → exec (.hostReadCompletion tag st data) s = .next s) ∧
      (r.reader = .access → (st = .sc → data.length = r.len) → ∃ t, exec (.hostReadCompletion tag st data) s = .next t ∧
        t.outbox = s.outbox ++ [match st with
          | .sc => .memReply r.bus 0 data
          | .poisoned => .memReply r.bus 0x12 []
          | _ => .memReply r.bus 0x11 []] ∧ ∀ q ∈ t.hostReads, q.tag ≠ tag.toNat) ∧
      (r.reader = .access → ∃ t, exec (.completionTimeout tag) s = .next t ∧ Output.memReply r.bus 0x11 [] ∈ t.outbox ∧
        (t.fnOf (r.ctx + 1)).aerTimeout = true ∧ ∀ q ∈ t.hostReads, q.tag ≠ tag.toNat) ∧
      (∀ n rd size signed va len, r.reader = .nib n → (s.core n).wait = .hostLoad (.scalar rd size signed) va len [] 1 → st = .sc →
        data.length = r.len → r.va = va → r.len = size → va + size ≤ 2 ^ 64 → ∃ t, exec (.hostReadCompletion tag st data) s = .next t ∧
          t.core n = ({ s.core n with wait := .none }.setS rd (extendLoad size signed (ofBytes data))).advance) ∧
      (∀ n kind va len got left, r.reader = .nib n → (s.core n).wait = .hostLoad kind va len got left → (s.core n).stores = [] →
        ((st = .ur ∨ st = .ca) → (s.core n).st = .running → (s.core n).evec ≠ 0 → (s.core n).handler = false →
          ∃ t, exec (.hostReadCompletion tag st data) s = .next t ∧ t.core n = { s.core n with
            wait := .none, handler := true, epc := (s.core n).pc, ecause := 0x05, eaddr := BitVec.ofNat 48 va, pc := (s.core n).evec }) ∧
        (st = .poisoned → s.flag (.ctxwNibExc (s.ctxOf n)) .VALID = false →
          ∃ t, exec (.hostReadCompletion tag st data) s = .next t ∧ t.fld (.ctxwNibExc (s.ctxOf n)) .CAUSE = 0x07 ∧
            t.fld (.ctxwNibExc (s.ctxOf n)) .EPC = (s.core n).pc.toNat))) ∧
  ∀ (link : W16) (again : Bool) (s : State), let k := if again then smGet (fun _ => 0) s.replays link.toNat + 1 else 1
    let counted := { s with replays := smSet (fun _ => 0) s.replays link.toNat k }.pfEvent 12
    (k < 16 → exec (.fabricFlitReplay link again) s = .next counted) ∧
      (16 ≤ k → ∃ t, exec (.fabricFlitReplay link again) s = .next t ∧ t.failed = true ∧ t = counted.packageFailure 2 0 0 ∧
        (s.failed = false → t.fld .pkgFail .CAUSE = 2))

/-- IMAGE_ARM with ARM clear and no image being disarmed or given up sets ARM and BASE and begins validation, unless the package
has failed; while one is it sets ARM_REFUSED alone. IMAGE_VALIDATION_DONE arms what validation finds with STATUS PENDING and
STEP 0, or gives up with its status. IMAGE_DISARM clears ARM; an armed image is disarmed at the next boundary, one that
validates or failed is given up then (log 80), either at once while STOPPED. WORK_LIST_START of an entry of the current step of
a running image, at its START_NS or later, outside a slip stroke and the guard, first starts the Feed descriptors armed on
STROKE by then; after them, at a core or channel that serves the context it queues the start, 4 and 16 deep; a full queue faults
with START_OVERFLOW, a unit that does not serve it with START_UNIT. Before START_NS it changes nothing. MILESTONE_CHECK at its
deadline or later: at count below THRESHOLD it faults with MILESTONE (ACTION 1), or at the slip limit with SLIP_LIMIT, or votes
with cause 0; at THRESHOLD nothing changes. -/
def Obligations.ScheduleImages : Prop :=
  (∀ (c : Ctx) (base : W32) (s : State), let r := Reg.strokeImage c
    (((s.image c).phase = .disarming ∨ (s.image c).phase = .dropped) → ∃ t, exec (.imageArm c base) s = .next t ∧ t.flag .strokeStatus .ARM_REFUSED = true ∧
      t.image c = s.image c ∧ t.reg r = s.reg r) ∧
    ((s.image c).phase ≠ .disarming → (s.image c).phase ≠ .dropped → s.flag r .ARM = false → s.failed = false → ∃ t, exec (.imageArm c base) s = .next t ∧
      t.flag r .ARM = true ∧ t.fld r .BASE = base.toNat ∧ (t.image c).phase = .validating ∧ (t.image c).base = base.toNat * 0x10000) ∧
    (∃ t, exec (.imageDisarm c base) s = .next t ∧ t.flag r .ARM = false ∧
      (s.flag r .ARM = true →
        (s.strokeState ≠ 0 → t.image c = if (s.image c).phase = .armed then { s.image c with phase := .disarming }
          else { Image.empty with phase := .dropped }) ∧
        (s.strokeState = 0 → t.image c = Image.empty ∧ t.fld (.strokeImgStat c) .STATUS = 2)))) ∧
  (∀ (c : Ctx) (s : State),
    ((s.image c).phase ≠ .validating → exec (.imageValidationDone c) s = .next s) ∧
    ((s.image c).phase = .validating →
      (∀ img, s.validate c (s.image c).base = .ok img → ∃ t, exec (.imageValidationDone c) s = .next t ∧ t.image c = img ∧
        img.phase = .armed ∧ t.fld (.strokeImgStat c) .STATUS = 1 ∧ t.fld (.strokeImgStat c) .STEP = 0) ∧
      (∀ st, s.validate c (s.image c).base = .error st → ∃ t, exec (.imageValidationDone c) s = .next t ∧ t.image c = Image.empty ∧
        t.fld (.strokeImgStat c) .STATUS = st))) ∧
  (∀ (c : Ctx) (ix : EntryIx) (s : State) (e : WorkEntry), (s.image c).works[ix.toNat]? = some e →
    s.imageRuns c = true → s.stroke.slip = false → (e.step = 0xFFFFFFFF ∨ e.step = s.currentStep c) → s.inGuard = false →
    let n := 8 * e.tile + e.unit
    let i := 64 * e.tile + e.unit
    let u := s.strokesBefore e.startNs
    let v := { u with closed := breakClosed u.closed c }
    let k := u.core n
    let goes := exec (.workListStart c ix) s
    (s.phaseNs < e.startNs → goes = .next s) ∧
    (e.startNs ≤ s.phaseNs →
      (v.targetServes c e = true → e.isFeed = false →
        (k.imageQ.length < 4 → ∃ t, goes = .next t ∧ t.core n = { k with imageQ := k.imageQ ++ [{ entry := e.addr, arg := e.arg }] }) ∧
        (4 ≤ k.imageQ.length → goes = .next (v.contextFault c 0x06 0 (n / 8) (n % 8) ix.toNat))) ∧
      (v.targetServes c e = true → e.isFeed = true → (u.feedCh i).queue.length < 16 →
        ∃ t w, goes = .next t ∧ t.feedCh i = { u.feedCh i with queue := (u.feedCh i).queue ++ [w] } ∧
          w.ctx = c ∧ w.desc = e.addr ∧ w.crec = false ∧ w.knot = none ∧ w.held = false ∧ w.delayed = false ∧ w.image = true) ∧
      (v.targetServes c e = true → e.isFeed = true → 16 ≤ (u.feedCh i).queue.length →
        ∃ tile, goes = .next (v.contextFault c 0x06 1 tile (i % 64) ix.toNat) ∧ (i < 2048 → tile = i / 64)) ∧
      (v.targetServes c e = false →
        goes = .next (v.contextFault c 0x13 (if e.isFeed then 1 else 0) (if e.tile = 32 then 0xFF else e.tile) e.unit ix.toNat)))) ∧
  ∀ (c : Ctx) (ix : EntryIx) (s : State) (m : MileEntry), (s.image c).miles[ix.toNat]? = some m → s.imageRuns c = true →
    (m.step = 0xFFFFFFFF ∨ m.step = s.currentStep c) → m.deadlineNs ≤ s.phaseNs →
    (m.threshold ≤ s.knotCount m.knot → exec (.milestoneCheck c ix) s = .next s) ∧
    (s.knotCount m.knot < m.threshold →
      (m.action = 1 → exec (.milestoneCheck c ix) s = .next (s.contextFault c 0x07 0xFF 0xFF 0xFFFF m.knot)) ∧
      (m.action ≠ 1 → s.slipLimit ≤ s.consecOf c → exec (.milestoneCheck c ix) s = .next (s.contextFault c 0x08 0xFF 0xFF 0xFFFF s.slipLimit)) ∧
      (m.action ≠ 1 → s.consecOf c < s.slipLimit → ∃ t, exec (.milestoneCheck c ix) s = .next t ∧ c.val ∈ t.stroke.voted ∧
        t.stroke.vote = some (s.stroke.vote.getD { x := s.myX, y := s.myY, ctx := c, cause := 0 })))

/-- STROKE_BOUNDARY, at the end of the period of a stroke that runs (or joins with its clock set): COUNT is one more modulo 2^64
and PHASE 0; SLIPS is one more exactly if the old stroke took a vote; unless a STOP takes effect the new stroke is a slip stroke
exactly then, and has no vote and no context that voted; where one does, the stroke is STOPPED and unlocked. Before the end of
the period, or STOPPED, it changes nothing. Consecutive votes count on for the contexts that voted and are 0 for the others. At
the boundary an armed image PENDING whose START_COUNT has come is OK, and an armed image that is OK has STEP 0 at its first work
boundary and one more at each later one, while a slip boundary leaves STEP. BOUNDARY_WINDOW_CLOSE of a stroke that runs: in a
work stroke every work and post held during the guard is released; the OFFSET and DELAY of a port that delivered its boundary
frame are the means over its links' exchanges, and of one that did not OFFSET is not VALID; the slew is half the mean of the
valid offsets, over 1600 ticks, with a rate trim within 20 ppm (its value is free, log 83), but at the anchor and in HOLDOVER
there is no slew and the trim stays. STOPPED it changes nothing. -/
def Obligations.StrokeBoundaryAndWindow : Prop :=
  (∀ (t1 : W64) (gone : List (PortId × Ctx)) (s : State), let due := s.strokeCounts = true ∧ s.reached (s.periodUs * 1000) = true
    (¬ due → exec (.strokeBoundary t1 gone) s = .next s) ∧
    (due → ∃ t, exec (.strokeBoundary t1 gone) s = .next t ∧ t.count = (s.count + 1) % 2 ^ 64 ∧ t.phase = 0 ∧
      t.fld .strokeSlips .SLIPS = (s.fld .strokeSlips .SLIPS + if s.stroke.vote.isSome then 1 else 0) % 2 ^ 64 ∧
      (s.stroke.stopping = false → t.stroke.slip = s.stroke.vote.isSome ∧ t.stroke.vote = none ∧ t.stroke.voted = []) ∧
      (s.stroke.stopping = true → t.strokeState = 0 ∧ t.flag .strokeCtrl .LOCK = false ∧ t.flag .startStat .READY = false))) ∧
  (∀ s : State, ∀ c < 16, s.turnStroke.consecOf c = if c ∈ s.stroke.voted then s.consecOf c + 1 else 0) ∧
  (∀ (s : State) (work : Bool) (c : Ctx), let t := s.imageBoundary work c
    let st := s.fld (.strokeImgStat c) .STATUS
    let ok := st = 0 ∨ (st = 1 ∧ (s.image c).startCount ≤ s.count)
    let step := s.fld (.strokeImgStat c) .STEP
    ((s.image c).phase ≠ .armed → t = s) ∧
    ((s.image c).phase = .armed → t.fld (.strokeImgStat c) .STATUS = (if ok then 0 else st) ∧
      t.fld (.strokeImgStat c) .STEP = (if work = true ∧ ok then (if (s.image c).begun then (step + 1) % 2 ^ 32 else 0) else step) ∧
      (t.image c).begun = ((s.image c).begun || (work && decide ok)))) ∧
  (∀ s : State, s.strokeCounts = false → exec .boundaryWindowClose s = .next s) ∧
  ∀ s : State, s.strokeCounts = true →
    let u := (List.range 16).foldl State.portOffset s
    let slews := u.validOffsets ≠ [] ∧ u.flag .strokeAnchor .SELF = false ∧ u.strokeState ≠ 3
    ∃ t, exec .boundaryWindowClose s = .next t ∧
      t.stroke.slew = (if slews then (meanOf u.validOffsets).tdiv 2 else 0) ∧ t.stroke.slewTicks = (if slews then 1600 else 0) ∧
      (slews → t.stroke.trim.natAbs ≤ 20000) ∧ (¬ slews → t.stroke.trim = u.stroke.trim) ∧
      (u.strokeRuns = true → u.stroke.slip = false →
        (smWf (fun _ => NibCore.off) u.nib = true → ∀ n, ∀ p ∈ (t.core n).postQ, p.held = false) ∧
        (smWf (fun _ => FeedCh.idle) u.feed = true → ∀ n, ∀ w ∈ (t.feedCh n).queue, w.held = false) ∧
        (smWf (fun _ => TambArray.idle) u.tamb = true → ∀ n, ∀ w ∈ (t.tambOf n).queue, w.held = false)) ∧
      ∀ (p : Nat) (v : State), let ex := (v.portLinks p).filterMap fun l => (v.link l).sync
        p < 16 → ((v.live p = false ∨ (v.port p).heard = false ∨ ex = []) → v.portOffset p = v.setFlag (.strokeOffset p) .VALID false) ∧
          (v.live p = true → (v.port p).heard = true → ex ≠ [] → (meanOf (ex.map Prod.fst)).natAbs ≤ 5 * 256 → v.portOffset p = v.setFlds (.strokeOffset p) [(.VALID, 1), (.DELAY, (meanOf (ex.map Prod.snd) % 2 ^ 31).toNat),
            (.OFFSET, (meanOf (ex.map Prod.fst) % 2 ^ 32).toNat)])

/-- On link l, not relocking, of a LIVE port p, while the stroke runs. BOUNDARY_FRAME, after the commits and refusals it brings,
with RECORD_HASH, FW_VERSION, COUNT, TIMING and image entries equal: the port is framed with none missed, t2 is kept unless the
frame is late; with a difference the port is fenced with the lowest cause of 1 to 5 that applies (a count that differs while
joining ends the join with cause 11). STOPPED_FRAME with the same record and firmware marks the far end stopped, its offset not
VALID, and faults with LINK_DOWN every context with slots on the port; with another record it fences with cause 1, with another
firmware with cause 2. REPLY_FRAME sets the exchange: half of (t2 - t1) - (t4 - t3), less half of ASYM, and half of their sum.
BOUNDARY_FRAME_MISSED counts; the second in a row sends DOWN and puts the port down, cause 12. On a port that is not LIVE none
of these changes anything (BOUNDARY_FRAME on one not in training). -/
def Obligations.BoundaryFrames : Prop :=
  ∀ (l : LinkId) (p : Nat) (s : State), s.portOfLink l = some p → p < 16 →
  (s.live p = false →
    (∀ f t2 late, s.portIs p ≠ 2 → exec (.boundaryFrame l f t2 late) s = .next s) ∧ (∀ rd fw, exec (.stoppedFrame l rd fw) s = .next s) ∧
    (∀ t2 t3 t4, exec (.replyFrame l t2 t3 t4) s = .next s) ∧ exec (.boundaryFrameMissed (Fin.ofNat 16 p)) s = .next s) ∧
  (s.live p = true → s.strokeRuns = true →
    let k := s.port p
    ((s.link l).relock = none →
      (∀ f t2 late, let goes := exec (.boundaryFrame l f t2 late) s
        let u := f.buddies.foldl (fun s b => s.buddyEntry p b) s
        (f.record ≠ u.recordHash → goes = .next (u.fence p 1 [])) ∧
        (f.record = u.recordHash → f.fw ≠ u.fwVersion → goes = .next (u.fence p 2 [])) ∧
        (f.record = u.recordHash → f.fw = u.fwVersion → f.count.toNat ≠ u.count →
          (u.strokeState ≠ 1 → goes = .next (u.fence p 3 [])) ∧ (u.strokeState = 1 → goes = .next (u.joinFails 11))) ∧
        (f.record = u.recordHash → f.fw = u.fwVersion → f.count.toNat = u.count →
          (f.timing ≠ u.reg .strokeTiming → goes = .next (u.fence p 4 [])) ∧
          (f.timing = u.reg .strokeTiming →
            (f.images.map (fun e => (e.hash, e.step.toNat)) ≠ u.imageEntries p → goes = .next (u.fence p 5 (u.differing p f.images))) ∧
            (f.images.map (fun e => (e.hash, e.step.toNat)) = u.imageEntries p → ∃ t, goes = .next t ∧
              t.port p = { u.port p with framed := true, missed := 0, farStopped := false } ∧
              t.link l = (if late then u.link l else { u.link l with t2 := some t2 }) ∧ t.mem = u.mem)))) ∧
      (∀ rd fw, let s0 := s.setPort p { k with framed := true, missed := 0, farStopped := true }
        let s1 := (s0.setFlag (.strokeOffset p) .VALID false).setLink l { s.link l with t2 := none, sync := none }
        (rd ≠ s.recordHash → exec (.stoppedFrame l rd fw) s = .next (s0.fence p 1 [])) ∧
        (rd = s.recordHash → fw ≠ s.fwVersion → exec (.stoppedFrame l rd fw) s = .next (s0.fence p 2 [])) ∧
        (rd = s.recordHash → fw = s.fwVersion → exec (.stoppedFrame l rd fw) s =
          .next ((s.contextsOn p).foldl (fun s c => s.contextFault c 0x0C 0xFF 0xFF 0xFFFF p) s1))) ∧
      ∀ t2 t3 t4, let out := (t2 - (s.link l).t1).toInt
        let back := (t4 - t3).toInt
        let asym := (BitVec.ofNat 32 (s.fld (linkStateReg l) .ASYM)).toInt
        exec (.replyFrame l t2 t3 t4) s = .next (s.setLink l { s.link l with
          sync := some ((out - back).tdiv 2 - asym.tdiv 2, (out + back).tdiv 2) })) ∧
    (k.framed = true → exec (.boundaryFrameMissed (Fin.ofNat 16 p)) s = .next s) ∧
    (k.framed = false → k.missed = 0 → ∃ t, exec (.boundaryFrameMissed (Fin.ofNat 16 p)) s = .next t ∧
      t.fld (.portCount p) .MISSED_BOUNDARY = (s.fld (.portCount p) .MISSED_BOUNDARY + 1) % 2 ^ 16 ∧
      t.flag (.strokeOffset p) .VALID = false ∧ t.port p = { k with framed := true, missed := 1 }) ∧
    (k.framed = false → k.missed ≠ 0 → ∃ s0 : State, exec (.boundaryFrameMissed (Fin.ofNat 16 p)) s = .next ((s0.sendDown p 12).portDown p 12) ∧
      s0.mem = s.mem ∧ s0.images = s.images))

/-- STROKE_START while STOPPED: before step 7 has passed it sets ORDER_ERR; with TIMING outside R60 TIMING_ERR; otherwise
STROKE.CTRL.LOCK is set and FOUND_ARMED cleared, and, if FOUND_ARMED was set and no LIVE port faces a running neighbour, the
stroke runs with COUNT 0 and PHASE 0, else it is JOINING. While it is not STOPPED START changes nothing. STROKE_STOP of a
running stroke takes effect at the next boundary; of a joining one ends the join with cause 12. JOIN_TIMEOUT 64 strokes after
START ends a join with cause 10: STOPPED again, step 8 FAILED with that cause; otherwise it changes nothing. SLIP on a LIVE
port, of the present stroke: the first vote is kept and sent on every other live port; after P - 8 us LATE_VOTE is set. A vote
of another stroke, or on a port that carries no symbols, changes nothing. -/
def Obligations.StrokeStartsAndStops : Prop :=
  ∀ s : State,
  (s.strokeState ≠ 0 → exec .strokeStart s = .next s) ∧
  (s.strokeState = 0 → s.failed = false →
    (s.start.passed ≠ some 7 → ∃ t, exec .strokeStart s = .next t ∧ t.flag .startStat .ORDER_ERR = true ∧ t.strokeState = 0) ∧
    (s.start.passed = some 7 → s.timingBad = true → ∃ t, exec .strokeStart s = .next t ∧ t.flag .strokeStatus .TIMING_ERR = true ∧ t.strokeState = 0) ∧
    (s.start.passed = some 7 → s.timingBad = false →
      (s.flag .startStat .FOUND_ARMED = true → s.facesRunning = false → ∃ t, exec .strokeStart s = .next t ∧ t.strokeState = 2 ∧ t.count = 0 ∧
        t.phase = 0 ∧ t.flag .strokeCtrl .LOCK = true ∧ t.flag .startStat .FOUND_ARMED = false ∧ t.fld .startStat .STATE = 2) ∧
      ((s.flag .startStat .FOUND_ARMED = false ∨ s.facesRunning = true) → ∃ t, exec .strokeStart s = .next t ∧ t.strokeState = 1 ∧
        t.flag .strokeCtrl .LOCK = true ∧ t.flag .startStat .FOUND_ARMED = false ∧ t.fld .startStat .STATE = 1 ∧ t.fld .startStat .STEP = 8))) ∧
  (s.timingBad = false ↔ (64 ≤ s.periodUs ∧ s.periodUs ≤ 16384 ∧ 4 ≤ s.fld .strokeTiming .GUARD_US ∧
    s.fld .strokeTiming .GUARD_US < s.fld .strokeTiming .HORIZON_US ∧ 35 * s.diameter + 800 ≤ 100 * s.fld .strokeTiming .HORIZON_US ∧
    s.fld .strokeTiming .HORIZON_US + 2 ≤ s.periodUs)) ∧
  (let ends := fun (i : Instr) (cause : Nat) => (∃ t, exec i s = .next t ∧ t.strokeState = 0 ∧ t.fld .startStat .STATE = 3 ∧
      t.fld .startStat .CAUSE = cause ∧ t.fld .startStat .STEP = 8);
    (s.strokeRuns = true → exec .strokeStop s = .next { s with stroke := { s.stroke with stopping := true } }) ∧
    (s.strokeState = 1 → ends .strokeStop 12 ∧ (s.start.since + 6400 * s.periodUs ≤ s.time → ends .joinTimeout 10) ∧
      (s.time < s.start.since + 6400 * s.periodUs → exec .joinTimeout s = .next s)) ∧
    (s.strokeState = 0 → exec .strokeStop s = .next s) ∧ (s.strokeState ≠ 1 → exec .joinTimeout s = .next s)) ∧
  ∀ (p : PortId) (countLo : W16) (x y : Byte) (c : Ctx) (cause : BitVec 3),
    let goes := exec (.slip p countLo x y c cause) s
    let v : Vote := { x := x.toNat, y := y.toNat, ctx := c, cause := cause.toNat }
    ((s.live p = false ∨ s.canSymbol p = false ∨ s.strokeCounts = false ∨ countLo.toNat ≠ s.count % 2 ^ 16) → goes = .next s) ∧
    (s.live p = true → s.canSymbol p = true → s.strokeCounts = true → countLo.toNat = s.count % 2 ^ 16 → ∃ t, goes = .next t ∧
      t.stroke.vote = some (s.stroke.vote.getD v) ∧
      ((s.periodUs - 8) * 256000 < s.phase → t.flag .strokeStatus .LATE_VOTE = true) ∧
      (s.stroke.vote = none → ∀ q ∈ s.livePorts, q ≠ p.val → s.canSymbol q = true → Output.symbol q 0x01 (slipPayload s.count v) ∈ t.outbox))

/-- TAMBOUR_WORK_START of an IDLE array that has taken no work, of a live context, whose head work is not held: the work leaves
the queue, STATE is BUSY, one more work counts as started; with its descriptor read the work is current, else it waits for a
read of the host; a descriptor whose first refused field lies at byte o makes it end with ILLEGAL_DESC, DETAIL 0x30 + 256 o; one
that cannot be reached with ACCESS, DETAIL 5. A work that waited goes on likewise. Otherwise nothing changes. TAMBOUR_WORK_END:
a work that is to end with an error frees the array, writes no tile and ends with that status and DETAIL; one that waits for its
draws changes nothing; one whose tiles are all written frees the array, adds M N K to WORK_MACS and ends OK with RESULT the
count of R193 and the gated cycles above it, DELAYED if there were any; one that met an uncorrectable operand or write ends with
UNCORR_MEM. ARRAY_ALLOC of an IDLE array with an empty queue stores OWNED and CTX, else sets ALLOC_REFUSED. ARRAY_FAILURE makes
the logical array FAILED and idle, and faults the context of a work in progress with UNIT_FAILED, ARG 1; of a physical array no
logical one stands on, a spare that no more takes its place; of one that failed before it changes nothing. -/
def Obligations.TambourWorks : Prop :=
  ∀ (t : TileId) (a : ArrayId) (s : State),
  let i := 16 * t.val + a.val
  let k := s.tambOf i
  let r := Reg.tambArray t a
  let key := unitKey 4 t a
  (k.taken = none → ∀ w ws, k.queue = w :: ws →
    ((s.fld r .STATE ≠ 0 ∨ w.held = true ∨ s.ctxLive w.ctx = false) → exec (.tambourWorkStart t a) s = .next s) ∧
    (k.cur = none → s.fld r .STATE = 0 → w.held = false → s.ctxLive w.ctx = true →
      let s0 := (((s.setFld r .STATE 1).countStart 4 t a).setTamb i { k with queue := ws, rest := false }).setBuf key HostBuf.empty
      let goes := exec (.tambourWorkStart t a) s
      (∃ u, goes = .next u ∧ u.fld r .STATE = 1 ∧ u.startsOf 4 t a = s.startsOf 4 t a + 1 ∧ (u.tambOf i).queue = ws ∧
        (u.tambOf i).busy = some (w.ctx, s.count) ∧ ∀ v, (u.tambOf i).cur = some v → v.work = w ∧ v.stroke = s.count) ∧
      (∀ s1, s0.readDesc key w.ctx 4 t w.desc 64 64 = (s1, .waits) → ∃ u, goes = .next u ∧ (u.tambOf i).cur = none ∧ u.mem = s.mem) ∧
      (∀ s1, s0.readDesc key w.ctx 4 t w.desc 64 64 = (s1, .fails 0x11) →
        ∃ u v, goes = .next u ∧ (u.tambOf i).cur = some v ∧ v.err = some (0x11, 5)) ∧
      ∀ s1 bs, s0.readDesc key w.ctx 4 t w.desc 64 64 = (s1, .bytes bs) → ∃ u v, goes = .next u ∧ (u.tambOf i).cur = some v ∧
        v.d = tambDesc bs ∧ ∀ off, (tambDesc bs).firstBad (nbits (fieldAt bs 0 4) 31 20) (!s1.poolOpen w.ctx) = some off →
          v.err = some (0x10, 0x30 + off * 256))) ∧
  (k.taken = none → k.queue = [] → exec (.tambourWorkStart t a) s = .next s) ∧
  (∀ x, k.taken = some x →
    ((k.cur ≠ none ∨ s.ctxLive x.work.ctx = false) → exec (.tambourWorkStart t a) s = .next s) ∧
    (k.cur = none → s.ctxLive x.work.ctx = true → ∀ s1 bs, s.readDesc key x.work.ctx 4 t x.work.desc 64 64 = (s1, .bytes bs) →
      ∃ u v, exec (.tambourWorkStart t a) s = .next u ∧ (u.tambOf i).cur = some v ∧ (u.tambOf i).taken = none ∧ v.work = x.work ∧
        v.d = tambDesc bs)) ∧
  (∀ gated, k.cur = none → exec (.tambourWorkEnd t a gated) s = .next s) ∧
  (∀ gated u, k.cur = some u →
    let free := fun (v : State) => (v.setTamb i { v.tambOf i with cur := none, rest := decide ((v.tambOf i).queue ≠ []) }).setFld r .STATE 0
    (∀ st detail, u.err = some (st, detail) → exec (.tambourWorkEnd t a gated) s = .next ((free s).endEngineWork u.work 4 t a st 0 detail)) ∧
    (u.err = none → u.d.rm = 2 → u.draws = none → exec (.tambourWorkEnd t a gated) s = .next s) ∧
    (u.err = none → (u.d.rm = 2 → u.draws ≠ none) → ∀ s1 lost, s.tambTiles u (List.range u.d.tiles) = (s1, lost, true) →
      exec (.tambourWorkEnd t a 0) s =
        .next (((free s1).addFld (.tambWorkMacs t) .COUNT (u.d.m * u.d.n * u.d.k)).endEngineWork u.work 4 t a 0 (lost % 2 ^ 32) 0) ∧
      (gated ≠ 0 → exec (.tambourWorkEnd t a gated) s =
        .next (((((free s1).addFld (.pwrwCycles u.work.ctx) .CYCLES gated.toNat).vfEvent u.work.ctx 9).addFld (.tambWorkMacs t) .COUNT
          (u.d.m * u.d.n * u.d.k)).endEngineWork { u.work with delayed := true } 4 t a 0 (lost % 2 ^ 32 + gated.toNat * 2 ^ 32) 0))) ∧
    (u.err = none → (u.d.rm = 2 → u.draws ≠ none) → ∀ s1 lost, s.tambTiles u (List.range u.d.tiles) = (s1, lost, false) →
      ∃ (s2 : State) (detail : Nat), exec (.tambourWorkEnd t a 0) s = .next (s2.endEngineWork u.work 4 t a 0x12 0 detail) ∧ s2.mem = s1.mem ∧
        (s2.tambOf i).cur = none ∧ s2.fld r .STATE = 0)) ∧
  (∀ (owned : Bool) (ctx : Ctx), let changes := s.flag r .OWNED ≠ owned ∨ s.fld r .CTX ≠ ctx
    (¬ changes → exec (.arrayAlloc t a owned ctx) s = .next s) ∧
    (changes → s.fld r .STATE = 0 → k.queue = [] → ∃ u, exec (.arrayAlloc t a owned ctx) s = .next u ∧ u.flag r .OWNED = owned ∧ u.fld r .CTX = ctx) ∧
    (changes → (s.fld r .STATE ≠ 0 ∨ k.queue ≠ []) → ∃ u, exec (.arrayAlloc t a owned ctx) s = .next u ∧ u.reg r = s.reg r ∧
      u.flag (.tambStatus t) .ALLOC_REFUSED = true)) ∧
  ∀ (p : Fin 17) (check : TambCheck) (drained : List Nat),
    let goes := exec (.arrayFailure t p check drained) s
    let listed := fun (u : State) => s.perm.defects.length < 4096 →
      ∃ d ∈ u.perm.defects, defectKey d = defectKey (defectEntry 1 0 false s.perm.boots.toNat t p)
    (s.logicalArray t p = some a.val → s.fld r .STATE = 3 → goes = .next s) ∧
    (s.logicalArray t p = some a.val → s.fld r .STATE ≠ 3 →
      (k.ctx = none → ∃ u, goes = .next u ∧ u.fld r .STATE = 3 ∧ u.flag (.tambStatus t) .FAILED = true ∧ u.mem = s.mem ∧ listed u) ∧
      ∀ c, k.ctx = some c → ∃ s0 : State, goes = .next (s0.contextFault c 0x04 4 t a 1) ∧
        s0.fld r .STATE = 3 ∧ (s0.tambOf i).cur = none ∧ (s0.tambOf i).taken = none) ∧
    (s.logicalArray t p = none →
      let known := (t.val, p.val) ∈ s.deadSpares ∨ ∃ d ∈ s.perm.defects, defectKey d = defectKey (defectEntry 1 0 false 0 t p)
      (known → goes = .next s) ∧
      (¬ known → ∃ u, goes = .next u ∧ u.deadSpares = s.deadSpares ++ [(t.val, p.val)] ∧ u.flag (.tambStatus t) .FAILED = true ∧
        u.mem = s.mem ∧ u.tamb = s.tamb ∧ listed u))

/-- POOL_ENABLE of a disabled pool stores LEND, S31, S23 and POS, and enables it if LEND is not 0, no other enabled or disabling
pool lends one of its generators and none of them is in a link test; otherwise it sets CFG_ERR and stays disabled. On an enabled
pool a change of those fields sets CFG_ERR and changes none of them. POOL_DISABLE of an enabled pool makes it disabling.
POOL_DISABLED, with no request of the context left, ends a disabling pool's enabling; with one it changes nothing. POOL_GRANT
takes the oldest request: its run starts at POS of its context, with its seeds and the length asked, POS goes on by that length
modulo 2^64; a core that waits for draws goes on with the run behind those it holds, an array or channel takes it. With no
request it changes nothing. -/
def Obligations.RoundingPool : Prop :=
  (∀ (c : Ctx) (f : PoolFields) (s : State), let r := Reg.poolCtrl c
    (s.flag r .ENABLE = false → ∃ t, exec (.poolEnable c f) s = .next t ∧ t.fld r .LEND = f.lend.toNat ∧ t.fld (.poolSeed c) .S31 = f.s31.toNat ∧
      t.fld (.poolSeed c) .S23 = f.s23.toNat ∧ t.fld (.poolPos c) .POS = f.pos.toNat ∧
      let ok := f.lend ≠ 0 ∧ (∀ d < 16, d ≠ c.val → s.flag (.poolCtrl d) .ENABLE = true → f.lend.toNat &&& s.fld (.poolCtrl d) .LEND = 0) ∧
        ∀ l < 32, f.lend.getLsbD l = true → s.genTesting l = false
      (ok → t.flag r .ENABLE = true) ∧ (¬ ok → t.flag r .ENABLE = false ∧ t.flag .poolStatus .CFG_ERR = true)) ∧
    (s.flag r .ENABLE = true →
      ((s.fld r .LEND ≠ f.lend.toNat ∨ s.fld (.poolSeed c) .S31 ≠ f.s31.toNat ∨ s.fld (.poolSeed c) .S23 ≠ f.s23.toNat ∨
          s.fld (.poolPos c) .POS ≠ f.pos.toNat) → ∃ t, exec (.poolEnable c f) s = .next t ∧ t.reg r = s.reg r ∧ t.reg (.poolSeed c) = s.reg (.poolSeed c) ∧
        t.reg (.poolPos c) = s.reg (.poolPos c) ∧ t.flag .poolStatus .CFG_ERR = true) ∧
      ∃ t, exec (.poolDisable c) s = .next t ∧ t.flag r .DISABLING = true ∧ t.flag r .ENABLE = true) ∧
    (s.flag r .ENABLE = false → exec (.poolDisable c) s = .next s) ∧
    (s.flag r .DISABLING = true → (∀ q ∈ s.poolQ, q.ctx ≠ c.val) → ∃ t, exec (.poolDisabled c) s = .next t ∧ t.flag r .ENABLE = false ∧
      t.flag r .DISABLING = false) ∧
    ((s.flag r .DISABLING = false ∨ ∃ q ∈ s.poolQ, q.ctx = c.val) → exec (.poolDisabled c) s = .next s)) ∧
  ∀ s : State, (s.poolQ = [] → exec .poolGrant s = .next s) ∧
    ∀ q qs, s.poolQ = q :: qs →
      let run : DrawRun := { s31 := s.fld (.poolSeed q.ctx) .S31, s23 := s.fld (.poolSeed q.ctx) .S23, pos := s.fld (.poolPos q.ctx) .POS, left := q.count }
      ∃ t, exec .poolGrant s = .next t ∧ t.poolQ = qs ∧ t.fld (.poolPos q.ctx) .POS = (run.pos + q.count) % 2 ^ 64 ∧
        (∀ n, q.user = .nib n → (s.core n).wait = .pool → t.core n = { s.core n with wait := .none, draws := (s.core n).draws ++ [run] }) ∧
        (∀ j u, q.user = .tamb j → (s.tambOf j).cur = some u → (t.tambOf j).cur = some { u with draws := some run }) ∧
        ∀ j u, q.user = .feed j → (s.feedCh j).cur = some u → (t.feedCh j).cur = some { u with draws := some run }

/-- FEED_CHANNEL_ALLOC stores HMODE; with no work and an empty queue also OWNED and CTX, else a change of those sets
ALLOC_REFUSED. FEED_WORK_START of an idle channel whose head work is of a live context and not held takes it; its descriptor,
read and legal, is current: running at once with trigger NOW, or with a pending doorbell (one fewer then) or a knot at its
threshold; refused at byte o, it is to end with ILLEGAL_DESC and that byte in DETAIL; one that cannot be read, with ACCESS,
cause 6; of one on a HOST page an IO-die channel waits for the read, and the command then goes on with it. FEED_DOORBELL of a
channel of the context starts a descriptor armed on it, else counts up to 15, then sets OVERFLOW; of another channel, or during
the context's reset, it sets REFUSED. FEED_TIMER_TRIGGER starts a descriptor armed on TIMER once TARG ticks of 10 ns have passed
since it became current; FEED_STROKE_TRIGGER one armed on STROKE, no BUDDY, from TARG ns after the boundary of the first work
stroke begun since, in that stroke, outside the guard and a slip stroke. FEED_ESCALATION raises a running descriptor with ESC_T
not 0 once ESC_T ticks have passed since its start. BUDDY_NO_COMMIT ends an epoch whose second boundary came, STATE 8,
SLOT_MISSED, with the bytes sent counted. Before their times they change nothing. -/
def Obligations.FeedChannelsAndTriggers : Prop :=
  (∀ (t : FeedTile) (n : ChanId) (owned hmode : Bool) (ctx : Ctx) (s : State), feedExists t n = true →
    let r := Reg.feedCh t n
    let k := s.feedCh (64 * t.val + n.val)
    let goes := exec (.feedChannelAlloc t n owned hmode ctx) s
    (k.cur = none → k.queue = [] → ∃ u, goes = .next u ∧ u.flag r .OWNED = owned ∧ u.fld r .CTX = ctx ∧ u.flag r .HMODE = hmode) ∧
    ((k.cur ≠ none ∨ k.queue ≠ []) → (s.flag r .OWNED ≠ owned ∨ s.fld r .CTX ≠ ctx) → ∃ u, goes = .next u ∧ u.flag r .OWNED = s.flag r .OWNED ∧
      u.fld r .CTX = s.fld r .CTX ∧ u.flag r .HMODE = hmode ∧ u.flag (.feedStatus t) .ALLOC_REFUSED = true)) ∧
  (∀ (t : FeedTile) (n : ChanId) (s : State),
    let i := 64 * t.val + n.val
    let k := s.feedCh i
    let goes := exec (.feedWorkStart t n) s
    (∀ w ws, k.cur = none → k.queue = w :: ws →
      ((w.held = true ∨ s.ctxLive w.ctx = false) → goes = .next s) ∧
      (w.held = false → s.ctxLive w.ctx = true →
        let s0 := (s.setFeedCh i { k with queue := ws, started := k.started + 1 }).setBuf (feedKey i) HostBuf.empty
        (t.val = 32 ∨ ∀ bus, s.walk w.ctx w.desc.toNat false false ≠ .host bus) →
        (∀ s1, s0.readDesc (feedKey i) w.ctx (feedSource t) (feedFaultTile t) w.desc 64 64 = (s1, .waits) → ∃ v u, goes = .next v ∧
          (v.feedCh i).cur = some u ∧ u.work = w ∧ u.reading = some w.desc ∧ u.running = false) ∧
        (∀ s1, s0.readDesc (feedKey i) w.ctx (feedSource t) (feedFaultTile t) w.desc 64 64 = (s1, .fails 0x11) → ∃ v u, goes = .next v ∧
          (v.feedCh i).cur = some u ∧ u.work = w ∧ u.running = false ∧ u.err = some (0x11, feedDetail 0 6 3 0)) ∧
        ∀ (s1 : State) (b : List Byte), s0.readDesc (feedKey i) w.ctx (feedSource t) (feedFaultTile t) w.desc 64 64 = (s1, .bytes b) → s1.feedCh i = s0.feedCh i →
          let d := feedDesc b
          ∃ v u, goes = .next v ∧ v.feedCh i = { k with queue := ws, started := k.started + 1, cur := some u,
                                                        doorbells := k.doorbells - (if u.running = true ∧ u.d.trig = 1 then 1 else 0) } ∧
            u.work = w ∧ u.index = 0 ∧ u.d = d ∧ u.moved = false ∧
            (∀ off, s1.feedFirstBad w.ctx t b = some off → u.running = false ∧ u.err = some (0x10, feedDetail 0 3 3 off)) ∧
            (s1.feedFirstBad w.ctx t b = none → (d.kind ≠ 2 ∨ (s1.epochOf w.ctx).active = false) → u.err = none ∧
              u.running = (d.trig = 0 || (d.trig = 1 && k.doorbells ≠ 0) || (d.trig = 5 && s1.knotHigh d.targ))))) ∧
    ∀ u va, k.cur = some u → u.reading = some va → s.ctxLive u.work.ctx = true →
      (t.val = 32 ∨ ∀ bus, s.walk u.work.ctx va.toNat false false ≠ .host bus) →
      ∀ s1 b, s.readDesc (feedKey i) u.work.ctx (feedSource t) (feedFaultTile t) va 64 64 = (s1, .bytes b) →
        goes = .next ((s1.setBuf (feedKey i) HostBuf.empty).feedTake i u b)) ∧
  (∀ (c : Ctx) (chan : ChanId) (io : Bool) (tile : TileId) (s : State),
    let t := if io then 32 else tile.val
    let i := 64 * t + chan.val
    let k := s.feedCh i
    let goes := exec (.feedDoorbell c chan io tile) s
    let mine := feedExists t chan = true ∧ (io = true → tile.val = 0) ∧ s.flag (.feedCh t chan) .OWNED = true ∧ s.fld (.feedCh t chan) .CTX = c ∧
      s.ctxLive c = true
    (¬ mine → ∃ v, goes = .next v ∧ v.flag (.feedwDbStat c) .REFUSED = true ∧ v.feed = s.feed) ∧
    (mine → (∀ u, k.cur = some u → u.running = false → u.err = none → u.reading = none → u.d.trig = 1 → u.work.ctx = c →
        ∃ v, goes = .next v ∧ (v.feedCh i) = { k with cur := some { u with running := true, since := s.time } }) ∧
      (k.cur = none → k.doorbells < 15 → ∃ v, goes = .next v ∧ v.feedCh i = { k with doorbells := k.doorbells + 1 }) ∧
      (k.cur = none → 15 ≤ k.doorbells → ∃ v, goes = .next v ∧ v.flag (.feedwDbStat c) .OVERFLOW = true ∧ v.feed = s.feed))) ∧
  (∀ (t : FeedTile) (n : ChanId) (s : State) (u : FeedCur),
    let i := 64 * t.val + n.val
    let k := s.feedCh i
    let runs := fun (c : Instr) => ∃ v, exec c s = .next v ∧ v.feedCh i = { k with cur := some { u with running := true, since := s.time } }
    k.cur = some u →
    (u.running = false → u.err = none → u.reading = none → s.ctxLive u.work.ctx = true →
      let timed := u.d.trig = 2 ∧ u.since + u.d.targ ≤ s.time
      let struck := u.d.trig = 4 ∧ u.strokeAt = some s.count ∧ u.d.targ ≤ s.phaseNs ∧ s.inGuard = false ∧ s.stroke.slip = false
      (timed → runs (.feedTimerTrigger t n)) ∧ (¬ timed → exec (.feedTimerTrigger t n) s = .next s) ∧
      (struck → u.d.kind ≠ 2 → runs (.feedStrokeTrigger t n)) ∧ (¬ struck → exec (.feedStrokeTrigger t n) s = .next s)) ∧
    (u.running = true → exec (.feedTimerTrigger t n) s = .next s ∧
      (u.d.escT ≠ 0 → u.since + u.d.escT ≤ s.time →
        ∃ v, exec (.feedEscalation t n) s = .next v ∧ v.feedCh i = { k with cur := some { u with escalated := true } }) ∧
      ((u.d.escT = 0 ∨ s.time < u.since + u.d.escT) → exec (.feedEscalation t n) s = .next s))) ∧
  ∀ (c : Ctx) (s : State), let e := s.epochOf c
    (e.active = true → e.sent = e.total → 2 ≤ e.after → ∃ v, exec (.buddyNoCommit c) s = .next v ∧ (v.epochOf c).active = false ∧
      v.fld (.feedwBuddy c) .STATE = 8 ∧ ∀ u, (s.feedCh e.ch).cur = some u →
        ∃ d, (v.feedCh e.ch).cur = some { u with err := some (0x18, d), written := u.written + e.sent }) ∧
    ((e.active = false ∨ e.sent ≠ e.total ∨ e.after < 2) → exec (.buddyNoCommit c) s = .next s)

/-- FEED_COPY grants one beat of a path: after channels whose next beat cannot be reached are to end with their errors, of the
ready channels it takes one of the highest priority, the first at or after the one behind the last grant of that priority, else
the first; every ready channel of a lower priority counts a beat lost. With none ready nothing is granted. A granted channel
that can drain writes its staged beat, one FEED.BEATS more, its written bytes and place going on, and has moved after the last
row; a staged beat that reads uncorrectable is not written, sets STAGE_UE and is to end the work with UNCORR_MEM. Another fills:
the beat read from memory goes behind its staged beats. FEED_POOL_FILL of a running POOL_FILL asks the pool for its draws once,
and with them granted stages two bytes a draw. FEED_STROKE_TRIGGER and FEED_BUDDY of an armed BUDDY at its time, with no epoch
of its context active and legal regions, start one: STATE 1, SNAP_LO the count, the total of its regions to send.
FEED_DESCRIPTOR_END: a descriptor to end with an error lets those armed on its channel run and ends its work with that status;
one that has moved makes its knot arrival, lets those run, and its successor becomes current, or its work completes OK; one that
runs on changes nothing. -/
def Obligations.FeedMovesAndEnds : Prop :=
  (∀ (l : List (Nat × Nat)) (last : Nat → Nat), (arbiter l last = none ↔ l = []) ∧
    ∀ n prio, arbiter l last = some (n, prio) → (n, prio) ∈ l ∧ (∀ x ∈ l, x.2 ≤ prio) ∧
      (l.Pairwise (fun x y => x.1 < y.1) →
        ((∃ x ∈ l, x.2 = prio ∧ last prio ≤ x.1) → last prio ≤ n ∧ ∀ x ∈ l, x.2 = prio → last prio ≤ x.1 → n ≤ x.1) ∧
        ((∀ x ∈ l, x.2 = prio → x.1 < last prio) → ∀ x ∈ l, x.2 = prio → n ≤ x.1))) ∧
  (∀ (t : FeedTile) (p : FeedPath) (stageError : Bool) (s : State),
    let s0 := (List.range (feedChans t)).foldl (fun s n => s.feedSettle (64 * t.val + n)) s
    let l := s0.readyOn t p
    let goes := exec (.feedCopy t p stageError) s
    (l = [] → goes = .next s0) ∧
    ∀ n prio, arbiter l (s0.lastGrant t p) = some (n, prio) →
      let i := 64 * t.val + n
      let s1 := { s0.countLost t l prio with arb := smSet (fun _ => 0) s0.arb (arbKey t p prio) (n + 1) }
      ∀ u, (s1.feedCh i).cur = some u →
      (∀ va len bs, s1.drainsOn t p u = true → u.nextWrite = some (va, len) → u.outBeat = some bs →
        (stageError = true → ∃ v d, goes = .next v ∧ v.mem = s1.mem ∧ v.flag (.feedStatus t) .STAGE_UE = true ∧
          (v.feedCh i).cur = some { u with err := some (0x12, d) }) ∧
        (stageError = false → s1.feedOverlap u = false → ∀ s2 w, s1.feedWrite i u va bs = (s2, w, none) → (s2.feedCh i).cur = some u →
          ∃ v x, goes = .next v ∧ v.mem = s2.mem ∧ v.fld (.feedBeats t n) .COUNT = (s2.fld (.feedBeats t n) .COUNT + 1) % 2 ^ 64 ∧
            (v.feedCh i).cur = some x ∧ x.written = u.written + len ∧ x.wr = nextPlace u.wr len u.d.outRow ∧
            x.moved = decide (u.d.rows ≤ x.wr.1) ∧ x.rd = u.rd ∧ x.err = none)) ∧
      (∀ va len s2 pa mc qc s3 data, s1.drainsOn t p u = false → u.nextRead = some (va, len) →
        s1.translate u.work.ctx (feedSource t) (feedFaultTile t) va false false = (s2, .ok pa mc qc) →
        s2.homeRead (some u.work.ctx) pa len = (s3, some data) → (s3.feedCh i).cur = some u → ∃ v, goes = .next v ∧ v.mem = s3.mem ∧
          (v.feedCh i).cur = some { u with staged := u.staged ++ [{ row := u.rd.1, off := u.rd.2, len := len, tag := none, data := data }],
                                           rd := nextPlace u.rd len u.d.len })) ∧
  ∀ (t : FeedTile) (n : ChanId) (s : State) (u : FeedCur),
  let i := 64 * t.val + n.val
  (s.feedCh i).cur = some u →
  (u.running = true → u.moved = false → u.err = none → s.ctxLive u.work.ctx = true → u.d.kind = 1 →
    (u.draws = none → (∀ q ∈ s.poolQ, q.user ≠ .feed i) → s.poolOpen u.work.ctx = true → ∃ v, exec (.feedPoolFill t n) s = .next v ∧
      v.mem = s.mem ∧ v.poolQ.length = s.poolQ.length + 1 ∧ (∀ q ∈ s.poolQ, q ∈ v.poolQ) ∧
      ∃ q ∈ v.poolQ, q.ctx = u.work.ctx ∧ q.user = .feed i ∧ q.count = u.d.len) ∧
    ∀ r, u.draws = some r → ∃ v, exec (.feedPoolFill t n) s = .next v ∧ v.mem = s.mem ∧ (v.feedCh i).cur = some (u.stageDraws r 64) ∧
      (u.staged = [] → u.rd = (0, 0) → u.d.len ≠ 0 → (u.stageDraws r 64).staged.head? = some
        { row := 0, off := 0, len := min 64 (2 * u.d.len), tag := none,
          data := (List.range (min 64 (2 * u.d.len) / 2)).flatMap fun j => toBytes 2 (poolDraw r.s31 r.s23 (r.pos + j)) })) ∧
  (u.running = false → u.moved = false → u.err = none → u.reading = none → s.ctxLive u.work.ctx = true → u.d.kind = 2 → u.d.trig = 4 →
    u.strokeAt = some s.count → u.d.targ ≤ s.phaseNs → s.inGuard = false → s.stroke.slip = false → (s.epochOf u.work.ctx).active = false →
    let w := u.fire s.time
    let s0 := { s with closed := breakClosed s.closed u.work.ctx }.setFeedCh i { s.feedCh i with cur := some w }
    ∀ s1 es s2 pages, s0.feedRegions i w = (s1, .regions es) → (s1.setBuf (feedKey i) HostBuf.empty).feedPages i w es = (s2, .ok pages) →
      let starts := fun (c : Instr) => ∃ v, exec c s = .next v ∧ v.fld (.feedwBuddy u.work.ctx) .STATE = 1 ∧
        v.fld (.feedwBuddy u.work.ctx) .SNAP_LO = s2.count % 2 ^ 24 ∧ (v.epochOf u.work.ctx).active = true ∧
        (v.epochOf u.work.ctx).total = (es.map Prod.snd).sum ∧ (v.epochOf u.work.ctx).sent = 0 ∧ (v.epochOf u.work.ctx).dst = u.d.dst ∧
        (v.epochOf u.work.ctx).ch = i ∧ (v.epochOf u.work.ctx).pages = pages
      starts (.feedStrokeTrigger t n) ∧ starts (.feedBuddy t n)) ∧
  (s.ctxLive u.work.ctx = true →
    let goes := exec (.feedDescriptorEnd t n) s
    (∀ st detail, u.err = some (st, detail) → goes = .next ((s.fireChan i).feedEnd i u st detail)) ∧
    (u.err = none → (u.running = false ∨ u.moved = false) → goes = .next s) ∧
    (u.err = none → u.running = true → u.moved = true →
      let v := (if u.d.ken then s.arrive u.work.ctx u.d.knot 1 else s).fireChan i
      (u.d.next = 0 → goes = .next (v.feedEnd i u 0 0)) ∧
      (u.d.next ≠ 0 → v.ctxLive u.work.ctx = true → goes = .next (v.feedCurrent i u (u.index + 1) u.d.next)) ∧
      (u.d.next ≠ 0 → v.ctxLive u.work.ctx = false → goes = .next v))) ∧
  ∀ (status detail : Nat), s.ctxLive u.work.ctx = true → u.work.crec = false → u.work.knot = none → status = 0 →
    ((s.feedEnd i u status detail).feedCh i).cur = none ∧ (s.feedEnd i u status detail).mem = s.mem

/-- An idle front goes on with the work it has taken, else takes a released work, else the head of its queue. INSTALL with a
legal descriptor, readable pages and free entries installs its table with no entries; PAUSE pauses an installed table; RESUME
ends the pause and releases the held works of the table in order; UNINSTALL of a paused table with nothing held frees it. Where
the table is in another state each ends with ILLEGAL_DESC and no table changes. GATHER or SCATTER of an illegal descriptor or a
table not installed ends so too; on a paused table it is held, or BUSY with 16 held; while a list of it comes from the host, or
a row a SCATTER updates is moving, the front waits. On a running table GATHER writes a row for each bag, with RESULT the indices
that are not padding and the bags filled with NaN; SCATTER updates each distinct row in range, with RESULT the rows written and
those skipped. MIGRATE of a moving row is BUSY, of one whose entry is lost UNCORR_MEM; of another it ends OK where the row lies,
is BUSY with the reserved entries used up, takes the row's home, or takes a free slot of the tile, or is BUSY with none.
FILET_WORK_END frees the front and ends the work with its status, HELD for a released work with a record; a PAUSE waits for the
gathers, scatters and migrations of its table, and ends with the last of them; a migration switches its row first, or ends with
the status of what fails, nothing switched. FILET_ALLOC_WRITE stores the mask but keeps the bits of contexts with works. -/
def Obligations.FiletWorks : Prop :=
  (∀ (t : TileId) (s s1 : State) (x : Taken),
    let w := x.work
    let b := x.desc
    let unit := unitKey 2 t 0
    let key := filetKey w.ctx b
    let k := s1.tableOf key
    let fails := fun (c : Instr) (kind st : Nat) => ∃ v, exec c s = .next v ∧ FiletRuns v t w kind st 0 none ∧ v.tables = s1.tables ∧
      v.redirects = s1.redirects
    (FiletTakes s s1 t 2 x →
      (installBad b = true ∨ (k.installed = true ∧ k.paused = false) → fails (.filetInstall t) 2 0x10) ∧
      (installBad b = false → (k.installed = false ∨ k.paused = true) → ∀ s2, s1.installPages w.ctx t (installTable b k.installed) = (s2, 0) →
        32 * (installTable b k.installed).spill ≤ s2.redirFree + (if k.installed then 32 * k.spill else 0) →
        ∃ v, exec (.filetInstall t) s = .next v ∧ v.tableOf key = installTable b k.installed ∧ FiletRuns v t w 2 0 0 none ∧
          ∀ e ∈ v.redirects, e.key ≠ key)) ∧
    (FiletTakes s s1 t 3 x →
      (k.installed = false ∨ k.paused = true → fails (.filetPause t) 3 0x10) ∧
      (onlyTable b 4 = true → k.installed = true → k.paused = false → ∃ v, exec (.filetPause t) s = .next v ∧
        v.tableOf key = { k with paused := true } ∧ FiletRuns v t w 3 0 0 none)) ∧
    (FiletTakes s s1 t 4 x →
      (k.installed = false ∨ k.paused = false → fails (.filetResume t) 4 0x10) ∧
      (onlyTable b 4 = true → k.installed = true → k.paused = true → ∃ v, exec (.filetResume t) s = .next v ∧
        v.tableOf key = { k with paused := false } ∧ FiletRuns v t w 4 0 0 none ∧ ∀ u : Nat, u < 32 →
          (v.filetOf u).released = (s1.filetOf u).released ++ (s1.filetOf u).held.filter (fun h => h.key = key) ∧
          (v.filetOf u).held = (s1.filetOf u).held.filter fun h => h.key ≠ key)) ∧
    (FiletTakes s s1 t 6 x →
      (k.installed = false ∨ k.paused = false → fails (.filetUninstall t) 6 0x10) ∧
      (onlyTable b 4 = true → k.installed = true → k.paused = true → (∀ u : Nat, u < 32 → ∀ h ∈ (s1.filetOf u).held, h.key ≠ key) →
        ∃ v, exec (.filetUninstall t) s = .next v ∧ v.tableOf key = FiletTable.none ∧ FiletRuns v t w 6 0 0 none ∧
          ∀ e ∈ v.redirects, e.key ≠ key)) ∧
    (∀ l, let size := if nbits (fieldAt b 0 4) 7 7 = 1 then 8 else 4
      let n := fieldAt b 8 4
      let held := { work := w, key := key, desc := b : HeldWork }
      let waits := fun (c : Instr) (kind : Nat) =>
        ((s1.filetOf t).held.length < 16 → exec c s =
          .next (s1.setFilet t { s1.filetOf t with taken := none, held := (s1.filetOf t).held ++ [held] })) ∧
        (16 ≤ (s1.filetOf t).held.length → fails c kind 0x14)
      (FiletTakes s s1 t 0 x →
        (k.installed = false ∨ gatherBad k b = true → fails (.filetGather t l) 0 0x10) ∧
        (k.installed = true → gatherBad k b = false → k.paused = true → waits (.filetGather t l) 0) ∧
        (k.installed = true → gatherBad k b = false → k.paused = false →
          (∀ s2, s1.hostNeeds unit w.ctx (gatherLists b) = (s2, false) → exec (.filetGather t l) s = .next (s2.filetWaits t x)) ∧
          ∀ u s2 idx s3 off s4 wl, s1.hostNeeds unit w.ctx (gatherLists b) = (u, true) →
          (u.redirUpsets t key l).engineList unit w.ctx 2 t (fieldAt b 0x10 8) n size = (s2, .ok idx) →
          (if nbits (fieldAt b 0 4) 5 4 = 0 then (s2, .ok (List.range (n + 1)))
            else s2.engineList unit w.ctx 2 t (fieldAt b 0x18 8) (fieldAt b 4 4 + 1) 4) = (s3, .ok off) →
          (if nbits (fieldAt b 0 4) 6 6 = 0 then (s3, .ok (List.replicate n 0x3F800000))
            else s3.engineList unit w.ctx 2 t (fieldAt b 0x20 8) n 4) = (s4, .ok wl) →
          offsetsOk off n = true →
          let items := idx.zip (wl.map binary32.decode)
          let g := s4.gatherBags t key (nbits (fieldAt b 0 4) 5 4) (nbits (fieldAt b 0 4) 11 8) size
            ((off.zip off.tail).map fun p => (items.drop p.1).take (p.2 - p.1))
          let r := g.1.gatherWrite w.ctx t (fieldAt b 0x28 8) (fieldAt b 0x0C 4) g.2.1
          ∃ v, exec (.filetGather t l) s = .next v ∧ v.mem = r.1.mem ∧
            FiletRuns v t w 0 r.2 ((idx.filter (· ≠ padding size)).length + g.2.2 * 2 ^ 32) none)) ∧
      (FiletTakes s s1 t 1 x →
        (k.installed = false ∨ scatterBad b = true → fails (.filetScatter t l) 1 0x10) ∧
        (k.installed = true → scatterBad b = false → k.paused = true → waits (.filetScatter t l) 1) ∧
        (k.installed = true → scatterBad b = false → k.paused = false → ∀ u s2 idx,
          s1.hostNeeds unit w.ctx [(fieldAt b 0x10 8, n * size)] = (u, true) →
          (u.redirUpsets t key l).engineList unit w.ctx 2 t (fieldAt b 0x10 8) n size = (s2, .ok idx) →
          let k2 := s2.tableOf key
          let rows := (distinctRows (idx.map fun r => if r = padding size || k2.rows ≤ r then k2.rows else r)).filter fun r => r.1 ≠ k2.rows
          ((∃ r ∈ rows, s2.moving key r.1 = true) → exec (.filetScatter t l) s = .next (s2.filetWaits t x)) ∧
          ((∀ r ∈ rows, s2.moving key r.1 = false) → ∀ s3, s2.hostNeeds unit w.ctx (gradLists k2 b (rows.flatMap Prod.snd)) = (s3, true) →
            ∀ s4, (s3.freeBytes (16 * n)).2.engineOut w.ctx 2 t (fieldAt b 0x20 8) (s3.freeBytes (16 * n)).1 = (s4, 0) →
            ∃ v, exec (.filetScatter t l) s = .next v ∧ FiletRuns v t w 1 (s4.scatterRows w.ctx t key b rows).2.1
              ((s4.scatterRows w.ctx t key b rows).2.2 + (idx.filter fun r => r ≠ padding size && k2.rows ≤ r).length * 2 ^ 32) none ∧
              v.mem = (s4.scatterRows w.ctx t key b rows).1.mem)))) ∧
    (FiletTakes s s1 t 5 x → nbits (fieldAt b 0 4) 15 3 = 0 → nbits (fieldAt b 0 4) 31 22 = 0 → zeroAt b 0x10 48 = true → ∀ l,
      let tile := fieldAt b 4 4
      let row := fieldAt b 8 8
      let s2 := s1.redirUpsets t key (l.filter fun y => y.1 = row)
      let e := s2.redirect key row
      let lies := (e.map Redirect.tile).getD (row % 32)
      let ends := fun st res mv => ∃ v, exec (.filetMigrate t l) s = .next v ∧ FiletRuns v t w 5 st res mv ∧ v.redirects = s2.redirects
      let slots := s2.freeSlots key tile
      let most := 32 * k.spill ≤ (s2.redirects.filter fun x => x.key = key).length
      (32 ≤ tile ∨ k.installed = false ∨ k.paused = true ∨ k.rows ≤ row → ∃ v, exec (.filetMigrate t l) s = .next v ∧
        FiletRuns v t w 5 0x10 0 none ∧ v.redirects = s1.redirects) ∧
      (tile < 32 → k.installed = true → k.paused = false → row < k.rows →
        (s2.moving key row = true → ends 0x14 0 none) ∧
        (s2.moving key row = false →
          (e.any Redirect.bad = true → ends 0x12 0 none) ∧
          (e.any Redirect.bad = false →
            (lies = tile → ends 0 (tile + ((e.map Redirect.slot).getD 0xFFFF) * 2 ^ 32) none) ∧
            (lies ≠ tile → most → ends 0x14 0 none) ∧
            (lies ≠ tile → ¬ most →
              (tile = row % 32 → ends 0 (tile + 0xFFFF * 2 ^ 32) (some { key := key, row := row, tile := tile, slot := none })) ∧
              (tile ≠ row % 32 → slots = [] → ends 0x14 0 none) ∧
              (tile ≠ row % 32 → slots ≠ [] → ∃ i ∈ slots,
                ends 0 (tile + i * 2 ^ 32) (some { key := key, row := row, tile := tile, slot := some i })))))))) ∧
  (∀ (t : TileId) (s : State), (s.filetOf t).cur = none → exec (.filetWorkEnd t) s = .next s) ∧
  (∀ (t : TileId) (s : State) (u : FiletCur), (s.filetOf t).cur = some u → s.ctxLive u.work.ctx = true →
    let st := if u.status = 0 ∧ u.washeld = true ∧ u.work.crec = true then 0x19 else u.status
    let done := (s.setFilet t { s.filetOf t with cur := none }).endEngineWork u.work 2 t 0 st u.result (if st = 0 then 0 else u.detail)
    (u.kind = 3 → u.status = 0 → s.tableBusy u.key = true → exec (.filetWorkEnd t) s = .next s) ∧
    (u.kind = 3 → (u.status ≠ 0 ∨ s.tableBusy u.key = false) → exec (.filetWorkEnd t) s = .next done) ∧
    (u.kind ≠ 3 → u.move = none → exec (.filetWorkEnd t) s = .next (done.endPauses u.key)) ∧
    (u.kind ≠ 3 → ∀ m, u.move = some m →
      (∀ s1, s.switchRow t m = (s1, 0) →
        (∀ e ∈ s1.redirects, e.key = m.key → e.row = m.row → some e.slot = m.slot ∧ e.tile = m.tile ∧ e.bad = false) ∧
        (∀ i, m.slot = some i → ∃ e ∈ s1.redirects, e.key = m.key ∧ e.row = m.row) ∧
        exec (.filetWorkEnd t) s = .next ((s1.filetDone t u 0).endPauses m.key)) ∧
      ∀ (s1 : State) (e : Nat), s.switchRow t m = (s1, e) → e ≠ 0 → s1.redirects = s.redirects ∧ ∃ (s2 : State) (detail : Nat), s2.redirects = s.redirects ∧
        exec (.filetWorkEnd t) s = .next ((s2.filetDone t { u with detail := detail, result := 0 } e).endPauses m.key))) ∧
  (∀ (s : State) (key : Nat), (s.tableBusy key = true → s.endPauses key = s) ∧
    ∀ i v, i < 32 → s.tableBusy key = false → (s.filetOf i).cur = some v → v.kind = 3 → v.status = 0 → v.key = key → s.ctxLive v.work.ctx = true →
      (∀ j u, j < 32 → j ≠ i → (s.filetOf j).cur = some u → u.kind ≠ 3) → s.endPauses key = s.filetDone i v 0) ∧
  ∀ (t : TileId) (mask : W16) (s : State), ∃ v, exec (.filetAllocWrite t mask) s = .next v ∧
    let old := s.fld (.filetAlloc t) .CTXMASK
    let keeps := fun (c : Nat) => old.testBit c = true ∧ mask.toNat.testBit c = false ∧ (s.filetOf t).uses c = true
    (∀ c < 16, (v.fld (.filetAlloc t) .CTXMASK).testBit c = true ↔ mask.toNat.testBit c = true ∨ keeps c) ∧
    ((∃ c < 16, keeps c) → v.flag (.filetStatus t) .ALLOC_REFUSED = true) ∧
    ((∀ c < 16, ¬ keeps c) → v.reg (.filetStatus t) = s.reg (.filetStatus t))

/-- A pool with a legal range is enabled with its folios being zeroed; INIT_DONE frees them; on an enabled pool another range
sets CFG_ERR and changes nothing; a pool is disabled, its range as it was, unless a sequence holds a folio of it. A zeroed folio
reads zero and is free. QUOTA_WRITE stores the limit. OPEN of a free SID with legal fields and an enabled home makes an empty
sequence, RESULT its tokens a folio; an open SID is refused. TRUNCATE of an unlocked sequence cuts it to N and clears TORN,
CLOSE empties it and frees its folios; both are refused where it is not open, UNCORR_MEM where its entry is in error, BUSY where
it is locked, and wait at the front for a FETCH of it. APPEND makes its OUT entries PENDING and runs its entries, a RESERVE all,
a QUANT one a command; an entry refused by the first condition of R343 changes no sequence; an accepted RESERVE entry adds its
tokens to RES under LOCKID; an accepted QUANT entry locks its sequence and stores its tokens, and when it ends LEN advances and
the lock is gone. WRITE stores its tokens when every entry is reserved under LOCKID. COMMIT adds RES to LEN of every sequence
locked under LOCKID, with DISCARD it drops RES; RESULT is their number. FETCH of committed tokens has RESULT their number, bit
63 TORN. BUCKET orders entries by the first bound not below their length. WORK_END, after what is left of a QUANT, frees the
front, counts DONE and ends the work. ALLOC_WRITE keeps the bits of contexts with works. -/
def Obligations.FolioWorks : Prop :=
  (∀ (t : TileId) (base : BitVec 17) (count : W16) (s : State), let r := Reg.folioPool t
    let u := s.folioOf t
    let legal := count ≠ 0 ∧ count.toNat ≤ 32768 ∧ base.toNat + count.toNat ≤ 131072
    let used := s.seqs.any (fun e => e.2.opened && e.2.home = t && e.2.chain ≠ [])
    (s.flag r .ENABLE = false → ∃ v, exec (.folioPoolEnable t base count) s = .next v ∧ v.fld r .BASE_F = base.toNat ∧ v.fld r .COUNT = count.toNat ∧
      (legal → v.flag r .ENABLE = true ∧ v.flag r .INIT = true ∧ v.folioOf t = { u with free := [], zeroing := (List.range count.toNat).filter fun i => !u.lost.contains (base.toNat + i) }) ∧
      (¬ legal → v.flag r .ENABLE = false ∧ v.flag (.folioStatus t) .CFG_ERR = true)) ∧
    (s.flag r .ENABLE = true → (s.fld r .BASE_F ≠ base.toNat ∨ s.fld r .COUNT ≠ count.toNat) → ∃ v, exec (.folioPoolEnable t base count) s = .next v ∧
      v.reg r = s.reg r ∧ v.flag (.folioStatus t) .CFG_ERR = true) ∧
    (s.flag r .INIT = true → ∃ v, exec (.folioPoolInitDone t) s = .next v ∧ v.flag r .INIT = false ∧ (v.folioOf t).free = u.free ++ u.zeroing ∧
      (v.folioOf t).zeroing = [] ∧ ∀ i ∈ u.zeroing, ∀ a, a < 0x10000 → v.byteAt (s.folioPa t i + a) = 0) ∧
    (s.flag r .ENABLE = true → used = true → ∃ v, exec (.folioPoolDisable t base count) s = .next v ∧ v.reg r = s.reg r ∧
      v.flag (.folioStatus t) .CFG_ERR = true) ∧
    (s.flag r .ENABLE = true → used = false → ∃ v, exec (.folioPoolDisable t base count) s = .next v ∧ v.flag r .ENABLE = false ∧
      (v.folioOf t).free = [] ∧ (v.folioOf t).zeroing = [] ∧ v.fld r .BASE_F = s.fld r .BASE_F ∧ v.fld r .COUNT = s.fld r .COUNT ∧
      ((s.fld r .BASE_F ≠ base.toNat ∨ s.fld r .COUNT ≠ count.toNat) → v.flag (.folioStatus t) .CFG_ERR = true)) ∧
    (s.flag r .ENABLE = false → ∃ v, exec (.folioPoolDisable t base count) s = .next v ∧ v.flag r .ENABLE = false ∧
      v.fld r .BASE_F = base.toNat ∧ v.fld r .COUNT = count.toNat) ∧
    (∀ i : BitVec 15, u.zeroing.contains i.toNat = true → ∃ v, exec (.folioZeroed t i) s = .next v ∧ i.toNat ∈ (v.folioOf t).free ∧
      i.toNat ∉ (v.folioOf t).zeroing ∧ (∀ a, a < 0x10000 → v.byteAt (s.folioPa t i.toNat + a) = 0) ∧
      ∀ pa, (pa < s.folioPa t i.toNat ∨ s.folioPa t i.toNat + 0x10000 ≤ pa) → v.byteAt pa = s.byteAt pa) ∧
    (∀ i : BitVec 15, u.zeroing.contains i.toNat = false → exec (.folioZeroed t i) s = .next s)) ∧
  (∀ (c : Ctx) (limit : BitVec 21) (s : State), ∃ v, exec (.folioQuotaWrite c limit) s = .next v ∧ v.fld (.folioQuota c) .LIMIT = limit.toNat) ∧
  (∀ (t : TileId) (s s1 : State) (x : Taken), FolioTakes s s1 t x →
    let w := x.work
    let b := x.desc
    let unit := unitKey 3 t 0
    let sid := fieldAt b 4 4
    let key := seqKey w.ctx sid
    let q := s1.seqOf key
    let refused := fun (c : Instr) (st : Nat) => ∃ v, exec c s = .next v ∧ FolioRuns v t w st 0 ∧ v.seqs = s1.seqs ∧ v.mem = s1.mem
    (folioKind b = 0 → ctrlExtra b 0xF00 = false → sid < 4096 → zeroAt b 0x10 48 = true →
      let dim := fieldAt b 8 4
      let home := fieldAt b 0x0C 4
      let sfmt := nbits (fieldAt b 0 4) 11 8
      4 ≤ sfmt → sfmt ≤ 11 → 32 ≤ dim → dim ≤ 2048 → dim % 32 = 0 → home < 32 →
      (q.opened = true ∨ s1.flag (.folioPool home) .ENABLE = false → refused (.folioOpen t) 0x10) ∧
      (q.opened = false → s1.flag (.folioPool home) .ENABLE = true → s1.seqFree home = 0 → refused (.folioOpen t) 0x14) ∧
      (q.opened = false → s1.flag (.folioPool home) .ENABLE = true → s1.seqFree home ≠ 0 →
        ∃ v, exec (.folioOpen t) s = .next v ∧ FolioRuns v t w 0 (65536 / (2 * tambRow sfmt dim)) ∧ (v.seqOf key).opened = true ∧ (v.seqOf key).len = 0 ∧
          (v.seqOf key).home = home ∧ (v.seqOf key).dim = dim ∧ (v.seqOf key).sfmt = sfmt ∧ (v.seqOf key).chain = [] ∧ (v.seqOf key).lockid = 0)) ∧
    (folioKind b = 5 → ctrlExtra b 0 = false → sid < 4096 → zeroAt b 0x0C 52 = true → let n := fieldAt b 8 4
      (q.opened = false → refused (.folioTruncate t false) 0x10) ∧
      (q.opened = true → ∃ v, exec (.folioTruncate t true) s = .next v ∧ FolioRuns v t w 0x12 0 ∧ v.mem = s1.mem ∧
        v.flag (.folioStatus q.home) .TABLE_UE = true) ∧
      (q.opened = true → q.bad = false →
        (q.locked = true → refused (.folioTruncate t false) 0x14) ∧
        (q.locked = false → q.len < n → refused (.folioTruncate t false) 0x10) ∧
        (q.locked = false → n ≤ q.len →
          (s1.fetching key = true → exec (.folioTruncate t false) s = .next (s1.folioWaits t x)) ∧
          (s1.fetching key = false → ∃ v, exec (.folioTruncate t false) s = .next v ∧
            v.seqOf key = { q with len := n, torn := false, chain := q.chain.take (q.folios n) } ∧
            FolioRuns v t w 0 (q.chain.length - (q.chain.take (q.folios n)).length) ∧
            (v.folioOf q.home).zeroing = (s1.folioOf q.home).zeroing ++ q.chain.drop (q.folios n))))) ∧
    (folioKind b = 6 → ctrlExtra b 0 = false → sid < 4096 → zeroAt b 8 56 = true →
      (q.opened = false → q.bad = false → refused (.folioClose t false) 0x10) ∧
      (q.opened = true → q.bad = false →
        (q.locked = true → refused (.folioClose t false) 0x14) ∧
        (q.locked = false → s1.fetching key = true → exec (.folioClose t false) s = .next (s1.folioWaits t x)) ∧
        (q.locked = false → s1.fetching key = false → ∃ v, exec (.folioClose t false) s = .next v ∧ v.seqOf key = FolioSeq.none ∧
          FolioRuns v t w 0 q.chain.length ∧ (v.folioOf q.home).zeroing = (s1.folioOf q.home).zeroing ++ q.chain) ∧
        ∃ v r, exec (.folioClose t true) s = .next v ∧ FolioRuns v t w 0x12 r ∧ v.seqOf key = FolioSeq.none ∧ v.flag (.folioStatus q.home) .TABLE_UE = true)) ∧
    (folioKind b = 1 → 1 ≤ fieldAt b 4 4 → fieldAt b 4 4 ≤ 4096 → ctrlExtra b 0xF08 = false → zeroAt b 0x34 12 = true → ∀ errors u s2 entries s3,
      s1.hostNeeds unit w.ctx [(fieldAt b 8 8, 8 * fieldAt b 4 4)] = (u, true) →
      (u.tableErrors w.ctx errors).folioList w.ctx t (fieldAt b 8 8) (fieldAt b 4 4) 8 = (s2, .ok entries) →
      s2.engineOut w.ctx 3 t (fieldAt b 0x28 8) (entries.flatMap fun _ => outEntry 1 0 0) = (s3, 0) →
      (folioMode b = 0 → 4 ≤ nbits (fieldAt b 0 4) 11 8 → nbits (fieldAt b 0 4) 11 8 ≤ 6 → fieldAt b 0x30 4 = 0 → s2.strideShort w.ctx b entries = false →
        ∃ v k a, exec (.appendQuant t errors) s = .next v ∧ (v.folioOf t).cur = some k ∧ k.work = w ∧ k.append = some a ∧ a.desc = b) ∧
      (folioMode b = 1 → nbits (fieldAt b 0 4) 11 8 = 0 → fieldAt b 0x30 4 ≠ 0 →
        let r := ((s3.countStart 3 t 0).setFolio t { s3.folioOf t with taken := none }).reserveRun w.ctx t b (entries.zipIdx.map fun e => (e.2, e.1))
          { tokens := 0, refused := 0, first := none, row := 0, stopped := false, uncorr := false }
        ∃ v, exec (.appendReserve t errors) s = .next v ∧ FolioRuns v t w r.2.outcome.status r.2.outcome.result ∧ v.seqs = r.1.seqs ∧ v.mem = r.1.mem)) ∧
    (folioKind b = 2 → ctrlExtra b 0 = false → 1 ≤ fieldAt b 4 4 → fieldAt b 4 4 ≤ 65536 → zeroAt b 0x28 8 = true → zeroAt b 0x34 12 = true →
      ∀ errors u entries s2, s1.hostNeeds unit w.ctx [(fieldAt b 8 8, 8 * fieldAt b 4 4)] = (u, true) →
      (u.tableErrors w.ctx errors).folioList w.ctx t (fieldAt b 8 8) (fieldAt b 4 4) 8 = (s2, .ok entries) → s2.writeTorn w.ctx entries = none →
      (s2.writeBad w.ctx (fieldAt b 0x30 4) entries ≠ none → ∃ v, exec (.folioWrite t errors) s = .next v ∧ FolioRuns v t w 0x10 0 ∧ v.mem = s2.mem) ∧
      (s2.writeBad w.ctx (fieldAt b 0x30 4) entries = none → ∀ s3 s4 i, s2.hostNeeds unit w.ctx (s2.writeLists w.ctx b entries) = (s3, true) →
        s3.writeTokens w.ctx t b entries = (s4, 0, i) →
        ∃ v, exec (.folioWrite t errors) s = .next v ∧ FolioRuns v t w 0 entries.length ∧ v.mem = s4.mem ∧ v.seqs = s4.seqs)) ∧
    (folioKind b = 3 → ctrlExtra b 8 = false → zeroAt b 4 0x2C = true → zeroAt b 0x34 12 = true →
      ∀ errors, let s2 := s1.tableErrors w.ctx errors
      let keys := ((s2.seqsOf w.ctx).filter fun e => e.2.under (fieldAt b 0x30 4)).map Prod.fst
      (∀ k ∈ keys, (s2.seqOf k).bad = false) → keys.Nodup →
      (folioMode b = 0 → ∃ v, exec (.folioCommit t errors) s = .next v ∧ FolioRuns v t w 0 keys.length ∧ v.mem = s1.mem ∧
        ∀ k, v.seqOf k = if k ∈ keys then { s2.seqOf k with len := (s2.seqOf k).len + (s2.seqOf k).res, res := 0, lockid := 0 } else s2.seqOf k) ∧
      (folioMode b = 1 → ∃ v, exec (.folioCommitDiscard t errors) s = .next v ∧ FolioRuns v t w 0 keys.length ∧ v.mem = s1.mem ∧
        ∀ k, v.seqOf k = if k ∈ keys then { s2.seqOf k with res := 0, lockid := 0, chain := (s2.seqOf k).chain.take ((s2.seqOf k).folios (s2.seqOf k).len) }
          else s2.seqOf k)) ∧
    (folioKind b = 4 → ctrlExtra b 0x1F00 = false → sid < 4096 → zeroAt b 0x28 24 = true → let otype := nbits (fieldAt b 0 4) 11 8
      let first := fieldAt b 8 4
      let n := fieldAt b 0x0C 4
      otype = 0 ∨ otype = 4 ∨ otype = 5 ∨ otype = 6 → n ≠ 0 →
      (q.opened = false → refused (.folioFetch t false) 0x10) ∧
      (q.opened = true → q.bad = false → q.len < first + n → refused (.folioFetch t false) 0x10) ∧
      (q.opened = true → ∃ v, exec (.folioFetch t true) s = .next v ∧ FolioRuns v t w 0x12 0) ∧
      (q.opened = true → q.bad = false → first + n ≤ q.len → (nbits (fieldAt b 0 4) 12 12 = 1 → otype = 0 → q.sfmt < 9) →
        ∀ f : Nat → State, f 0 = s1 → (∀ i, i < n → (f i).fetchToken w.ctx t q b i = (f (i + 1), 0)) →
        ∃ v, exec (.folioFetch t false) s = .next v ∧ FolioRuns v t w 0 (n + if q.torn then 2 ^ 63 else 0) ∧ v.mem = (f n).mem ∧
          v.seqs = (f n).seqs)) ∧
    (folioKind b = 7 → ctrlExtra b 0xF000 = false → 1 ≤ fieldAt b 4 4 → fieldAt b 4 4 ≤ 65536 → zeroAt b 0x28 24 = true →
      let nb := nbits (fieldAt b 0 4) 15 12 + 1
      ∀ errors u bounds s2 sids s3, s1.hostNeeds unit w.ctx [(fieldAt b 0x20 8, 4 * nb), (fieldAt b 8 8, 4 * fieldAt b 4 4)] = (u, true) →
        (u.tableErrors w.ctx errors).engineList unit w.ctx 3 t (fieldAt b 0x20 8) nb 4 = (s2, .ok bounds) →
        s2.folioList w.ctx t (fieldAt b 8 8) (fieldAt b 4 4) 4 = (s3, .ok sids) →
        ((bounds.zip bounds.tail).all (fun x => x.1 < x.2) = false → ∃ v, exec (.folioBucket t errors) s = .next v ∧ FolioRuns v t w 0x10 0 ∧ v.mem = s3.mem) ∧
        ((bounds.zip bounds.tail).all (fun x => x.1 < x.2) = true → (∀ i ∈ sids, i < 4096 ∧ (s3.seqOf (seqKey w.ctx i)).opened = true ∧ (s3.seqOf (seqKey w.ctx i)).bad = false) →
          let items := sids.zipIdx.map fun x => (x.2, (s3.seqOf (seqKey w.ctx x.1)).len)
          let groups := (List.range (nb + 1)).map fun k => items.filter fun x => bucketOf bounds x.2 = k
          ∀ s4 s5, s3.engineOut w.ctx 3 t (fieldAt b 0x10 8) (groups.flatten.flatMap fun x => toBytes 4 x.1 ++ toBytes 4 x.2) = (s4, 0) →
            s4.engineOut w.ctx 3 t (fieldAt b 0x18 8) (((List.range (nb + 2)).map fun k => ((groups.take k).map List.length).sum).flatMap (toBytes 4)) = (s5, 0) →
            ∃ v, exec (.folioBucket t errors) s = .next v ∧ FolioRuns v t w 0 0 ∧ v.mem = s5.mem))) ∧
  (∀ (t : TileId) (c : Ctx) (s : State) (b : List Byte) (i entry : Nat) (a : AppendRun),
    let key := seqKey c (entry % 4096)
    let ntok := entry / 2 ^ 32
    let q := s.seqOf key
    let lockid := if folioMode b = 0 then 0 else fieldAt b 0x30 4
    let goes := s.appendEntry c t i b entry a
    entry % 2 ^ 32 / 2 ^ 12 = 0 → q.bad = false →
    (∀ st cause, s.appendTest c key ntok lockid = some (st, cause) → goes.1.seqs = s.seqs ∧ goes.2.1.refused = a.refused + 1 ∧ goes.2.2 = none) ∧
    (s.appendTest c key ntok lockid = none → folioMode b = 1 → let s1 := s.growSeq key ntok
      let s2 := s1.setSeq key { s1.seqOf key with res := q.res + ntok, lockid := lockid }
      ∀ s3, s2.engineOut c 3 t ((fieldAt b 0x28 8 + 8 * i) % 2 ^ 64) (outEntry 0 0 (q.len + q.res)) = (s3, 0) →
        goes.1 = s3 ∧ goes.2.1.tokens = a.tokens + ntok) ∧
    (s.appendTest c key ntok lockid = none → folioMode b = 0 → ∀ s1, (s.growSeq key ntok).quantTokens c t key ntok a.row b = (s1, 0) →
      goes.1 = s1.setSeq key { s1.seqOf key with quant := true } ∧ goes.2.2 = some (i, key, ntok))) ∧
  (∀ (t : TileId) (c : Ctx) (s s1 : State) (a : AppendCur) (i key ntok : Nat), a.going = some (i, key, ntok) → let q := s.seqOf key
    (s.setSeq key { q with len := q.len + ntok, quant := false }).engineOut c 3 t ((fieldAt a.desc 0x28 8 + 8 * i) % 2 ^ 64)
      (outEntry 0 0 (q.len + q.res)) = (s1, 0) →
    (s.quantClose c t a).1 = s1 ∧ (s.quantClose c t a).2.going = none ∧ (s.quantClose c t a).2.run.tokens = a.run.tokens + ntok) ∧
  (∀ (t : TileId) (s : State), (s.folioOf t).cur = none → exec (.folioWorkEnd t) s = .next s) ∧
  (∀ (t : TileId) (s : State) (u : FolioCur), (s.folioOf t).cur = some u → s.ctxLive u.work.ctx = true →
    (u.unfinished = true → ∀ errors, exec (.appendQuant t errors) s = .next ((s.tableErrors u.work.ctx errors).quantNext t)) ∧
    (u.unfinished = true → ∀ a v, u.append = some a → ((s.quantRest t (a.entries.length + 1)).folioOf t).cur = some v → v.unfinished = false →
      s.bankEnds u.work.ctx u.status = false → exec (.folioWorkEnd t) s = .next ((s.quantRest t (a.entries.length + 1)).folioDone t v)) ∧
    (u.unfinished = false → exec (.folioWorkEnd t) s = .next (s.folioDone t u)) ∧
    (u.append = none → u.reads = none → s.folioDone t u =
      ((s.setFolio t { s.folioOf t with cur := none }).addFld (.folioDone t) .COUNT 1).endEngineWork u.work 3 t 0 u.status u.result u.detail)) ∧
  ∀ (t : TileId) (mask : W16) (s : State), ∃ v, exec (.folioAllocWrite t mask) s = .next v ∧
    let old := s.fld (.folioAlloc t) .CTXMASK
    let keeps := fun (c : Nat) => old.testBit c = true ∧ mask.toNat.testBit c = false ∧ (s.folioOf t).uses c = true
    (∀ c < 16, (v.fld (.folioAlloc t) .CTXMASK).testBit c = true ↔ mask.toNat.testBit c = true ∨ keeps c) ∧
    ((∃ c < 16, keeps c) → v.flag (.folioStatus t) .ALLOC_REFUSED = true)

/-- A port takes a state with the links that are its own in the state of Table 12-11. PORT_ENABLE of a disabled port stores its
geometry: aligned and sharing no link with another, it trains with signal, else is ABSENT (in TEST it stays there); otherwise
CFG_ERR. On an enabled port another geometry sets CFG_ERR. PORT_DISABLE leaves the port DISABLED, unless in TEST. RETRAIN, of
this end or the far end, starts training, which empties the outbound queues; CTRL DOWN takes the port down with cause 14, after
DOWN is sent; TEST enters TEST where Table 12-5 allows. Signal on an ABSENT port starts training; loss on all links of a LIVE
port makes it ABSENT, on some DOWN with 10. A step that times out is tried three times, then DOWN with 9; ALIGN fixes LAG and
then handshake frames are sent; one that differs sends FENCE and quarantines the port with its cause, and the last that agrees
ends training. FENCE of a LIVE port fences it, DOWN takes it down with 13, TEST sets the generators; symbols need a link that
does not relock. A relock starts outside slots only, is counted and timed, and one not over in a stroke takes the port down with
11. Lane errors add up, and 1,062,501 set MARGIN. A generator is refused when lent, or on a link of a port not in TEST; else
TEST is sent with its MODE; a checker that locks counts its errors. -/
def Obligations.PortsAndLinks : Prop :=
  (∀ (p : PortId) (s : State) (st : Nat), st < 8 → let t := s.setPortState p st
    t.portIs p = st ∧ (∀ l ∈ s.ownLinks p, t.fld (linkStateReg l) .STATE = linkCode st ∧ (t.link l).relock = none ∧ (t.link l).farRelock = false) ∧
      (st ≠ 4 → t.flag (.strokeOffset p) .VALID = false)) ∧
  (∀ (p : PortId) (dir size : BitVec 2) (first : BitVec 3) (signal : Bool) (s : State),
    let g := (dir.toNat, size.toNat, first.toNat)
    let u := s.setGeom p g
    let v := u.setFlag (.portCfg p) .ENABLE true
    let on := exec (.portEnable p dir size first signal) s
    let off := exec (.portDisable p dir size first) s
    u.portGeom p = g ∧
    (s.flag (.portCfg p) .ENABLE = false →
      (u.geomOk p = false → on = .next u.cfgErr) ∧
      (u.geomOk p = true → s.portIs p = 0 → v.finds p signal = true → on = .next (v.startTraining p)) ∧
      (u.geomOk p = true → s.portIs p = 0 → v.finds p signal = false → on = .next (v.setPortState p 1)) ∧
      (u.geomOk p = true → s.portIs p ≠ 0 → on = .next v) ∧ off = .next u) ∧
    (s.flag (.portCfg p) .ENABLE = true →
      (s.portGeom p = g → on = .next s) ∧ (s.portGeom p ≠ g → on = .next s.cfgErr) ∧
      let a := if s.portGeom p = g then s else s.cfgErr
      (s.portIs p = 7 → off = .next (a.setFlag (.portCfg p) .ENABLE false)) ∧
      (s.portIs p ≠ 7 → ∃ t, off = .next t ∧ t = (((a.linkDown p).setPortState p 0).setPort p PortSt.idle).setFlag (.portCfg p) .ENABLE false ∧
        t.portIs p = 0 ∧ t.flag (.portCfg p) .ENABLE = false))) ∧
  (∀ (p : PortId) (s : State), let t := s.startTraining p
    t.portIs p = 2 ∧ (t.port p).attempts = 1 ∧ (s.portDown p 14).portIs p = 6 ∧ (s.portDown p 14).fld (.portState p) .CAUSE = 14 ∧
    (s.live p = false → (∀ c ∈ allContexts, (s.epochOf c).active = false ∨ (s.epochOf c).port ≠ p) →
      (s.canSymbol p = true → ∃ l, t.outbox = s.outbox ++ .symbol p 0x05 0 :: l) ∧
      ∀ q < 16, t.outQueue p q = [] ∧ (s.portDown p 14).outQueue p q = [])) ∧
  (∀ (p : PortId) (s : State), let st := s.portIs p
    let train : Out := .next (s.startTraining p)
    let sent : Nat → Out := fun cause => .next ((if st ∈ [2, 3, 4, 5, 7] then s.sendDown p cause else s).portDown p cause)
    exec (.portCtrlRetrain p) s = (if st = 0 ∨ st = 7 then .next s else train) ∧
    exec (.retrain p) s = (if st = 0 ∨ st = 2 ∨ st = 7 ∨ s.canSymbol p = false then .next s else train) ∧
    exec (.portCtrlDown p) s = (if st = 0 then .next s else sent 14) ∧
    exec (.portCtrlTest p) s = (if st ∈ [0, 1, 3, 6] then .next (s.setPortState p 7) else .next s) ∧
    (∀ signal, exec (.absentSample p signal) s = (if st = 1 ∧ s.finds p signal = true then train else .next s)) ∧
    (∀ cause, exec (.down p cause) s = (if st ∈ [2, 3, 4, 5, 7] ∧ s.canSymbol p = true then .next (s.portDown p 13) else .next s)) ∧
    (∀ lost : Byte, let n := s.portSize p
      (st ≠ 4 ∨ lost.toNat % 2 ^ n = 0 → exec (.lossOfSignal p lost) s = .next s) ∧
      (st = 4 → lost.toNat % 2 ^ n = 2 ^ n - 1 → exec (.lossOfSignal p lost) s =
        .next (((s.linkDown p).setPortState p 1).setPort p PortSt.idle)) ∧
      (st = 4 → lost.toNat % 2 ^ n ≠ 0 → lost.toNat % 2 ^ n ≠ 2 ^ n - 1 → exec (.lossOfSignal p lost) s = sent 10)) ∧
    (∀ cause : Byte,
      (s.canSymbol p = false → exec (.fenceSymbol p cause) s = .next s) ∧
      (s.canSymbol p = true →
        (st = 4 → cause ≠ 5 → exec (.fenceSymbol p cause) s = .next (s.fence p cause.toNat [])) ∧
        (st = 4 → cause = 5 → ∀ d u, s.farDiffer (s.comparedOn p) = (d, u) → exec (.fenceSymbol p cause) s = .next (u.fence p 5 d) ∧ ∀ c ∈ d, c ∈ s.comparedOn p) ∧
        (st = 2 → ∃ t, exec (.fenceSymbol p cause) s = .next t ∧ t.portIs p = 3 ∧ t.fld (.portState p) .CAUSE = cause.toNat) ∧
        (st ≠ 2 → st ≠ 4 → exec (.fenceSymbol p cause) s = .next s))) ∧
    (∀ start mode path,
      (s.canSymbol p = true → (st = 7 ∨ (start = true ∧ st ∈ [0, 1, 3, 6])) → ∃ t, exec (.test p start mode path) s = .next t ∧ t.portIs p = 7 ∧
        ∀ l ∈ s.ownLinks p, t.flag (.linkPg (l / 8) (l % 8) 0) .ENABLE = start ∧ t.fld (.linkPg (l / 8) (l % 8) 0) .MODE = mode.toNat ∧
          t.fld (.linkPg (l / 8) (l % 8) 0) .PATH = path.toNat) ∧
      (s.canSymbol p = false ∨ (st ≠ 7 ∧ (start = false ∨ st ∉ [0, 1, 3, 6])) → exec (.test p start mode path) s = .next s)) ∧
    ((st ≠ 2 ∨ (s.port p).passed = true) → exec (.trainingStepTimeout p) s = .next s) ∧
    (st = 2 → (s.port p).passed = false →
      ((s.port p).attempts < 3 → ∃ t, exec (.trainingStepTimeout p) s = .next t ∧ t.portIs p = 2 ∧ t.fld (.portState p) .STEP = 1 ∧
        (t.port p).attempts = (s.port p).attempts + 1) ∧
      (3 ≤ (s.port p).attempts → exec (.trainingStepTimeout p) s = sent 9)) ∧
    ∀ found, let step := s.fld (.portState p) .STEP
      ((st ≠ 2 ∨ step = 0 ∨ 4 ≤ step) → exec (.trainingStepDone p found) s = .next s) ∧
      (st = 2 → (step = 1 ∨ step = 2) → ∃ t, exec (.trainingStepDone p found) s = .next t ∧ t.fld (.portState p) .STEP = step + 1 ∧ t.portIs p = 2) ∧
      (st = 2 → step = 3 → ∃ u : State, exec (.trainingStepDone p found) s = .next (u.sendHandshake p) ∧ u.fld (.portState p) .STEP = 4 ∧ u.portIs p = 2 ∧
        (let ds := (s.portLinks p).map fun l => (u.link l).delay
         u.fld (.portState p) .LAG = lagOf (ds.sum / ds.length) % 16) ∧
        (u.port p).record = u.recordHash ∧ (u.port p).agreed = [] ∧ (u.port p).passed = false)) ∧
  (∀ (l : LinkId) (far : BitVec 2) (f : FrameFields) (s : State) (p : Nat), s.portOfLink l = some p → p < 16 →
    (s.portIs p ≠ 2 ∨ s.fld (.portState p) .STEP ≠ 4 ∨ (s.port p).passed = true → exec (.handshakeFrame l far f) s = .next s) ∧
    (s.portIs p = 2 → s.fld (.portState p) .STEP = 4 → (s.port p).passed = false → let s0 := (s.freeNat 4).2
    (∀ cause, s0.handshakeCause p l far.toNat f = some cause → ∃ t, exec (.handshakeFrame l far f) s = .next t ∧ t.portIs p = 3 ∧
      t.fld (.portState p) .CAUSE = cause ∧ t.fld (.portState p) .FAR_X = f.x.toNat ∧ t.fld (.portState p) .FAR_Y = f.y.toNat ∧
      (s.canSymbol p = true → .symbol p 0x04 cause ∈ t.outbox)) ∧
    (s0.handshakeCause p l far.toNat f = none →
      let agreed := if (s.port p).agreed.contains l.val then (s.port p).agreed else (s.port p).agreed ++ [l.val]
      let all := (s.portLinks p).all fun x => agreed.contains x
      ∃ t, exec (.handshakeFrame l far f) s = .next t ∧ (t.port p).agreed = agreed ∧ t.fld (.portState p) .FAR_X = f.x.toNat ∧
        t.fld (.portState p) .FAR_Y = f.y.toNat ∧
        (all = true → far = 0 → s.strokeState = 0 → t.portIs p = 4) ∧
        (¬ (all = true ∧ far = 0 ∧ s.strokeState = 0) → t.portIs p = 2 ∧ (t.port p).passed = all)))) ∧
  (∀ (l : LinkId) (far : BitVec 2) (f : FrameFields) (s : State), s.portOfLink l = none → exec (.handshakeFrame l far f) s = .next s) ∧
  (∀ (l : LinkId) (s : State), let w := wiredLink l
    (s.portOfLink w = none → exec (.relock l) s = .next s ∧ exec (.relocked l) s = .next s) ∧
    (∀ p, s.portOfLink w = some p →
      (s.live p = false ∨ s.canSymbol p = false → exec (.relock l) s = .next s ∧ exec (.relocked l) s = .next s) ∧
      (s.live p = true → s.canSymbol p = true →
        (∃ t, exec (.relock l) s = .next t ∧ t.link w = { s.link w with farRelock := true } ∧ ∀ x, x ≠ w → t.link x = s.link x) ∧
        exec (.relocked l) s = .next ((s.setLink w { s.link w with farRelock := false }).resumeHeld p))) ∧
    (∀ us p, s.portOfLink l = some p →
      ((s.live p = false ∨ (s.link l).relock ≠ none ∨ ∃ r ∈ s.slots, r.begun = true ∧ r.e.onPort p = true) → exec (.relockStart l us) s = .next s) ∧
      (s.live p = true → (s.link l).relock = none → (∀ r ∈ s.slots, r.begun = true → r.e.onPort p = false) → ∃ t, exec (.relockStart l us) s = .next t ∧
        t.link l = { s.link l with relock := some s.time } ∧ t.fld (linkStateReg l) .STATE = 4 ∧
        t.fld (linkRelockReg l) .COUNT = (s.fld (linkRelockReg l) .COUNT + 1) % 2 ^ 32 ∧
        t.outbox = s.outbox ++ (if s.canSymbol p then [.symbol p 0x02 (l.val ||| us.toNat <<< 8)] else []))) ∧
    (∀ p t0, s.portOfLink l = some p → (s.link l).relock = some t0 →
      (∃ u : State, exec (.lockReturn l) s = .next (((u.symbol p 0x03 l.val).sendLate l).resumeHeld p) ∧ u.link l = { s.link l with relock := none } ∧
        u.fld (linkStateReg l) .STATE = 3 ∧ u.fld (linkRelockReg l) .LAST_US = min ((s.time - t0) / 100) 0xFFFF ∧
        u.fld (linkRelockReg l) .MAX_US = max (min ((s.time - t0) / 100) 0xFFFF) (s.fld (linkRelockReg l) .MAX_US)) ∧
      exec (.relockTimeout l) s = .next (if s.time < t0 + 100 * s.periodUs then s else s.goDown p 11)) ∧
    (s.portOfLink l = none → (∀ us, exec (.relockStart l us) s = .next s) ∧ exec (.lockReturn l) s = .next s ∧ exec (.relockTimeout l) s = .next s)) ∧
  (∀ (l : LinkId) (e0 e1 e2 e3 : W32) (s : State), let d := l.val / 8
    let r := Reg.linkSer d (l.val % 8)
    ∃ t, exec (.laneMarginCheck l e0 e1 e2 e3) s = .next t ∧
      (bits (t.reg r) 15 0 = min (bits (s.reg r) 15 0 + e0.toNat) 0xFFFF ∧ bits (t.reg r) 31 16 = min (bits (s.reg r) 31 16 + e1.toNat) 0xFFFF ∧
       bits (t.reg r) 47 32 = min (bits (s.reg r) 47 32 + e2.toNat) 0xFFFF ∧ bits (t.reg r) 63 48 = min (bits (s.reg r) 63 48 + e3.toNat) 0xFFFF) ∧
      ((1062500 < e0.toNat ∨ 1062500 < e1.toNat ∨ 1062500 < e2.toNat ∨ 1062500 < e3.toNat) → t.flag (.linkdStatus d) .MARGIN = true) ∧
      ((e0.toNat ≤ 1062500 ∧ e1.toNat ≤ 1062500 ∧ e2.toNat ≤ 1062500 ∧ e3.toNat ≤ 1062500) → t.reg (.linkdStatus d) = s.reg (.linkdStatus d))) ∧
  (∀ (l : LinkId) (f : PgFields) (s : State), let r := Reg.linkPg (l.val / 8) (l.val % 8) f.g.val
    let refused := f.enable = true ∧ ((f.g.val = 1 ∧ ∃ c < 16, s.flag (.poolCtrl c) .ENABLE = true ∧ (s.fld (.poolCtrl c) .LEND).testBit l.val = true) ∨
      (s.portOfLink l ≠ none ∧ ∀ p < 16, s.portIs p = 7 → l.val ∉ s.ownLinks p))
    (refused → ∃ t, exec (.pgEnable l f) s = .next t ∧ t.reg r = s.reg r ∧ t.flag (.linkdStatus (l.val / 8)) .TEST_REFUSED = true) ∧
    (¬ refused → ∃ t, exec (.pgEnable l f) s = .next t ∧ t.flag r .ENABLE = f.enable ∧ t.fld r .MODE = f.mode.toNat ∧ t.fld r .PATH = f.path.toNat ∧
      t.fld r .LANES = f.lanes.toNat ∧
      ∀ p, s.testPort l = some p → f.path ≠ 0 → s.canSymbol p = true → t.outbox = s.outbox ++ [.symbol p 0x09 f.mode.toNat])) ∧
  ∀ (l : LinkId) (g : Fin 2) (lane : Fin 4) (errors : W16) (s : State), let r := Reg.linkPg (l.val / 8) (l.val % 8) g.val
    let e := Reg.linkPgerr (l.val / 8) (l.val % 8) g.val
    let hi := 16 * lane.val + 15
    let lo := 16 * lane.val
    (s.flag r .ENABLE = false ∨ (s.fld r .LANES).testBit lane = false → exec (.patternCheckerLock l g lane errors) s = .next s) ∧
    (s.flag r .ENABLE = true → (s.fld r .LANES).testBit lane = true → ∃ t, exec (.patternCheckerLock l g lane errors) s = .next t ∧
      (t.fld r .LOCKED).testBit lane = true ∧ bits (t.reg e) hi lo = min (bits (s.reg e) hi lo + errors.toNat) 0xFFFF)

/-- A table is locked when its pages translate for reading and writing, else CFG_ERR; another BASE while locked is a violation;
unlocking is refused with CFG_ERR while an image is armed. STREAM_PREFETCH of a due stream slot from 4 µs before it keeps its
entry, or makes the stream error: STREAM_ERR one more, context fault LINK_STREAM. SLOT_START of a due slot at its start on a
port not LIVE drops it; behind a held one it is missed; a sender on a relocking port is held; else it begins at its first frame
with its data staged, or fails with its status. FRAME_DEPARTURE: a training port sends TRAINING, a quarantined or fenced one
IDLE; frame 32 of a LIVE port carries the REPLY; a sender's frame carries its beats, dealt to the links in turn, each tagged
VALID and LAST (free data where the entry was changed since its prefetch), or the slot is missed where data is not there; else
IDLE; no frame crosses the boundary. DATA_FRAME: a lost frame is counted and misses the slot that receives; one that matches no
receive slot counts in UNMATCHED; else its beats are stored at their places, counted from the first frame that came, and the
first line of a buddy epoch opens it. MISSED marks a slot to be received, not one that is over. SLOT_END: of a context in reset
what came may stay; a slot missed or incomplete counts in SLOTS_MISSED and MISSED and is remembered, and a hop tells its port; a
complete one is written (free data where its entry was changed), its status is OK and its knot arrives. -/
def Obligations.SlotsAndFrames : Prop :=
  (∀ (c : Ctx) (base : BitVec 33) (s : State), let r := Reg.linkwStreams c
    let lock := exec (.streamTableLock c base) s
    let unlock := exec (.streamTableUnlock c base) s
    (s.flag r .LOCK = false → ∃ t, lock = .next t ∧ t.fld r .BASE = base.toNat ∧
      t.flag r .LOCK = (s.setFld r .BASE base.toNat).streamsMapped c ∧
      ((s.setFld r .BASE base.toNat).streamsMapped c = false → t.flag (.linkdStatus 0) .CFG_ERR = true)) ∧
    (s.flag r .LOCK = true → (s.fld r .BASE = base.toNat → lock = .next s) ∧
      (s.fld r .BASE ≠ base.toNat → ∃ t, lock = .next t ∧ t.reg r = s.reg r ∧ t.flag (.ctxwCmplStat c) .WO_VIOLATION = true)) ∧
    ((s.image c).active = true → ∃ t, unlock = .next t ∧ t.reg r = s.reg r ∧ t.flag (.linkdStatus 0) .CFG_ERR = true ∧
      (s.flag r .LOCK = true → s.fld r .BASE ≠ base.toNat → t.flag (.ctxwCmplStat c) .WO_VIOLATION = true)) ∧
    ((s.image c).active = false → ∃ t, unlock = .next t ∧ t.flag r .LOCK = false ∧ t.fld r .BASE = base.toNat)) ∧
  (∀ (c : Ctx) (ix : EntryIx) (rerun : Bool) (s : State), let i := ix.toNat
    let pre := exec (.streamPrefetch c ix rerun) s
    let go := exec (.slotStart c ix rerun) s
    (s.slotAt c i = none → pre = .next s ∧ go = .next s) ∧
    ∀ e, s.slotAt c i = some e →
      (s.slotDue c i e rerun = false ∨ s.reached (e.startNs - 4000) = false → pre = .next s) ∧
      (s.slotDue c i e rerun = false ∨ s.reached e.startNs = false → go = .next s) ∧ (e.kind ≠ 0 → pre = .next s) ∧
      (e.kind = 0 → s.slotRun c i = none → go = .next s) ∧
      (∀ r, (s.slotRun c i = some r ∨ (s.slotRun c i = none ∧ r = freshRun c i e none)) → e.kind = 0 → r.ctx = c → r.idx = i → r.e = e →
        (r.begun = true ∨ r.stream ≠ none → pre = .next s) ∧
        (s.slotDue c i e rerun = true → s.reached (e.startNs - 4000) = true → r.begun = false → r.stream = none →
          (∀ s1 t, s.prefetch c e = (s1, .ok t) → ∃ u, pre = .next u ∧ u.mem = s1.mem ∧
            u.slotRun c i = some { r with stream := some t, missed := r.missed && !(e.mode = 2 && t.role = 1) }) ∧
          (∀ s1 st, s.prefetch c e = (s1, .error st) → ∃ s2 : State, s2.fld (.linkwStat c) .STREAM_ERR = ((match st with
              | some x => s1.streamStatus r x
              | none => s1).fld (.linkwStat c) .STREAM_ERR + 1) % 2 ^ 32 ∧ s2.slotRun c i = none ∧ pre = .next (s2.faultNoUnit c 0x0E e.stream)))) ∧
      (s.slotDue c i e rerun = true → s.reached e.startNs = true →
        ∀ r, (s.slotRun c i = some r ∨ (s.slotRun c i = none ∧ r = freshRun c i e none)) → (e.kind = 0 → r.stream ≠ none) →
          r.ctx = c → r.idx = i → r.e = e →
          (r.begun = true ∨ r.held = true ∨ r.missed = true → go = .next s) ∧
          (r.begun = false → r.held = false → r.missed = false →
            let behind := s.slots.any fun x => x.held && x.e.port = e.port
            (s.live e.port = false → ∃ u, go = .next u ∧ u.slotRun c i = none ∧ u.mem = s.mem) ∧
            (s.live e.port = true → behind = true → ∃ u, go = .next u ∧ u.slotRun c i = some { r with missed := true } ∧
              (r.sends = true → s.canSymbol e.port = true → u.outbox = s.outbox ++ [.symbol e.port 0x07 (e.binding ||| e.frame0 <<< 16 ||| s.htag c <<< 36)])) ∧
            (s.live e.port = true → behind = false → r.sends = true → s.relocking e.port = true → ∃ u, go = .next u ∧ u.slotRun c i = some { r with held := true }) ∧
            (s.live e.port = true → behind = false → (r.sends = false ∨ s.relocking e.port = false) →
              (∀ s1 r1, s.stage r = (s1, .ok r1) → go = .next (s1.setSlotRun { r1 with begun := true, held := false, first := e.frame0 })) ∧
              (∀ s1, s.stage r = (s1, .error 0x12) → go = .next (((s1.tellMissed r).dropSlotRun c i).faultNoUnit c 0x02 0x12)) ∧
              (∀ s1 st, st ≠ 0x12 → s.stage r = (s1, .error st) → go = .next (s1.streamError r (some st))))))) ∧
  (∀ (l : LinkId) (f : BitVec 20) (t3 : W64) (staged : Bool) (s : State) (p : Nat), s.portOfLink l = some p →
    let goes := exec (.frameDeparture l f t3 staged) s
    let sends := fun (type htag binding : Nat) (beats : List Beat) => goes = .next (s.send (.frame l type f.toNat htag binding (s.count % 256) beats))
    let crosses := s.strokeCounts = true ∧ s.periodUs * 1000 < 32 * (f.toNat + 1)
    ((s.link l).relock ≠ none ∨ crosses → goes = .next s) ∧
    ((s.link l).relock = none → ¬ crosses →
      (s.portIs p = 2 → sends 4 0 0 []) ∧ (s.portIs p = 3 ∨ s.portIs p = 5 → sends 0 0 0 []) ∧
      (s.portIs p ≠ 2 → s.portIs p ≠ 3 → s.portIs p ≠ 4 → s.portIs p ≠ 5 → goes = .next s) ∧
      (s.portIs p = 4 → s.strokeState ≠ 0 → f = 0 → goes = .next s) ∧
      (s.portIs p = 4 → s.strokeState ≠ 0 → f = 32 → (∀ t2, (s.link l).t2 = some t2 → sends 3 0 0 (plainBeats (toBytes 8 t2.toNat ++ toBytes 8 t3.toNat))) ∧
        ((s.link l).t2 = none → sends 0 0 0 [])) ∧
      (s.portIs p = 4 → (s.strokeState = 0 ∨ (f ≠ 0 ∧ f ≠ 32)) →
        (s.sender p = none → sends 0 0 0 []) ∧
        ∀ r, s.sender p = some r → (s.slotFrame r f.toNat = none → sends 0 0 0 []) ∧
          ∀ k, s.slotFrame r f.toNat = some k →
            let n := s.portSize r.e.port
            let js := frameBeats n ((s.portLinks r.e.port).idxOf l.val) k r.beats
            (js = [] → sends 0 0 0 []) ∧
            (js ≠ [] → (staged = false ∨ ∃ j ∈ js, r.beat j = none) → goes = .next ((s.setSlotRun { r with missed := true }).tellMissed r)) ∧
            (js ≠ [] → staged = true → (∀ j ∈ js, r.beat j ≠ none) → s.streamChanged r = false →
              sends 1 (s.htag r.ctx) r.e.binding (js.filterMap fun j => (r.beat j).map (tagBeat n r.beats j))) ∧
            (js ≠ [] → staged = true → (∀ j ∈ js, r.beat j ≠ none) → s.streamChanged r = true →
              ∀ s0 bs, s.spoilBeats (js.filterMap fun j => (r.beat j).map (tagBeat n r.beats j)) = (s0, bs) →
                goes = .next (s0.send (.frame l 1 f.toNat (s0.htag r.ctx) r.e.binding (s0.count % 256) bs)))))) ∧
  (∀ (l : LinkId) (f : BitVec 20) (htag binding : W16) (beats : List FrameBeat) (s : State) (p : Nat), s.portOfLink l = some p →
    let goes := fun (buddy : Option BuddyStart) (lost : Bool) => exec (.dataFrame l f htag binding beats buddy lost) s
    let fits := fun (r : SlotRun) => r.e.binding = binding.toNat && s.htag r.ctx = htag.toNat
    (s.live p = false ∨ (s.link l).relock ≠ none → ∀ b x, goes b x = .next s) ∧
    (s.live p = true → (s.link l).relock = none →
      (∀ b, s.receiver p (fun _ => true) = none → ∃ u, goes b true = .next u ∧
        u.fld (.portCount p) .FRAMES_LOST = min (s.fld (.portCount p) .FRAMES_LOST + 1) 0xFFFF ∧ u.slots = s.slots) ∧
      (∀ b r, s.receiver p (fun _ => true) = some r → r.missed = false → ∃ u, goes b true = .next u ∧
        u.fld (.portCount p) .FRAMES_LOST = min (s.fld (.portCount p) .FRAMES_LOST + 1) 0xFFFF ∧
        u.fld (linkFecReg l) .UNCORR = min (s.fld (linkFecReg l) .UNCORR + 1) (2 ^ 32 - 1) ∧ u.slotRun r.ctx r.idx = some { r with missed := true }) ∧
      (∀ b, s.receiver p fits = none → s.matched p htag.toNat binding.toNat = true → goes b false = .next s) ∧
      (∀ b, s.receiver p fits = none → s.matched p htag.toNat binding.toNat = false → ∃ u, goes b false = .next u ∧ u.fld (.portCount p) .UNMATCHED = (s.fld (.portCount p) .UNMATCHED + 1) % 2 ^ 16 ∧
        u.slots = s.slots ∧ u.mem = s.mem) ∧
      (∀ b r, s.receiver p fits = some r → r.missed = true → goes b false = .next s) ∧
      (∀ r, s.receiver p fits = some r → r.missed = false → beats.Pairwise (fun a b => a.pos ≠ b.pos) →
        let n := s.portSize r.fromPort
        let li := (s.portLinks r.fromPort).idxOf l.val
        let first := r.rx.getD f.toNat
        (∃ u x, goes none false = .next u ∧ u.slotRun r.ctx r.idx = some x ∧ x.rx = some first ∧ u.mem = s.mem ∧
          (0 < n → ∀ b ∈ beats, smGet (fun _ => []) x.got ((f.toNat - first) * 46 * n + b.pos.val * n + li) = toBytes 64 b.data.toNat)) ∧
        (r.e.kind = 2 → ∀ b : BuddyStart, ∃ u, goes (some b) false = .next u ∧ (u.recvOf p r.ctx).active = true ∧ (u.recvOf p r.ctx).dst = b.dst ∧
          (u.recvOf p r.ctx).total = b.total.toNat ∧ (u.recvOf p r.ctx).epoch = b.epoch.toNat ∧ (u.recvOf p r.ctx).landed = 0)))) ∧
  (∀ (p : PortId) (binding : W16) (start : BitVec 20) (htag : W16) (s : State),
    let fits := fun (c ix : Nat) (e : SlotEntry) => c < 16 ∧ s.slotAt c ix = some e ∧ s.slotDue c ix e true = true ∧ s.htag c = htag.toNat ∧
      e.frame0 = start.toNat ∧ e.binding = binding.toNat ∧ ((e.mode = 1 ∧ e.port = p) ∨ (e.mode = 2 ∧ e.inPort = p))
    (s.live p = false ∨ s.canSymbol p = false ∨ (∀ c ix e, ¬ fits c ix e) → exec (.missed p binding start htag) s = .next s) ∧
    ∀ c ix e, fits c ix e → (∀ c2 ix2 e2, fits c2 ix2 e2 → c2 = c ∧ ix2 = ix) → s.live p = true → s.canSymbol p = true →
      (s.slotRun c ix = none → s.reached (e.startNs + e.lenNs) = true → exec (.missed p binding start htag) s = .next s) ∧
      ∀ r, (s.slotRun c ix = some r ∨ (s.slotRun c ix = none ∧ r = freshRun c ix e none ∧ s.reached (e.startNs + e.lenNs) = false)) →
        r.e = e → r.ctx = c → r.idx = ix → (r.missed = true ∨ r.role = some 1 → exec (.missed p binding start htag) s = .next s) ∧
        (r.missed = false → r.role ≠ some 1 → ∃ u, exec (.missed p binding start htag) s = .next u ∧ u.slotRun c ix = some { r with missed := true })) ∧
  ∀ (c : Ctx) (ix : EntryIx) (s : State), (s.slotRun c ix.toNat = none → exec (.slotEnd c ix) s = .next s) ∧
    (∀ r, s.slotRun c ix.toNat = some r → s.reached (r.e.startNs + r.e.lenNs) = false → exec (.slotEnd c ix) s = .next s) ∧
    ∀ r0, s.slotRun c ix.toNat = some r0 → s.reached (r0.e.startNs + r0.e.lenNs) = true → ∀ s0 r, (if s.streamChanged r0 then s.spoilRun r0 else (s, r0)) = (s0, r) → let u := s0.dropSlotRun c ix.toNat
      u.slotRun c ix.toNat = none ∧
      (s.ctxLive c = false → exec (.slotEnd c ix) s = .next (if r.begun then u.slotLeaves r else u)) ∧
      (s.ctxLive c = true → r.begun = false → r.held = false → r.missed = false → exec (.slotEnd c ix) s = .next u) ∧
      (s.ctxLive c = true → (r.begun = true ∨ r.held = true ∨ r.missed = true) →
        (u.endsMissed r = false → exec (.slotEnd c ix) s = .next (u.slotDone r)) ∧
        (u.endsMissed r = true → r.missed = true → exec (.slotEnd c ix) s = .next (u.slotMissed r)) ∧
        (u.endsMissed r = true → r.missed = false → r.held = true → exec (.slotEnd c ix) s = .next ((u.tellMissed r).slotMissed r)) ∧
        (u.endsMissed r = true → r.missed = false → r.held = false → exec (.slotEnd c ix) s = .next ((u.relayMissed r).slotMissed r)) ∧
        (r.ctx = c.val → r.e.port < 16 → r.e.kind = 1 → r.msgs = [] → ∃ v, v = u.slotMissed r ∧ v.fld (.linkwStat c) .MISSED = (u.fld (.linkwStat c) .MISSED + 1) % 2 ^ 32 ∧
          v.fld (.portCount r.e.port) .SLOTS_MISSED = min (u.fld (.portCount r.e.port) .SLOTS_MISSED + 1) 0xFFFF ∧
          v.stroke.missedNow = u.stroke.missedNow ++ [(c.val, r.idx)]) ∧
        (r.e.kind = 0 → ∀ t a, r.stream = some t → r.target t = some a →
          ∀ v, (r.groups t).foldl (fun (acc : State × Bool) (g : Nat × Option (List Byte)) => ((acc.1.linkWrite r.ctx (a + g.1) (g.2.getD [])).1,
            acc.2 && (acc.1.linkWrite r.ctx (a + g.1) (g.2.getD [])).2)) (u, true) = (v, true) →
          u.slotDone r = if t.ken then (v.streamStatus r 0).arrive r.ctx t.knot 1 else v.streamStatus r 0))

/-- An access to the window of a VF that is not enabled or awake is an unsupported request; with the aperture disabled it fails:
MEM.FAULT and HWIN_FAULT hold cause 6, a read ends in Completer Abort. A read of one line that translates and is clean answers
its bytes, a write stores them; on a HOST page the VF issues the read, or the write. The PF window reads and writes physical
addresses the same way; disabled or unmapped it sets HOST_ERR. An unsupported posted request is logged, another answered UR. An
event on an armed vector takes ARMED and makes the message, on another it sets PEND; arming a vector takes a waiting event at
once. A message is sent, or held in the PBA while masked; an unmask sends what is held, once. VMAP_WRITE stores a legal entry,
else VALID = 0 and MAP_ERR. VF_FLR resets the VF's tables and faults its context; PF_FLR is a package reset; HOT_RESET disables
every function, clears the link and ends host reads. PCIE_LINK_UP shows rate and lanes, DEGRADED below 16 lanes or the top rate.
D3hot ends the function's reads; D0 sends what it held. VF Enable enables or clears all 16 VFs. -/
def Obligations.HostInterface : Prop :=
  (∀ (c : Ctx) (off : W32) (op : BarOp) (s : State), let f := c.val + 1
    let va := s.fld (.hostwHwin c) .BASE * 2 ^ 32 + off.toNat
    let goes := exec (.vfApertureAccess c off op) s
    let reply := fun (u : State) (status : Nat) => match op with
      | .read _ => u.send (.pcieCpl f status false [])
      | .write _ => u
    (((s.fnOf f).enabled = false ∨ s.fnAwake f = false) → goes = .next (reply s 1)) ∧
    ((s.fnOf f).enabled = true → s.fnAwake f = true → off.toNat + barLen op ≤ 2 ^ 32 → barLen op ≠ 0 →
      (s.flag (.hostwHwin c) .ENABLE = false → ∃ u : State, goes = .next (reply u 4) ∧ u.fld .memFault .CAUSE = 6 ∧ u.fld .memFault .CTX = c ∧
        (s.flag (.hostwHwinFault c) .VALID = false → u.flag (.hostwHwinFault c) .VALID = true ∧ u.fld (.hostwHwinFault c) .CAUSE = 6 ∧
          u.flag (.hostwHwinFault c) .WRITE = barWrites op) ∧
        (s.flag (.hostwHwinFault c) .VALID = true → u.reg (.hostwHwinFault c) = s.reg (.hostwHwinFault c))) ∧
      (s.flag (.hostwHwin c) .ENABLE = true → va / 64 = (va + barLen op - 1) / 64 →
        (∀ pa mc qc, s.walk c va (barWrites op) false = .ok pa mc qc →
          (∀ n s1 d, op = .read n → s.homeRead (some c.val) pa n = (s1, some d) → goes = .next (s1.send (.pcieCpl f 0 false d))) ∧
          (∀ n s1, op = .read n → s.homeRead (some c.val) pa n = (s1, none) → ∃ (u : State) (d : List Byte), goes = .next (u.send (.pcieCpl f 0 true d)) ∧ u.mem = s1.mem) ∧
          ∀ d, op = .write d → goes = .next (s.homeWrite (some c.val) mc (cellsFrom pa d)).1) ∧
        (∀ bus, s.walk c va (barWrites op) false = .host bus →
          (∀ d, op = .write d → goes = .next (if s.canIssue c then s.send (.pcieWrite f bus d false) else s)) ∧
          ∀ n s1 ok, op = .read n → s.issueRead c (.bar va n [] true) va bus n = (s1, ok) →
            goes = .next (if ok then s1 else s1.send (.pcieCpl f 4 false []))) ∧
        ∀ k, s.walk c va (barWrites op) false = .fail k → ∃ u : State, goes = .next (reply u 4) ∧ u.mem = s.mem ∧
          (k < 16 → s.flag (.hostwHwinFault c) .VALID = false → u.fld (.hostwHwinFault c) .CAUSE = k ∧ u.flag (.hostwHwinFault c) .VALID = true)))) ∧
  (∀ (off : W32) (op : BarOp) (s : State), let pa := s.fld .ioPwin .BASE * 2 ^ 32 + off.toNat
    let goes := exec (.pfWindowAccess off op) s
    let reply := fun (u : State) (status : Nat) => match op with
      | .read _ => u.send (.pcieCpl 0 status false [])
      | .write _ => u
    (s.fnAwake 0 = false → goes = .next (reply s 1)) ∧
    (s.fnAwake 0 = true → off.toNat + barLen op ≤ 2 ^ 32 → barLen op ≠ 0 → pa / 64 = (pa + barLen op - 1) / 64 →
      ((s.flag .ioPwin .ENABLE = false ∨ isMapped pa = false) → goes = .next (reply (s.setFlag .ioStatus .HOST_ERR true) 4)) ∧
      (s.flag .ioPwin .ENABLE = true → isMapped pa = true →
        (∀ n s1 d, op = .read n → s.homeRead none pa n = (s1, some d) → goes = .next (s1.send (.pcieCpl 0 0 false d))) ∧
        ∀ d, op = .write d → goes = .next (s.homeWrite none false (cellsFrom pa d)).1))) ∧
  (∀ (f : FnId) (s : State), exec (.unsupportedRequest f true) s = .next (s.aerLog f false) ∧
    exec (.unsupportedRequest f false) s = .next (s.send (.pcieCpl f 1 false []))) ∧
  (∀ (f : FnId) (v : Nat) (s : State), v < vectorsOf f →
    let armed := bitAt (s.reg (armedReg f v)) (v % 64)
    let pend := bitAt (s.reg (pendReg f v)) (v % 64)
    let off := s.setRegBit (armedReg f v) (v % 64) false
    (armed = true → s.vectorEvent f v = off.message f v) ∧
    (armed = false → bitAt ((s.vectorEvent f v).reg (pendReg f v)) (v % 64) = true ∧ (s.vectorEvent f v).outbox = s.outbox) ∧
    ((s.fnOf f).msixEnable = true → s.msixHeld f v = false →
      (s.message f v).outbox = s.outbox ++ [.msix f (s.reg (msixAddr f v)) (BitVec.ofNat 32 (s.fld (msixData f v) .DATA))]) ∧
    ((s.fnOf f).msixEnable = true → s.msixHeld f v = true → bitAt ((s.message f v).reg (pbaReg f v)) (v % 64) = true ∧ (s.message f v).outbox = s.outbox) ∧
    ((s.fnOf f).msixEnable = false → s.message f v = s) ∧
    (∀ w : Fin 4, w.val = v / 64 → (f.val = 0 ∨ (s.fnOf f).enabled = true) →
      (pend = true → exec (.vectorArm f w (BitVec.ofNat 64 (2 ^ (v % 64)))) s =
        .next (((s.setRegBit (pendReg f v) (v % 64) false).setRegBit (armedReg f v) (v % 64) false).message f v)) ∧
      (pend = false → exec (.vectorArm f w (BitVec.ofNat 64 (2 ^ (v % 64)))) s = .next (s.setRegBit (armedReg f v) (v % 64) true))) ∧
    (f.val ≠ 0 → (s.fnOf f).enabled = false → (∀ w m, exec (.vectorArm f w m) s = .next s) ∧ ∀ op, exec (.msixUnmask f op) s = .next s) ∧
    ((f.val = 0 ∨ (s.fnOf f).enabled = true) →
      (∀ m, v < 256 → exec (.msixUnmask f (.vector (BitVec.ofNat 8 v) m)) s = .next ((s.setFlag (msixData f v) .MASK m).sendHeld f)) ∧
      (∀ en m, exec (.msixUnmask f (.control en m)) s = .next ((s.setFn f { s.fnOf f with msixEnable := en, funcMask := m }).sendHeld f))) ∧
    ((s.fnOf f).msixEnable = true → s.msixHeld f v = false → bitAt (s.reg (pbaReg f v)) (v % 64) = true →
      .msix f (s.reg (msixAddr f v)) (BitVec.ofNat 32 (s.fld (msixData f v) .DATA)) ∈ (s.sendHeld f).outbox ∧
      bitAt ((s.sendHeld f).reg (pbaReg f v)) (v % 64) = false)) ∧
  (∀ (c : Ctx) (i : Fin 112) (e : W64) (s : State), let e0 := e &&& ~~~ maskOf 51 32
    ∃ t, exec (.vmapWrite c i e) s = .next t ∧ (vmapOk e0 = true → t.reg (.vmapMap c i) = e0) ∧
      (vmapOk e0 = false → t.flag (.vmapMap c i) .VALID = false ∧ t.flag (.vecwStat c) .MAP_ERR = true)) ∧
  (∀ (c : Ctx) (s : State), ((s.fnOf (c + 1)).enabled = false → exec (.vfFlr c) s = .next s) ∧
    ((s.fnOf (c + 1)).enabled = true → ∃ u : State, exec (.vfFlr c) s = .next (u.faultNoUnit c 0x12 0) ∧ u.fnOf (c + 1) = { FnState.fresh with enabled := true } ∧
      u.reg (.vecwArmed c 0) = 0 ∧ u.reg (.vecwPend c 0) = 0 ∧ u.reg (.vmapMap c 0) = 0 ∧ u.mem = s.mem)) ∧
  (∀ s : State, exec .pfFlr s = .next s.packageReset ∧ s.packageReset.regs = [] ∧ s.packageReset.mem = [] ∧ s.packageReset.pending = s.pending) ∧
  (∀ s : State, ∃ u : State, exec .hotReset s = .next (u.endReads fun _ => true) ∧ (∀ f, f < 17 → u.fnOf f = FnState.fresh) ∧ u.fld .ioPcieStat .LINK_UP = 0 ∧
    u.fld .ioPcieStat .LANES = 0 ∧ u.hostReads = s.hostReads) ∧
  (∀ (rate : Fin 6) (lanes : Fin 16) (flit : Bool) (s : State), let w := lanes.val + 1
    ((flit = false ∨ w ∉ [1, 2, 4, 8, 16]) → exec (.pcieLinkUp rate lanes flit) s = .next s) ∧
    (flit = true → w ∈ [1, 2, 4, 8, 16] → ∃ t, exec (.pcieLinkUp rate lanes flit) s = .next t ∧ t.flag .ioPcieStat .LINK_UP = true ∧
      t.fld .ioPcieStat .LANES = w ∧ t.fld .ioPcieStat .RATE = rate.val + 1 ∧ (t.flag .ioPcieStat .DEGRADED = true ↔ w < 16 ∨ rate.val < 5))) ∧
  (∀ (f : FnId) (s : State), let u := fun d => s.setFn f { s.fnOf f with d3 := d }
    exec (.powerStateChange f true) s = .next ((u true).endReads fun c => f.val = 0 || f.val = c + 1) ∧
    (f.val ≠ 0 → exec (.powerStateChange f false) s = .next ((u false).sendHeld f)) ∧
    (f.val = 0 → exec (.powerStateChange f false) s = .next ((List.range 17).foldl State.sendHeld (u false)))) ∧
  ∀ (on : Bool) (s : State), ∃ t, exec (.vfEnable on) s = .next t ∧ ∀ c : Nat, c < 16 → (t.fnOf (c + 1)).enabled = on ∧
    ((s.fnOf (c + 1)).enabled = true → on = false → t.fnOf (c + 1) = FnState.fresh ∧ t.reg (.vecwArmed c 0) = 0 ∧ t.reg (.vecwArmed c 1) = 0)

/-- POWER_GOOD of a package not held in reset begins step 0 on a package reset: with no firmware its outcome is 1, with an
unreadable store 2, else the firmware version is shown and the boot counted. PACKAGE_RESET leaves reset values, but keeps the
queue, the store, the straps and what was sent. RUNLIM_WRITE: before step 1 a field not written before takes its value where
every value is within the variant; a zero or larger limit sets CFG_ERR; a field written before, or late, is a violation. A step
command begins the step after the last passed, while none runs, else ORDER_ERR. LIMITS ends with 0 or 3; POWER with 0 if PWR is
locked and both caps set, else 4; MEMTEST clears memory and lists its failures; UNITTEST lists its failures and ends with 6 if a
unit without a spare failed; MAP gives logical units 0 upwards the healthy physical ones and ends with 7 if a row or bank is
short; KAT without mismatch ends with 0, or with 9 on a full list; PORTS waits for ports in training. FOUND arms on an anchor
candidate. STEP_DONE ends the running step with its outcome: PASSED or FAILED; STEP_TIMEOUT at its limit fails a step from 3 on
with 5, if PORTS has not just ended. A unit is listed once. -/
def Obligations.StartUp : Prop :=
  (∀ (fw : Option W64) (store straps : Bool) (s : State),
    (s.heldInReset = true → exec (.powerGood fw store straps) s = .next s) ∧
    (s.heldInReset = false → ∃ t, exec (.powerGood fw store straps) s = .next t ∧ t.fld .startStat .STATE = 1 ∧ t.fld .startStat .STEP = 0 ∧
      t.pending = s.pending ∧ t.mem = [] ∧ t.straps = (if straps then some s.rack.place else none) ∧
      (fw = none → t.start.outcome = 1) ∧ (∀ v, fw = some v → t.reg .stwFwVersion = v ∧
        (store = false → t.start.outcome = 2) ∧ (store = true → t.start.outcome = 0 ∧ t.perm.boots = s.packageReset.perm.boots + 1 ∧ t.reg .idVariant = variantWord)))) ∧
  (∀ s : State, ∃ t, exec .packageReset s = .next t ∧ t.regs = [] ∧ t.mem = [] ∧ t.time = 0 ∧ t.pending = s.pending ∧ t.straps = s.straps ∧
    t.outbox = s.outbox ∧ (s.start.commit = none → t.perm = s.perm) ∧
    (∀ r, s.start.commit = some r → t.perm = s.perm ∨ t.perm = { s.perm with record := some r })) ∧
  (∀ (mhz : BitVec 12) (sust peak : W16) (s : State),
    let goes := exec (.runlimWrite mhz sust peak) s
    let late := fun (f : FName) => 1 ≤ s.fld .startStat .STEP ∨ s.fld .startRunlim f ≠ 0
    let any := late .TILE_MHZ ∨ late .SUSTAINED_W ∨ late .PEAK_W
    let all := late .TILE_MHZ ∧ late .SUSTAINED_W ∧ late .PEAK_W
    let bad := mhz = 0 ∨ sust = 0 ∨ peak = 0 ∨ s.fld .idVariant .TILE_MHZ < mhz.toNat ∨ s.fld .idVariant .SUSTAINED_W < sust.toNat ∨
      s.fld .idVariant .PEAK_W < peak.toNat
    ∃ t, goes = .next t ∧ (any → t.flag .idStatus .WO_VIOLATION = true) ∧
      (all → t.reg .startRunlim = s.reg .startRunlim) ∧
      (¬ all → bad → t.flag .startStat .CFG_ERR = true ∧ t.reg .startRunlim = s.reg .startRunlim) ∧
      (¬ all → ¬ bad → ∀ (f : FName) (v : Nat), (f, v) ∈ [(FName.TILE_MHZ, mhz.toNat), (.SUSTAINED_W, sust.toNat), (.PEAK_W, peak.toNat)] →
        (late f → t.fld .startRunlim f = s.fld .startRunlim f) ∧ (¬ late f → t.fld .startRunlim f = v))) ∧
  (∀ (s : State) (ok other : Bool) (ms : List MemFailure) (us : List PhysUnit) (ks : List KatRound) (c : Instr) (k : Nat),
    (c, k) ∈ [(.startLimits ok, 1), (.startPower, 2), (.startMemtest ms, 3), (.startUnittest us other, 4), (.startMap, 5), (.startKat ks, 6), (.startPorts, 7)] →
    (s.stepNext k = false → ∃ t, exec c s = .next t ∧ t.flag .startStat .ORDER_ERR = true ∧ t.start = s.start ∧ t.perm = s.perm) ∧
    (s.stepNext k = true → ∃ t, exec c s = .next t ∧ t.fld .startStat .STATE = 1 ∧ t.fld .startStat .STEP = k ∧ t.start.passed = s.start.passed ∧
      (k = 1 → t.start.outcome = if ok then 0 else 3) ∧
      (k = 1 → ok = true →
        (let lim := fun (f : FName) => if s.fld .startRunlim f = 0 then s.fld .idVariant f else s.fld .startRunlim f
         t.start.limits = some (lim .TILE_MHZ, lim .SUSTAINED_W, lim .PEAK_W)) ∧ t.power.refDue = true) ∧
      (k = 2 → t.start.outcome = if s.flag .pwrCtrl .LOCK ∧ s.fld .pwrCap .PEAK_W ≠ 0 ∧ s.fld .pwrCap .SUST_W ≠ 0 then 0 else 4) ∧
      (k = 3 → t.mem = [] ∧ t.poison = [] ∧ t.start.outcome = 0 ∧ t.perm.defects = (ms.foldl State.listMem s).perm.defects) ∧
      (k = 4 → t.perm.defects = (us.foldl State.listUnit s).perm.defects ∧ t.start.outcome = if other then 6 else 0) ∧
      (k = 5 → ∀ tile unit : Nat, tile < 32 → unit < 16 → t.physOf 1 tile unit = (s.healthy 1 tile 17).getD unit 63) ∧
      (k = 5 → t.start.outcome = if (List.range 32).any fun tile => s.rowsShort tile ≠ 0 || (s.mapBanks tile).2 ≠ 0 then 7 else 0) ∧
      (k = 6 → ks = [] → t.start.outcome = if 4096 ≤ s.perm.defects.length then 9 else 0) ∧
      (k = 7 → t.start.outcome = 0))) ∧
  (∀ (s : State) (kind origin tile loc : Nat) (z : Bool), let e := defectEntry kind origin z s.perm.boots.toNat tile loc
    let t := s.list kind origin z tile loc
    ((∃ d ∈ s.perm.defects, defectKey d = defectKey e) → t = s) ∧ (4096 ≤ s.perm.defects.length → t = s) ∧
    (s.perm.defects.length < 4096 → (∀ d ∈ s.perm.defects, defectKey d ≠ defectKey e) → t.perm.defects = s.perm.defects ++ [e])) ∧
  (∀ s : State, ∃ t, exec .startFound s = .next t ∧
    (s.flag .idPosition .RECORD_VALID = true → s.myRank.isSome = true → t.flag .startStat .FOUND_ARMED = true) ∧
    (s.flag .idPosition .RECORD_VALID = false ∨ s.myRank = none → t.flag .startStat .ORDER_ERR = true)) ∧
  ∀ s : State, let k := s.fld .startStat .STEP
    let runs := s.fld .startStat .STATE = 1
    (¬ runs ∨ 7 < k ∨ (k = 7 ∧ s.portsTrain = true) → exec .startStepDone s = .next s) ∧
    let due := s.start.since + s.stepLimit k ≤ s.time
    (¬ runs ∨ 7 < k ∨ k < 3 ∨ ¬ due → exec .startStepTimeout s = .next s) ∧
    (runs → k = 7 → due → s.portsTrain = false → exec .startStepTimeout s = exec .startStepDone s) ∧
    (runs → k ≤ 7 → (k = 7 → s.portsTrain = false) →
      (s.start.outcome = 0 → ∃ t, exec .startStepDone s = .next t ∧ t.start.passed = some k ∧ t.fld .startStat .STATE = 2) ∧
      (s.start.outcome ≠ 0 → s.start.outcome < 16 → ∃ t, exec .startStepDone s = .next t ∧ t.start.passed = s.start.passed ∧ t.fld .startStat .STATE = 3 ∧
        t.fld .startStat .CAUSE = s.start.outcome)) ∧
    (runs → 3 ≤ k → k ≤ 7 → due → (k = 7 → s.portsTrain = true) → ∃ t, exec .startStepTimeout s = .next t ∧ t.fld .startStat .STATE = 3 ∧ t.fld .startStat .CAUSE = 5 ∧
      t.start.passed = s.start.passed)

/-- A context fault with none recorded fills CTXF; with one recorded MERGED moves, and a lower cause of the same cycle takes its
place. In a context whose STATE is IDLE, while the package has not failed, it starts the reset: STATE RESETTING, all units
pending, ARM 0, its reservation requests gone. CONTEXT_RESET_REQUEST is a fault of cause 0x11, without effect during a reset.
RESET_UNIT_STOPPED of a pending unit stops its part and clears its PENDING bit; the cores it stops are FAULTED with empty
queues. CONTEXT_RESET_DONE with no unit pending makes STATE IDLE, counts RESETS and shows LAST_US. The first package failure
stands: READY falls and the TMC is told; a reset 20 ms old and an error in a shared unit are such failures. PROGRESS_INTERVAL
while the stroke does not run RUNNING, PERIOD_US after the last sample, samples every watch: one whose counter did not move has
stayed one stroke more, another starts anew. A hang is kept in CTXH.HANG if none is, and faults its context with cause 0x0F or
0x10. A PROBE that comes home to its closed context declares a hang, one on its way is sent on once, with a hop more. -/
def Obligations.FaultsResetsAndHangs : Prop :=
  (∀ (c : Ctx) (cause engine tile unit arg : Nat) (s : State), cause < 256 → engine < 256 → tile < 256 → unit < 65536 → arg < 2 ^ 32 →
    let t := s.contextFault c cause engine tile unit arg
    (s.flag (.ctxfCause c) .VALID = false → t.flag (.ctxfCause c) .VALID = true ∧ t.fld (.ctxfCause c) .CAUSE = cause ∧ t.fld (.ctxfCause c) .MERGED = 0 ∧
      t.fld (.ctxfCause c) .STROKE_LO = s.countLo ∧ t.fld (.ctxfDetail c) .ENGINE = engine ∧ t.fld (.ctxfDetail c) .TILE = tile ∧
      t.fld (.ctxfDetail c) .UNIT = unit ∧ t.fld (.ctxfDetail c) .ARG = arg) ∧
    (s.flag (.ctxfCause c) .VALID = true → let lower := (s.context c).faultAt = some s.time ∧ cause < s.fld (.ctxfCause c) .CAUSE
      t.flag (.ctxfCause c) .VALID = true ∧ t.fld (.ctxfCause c) .MERGED = min (s.fld (.ctxfCause c) .MERGED + 1) (2 ^ 15 - 1) ∧
      (¬ lower → t.fld (.ctxfCause c) .CAUSE = s.fld (.ctxfCause c) .CAUSE ∧ t.reg (.ctxfDetail c) = s.reg (.ctxfDetail c)) ∧
      (lower → t.fld (.ctxfCause c) .CAUSE = cause ∧ t.fld (.ctxfDetail c) .ENGINE = engine ∧ t.fld (.ctxfDetail c) .TILE = tile ∧
        t.fld (.ctxfDetail c) .UNIT = unit ∧ t.fld (.ctxfDetail c) .ARG = arg)) ∧
    (s.ctxLive c = true → t.fld (.ctxrCtrl c) .STATE = 1 ∧ t.fld (.ctxrPending c) .UNITS = 0xFF ∧ t.flag (.strokeImage c) .ARM = false ∧
      (t.context c).resetStart = s.time ∧ t.poolQ = s.poolQ.filter fun q => q.ctx ≠ c.val) ∧
    (s.ctxLive c = false → t.reg (.ctxrCtrl c) = s.reg (.ctxrCtrl c) ∧ t.reg (.ctxrPending c) = s.reg (.ctxrPending c) ∧ t.nib = s.nib) ∧ t.mem = s.mem) ∧
  (∀ (c : Ctx) (s : State),
    exec (.contextResetRequest c) s = (if s.fld (.ctxrCtrl c) .STATE = 1 then .next s else .next (s.contextFault c 0x11 0xFF 0xFF 0xFFFF 0)) ∧
    (s.fld (.ctxrCtrl c) .STATE ≠ 1 ∨ s.fld (.ctxrPending c) .UNITS ≠ 0 → exec (.contextResetDone c) s = .next s) ∧
    (s.fld (.ctxrCtrl c) .STATE = 1 → s.fld (.ctxrPending c) .UNITS = 0 → ∃ t, exec (.contextResetDone c) s = .next t ∧ t.fld (.ctxrCtrl c) .STATE = 0 ∧
      t.fld (.ctxrTime c) .RESETS = (s.fld (.ctxrTime c) .RESETS + 1) % 2 ^ 32 ∧
      t.fld (.ctxrTime c) .LAST_US = (s.time - (s.context c).resetStart) / 100 % 2 ^ 32 ∧ t.mem = s.mem) ∧
    exec (.resetDeadline c) s = (if s.fld (.ctxrCtrl c) .STATE = 1 ∧ (s.context c).resetStart + 2000000 ≤ s.time
      then .next (s.packageFailure 1 c (s.fld (.ctxrPending c) .UNITS)) else .next s)) ∧
  (∀ (c : Ctx) (unit : Fin 8) (drained : List (BitVec 9 × W32)) (s : State),
    let waits := s.fld (.ctxrCtrl c) .STATE = 1 ∧ (s.fld (.ctxrPending c) .UNITS).testBit unit = true
    let done := fun (u : State) => exec (.resetUnitStopped c unit drained) s = .next (u.setRegBit (.ctxrPending c) unit false)
    (¬ waits → exec (.resetUnitStopped c unit drained) s = .next s) ∧
    (waits → (unit = 0 → done ((s.stopCores c).abortRecords c)) ∧ (unit = 1 → done (s.stopArrays c (drained.map fun (d : BitVec 9 × W32) => (d.1.toNat, d.2.toNat)))) ∧
      (unit = 2 → done (s.stopFeeds c)) ∧ (unit = 3 → done (s.stopFilets c)) ∧ (unit = 4 → done (s.stopFolios c)) ∧ (unit = 5 → done (s.stopLinks c)) ∧
      (unit = 6 → done (s.stopHarts c)) ∧ (unit = 7 → done (s.stopHost c))) ∧
    (∀ u : State, (u.setRegBit (.ctxrPending c) unit false).fld (.ctxrPending c) .UNITS = u.fld (.ctxrPending c) .UNITS &&& (0xFF ^^^ 2 ^ unit.val)) ∧
    (smWf (fun _ => NibCore.off) s.nib = true → ∀ n, n < 256 → s.coreCtx n = some c.val → s.core n ≠ NibCore.off → (s.core n).st ≠ .failed → (s.core n).st ≠ .disabled →
      let k := (s.stopCores c).core n
      k.st = .faulted ∧ k.imageQ = [] ∧ k.postQ = [] ∧ k.run = none ∧ k.stores = [] ∧ k.wait = .none ∧ k.s = (s.core n).s) ∧
    (∀ e ∈ (s.stopHost c).hostReads, e.ctx ≠ c.val ∨ ∃ a n d ok, e.reader = .bar a n d ok) ∧ (∀ r ∈ (s.stopLinks c).slots, r.ctx ≠ c.val)) ∧
  (∀ (s : State) (cause ctx units : Nat), (s.failed = true → s.packageFailure cause ctx units = s) ∧
    (s.failed = false → (s.packageFailure cause ctx units).flag .startStat .READY = false ∧
      ∃ l w, (s.packageFailure cause ctx units).outbox = l ++ [.toTmc 0x04 [w]]) ∧
    exec .sharedUnitError s = .next (s.packageFailure 3 0 0)) ∧
  (∀ s : State, (s.strokeState = 2 ∨ s.time < s.sampledAt + 100 * s.periodUs → exec .progressInterval s = .next s) ∧
    (s.strokeState ≠ 2 → s.sampledAt + 100 * s.periodUs ≤ s.time → (∀ x ∈ s.nextWatches, x.strokes < s.window x.obj.ctx) →
      ∃ t, exec .progressInterval s = .next t ∧ { t with watches := s.watches, sampledAt := s.sampledAt } = s ∧ t.sampledAt = s.time ∧
      ∀ w ∈ s.watched, ∃ x ∈ t.watches, x.obj = w ∧ x.value = s.progressOf w ∧
        x.strokes = (match s.watches.find? (fun y => y.obj = w) with
          | some y => if y.value = s.progressOf w then y.strokes + 1 else 0
          | none => 0)) ∧
    (s.strokeState ≠ 2 → s.sampledAt + 100 * s.periodUs ≤ s.time → ∀ x, s.nextWatches.filter (fun y => s.window y.obj.ctx ≤ y.strokes) = [x] →
      (s.ctxLive x.obj.ctx = true ∨ s.resetsNow x.obj.ctx = true →
        exec .progressInterval s = .next ({ s with watches := s.nextWatches, sampledAt := s.time }.declareHang x.obj false 0)) ∧
      (s.ctxLive x.obj.ctx = false → s.resetsNow x.obj.ctx = false → exec .progressInterval s = .next { s with watches := s.nextWatches, sampledAt := s.time }))) ∧
  (∀ (s : State) (w : Watched) (waitfor : Bool) (arg : Nat), w.ctx < 16 → w.kind < 8 → arg < 2 → let r := Reg.ctxhHang w.ctx
    let t := s.declareHang w waitfor arg
    (s.flag r .VALID = false → t.flag r .VALID = true ∧ t.flag r .WAITFOR = waitfor ∧ t.fld r .KIND = w.kind) ∧ (s.flag r .VALID = true → t.reg r = s.reg r) ∧
    (s.flag (.ctxfCause w.ctx) .VALID = false → t.fld (.ctxfCause w.ctx) .CAUSE = (if waitfor then 0x10 else 0x0F) ∧
      t.fld (.ctxfDetail w.ctx) .ARG = if waitfor then arg else w.kind)) ∧
  ∀ (p : PortId) (o : ProbeOrigin) (htag pid hops : W16) (s : State),
    let i : ProbeId := { x := o.x.toNat, y := o.y.toNat, ctx := o.ctx, pid := pid.toNat }
    let goes := exec (.probe p o htag pid hops) s
    let home := i.x = s.myX ∧ i.y = s.myY
    (s.live p = false ∨ s.canSymbol p = false → goes = .next s) ∧
    (s.live p = true → s.canSymbol p = true → home → ((s.closedOf i.ctx).out ≠ some i.pid ∨ s.isClosed i.ctx = false → goes = .next s) ∧
      ((s.closedOf i.ctx).out = some i.pid → s.isClosed i.ctx = true → ∀ w l, s.blockedOn i.ctx = w :: l → ∃ t, goes = .next t ∧
        t.regs = (s.declareHang w true 1).regs ∧ (t.closedOf i.ctx).out = none)) ∧
    (s.live p = true → s.canSymbol p = true → ¬ home →
      (s.probeContext p htag.toNat = none → goes = .next s) ∧
      ∀ c, s.probeContext p htag.toNat = some c →
        (s.isClosed c = false ∨ hops = 0xFFFF ∨ i ∈ s.probes → goes = .next s) ∧
        (s.isClosed c = true → hops ≠ 0xFFFF → i ∉ s.probes → ∃ t : State, goes = .next (t.sendProbe c i (hops.toNat + 1)) ∧ i ∈ t.probes ∧ t.outbox = s.outbox ∧
          t.probes.length ≤ max 64 s.probes.length))

/-- POWER_TICK with activity n: the estimate is the weighted events plus static power, at most 65,535 W; PWR.EST shows it in
whole watts; the index Q goes to the least index whose predicted power fits the least allowed term when that is higher, to 75 if
none fits, and falls by one when it is lower; LEVELS and GATE follow Q, 15 index steps a class and above 60 for the gate;
CAP_UNMET is set if none fits. A context whose class is throttled in the tick counts it. POWER_LOCK stores DROOP_MV while
unlocked and locks; on a locked block a change sets WO_VIOLATION. CAP_WRITE stores caps within 500 W and the run limits, else
CFG_ERR. DROOP_DETECT counts an event and stretches the tile, DROOP_END counts at least 32 cycles and ends it. JUNCTION_SAMPLE
of 147 points shows the hottest and its number; two samples in a row at 115 C shut the package down, once. THERMAL_CAP_UPDATE at
100 C or above lowers the cap by 2 %, to 500 W at least, and raises THERMAL at the first; after samples below 97 C it rises 1 %,
until it is none. -/
def Obligations.PowerController : Prop :=
  (∀ (n : TickCounts) (s : State), let q := s.fld .pwrState .Q
    let fixed := s.countersPower n fixedCounters
    let u := (List.range 4).map fun k => unthrottled (s.classPower n k) (classLevel q k)
    let ug := unthrottled (s.countersPower n gatedCounters) (gateLevel q)
    s.estimate n = min (((List.range 4).map (s.classPower n)).sum + s.eventPower 4 n.ballast.sum + s.countersPower n gatedCounters +
      fixed + s.countersPower n spareCounters + s.staticPower) (65535 * wattUnits) ∧
    ∃ t, exec (.powerTick n) s = .next t ∧ t.fld .pwrEst .TICK_W = s.estimate n / wattUnits ∧
      (let a := leastTerm ((s.power.record (s.estimate n) (s.staticPower + fixed + u.sum + ug)).fall s.peakCap s.sustCap).terms
       let fit := fun (i : Nat) => ((predicted s.staticPower fixed u ug i : Nat) : Int) ≤ a
       (q ≤ 75 → (∀ i, i ≤ 75 → ¬ fit i) → t.fld .pwrState .Q = 75 ∧ t.flag .pwrStatus .CAP_UNMET = true) ∧
       ∀ m, m ≤ 75 → q ≤ 75 → fit m → (∀ i, i < m → ¬ fit i) → (q ≤ m → t.fld .pwrState .Q = m) ∧ (m < q → t.fld .pwrState .Q = q - 1)) ∧
      (t.fld .pwrState .Q ≤ 75 ∨ 75 < q) ∧
      (let q1 := t.fld .pwrState .Q
       q1 ≤ 75 → t.fld .pwrState .GATE = gateLevel q1 ∧ ∀ k, k < 4 → bits (t.reg .pwrState) (4 * k + 3) (4 * k) = min (q1 - 15 * k) 15) ∧
      (∀ c : Nat, c < 16 → t.fld (.pwrwTicks c) .CLASS = (s.fld (.pwrwTicks c) .CLASS + if classLevel q (s.powerClass c) ≠ 0 then 1 else 0) % 2 ^ 32) ∧
      t.power.energy = s.power.energy + s.estimate n ∧ t.mem = s.mem) ∧
  (∀ (droop : Byte) (s : State),
    (s.flag .pwrCtrl .LOCK = false → ∃ t, exec (.powerLock droop) s = .next t ∧ t.fld .pwrCtrl .DROOP_MV = droop.toNat ∧ t.flag .pwrCtrl .LOCK = true) ∧
    (s.flag .pwrCtrl .LOCK = true → ∃ t, exec (.powerLock droop) s = .next t ∧ t.fld .pwrCtrl .DROOP_MV = s.fld .pwrCtrl .DROOP_MV ∧
      t.flag .pwrCtrl .LOCK = true ∧ (s.fld .pwrCtrl .DROOP_MV ≠ droop.toNat → t.flag .pwrStatus .WO_VIOLATION = true))) ∧
  (∀ (peak sust : W16) (s : State), let ok := 500 ≤ peak.toNat ∧ peak.toNat ≤ s.limits.2.2 ∧ 500 ≤ sust.toNat ∧ sust.toNat ≤ s.limits.2.1
    (ok → ∃ t, exec (.capWrite peak sust) s = .next t ∧ t.fld .pwrCap .PEAK_W = peak.toNat ∧ t.fld .pwrCap .SUST_W = sust.toNat) ∧
    (¬ ok → ∃ t, exec (.capWrite peak sust) s = .next t ∧ t.reg .pwrCap = s.reg .pwrCap ∧ t.flag .pwrStatus .CFG_ERR = true)) ∧
  (∀ (t : TileId) (cycles : W32) (s : State), let r := Reg.pwrDroop t
    (t.val ∈ s.power.stretched → exec (.droopDetect t) s = .next s ∧ ∃ v, exec (.droopEnd t cycles) s = .next v ∧ t.val ∉ v.power.stretched ∧
      v.fld r .STRETCHED = min (s.fld r .STRETCHED + max 32 cycles.toNat) (2 ^ 32 - 1)) ∧
    (t.val ∉ s.power.stretched → exec (.droopEnd t cycles) s = .next s ∧ ∃ v, exec (.droopDetect t) s = .next v ∧ t.val ∈ v.power.stretched ∧
      v.fld r .EVENTS = min (s.fld r .EVENTS + 1) (2 ^ 32 - 1))) ∧
  (∀ (points : List W16) (s : State), (points.length ≠ 147 → exec (.junctionSample points) s = .next s) ∧
    (points.length = 147 → (∀ p ∈ points, p.toNat ≤ (hottest points).1) ∧ (∃ p, points[(hottest points).2]? = some p ∧ p.toNat = (hottest points).1) ∧
      let hot := if 920 ≤ (hottest points).1 then s.power.hot + 1 else 0
      (hot < 2 → ∃ t, exec (.junctionSample points) s = .next t ∧ t.fld .pwrTemp .H = (hottest points).1 ∧ t.fld .pwrTemp .SENSOR = (hottest points).2 ∧
        t.power.points = points ∧ t.power.hot = hot ∧ t.power.cool = (s.power.cool && decide ((hottest points).1 < 776))) ∧
      (2 ≤ hot → ∃ t : State, exec (.junctionSample points) s = .next t.shutdown ∧ t.fld .pwrTemp .H = (hottest points).1)) ∧
    (s.flag .pwrStatus .SHUTDOWN = true → s.shutdown = s) ∧
    (s.flag .pwrStatus .SHUTDOWN = false → s.shutdown.mem = [] ∧ ((s.setFlag .pwrStatus .SHUTDOWN true).pfEvent 7).packageFailure 4 0 0 =
      { s.shutdown with mem := (((s.setFlag .pwrStatus .SHUTDOWN true).pfEvent 7).packageFailure 4 0 0).mem, poison := (((s.setFlag .pwrStatus .SHUTDOWN true).pfEvent 7).packageFailure 4 0 0).poison, wellBad := (((s.setFlag .pwrStatus .SHUTDOWN true).pfEvent 7).packageFailure 4 0 0).wellBad, zmap := (((s.setFlag .pwrStatus .SHUTDOWN true).pfEvent 7).packageFailure 4 0 0).zmap, dir := (((s.setFlag .pwrStatus .SHUTDOWN true).pfEvent 7).packageFailure 4 0 0).dir })) ∧
  ∀ s : State, let h := s.fld .pwrTemp .H
    let peak := s.limits.2.2
    let c := s.power.tcap
    ∃ t, exec .thermalCapUpdate s = .next t ∧ t.power.cool = decide (h < 776) ∧
      (800 ≤ h → t.power.tcap = max 50000 ((if c = 0 then 100 * peak else c) - 2 * peak) ∧ (c = 0 → t.flag .pwrStatus .THERMAL = true)) ∧
      (h < 800 → (s.power.cool = false ∨ c = 0) → t.power.tcap = c) ∧
      (h < 800 → s.power.cool = true → c ≠ 0 → t.power.tcap = if 100 * peak ≤ c + peak then 0 else c + peak) ∧
      (t.power.tcap ≠ c → t.fld .pwrTemp .TCAP_W = t.power.tcap / 100 % 2 ^ 16)

/-- While the package is powered and out of reset: SET_MGMT takes newer caps, below 500 W as 500 W; GET_SENSORS, the endpoint
and version queries are answered; FW_CHUNK keeps a whole good image; TO_DRIVER fills the mailbox, BUSY while it is full.
Otherwise they change nothing. A running TMC grants its lease for 3 s to its holder, to RM-A in the millisecond of a grant to
RM-B, or where none holds it 500 ms after an expiry; another gets BUSY. A release, an expiry end it. Caps, fallback, cooling in
range, reset and recovery are commands of the holder alone, else BUSY. Sensors, power, ports, registers and log are read by
either. PORT_STATE, FAIL_REPORT and BOOT_STATUS are kept; a slot that does not answer is ABSENT. The watchdog opens the valve;
cooling sets it between the minimum and 100; the tenth excess in a row sets ESTIMATE_LOW. Two good shelves or fewer put the
fallback in force, one or none resets the tray until two have been back for 10 s; lost flow resets it too. A failed TMC does
nothing more; an opened power switch takes all away but its set points. -/
def Obligations.StewardAndTmc : Prop :=
  (∀ s : State,
    (s.stewardUp = false → (∀ p q h a n, exec (.setMgmt p q h a n) s = .next s) ∧ exec .getSensors s = .next s ∧ (∀ p l g, exec (.fwChunk p l g) s = .next s) ∧
      (∀ d, exec (.toDriver d) s = .next s) ∧ (∀ e, exec (.setEndpointId e) s = .next s) ∧ exec .getEndpointId s = .next s ∧
      exec .getMctpVersionSupport s = .next s ∧ exec .getMessageTypeSupport s = .next s) ∧
    (s.stewardUp = true →
      (∀ (peak sust : W16) (hold auto : Bool) (seq : W16), let newer := serialNewer seq.toNat (s.fld .pwrMgmt .SEQ)
        let cap := fun (w : W16) => if w = 0 then 0 else max w.toNat 500
        ∃ t, exec (.setMgmt peak sust hold auto seq) s = .next t ∧ t.flag .stwSb .AUTONOMOUS = auto ∧ t.fld .stwSb .LAST_SEQ = seq.toNat ∧
          (newer = true → t.fld .pwrMgmt .PEAK_W = cap peak ∧ t.fld .pwrMgmt .SUST_W = cap sust ∧ t.flag .pwrMgmt .HOLDOFF = hold ∧ t.fld .pwrMgmt .SEQ = seq.toNat) ∧
          (newer = false → t.reg .pwrMgmt = s.reg .pwrMgmt) ∧ t.outbox = s.outbox ++ [.stewardReply 0x01 [t.fld .pwrMgmt .SEQ]]) ∧
      (let l := ((List.range 147).map fun i => (s.power.points.getD i 0).toNat) ++ [(s.reg .pwrEst).toNat]
       let k := s.tmc s.rack.place.1
       exec .getSensors s = .next ((if k.up then s.setTmc s.rack.place.1 { k with points := smSet (fun _ => []) k.points s.rack.place.2 l } else s).send
         (.stewardReply 0x02 l))) ∧
      (∀ part good, exec (.fwChunk part false good) s = .next { s with stw := { s.stw with image := s.stw.image ++ part } }) ∧
      (∀ part good, ∃ t, exec (.fwChunk part true good) s = .next t ∧ t.stw.image = [] ∧
        t.perm.firmware = if good then some (s.stw.image ++ part) else s.perm.firmware) ∧
      (∀ data : List Byte, data.length ≤ 240 →
        (s.flag .stwMboxStat .FULL = true → exec (.toDriver data) s = .next (s.send (.stewardReply 0x07 [0x14]))) ∧
        (s.flag .stwMboxStat .FULL = false → ∃ t, exec (.toDriver data) s = .next t ∧ t.flag .stwMboxStat .FULL = true ∧ t.fld .stwMboxStat .LEN = data.length ∧
          .stewardReply 0x07 [0] ∈ t.outbox ∧ ∀ i, 8 * i + 8 ≤ data.length → t.reg (.stwMbox i) = BitVec.ofNat 64 (ofBytes ((data.drop (8 * i)).take 8)))) ∧
      (∀ eid, exec (.setEndpointId eid) s = .next ({ s with stw := { s.stw with eid := eid } }.send (.mctpReply 0x01 [eid.toNat]))) ∧
      exec .getEndpointId s = .next (s.send (.mctpReply 0x02 [s.stw.eid.toNat])) ∧
      (∃ v, exec .getMctpVersionSupport s = .next ((s.freeNat 32).2.send (.mctpReply 0x04 [v]))) ∧
      exec .getMessageTypeSupport s = .next (s.send (.mctpReply 0x05 [0x7F]))) ∧
    exec .packagePowerLoss s = .next { s.packageReset with rack := { s.packageReset.rack with unpowered := true } }) ∧
  (∀ (d : Datagram) (s : State), let k := s.tmc d.tray
    let mine := k.lease.holder = d.m.val + 1
    let busy : Out := .next (s.answer d 0x14 [])
    (k.up = false → ∀ c ∈ [Instr.leaseReq d, .leaseRenew d, .leaseRelease d, .readSensors d, .readPower d, .readPorts d], exec c s = .next s) ∧
    (k.up = true →
      (k.grants d.m s.rack.now = true → ∀ c ∈ [Instr.leaseReq d, .leaseRenew d],
        let s0 := if d.m = 0 ∧ k.lease.holder = 2 ∧ k.lease.since / 100000 = s.rack.now / 100000 then s.send (.tmcReply d.tray 1 k.lease.seq 0x14 []) else s
        let g := k.grant d.m s.rack.now d.seq.toNat
        exec c s = .next (((s0.setTmc d.tray g).answer d 0 []).checkActive d.m) ∧ g.lease.holder = d.m.val + 1 ∧ g.lease.expires = s.rack.now + 300000000 ∧
          g.lease.released = false ∧ g.lease.expired = none ∧ g.caps = k.caps) ∧
      (k.grants d.m s.rack.now = true ↔ mine ∨ (d.m = 0 ∧ k.lease.holder = 2 ∧ k.lease.since / 100000 = s.rack.now / 100000) ∨
        (k.lease.holder = 0 ∧ ∀ t, k.lease.expired = some t → t + 50000000 ≤ s.rack.now)) ∧
      (k.grants d.m s.rack.now = false → exec (.leaseReq d) s = busy ∧ exec (.leaseRenew d) s = busy) ∧
      (mine → ∃ t, exec (.leaseRelease d) s = .next t ∧ (t.tmc d.tray).lease = { Lease.none with expires := s.rack.now, released := true } ∧
        t.outbox = s.outbox ++ [.tmcReply d.tray d.m d.seq.toNat 0 []]) ∧
      (¬ mine → exec (.leaseRelease d) s = busy ∧ (∀ slot p q h, exec (.setCaps d slot p q h) s = busy) ∧ (∀ w, exec (.setFallback d w) s = busy) ∧
        (∀ a b, exec (.setCooling d a b) s = busy) ∧ (∀ i h, exec (.pkgReset d i h) s = busy) ∧ ∀ i p l, exec (.fwRecover d i p l) s = busy) ∧
      (mine →
        (∀ (i : SlotId) (p q : W16) (h : Bool), ∃ t, exec (.setCaps d (some i) p q h) s = .next t ∧ (t.tmc d.tray).capsOf i = { peak := p.toNat, sust := q.toNat, holdoff := h } ∧
          ∀ j, j ≠ i.val → (t.tmc d.tray).capsOf j = k.capsOf j) ∧
        (∀ (p q : W16) (h : Bool), ∃ t, exec (.setCaps d none p q h) s = .next t ∧ ∀ j, j < 4 → (t.tmc d.tray).capsOf j = { peak := p.toNat, sust := q.toNat, holdoff := h }) ∧
        (∀ w : W16, exec (.setFallback d w) s = .next ((s.setTmc d.tray { k with fallback := w.toNat }).answer d 0 [])) ∧
        (∀ a b : Byte, (40 ≤ a.toNat ∧ a.toNat ≤ 55 ∧ 20 ≤ b.toNat ∧ b.toNat ≤ 100) →
          exec (.setCooling d a b) s = .next ((s.setTmc d.tray { k with target := a.toNat, minPct := b.toNat }).answer d 0 [])) ∧
        (∀ a b : Byte, ¬ (40 ≤ a.toNat ∧ a.toNat ≤ 55 ∧ 20 ≤ b.toNat ∧ b.toNat ≤ 100) → ∃ st, exec (.setCooling d a b) s = .next ((s.freeNat 8).2.answer d st [])) ∧
        (∀ (i : SlotId) (h : Bool), s.rack.place ≠ (d.tray.val, i.val) → ∃ t, exec (.pkgReset d i h) s = .next t ∧ (t.tmc d.tray).heldBy.testBit i = h ∧
          (h = true → t.outbox = s.outbox ++ [.resetLine d.tray i true, .tmcReply d.tray d.m d.seq.toNat 0 []])) ∧
        ∀ i part last, exec (.fwRecover d i part last) s =
          .next ((s.send (.toSteward d.tray i 0x06 ((if last then 1 else 0) :: part.map (·.toNat)))).answer d 0 [])) ∧
      exec (.readSensors d) s = .next (s.answer d 0 (k.sensors ++ [k.valve, k.shelfGood] ++ (List.range 4).flatMap fun i => smGet (fun _ => []) k.points i)) ∧
      exec (.readPower d) s = .next (s.answer d 0 ((List.range 4).flatMap fun i => let r := smGet (fun _ => PowerReport.zero) k.reports i
        [r.mean, r.largest, r.estimate])) ∧
      exec (.readPorts d) s = .next (s.answer d 0 ((List.range 64).flatMap fun i => let r := smGet (fun _ => (0, 0)) k.ports i
        [r.1, r.2])) ∧
      exec (.readReg d 0x00) s = .next (s.answer d 0 [k.leaseWord s.rack.now]) ∧ exec (.readReg d 0x08) s = .next (s.answer d 0 [k.fallback]) ∧
      exec (.readReg d 0x10) s = .next (s.answer d 0 [k.target <<< 16 ||| k.minPct <<< 8 ||| k.valve]) ∧ exec (.readReg d 0x18) s = .next (s.answer d 0 [k.statusWord]) ∧
      ∀ i, exec (.readLog d i) s = .next (s.answer d 0 ((k.log.drop i).flatMap fun (e : Nat × Nat) => [e.1, e.2])))) ∧
  ∀ (t : TrayId) (s : State), let k := s.tmc t
    (k.up = false → exec (.leaseExpiry t) s = .next s ∧ exec (.tmcWatchdog t) s = .next s ∧ exec (.shelfResetRelease t) s = .next s ∧ exec (.flowLost t) s = .next s ∧
      (∀ l, exec (.shelfGoodChange t l) s = .next s) ∧ (∀ i p a b, exec (.portState t i p a b) s = .next s) ∧ ∀ l, exec (.coolingRegulation t l) s = .next s) ∧
    (k.up = true →
      (k.lease.holder ≠ 0 → k.lease.expires ≤ s.rack.now → ∃ v, exec (.leaseExpiry t) s = .next v ∧
        (v.tmc t).lease = { Lease.none with expires := s.rack.now, expired := some s.rack.now }) ∧
      ((k.lease.holder = 0 ∨ s.rack.now < k.lease.expires) → exec (.leaseExpiry t) s = .next s) ∧
      (∀ (i : SlotId) (p : PortId) (a : BitVec 3) (b : Byte), ∃ v, exec (.portState t i p a b) s = .next v ∧ smGet (fun _ => (0, 0)) (v.tmc t).ports (16 * i + p) = (a.toNat, b.toNat)) ∧
      (∀ (i : SlotId) w, ∃ v, exec (.failReport t i w) s = .next v ∧ smGet (fun _ => 0) (v.tmc t).fails i = w) ∧
      (∀ (i : SlotId) w, ∃ v, exec (.bootStatus t i w) s = .next v ∧ smGet (fun _ => 0) (v.tmc t).boots i = w) ∧
      (∀ (i : SlotId) ans eid, ∃ v, exec (.i3cEnumeration t i ans eid) s = .next v ∧ ((v.tmc t).absent.testBit i = !ans) ∧
        (ans = true → s.rack.place = (t.val, i.val) → s.stewardUp = true → v.flag .stwSb .TMC_UP = true ∧ v.stw.eid = eid)) ∧
      (∃ v, exec (.tmcWatchdog t) s = .next v ∧ (v.tmc t).valve = 100 ∧ (v.tmc t).watchdog = true ∧ (v.tmc t).log = k.log ++ [(s.rack.now, 1)] ∧ (v.tmc t).lease = k.lease) ∧
      (∀ l : List W16, k.minPct ≤ 100 → ∃ v, exec (.coolingRegulation t l) s = .next v ∧ (v.tmc t).sensors = l.map (·.toNat) ∧ k.minPct ≤ (v.tmc t).valve ∧ (v.tmc t).valve ≤ 100) ∧
      (∀ (i : SlotId) (m l e : W16), let r := smGet (fun _ => PowerReport.zero) k.reports i
        let run := if 40 * e.toNat + 3 * sustainedW < 40 * m.toNat then r.run + 1 else 0
        ∃ v, exec (.powerReport t i m l e) s = .next v ∧
          smGet (fun _ => PowerReport.zero) (v.tmc t).reports i = { mean := m.toNat, largest := l.toNat, estimate := e.toNat, run := run } ∧
          (run = 10 → (v.tmc t).estimateLow.testBit i = true) ∧ (run ≠ 10 → (v.tmc t).estimateLow = k.estimateLow)) ∧
      (∀ lines : BitVec 4, let n := goodShelves lines.toNat
        s.rack.place.1 ≠ t → ∃ v, exec (.shelfGoodChange t lines) s = .next v ∧ (v.tmc t).shelfGood = lines.toNat ∧ ((v.tmc t).fallbackOn = true ↔ n ≤ 2) ∧
          ((v.tmc t).heldShelf = true ↔ k.heldShelf = true ∨ n ≤ 1) ∧ (2 ≤ n → goodShelves k.shelfGood < 2 → (v.tmc t).goodSince = s.rack.now) ∧
          (n ≤ 1 → v.outbox = s.outbox ++ (List.range 4).map fun i => .resetLine t i true)) ∧
      (k.heldShelf = true → 2 ≤ goodShelves k.shelfGood → k.goodSince + 1000000000 ≤ s.rack.now → ∃ v, exec (.shelfResetRelease t) s = .next v ∧ (v.tmc t).heldShelf = false ∧
        ∀ i, i < 4 → k.heldBy.testBit i = false → .resetLine t i false ∈ v.outbox) ∧
      ((k.heldShelf = false ∨ goodShelves k.shelfGood < 2 ∨ s.rack.now < k.goodSince + 1000000000) → exec (.shelfResetRelease t) s = .next s) ∧
      (s.rack.place.1 ≠ t → ∃ v, exec (.flowLost t) s = .next v ∧ (v.tmc t).flowLost = true ∧ (v.tmc t).heldBy = 15 ∧
        v.outbox = s.outbox ++ (List.range 4).map fun i => .resetLine t i true)) ∧
    (∃ v, exec (.tmcFailure t) s = .next v ∧ (v.tmc t).up = false ∧ (v.tmc t).valve = 100) ∧
    (s.rack.place.1 ≠ t → ∀ fw store straps,
      (∃ v, exec (.trayPowerSwitch t false fw store straps) s = .next v ∧ v.tmc t = { Tmc.fresh with target := k.target, minPct := k.minPct, failed := k.failed, powered := false }) ∧
      (k.powered = true → exec (.trayPowerSwitch t true fw store straps) s = .next s) ∧
      (k.powered = false → ∃ v, exec (.trayPowerSwitch t true fw store straps) s = .next v ∧
        v.tmc t = { Tmc.fresh with target := k.target, minPct := k.minPct, failed := k.failed })) ∧
    (s.rack.place.1 = t → ∃ v, exec (.trayPowerSwitch t false none false false) s = .next v ∧ v.rack.unpowered = true ∧ v.mem = [] ∧ v.regs = [])

/-- A manager's heartbeat goes out on both paths every 250 ms; one heard is kept and ends a declared loss; with HANDOVER a
SYNCED standby requests every lease, as one does that has heard none for 1 s, or that starts with the rack, RM-B after 2 s.
Holding 7 leases makes it active; fewer for two renewals 1 s apart make it release them and stand by. A failed self-diagnosis
hands over to a fit standby, else raises an alarm; a path loss alarms both. A standby takes the active's configuration. A
switchover whose new active holds fewer than 7 leases after 2 s is reverted. Two good shelves or fewer put C2 in force, more end
it; a changed load rewrites every fallback. A transferred or swapped pump is duty. A GET of a resource not listed is 404, with a
query 501, without a session 401, else 200 and its contents. A change needs a session whose role may: set points are stored and
sent, out of range refused; resets are sent; a failover by one not active or without a fit standby is 409; sessions, accounts
and subscriptions change. HTTP codes beside 404, 409 and 501 are PRESUMED (log 90). -/
def Obligations.ManagersAndRedfish : Prop :=
  (∀ (m : RmId) (s : State), let k := s.rm m
    let n := (s.leasesOf m).length
    let h : Heard := { active := k.active, healthy := k.healthy, synced := k.synced, seq := k.seq, leases := n, handover := k.handover }
    let beat := ((s.setRm m { k with beatAt := some s.rack.now }).send (.heartbeat m 0 h)).send (.heartbeat m 1 h)
    let since := fun (at' : Option Nat) (gap : Nat) => ∀ t ∈ at', t + gap * 100000 ≤ s.rack.now
    let starts := k.cold = true ∧ (m = 0 ∨ 200000000 ≤ s.rack.now)
    (¬ since k.beatAt 250 → exec (.heartbeatTimer m) s = .next s) ∧
    (since k.beatAt 250 → (k.peerLost = true ∨ starts) → k.active = false → exec (.heartbeatTimer m) s = .next (beat.requestAll m)) ∧
    (since k.beatAt 250 → (k.peerLost = false ∧ ¬ starts) ∨ k.active = true → exec (.heartbeatTimer m) s = .next beat) ∧
    (s.requestAll m).outbox = s.outbox ++ (List.range 12).map (fun t => .datagram m t 0x01 []) ∧
    (∀ path (f : HeartbeatFields), let x : Heard := { active := f.active, healthy := f.healthy, synced := f.synced, seq := f.seq.toNat, leases := f.leases, handover := f.handover }
      let u := s.setRm m { k with heard := some x, heardAt := s.rack.now, cold := false, peerLost := false }
      exec (.heartbeat m path f) s = .next (if f.handover && !k.active && k.synced then u.requestAll m else u)) ∧
    (k.active = true ∨ s.rack.now < k.heardAt + 100000000 ∨ (k.cold = true ∧ ¬ starts) → exec (.activeLost m) s = .next s) ∧
    (k.active = false → k.heardAt + 100000000 ≤ s.rack.now → (k.cold = true → starts) → exec (.activeLost m) s = .next ((s.setRm m { k with peerLost := true }).requestAll m)) ∧
    (7 ≤ n → k.active = false → (((s.checkActive m).rm m).active = true ∧ ((s.checkActive m).rm m).synced = true)) ∧
    (n < 7 → s.checkActive m = s) ∧
    ((s.leasesOf m = [] ∧ k.active = false) ∨ ¬ since k.renewedAt 1000 → exec (.leaseRenewalTimer m) s = .next s) ∧
    (since k.renewedAt 1000 → (s.leasesOf m ≠ [] ∨ k.active = true) → n < 7 → k.short = true → ∃ t, exec (.leaseRenewalTimer m) s = .next t ∧ (t.rm m).active = false ∧
      ∀ i ∈ s.leasesOf m, .datagram m i 0x03 [] ∈ t.outbox) ∧
    (since k.renewedAt 1000 → (s.leasesOf m ≠ [] ∨ k.active = true) → (7 ≤ n ∨ k.short = false) → ∃ t, exec (.leaseRenewalTimer m) s = .next t ∧ ((t.rm m).short = true ↔ n < 7) ∧ (t.rm m).active = k.active ∧
      (∀ i ∈ s.leasesOf m, .datagram m i 0x02 [] ∈ t.outbox) ∧ (7 ≤ n → ∀ i, i < 12 → i ∉ s.leasesOf m → .datagram m i 0x01 [] ∈ t.outbox)) ∧
    (∀ ok, k.active = false → exec (.selfDiagnosis m ok) s = .next s) ∧
    (k.active = true → exec (.selfDiagnosis m true) s = .next (s.setRm m { k with healthy := true }) ∧
      ∃ t, exec (.selfDiagnosis m false) s = .next t ∧ (t.rm m).healthy = false ∧
        (s.standbyFit m = true → (t.rm m).active = false ∧ (t.rm m).handover = true ∧ (t.rm m).synced = true ∧ ∀ i, i < 12 → .datagram m i 0x03 [] ∈ t.outbox) ∧
        (s.standbyFit m = false → (t.rm m).active = true ∧ (t.rm m).alarm = true)) ∧
    (let other := s.rm (1 - m.val)
     ((k.active = true ∨ other.active = false) → exec (.resynchronisation m) s = .next s) ∧
     (k.active = false → other.active = true → exec (.resynchronisation m) s =
       .next (s.setRm m { k with cfg := other.cfg, seq := other.seq, synced := true, handover := false })))) ∧
  (∀ (path : Fin 2) (s : State), ∃ t, exec (.heartbeatPathLoss path) s = .next t ∧ (t.rm 0).alarm = true ∧ (t.rm 1).alarm = true ∧ t.activeRm = s.activeRm) ∧
  (∀ s : State, (s.rack.switchover = none → exec .failoverRevert s = .next s) ∧
    (∀ f : RmId, s.rack.switchover = some f.val → (7 ≤ (s.leasesOf (1 - f.val)).length ∨ s.rack.now < s.rack.switchAt + 200000000 → exec .failoverRevert s = .next s) ∧
      ((s.leasesOf (1 - f.val)).length < 7 → s.rack.switchAt + 200000000 ≤ s.rack.now → ∃ t, exec .failoverRevert s = .next t ∧ t.rack.switchover = none ∧ (t.rm (1 - f.val)).active = false ∧
        .event (.reverted ((List.range 12).filter fun i => !(s.leasesOf (1 - f.val)).contains i)) ∈ t.outbox ∧ ∀ i, i < 12 → .datagram f i 0x01 [] ∈ t.outbox)) ∧
    (∀ good, s.activeRm = none → exec (.shelfPoll good) s = .next s) ∧ (∀ w, s.activeRm = none → exec (.nplChange w) s = .next s) ∧
    (∀ m, s.activeRm = some m →
      (∀ good : BitVec 4, let low := decide (goodShelves good.toNat ≤ 2)
        (low = (s.rm m).cfg.capped → exec (.shelfPoll good) s = .next { s with rack := { s.rack with shelves := good.toNat } }) ∧
        (low ≠ (s.rm m).cfg.capped → ∃ t u : State, exec (.shelfPoll good) s = .next t ∧ t.rack.shelves = good.toNat ∧ (t.rm m).cfg.capped = low ∧ t = u.commandCaps m ∧ (u.rm m).cfg.capped = low)) ∧
      (∀ w : W16, ∃ t, exec (.nplChange w) s = .next t ∧ (t.rm m).cfg.npl = w.toNat ∧
        t.outbox = s.outbox ++ (List.range 12).map fun i => .datagram m i 0x11 [(72000 - w.toNat - 2000) / 48])) ∧
    (let p := 1 - s.rack.duty
     (∃ t, exec .pumpTransfer s = .next t ∧ t.rack.duty = p ∧ p ∈ t.rack.pumps) ∧ exec .pumpSwap s = .next { s with rack := { s.rack with duty := p, pumps := [p] } }) ∧
    ∃ t, exec .tankLevelAlarm s = .next t ∧ t.rack.tankAlarm = true) ∧
  ∀ (s : State) (token : Nat),
    let reply := fun (u : State) (status : Nat) (body : List Nat) => u.send (.redfish status body)
    let changes := fun (t : TrayId) (slot : SlotId) (w : W16) (g : Byte) => [Instr.pkgCapSetpoint token t slot w, .coolingSetpoint token t g, .cduSupplySetpoint token g,
      .processorReset token t slot true, .subscriptionChange token .create, .simpleUpdate token]
    (s.activeRm = none → (∀ r q, exec (.redfishGet token r q) s = .next s) ∧ ∀ t slot w g, ∀ c ∈ changes t slot w g, exec c s = .next s) ∧
    ∀ m, s.activeRm = some m → let c := (s.rm m).cfg
      (∀ q, exec (.redfishGet token .other q) s = .next (reply s 404 [])) ∧
      (∀ r, r ≠ .other → exec (.redfishGet token r true) s = .next (reply s 501 []) ∧
        (r = .root ∨ c.roleOf token ≠ none → exec (.redfishGet token r false) s = .next (reply s 200 (s.resource c r))) ∧
        (r ≠ .root → c.roleOf token = none → exec (.redfishGet token r false) s = .next (reply s 401 []))) ∧
      (c.roleOf token = none → ∀ t slot w g, ∀ i ∈ changes t slot w g, exec i s = .next (reply s 401 [])) ∧
      (c.roleOf token = some .readOnly → ∀ t slot w g, ∀ i ∈ changes t slot w g, exec i s = .next (reply s 403 [])) ∧
      (c.roleOf token = some .operator → ∀ op, exec (.accountChange token op) s = .next (reply s 403 [])) ∧
      (c.roleOf token = some .administrator →
        (∀ user role, ∃ t, exec (.accountChange token (.set user role)) s = .next t ∧ (t.rm m).cfg.accounts = (c.accounts.filter fun e => e.1 ≠ user) ++ [(user, role)]) ∧
        ∀ user, ∃ t, exec (.accountChange token (.delete user)) s = .next t ∧ ∀ e ∈ (t.rm m).cfg.accounts, e.1 ≠ user) ∧
      (∀ user ok, (ok = false ∨ (∀ e ∈ c.accounts, e.1 ≠ user) → exec (.sessionCreate (.create user ok)) s = .next (reply s 401 [])) ∧
        (ok = true → (∃ e ∈ c.accounts, e.1 = user) → ∃ t, exec (.sessionCreate (.create user ok)) s = .next t ∧ (t.rm m).cfg.sessions = c.sessions ++ [(c.nextToken, user)] ∧
          t.outbox = s.outbox ++ [.redfish 201 [c.nextToken]])) ∧
      (c.userOf token ≠ none → ∃ t, exec (.sessionCreate (.delete token)) s = .next t ∧ ∀ e ∈ (t.rm m).cfg.sessions, e.1 ≠ token) ∧
      (c.roleOf token = some .administrator ∨ c.roleOf token = some .operator →
        (∀ (t : TrayId) (slot : SlotId) (w : W16), ∃ v, exec (.pkgCapSetpoint token t slot w) s = .next v ∧ smGet (fun _ => 0) (v.rm m).cfg.setPoints (4 * t + slot) = w.toNat ∧
          v.outbox = s.outbox ++ [.datagram m t 0x10 ((v.rm m).cfg.commanded t slot), .redfish 200 []]) ∧
        (∀ (t : TrayId) (g : Byte), (g.toNat < 40 ∨ 55 < g.toNat → exec (.coolingSetpoint token t g) s = .next (reply s 400 [])) ∧
          (40 ≤ g.toNat → g.toNat ≤ 55 → ∃ v, exec (.coolingSetpoint token t g) s = .next v ∧ v.outbox = s.outbox ++ [.datagram m t 0x12 [g.toNat, (s.tmc t).minPct], .redfish 200 []])) ∧
        (∀ g : Byte, (g.toNat < 30 ∨ 40 < g.toNat → exec (.cduSupplySetpoint token g) s = .next (reply s 400 [])) ∧
          (30 ≤ g.toNat → g.toNat ≤ 40 → exec (.cduSupplySetpoint token g) s = .next (reply { s with rack := { s.rack with supply := g.toNat } } 200 []))) ∧
        (∀ (t : TrayId) (slot : SlotId), exec (.processorReset token t slot true) s = .next (reply (s.send (.datagram m t 0x13 [slot.val, 1])) 200 []) ∧
          exec (.processorReset token t slot false) s = .next (reply ((s.send (.datagram m t 0x13 [slot.val, 1])).send (.datagram m t 0x13 [slot.val, 0])) 200 [])) ∧
        (∀ r : RmId, exec (.managerReset token r) s = .next ((reply s 200 []).setRm r { Rm.fresh with cfg := (s.rm r).cfg, seq := (s.rm r).seq, heardAt := s.rack.now, cold := false })) ∧
        (∀ (r : RmId) e, (m ≠ r ∨ s.standbyFit r = false → exec (.forceFailover token r e) s = .next (reply s 409 []))) ∧
        (∀ r : RmId, m = r → s.standbyFit r = true → exec (.forceFailover token r true) s = .next ((reply s 202 []).send (.event (.reverted []))) ∧
          ∃ t, exec (.forceFailover token r false) s = .next t ∧ t.rack.switchover = some r.val ∧ t.rack.switchAt = s.rack.now ∧ (t.rm r).active = false ∧ (t.rm r).handover = true) ∧
        (∃ t, exec (.subscriptionChange token .create) s = .next t ∧ (t.rm m).cfg.subs = c.subs ++ [c.nextSub]) ∧
        (∀ n, ∃ t, exec (.subscriptionChange token (.delete n)) s = .next t ∧ n ∉ (t.rm m).cfg.subs) ∧
        ∃ t l, exec (.simpleUpdate token) s = .next t ∧ t.outbox = l ++ [.redfish 202 []])

/-- RECORD_COMMIT while a commit is in progress changes nothing, on an installed package it is a violation; otherwise the staged
record and position are judged: RESULT is the first check that fails, 2 for the format, 3 the extents, 4 the anchors, 5 the
position, 6 the straps, and nothing else changes; or BUSY is set and the record is to be written. RECORD_COMMIT_DONE without a
commit changes nothing; a store that fails gives RESULT 7 and writes nothing; else the record is in the permanent store, RESULT
is 1 and ID.POSITION shows the position, tray and slot. A switch tray takes a legal record once, and different hashes raise an
event; at power-on its path follows its record: none, loop for one rack in its direction, else optic. -/
def Obligations.InstallationRecord : Prop :=
  (∀ s : State, let r := s.staged
    let x := s.fld .recPos .X
    let y := s.fld .recPos .Y
    let k := commitCheck s.straps r x y
    (s.flag .recStatus .BUSY = true → exec .recordCommit s = .next s) ∧
    (s.flag .recStatus .BUSY = false → s.flag .idPosition .RECORD_VALID = true → ∃ t, exec .recordCommit s = .next t ∧ t.flag .idStatus .WO_VIOLATION = true ∧ t.start = s.start ∧ t.perm = s.perm) ∧
    (s.flag .recStatus .BUSY = false → s.flag .idPosition .RECORD_VALID = false →
      (k ≠ 0 → ∃ t, exec .recordCommit s = .next t ∧ t.fld .recStatus .RESULT = k ∧ t.start = s.start ∧ t.perm = s.perm) ∧
      (k = 0 → ∃ t, exec .recordCommit s = .next t ∧ t.flag .recStatus .BUSY = true ∧ t.start.commit = some (r, x, y) ∧ t.perm = s.perm)) ∧
    (s.start.commit = none → ∀ ok, exec (.recordCommitDone ok) s = .next s) ∧
    ∀ rec x y, s.start.commit = some (rec, x, y) →
      (∃ t, exec (.recordCommitDone false) s = .next t ∧ t.fld .recStatus .RESULT = 7 ∧ t.flag .recStatus .BUSY = false ∧ t.start.commit = none ∧ t.perm = s.perm) ∧
      ∃ t, exec (.recordCommitDone true) s = .next t ∧ t.fld .recStatus .RESULT = 1 ∧ t.flag .recStatus .BUSY = false ∧ t.start.commit = none ∧
        t.perm.record = some (rec, x, y) ∧ t.flag .idPosition .RECORD_VALID = true ∧ (x < 256 → y < 256 → t.fld .idPosition .X = x ∧ t.fld .idPosition .Y = y ∧
          t.fld .idPosition .TRAY = 2 * (y % 6) + x % 8 / 4 ∧ t.fld .idPosition .SLOT = x % 4)) ∧
  (∀ (straps : Option (Nat × Nat)) (r : List Byte) (x y : Nat), let k := commitCheck straps r x y
    (k = 2 ↔ recordFormatOk r = false) ∧ (k = 3 ↔ recordFormatOk r = true ∧ recordExtentOk r = false) ∧
    (k = 0 → r.length = 128 ∧ fieldAt r 0 4 = 0x4C545349 ∧ fieldAt r 4 2 = 1 ∧ (fieldAt r 0x10 1 + 1) % 8 = 0 ∧ (fieldAt r 0x11 1 + 1) % 6 = 0 ∧
      x ≤ fieldAt r 0x10 1 ∧ y ≤ fieldAt r 0x11 1 ∧ straps = some (2 * (y % 6) + x % 8 / 4, x % 4) ∧
      (∀ a ∈ recordAnchors r, a.1 ≤ 3) ∧ ∃ a ∈ recordAnchors r, ∃ b ∈ recordAnchors r, a.2.2 / 6 * 32 + a.2.1 / 8 ≠ b.2.2 / 6 * 32 + b.2.1 / 8)) ∧
  (∀ (i : SwitchId) (record : List Byte) (st : Byte) (rack : W16) (ok : Bool) (s : State), let k := s.tray i
    let bad := k.record ≠ none ∨ ok = false ∨ recordFormatOk record = false ∨ recordExtentOk record = false ∨ recordAnchorsOk record = false ∨ 3 < st.toNat ∨
      recordHolds record (8 * (rack.toNat % 32)) (6 * (rack.toNat / 32)) = false
    (bad → exec (.switchTrayRecordWrite i record st rack ok) s = .next s) ∧
    (¬ bad → ∃ t, exec (.switchTrayRecordWrite i record st rack ok) s = .next t ∧ (t.tray i).record = some (record, st.toNat, rack.toNat) ∧ (t.tray i).path = k.path ∧
      (∀ m, s.activeRm = some m → (t.recordsDiffer = true → RackEvent.recordsDiffer ∈ (t.rm m).cfg.events) ∧ (t.recordsDiffer = false → t.outbox = s.outbox)))) ∧
  ∀ (i : SwitchId) (s : State), ∃ t, exec (.switchTrayPowerOn i) s = .next t ∧ (t.tray i).record = (s.tray i).record ∧
    ((s.tray i).record = none → (t.tray i).path = .none) ∧
    ∀ r st rack, (s.tray i).record = some (r, st, rack) →
      (t.tray i).path = if (if st < 2 then fieldAt r 0x10 1 = 7 else fieldAt r 0x11 1 = 5) then .loop else .optic

/-- A word that decodes on a core gives an instruction of that core, and it is the word that encoding this instruction gives: so
no bit of a word is dropped, and no two words mean the same. Every instruction of a Nib core has a word, and that word decodes
on its core to that instruction, with every operand at every value its field admits. Whether a word decodes does not depend on
the core. -/
def Obligations.NibWordsRoundTrip : Prop :=
  (∀ (n : CoreId) (w : W64) (i : Instr), decodeNib n w = some i → i.core? = some n ∧ encodeNib i = some w) ∧
  (∀ (n : CoreId) (i : Instr), i.core? = some n → ∃ w, encodeNib i = some w ∧ decodeNib n w = some i) ∧
  ∀ (n m : CoreId) (w : W64), decodeNib n w = none → decodeNib m w = none
end

