-- ==== Sys2Proof/Laws/SMap.lean ====
section
/-!
SUPPORT. What the operations on sparse data do: reading back what was set, leaving the other keys alone, and keeping the
canonical form.
-/
namespace Sys2Proof.Laws
open Sys2Proof.Machine

variable {α : Type}

theorem smGet_smErase_same (d : Nat → α) (m : SMap α) (k : Nat) : smGet d (smErase m k) k = d k := by
  induction m with
  | nil => rfl
  | cons e m ih => by_cases h : e.1 = k <;> simp [smErase, smGet, h, ih]

theorem smGet_smErase_other (d : Nat → α) (m : SMap α) {k j : Nat} (h : j ≠ k) :
    smGet d (smErase m k) j = smGet d m j := by
  induction m with
  | nil => rfl
  | cons e m ih =>
    by_cases he : e.1 = k
    · have hj : e.1 ≠ j := fun h' => h (h'.symm.trans he)
      simp only [smErase, if_pos he, smGet, if_neg hj, ih]
    · simp only [smErase, if_neg he, smGet, ih]

theorem smGet_smInsert_other (d : Nat → α) (m : SMap α) {k j : Nat} (v : α) (h : j ≠ k) :
    smGet d (smInsert m k v) j = smGet d m j := by
  induction m with
  | nil => simp [smInsert, smGet, Ne.symm h]
  | cons e m ih =>
    by_cases hk : k < e.1
    · simp only [smInsert, if_pos hk, smGet, if_neg (Ne.symm h)]
    · simp only [smInsert, if_neg hk, smGet, ih]

theorem smGet_smInsert_erased (d : Nat → α) (m : SMap α) (k : Nat) (v : α) :
    smGet d (smInsert (smErase m k) k v) k = v := by
  induction m with
  | nil => simp [smErase, smInsert, smGet]
  | cons e m ih =>
    by_cases he : e.1 = k
    · simp only [smErase, if_pos he, ih]
    · by_cases hk : k < e.1
      · simp [smErase, if_neg he, smInsert, if_pos hk, smGet]
      · simp only [smErase, if_neg he, smInsert, if_neg hk, smGet, ih]

/-- What was set is read back. -/
@[simp] theorem smGet_smSet_same [DecidableEq α] (d : Nat → α) (m : SMap α) (k : Nat) (v : α) :
    smGet d (smSet d m k v) k = v := by
  by_cases hv : v = d k
  · simp only [smSet, if_pos hv, smGet_smErase_same]; exact hv.symm
  · simp only [smSet, if_neg hv, smGet_smInsert_erased]

/-- Setting one key leaves every other key alone. -/
theorem smGet_smSet_other [DecidableEq α] (d : Nat → α) (m : SMap α) {k j : Nat} (v : α) (h : j ≠ k) :
    smGet d (smSet d m k v) j = smGet d m j := by
  by_cases hv : v = d k
  · simp only [smSet, if_pos hv, smGet_smErase_other d m h]
  · simp only [smSet, if_neg hv, smGet_smInsert_other d _ v h, smGet_smErase_other d m h]

theorem smErase_mem {m : SMap α} {k : Nat} {e : Nat × α} (h : e ∈ smErase m k) : e ∈ m ∧ e.1 ≠ k := by
  induction m with
  | nil => simp [smErase] at h
  | cons x m ih =>
    by_cases hx : x.1 = k
    · simp only [smErase, if_pos hx] at h
      exact ⟨List.mem_cons_of_mem _ (ih h).1, (ih h).2⟩
    · simp only [smErase, if_neg hx, List.mem_cons] at h
      rcases h with rfl | h
      · exact ⟨List.mem_cons_self, hx⟩
      · exact ⟨List.mem_cons_of_mem _ (ih h).1, (ih h).2⟩

theorem smInsert_mem {m : SMap α} {k : Nat} {v : α} {e : Nat × α} (h : e ∈ smInsert m k v) :
    e = (k, v) ∨ e ∈ m := by
  induction m with
  | nil => simpa [smInsert] using h
  | cons x m ih =>
    by_cases hx : k < x.1
    · simpa [smInsert, hx] using h
    · simp only [smInsert, if_neg hx, List.mem_cons] at h
      rcases h with rfl | h
      · exact .inr List.mem_cons_self
      · rcases ih h with h | h
        · exact .inl h
        · exact .inr (List.mem_cons_of_mem _ h)

theorem smWf_smErase [DecidableEq α] {d : Nat → α} {m : SMap α} (h : smWf d m = true) (k : Nat) :
    smWf d (smErase m k) = true := by
  induction m with
  | nil => rfl
  | cons e m ih =>
    simp only [smWf, Bool.and_eq_true, List.all_eq_true, decide_eq_true_eq] at h
    by_cases he : e.1 = k
    · simp only [smErase, if_pos he]; exact ih h.2
    · simp only [smErase, if_neg he, smWf, Bool.and_eq_true, List.all_eq_true, decide_eq_true_eq]
      exact ⟨⟨h.1.1, fun x hx => h.1.2 x (smErase_mem hx).1⟩, ih h.2⟩

theorem smWf_smInsert [DecidableEq α] {d : Nat → α} {m : SMap α} (h : smWf d m = true) {k : Nat} {v : α}
    (hv : v ≠ d k) (hk : ∀ e ∈ m, e.1 ≠ k) : smWf d (smInsert m k v) = true := by
  induction m with
  | nil => simp [smInsert, smWf, hv]
  | cons e m ih =>
    have h' := h
    simp only [smWf, Bool.and_eq_true, List.all_eq_true, decide_eq_true_eq] at h
    by_cases hlt : k < e.1
    · simp only [smInsert, if_pos hlt]
      rw [smWf, h', Bool.and_true, Bool.and_eq_true, List.all_eq_true]
      refine ⟨by simpa using hv, fun x hx => ?_⟩
      rcases List.mem_cons.mp hx with rfl | hx
      · simpa using hlt
      · have := h.1.2 x hx
        simp only [decide_eq_true_eq]; omega
    · have hne : e.1 ≠ k := hk e List.mem_cons_self
      simp only [smInsert, if_neg hlt, smWf, Bool.and_eq_true, List.all_eq_true, decide_eq_true_eq]
      refine ⟨⟨h.1.1, fun x hx => ?_⟩, ih h.2 fun x hx => hk x (List.mem_cons_of_mem _ hx)⟩
      rcases smInsert_mem hx with rfl | hx
      · show e.1 < k; omega
      · exact h.1.2 x hx

/-- Setting a key keeps the canonical form. -/
theorem smWf_smSet [DecidableEq α] {d : Nat → α} {m : SMap α} (h : smWf d m = true) (k : Nat) (v : α) :
    smWf d (smSet d m k v) = true := by
  by_cases hv : v = d k
  · simp only [smSet, if_pos hv]; exact smWf_smErase h k
  · simp only [smSet, if_neg hv]
    exact smWf_smInsert (smWf_smErase h k) hv fun e he => (smErase_mem he).2

end Sys2Proof.Laws
end

