-- ==== Sys2Proof/Laws/State.lean ====
section
/-!
SUPPORT. What each named update of the state leaves alone, field by field, and what each record of a unit reads as after it is
set: none of these updates needs unfolding again.
-/
namespace Sys2Proof.Laws
open Sys2Proof.Machine

/-! ### Fields that an update leaves alone -/

@[simp] theorem setReg_frame (s : State) (r : Reg) (w : W64) : let t := s.setReg r w
    t.pending = s.pending ∧ t.latch = s.latch ∧ t.time = s.time ∧ t.cyc100 = s.cyc100 ∧ t.freeIx = s.freeIx ∧ t.mem = s.mem ∧ t.poison = s.poison ∧
    t.wellBad = s.wellBad ∧ t.zmap = s.zmap ∧ t.dir = s.dir ∧ t.scrub = s.scrub ∧ t.nib = s.nib ∧ t.hart = s.hart ∧ t.waiting = s.waiting ∧ t.poolQ = s.poolQ ∧
    t.ctx = s.ctx ∧ t.hostReads = s.hostReads ∧ t.nextTag = s.nextTag ∧ t.images = s.images ∧ t.bob = s.bob ∧ t.feed = s.feed ∧ t.arb = s.arb ∧
    t.tamb = s.tamb ∧ t.deadSpares = s.deadSpares ∧ t.hostBuf = s.hostBuf ∧ t.filet = s.filet ∧ t.tables = s.tables ∧ t.redirects = s.redirects ∧
    t.loads = s.loads ∧ t.folio = s.folio ∧ t.starts = s.starts ∧ t.seqs = s.seqs ∧ t.epoch = s.epoch ∧ t.recvEpoch = s.recvEpoch ∧ t.outq = s.outq ∧
    t.taken = s.taken ∧ t.fn = s.fn ∧ t.perm = s.perm ∧ t.unitMap = s.unitMap ∧ t.stroke = s.stroke ∧ t.ports = s.ports ∧ t.links = s.links ∧
    t.slots = s.slots ∧ t.watches = s.watches ∧ t.sampledAt = s.sampledAt ∧ t.closed = s.closed ∧ t.probes = s.probes ∧ t.start = s.start ∧ t.power = s.power ∧
    t.stw = s.stw ∧ t.rack = s.rack ∧ t.straps = s.straps ∧ t.inval = s.inval ∧ t.replays = s.replays ∧ t.outbox = s.outbox := by and_intros <;> rfl

@[simp] theorem setFld_frame (s : State) (r : Reg) (f : FName) (v : Nat) : let t := s.setFld r f v
    t.pending = s.pending ∧ t.latch = s.latch ∧ t.time = s.time ∧ t.cyc100 = s.cyc100 ∧ t.freeIx = s.freeIx ∧ t.mem = s.mem ∧ t.poison = s.poison ∧
    t.wellBad = s.wellBad ∧ t.zmap = s.zmap ∧ t.dir = s.dir ∧ t.scrub = s.scrub ∧ t.nib = s.nib ∧ t.hart = s.hart ∧ t.waiting = s.waiting ∧ t.poolQ = s.poolQ ∧
    t.ctx = s.ctx ∧ t.hostReads = s.hostReads ∧ t.nextTag = s.nextTag ∧ t.images = s.images ∧ t.bob = s.bob ∧ t.feed = s.feed ∧ t.arb = s.arb ∧
    t.tamb = s.tamb ∧ t.deadSpares = s.deadSpares ∧ t.hostBuf = s.hostBuf ∧ t.filet = s.filet ∧ t.tables = s.tables ∧ t.redirects = s.redirects ∧
    t.loads = s.loads ∧ t.folio = s.folio ∧ t.starts = s.starts ∧ t.seqs = s.seqs ∧ t.epoch = s.epoch ∧ t.recvEpoch = s.recvEpoch ∧ t.outq = s.outq ∧
    t.taken = s.taken ∧ t.fn = s.fn ∧ t.perm = s.perm ∧ t.unitMap = s.unitMap ∧ t.stroke = s.stroke ∧ t.ports = s.ports ∧ t.links = s.links ∧
    t.slots = s.slots ∧ t.watches = s.watches ∧ t.sampledAt = s.sampledAt ∧ t.closed = s.closed ∧ t.probes = s.probes ∧ t.start = s.start ∧ t.power = s.power ∧
    t.stw = s.stw ∧ t.rack = s.rack ∧ t.straps = s.straps ∧ t.inval = s.inval ∧ t.replays = s.replays ∧ t.outbox = s.outbox := by and_intros <;> rfl

@[simp] theorem setFlag_frame (s : State) (r : Reg) (f : FName) (b : Bool) : let t := s.setFlag r f b
    t.pending = s.pending ∧ t.latch = s.latch ∧ t.time = s.time ∧ t.cyc100 = s.cyc100 ∧ t.freeIx = s.freeIx ∧ t.mem = s.mem ∧ t.poison = s.poison ∧
    t.wellBad = s.wellBad ∧ t.zmap = s.zmap ∧ t.dir = s.dir ∧ t.scrub = s.scrub ∧ t.nib = s.nib ∧ t.hart = s.hart ∧ t.waiting = s.waiting ∧ t.poolQ = s.poolQ ∧
    t.ctx = s.ctx ∧ t.hostReads = s.hostReads ∧ t.nextTag = s.nextTag ∧ t.images = s.images ∧ t.bob = s.bob ∧ t.feed = s.feed ∧ t.arb = s.arb ∧
    t.tamb = s.tamb ∧ t.deadSpares = s.deadSpares ∧ t.hostBuf = s.hostBuf ∧ t.filet = s.filet ∧ t.tables = s.tables ∧ t.redirects = s.redirects ∧
    t.loads = s.loads ∧ t.folio = s.folio ∧ t.starts = s.starts ∧ t.seqs = s.seqs ∧ t.epoch = s.epoch ∧ t.recvEpoch = s.recvEpoch ∧ t.outq = s.outq ∧
    t.taken = s.taken ∧ t.fn = s.fn ∧ t.perm = s.perm ∧ t.unitMap = s.unitMap ∧ t.stroke = s.stroke ∧ t.ports = s.ports ∧ t.links = s.links ∧
    t.slots = s.slots ∧ t.watches = s.watches ∧ t.sampledAt = s.sampledAt ∧ t.closed = s.closed ∧ t.probes = s.probes ∧ t.start = s.start ∧ t.power = s.power ∧
    t.stw = s.stw ∧ t.rack = s.rack ∧ t.straps = s.straps ∧ t.inval = s.inval ∧ t.replays = s.replays ∧ t.outbox = s.outbox := by and_intros <;> rfl

@[simp] theorem addFld_frame (s : State) (r : Reg) (f : FName) (k : Nat) : let t := s.addFld r f k
    t.pending = s.pending ∧ t.latch = s.latch ∧ t.time = s.time ∧ t.cyc100 = s.cyc100 ∧ t.freeIx = s.freeIx ∧ t.mem = s.mem ∧ t.poison = s.poison ∧
    t.wellBad = s.wellBad ∧ t.zmap = s.zmap ∧ t.dir = s.dir ∧ t.scrub = s.scrub ∧ t.nib = s.nib ∧ t.hart = s.hart ∧ t.waiting = s.waiting ∧ t.poolQ = s.poolQ ∧
    t.ctx = s.ctx ∧ t.hostReads = s.hostReads ∧ t.nextTag = s.nextTag ∧ t.images = s.images ∧ t.bob = s.bob ∧ t.feed = s.feed ∧ t.arb = s.arb ∧
    t.tamb = s.tamb ∧ t.deadSpares = s.deadSpares ∧ t.hostBuf = s.hostBuf ∧ t.filet = s.filet ∧ t.tables = s.tables ∧ t.redirects = s.redirects ∧
    t.loads = s.loads ∧ t.folio = s.folio ∧ t.starts = s.starts ∧ t.seqs = s.seqs ∧ t.epoch = s.epoch ∧ t.recvEpoch = s.recvEpoch ∧ t.outq = s.outq ∧
    t.taken = s.taken ∧ t.fn = s.fn ∧ t.perm = s.perm ∧ t.unitMap = s.unitMap ∧ t.stroke = s.stroke ∧ t.ports = s.ports ∧ t.links = s.links ∧
    t.slots = s.slots ∧ t.watches = s.watches ∧ t.sampledAt = s.sampledAt ∧ t.closed = s.closed ∧ t.probes = s.probes ∧ t.start = s.start ∧ t.power = s.power ∧
    t.stw = s.stw ∧ t.rack = s.rack ∧ t.straps = s.straps ∧ t.inval = s.inval ∧ t.replays = s.replays ∧ t.outbox = s.outbox := by and_intros <;> rfl

@[simp] theorem satFld_frame (s : State) (r : Reg) (f : FName) (k : Nat) : let t := s.satFld r f k
    t.pending = s.pending ∧ t.latch = s.latch ∧ t.time = s.time ∧ t.cyc100 = s.cyc100 ∧ t.freeIx = s.freeIx ∧ t.mem = s.mem ∧ t.poison = s.poison ∧
    t.wellBad = s.wellBad ∧ t.zmap = s.zmap ∧ t.dir = s.dir ∧ t.scrub = s.scrub ∧ t.nib = s.nib ∧ t.hart = s.hart ∧ t.waiting = s.waiting ∧ t.poolQ = s.poolQ ∧
    t.ctx = s.ctx ∧ t.hostReads = s.hostReads ∧ t.nextTag = s.nextTag ∧ t.images = s.images ∧ t.bob = s.bob ∧ t.feed = s.feed ∧ t.arb = s.arb ∧
    t.tamb = s.tamb ∧ t.deadSpares = s.deadSpares ∧ t.hostBuf = s.hostBuf ∧ t.filet = s.filet ∧ t.tables = s.tables ∧ t.redirects = s.redirects ∧
    t.loads = s.loads ∧ t.folio = s.folio ∧ t.starts = s.starts ∧ t.seqs = s.seqs ∧ t.epoch = s.epoch ∧ t.recvEpoch = s.recvEpoch ∧ t.outq = s.outq ∧
    t.taken = s.taken ∧ t.fn = s.fn ∧ t.perm = s.perm ∧ t.unitMap = s.unitMap ∧ t.stroke = s.stroke ∧ t.ports = s.ports ∧ t.links = s.links ∧
    t.slots = s.slots ∧ t.watches = s.watches ∧ t.sampledAt = s.sampledAt ∧ t.closed = s.closed ∧ t.probes = s.probes ∧ t.start = s.start ∧ t.power = s.power ∧
    t.stw = s.stw ∧ t.rack = s.rack ∧ t.straps = s.straps ∧ t.inval = s.inval ∧ t.replays = s.replays ∧ t.outbox = s.outbox := by and_intros <;> rfl

@[simp] theorem setRegBit_frame (s : State) (r : Reg) (i : Nat) (b : Bool) : let t := s.setRegBit r i b
    t.pending = s.pending ∧ t.latch = s.latch ∧ t.time = s.time ∧ t.cyc100 = s.cyc100 ∧ t.freeIx = s.freeIx ∧ t.mem = s.mem ∧ t.poison = s.poison ∧
    t.wellBad = s.wellBad ∧ t.zmap = s.zmap ∧ t.dir = s.dir ∧ t.scrub = s.scrub ∧ t.nib = s.nib ∧ t.hart = s.hart ∧ t.waiting = s.waiting ∧ t.poolQ = s.poolQ ∧
    t.ctx = s.ctx ∧ t.hostReads = s.hostReads ∧ t.nextTag = s.nextTag ∧ t.images = s.images ∧ t.bob = s.bob ∧ t.feed = s.feed ∧ t.arb = s.arb ∧
    t.tamb = s.tamb ∧ t.deadSpares = s.deadSpares ∧ t.hostBuf = s.hostBuf ∧ t.filet = s.filet ∧ t.tables = s.tables ∧ t.redirects = s.redirects ∧
    t.loads = s.loads ∧ t.folio = s.folio ∧ t.starts = s.starts ∧ t.seqs = s.seqs ∧ t.epoch = s.epoch ∧ t.recvEpoch = s.recvEpoch ∧ t.outq = s.outq ∧
    t.taken = s.taken ∧ t.fn = s.fn ∧ t.perm = s.perm ∧ t.unitMap = s.unitMap ∧ t.stroke = s.stroke ∧ t.ports = s.ports ∧ t.links = s.links ∧
    t.slots = s.slots ∧ t.watches = s.watches ∧ t.sampledAt = s.sampledAt ∧ t.closed = s.closed ∧ t.probes = s.probes ∧ t.start = s.start ∧ t.power = s.power ∧
    t.stw = s.stw ∧ t.rack = s.rack ∧ t.straps = s.straps ∧ t.inval = s.inval ∧ t.replays = s.replays ∧ t.outbox = s.outbox := by and_intros <;> rfl

@[simp] theorem setFlds_nil (s : State) (r : Reg) : s.setFlds r [] = s := rfl
@[simp] theorem setFlds_cons (s : State) (r : Reg) (e : FName × Nat) (l : List (FName × Nat)) :
    s.setFlds r (e :: l) = (s.setFld r e.1 e.2).setFlds r l := rfl

/-- Fields set change the register file alone. -/
theorem setFlds_eq (s : State) (r : Reg) (l : List (FName × Nat)) : s.setFlds r l = { s with regs := (s.setFlds r l).regs } := by
  induction l generalizing s with
  | nil => rfl
  | cons e l ih => rw [setFlds_cons, ih]; rfl

@[simp] theorem setFlds_frame (s : State) (r : Reg) (l : List (FName × Nat)) : let t := s.setFlds r l
    t.pending = s.pending ∧ t.latch = s.latch ∧ t.time = s.time ∧ t.cyc100 = s.cyc100 ∧ t.freeIx = s.freeIx ∧ t.mem = s.mem ∧ t.poison = s.poison ∧
    t.wellBad = s.wellBad ∧ t.zmap = s.zmap ∧ t.dir = s.dir ∧ t.scrub = s.scrub ∧ t.nib = s.nib ∧ t.hart = s.hart ∧ t.waiting = s.waiting ∧ t.poolQ = s.poolQ ∧
    t.ctx = s.ctx ∧ t.hostReads = s.hostReads ∧ t.nextTag = s.nextTag ∧ t.images = s.images ∧ t.bob = s.bob ∧ t.feed = s.feed ∧ t.arb = s.arb ∧
    t.tamb = s.tamb ∧ t.deadSpares = s.deadSpares ∧ t.hostBuf = s.hostBuf ∧ t.filet = s.filet ∧ t.tables = s.tables ∧ t.redirects = s.redirects ∧
    t.loads = s.loads ∧ t.folio = s.folio ∧ t.starts = s.starts ∧ t.seqs = s.seqs ∧ t.epoch = s.epoch ∧ t.recvEpoch = s.recvEpoch ∧ t.outq = s.outq ∧
    t.taken = s.taken ∧ t.fn = s.fn ∧ t.perm = s.perm ∧ t.unitMap = s.unitMap ∧ t.stroke = s.stroke ∧ t.ports = s.ports ∧ t.links = s.links ∧
    t.slots = s.slots ∧ t.watches = s.watches ∧ t.sampledAt = s.sampledAt ∧ t.closed = s.closed ∧ t.probes = s.probes ∧ t.start = s.start ∧ t.power = s.power ∧
    t.stw = s.stw ∧ t.rack = s.rack ∧ t.straps = s.straps ∧ t.inval = s.inval ∧ t.replays = s.replays ∧ t.outbox = s.outbox := by rw [setFlds_eq]; and_intros <;> rfl

@[simp] theorem setCore_frame (s : State) (n : Nat) (k : NibCore) : let t := s.setCore n k
    t.pending = s.pending ∧ t.regs = s.regs ∧ t.latch = s.latch ∧ t.time = s.time ∧ t.cyc100 = s.cyc100 ∧ t.freeIx = s.freeIx ∧ t.mem = s.mem ∧
    t.poison = s.poison ∧ t.wellBad = s.wellBad ∧ t.zmap = s.zmap ∧ t.dir = s.dir ∧ t.scrub = s.scrub ∧ t.hart = s.hart ∧ t.waiting = s.waiting ∧
    t.poolQ = s.poolQ ∧ t.ctx = s.ctx ∧ t.hostReads = s.hostReads ∧ t.nextTag = s.nextTag ∧ t.images = s.images ∧ t.bob = s.bob ∧ t.feed = s.feed ∧
    t.arb = s.arb ∧ t.tamb = s.tamb ∧ t.deadSpares = s.deadSpares ∧ t.hostBuf = s.hostBuf ∧ t.filet = s.filet ∧ t.tables = s.tables ∧
    t.redirects = s.redirects ∧ t.loads = s.loads ∧ t.folio = s.folio ∧ t.starts = s.starts ∧ t.seqs = s.seqs ∧ t.epoch = s.epoch ∧ t.recvEpoch = s.recvEpoch ∧
    t.outq = s.outq ∧ t.taken = s.taken ∧ t.fn = s.fn ∧ t.perm = s.perm ∧ t.unitMap = s.unitMap ∧ t.stroke = s.stroke ∧ t.ports = s.ports ∧ t.links = s.links ∧
    t.slots = s.slots ∧ t.watches = s.watches ∧ t.sampledAt = s.sampledAt ∧ t.closed = s.closed ∧ t.probes = s.probes ∧ t.start = s.start ∧ t.power = s.power ∧
    t.stw = s.stw ∧ t.rack = s.rack ∧ t.straps = s.straps ∧ t.inval = s.inval ∧ t.replays = s.replays ∧ t.outbox = s.outbox := by and_intros <;> rfl

@[simp] theorem setHart_frame (s : State) (n : Nat) (k : Hart) : let t := s.setHart n k
    t.pending = s.pending ∧ t.regs = s.regs ∧ t.latch = s.latch ∧ t.time = s.time ∧ t.cyc100 = s.cyc100 ∧ t.freeIx = s.freeIx ∧ t.mem = s.mem ∧
    t.poison = s.poison ∧ t.wellBad = s.wellBad ∧ t.zmap = s.zmap ∧ t.dir = s.dir ∧ t.scrub = s.scrub ∧ t.nib = s.nib ∧ t.waiting = s.waiting ∧
    t.poolQ = s.poolQ ∧ t.ctx = s.ctx ∧ t.hostReads = s.hostReads ∧ t.nextTag = s.nextTag ∧ t.images = s.images ∧ t.bob = s.bob ∧ t.feed = s.feed ∧
    t.arb = s.arb ∧ t.tamb = s.tamb ∧ t.deadSpares = s.deadSpares ∧ t.hostBuf = s.hostBuf ∧ t.filet = s.filet ∧ t.tables = s.tables ∧
    t.redirects = s.redirects ∧ t.loads = s.loads ∧ t.folio = s.folio ∧ t.starts = s.starts ∧ t.seqs = s.seqs ∧ t.epoch = s.epoch ∧ t.recvEpoch = s.recvEpoch ∧
    t.outq = s.outq ∧ t.taken = s.taken ∧ t.fn = s.fn ∧ t.perm = s.perm ∧ t.unitMap = s.unitMap ∧ t.stroke = s.stroke ∧ t.ports = s.ports ∧ t.links = s.links ∧
    t.slots = s.slots ∧ t.watches = s.watches ∧ t.sampledAt = s.sampledAt ∧ t.closed = s.closed ∧ t.probes = s.probes ∧ t.start = s.start ∧ t.power = s.power ∧
    t.stw = s.stw ∧ t.rack = s.rack ∧ t.straps = s.straps ∧ t.inval = s.inval ∧ t.replays = s.replays ∧ t.outbox = s.outbox := by and_intros <;> rfl

@[simp] theorem setContext_frame (s : State) (n : Nat) (k : CtxState) : let t := s.setContext n k
    t.pending = s.pending ∧ t.regs = s.regs ∧ t.latch = s.latch ∧ t.time = s.time ∧ t.cyc100 = s.cyc100 ∧ t.freeIx = s.freeIx ∧ t.mem = s.mem ∧
    t.poison = s.poison ∧ t.wellBad = s.wellBad ∧ t.zmap = s.zmap ∧ t.dir = s.dir ∧ t.scrub = s.scrub ∧ t.nib = s.nib ∧ t.hart = s.hart ∧
    t.waiting = s.waiting ∧ t.poolQ = s.poolQ ∧ t.hostReads = s.hostReads ∧ t.nextTag = s.nextTag ∧ t.images = s.images ∧ t.bob = s.bob ∧ t.feed = s.feed ∧
    t.arb = s.arb ∧ t.tamb = s.tamb ∧ t.deadSpares = s.deadSpares ∧ t.hostBuf = s.hostBuf ∧ t.filet = s.filet ∧ t.tables = s.tables ∧
    t.redirects = s.redirects ∧ t.loads = s.loads ∧ t.folio = s.folio ∧ t.starts = s.starts ∧ t.seqs = s.seqs ∧ t.epoch = s.epoch ∧ t.recvEpoch = s.recvEpoch ∧
    t.outq = s.outq ∧ t.taken = s.taken ∧ t.fn = s.fn ∧ t.perm = s.perm ∧ t.unitMap = s.unitMap ∧ t.stroke = s.stroke ∧ t.ports = s.ports ∧ t.links = s.links ∧
    t.slots = s.slots ∧ t.watches = s.watches ∧ t.sampledAt = s.sampledAt ∧ t.closed = s.closed ∧ t.probes = s.probes ∧ t.start = s.start ∧ t.power = s.power ∧
    t.stw = s.stw ∧ t.rack = s.rack ∧ t.straps = s.straps ∧ t.inval = s.inval ∧ t.replays = s.replays ∧ t.outbox = s.outbox := by and_intros <;> rfl

@[simp] theorem setFn_frame (s : State) (n : Nat) (k : FnState) : let t := s.setFn n k
    t.pending = s.pending ∧ t.regs = s.regs ∧ t.latch = s.latch ∧ t.time = s.time ∧ t.cyc100 = s.cyc100 ∧ t.freeIx = s.freeIx ∧ t.mem = s.mem ∧
    t.poison = s.poison ∧ t.wellBad = s.wellBad ∧ t.zmap = s.zmap ∧ t.dir = s.dir ∧ t.scrub = s.scrub ∧ t.nib = s.nib ∧ t.hart = s.hart ∧
    t.waiting = s.waiting ∧ t.poolQ = s.poolQ ∧ t.ctx = s.ctx ∧ t.hostReads = s.hostReads ∧ t.nextTag = s.nextTag ∧ t.images = s.images ∧ t.bob = s.bob ∧
    t.feed = s.feed ∧ t.arb = s.arb ∧ t.tamb = s.tamb ∧ t.deadSpares = s.deadSpares ∧ t.hostBuf = s.hostBuf ∧ t.filet = s.filet ∧ t.tables = s.tables ∧
    t.redirects = s.redirects ∧ t.loads = s.loads ∧ t.folio = s.folio ∧ t.starts = s.starts ∧ t.seqs = s.seqs ∧ t.epoch = s.epoch ∧ t.recvEpoch = s.recvEpoch ∧
    t.outq = s.outq ∧ t.taken = s.taken ∧ t.perm = s.perm ∧ t.unitMap = s.unitMap ∧ t.stroke = s.stroke ∧ t.ports = s.ports ∧ t.links = s.links ∧
    t.slots = s.slots ∧ t.watches = s.watches ∧ t.sampledAt = s.sampledAt ∧ t.closed = s.closed ∧ t.probes = s.probes ∧ t.start = s.start ∧ t.power = s.power ∧
    t.stw = s.stw ∧ t.rack = s.rack ∧ t.straps = s.straps ∧ t.inval = s.inval ∧ t.replays = s.replays ∧ t.outbox = s.outbox := by and_intros <;> rfl

@[simp] theorem setImage_frame (s : State) (n : Nat) (k : Image) : let t := s.setImage n k
    t.pending = s.pending ∧ t.regs = s.regs ∧ t.latch = s.latch ∧ t.time = s.time ∧ t.cyc100 = s.cyc100 ∧ t.freeIx = s.freeIx ∧ t.mem = s.mem ∧
    t.poison = s.poison ∧ t.wellBad = s.wellBad ∧ t.zmap = s.zmap ∧ t.dir = s.dir ∧ t.scrub = s.scrub ∧ t.nib = s.nib ∧ t.hart = s.hart ∧
    t.waiting = s.waiting ∧ t.poolQ = s.poolQ ∧ t.ctx = s.ctx ∧ t.hostReads = s.hostReads ∧ t.nextTag = s.nextTag ∧ t.bob = s.bob ∧ t.feed = s.feed ∧
    t.arb = s.arb ∧ t.tamb = s.tamb ∧ t.deadSpares = s.deadSpares ∧ t.hostBuf = s.hostBuf ∧ t.filet = s.filet ∧ t.tables = s.tables ∧
    t.redirects = s.redirects ∧ t.loads = s.loads ∧ t.folio = s.folio ∧ t.starts = s.starts ∧ t.seqs = s.seqs ∧ t.epoch = s.epoch ∧ t.recvEpoch = s.recvEpoch ∧
    t.outq = s.outq ∧ t.taken = s.taken ∧ t.fn = s.fn ∧ t.perm = s.perm ∧ t.unitMap = s.unitMap ∧ t.stroke = s.stroke ∧ t.ports = s.ports ∧ t.links = s.links ∧
    t.slots = s.slots ∧ t.watches = s.watches ∧ t.sampledAt = s.sampledAt ∧ t.closed = s.closed ∧ t.probes = s.probes ∧ t.start = s.start ∧ t.power = s.power ∧
    t.stw = s.stw ∧ t.rack = s.rack ∧ t.straps = s.straps ∧ t.inval = s.inval ∧ t.replays = s.replays ∧ t.outbox = s.outbox := by and_intros <;> rfl

@[simp] theorem setBobbin_frame (s : State) (n : Nat) (k : Bobbin) : let t := s.setBobbin n k
    t.pending = s.pending ∧ t.regs = s.regs ∧ t.latch = s.latch ∧ t.time = s.time ∧ t.cyc100 = s.cyc100 ∧ t.freeIx = s.freeIx ∧ t.mem = s.mem ∧
    t.poison = s.poison ∧ t.wellBad = s.wellBad ∧ t.zmap = s.zmap ∧ t.dir = s.dir ∧ t.scrub = s.scrub ∧ t.nib = s.nib ∧ t.hart = s.hart ∧
    t.waiting = s.waiting ∧ t.poolQ = s.poolQ ∧ t.ctx = s.ctx ∧ t.hostReads = s.hostReads ∧ t.nextTag = s.nextTag ∧ t.images = s.images ∧ t.feed = s.feed ∧
    t.arb = s.arb ∧ t.tamb = s.tamb ∧ t.deadSpares = s.deadSpares ∧ t.hostBuf = s.hostBuf ∧ t.filet = s.filet ∧ t.tables = s.tables ∧
    t.redirects = s.redirects ∧ t.loads = s.loads ∧ t.folio = s.folio ∧ t.starts = s.starts ∧ t.seqs = s.seqs ∧ t.epoch = s.epoch ∧ t.recvEpoch = s.recvEpoch ∧
    t.outq = s.outq ∧ t.taken = s.taken ∧ t.fn = s.fn ∧ t.perm = s.perm ∧ t.unitMap = s.unitMap ∧ t.stroke = s.stroke ∧ t.ports = s.ports ∧ t.links = s.links ∧
    t.slots = s.slots ∧ t.watches = s.watches ∧ t.sampledAt = s.sampledAt ∧ t.closed = s.closed ∧ t.probes = s.probes ∧ t.start = s.start ∧ t.power = s.power ∧
    t.stw = s.stw ∧ t.rack = s.rack ∧ t.straps = s.straps ∧ t.inval = s.inval ∧ t.replays = s.replays ∧ t.outbox = s.outbox := by and_intros <;> rfl

@[simp] theorem setFeedCh_frame (s : State) (n : Nat) (k : FeedCh) : let t := s.setFeedCh n k
    t.pending = s.pending ∧ t.regs = s.regs ∧ t.latch = s.latch ∧ t.time = s.time ∧ t.cyc100 = s.cyc100 ∧ t.freeIx = s.freeIx ∧ t.mem = s.mem ∧
    t.poison = s.poison ∧ t.wellBad = s.wellBad ∧ t.zmap = s.zmap ∧ t.dir = s.dir ∧ t.scrub = s.scrub ∧ t.nib = s.nib ∧ t.hart = s.hart ∧
    t.waiting = s.waiting ∧ t.poolQ = s.poolQ ∧ t.ctx = s.ctx ∧ t.hostReads = s.hostReads ∧ t.nextTag = s.nextTag ∧ t.images = s.images ∧ t.bob = s.bob ∧
    t.arb = s.arb ∧ t.tamb = s.tamb ∧ t.deadSpares = s.deadSpares ∧ t.hostBuf = s.hostBuf ∧ t.filet = s.filet ∧ t.tables = s.tables ∧
    t.redirects = s.redirects ∧ t.loads = s.loads ∧ t.folio = s.folio ∧ t.starts = s.starts ∧ t.seqs = s.seqs ∧ t.epoch = s.epoch ∧ t.recvEpoch = s.recvEpoch ∧
    t.outq = s.outq ∧ t.taken = s.taken ∧ t.fn = s.fn ∧ t.perm = s.perm ∧ t.unitMap = s.unitMap ∧ t.stroke = s.stroke ∧ t.ports = s.ports ∧ t.links = s.links ∧
    t.slots = s.slots ∧ t.watches = s.watches ∧ t.sampledAt = s.sampledAt ∧ t.closed = s.closed ∧ t.probes = s.probes ∧ t.start = s.start ∧ t.power = s.power ∧
    t.stw = s.stw ∧ t.rack = s.rack ∧ t.straps = s.straps ∧ t.inval = s.inval ∧ t.replays = s.replays ∧ t.outbox = s.outbox := by and_intros <;> rfl

@[simp] theorem setTamb_frame (s : State) (n : Nat) (k : TambArray) : let t := s.setTamb n k
    t.pending = s.pending ∧ t.regs = s.regs ∧ t.latch = s.latch ∧ t.time = s.time ∧ t.cyc100 = s.cyc100 ∧ t.freeIx = s.freeIx ∧ t.mem = s.mem ∧
    t.poison = s.poison ∧ t.wellBad = s.wellBad ∧ t.zmap = s.zmap ∧ t.dir = s.dir ∧ t.scrub = s.scrub ∧ t.nib = s.nib ∧ t.hart = s.hart ∧
    t.waiting = s.waiting ∧ t.poolQ = s.poolQ ∧ t.ctx = s.ctx ∧ t.hostReads = s.hostReads ∧ t.nextTag = s.nextTag ∧ t.images = s.images ∧ t.bob = s.bob ∧
    t.feed = s.feed ∧ t.arb = s.arb ∧ t.deadSpares = s.deadSpares ∧ t.hostBuf = s.hostBuf ∧ t.filet = s.filet ∧ t.tables = s.tables ∧
    t.redirects = s.redirects ∧ t.loads = s.loads ∧ t.folio = s.folio ∧ t.starts = s.starts ∧ t.seqs = s.seqs ∧ t.epoch = s.epoch ∧ t.recvEpoch = s.recvEpoch ∧
    t.outq = s.outq ∧ t.taken = s.taken ∧ t.fn = s.fn ∧ t.perm = s.perm ∧ t.unitMap = s.unitMap ∧ t.stroke = s.stroke ∧ t.ports = s.ports ∧ t.links = s.links ∧
    t.slots = s.slots ∧ t.watches = s.watches ∧ t.sampledAt = s.sampledAt ∧ t.closed = s.closed ∧ t.probes = s.probes ∧ t.start = s.start ∧ t.power = s.power ∧
    t.stw = s.stw ∧ t.rack = s.rack ∧ t.straps = s.straps ∧ t.inval = s.inval ∧ t.replays = s.replays ∧ t.outbox = s.outbox := by and_intros <;> rfl

@[simp] theorem setFilet_frame (s : State) (n : Nat) (k : FiletUnit) : let t := s.setFilet n k
    t.pending = s.pending ∧ t.regs = s.regs ∧ t.latch = s.latch ∧ t.time = s.time ∧ t.cyc100 = s.cyc100 ∧ t.freeIx = s.freeIx ∧ t.mem = s.mem ∧
    t.poison = s.poison ∧ t.wellBad = s.wellBad ∧ t.zmap = s.zmap ∧ t.dir = s.dir ∧ t.scrub = s.scrub ∧ t.nib = s.nib ∧ t.hart = s.hart ∧
    t.waiting = s.waiting ∧ t.poolQ = s.poolQ ∧ t.ctx = s.ctx ∧ t.hostReads = s.hostReads ∧ t.nextTag = s.nextTag ∧ t.images = s.images ∧ t.bob = s.bob ∧
    t.feed = s.feed ∧ t.arb = s.arb ∧ t.tamb = s.tamb ∧ t.deadSpares = s.deadSpares ∧ t.hostBuf = s.hostBuf ∧ t.tables = s.tables ∧ t.redirects = s.redirects ∧
    t.loads = s.loads ∧ t.folio = s.folio ∧ t.starts = s.starts ∧ t.seqs = s.seqs ∧ t.epoch = s.epoch ∧ t.recvEpoch = s.recvEpoch ∧ t.outq = s.outq ∧
    t.taken = s.taken ∧ t.fn = s.fn ∧ t.perm = s.perm ∧ t.unitMap = s.unitMap ∧ t.stroke = s.stroke ∧ t.ports = s.ports ∧ t.links = s.links ∧
    t.slots = s.slots ∧ t.watches = s.watches ∧ t.sampledAt = s.sampledAt ∧ t.closed = s.closed ∧ t.probes = s.probes ∧ t.start = s.start ∧ t.power = s.power ∧
    t.stw = s.stw ∧ t.rack = s.rack ∧ t.straps = s.straps ∧ t.inval = s.inval ∧ t.replays = s.replays ∧ t.outbox = s.outbox := by and_intros <;> rfl

@[simp] theorem setTable_frame (s : State) (n : Nat) (k : FiletTable) : let t := s.setTable n k
    t.pending = s.pending ∧ t.regs = s.regs ∧ t.latch = s.latch ∧ t.time = s.time ∧ t.cyc100 = s.cyc100 ∧ t.freeIx = s.freeIx ∧ t.mem = s.mem ∧
    t.poison = s.poison ∧ t.wellBad = s.wellBad ∧ t.zmap = s.zmap ∧ t.dir = s.dir ∧ t.scrub = s.scrub ∧ t.nib = s.nib ∧ t.hart = s.hart ∧
    t.waiting = s.waiting ∧ t.poolQ = s.poolQ ∧ t.ctx = s.ctx ∧ t.hostReads = s.hostReads ∧ t.nextTag = s.nextTag ∧ t.images = s.images ∧ t.bob = s.bob ∧
    t.feed = s.feed ∧ t.arb = s.arb ∧ t.tamb = s.tamb ∧ t.deadSpares = s.deadSpares ∧ t.hostBuf = s.hostBuf ∧ t.filet = s.filet ∧ t.redirects = s.redirects ∧
    t.loads = s.loads ∧ t.folio = s.folio ∧ t.starts = s.starts ∧ t.seqs = s.seqs ∧ t.epoch = s.epoch ∧ t.recvEpoch = s.recvEpoch ∧ t.outq = s.outq ∧
    t.taken = s.taken ∧ t.fn = s.fn ∧ t.perm = s.perm ∧ t.unitMap = s.unitMap ∧ t.stroke = s.stroke ∧ t.ports = s.ports ∧ t.links = s.links ∧
    t.slots = s.slots ∧ t.watches = s.watches ∧ t.sampledAt = s.sampledAt ∧ t.closed = s.closed ∧ t.probes = s.probes ∧ t.start = s.start ∧ t.power = s.power ∧
    t.stw = s.stw ∧ t.rack = s.rack ∧ t.straps = s.straps ∧ t.inval = s.inval ∧ t.replays = s.replays ∧ t.outbox = s.outbox := by and_intros <;> rfl

@[simp] theorem setFolio_frame (s : State) (n : Nat) (k : FolioUnit) : let t := s.setFolio n k
    t.pending = s.pending ∧ t.regs = s.regs ∧ t.latch = s.latch ∧ t.time = s.time ∧ t.cyc100 = s.cyc100 ∧ t.freeIx = s.freeIx ∧ t.mem = s.mem ∧
    t.poison = s.poison ∧ t.wellBad = s.wellBad ∧ t.zmap = s.zmap ∧ t.dir = s.dir ∧ t.scrub = s.scrub ∧ t.nib = s.nib ∧ t.hart = s.hart ∧
    t.waiting = s.waiting ∧ t.poolQ = s.poolQ ∧ t.ctx = s.ctx ∧ t.hostReads = s.hostReads ∧ t.nextTag = s.nextTag ∧ t.images = s.images ∧ t.bob = s.bob ∧
    t.feed = s.feed ∧ t.arb = s.arb ∧ t.tamb = s.tamb ∧ t.deadSpares = s.deadSpares ∧ t.hostBuf = s.hostBuf ∧ t.filet = s.filet ∧ t.tables = s.tables ∧
    t.redirects = s.redirects ∧ t.loads = s.loads ∧ t.starts = s.starts ∧ t.seqs = s.seqs ∧ t.epoch = s.epoch ∧ t.recvEpoch = s.recvEpoch ∧ t.outq = s.outq ∧
    t.taken = s.taken ∧ t.fn = s.fn ∧ t.perm = s.perm ∧ t.unitMap = s.unitMap ∧ t.stroke = s.stroke ∧ t.ports = s.ports ∧ t.links = s.links ∧
    t.slots = s.slots ∧ t.watches = s.watches ∧ t.sampledAt = s.sampledAt ∧ t.closed = s.closed ∧ t.probes = s.probes ∧ t.start = s.start ∧ t.power = s.power ∧
    t.stw = s.stw ∧ t.rack = s.rack ∧ t.straps = s.straps ∧ t.inval = s.inval ∧ t.replays = s.replays ∧ t.outbox = s.outbox := by and_intros <;> rfl

@[simp] theorem setSeq_frame (s : State) (n : Nat) (k : FolioSeq) : let t := s.setSeq n k
    t.pending = s.pending ∧ t.regs = s.regs ∧ t.latch = s.latch ∧ t.time = s.time ∧ t.cyc100 = s.cyc100 ∧ t.freeIx = s.freeIx ∧ t.mem = s.mem ∧
    t.poison = s.poison ∧ t.wellBad = s.wellBad ∧ t.zmap = s.zmap ∧ t.dir = s.dir ∧ t.scrub = s.scrub ∧ t.nib = s.nib ∧ t.hart = s.hart ∧
    t.waiting = s.waiting ∧ t.poolQ = s.poolQ ∧ t.ctx = s.ctx ∧ t.hostReads = s.hostReads ∧ t.nextTag = s.nextTag ∧ t.images = s.images ∧ t.bob = s.bob ∧
    t.feed = s.feed ∧ t.arb = s.arb ∧ t.tamb = s.tamb ∧ t.deadSpares = s.deadSpares ∧ t.hostBuf = s.hostBuf ∧ t.filet = s.filet ∧ t.tables = s.tables ∧
    t.redirects = s.redirects ∧ t.loads = s.loads ∧ t.folio = s.folio ∧ t.starts = s.starts ∧ t.epoch = s.epoch ∧ t.recvEpoch = s.recvEpoch ∧ t.outq = s.outq ∧
    t.taken = s.taken ∧ t.fn = s.fn ∧ t.perm = s.perm ∧ t.unitMap = s.unitMap ∧ t.stroke = s.stroke ∧ t.ports = s.ports ∧ t.links = s.links ∧
    t.slots = s.slots ∧ t.watches = s.watches ∧ t.sampledAt = s.sampledAt ∧ t.closed = s.closed ∧ t.probes = s.probes ∧ t.start = s.start ∧ t.power = s.power ∧
    t.stw = s.stw ∧ t.rack = s.rack ∧ t.straps = s.straps ∧ t.inval = s.inval ∧ t.replays = s.replays ∧ t.outbox = s.outbox := by and_intros <;> rfl

@[simp] theorem setEpoch_frame (s : State) (n : Nat) (k : Epoch) : let t := s.setEpoch n k
    t.pending = s.pending ∧ t.regs = s.regs ∧ t.latch = s.latch ∧ t.time = s.time ∧ t.cyc100 = s.cyc100 ∧ t.freeIx = s.freeIx ∧ t.mem = s.mem ∧
    t.poison = s.poison ∧ t.wellBad = s.wellBad ∧ t.zmap = s.zmap ∧ t.dir = s.dir ∧ t.scrub = s.scrub ∧ t.nib = s.nib ∧ t.hart = s.hart ∧
    t.waiting = s.waiting ∧ t.poolQ = s.poolQ ∧ t.ctx = s.ctx ∧ t.hostReads = s.hostReads ∧ t.nextTag = s.nextTag ∧ t.images = s.images ∧ t.bob = s.bob ∧
    t.feed = s.feed ∧ t.arb = s.arb ∧ t.tamb = s.tamb ∧ t.deadSpares = s.deadSpares ∧ t.hostBuf = s.hostBuf ∧ t.filet = s.filet ∧ t.tables = s.tables ∧
    t.redirects = s.redirects ∧ t.loads = s.loads ∧ t.folio = s.folio ∧ t.starts = s.starts ∧ t.seqs = s.seqs ∧ t.recvEpoch = s.recvEpoch ∧ t.outq = s.outq ∧
    t.taken = s.taken ∧ t.fn = s.fn ∧ t.perm = s.perm ∧ t.unitMap = s.unitMap ∧ t.stroke = s.stroke ∧ t.ports = s.ports ∧ t.links = s.links ∧
    t.slots = s.slots ∧ t.watches = s.watches ∧ t.sampledAt = s.sampledAt ∧ t.closed = s.closed ∧ t.probes = s.probes ∧ t.start = s.start ∧ t.power = s.power ∧
    t.stw = s.stw ∧ t.rack = s.rack ∧ t.straps = s.straps ∧ t.inval = s.inval ∧ t.replays = s.replays ∧ t.outbox = s.outbox := by and_intros <;> rfl

@[simp] theorem setPort_frame (s : State) (n : Nat) (k : PortSt) : let t := s.setPort n k
    t.pending = s.pending ∧ t.regs = s.regs ∧ t.latch = s.latch ∧ t.time = s.time ∧ t.cyc100 = s.cyc100 ∧ t.freeIx = s.freeIx ∧ t.mem = s.mem ∧
    t.poison = s.poison ∧ t.wellBad = s.wellBad ∧ t.zmap = s.zmap ∧ t.dir = s.dir ∧ t.scrub = s.scrub ∧ t.nib = s.nib ∧ t.hart = s.hart ∧
    t.waiting = s.waiting ∧ t.poolQ = s.poolQ ∧ t.ctx = s.ctx ∧ t.hostReads = s.hostReads ∧ t.nextTag = s.nextTag ∧ t.images = s.images ∧ t.bob = s.bob ∧
    t.feed = s.feed ∧ t.arb = s.arb ∧ t.tamb = s.tamb ∧ t.deadSpares = s.deadSpares ∧ t.hostBuf = s.hostBuf ∧ t.filet = s.filet ∧ t.tables = s.tables ∧
    t.redirects = s.redirects ∧ t.loads = s.loads ∧ t.folio = s.folio ∧ t.starts = s.starts ∧ t.seqs = s.seqs ∧ t.epoch = s.epoch ∧ t.recvEpoch = s.recvEpoch ∧
    t.outq = s.outq ∧ t.taken = s.taken ∧ t.fn = s.fn ∧ t.perm = s.perm ∧ t.unitMap = s.unitMap ∧ t.stroke = s.stroke ∧ t.links = s.links ∧ t.slots = s.slots ∧
    t.watches = s.watches ∧ t.sampledAt = s.sampledAt ∧ t.closed = s.closed ∧ t.probes = s.probes ∧ t.start = s.start ∧ t.power = s.power ∧ t.stw = s.stw ∧
    t.rack = s.rack ∧ t.straps = s.straps ∧ t.inval = s.inval ∧ t.replays = s.replays ∧ t.outbox = s.outbox := by and_intros <;> rfl

@[simp] theorem setLink_frame (s : State) (n : Nat) (k : LinkSt) : let t := s.setLink n k
    t.pending = s.pending ∧ t.regs = s.regs ∧ t.latch = s.latch ∧ t.time = s.time ∧ t.cyc100 = s.cyc100 ∧ t.freeIx = s.freeIx ∧ t.mem = s.mem ∧
    t.poison = s.poison ∧ t.wellBad = s.wellBad ∧ t.zmap = s.zmap ∧ t.dir = s.dir ∧ t.scrub = s.scrub ∧ t.nib = s.nib ∧ t.hart = s.hart ∧
    t.waiting = s.waiting ∧ t.poolQ = s.poolQ ∧ t.ctx = s.ctx ∧ t.hostReads = s.hostReads ∧ t.nextTag = s.nextTag ∧ t.images = s.images ∧ t.bob = s.bob ∧
    t.feed = s.feed ∧ t.arb = s.arb ∧ t.tamb = s.tamb ∧ t.deadSpares = s.deadSpares ∧ t.hostBuf = s.hostBuf ∧ t.filet = s.filet ∧ t.tables = s.tables ∧
    t.redirects = s.redirects ∧ t.loads = s.loads ∧ t.folio = s.folio ∧ t.starts = s.starts ∧ t.seqs = s.seqs ∧ t.epoch = s.epoch ∧ t.recvEpoch = s.recvEpoch ∧
    t.outq = s.outq ∧ t.taken = s.taken ∧ t.fn = s.fn ∧ t.perm = s.perm ∧ t.unitMap = s.unitMap ∧ t.stroke = s.stroke ∧ t.ports = s.ports ∧ t.slots = s.slots ∧
    t.watches = s.watches ∧ t.sampledAt = s.sampledAt ∧ t.closed = s.closed ∧ t.probes = s.probes ∧ t.start = s.start ∧ t.power = s.power ∧ t.stw = s.stw ∧
    t.rack = s.rack ∧ t.straps = s.straps ∧ t.inval = s.inval ∧ t.replays = s.replays ∧ t.outbox = s.outbox := by and_intros <;> rfl

@[simp] theorem setClosed_frame (s : State) (n : Nat) (k : Closed) : let t := s.setClosed n k
    t.pending = s.pending ∧ t.regs = s.regs ∧ t.latch = s.latch ∧ t.time = s.time ∧ t.cyc100 = s.cyc100 ∧ t.freeIx = s.freeIx ∧ t.mem = s.mem ∧
    t.poison = s.poison ∧ t.wellBad = s.wellBad ∧ t.zmap = s.zmap ∧ t.dir = s.dir ∧ t.scrub = s.scrub ∧ t.nib = s.nib ∧ t.hart = s.hart ∧
    t.waiting = s.waiting ∧ t.poolQ = s.poolQ ∧ t.ctx = s.ctx ∧ t.hostReads = s.hostReads ∧ t.nextTag = s.nextTag ∧ t.images = s.images ∧ t.bob = s.bob ∧
    t.feed = s.feed ∧ t.arb = s.arb ∧ t.tamb = s.tamb ∧ t.deadSpares = s.deadSpares ∧ t.hostBuf = s.hostBuf ∧ t.filet = s.filet ∧ t.tables = s.tables ∧
    t.redirects = s.redirects ∧ t.loads = s.loads ∧ t.folio = s.folio ∧ t.starts = s.starts ∧ t.seqs = s.seqs ∧ t.epoch = s.epoch ∧ t.recvEpoch = s.recvEpoch ∧
    t.outq = s.outq ∧ t.taken = s.taken ∧ t.fn = s.fn ∧ t.perm = s.perm ∧ t.unitMap = s.unitMap ∧ t.stroke = s.stroke ∧ t.ports = s.ports ∧ t.links = s.links ∧
    t.slots = s.slots ∧ t.watches = s.watches ∧ t.sampledAt = s.sampledAt ∧ t.probes = s.probes ∧ t.start = s.start ∧ t.power = s.power ∧ t.stw = s.stw ∧
    t.rack = s.rack ∧ t.straps = s.straps ∧ t.inval = s.inval ∧ t.replays = s.replays ∧ t.outbox = s.outbox := by and_intros <;> rfl

@[simp] theorem setScrub_frame (s : State) (n k : Nat) : let t := s.setScrub n k
    t.pending = s.pending ∧ t.regs = s.regs ∧ t.latch = s.latch ∧ t.time = s.time ∧ t.cyc100 = s.cyc100 ∧ t.freeIx = s.freeIx ∧ t.mem = s.mem ∧
    t.poison = s.poison ∧ t.wellBad = s.wellBad ∧ t.zmap = s.zmap ∧ t.dir = s.dir ∧ t.nib = s.nib ∧ t.hart = s.hart ∧ t.waiting = s.waiting ∧
    t.poolQ = s.poolQ ∧ t.ctx = s.ctx ∧ t.hostReads = s.hostReads ∧ t.nextTag = s.nextTag ∧ t.images = s.images ∧ t.bob = s.bob ∧ t.feed = s.feed ∧
    t.arb = s.arb ∧ t.tamb = s.tamb ∧ t.deadSpares = s.deadSpares ∧ t.hostBuf = s.hostBuf ∧ t.filet = s.filet ∧ t.tables = s.tables ∧
    t.redirects = s.redirects ∧ t.loads = s.loads ∧ t.folio = s.folio ∧ t.starts = s.starts ∧ t.seqs = s.seqs ∧ t.epoch = s.epoch ∧ t.recvEpoch = s.recvEpoch ∧
    t.outq = s.outq ∧ t.taken = s.taken ∧ t.fn = s.fn ∧ t.perm = s.perm ∧ t.unitMap = s.unitMap ∧ t.stroke = s.stroke ∧ t.ports = s.ports ∧ t.links = s.links ∧
    t.slots = s.slots ∧ t.watches = s.watches ∧ t.sampledAt = s.sampledAt ∧ t.closed = s.closed ∧ t.probes = s.probes ∧ t.start = s.start ∧ t.power = s.power ∧
    t.stw = s.stw ∧ t.rack = s.rack ∧ t.straps = s.straps ∧ t.inval = s.inval ∧ t.replays = s.replays ∧ t.outbox = s.outbox := by and_intros <;> rfl

@[simp] theorem setPoison_frame (s : State) (n : Nat) (k : Bool) : let t := s.setPoison n k
    t.pending = s.pending ∧ t.regs = s.regs ∧ t.latch = s.latch ∧ t.time = s.time ∧ t.cyc100 = s.cyc100 ∧ t.freeIx = s.freeIx ∧ t.mem = s.mem ∧
    t.wellBad = s.wellBad ∧ t.zmap = s.zmap ∧ t.dir = s.dir ∧ t.scrub = s.scrub ∧ t.nib = s.nib ∧ t.hart = s.hart ∧ t.waiting = s.waiting ∧ t.poolQ = s.poolQ ∧
    t.ctx = s.ctx ∧ t.hostReads = s.hostReads ∧ t.nextTag = s.nextTag ∧ t.images = s.images ∧ t.bob = s.bob ∧ t.feed = s.feed ∧ t.arb = s.arb ∧
    t.tamb = s.tamb ∧ t.deadSpares = s.deadSpares ∧ t.hostBuf = s.hostBuf ∧ t.filet = s.filet ∧ t.tables = s.tables ∧ t.redirects = s.redirects ∧
    t.loads = s.loads ∧ t.folio = s.folio ∧ t.starts = s.starts ∧ t.seqs = s.seqs ∧ t.epoch = s.epoch ∧ t.recvEpoch = s.recvEpoch ∧ t.outq = s.outq ∧
    t.taken = s.taken ∧ t.fn = s.fn ∧ t.perm = s.perm ∧ t.unitMap = s.unitMap ∧ t.stroke = s.stroke ∧ t.ports = s.ports ∧ t.links = s.links ∧
    t.slots = s.slots ∧ t.watches = s.watches ∧ t.sampledAt = s.sampledAt ∧ t.closed = s.closed ∧ t.probes = s.probes ∧ t.start = s.start ∧ t.power = s.power ∧
    t.stw = s.stw ∧ t.rack = s.rack ∧ t.straps = s.straps ∧ t.inval = s.inval ∧ t.replays = s.replays ∧ t.outbox = s.outbox := by and_intros <;> rfl

@[simp] theorem setBadWord_frame (s : State) (n : Nat) (k : Bool) : let t := s.setBadWord n k
    t.pending = s.pending ∧ t.regs = s.regs ∧ t.latch = s.latch ∧ t.time = s.time ∧ t.cyc100 = s.cyc100 ∧ t.freeIx = s.freeIx ∧ t.mem = s.mem ∧
    t.poison = s.poison ∧ t.zmap = s.zmap ∧ t.dir = s.dir ∧ t.scrub = s.scrub ∧ t.nib = s.nib ∧ t.hart = s.hart ∧ t.waiting = s.waiting ∧ t.poolQ = s.poolQ ∧
    t.ctx = s.ctx ∧ t.hostReads = s.hostReads ∧ t.nextTag = s.nextTag ∧ t.images = s.images ∧ t.bob = s.bob ∧ t.feed = s.feed ∧ t.arb = s.arb ∧
    t.tamb = s.tamb ∧ t.deadSpares = s.deadSpares ∧ t.hostBuf = s.hostBuf ∧ t.filet = s.filet ∧ t.tables = s.tables ∧ t.redirects = s.redirects ∧
    t.loads = s.loads ∧ t.folio = s.folio ∧ t.starts = s.starts ∧ t.seqs = s.seqs ∧ t.epoch = s.epoch ∧ t.recvEpoch = s.recvEpoch ∧ t.outq = s.outq ∧
    t.taken = s.taken ∧ t.fn = s.fn ∧ t.perm = s.perm ∧ t.unitMap = s.unitMap ∧ t.stroke = s.stroke ∧ t.ports = s.ports ∧ t.links = s.links ∧
    t.slots = s.slots ∧ t.watches = s.watches ∧ t.sampledAt = s.sampledAt ∧ t.closed = s.closed ∧ t.probes = s.probes ∧ t.start = s.start ∧ t.power = s.power ∧
    t.stw = s.stw ∧ t.rack = s.rack ∧ t.straps = s.straps ∧ t.inval = s.inval ∧ t.replays = s.replays ∧ t.outbox = s.outbox := by and_intros <;> rfl

@[simp] theorem setZeroMap_frame (s : State) (n : Nat) (k : Bool) : let t := s.setZeroMap n k
    t.pending = s.pending ∧ t.regs = s.regs ∧ t.latch = s.latch ∧ t.time = s.time ∧ t.cyc100 = s.cyc100 ∧ t.freeIx = s.freeIx ∧ t.mem = s.mem ∧
    t.poison = s.poison ∧ t.wellBad = s.wellBad ∧ t.dir = s.dir ∧ t.scrub = s.scrub ∧ t.nib = s.nib ∧ t.hart = s.hart ∧ t.waiting = s.waiting ∧
    t.poolQ = s.poolQ ∧ t.ctx = s.ctx ∧ t.hostReads = s.hostReads ∧ t.nextTag = s.nextTag ∧ t.images = s.images ∧ t.bob = s.bob ∧ t.feed = s.feed ∧
    t.arb = s.arb ∧ t.tamb = s.tamb ∧ t.deadSpares = s.deadSpares ∧ t.hostBuf = s.hostBuf ∧ t.filet = s.filet ∧ t.tables = s.tables ∧
    t.redirects = s.redirects ∧ t.loads = s.loads ∧ t.folio = s.folio ∧ t.starts = s.starts ∧ t.seqs = s.seqs ∧ t.epoch = s.epoch ∧ t.recvEpoch = s.recvEpoch ∧
    t.outq = s.outq ∧ t.taken = s.taken ∧ t.fn = s.fn ∧ t.perm = s.perm ∧ t.unitMap = s.unitMap ∧ t.stroke = s.stroke ∧ t.ports = s.ports ∧ t.links = s.links ∧
    t.slots = s.slots ∧ t.watches = s.watches ∧ t.sampledAt = s.sampledAt ∧ t.closed = s.closed ∧ t.probes = s.probes ∧ t.start = s.start ∧ t.power = s.power ∧
    t.stw = s.stw ∧ t.rack = s.rack ∧ t.straps = s.straps ∧ t.inval = s.inval ∧ t.replays = s.replays ∧ t.outbox = s.outbox := by and_intros <;> rfl

@[simp] theorem setTmc_frame (s : State) (n : Nat) (k : Tmc) : let t := s.setTmc n k
    t.pending = s.pending ∧ t.regs = s.regs ∧ t.latch = s.latch ∧ t.time = s.time ∧ t.cyc100 = s.cyc100 ∧ t.freeIx = s.freeIx ∧ t.mem = s.mem ∧
    t.poison = s.poison ∧ t.wellBad = s.wellBad ∧ t.zmap = s.zmap ∧ t.dir = s.dir ∧ t.scrub = s.scrub ∧ t.nib = s.nib ∧ t.hart = s.hart ∧
    t.waiting = s.waiting ∧ t.poolQ = s.poolQ ∧ t.ctx = s.ctx ∧ t.hostReads = s.hostReads ∧ t.nextTag = s.nextTag ∧ t.images = s.images ∧ t.bob = s.bob ∧
    t.feed = s.feed ∧ t.arb = s.arb ∧ t.tamb = s.tamb ∧ t.deadSpares = s.deadSpares ∧ t.hostBuf = s.hostBuf ∧ t.filet = s.filet ∧ t.tables = s.tables ∧
    t.redirects = s.redirects ∧ t.loads = s.loads ∧ t.folio = s.folio ∧ t.starts = s.starts ∧ t.seqs = s.seqs ∧ t.epoch = s.epoch ∧ t.recvEpoch = s.recvEpoch ∧
    t.outq = s.outq ∧ t.taken = s.taken ∧ t.fn = s.fn ∧ t.perm = s.perm ∧ t.unitMap = s.unitMap ∧ t.stroke = s.stroke ∧ t.ports = s.ports ∧ t.links = s.links ∧
    t.slots = s.slots ∧ t.watches = s.watches ∧ t.sampledAt = s.sampledAt ∧ t.closed = s.closed ∧ t.probes = s.probes ∧ t.start = s.start ∧ t.power = s.power ∧
    t.stw = s.stw ∧ t.straps = s.straps ∧ t.inval = s.inval ∧ t.replays = s.replays ∧ t.outbox = s.outbox := by and_intros <;> rfl

@[simp] theorem setTray_frame (s : State) (n : Nat) (k : SwitchTray) : let t := s.setTray n k
    t.pending = s.pending ∧ t.regs = s.regs ∧ t.latch = s.latch ∧ t.time = s.time ∧ t.cyc100 = s.cyc100 ∧ t.freeIx = s.freeIx ∧ t.mem = s.mem ∧
    t.poison = s.poison ∧ t.wellBad = s.wellBad ∧ t.zmap = s.zmap ∧ t.dir = s.dir ∧ t.scrub = s.scrub ∧ t.nib = s.nib ∧ t.hart = s.hart ∧
    t.waiting = s.waiting ∧ t.poolQ = s.poolQ ∧ t.ctx = s.ctx ∧ t.hostReads = s.hostReads ∧ t.nextTag = s.nextTag ∧ t.images = s.images ∧ t.bob = s.bob ∧
    t.feed = s.feed ∧ t.arb = s.arb ∧ t.tamb = s.tamb ∧ t.deadSpares = s.deadSpares ∧ t.hostBuf = s.hostBuf ∧ t.filet = s.filet ∧ t.tables = s.tables ∧
    t.redirects = s.redirects ∧ t.loads = s.loads ∧ t.folio = s.folio ∧ t.starts = s.starts ∧ t.seqs = s.seqs ∧ t.epoch = s.epoch ∧ t.recvEpoch = s.recvEpoch ∧
    t.outq = s.outq ∧ t.taken = s.taken ∧ t.fn = s.fn ∧ t.perm = s.perm ∧ t.unitMap = s.unitMap ∧ t.stroke = s.stroke ∧ t.ports = s.ports ∧ t.links = s.links ∧
    t.slots = s.slots ∧ t.watches = s.watches ∧ t.sampledAt = s.sampledAt ∧ t.closed = s.closed ∧ t.probes = s.probes ∧ t.start = s.start ∧ t.power = s.power ∧
    t.stw = s.stw ∧ t.straps = s.straps ∧ t.inval = s.inval ∧ t.replays = s.replays ∧ t.outbox = s.outbox := by and_intros <;> rfl

@[simp] theorem setRm_frame (s : State) (m : Nat) (k : Rm) : let t := s.setRm m k
    t.pending = s.pending ∧ t.regs = s.regs ∧ t.latch = s.latch ∧ t.time = s.time ∧ t.cyc100 = s.cyc100 ∧ t.freeIx = s.freeIx ∧ t.mem = s.mem ∧
    t.poison = s.poison ∧ t.wellBad = s.wellBad ∧ t.zmap = s.zmap ∧ t.dir = s.dir ∧ t.scrub = s.scrub ∧ t.nib = s.nib ∧ t.hart = s.hart ∧
    t.waiting = s.waiting ∧ t.poolQ = s.poolQ ∧ t.ctx = s.ctx ∧ t.hostReads = s.hostReads ∧ t.nextTag = s.nextTag ∧ t.images = s.images ∧ t.bob = s.bob ∧
    t.feed = s.feed ∧ t.arb = s.arb ∧ t.tamb = s.tamb ∧ t.deadSpares = s.deadSpares ∧ t.hostBuf = s.hostBuf ∧ t.filet = s.filet ∧ t.tables = s.tables ∧
    t.redirects = s.redirects ∧ t.loads = s.loads ∧ t.folio = s.folio ∧ t.starts = s.starts ∧ t.seqs = s.seqs ∧ t.epoch = s.epoch ∧ t.recvEpoch = s.recvEpoch ∧
    t.outq = s.outq ∧ t.taken = s.taken ∧ t.fn = s.fn ∧ t.perm = s.perm ∧ t.unitMap = s.unitMap ∧ t.stroke = s.stroke ∧ t.ports = s.ports ∧ t.links = s.links ∧
    t.slots = s.slots ∧ t.watches = s.watches ∧ t.sampledAt = s.sampledAt ∧ t.closed = s.closed ∧ t.probes = s.probes ∧ t.start = s.start ∧ t.power = s.power ∧
    t.stw = s.stw ∧ t.straps = s.straps ∧ t.inval = s.inval ∧ t.replays = s.replays ∧ t.outbox = s.outbox := by and_intros <;> rfl

@[simp] theorem setOutQueue_frame (s : State) (p c : Nat) (q : List OutMsg) : let t := s.setOutQueue p c q
    t.pending = s.pending ∧ t.regs = s.regs ∧ t.latch = s.latch ∧ t.time = s.time ∧ t.cyc100 = s.cyc100 ∧ t.freeIx = s.freeIx ∧ t.mem = s.mem ∧
    t.poison = s.poison ∧ t.wellBad = s.wellBad ∧ t.zmap = s.zmap ∧ t.dir = s.dir ∧ t.scrub = s.scrub ∧ t.nib = s.nib ∧ t.hart = s.hart ∧
    t.waiting = s.waiting ∧ t.poolQ = s.poolQ ∧ t.ctx = s.ctx ∧ t.hostReads = s.hostReads ∧ t.nextTag = s.nextTag ∧ t.images = s.images ∧ t.bob = s.bob ∧
    t.feed = s.feed ∧ t.arb = s.arb ∧ t.tamb = s.tamb ∧ t.deadSpares = s.deadSpares ∧ t.hostBuf = s.hostBuf ∧ t.filet = s.filet ∧ t.tables = s.tables ∧
    t.redirects = s.redirects ∧ t.loads = s.loads ∧ t.folio = s.folio ∧ t.starts = s.starts ∧ t.seqs = s.seqs ∧ t.epoch = s.epoch ∧ t.recvEpoch = s.recvEpoch ∧
    t.taken = s.taken ∧ t.fn = s.fn ∧ t.perm = s.perm ∧ t.unitMap = s.unitMap ∧ t.stroke = s.stroke ∧ t.ports = s.ports ∧ t.links = s.links ∧
    t.slots = s.slots ∧ t.watches = s.watches ∧ t.sampledAt = s.sampledAt ∧ t.closed = s.closed ∧ t.probes = s.probes ∧ t.start = s.start ∧ t.power = s.power ∧
    t.stw = s.stw ∧ t.rack = s.rack ∧ t.straps = s.straps ∧ t.inval = s.inval ∧ t.replays = s.replays ∧ t.outbox = s.outbox := by and_intros <;> rfl

@[simp] theorem setRecv_frame (s : State) (p c : Nat) (e : RecvEpoch) : let t := s.setRecv p c e
    t.pending = s.pending ∧ t.regs = s.regs ∧ t.latch = s.latch ∧ t.time = s.time ∧ t.cyc100 = s.cyc100 ∧ t.freeIx = s.freeIx ∧ t.mem = s.mem ∧
    t.poison = s.poison ∧ t.wellBad = s.wellBad ∧ t.zmap = s.zmap ∧ t.dir = s.dir ∧ t.scrub = s.scrub ∧ t.nib = s.nib ∧ t.hart = s.hart ∧
    t.waiting = s.waiting ∧ t.poolQ = s.poolQ ∧ t.ctx = s.ctx ∧ t.hostReads = s.hostReads ∧ t.nextTag = s.nextTag ∧ t.images = s.images ∧ t.bob = s.bob ∧
    t.feed = s.feed ∧ t.arb = s.arb ∧ t.tamb = s.tamb ∧ t.deadSpares = s.deadSpares ∧ t.hostBuf = s.hostBuf ∧ t.filet = s.filet ∧ t.tables = s.tables ∧
    t.redirects = s.redirects ∧ t.loads = s.loads ∧ t.folio = s.folio ∧ t.starts = s.starts ∧ t.seqs = s.seqs ∧ t.epoch = s.epoch ∧ t.outq = s.outq ∧
    t.taken = s.taken ∧ t.fn = s.fn ∧ t.perm = s.perm ∧ t.unitMap = s.unitMap ∧ t.stroke = s.stroke ∧ t.ports = s.ports ∧ t.links = s.links ∧
    t.slots = s.slots ∧ t.watches = s.watches ∧ t.sampledAt = s.sampledAt ∧ t.closed = s.closed ∧ t.probes = s.probes ∧ t.start = s.start ∧ t.power = s.power ∧
    t.stw = s.stw ∧ t.rack = s.rack ∧ t.straps = s.straps ∧ t.inval = s.inval ∧ t.replays = s.replays ∧ t.outbox = s.outbox := by and_intros <;> rfl

@[simp] theorem setLoad_frame (s : State) (key shard : Nat) (l : FiletLoad) : let t := s.setLoad key shard l
    t.pending = s.pending ∧ t.regs = s.regs ∧ t.latch = s.latch ∧ t.time = s.time ∧ t.cyc100 = s.cyc100 ∧ t.freeIx = s.freeIx ∧ t.mem = s.mem ∧
    t.poison = s.poison ∧ t.wellBad = s.wellBad ∧ t.zmap = s.zmap ∧ t.dir = s.dir ∧ t.scrub = s.scrub ∧ t.nib = s.nib ∧ t.hart = s.hart ∧
    t.waiting = s.waiting ∧ t.poolQ = s.poolQ ∧ t.ctx = s.ctx ∧ t.hostReads = s.hostReads ∧ t.nextTag = s.nextTag ∧ t.images = s.images ∧ t.bob = s.bob ∧
    t.feed = s.feed ∧ t.arb = s.arb ∧ t.tamb = s.tamb ∧ t.deadSpares = s.deadSpares ∧ t.hostBuf = s.hostBuf ∧ t.filet = s.filet ∧ t.tables = s.tables ∧
    t.redirects = s.redirects ∧ t.folio = s.folio ∧ t.starts = s.starts ∧ t.seqs = s.seqs ∧ t.epoch = s.epoch ∧ t.recvEpoch = s.recvEpoch ∧ t.outq = s.outq ∧
    t.taken = s.taken ∧ t.fn = s.fn ∧ t.perm = s.perm ∧ t.unitMap = s.unitMap ∧ t.stroke = s.stroke ∧ t.ports = s.ports ∧ t.links = s.links ∧
    t.slots = s.slots ∧ t.watches = s.watches ∧ t.sampledAt = s.sampledAt ∧ t.closed = s.closed ∧ t.probes = s.probes ∧ t.start = s.start ∧ t.power = s.power ∧
    t.stw = s.stw ∧ t.rack = s.rack ∧ t.straps = s.straps ∧ t.inval = s.inval ∧ t.replays = s.replays ∧ t.outbox = s.outbox := by and_intros <;> rfl

@[simp] theorem countStart_frame (s : State) (engine tile unit : Nat) : let t := s.countStart engine tile unit
    t.pending = s.pending ∧ t.regs = s.regs ∧ t.latch = s.latch ∧ t.time = s.time ∧ t.cyc100 = s.cyc100 ∧ t.freeIx = s.freeIx ∧ t.mem = s.mem ∧
    t.poison = s.poison ∧ t.wellBad = s.wellBad ∧ t.zmap = s.zmap ∧ t.dir = s.dir ∧ t.scrub = s.scrub ∧ t.nib = s.nib ∧ t.hart = s.hart ∧
    t.waiting = s.waiting ∧ t.poolQ = s.poolQ ∧ t.ctx = s.ctx ∧ t.hostReads = s.hostReads ∧ t.nextTag = s.nextTag ∧ t.images = s.images ∧ t.bob = s.bob ∧
    t.feed = s.feed ∧ t.arb = s.arb ∧ t.tamb = s.tamb ∧ t.deadSpares = s.deadSpares ∧ t.hostBuf = s.hostBuf ∧ t.filet = s.filet ∧ t.tables = s.tables ∧
    t.redirects = s.redirects ∧ t.loads = s.loads ∧ t.folio = s.folio ∧ t.seqs = s.seqs ∧ t.epoch = s.epoch ∧ t.recvEpoch = s.recvEpoch ∧ t.outq = s.outq ∧
    t.taken = s.taken ∧ t.fn = s.fn ∧ t.perm = s.perm ∧ t.unitMap = s.unitMap ∧ t.stroke = s.stroke ∧ t.ports = s.ports ∧ t.links = s.links ∧
    t.slots = s.slots ∧ t.watches = s.watches ∧ t.sampledAt = s.sampledAt ∧ t.closed = s.closed ∧ t.probes = s.probes ∧ t.start = s.start ∧ t.power = s.power ∧
    t.stw = s.stw ∧ t.rack = s.rack ∧ t.straps = s.straps ∧ t.inval = s.inval ∧ t.replays = s.replays ∧ t.outbox = s.outbox := by and_intros <;> rfl

@[simp] theorem setPhys_frame (s : State) (kind tile unit phys : Nat) : let t := s.setPhys kind tile unit phys
    t.pending = s.pending ∧ t.regs = s.regs ∧ t.latch = s.latch ∧ t.time = s.time ∧ t.cyc100 = s.cyc100 ∧ t.freeIx = s.freeIx ∧ t.mem = s.mem ∧
    t.poison = s.poison ∧ t.wellBad = s.wellBad ∧ t.zmap = s.zmap ∧ t.dir = s.dir ∧ t.scrub = s.scrub ∧ t.nib = s.nib ∧ t.hart = s.hart ∧
    t.waiting = s.waiting ∧ t.poolQ = s.poolQ ∧ t.ctx = s.ctx ∧ t.hostReads = s.hostReads ∧ t.nextTag = s.nextTag ∧ t.images = s.images ∧ t.bob = s.bob ∧
    t.feed = s.feed ∧ t.arb = s.arb ∧ t.tamb = s.tamb ∧ t.deadSpares = s.deadSpares ∧ t.hostBuf = s.hostBuf ∧ t.filet = s.filet ∧ t.tables = s.tables ∧
    t.redirects = s.redirects ∧ t.loads = s.loads ∧ t.folio = s.folio ∧ t.starts = s.starts ∧ t.seqs = s.seqs ∧ t.epoch = s.epoch ∧ t.recvEpoch = s.recvEpoch ∧
    t.outq = s.outq ∧ t.taken = s.taken ∧ t.fn = s.fn ∧ t.perm = s.perm ∧ t.stroke = s.stroke ∧ t.ports = s.ports ∧ t.links = s.links ∧ t.slots = s.slots ∧
    t.watches = s.watches ∧ t.sampledAt = s.sampledAt ∧ t.closed = s.closed ∧ t.probes = s.probes ∧ t.start = s.start ∧ t.power = s.power ∧ t.stw = s.stw ∧
    t.rack = s.rack ∧ t.straps = s.straps ∧ t.inval = s.inval ∧ t.replays = s.replays ∧ t.outbox = s.outbox := by and_intros <;> rfl

@[simp] theorem send_frame (s : State) (o : Output) : let t := s.send o
    t.pending = s.pending ∧ t.regs = s.regs ∧ t.latch = s.latch ∧ t.time = s.time ∧ t.cyc100 = s.cyc100 ∧ t.freeIx = s.freeIx ∧ t.mem = s.mem ∧
    t.poison = s.poison ∧ t.wellBad = s.wellBad ∧ t.zmap = s.zmap ∧ t.dir = s.dir ∧ t.scrub = s.scrub ∧ t.nib = s.nib ∧ t.hart = s.hart ∧
    t.waiting = s.waiting ∧ t.poolQ = s.poolQ ∧ t.ctx = s.ctx ∧ t.hostReads = s.hostReads ∧ t.nextTag = s.nextTag ∧ t.images = s.images ∧ t.bob = s.bob ∧
    t.feed = s.feed ∧ t.arb = s.arb ∧ t.tamb = s.tamb ∧ t.deadSpares = s.deadSpares ∧ t.hostBuf = s.hostBuf ∧ t.filet = s.filet ∧ t.tables = s.tables ∧
    t.redirects = s.redirects ∧ t.loads = s.loads ∧ t.folio = s.folio ∧ t.starts = s.starts ∧ t.seqs = s.seqs ∧ t.epoch = s.epoch ∧ t.recvEpoch = s.recvEpoch ∧
    t.outq = s.outq ∧ t.taken = s.taken ∧ t.fn = s.fn ∧ t.perm = s.perm ∧ t.unitMap = s.unitMap ∧ t.stroke = s.stroke ∧ t.ports = s.ports ∧ t.links = s.links ∧
    t.slots = s.slots ∧ t.watches = s.watches ∧ t.sampledAt = s.sampledAt ∧ t.closed = s.closed ∧ t.probes = s.probes ∧ t.start = s.start ∧ t.power = s.power ∧
    t.stw = s.stw ∧ t.rack = s.rack ∧ t.straps = s.straps ∧ t.inval = s.inval ∧ t.replays = s.replays := by and_intros <;> rfl

@[simp] theorem putCells_frame (s : State) (cs : List Host.Cell) : let t := s.putCells cs
    t.pending = s.pending ∧ t.regs = s.regs ∧ t.latch = s.latch ∧ t.time = s.time ∧ t.cyc100 = s.cyc100 ∧ t.freeIx = s.freeIx ∧ t.poison = s.poison ∧
    t.wellBad = s.wellBad ∧ t.zmap = s.zmap ∧ t.dir = s.dir ∧ t.scrub = s.scrub ∧ t.nib = s.nib ∧ t.hart = s.hart ∧ t.waiting = s.waiting ∧ t.poolQ = s.poolQ ∧
    t.ctx = s.ctx ∧ t.hostReads = s.hostReads ∧ t.nextTag = s.nextTag ∧ t.images = s.images ∧ t.bob = s.bob ∧ t.feed = s.feed ∧ t.arb = s.arb ∧
    t.tamb = s.tamb ∧ t.deadSpares = s.deadSpares ∧ t.hostBuf = s.hostBuf ∧ t.filet = s.filet ∧ t.tables = s.tables ∧ t.redirects = s.redirects ∧
    t.loads = s.loads ∧ t.folio = s.folio ∧ t.starts = s.starts ∧ t.seqs = s.seqs ∧ t.epoch = s.epoch ∧ t.recvEpoch = s.recvEpoch ∧ t.outq = s.outq ∧
    t.taken = s.taken ∧ t.fn = s.fn ∧ t.perm = s.perm ∧ t.unitMap = s.unitMap ∧ t.stroke = s.stroke ∧ t.ports = s.ports ∧ t.links = s.links ∧
    t.slots = s.slots ∧ t.watches = s.watches ∧ t.sampledAt = s.sampledAt ∧ t.closed = s.closed ∧ t.probes = s.probes ∧ t.start = s.start ∧ t.power = s.power ∧
    t.stw = s.stw ∧ t.rack = s.rack ∧ t.straps = s.straps ∧ t.inval = s.inval ∧ t.replays = s.replays ∧ t.outbox = s.outbox := by and_intros <;> rfl

@[simp] theorem free_frame (s : State)  : let t := s.free.2
    t.pending = s.pending ∧ t.regs = s.regs ∧ t.latch = s.latch ∧ t.time = s.time ∧ t.cyc100 = s.cyc100 ∧ t.mem = s.mem ∧ t.poison = s.poison ∧
    t.wellBad = s.wellBad ∧ t.zmap = s.zmap ∧ t.dir = s.dir ∧ t.scrub = s.scrub ∧ t.nib = s.nib ∧ t.hart = s.hart ∧ t.waiting = s.waiting ∧ t.poolQ = s.poolQ ∧
    t.ctx = s.ctx ∧ t.hostReads = s.hostReads ∧ t.nextTag = s.nextTag ∧ t.images = s.images ∧ t.bob = s.bob ∧ t.feed = s.feed ∧ t.arb = s.arb ∧
    t.tamb = s.tamb ∧ t.deadSpares = s.deadSpares ∧ t.hostBuf = s.hostBuf ∧ t.filet = s.filet ∧ t.tables = s.tables ∧ t.redirects = s.redirects ∧
    t.loads = s.loads ∧ t.folio = s.folio ∧ t.starts = s.starts ∧ t.seqs = s.seqs ∧ t.epoch = s.epoch ∧ t.recvEpoch = s.recvEpoch ∧ t.outq = s.outq ∧
    t.taken = s.taken ∧ t.fn = s.fn ∧ t.perm = s.perm ∧ t.unitMap = s.unitMap ∧ t.stroke = s.stroke ∧ t.ports = s.ports ∧ t.links = s.links ∧
    t.slots = s.slots ∧ t.watches = s.watches ∧ t.sampledAt = s.sampledAt ∧ t.closed = s.closed ∧ t.probes = s.probes ∧ t.start = s.start ∧ t.power = s.power ∧
    t.stw = s.stw ∧ t.rack = s.rack ∧ t.straps = s.straps ∧ t.inval = s.inval ∧ t.replays = s.replays ∧ t.outbox = s.outbox := by and_intros <;> rfl

/-! ### What was set is read back, and the others are as they were -/

@[simp] theorem core_setCore_same (s : State) (n : Nat) (k : NibCore) : (s.setCore n k).core n = k := smGet_smSet_same ..
theorem core_setCore_other (s : State) (n m : Nat) (k : NibCore) (h : m ≠ n) : (s.setCore n k).core m = s.core m := smGet_smSet_other _ _ _ h

@[simp] theorem hartOf_setHart_same (s : State) (n : Nat) (k : Hart) : (s.setHart n k).hartOf n = k := smGet_smSet_same ..
theorem hartOf_setHart_other (s : State) (n m : Nat) (k : Hart) (h : m ≠ n) : (s.setHart n k).hartOf m = s.hartOf m := smGet_smSet_other _ _ _ h

@[simp] theorem context_setContext_same (s : State) (n : Nat) (k : CtxState) : (s.setContext n k).context n = k := smGet_smSet_same ..
theorem context_setContext_other (s : State) (n m : Nat) (k : CtxState) (h : m ≠ n) : (s.setContext n k).context m = s.context m := smGet_smSet_other _ _ _ h

@[simp] theorem fnOf_setFn_same (s : State) (n : Nat) (k : FnState) : (s.setFn n k).fnOf n = k := smGet_smSet_same ..
theorem fnOf_setFn_other (s : State) (n m : Nat) (k : FnState) (h : m ≠ n) : (s.setFn n k).fnOf m = s.fnOf m := smGet_smSet_other _ _ _ h

@[simp] theorem image_setImage_same (s : State) (n : Nat) (k : Image) : (s.setImage n k).image n = k := smGet_smSet_same ..
theorem image_setImage_other (s : State) (n m : Nat) (k : Image) (h : m ≠ n) : (s.setImage n k).image m = s.image m := smGet_smSet_other _ _ _ h

@[simp] theorem bobbin_setBobbin_same (s : State) (n : Nat) (k : Bobbin) : (s.setBobbin n k).bobbin n = k := smGet_smSet_same ..
theorem bobbin_setBobbin_other (s : State) (n m : Nat) (k : Bobbin) (h : m ≠ n) : (s.setBobbin n k).bobbin m = s.bobbin m := smGet_smSet_other _ _ _ h

@[simp] theorem feedCh_setFeedCh_same (s : State) (n : Nat) (k : FeedCh) : (s.setFeedCh n k).feedCh n = k := smGet_smSet_same ..
theorem feedCh_setFeedCh_other (s : State) (n m : Nat) (k : FeedCh) (h : m ≠ n) : (s.setFeedCh n k).feedCh m = s.feedCh m := smGet_smSet_other _ _ _ h

@[simp] theorem tambOf_setTamb_same (s : State) (n : Nat) (k : TambArray) : (s.setTamb n k).tambOf n = k := smGet_smSet_same ..
theorem tambOf_setTamb_other (s : State) (n m : Nat) (k : TambArray) (h : m ≠ n) : (s.setTamb n k).tambOf m = s.tambOf m := smGet_smSet_other _ _ _ h

@[simp] theorem filetOf_setFilet_same (s : State) (n : Nat) (k : FiletUnit) : (s.setFilet n k).filetOf n = k := smGet_smSet_same ..
theorem filetOf_setFilet_other (s : State) (n m : Nat) (k : FiletUnit) (h : m ≠ n) : (s.setFilet n k).filetOf m = s.filetOf m := smGet_smSet_other _ _ _ h

@[simp] theorem tableOf_setTable_same (s : State) (n : Nat) (k : FiletTable) : (s.setTable n k).tableOf n = k := smGet_smSet_same ..
theorem tableOf_setTable_other (s : State) (n m : Nat) (k : FiletTable) (h : m ≠ n) : (s.setTable n k).tableOf m = s.tableOf m := smGet_smSet_other _ _ _ h

@[simp] theorem folioOf_setFolio_same (s : State) (n : Nat) (k : FolioUnit) : (s.setFolio n k).folioOf n = k := smGet_smSet_same ..
theorem folioOf_setFolio_other (s : State) (n m : Nat) (k : FolioUnit) (h : m ≠ n) : (s.setFolio n k).folioOf m = s.folioOf m := smGet_smSet_other _ _ _ h

@[simp] theorem seqOf_setSeq_same (s : State) (n : Nat) (k : FolioSeq) : (s.setSeq n k).seqOf n = k := smGet_smSet_same ..
theorem seqOf_setSeq_other (s : State) (n m : Nat) (k : FolioSeq) (h : m ≠ n) : (s.setSeq n k).seqOf m = s.seqOf m := smGet_smSet_other _ _ _ h

@[simp] theorem epochOf_setEpoch_same (s : State) (n : Nat) (k : Epoch) : (s.setEpoch n k).epochOf n = k := smGet_smSet_same ..
theorem epochOf_setEpoch_other (s : State) (n m : Nat) (k : Epoch) (h : m ≠ n) : (s.setEpoch n k).epochOf m = s.epochOf m := smGet_smSet_other _ _ _ h

@[simp] theorem port_setPort_same (s : State) (n : Nat) (k : PortSt) : (s.setPort n k).port n = k := smGet_smSet_same ..
theorem port_setPort_other (s : State) (n m : Nat) (k : PortSt) (h : m ≠ n) : (s.setPort n k).port m = s.port m := smGet_smSet_other _ _ _ h

@[simp] theorem link_setLink_same (s : State) (n : Nat) (k : LinkSt) : (s.setLink n k).link n = k := smGet_smSet_same ..
theorem link_setLink_other (s : State) (n m : Nat) (k : LinkSt) (h : m ≠ n) : (s.setLink n k).link m = s.link m := smGet_smSet_other _ _ _ h

@[simp] theorem closedOf_setClosed_same (s : State) (n : Nat) (k : Closed) : (s.setClosed n k).closedOf n = k := smGet_smSet_same ..
theorem closedOf_setClosed_other (s : State) (n m : Nat) (k : Closed) (h : m ≠ n) : (s.setClosed n k).closedOf m = s.closedOf m := smGet_smSet_other _ _ _ h

@[simp] theorem scrubAt_setScrub_same (s : State) (n k : Nat) : (s.setScrub n k).scrubAt n = k := smGet_smSet_same ..
theorem scrubAt_setScrub_other (s : State) (n m k : Nat) (h : m ≠ n) : (s.setScrub n k).scrubAt m = s.scrubAt m := smGet_smSet_other _ _ _ h

@[simp] theorem poisoned_setPoison_same (s : State) (n : Nat) (k : Bool) : (s.setPoison n k).poisoned n = k := smGet_smSet_same ..
theorem poisoned_setPoison_other (s : State) (n m : Nat) (k : Bool) (h : m ≠ n) : (s.setPoison n k).poisoned m = s.poisoned m := smGet_smSet_other _ _ _ h

@[simp] theorem badWord_setBadWord_same (s : State) (n : Nat) (k : Bool) : (s.setBadWord n k).badWord n = k := smGet_smSet_same ..
theorem badWord_setBadWord_other (s : State) (n m : Nat) (k : Bool) (h : m ≠ n) : (s.setBadWord n k).badWord m = s.badWord m := smGet_smSet_other _ _ _ h

@[simp] theorem zeroMapped_setZeroMap_same (s : State) (n : Nat) (k : Bool) : (s.setZeroMap n k).zeroMapped n = k := smGet_smSet_same ..
theorem zeroMapped_setZeroMap_other (s : State) (n m : Nat) (k : Bool) (h : m ≠ n) : (s.setZeroMap n k).zeroMapped m = s.zeroMapped m := smGet_smSet_other _ _ _ h

@[simp] theorem tmc_setTmc_same (s : State) (n : Nat) (k : Tmc) : (s.setTmc n k).tmc n = k := smGet_smSet_same ..
theorem tmc_setTmc_other (s : State) (n m : Nat) (k : Tmc) (h : m ≠ n) : (s.setTmc n k).tmc m = s.tmc m := smGet_smSet_other _ _ _ h

@[simp] theorem tray_setTray_same (s : State) (n : Nat) (k : SwitchTray) : (s.setTray n k).tray n = k := smGet_smSet_same ..
theorem tray_setTray_other (s : State) (n m : Nat) (k : SwitchTray) (h : m ≠ n) : (s.setTray n k).tray m = s.tray m := smGet_smSet_other _ _ _ h

@[simp] theorem rm_setRm_same (s : State) (m : Nat) (k : Rm) : (s.setRm m k).rm m = k := by
  by_cases h : m = 0 <;> simp [State.rm, State.setRm, h]
@[simp] theorem outQueue_setOutQueue_same (s : State) (p c : Nat) (q : List OutMsg) : (s.setOutQueue p c q).outQueue p c = q := smGet_smSet_same ..
theorem outQueue_setOutQueue_other (s : State) (p c : Nat) (q : List OutMsg) {p' c' : Nat} (h : 16 * p' + c' ≠ 16 * p + c) :
    (s.setOutQueue p c q).outQueue p' c' = s.outQueue p' c' := smGet_smSet_other _ _ _ h
@[simp] theorem recvOf_setRecv_same (s : State) (p c : Nat) (e : RecvEpoch) : (s.setRecv p c e).recvOf p c = e := smGet_smSet_same ..
theorem recvOf_setRecv_other (s : State) (p c : Nat) (e : RecvEpoch) {p' c' : Nat} (h : 16 * p' + c' ≠ 16 * p + c) :
    (s.setRecv p c e).recvOf p' c' = s.recvOf p' c' := smGet_smSet_other _ _ _ h
@[simp] theorem loadOf_setLoad_same (s : State) (key shard : Nat) (l : FiletLoad) : (s.setLoad key shard l).loadOf key shard = l := smGet_smSet_same ..
theorem loadOf_setLoad_other (s : State) (key shard : Nat) (l : FiletLoad) {key' shard' : Nat} (h : 32 * key' + shard' ≠ 32 * key + shard) :
    (s.setLoad key shard l).loadOf key' shard' = s.loadOf key' shard' := smGet_smSet_other _ _ _ h

/-! ### The registers of a Nib core and of a hart -/

@[simp] theorem sreg_zero (k : NibCore) : k.sreg 0 = 0 := rfl
@[simp] theorem setS_zero (k : NibCore) (w : W64) : k.setS 0 w = k := rfl
theorem sreg_setS_same (k : NibCore) {i : SReg} (w : W64) (h : i ≠ 0) : (k.setS i w).sreg i = w := by
  simp only [NibCore.sreg, NibCore.setS, if_neg h, smGet_smSet_same]
theorem sreg_setS_other (k : NibCore) {i j : SReg} (w : W64) (h : j ≠ i) : (k.setS i w).sreg j = k.sreg j := by
  by_cases hi : i = 0
  · rw [NibCore.setS, if_pos hi]
  · simp only [NibCore.sreg, NibCore.setS, if_neg hi, smGet_smSet_other (fun _ => (0 : W64)) k.s w fun e => h (BitVec.eq_of_toNat_eq e)]
@[simp] theorem vreg_setV_same (k : NibCore) (i : VReg) (w : W512) : (k.setV i w).vreg i = w := smGet_smSet_same ..
theorem vreg_setV_other (k : NibCore) {i j : VReg} (w : W512) (h : j ≠ i) : (k.setV i w).vreg j = k.vreg j :=
  smGet_smSet_other _ _ _ fun e => h (BitVec.eq_of_toNat_eq e)
@[simp] theorem preg_zero (k : NibCore) : k.preg 0 = BitVec.allOnes 64 := rfl
@[simp] theorem setP_zero (k : NibCore) (w : W64) : k.setP 0 w = k := rfl
theorem preg_setP_same (k : NibCore) {i : PReg} (w : W64) (h : i ≠ 0) : (k.setP i w).preg i = w := by
  simp only [NibCore.preg, NibCore.setP, if_neg h, smGet_smSet_same]
theorem preg_setP_other (k : NibCore) {i j : PReg} (w : W64) (h : j ≠ i) : (k.setP i w).preg j = k.preg j := by
  by_cases hi : i = 0
  · rw [NibCore.setP, if_pos hi]
  · simp only [NibCore.preg, NibCore.setP, if_neg hi, smGet_smSet_other (fun _ => (0 : W64)) k.p w fun e => h (BitVec.eq_of_toNat_eq e)]
@[simp] theorem sreg_advance (k : NibCore) (i : SReg) : k.advance.sreg i = k.sreg i := rfl
@[simp] theorem vreg_advance (k : NibCore) (i : VReg) : k.advance.vreg i = k.vreg i := rfl
@[simp] theorem preg_advance (k : NibCore) (i : PReg) : k.advance.preg i = k.preg i := rfl

@[simp] theorem xreg_zero (k : Hart) : k.xreg 0 = 0 := rfl
@[simp] theorem setX_zero (k : Hart) (w : W64) : k.setX 0 w = k := rfl
theorem xreg_setX_same (k : Hart) {i : XReg} (w : W64) (h : i ≠ 0) : (k.setX i w).xreg i = w := by
  simp only [Hart.xreg, Hart.setX, if_neg h, smGet_smSet_same]
theorem xreg_setX_other (k : Hart) {i j : XReg} (w : W64) (h : j ≠ i) : (k.setX i w).xreg j = k.xreg j := by
  by_cases hi : i = 0
  · rw [Hart.setX, if_pos hi]
  · simp only [Hart.xreg, Hart.setX, if_neg hi, smGet_smSet_other (fun _ => (0 : W64)) k.x w fun e => h (BitVec.eq_of_toNat_eq e)]
@[simp] theorem vecReg_setVec_same (k : Hart) (i : Nat) (w : BitVec 256) : (k.setVec i w).vecReg i = w := smGet_smSet_same ..
theorem vecReg_setVec_other (k : Hart) {i j : Nat} (w : BitVec 256) (h : j ≠ i) : (k.setVec i w).vecReg j = k.vecReg j := smGet_smSet_other _ _ _ h
@[simp] theorem csrAt_setCsr_same (k : Hart) (n : Nat) (w : W64) : (k.setCsr n w).csrAt n = w := smGet_smSet_same ..
theorem csrAt_setCsr_other (k : Hart) {n m : Nat} (w : W64) (h : m ≠ n) : (k.setCsr n w).csrAt m = k.csrAt m := smGet_smSet_other _ _ _ h

end Sys2Proof.Laws
end

