-- ==== Sys2Proof/Laws/Memory.lean ====
section
/-!
SUPPORT. Memory keeps its canonical form (addresses strictly rising, no entry equal to what an unlisted byte reads as) under
every operation that writes it: storing cells, the zeroing of a Folio range, and the three that leave memory empty.
-/
namespace Sys2Proof.Laws
open Sys2Proof.Machine

theorem smWf_foldl_smSet {d : Nat → Byte} (cs : List Host.Cell) {m : SMap Byte} (h : smWf d m = true) :
    smWf d (cs.foldl (fun m c => smSet d m c.1 c.2) m) = true := by
  induction cs generalizing m with
  | nil => exact h
  | cons c cs ih => exact ih (smWf_smSet h c.1 c.2)

/-- A filtered list stays canonical. -/
theorem smWf_filter {α : Type} [DecidableEq α] {d : Nat → α} (p : Nat × α → Bool) {m : SMap α} (h : smWf d m = true) :
    smWf d (m.filter p) = true := by
  induction m with
  | nil => rfl
  | cons e m ih =>
    simp only [smWf, Bool.and_eq_true, List.all_eq_true, decide_eq_true_eq] at h
    by_cases hp : p e = true
    · rw [List.filter_cons_of_pos hp, smWf]
      simp only [Bool.and_eq_true, List.all_eq_true, decide_eq_true_eq]
      exact ⟨⟨h.1.1, fun x hx => h.1.2 x (List.mem_of_mem_filter hx)⟩, ih h.2⟩
    · rw [List.filter_cons_of_neg hp]; exact ih h.2

/-- The zeroing of a Folio range keeps memory canonical. -/
theorem zeroFolio_mem_canonical (s : State) (t i : Nat) (h : smWf memDefault s.mem = true) :
    smWf memDefault (s.zeroFolio t i).mem = true := smWf_filter _ h

/-- A byte outside the cells that are stored reads as before. -/
theorem byteAt_putCells_other (s : State) (cs : List Host.Cell) {a : Nat} (h : ∀ c ∈ cs, c.1 ≠ a) :
    (s.putCells cs).byteAt a = s.byteAt a := by
  unfold State.putCells State.byteAt
  induction cs generalizing s with
  | nil => rfl
  | cons c cs ih =>
    have := ih { s with mem := smSet memDefault s.mem c.1 c.2 } fun x hx => h x (List.mem_cons_of_mem _ hx)
    exact this.trans (smGet_smSet_other _ _ _ (Ne.symm (h c List.mem_cons_self)))

/-- One byte stored reads back. -/
@[simp] theorem byteAt_putCells_one (s : State) (a : Nat) (b : Byte) : (s.putCells [(a, b)]).byteAt a = b := smGet_smSet_same ..

/-- The addresses of consecutive bytes. -/
theorem mem_cellsFrom {a : Nat} {bs : List Byte} {c : Host.Cell} (h : c ∈ cellsFrom a bs) : a ≤ c.1 ∧ c.1 < a + bs.length := by
  induction bs generalizing a with
  | nil => simp [cellsFrom] at h
  | cons b bs ih =>
    rcases List.mem_cons.mp h with rfl | h
    · simp
    · have := ih h
      simp only [List.length_cons]; omega

/-- A byte outside n consecutive bytes stored reads as before. -/
theorem byteAt_putCells_outside (s : State) (a : Nat) (bs : List Byte) {x : Nat} (h : x < a ∨ a + bs.length ≤ x) :
    (s.putCells (cellsFrom a bs)).byteAt x = s.byteAt x :=
  byteAt_putCells_other s _ fun _ hc => by have := mem_cellsFrom hc; omega

@[simp] theorem length_toBytes (n v : Nat) : (toBytes n v).length = n := by
  induction n generalizing v with
  | zero => rfl
  | succ n ih => simp [toBytes, ih]

@[simp] theorem length_cellsFrom (a : Nat) (bs : List Byte) : (cellsFrom a bs).length = bs.length := by
  induction bs generalizing a with
  | nil => rfl
  | cons b bs ih => simp [cellsFrom, ih]

/-- A number as n bytes and back is the number modulo 2⁸ⁿ. -/
@[simp] theorem ofBytes_toBytes (n v : Nat) : ofBytes (toBytes n v) = v % 2 ^ (8 * n) := by
  induction n generalizing v with
  | zero => simp [toBytes, ofBytes, Nat.mod_one]
  | succ n ih =>
    have hp : 2 ^ (8 * (n + 1)) = 256 * 2 ^ (8 * n) := by rw [Nat.mul_add, Nat.pow_add]; omega
    simp only [toBytes, ofBytes, ih, BitVec.toNat_ofNat, hp, Nat.mod_mul]

/-- Memory is canonical at reset. -/
theorem reset_mem_canonical : smWf memDefault State.reset.mem = true := rfl

end Sys2Proof.Laws
end

