-- ==== Sys2Proof/Laws/Ops.lean ====
section
/-!
SUPPORT. What the shared operations can do, said once: bit fields and registers read back, and the fields of the state that
events, halts, resets and context faults may change.
-/
namespace Sys2Proof.Laws
open Sys2Proof.Machine

/-! ### Bit fields -/

/-- The bits of the mask. -/
theorem getLsbD_maskOf (hi lo i : Nat) (hi64 : i < 64) (h : lo ≤ hi + 1) : (maskOf hi lo).getLsbD i = (decide (lo ≤ i) && decide (i ≤ hi)) := by
  have e : (2 ^ (hi + 1 - lo) - 1) * 2 ^ lo = (2 ^ (hi + 1 - lo) - 1) <<< lo := (Nat.shiftLeft_eq ..).symm
  rw [maskOf, BitVec.getLsbD_ofNat, e, Nat.testBit_shiftLeft, Nat.testBit_two_pow_sub_one]
  by_cases h1 : lo ≤ i
  · simp [hi64, h1]; omega
  · simp [h1]

/-- A bit of a word whose field [hi:lo] was set: v's inside the field, the word's outside. -/
theorem getLsbD_setBits (w : W64) (hi lo v i : Nat) (h64 : i < 64) (h : lo ≤ hi + 1) :
    (setBits w hi lo v).getLsbD i = if lo ≤ i ∧ i ≤ hi then v.testBit (i - lo) else w.getLsbD i := by
  have e : v % 2 ^ (hi + 1 - lo) * 2 ^ lo = (v % 2 ^ (hi + 1 - lo)) <<< lo := (Nat.shiftLeft_eq ..).symm
  have hn : (~~~maskOf hi lo).getLsbD i = !(decide (lo ≤ i) && decide (i ≤ hi)) := by
    rw [BitVec.getLsbD_not, getLsbD_maskOf hi lo i h64 h]; simp [h64]
  have ho : (BitVec.ofNat 64 (v % 2 ^ (hi + 1 - lo) * 2 ^ lo)).getLsbD i = (decide (i ≥ lo) && (decide (i - lo < hi + 1 - lo) && v.testBit (i - lo))) := by
    rw [BitVec.getLsbD_ofNat, e, Nat.testBit_shiftLeft, Nat.testBit_mod_two_pow]; simp [h64]
  rw [setBits, BitVec.getLsbD_or, BitVec.getLsbD_and, hn, ho]
  by_cases h1 : lo ≤ i <;> by_cases h2 : i ≤ hi
  · have : i - lo < hi + 1 - lo := by omega
    simp [h1, h2, this]
  · have : ¬ i - lo < hi + 1 - lo := by omega
    simp [h1, h2, this]
  · simp [h1, h2]
  · simp [h1, h2]

/-- A bit of the number in a field. -/
theorem testBit_bits (w : W64) (hi lo i : Nat) : (bits w hi lo).testBit i = (decide (i < hi + 1 - lo) && w.getLsbD (lo + i)) := by
  rw [bits, nbits, Nat.testBit_mod_two_pow, Nat.testBit_div_two_pow, BitVec.getLsbD, Nat.add_comm lo i]

/-- A field set reads back modulo its width. -/
theorem bits_setBits_same (w : W64) (hi lo v : Nat) (h : lo ≤ hi) (h64 : hi < 64) : bits (setBits w hi lo v) hi lo = v % 2 ^ (hi + 1 - lo) := by
  refine Nat.eq_of_testBit_eq fun i => ?_
  rw [testBit_bits, Nat.testBit_mod_two_pow]
  by_cases hb : i < hi + 1 - lo
  · rw [getLsbD_setBits w hi lo v (lo + i) (by omega) (by omega), if_pos (by omega), Nat.add_sub_cancel_left]
  · simp [hb]

/-- A field set leaves every field disjoint from it. -/
theorem bits_setBits_other (w : W64) {hi lo hi' lo' : Nat} (v : Nat) (h : lo ≤ hi + 1) (h64 : hi' < 64) (d : hi' < lo ∨ hi < lo') :
    bits (setBits w hi lo v) hi' lo' = bits w hi' lo' := by
  refine Nat.eq_of_testBit_eq fun i => ?_
  rw [testBit_bits, testBit_bits]
  by_cases hb : i < hi' + 1 - lo'
  · rw [getLsbD_setBits w hi lo v (lo' + i) (by omega) h, if_neg (by omega)]
  · simp [hb]

/-! ### Registers -/

@[simp] theorem reg_setReg_same (s : State) (r : Reg) (w : W64) : (s.setReg r w).reg r = w := smGet_smSet_same ..

/-- A register with another offset is as it was. -/
theorem reg_setReg_other (s : State) {r q : Reg} (w : W64) (h : q.addr ≠ r.addr) : (s.setReg r w).reg q = s.reg q := by
  unfold State.reg State.setReg smSet
  split
  · exact smGet_smErase_other _ _ h
  · rw [smGet_smInsert_other _ _ _ h, smGet_smErase_other _ _ h]

theorem fld_setReg_other (s : State) {r q : Reg} (w : W64) (f : FName) (h : q.addr ≠ r.addr) : (s.setReg r w).fld q f = s.fld q f := by
  rw [State.fld, State.fld, reg_setReg_other s w h]

/-- A field set reads back modulo its width. -/
theorem fld_setFld_same (s : State) (r : Reg) (f : FName) (v : Nat) (h : (r.pos f).2 ≤ (r.pos f).1) (h64 : (r.pos f).1 < 64) :
    (s.setFld r f v).fld r f = v % 2 ^ ((r.pos f).1 + 1 - (r.pos f).2) := by
  rw [State.fld, State.setFld, reg_setReg_same, bits_setBits_same _ _ _ _ h h64]

/-- A field disjoint from it is as it was. -/
theorem fld_setFld_disjoint (s : State) (r : Reg) {f g : FName} (v : Nat) (h : (r.pos f).2 ≤ (r.pos f).1 + 1) (h64 : (r.pos g).1 < 64)
    (d : (r.pos g).1 < (r.pos f).2 ∨ (r.pos f).1 < (r.pos g).2) : (s.setFld r f v).fld r g = s.fld r g := by
  rw [State.fld, State.setFld, reg_setReg_same, bits_setBits_other _ _ h h64 d, State.fld]

/-- A field of another register is as it was. -/
theorem fld_setFld_other (s : State) {r q : Reg} (f g : FName) (v : Nat) (h : q.addr ≠ r.addr) : (s.setFld r f v).fld q g = s.fld q g :=
  fld_setReg_other s _ _ h

/-! ### Events, halts, resets and context faults -/

/-- t differs from s in its registers and in what it has sent, at most. -/
def Events (s t : State) : Prop := t = { s with regs := t.regs, outbox := t.outbox }

theorem Events.refl (s : State) : Events s s := rfl

theorem Events.trans {s t u : State} (h : Events s t) (g : Events t u) : Events s u := by
  rw [Events] at *; rw [g]; show _ = _; rw [h]

theorem events_setReg (s : State) (r : Reg) (w : W64) : Events s (s.setReg r w) := rfl
theorem events_setFld (s : State) (r : Reg) (f : FName) (v : Nat) : Events s (s.setFld r f v) := rfl
theorem events_setRegBit (s : State) (r : Reg) (i : Nat) (b : Bool) : Events s (s.setRegBit r i b) := rfl
theorem events_send (s : State) (o : Output) : Events s (s.send o) := rfl
theorem events_satFld (s : State) (r : Reg) (f : FName) (k : Nat) : Events s (s.satFld r f k) := rfl

theorem events_setFlds (s : State) (r : Reg) (l : List (FName × Nat)) : Events s (s.setFlds r l) := by
  induction l generalizing s with
  | nil => rfl
  | cons e l ih => exact (events_setFld s r e.1 e.2).trans (ih _)

/-- A message is lost, held in the PBA, or sent. -/
theorem events_message (s : State) (f v : Nat) : Events s (s.message f v) := by
  unfold State.message; split
  · rfl
  · split <;> rfl

/-- An event of a vector writes ARMED, PEND or the PBA, or sends. -/
theorem events_vectorEvent (s : State) (f v : Nat) : Events s (s.vectorEvent f v) := by
  unfold State.vectorEvent; split
  · exact (events_setRegBit ..).trans (events_message ..)
  · rfl

theorem events_pfEvent (s : State) (v : Nat) : Events s (s.pfEvent v) := events_vectorEvent ..
theorem events_vfEvent (s : State) (c v : Nat) : Events s (s.vfEvent c v) := events_vectorEvent ..

/-- An event of a member sets HIT bits and raises vectors. -/
theorem events_memberEvent (s : State) (c kind : Nat) (io : Bool) (tile n : Nat) : Events s (s.memberEvent c kind io tile n) := by
  unfold State.memberEvent
  generalize List.range 112 = l
  induction l generalizing s with
  | nil => rfl
  | cons i l ih =>
    rw [List.foldl_cons]
    refine Events.trans ?_ (ih _)
    split
    · exact (events_setRegBit ..).trans (events_vfEvent ..)
    · rfl

/-- Listing a unit changes the permanent store alone. -/
theorem list_eq (s : State) (kind origin : Nat) (z : Bool) (tile loc : Nat) : s.list kind origin z tile loc = { s with perm := (s.list kind origin z tile loc).perm } := by
  unfold State.list; dsimp only; split <;> rfl

/-- t differs from s in what a context fault changes, at most: registers, what it has sent, the cores, who waits, the images, the
record of the context and the reservation requests. Memory, the bobbins and every other unit are as they were. -/
def Faulted (s t : State) : Prop :=
  t = { s with regs := t.regs, outbox := t.outbox, nib := t.nib, waiting := t.waiting, images := t.images, ctx := t.ctx, poolQ := t.poolQ }

theorem Faulted.refl (s : State) : Faulted s s := rfl

theorem Faulted.trans {s t u : State} (h : Faulted s t) (g : Faulted t u) : Faulted s u := by
  rw [Faulted] at *; rw [g]; show _ = _; rw [h]

theorem Events.faulted {s t : State} (h : Events s t) : Faulted s t := by
  rw [Events] at h; rw [Faulted, h]

theorem faulted_haltCores (s : State) (c : Nat) : Faulted s (s.haltCores c) := rfl

theorem faulted_setContext (s : State) (c : Nat) (k : CtxState) : Faulted s (s.setContext c k) := rfl

theorem faulted_dropImage (s : State) (c : Nat) : Faulted s (s.dropImage c) := by
  unfold State.dropImage; dsimp only
  split
  · rfl
  · split
    · rfl
    · split <;> rfl

theorem faulted_cutImage (s : State) (c : Nat) : Faulted s (s.cutImage c) := by
  unfold State.cutImage; split <;> rfl

theorem faulted_beginReset (s : State) (c : Nat) : Faulted s (s.beginReset c) :=
  Faulted.trans (t := { ((s.setFld (.ctxrCtrl c) .STATE 1).setFld (.ctxrPending c) .UNITS 0xFF).setContext c
    { ((s.setFld (.ctxrCtrl c) .STATE 1).setFld (.ctxrPending c) .UNITS 0xFF).context c with resetStart := s.time } with
    poolQ := s.poolQ.filter fun q => q.ctx ≠ c }) rfl
    ((faulted_dropImage ..).trans ((events_setFld ..).faulted.trans ((faulted_cutImage ..).trans (faulted_haltCores ..))))

theorem events_recordFault (s : State) (c cause engine tile unit arg : Nat) : Events s (s.recordFault c cause engine tile unit arg) :=
  (events_setFld ..).trans (events_setFlds ..)

/-- A later fault moves registers alone. -/
theorem events_mergeFault (s : State) (c cause engine tile unit arg : Nat) : Events s (s.mergeFault c cause engine tile unit arg) := by
  unfold State.mergeFault; dsimp only
  split
  · exact (events_recordFault ..).trans (events_satFld ..)
  · exact events_satFld ..

/-- The first fault moves registers, and the context keeps the time of it. -/
theorem faulted_firstFault (s : State) (c cause engine tile unit arg : Nat) : Faulted s (s.firstFault c cause engine tile unit arg) :=
  Faulted.trans ((events_setFlds ..).trans (events_recordFault ..)).faulted (faulted_setContext ..)

theorem faulted_contextFault (s : State) (c cause engine tile unit arg : Nat) : Faulted s (s.contextFault c cause engine tile unit arg) := by
  unfold State.contextFault
  have h : ∀ t, Faulted s t →
      Faulted s (if t.fld (.ctxrCtrl c) .STATE = 0 && !t.failed then ((t.beginReset c).vfEvent c 0).pfEvent (32 + c) else t) := by
    intro t ht; split
    · exact ht.trans ((faulted_beginReset ..).trans ((events_vfEvent ..).trans (events_pfEvent ..)).faulted)
    · exact ht
  refine h _ ?_
  split
  · exact (events_mergeFault ..).faulted
  · exact faulted_firstFault ..

theorem faulted_faultEach (s : State) (cs : List Nat) (cause engine tile unit arg : Nat) : Faulted s (s.faultEach cs cause engine tile unit arg) := by
  unfold State.faultEach
  induction cs generalizing s with
  | nil => rfl
  | cons c cs ih => exact (faulted_contextFault ..).trans (ih _)

end Sys2Proof.Laws
end

