-- ==== Sys2Proof/Tests/States.lean ====
section
/-!
SUPPORT. Small states and helpers of the tests: a core and a hart that run in context 0, a page table, a completion ring, a knot.
-/
namespace Sys2Proof.Tests
open Sys2Proof.Machine

/-- Does the outcome answer a next state of which p holds? -/
def gives (o : Out) (p : State → Bool) : Bool :=
  match o with
  | .next t => p t
  | _ => false

theorem gives_next {o : Out} {p : State → Bool} (h : gives o p = true) : ∃ t, o = .next t ∧ p t = true := by
  cases o with
  | next t => exact ⟨t, rfl, h⟩
  | fault r => exact absurd h (by simp [gives])
  | refused r => exact absurd h (by simp [gives])

/-- Is the outcome the next state t? -/
def answers (o : Out) (t : State) : Bool := gives o fun u => u = t

/-- A little-endian 64-bit word at a package physical address. -/
def word (pa v : Nat) : List Host.Cell := cellsFrom pa (toBytes 8 v)

/-- A context's tables: DRAM 0x4000000 at 0, a Well page of tile 0 at 0x2000000 and a HOST page at 0x2010000. -/
def tables : List Host.Cell :=
  word 0x10000 0x20001 ++ word 0x20000 0x400000F ++ word 0x20008 0x40001 ++ word 0x40000 0x4000000007 ++ word 0x40008 0x10017

/-- Cells of rising addresses above every listed one, placed in memory. -/
def place (s : State) (cs : List Host.Cell) : State := { s with mem := s.mem ++ cs.filter fun c => c.2 ≠ 0 }

/-- A started package: context 0 translates, nothing runs. -/
def started : State :=
  let s := place State.reset tables
  let s := s.setFlds (.memRoot 0) [(.BASE, 8), (.ENABLE, 1)]
  { s with start := { s.start with passed := some 7 } }

/-- Core 0 runs at 0x1000 in context 0: s1 = 0x2000, s2 = 5, s3 = 2⁶³, s4 = 2⁶⁴ − 1, s5 = 3. -/
def runner : NibCore :=
  { NibCore.off with st := .running, pc := 0x1000, s := [(1, 0x2000), (2, 5), (3, 0x8000000000000000), (4, 0xFFFFFFFFFFFFFFFF), (5, 3)] }

def base : State := (started.setFld (coreReg 0) .BOUND 1).setCore 0 runner

/-- `base` with other registers of core 0. -/
def withCore (f : NibCore → NibCore) : State := base.setCore 0 (f (base.core 0))

/-- The state after the fetch of core 0. -/
def fetched (s : State) : State := (s.fetch 0).1

theorem executes {s : State} (h : s.canStep 0 = true) (h' : (s.fetch 0).2 = .ok) : Claims.Executes s (fetched s) 0 :=
  ⟨h, Prod.ext rfl h'⟩

/-- Context 0's ring: 64 slots at 0x2000000, locked on the Well page. -/
def ringed (s : State) : State :=
  let s := s.setFlds (.ctxwCmpl 0) [(.SLOTS_LOG2, 6), (.BASE, 0x4000), (.LOCK, 1)]
  s.setContext 0 { s.context 0 with ringFrames := [0x4000000000] }

/-- A complete slot for handle h with a status. -/
def slotOf (s : State) (h status ready : Nat) : State :=
  s.putCells (cellsFrom (0x4000000000 + 32 * (h % 64)) (toBytes 8 h ++ toBytes 1 status ++ toBytes 1 ready))

/-- The first four slots free. -/
def freeRing (s : State) : State := s.putCells ((List.range 4).flatMap fun i => [(0x4000000008 + 32 * i, 2#8), (0x4000000009 + 32 * i, 1#8)])

/-- Knot k is context 0's, with a count. -/
def knotted (s : State) (k count : Nat) : State :=
  (s.setFlds (knotCfg k) [(.ENABLE, 1), (.OWNER, 0)]).setFlds (knotVal k) [(.COUNT, count), (.THRESHOLD, 100)]

end Sys2Proof.Tests
end

