-- ==== Sys2Proof/Tests/Slice0.lean ====
section
/-!
SUPPORT. The tests of the model: for every statement that has hypotheses a state and operands that meet them, with what they lead to;
words written out from the spec's encodings; ill-formed words that are refused.
-/
namespace Sys2Proof.Tests
open Sys2Proof.Machine Sys2Proof.Claims

/- One theorem at a time: elaborating them side by side needs more memory than a check allows. -/
set_option Elab.async false

/-! ### The step -/

/-- StepRunsFrontCommand: a queue of two commands. -/
theorem witness_StepRunsFrontCommand :
    gives (step { base with pending := [.add 0 6 2 (.imm 3), .nop 0] }) (fun t => t.pending = [.nop 0] ∧ (t.core 0).sreg 6 = 8) = true := by
  decide +kernel

/-- IdleStepIsOneClockTick: an empty queue; package time moves only while the package is powered and out of reset. -/
theorem witness_IdleStepIsOneClockTick :
    base.pending = [] ∧ base.periodUs ≤ 16384 ∧ base.stewardUp = true ∧
    gives (step base) (fun t => t.rack.now = 1 ∧ t.time = base.time + 1 ∧ t.count = base.count) = true := by decide +kernel

/-! ### Nib instructions -/

/-- Executes: the hypothesis that every statement about Nib instructions shares. -/
theorem witness_Executes : Executes base (fetched base) 0 := executes (by decide +kernel) (by decide +kernel)

theorem test_registers : (runner.setS 0 7).sreg 0 = 0 ∧ (runner.setS 31 7).sreg 31 = 7 ∧ (runner.setS 31 7).sreg 1 = 0x2000 ∧
    (runner.setP 0 5).preg 0 = BitVec.allOnes 64 ∧ (runner.setP 7 5).preg 7 = 5 ∧ (runner.setV 15 9).vreg 15 = 9 := by decide +kernel

/-- Table 5-4 on its corners: wrap, shift by 64 and more, signed and unsigned compares, a source that is the destination. -/
theorem test_scalar_alu :
    gives (exec (.add 0 4 4 (.imm 1)) base) (fun t => (t.core 0).sreg 4 = 0 ∧ (t.core 0).pc = 0x1008) = true ∧
    gives (exec (.sub 0 6 0 (.reg 2)) base) (fun t => (t.core 0).sreg 6 = 0xFFFFFFFFFFFFFFFB) = true ∧
    gives (exec (.and 0 6 4 (.imm 0xFFFFFFFF)) base) (fun t => (t.core 0).sreg 6 = 0xFFFFFFFF) = true ∧
    gives (exec (.sll 0 6 2 (.imm 65)) base) (fun t => (t.core 0).sreg 6 = 10) = true ∧
    gives (exec (.sra 0 6 3 (.imm 63)) base) (fun t => (t.core 0).sreg 6 = 0xFFFFFFFFFFFFFFFF) = true ∧
    gives (exec (.slt 0 6 4 (.reg 2)) base) (fun t => (t.core 0).sreg 6 = 1) = true ∧
    gives (exec (.sltu 0 6 4 (.reg 2)) base) (fun t => (t.core 0).sreg 6 = 0) = true ∧
    gives (exec (.minu 0 6 4 (.reg 2)) base) (fun t => (t.core 0).sreg 6 = 5) = true ∧
    gives (exec (.lui 0 6 1 0x12345678) base) (fun t => (t.core 0).sreg 6 = 0x1234567800002000) = true ∧
    gives (exec (.clz 0 6 0) base) (fun t => (t.core 0).sreg 6 = 64) = true ∧
    gives (exec (.ctz 0 6 3) base) (fun t => (t.core 0).sreg 6 = 63) = true ∧
    gives (exec (.bswap 0 6 1) base) (fun t => (t.core 0).sreg 6 = 0x0020000000000000) = true := by decide +kernel

/-- R154: division by 0 and the quotient that 64 bits do not hold. -/
theorem test_divide :
    gives (exec (.div 0 6 2 0) base) (fun t => (t.core 0).sreg 6 = 0xFFFFFFFFFFFFFFFF) = true ∧
    gives (exec (.rem 0 6 2 0) base) (fun t => (t.core 0).sreg 6 = 5) = true ∧
    gives (exec (.div 0 6 3 4) base) (fun t => (t.core 0).sreg 6 = 0x8000000000000000) = true ∧
    gives (exec (.rem 0 6 3 4) base) (fun t => (t.core 0).sreg 6 = 0) = true ∧
    gives (exec (.div 0 6 4 5) base) (fun t => (t.core 0).sreg 6 = 0) = true ∧
    gives (exec (.divu 0 6 4 5) base) (fun t => (t.core 0).sreg 6 = 0x5555555555555555) = true ∧
    gives (exec (.mulh 0 6 3 3) base) (fun t => (t.core 0).sreg 6 = 0x4000000000000000) = true ∧
    gives (exec (.mulhu 0 6 4 4) base) (fun t => (t.core 0).sreg 6 = 0xFFFFFFFFFFFFFFFE) = true := by decide +kernel

/-- BranchesAndJumps: taken and not, and a target of 2⁴⁸ or more. -/
theorem witness_BranchesAndJumps :
    gives (exec (.beq 0 2 2 0xFFFFFFFF) base) (fun t => (t.core 0).pc = 0xFF8) = true ∧
    gives (exec (.bne 0 2 2 4) base) (fun t => (t.core 0).pc = 0x1008) = true ∧
    gives (exec (.blt 0 4 2 2) base) (fun t => (t.core 0).pc = 0x1010) = true ∧
    gives (exec (.bltu 0 4 2 2) base) (fun t => (t.core 0).pc = 0x1008) = true ∧
    gives (exec (.jal 0 6 2) base) (fun t => (t.core 0).pc = 0x1010 ∧ (t.core 0).sreg 6 = 0x1008) = true ∧
    gives (exec (.jalr 0 1 1 0x10) base) (fun t => (t.core 0).pc = 0x2010 ∧ (t.core 0).sreg 1 = 0x1008) = true ∧
    gives (exec (.jalr 0 6 3 0) (withCore fun k => { k with evec := 0x3000 })) (fun t => (t.core 0).pc = 0x3000 ∧ (t.core 0).ecause = 4 ∧
      (t.core 0).sreg 6 = 0 ∧ (t.core 0).handler) = true := by decide +kernel

/-- ScalarLoadsReadMemory: an aligned address in tile memory, each size. -/
def loaded : State := base.putCells (word 0x4002000 0x8182838485868788)

theorem witness_ScalarLoadsReadMemory :
    Executes loaded (fetched loaded) 0 ∧ ((fetched loaded).core 0).stores = [] ∧
    (fetched loaded).walk 0 0x2000 false false = .ok 0x4002000 false false ∧
    ((fetched loaded).homeRead (some 0) 0x4002000 8).2 = some [0x88, 0x87, 0x86, 0x85, 0x84, 0x83, 0x82, 0x81] ∧
    gives (exec (.ld 0 6 1 0) loaded) (fun t => (t.core 0).sreg 6 = 0x8182838485868788) = true ∧
    gives (exec (.lw 0 6 1 0) loaded) (fun t => (t.core 0).sreg 6 = 0xFFFFFFFF85868788) = true ∧
    gives (exec (.lwu 0 6 1 4) loaded) (fun t => (t.core 0).sreg 6 = 0x81828384) = true ∧
    gives (exec (.lh 0 6 1 6) loaded) (fun t => (t.core 0).sreg 6 = 0xFFFFFFFFFFFF8182) = true ∧
    gives (exec (.lbu 0 1 1 7) loaded) (fun t => (t.core 0).sreg 1 = 0x81) = true := by
  refine ⟨executes ?_ ?_, ?_⟩ <;> decide +kernel

/-- ScalarStoresAreBuffered: from an empty buffer and from one of 15 entries; nothing is in memory until the drain. -/
def stores (n : Nat) : State := withCore fun k => { k with stores := List.replicate n [{ host := false, mcomp := false, cells := [(0x4003000, 1)] }] }

theorem witness_ScalarStoresAreBuffered :
    Executes (stores 15) (fetched (stores 15)) 0 ∧ ((fetched (stores 15)).core 0).stores.length = 15 ∧
    (fetched (stores 15)).walk 0 0x2000 true false = .ok 0x4002000 false false ∧
    gives (exec (.sd 0 1 4 0) (stores 15)) (fun t => (t.core 0).stores.length = 16 ∧ t.wordAt 0x4002000 8 = 0) = true ∧
    gives (exec (.sb 0 1 4 0) base) (fun t => (t.core 0).stores = [[{ host := false, mcomp := false, cells := [(0x4002000, 0xFF)] }]]) = true := by
  refine ⟨executes ?_ ?_, ?_⟩ <;> decide +kernel

/-- NibExceptionsEnterHandlerOrStop: with a handler, without one, in the handler; a misaligned access. -/
theorem witness_NibExceptionsEnterHandlerOrStop :
    (base.core 0).stores = [] ∧ (base.core 0).st = .running ∧
    gives (exec (.trap 0 7) (withCore fun k => { k with evec := 0x3000 })) (fun t => (t.core 0).pc = 0x3000 ∧ (t.core 0).epc = 0x1000 ∧
      (t.core 0).ecause = 8 ∧ (t.core 0).handler ∧ t.fld (.ctxrCtrl 0) .STATE = 0) = true ∧
    gives (exec (.lw 0 6 1 2) (withCore fun k => { k with evec := 0x3000 })) (fun t => (t.core 0).ecause = 3 ∧ (t.core 0).eaddr = 0x2002) = true ∧
    gives (exec (.trap 0 7) (withCore fun k => { k with evec := 0x3000, handler := true })) (fun t => (t.core 0).st = .faulted ∧
      t.fld (.ctxfCause 0) .CAUSE = 1 ∧ t.flag (.ctxwNibExc 0) .IN_HANDLER) = true ∧
    reservedWord 0 0 = true ∧
    gives (exec (.illegalInstruction 0 0) base) (fun t => (t.core 0).st = .faulted ∧ t.fld (.ctxwNibExc 0) .CAUSE = 1) = true := by decide +kernel

/-! ### Vector instructions -/

/-- v1 holds bytes 0x7F, 0x80, 1, 2 …; v2 FP32 1.5, NaN, +∞, 2⁻¹⁴⁹; p1 makes lanes 0 to 15 active; p2 none. -/
def vectored : State := withCore fun k => { k with
  v := [(1, 0x0201807F), (2, 0x000000017F8000007FC000003FC00000), (3, 0xFFFFFFFFFFFFFFFFFFFFFFFFFFFFFFFF)], p := [(1, 0xFFFF)] }

theorem witness_vectored : Executes vectored (fetched vectored) 0 := executes (by decide +kernel) (by decide +kernel)

/-- VectorIntegerLanes: a vector operand, a repeated scalar, an inactive lane, a saturating sum, an index of the last element. -/
theorem test_vector_integer :
    gives (exec (.vadd 0 { vd := 4, vs1 := 1, b := .scal 2, pg := 1, et := .i8 }) vectored) (fun t => elemOf .i8 ((t.core 0).vreg 4) 0 = 0x84 ∧
      elemOf .i8 ((t.core 0).vreg 4) 1 = 0x85 ∧ elemOf .i8 ((t.core 0).vreg 4) 16 = 0) = true ∧
    gives (exec (.vsadd 0 { vd := 1, vs1 := 1, b := .vec 1, pg := 1, et := .i8 }) vectored) (fun t => elemOf .i8 ((t.core 0).vreg 1) 0 = 0x7F ∧
      elemOf .i8 ((t.core 0).vreg 1) 1 = 0x80 ∧ elemOf .i8 ((t.core 0).vreg 1) 2 = 2) = true ∧
    gives (exec (.vmulh 0 { vd := 4, vs1 := 1, b := .vec 1, pg := 0, et := .i16 }) vectored) (fun t =>
      elemOf .i16 ((t.core 0).vreg 4) 0 = 0x3F81) = true ∧
    gives (exec (.vsel 0 { vd := 4, vs1 := 3, b := .vec 1, pg := 2, et := .i64 }) vectored) (fun t => (t.core 0).vreg 4 = 0x0201807F) = true ∧
    gives (exec (.vshuf 0 4 1 (.scal 0) 1) vectored) (fun t => elemOf .i8 ((t.core 0).vreg 4) 3 = 0x7F) = true ∧
    gives (exec (.vbcast 0 4 4 1 .i16) vectored) (fun t => (t.core 0).vreg 4 = 0xFFFFFFFFFFFFFFFFFFFFFFFFFFFFFFFF) = true ∧
    ((63 : BitVec 6).toNat < ElemType.i8.count) ∧
    gives (exec (.vins 0 4 2 .i8 63) vectored) (fun t => elemOf .i8 ((t.core 0).vreg 4) 63 = 5 ∧ elemOf .i8 ((t.core 0).vreg 4) 62 = 0) = true := by
  decide +kernel

/-- VectorFloatLanes: FP32 sums with NaN, infinity and a subnormal, which reads as zero (R208). -/
theorem witness_VectorFloatLanes :
    isVfpType .fp32 = true ∧ isVfpType .fp16 = true ∧ isVfpType .bf16 = true ∧
    gives (exec (.vfadd 0 { vd := 4, vs1 := 2, b := .vec 2, pg := 0, et := .fp32 }) vectored) (fun t => elemOf .fp32 ((t.core 0).vreg 4) 0 = 0x40400000 ∧
      elemOf .fp32 ((t.core 0).vreg 4) 1 = 0x7FC00000 ∧ elemOf .fp32 ((t.core 0).vreg 4) 2 = 0x7F800000 ∧ elemOf .fp32 ((t.core 0).vreg 4) 3 = 0) = true ∧
    gives (exec (.vfsub 0 { vd := 4, vs1 := 2, b := .vec 2, pg := 0, et := .fp32 }) vectored) (fun t =>
      elemOf .fp32 ((t.core 0).vreg 4) 2 = 0x7FC00000 ∧ elemOf .fp32 ((t.core 0).vreg 4) 3 = 0) = true ∧
    gives (exec (.vfma 0 { vd := 4, vs1 := 2, b := .vec 2, pg := 1, et := .fp32 } 2) vectored) (fun t =>
      elemOf .fp32 ((t.core 0).vreg 4) 0 = 0x40700000) = true ∧
    gives (exec (.vfneg 0 4 2 1 .fp32) vectored) (fun t => elemOf .fp32 ((t.core 0).vreg 4) 0 = 0xBFC00000) = true := by decide +kernel

/-- VectorLoadsAndStores: no active element; the load of the active elements of one page; a store of them. -/
def vmem : VMemOp := { v := 5, rs := 1, imm25 := 0, pg := 1, et := .i32 }

theorem witness_VectorLoadsAndStores :
    activeElems ((vectored.core 0).preg 2) .i32 = [] ∧ activeElems ((vectored.core 0).preg 1) .i32 = [0, 1, 2, 3] ∧
    (vectored.core 0).vecAddr vmem = 0x2000 ∧ (vectored.core 0).stores.length < 16 ∧
    gives (exec (.vld 0 { vmem with pg := 2 }) vectored) (fun t => (t.core 0).vreg 5 = 0 ∧ (t.core 0).pc = 0x1008) = true ∧
    gives (exec (.vld 0 vmem) (vectored.putCells (word 0x4002000 0x1122334455667788 ++ word 0x4002010 5))) (fun t =>
      (t.core 0).vreg 5 = 0x1122334455667788) = true ∧
    gives (exec (.vldbc 0 vmem) (vectored.putCells (word 0x4002000 0x1122334455667788))) (fun t =>
      (t.core 0).vreg 5 = 0x55667788556677885566778855667788) = true ∧
    gives (exec (.vst 0 { vmem with v := 3 }) vectored) (fun t => (t.core 0).stores =
      [[{ host := false, mcomp := false, cells := cellsFrom 0x4002000 (List.replicate 16 0xFF) }]]) = true := by decide +kernel

/-- ReductionsAndExtract: over no element, one, several; the last element. -/
theorem test_reductions :
    gives (exec (.vredadd 0 6 1 1 .i8) vectored) (fun t => (t.core 0).sreg 6 = 2) = true ∧
    gives (exec (.vredmin 0 6 1 1 .i8) vectored) (fun t => (t.core 0).sreg 6 = 0xFFFFFFFFFFFFFF80) = true ∧
    gives (exec (.vredmax 0 6 1 2 .i8) vectored) (fun t => (t.core 0).sreg 6 = 0) = true ∧
    activeElems ((withCore fun k => k.setP 3 0xF).core 0 |>.preg 3) .fp32 = [0] ∧
    gives (exec (.vfredadd 0 6 2 3 .fp32) { vectored with nib := smSet (fun _ => NibCore.off) vectored.nib 0 ((vectored.core 0).setP 3 0xF) })
      (fun t => (t.core 0).sreg 6 = 0x3FC00000) = true ∧
    gives (exec (.vfredadd 0 6 2 2 .fp32) vectored) (fun t => (t.core 0).sreg 6 = 0) = true ∧
    gives (exec (.vext 0 6 1 .i8 1) vectored) (fun t => (t.core 0).sreg 6 = 0x80) = true := by decide +kernel

/-- ComparesAndPredicates: every byte lane of an active element. -/
theorem test_compares :
    gives (exec (.vcmpLt 0 { pd := 3, vs1 := 1, b := .scal 0, pg := 0, et := .i8 }) vectored) (fun t => (t.core 0).preg 3 = 2) = true ∧
    gives (exec (.vcmpLeu 0 { pd := 3, vs1 := 1, b := .scal 0, pg := 1, et := .i16 }) vectored) (fun t => (t.core 0).preg 3 = 0xFFF0) = true ∧
    gives (exec (.vcmpFunord 0 { pd := 3, vs1 := 2, b := .vec 2, pg := 0, et := .fp32 }) vectored) (fun t => (t.core 0).preg 3 = 0xF0) = true ∧
    gives (exec (.vcmpFle 0 { pd := 3, vs1 := 2, b := .vec 2, pg := 1, et := .fp32 }) vectored) (fun t => (t.core 0).preg 3 = 0xFF0F) = true ∧
    gives (exec (.pandn 0 3 0 1) vectored) (fun t => (t.core 0).preg 3 = 0xFFFFFFFFFFFF0000) = true ∧
    gives (exec (.pfroms 0 0 2) vectored) (fun t => (t.core 0).preg 0 = BitVec.allOnes 64) = true := by decide +kernel

/-- ConversionsComplete: one conversion of each kind, and stochastic rounding with enough draws held. -/
def cvt : CvtOp := { vd := 4, vs1 := 2, pg := 1, et := .fp32, dt := .bf16, u := false, part := 0, sat := false, rm := .nearest }
def drawn : State := { vectored.setFlag (.poolCtrl 0) .ENABLE true with nib := smSet (fun _ => NibCore.off) vectored.nib 0 { vectored.core 0 with draws := [{ s31 := 1, s23 := 1, pos := 0, left := 8 }] } }

theorem witness_ConversionsComplete :
    cvtSameOk { cvt with dt := .i32 } = true ∧ cvtWideOk { cvt with et := .bf16, dt := .fp32, part := 1 } = true ∧ cvtNarrowOk cvt = true ∧
    cvtNarrowOk { cvt with rm := .stochastic } = true ∧ Executes drawn (fetched drawn) 0 ∧
    (activeElems ((drawn.core 0).preg 1) .bf16).length ≤ (drawn.core 0).drawsLeft ∧
    gives (exec (.vcvt 0 { cvt with dt := .i32, rm := .zero }) vectored) (fun t => elemOf .i32 ((t.core 0).vreg 4) 0 = 1) = true ∧
    gives (exec (.vcvtn 0 cvt) vectored) (fun t => elemOf .bf16 ((t.core 0).vreg 4) 0 = 0x3FC0) = true ∧
    gives (exec (.vcvtn 0 { cvt with rm := .stochastic }) drawn) (fun t => elemOf .bf16 ((t.core 0).vreg 4) 0 = 0x3FC0 ∧ (t.core 0).drawsLeft = 0) = true := by
  refine ⟨?_, ?_, ?_, ?_, executes ?_ ?_, ?_⟩ <;> decide +kernel

/-- QPACK and QUNPACK accept FP32, FP16 and BF16 on a legal group; a block of zeros unpacks to zeros. -/
theorem witness_QuinaleBlocks :
    let o : QOp := { vd := 4, vs1 := 6, et := .fp32, qf := .qb8, sat := false, rm := .nearest }
    qTypeOk o o.vs1 = true ∧ qTypeOk o o.vd = true ∧
    gives (exec (.qpack 0 o) vectored) (fun t => (t.core 0).pc = 0x1008) = true ∧
    gives (exec (.qunpack 0 { o with vs1 := 7 }) vectored) (fun t => (t.core 0).vreg 4 = 0 ∧ (t.core 0).vreg 5 = 0) = true := by decide +kernel

/-! ### System instructions -/

/-- SystemInstructions: in and outside the handler; a run that ends after its stores. -/
theorem witness_SystemInstructions :
    ((fetched base).drainAll 0).canStep 0 = true ∧ ((fetched (stores 3)).drainAll 0).canStep 0 = true ∧
    gives (exec (.mts 0 4 .evec) base) (fun t => (t.core 0).evec = 0xFFFFFFFFFFFF) = true ∧
    gives (exec (.mts 0 4 .dstat) base) (fun t => (t.core 0).dstat = 0x1FF) = true ∧
    gives (exec (.eret 0) (withCore fun k => { k with handler := true, epc := 0x2008 })) (fun t => (t.core 0).pc = 0x2008 ∧ !(t.core 0).handler) = true ∧
    gives (exec (.eret 0) base) (fun t => t.fld (.ctxwNibExc 0) .CAUSE = 1) = true ∧
    gives (exec (.fence 0) (stores 3)) (fun t => (t.core 0).stores = [] ∧ t.byteAt 0x4003000 = 1 ∧ (t.core 0).pc = 0x1008) = true ∧
    gives (exec (.endProg 0) base) (fun t => (t.core 0).st = .idle) = true := by decide +kernel

/-! ### Works, records, knots and bobbins -/

/-- Core 0 with Feed channel 0 of tile 0 in its context, a ring with free slots, and s6 the target word of that channel. -/
def dispatcher : State :=
  let s := ringed (freeRing (withCore fun k => { k with s := k.s ++ [(6, 0x100)] }))
  s.setFlds (.feedCh 0 0) [(.OWNED, 1), (.CTX, 0)]

/-- The same with 16 works queued on the channel. -/
def fullQueue : State :=
  let w : Work := { ctx := 0, desc := 0, handle := 0, crec := false, knot := none, held := false, delayed := false, image := false }
  dispatcher.setFeedCh 0 { FeedCh.idle with queue := List.replicate 16 w }

/-- DispatchIsJudgedInOrder: no unit, another context's unit, a full queue with and without WAIT, no free slot, and the work queued
with and without a record. -/
theorem witness_DispatchIsJudgedInOrder :
    Executes dispatcher (fetched dispatcher) 0 ∧ ((fetched dispatcher).drainAll 0).canStep 0 = true ∧
    targetOf 0x2000 = none ∧ targetOf 0x100 = some { engine := 1, tile := 0, unit := 0 } ∧
    dispatcher.ownsUnit 0 { engine := 1, tile := 0, unit := 0 } = true ∧ dispatcher.queueRoom { engine := 1, tile := 0, unit := 0 } = true ∧
    dispatcher.nextSlotFree 0 = true ∧ fullQueue.queueRoom { engine := 1, tile := 0, unit := 0 } = false ∧
    gives (exec (.dispatch 0 7 1 2 true false false 0) dispatcher) (fun t => (t.core 0).sreg 7 = 0 ∧ (t.core 0).dstat = 0x010) = true ∧
    gives (exec (.dispatch 0 7 6 2 true false true 5) dispatcher) (fun t => (t.core 0).dstat = 0x010) = true ∧
    gives (exec (.dispatch 0 7 6 2 true false false 0) fullQueue) (fun t => (t.core 0).sreg 7 = 0 ∧ (t.core 0).dstat = 0x014) = true ∧
    gives (exec (.dispatch 0 7 6 2 true true false 0) fullQueue) (fun t => (t.core 0).st = .waiting ∧ t.waiting = [.nib 0]) = true ∧
    gives (exec (.dispatch 0 7 6 2 true false false 0) (dispatcher.putCells [(0x4000000029, 0)])) (fun t => (t.core 0).dstat = 0x114) = true ∧
    gives (exec (.dispatch 0 7 6 2 true false false 0) dispatcher) (fun t => (t.core 0).sreg 7 = 1 ∧ (t.feedCh 0).queue.length = 1 ∧
      t.nextSeq 0 = 2 ∧ t.wordAt 0x4000000020 8 = 1 ∧ (t.feedCh 0).queue.map Work.desc = [5]) = true ∧
    gives (exec (.dispatch 0 7 6 2 false false true 9) (knotted dispatcher 9 0)) (fun t => (t.core 0).sreg 7 = BitVec.allOnes 64 ∧
      (t.feedCh 0).queue.map Work.knot = [some 9]) = true := by
  refine ⟨executes ?_ ?_, ?_⟩ <;> decide +kernel

/-- CompletionInstructions: a handle not held, a pending, a complete and a free slot, whose Well words are not in error. -/
def recorded (h status ready : Nat) : State := slotOf (ringed base) h status ready

theorem witness_CompletionInstructions :
    (recorded 5 0 1).slotPa 0 5 = 0x40000000A0 ∧ (recorded 5 0 1).slotBad 0 5 = none ∧
    gives (exec (.cread 0 6 4 1) (recorded 5 0 1)) (fun t => (t.core 0).sreg 6 = 0x102) = true ∧
    gives (exec (.cread 0 6 1 0) (recorded 5 0 1)) (fun t => (t.core 0).sreg 6 = 0x2000) = true ∧
    gives (exec (.cread 0 6 2 0) (recorded 5 0 1)) (fun t => (t.core 0).sreg 6 = 5) = true ∧
    gives (exec (.cwait 0 6 2) (recorded 5 0x11 1)) (fun t => (t.core 0).sreg 6 = 0x111) = true ∧
    gives (exec (.cwait 0 6 2) (recorded 5 1 0)) (fun t => (t.core 0).wait = .cwait 6 5) = true ∧
    gives (exec (.cretire 0 6 2) (recorded 5 1 0)) (fun t => (t.core 0).sreg 6 = 1) = true ∧
    gives (exec (.cretire 0 6 2) (recorded 5 2 1)) (fun t => (t.core 0).sreg 6 = 2) = true ∧
    gives (exec (.cretire 0 6 2) (recorded 5 0 1)) (fun t => (t.core 0).sreg 6 = 0 ∧ slotState (t.bytesAt 0x40000000A0 32) = .free ∧
      t.wordAt 0x40000000A0 8 = 5) = true := by decide +kernel

/-- Core 0 waits. -/
def waits (s : State) (w : NibWait) : State :=
  { s.setCore 0 { s.core 0 with st := .waiting, wait := w } with waiting := [.nib 0] }

/-- A bobbin of context 0 with a queue. -/
def bobbined (s : State) (b : Nat) (queue : List (List Byte)) : State :=
  (s.setFlds (bobCfg b) [(.ENABLE, 1), (.OWNER, 0), (.REMOTE_IN, 1)]).setBobbin b { Bobbin.empty with queue := queue }

/-- Port 2 is up, and context 0's armed image holds a bobbin send slot on it. -/
def ported (s : State) : State :=
  (s.setFld (.portState 2) .STATE 2).setImage 0 { Image.empty with
    phase := .armed, slots := [{ step := 0, startNs := 0, lenNs := 0, portMode := 0x200002 }] }

theorem witness_StalledInstructionsResume :
    let msg := List.replicate 16 (7 : Byte)
    gives (exec (.cwaitWake 0) (waits (recorded 5 0 1) (.cwait 6 5))) (fun t => (t.core 0).sreg 6 = 0x100 ∧ (t.core 0).pc = 0x1008 ∧ t.waiting = []) = true ∧
    recReady ((recorded 5 1 0).recordOf 0 5) = false ∧
    answers (exec (.cwaitWake 0) (waits (recorded 5 1 0) (.cwait 6 5))) (waits (recorded 5 1 0) (.cwait 6 5)) = true ∧
    gives (exec (.kwaitWake 0) (waits (knotted base 9 4) (.kwait 6 9 4 none))) (fun t => (t.core 0).sreg 6 = 4) = true ∧
    answers (exec (.kwaitWake 0) (waits (knotted base 9 3) (.kwait 6 9 4 none))) (waits (knotted base 9 3) (.kwait 6 9 4 none)) = true ∧
    answers (exec (.kwaitTimeout 0) (waits (knotted base 9 3) (.kwait 6 9 4 none))) (waits (knotted base 9 3) (.kwait 6 9 4 none)) = true ∧
    gives (exec (.kwaitTimeout 0) (waits (knotted base 9 3) (.kwait 6 9 4 (some 10)))) (fun t => (t.core 0).sreg 6 = 0x100000003) = true ∧
    (waits (ported base) (.bsend 6 1 (some 2) msg)).waitingCores.find? ((waits (ported base) (.bsend 6 1 (some 2) msg)).waitsPort 2 0) = some 0 ∧
    (ported base).portRefuses 2 = false ∧ (ported base).bobbinSlotOn 0 2 = true ∧
    gives (exec (.bsendStallAccept 0) (waits (ported base) (.bsend 6 1 (some 2) msg))) (fun t => (t.core 0).sreg 6 = 0 ∧ (t.outQueue 2 0).length = 1) = true ∧
    gives (exec (.bsendStallAccept 0) (waits (bobbined base 3 []) (.bsend 6 3 none msg))) (fun t => (t.bobbin 3).queue = [msg]) = true ∧
    gives (exec (.stalledDispatchAccept (.nib 0)) (waits base (.dispatch 6 0x100 0 false true none))) (fun t => (t.core 0).dstat = 0x010 ∧ t.waiting = []) = true ∧
    (waits dispatcher (.dispatch 7 0x100 0 false true none)).firstInLine (.nib 0) = true ∧
    gives (exec (.stalledDispatchAccept (.nib 0)) (waits dispatcher (.dispatch 7 0x100 0 false true none))) (fun t => (t.feedCh 0).queue.length = 1 ∧
      (t.core 0).sreg 7 = BitVec.allOnes 64) = true ∧
    gives (exec (.brecvWake 0) (waits (bobbined base 3 [msg]) (.brecv 6 3 16 0x2000))) (fun t => (t.core 0).sreg 6 = 0x1000000000 ∧
      (t.bobbin 3).queue = [] ∧ t.bytesAt 0x4002000 16 = msg) = true := by decide +kernel

/-- KnotInstructions: a knot of the context at a count below, at and above V; the sum that exceeds 32 bits; a knot not the context's. -/
theorem witness_KnotInstructions :
    let s := knotted base 5 7
    s.knotOwned 0 5 = true ∧ s.knotOwned 0 6 = false ∧ s.knotCount 5 = 7 ∧
    gives (exec (.kread 0 6 0 5) s) (fun t => (t.core 0).sreg 6 = 7) = true ∧
    gives (exec (.kread 0 6 2 0) s) (fun t => (t.core 0).sreg 6 = 7) = true ∧
    gives (exec (.kset 0 0 2 5 1) s) (fun t => t.knotCount 5 = 6 ∧ t.fld (knotCfg 5) .CHANGES = 1) = true ∧
    gives (exec (.kthr 0 0 2 5 0) s) (fun t => t.fld (knotVal 5) .THRESHOLD = 5 ∧ t.knotCount 5 = 7) = true ∧
    gives (exec (.karrive 0 0 4 5 0) s) (fun t => t.knotCount 5 = 0xFFFFFFFF ∧ t.flag (knotCfg 5) .SATURATED) = true ∧
    gives (exec (.kwait 0 6 0 0 0 false 5 7) s) (fun t => (t.core 0).sreg 6 = 7) = true ∧
    gives (exec (.kwait 0 6 0 0 0 true 5 8) s) (fun t => (t.core 0).sreg 6 = 0x100000007) = true ∧
    gives (exec (.kwait 0 6 0 0 2 false 5 8) s) (fun t => (t.core 0).wait = .kwait 6 5 8 (some 5) ∧ t.waiting = [.nib 0]) = true ∧
    gives (exec (.kread 0 6 0 6) s) (fun t => t.fld (.ctxwNibExc 0) .CAUSE = 1) = true := by decide +kernel

/-- KnotEventsAndConfiguration: an arrival that reaches the threshold starts the armed descriptor; the doorbell; enable and disable. -/
def armedOn (k : Nat) : FeedCur :=
  { work := { ctx := 0, desc := 0, handle := 0, crec := false, knot := none, held := false, delayed := false, image := false }, stroke := 0,
    d := { kind := 0, ccode := 0, dir := false, swap := 0, prio := 0, prio2 := 0, trig := 5, ken := false, targ := k, len := 1, rows := 1, src := 0x2000,
           dst := 0x3000, sstride := 0, dstride := 0, escT := 0, knot := 0, next := 0 },
    index := 0, running := false, moved := false, escalated := false, since := 0, strokeAt := none, reading := none, written := 0, draws := none,
    rd := (0, 0), wr := (0, 0), staged := [], lost := 0, err := none }

theorem witness_KnotEventsAndConfiguration :
    let s := (knotted base 5 99).setFeedCh 3 { FeedCh.idle with cur := some (armedOn 5) }
    s.knotHigh 5 = false ∧ smWf (fun _ => FeedCh.idle) s.feed = true ∧
    gives (exec (.knotArrival 5 [] [] [(0, 1)]) s) (fun t => t.knotHigh 5 ∧ (t.feedCh 3).cur.map FeedCur.running = some true) = true ∧
    gives (exec (.knotArrival 5 [(0, 50)] [(0, 20)] [(0, 10), (0, 19)]) s) (fun t => t.knotCount 5 = 49 ∧ t.fld (knotVal 5) .THRESHOLD = 50 ∧
      t.fld (knotCfg 5) .CHANGES = 3 ∧ t.feed = s.feed) = true ∧
    gives (exec (.knotDoorbell 0 5 0xFFFFFFFF) s) (fun t => t.knotCount 5 = 0xFFFFFFFF) = true ∧
    gives (exec (.knotDoorbell 1 5 1) s) (fun t => t.flag (.hostwStat 1) .KDB_REFUSED ∧ t.knotCount 5 = 99) = true ∧
    gives (exec (.knotEnable 4095 { hmode := true, clear := false, owner := 15 }) s) (fun t => t.fld (knotCfg 4095) .OWNER = 15 ∧
      t.fld (knotVal 4095) .THRESHOLD = 0xFFFFFFFF) = true ∧
    (knotted base 5 7).knotNamed 5 = false ∧ s.knotNamed 5 = true ∧
    gives (exec (.knotDisable 5 { hmode := false, clear := false, owner := 0 }) (knotted base 5 7)) (fun t => !t.flag (knotCfg 5) .ENABLE ∧ t.knotCount 5 = 7) = true ∧
    gives (exec (.knotDisable 5 { hmode := false, clear := false, owner := 0 }) s) (fun t => t.flag (knotCfg 5) .ENABLE ∧ t.flag (.tbobStatus 0) .CFG_ERR) = true := by
  decide +kernel

/-- BobbinInstructions: empty and full queues, a head longer than the buffer, and sends on a port. -/
theorem witness_BobbinInstructions :
    let msg := List.replicate 16 (7 : Byte)
    let s := bobbined base 3 [msg]
    nameOf 0 3 = some (none, 3) ∧ nameOf 0x210000 3 = some (some 2, 3) ∧ s.bobOwned 0 3 = true ∧
    gives (exec (.bcount 0 6 0 3) s) (fun t => (t.core 0).sreg 6 = 1) = true ∧
    gives (exec (.brecv 0 6 0 1 true 3 0) (bobbined base 3 [])) (fun t => (t.core 0).sreg 6 = 1) = true ∧
    gives (exec (.brecv 0 6 0 1 false 3 0) (bobbined base 3 [])) (fun t => (t.core 0).wait = .brecv 6 3 16 0x2000) = true ∧
    gives (exec (.brecv 0 6 0 1 true 3 0) s) (fun t => (t.core 0).sreg 6 = 0x1000000000 ∧ (t.bobbin 3).queue = [] ∧ t.bytesAt 0x4002000 16 = msg) = true ∧
    gives (exec (.brecv 0 6 0 1 true 3 0) (bobbined base 3 [msg ++ msg])) (fun t => (t.core 0).sreg 6 = 0x2000000010 ∧ (t.bobbin 3).queue.length = 1) = true ∧
    gives (exec (.bsend 0 6 0 1 true 3 0) s) (fun t => (t.core 0).sreg 6 = 0 ∧ (t.bobbin 3).queue = [msg, List.replicate 16 0]) = true ∧
    gives (exec (.bsend 0 6 0 1 true 3 0) (bobbined base 3 (List.replicate 4 msg))) (fun t => (t.core 0).sreg 6 = 0x14) = true ∧
    gives (exec (.bsend 0 6 0 1 false 3 0) (bobbined base 3 (List.replicate 4 msg))) (fun t => (t.core 0).st = .waiting) = true ∧
    gives (exec (.bsend 0 6 0 1 true 3 15) ((bobbined base 3 []).setFld (bobCfg 3) .LEN_M1 14)) (fun t => (t.core 0).sreg 6 = 0x10) = true := by decide +kernel

/-- Remote sends: s7 names bobbin 0 through port 2; its port is up, down or without a bobbin slot, its queue full. -/
def sender (s : State) : State := s.setCore 0 { s.core 0 with s := (s.core 0).s ++ [(7, 0x210000)] }

theorem witness_RemoteSends :
    gives (exec (.bsend 0 6 7 1 true 3 0) (sender (ported base))) (fun t => (t.core 0).sreg 6 = 0 ∧ t.outQueue 2 0 = [{ index := 3, data := List.replicate 16 0 }]) = true ∧
    gives (exec (.bsend 0 6 7 1 true 3 0) (sender ((ported base).setFld (.portState 2) .STATE 3))) (fun t => (t.core 0).sreg 6 = 0x17) = true ∧
    gives (exec (.bsend 0 6 7 1 true 3 0) (sender ((ported base).setImage 0 Image.empty))) (fun t => (t.core 0).sreg 6 = 0x10) = true ∧
    gives (exec (.bsend 0 6 7 1 true 3 0) (sender ((ported base).setOutQueue 2 0 (List.replicate 64 { index := 0, data := [] })))) (fun t =>
      (t.core 0).sreg 6 = 0x14) = true := by decide +kernel

/-- BobbinArrivalsAndConfiguration: a plain, a combining and a refusing bobbin; enabling with and without room; the pool. -/
theorem witness_BobbinArrivalsAndConfiguration :
    let msg := toBytes 256 3
    let s := bobbined base 3 []
    let f : BobFields := { combine := false, remoteIn := false, hmode := false, owner := 2, ctype := 2, expect := 0, depthM1 := 3, lenM1 := 15 }
    let comb := (bobbined base 224 []).setFlds (bobCfg 224) [(.COMBINE, 1), (.CTYPE, 2), (.EXPECT, 2)]
    messageLen 16 = true ∧ messageLen 256 = true ∧ messageLen 24 = false ∧ s.bobRoom 3 = true ∧
    gives (exec (.bobbinArrival 3 [{ src := .core 0, ctx := 0, data := msg }]) s) (fun t => (t.bobbin 3).queue = [msg]) = true ∧
    gives (exec (.remoteBobbinMessage 0 3 msg) s) (fun t => (t.bobbin 3).queue = [msg]) = true ∧
    gives (exec (.bobbinArrival 224 [{ src := .core 9, ctx := 0, data := msg }]) comb) (fun t => (t.bobbin 224).queue = [] ∧ t.fld (bobState 224) .CONTRIB = 1) = true ∧
    gives (exec (.bobbinArrival 224 [{ src := .core 9, ctx := 0, data := msg }]) (comb.setFld (bobCfg 224) .EXPECT 1)) (fun t => (t.bobbin 224).queue = [msg] ∧ t.fld (bobState 224) .CONTRIB = 0) = true ∧
    gives (exec (.remoteBobbinMessage 0 4 msg) s) (fun t => t.fld (.tbobDrops 0) .COUNT = 1 ∧ t.flag (.tbobStatus 0) .REMOTE_DROP ∧
      t.fld (.ctxfCause 0) .CAUSE = 0x0D ∧ t.fld (.ctxfDetail 0) .ARG = 4) = true ∧
    gives (exec (.bobbinEnable 7 f) (started.setFld (.tbobPool 0) .SIZE_G 100)) (fun t => t.flag (bobCfg 7) .ENABLE ∧ (t.bobbin 7).run = (0, bobGranules f)) = true ∧
    gives (exec (.bobbinEnable 7 f) started) (fun t => !t.flag (bobCfg 7) .ENABLE ∧ t.flag (.tbobStatus 0) .NO_SPACE) = true ∧
    gives (exec (.bobbinDisable 3 f) s) (fun t => !t.flag (bobCfg 3) .ENABLE) = true ∧
    (waits s (.brecv 6 3 16 0x2000)).bobWaited 3 = true ∧
    gives (exec (.bobbinDisable 3 f) (waits s (.brecv 6 3 16 0x2000))) (fun t => t.flag (bobCfg 3) .ENABLE ∧ t.flag (.tbobStatus 0) .CFG_ERR) = true ∧
    s.enabledBobbins 0 ≠ [] ∧ started.enabledBobbins 0 = [] ∧
    gives (exec (.tbobPoolWrite 0 0x18000 0) started) (fun t => t.fld (.tbobPool 0) .SIZE_G = 0x18000) = true ∧
    gives (exec (.tbobPoolWrite 0 0x18000 1) started) (fun t => t.fld (.tbobPool 0) .SIZE_G = 0 ∧ t.flag (.tbobStatus 0) .CFG_ERR) = true := by decide +kernel

/-! ### The stroke's instructions, runs, bindings, rings -/

/-- The stroke runs. -/
def stroking (s : State) : State := (s.setFld .strokeStatus .STATE 2).setFld .strokeCount .COUNT 9

/-- StrokeInstructions on a core: while the stroke runs and while it does not; SSTEP with and without an armed image. -/
theorem witness_StrokeInstructions :
    base.strokeRuns = false ∧ (stroking base).strokeRuns = true ∧ base.coreCtx 0 = some 0 ∧ ((stroking base).canStep 0 = true) ∧
    gives (exec (.scount 0 6) (stroking base)) (fun t => (t.core 0).sreg 6 = 9) = true ∧
    gives (exec (.sphase 0 6) base) (fun t => (t.core 0).sreg 6 = 0) = true ∧
    gives (exec (.sstep 0 6) base) (fun t => (t.core 0).sreg 6 = BitVec.allOnes 64) = true ∧
    gives (exec (.sstep 0 6) ((base.setImage 0 { Image.empty with phase := .armed }).setFlds (.strokeImgStat 0) [(.STEP, 4)])) (fun t =>
      (t.core 0).sreg 6 = 4) = true ∧
    gives (exec (.svote 0) base) (fun t => t.stroke.vote = none ∧ (t.core 0).pc = 0x1008) = true ∧
    gives (exec (.svote 0) (stroking base)) (fun t => t.stroke.vote = some { x := 0, y := 0, ctx := 0, cause := 1 } ∧ t.stroke.voted = [0]) = true ∧
    answers (exec .voteSlip base) base = true ∧
    gives (exec .voteSlip (stroking base)) (fun t => t.stroke.vote.map Vote.cause = some 2) = true := by decide +kernel

/-- An idle core with the same registers. -/
def idle (f : NibCore → NibCore) : State := withCore fun k => f { k with st := .idle }

/-- NibRunsStart: the image queue first; a qpost; a dispatched record; a held post; a record that cannot be read. -/
theorem witness_NibRunsStart :
    let p : Post := { arg := .args 0x3000 1 2, handle := 9, crec := true, knot := none, held := false, delayed := false }
    (idle id).ctxLive ((idle id).ctxOf 0) = true ∧
    gives (exec (.nibRunStart 0) (idle fun k => { k with imageQ := [{ entry := 0x4000, arg := 7 }], postQ := [p] })) (fun t =>
      (t.core 0).pc = 0x4000 ∧ (t.core 0).sreg 1 = 7 ∧ (t.core 0).sreg 2 = 0 ∧ (t.core 0).postQ = [p] ∧ (t.core 0).imageQ = []) = true ∧
    gives (exec (.nibRunStart 0) (idle fun k => { k with postQ := [p] })) (fun t => (t.core 0).pc = 0x3000 ∧ (t.core 0).sreg 3 = 9 ∧ (t.core 0).sreg 5 = 0) = true ∧
    gives (exec (.nibRunStart 0) ((idle fun k => { k with postQ := [{ p with arg := .desc 0x2000, crec := false }] }).putCells
      (word 0x4002000 0x3000 ++ word 0x4002008 11))) (fun t => (t.core 0).pc = 0x3000 ∧ (t.core 0).sreg 1 = 11 ∧ (t.core 0).sreg 3 = 0) = true ∧
    gives (exec (.nibRunStart 0) (idle fun k => { k with postQ := [{ p with arg := .desc 0x2004, crec := false }] })) (fun t =>
      t.fld (.ctxfCause 0) .CAUSE = 2 ∧ (t.core 0).postQ = []) = true ∧
    answers (exec (.nibRunStart 0) (idle fun k => { k with postQ := [{ p with held := true }] })) (idle fun k => { k with postQ := [{ p with held := true }] }) = true ∧
    answers (exec (.nibRunStart 0) base) base = true := by decide +kernel

/-- NibBindingDrainsAndFailures. -/
theorem witness_NibBindingDrainsAndFailures :
    let locked := started.setFlag (.ctxwCmpl 15) .LOCK true
    gives (exec (.nibBind 255 true 15) locked) (fun t => t.coreCtx 255 = some 15 ∧ (t.core 255).st = .idle) = true ∧
    gives (exec (.nibBind 255 true 15) started) (fun t => t.coreCtx 255 = none ∧ t.flag (.nibStatus 31) .BIND_REFUSED) = true ∧
    gives (exec (.nibBind 0 false 0) base) (fun t => t.coreCtx 0 = some 0 ∧ t.flag (.nibStatus 0) .BIND_REFUSED) = true ∧
    answers (exec (.nibBind 0 true 0) base) base = true ∧
    ((stores 1).core 0).stores = [[{ host := false, mcomp := false, cells := [(0x4003000, 1)] }]] ∧
    gives (exec (.storeDrain 0) (stores 1)) (fun t => (t.core 0).stores = [] ∧ t.byteAt 0x4003000 = 1) = true ∧
    gives (exec (.storeDrain 0) ((stores 1).setPoison 0x1000C0 true)) (fun t => t.byteAt 0x4003000 = 0 ∧ t.fld (.ctxfCause 0) .CAUSE = 3) = true ∧
    gives (exec (.nibCoreFailure 0 0 .storeParity) base) (fun t => (t.core 0).st = .failed ∧ t.fld (.ctxfCause 0) .CAUSE = 4 ∧
      t.fld (.ctxfDetail 0) .ARG = 5 ∧ t.perm.defects.length = 1 ∧ t.flag (.nibFailLog 0) .VALID) = true := by decide +kernel

/-- CompletionRings: the smallest ring on the Well page; a ring outside it, of a size not allowed, or on DRAM; a locked ring. -/
theorem witness_CompletionRings :
    (started.writeRing 0 6 0x4000).ringMap 0 = some [0x4000000000] ∧ (started.writeRing 0 5 0x4000).ringMap 0 = none ∧
    (started.writeRing 0 6 0).ringMap 0 = none ∧ (ringed started).hasBound 0 = false ∧ (ringed base).hasBound 0 = true ∧
    gives (exec (.ringLock 0 6 0x4000) started) (fun t => t.flag (.ctxwCmpl 0) .LOCK ∧ t.flag (.ctxwCmplStat 0) .INIT) = true ∧
    gives (exec (.ringLock 0 6 0) started) (fun t => !t.flag (.ctxwCmpl 0) .LOCK ∧ t.flag (.ctxwCmplStat 0) .CFG_ERR) = true ∧
    answers (exec (.ringLock 0 6 0x4000) (ringed started)) (ringed started) = true ∧
    gives (exec (.ringLock 0 7 0x4000) (ringed started)) (fun t => t.fld (.ctxwCmpl 0) .SLOTS_LOG2 = 6 ∧ t.flag (.ctxwCmplStat 0) .WO_VIOLATION) = true ∧
    gives (exec (.ringUnlock 0 6 0x4000) (ringed started)) (fun t => !t.flag (.ctxwCmpl 0) .LOCK) = true ∧
    gives (exec (.ringUnlock 0 6 0x4000) (ringed base)) (fun t => t.flag (.ctxwCmpl 0) .LOCK ∧ t.flag (.ctxwCmplStat 0) .CFG_ERR) = true ∧
    gives (exec (.ringInitDone 0) ((ringed started).setFlag (.ctxwCmplStat 0) .INIT true)) (fun t =>
      !t.flag (.ctxwCmplStat 0) .INIT) = true ∧
    (((ringed started).context 0).ringFrames.all fun f => f % 32 = 0) = true := by decide +kernel

/-- Retiring writes: at a complete, a pending slot, with other bytes, and beyond the ring. -/
theorem witness_RetiringWrites :
    let s := slotOf (ringed started) 5 0 1
    s.ringAt 0x40000000A0 = some (0, 0xA0) ∧ s.ringAt 0x4000000800 = none ∧
    gives (exec (.retiringWrite 0x40000000A0 (toBytes 8 5)) s) (fun t => slotState (t.bytesAt 0x40000000A0 32) = .free ∧ t.wordAt 0x40000000A0 8 = 5) = true ∧
    answers (exec (.retiringWrite 0x40000000C0 (toBytes 8 0)) s) s = true ∧
    gives (exec (.retiringWrite 0x40000000A0 (toBytes 8 6)) s) (fun t => t.mem = s.mem ∧ t.flag (.ctxwCmplStat 0) .BAD_WRITE) = true ∧
    answers (exec (.retiringWrite 0x4000000800 (toBytes 8 5)) s) s = true := by decide +kernel

/-! ### Quill -/

/-- Hart 0 runs at 0x1000 in M-mode in context 0, with x1 = 0x2000, x2 = 2⁶⁴ − 1, and the word w there. -/
def quill (w : Nat) : State :=
  ((started.setFlds (.quillHart 0 0) [(.BOUND, 1), (.RUN, 1)]).setHart 0
    { Hart.off with st := .running, pc := 0x1000, x := [(1, 0x2000), (2, 0xFFFFFFFFFFFFFFFF)] }).putCells (cellsFrom 0x4001000 (toBytes 4 w))

theorem hartExecutes {s : State} {w : Nat} (h : s.hartReady 0 = true ∧ s.interrupt (s.hartOf 0) = none)
    (h' : (match (s.hartFetch 0 (s.fld (hartReg 0) .CTX)).2 with | .ok v => decide (v = w) | .error _ => false) = true) :
    HartExecutes s (s.hartFetch 0 (s.fld (hartReg 0) .CTX)).1 0 w := by
  refine ⟨h.1, h.2, Prod.ext rfl ?_⟩
  show (s.hartFetch 0 (s.fld (hartReg 0) .CTX)).2 = .ok w
  revert h'
  cases (s.hartFetch 0 (s.fld (hartReg 0) .CTX)).2 with
  | ok v => intro h'; exact congrArg _ (of_decide_eq_true h')
  | error _ => intro h'; exact absurd h' (by simp)

/-- HartExecutes, for the statements about harts: ADDI x3, x1, −1. -/
theorem witness_HartExecutes :
    HartExecutes (quill 0xFFF08193) ((quill 0xFFF08193).hartFetch 0 ((quill 0xFFF08193).fld (hartReg 0) .CTX)).1 0 0xFFF08193 :=
  hartExecutes (by decide +kernel) (by decide +kernel)

/-- RiscvIntegerInstructions, on words of the RISC-V encoding: ADDI, SUB, DIVU by zero, JAL, BEQ, BLTU, LD, SD, FENCE and a word of
none of the opcodes. -/
theorem test_riscv :
    gives (exec (.riscvInstruction 0) (quill 0xFFF08193)) (fun t => (t.hartOf 0).xreg 3 = 0x1FFF ∧ (t.hartOf 0).pc = 0x1004) = true ∧
    gives (exec (.riscvInstruction 0) (quill 0x402081B3)) (fun t => (t.hartOf 0).xreg 3 = 0x2001) = true ∧
    gives (exec (.riscvInstruction 0) (quill 0x0200D1B3)) (fun t => (t.hartOf 0).xreg 3 = BitVec.allOnes 64) = true ∧
    gives (exec (.riscvInstruction 0) (quill 0x008001EF)) (fun t => (t.hartOf 0).xreg 3 = 0x1004 ∧ (t.hartOf 0).pc = 0x1008) = true ∧
    gives (exec (.riscvInstruction 0) (quill 0x00000463)) (fun t => (t.hartOf 0).pc = 0x1008) = true ∧
    gives (exec (.riscvInstruction 0) (quill 0x00116463)) (fun t => (t.hartOf 0).pc = 0x1004) = true ∧
    gives (exec (.riscvInstruction 0) ((quill 0x0000B183).putCells (word 0x4002000 77))) (fun t => (t.hartOf 0).xreg 3 = 77) = true ∧
    gives (exec (.riscvInstruction 0) (quill 0x0020B023)) (fun t => t.wordAt 0x4002000 8 = 0xFFFFFFFFFFFFFFFF) = true ∧
    gives (exec (.riscvInstruction 0) (quill 0x0FF0000F)) (fun t => (t.hartOf 0).pc = 0x1004) = true ∧
    gives (exec (.riscvInstruction 0) (quill 0x0000006B)) (fun t => (t.hartOf 0).csrAt 0x342 = 2 ∧ (t.hartOf 0).csrAt 0x343 = 0x6B ∧
      (t.hartOf 0).csrAt 0x341 = 0x1000) = true := by decide +kernel

/-- The stroke's instructions on a hart, in M-mode and in U-mode. -/
theorem test_quill_stroke :
    gives (exec (.qstroke 0 3) (stroking (quill 0x0B))) (fun t => (t.hartOf 0).xreg 3 = 9 ∧ (t.hartOf 0).pc = 0x1004) = true ∧
    gives (exec (.qvote 0) (stroking (quill 0x0B))) (fun t => t.stroke.voted = [0] ∧ t.stroke.vote.map Vote.cause = some 1) = true ∧
    gives (exec (.qvote 0) ((quill 0x0B).setHart 0 { (quill 0x0B).hartOf 0 with priv := .u, csr := [(0x3A0, 0x1F), (0x3B0, 0x3FFFFFFFFFFFFF)] }))
      (fun t => (t.hartOf 0).csrAt 0x342 = 2) = true := by
  decide +kernel

/-- HartBindingRunAndStop: an OFF, a running, a FAILED hart, and a FAULTED one outside and inside its context's reset. -/
theorem witness_HartBindingRunAndStop :
    let f : HartFields := { bound := true, ctx := 15, resetPc := 0xFFFFFFFFFFFF }
    let dead := fun (st : HartStatus) => (quill 0).setHart 0 { (quill 0).hartOf 0 with st := st }
    gives (exec (.hartRun 63 f) started) (fun t => (t.hartOf 63).st = .running ∧ (t.hartOf 63).pc = 0xFFFFFFFFFFFE ∧ t.hartCtx 63 = some 15) = true ∧
    gives (exec (.hartRun 63 { f with bound := false }) started) (fun t => (t.hartOf 63).st = .off ∧ t.flag (.quillStatus 1) .BIND_REFUSED) = true ∧
    gives (exec (.hartStop 0 f) (quill 0)) (fun t => (t.hartOf 0).st = .off ∧ !t.flag (hartReg 0) .RUN ∧ t.flag (hartReg 0) .BOUND) = true ∧
    answers (exec (.hartRun 0 f) (quill 0)) (quill 0) = true ∧
    gives (exec (.quillHartBind 0 true f) (dead .failed)) (fun t => (t.hartOf 0).st = .failed ∧ t.flag (.quillStatus 0) .BIND_REFUSED) = true ∧
    gives (exec (.quillHartBind 0 true f) (dead .faulted)) (fun t => (t.hartOf 0).st = .running) = true ∧
    ((dead .faulted).setFld (.ctxrCtrl 0) .STATE 1).resetting 0 = true ∧
    answers (exec (.hartRun 0 f) ((dead .faulted).setFld (.ctxrCtrl 0) .STATE 1)) ((dead .faulted).setFld (.ctxrCtrl 0) .STATE 1) = true := by
  decide +kernel

/-- QpostJudged: x1 the record, x2 the target core 0; refused, full, waiting, posted. -/
def poster (x1 : Nat) : State :=
  let s := ringed (freeRing ((quill 0).setFlds (coreReg 0) [(.BOUND, 1), (.CTX, 0)]))
  (s.setCore 0 { NibCore.off with st := .idle }).setHart 0 { s.hartOf 0 with x := smSet (fun _ => 0) (smSet (fun _ => 0) (s.hartOf 0).x 1 (BitVec.ofNat 64 x1)) 2 0 }

theorem witness_QpostJudged :
    ((poster 0x2000).hartOf 0).xquillOk = true ∧ (poster 0x2000).coreServes 0 0 = true ∧ (poster 0x2000).nextSlotFree 0 = true ∧
    gives (exec (.qpost 0 3 1 2) (poster 0x2010)) (fun t => (t.hartOf 0).xreg 3 = 0 ∧ (t.hartOf 0).cbits 0x7C3 7 0 = 0x10) = true ∧
    gives (exec (.qpost 0 3 1 2) (poster 0x3000000)) (fun t => (t.hartOf 0).cbits 0x7C3 7 0 = 0x10 ∨ (t.hartOf 0).cbits 0x7C3 7 0 = 0x11) = true ∧
    gives (exec (.qpost 0 3 1 2) ((poster 0x2000).putCells (word 0x4002000 0x3000 ++ word 0x4002018 0x10000))) (fun t => (t.hartOf 0).xreg 3 = 1 ∧
      (t.core 0).postQ.map Post.arg = [.args 0x3000 0 0]) = true ∧
    gives (exec (.qpost 0 3 1 2) ((poster 0x2000).putCells [(0x4000000029, 0)])) (fun t => (t.hartOf 0).wait = .qpost 3 0x2000 0 (List.replicate 32 0) ∧ t.waiting = [.hart 0]) = true := by
  decide +kernel

/-- QuillEventsAndFailures. -/
theorem witness_QuillEventsAndFailures :
    let s := knotted (quill 0) 9 100
    let timer := (quill 0).setHart 0 { (quill 0).hartOf 0 with csr := [(0x300, 8), (0x304, 0x80), (0x305, 0x4001)] }
    let cached := { (quill 0) with dir := [{ line := 0x100080, dies := [0], owned := true, dirty := true, mcomp := false, ctx := 0 }] }
    gives (exec (.qebindWrite 0 0x8000000000000009) s) (fun t => smGet (fun _ => 0) (t.hartOf 0).bind 0 = 0x8000000000000009) = true ∧
    gives (exec (.qebindWrite 0 0x8000000000000008) s) (fun t => (t.hartOf 0).bind = [] ∧ (t.hartOf 0).cbits 0x7C3 7 0 = 0x10) = true ∧
    gives (exec (.qeventUpdate 0 63) (s.setHart 0 { s.hartOf 0 with bind := [(63, 0x8000000000000009)] })) (fun t => (t.hartOf 0).csrAt 0x7C2 = 0x8000000000000000) = true ∧
    (timer.hartOf 0).cbit 0x300 3 = true ∧ (timer.hartOf 0).cbit 0x303 7 = false ∧ (timer.hartOf 0).csrAt 0x304 = 0x80 ∧
    gives (exec (.machineTimerInterrupt 0) timer) (fun t => (t.hartOf 0).pc = 0x401C ∧ (t.hartOf 0).csrAt 0x341 = 0x1000 ∧
      (t.hartOf 0).csrAt 0x342 = 0x8000000000000007 ∧ !(t.hartOf 0).cbit 0x300 3) = true ∧
    gives (exec (.quillCoreFailure 0) (quill 0)) (fun t => (t.hartOf 0).st = .failed ∧ t.fld (.ctxfDetail 0) .ARG = 3 ∧ t.perm.defects.length = 1) = true ∧
    gives (exec (.quillCacheUe 0x100080) cached) (fun t => t.dir = [] ∧ t.poisoned 0x100080 ∧ t.fld (.ctxfDetail 0) .ARG = 4) = true ∧
    answers (exec (.quillCacheUe 0x100081) cached) cached = true := by decide +kernel

/-! ### Registers -/

/-- RegisterMapAndAccessCodes: instances at the ends of their ranges; W1C, RO and locked fields under a write of all ones. -/
theorem witness_RegisterMapAndAccessCodes :
    (Reg.bobCfg 31 255).valid = true ∧ (Reg.knotCfg 31 127).valid = true ∧ (Reg.ctxwCmplStat 15).valid = true ∧
    (Reg.bobCfg 32 0).valid = false ∧ regAt 0xC8 ≠ some (Reg.bobCfg 0 0) ∧
    (let s := ((base.setFlag .strokeCtrl .LOCK true).setFlag (.ctxwCmplStat 0) .CFG_ERR true).setFld (.ctxwCmplStat 0) .PENDING 3
     s.locked .strokeTiming = true ∧ (s.writeCodes .strokeTiming 0 (BitVec.allOnes 64)).reg .strokeTiming = s.reg .strokeTiming ∧
     (s.writeCodes .strokeTiming 0 (BitVec.allOnes 64)).flag .strokeStatus .WO_VIOLATION = true ∧
     (s.writeCodes (.ctxwCmplStat 0) (BitVec.allOnes 64) (BitVec.allOnes 64)).flag (.ctxwCmplStat 0) .CFG_ERR = false ∧
     (s.writeCodes (.ctxwCmplStat 0) (BitVec.allOnes 64) (BitVec.allOnes 64)).fld (.ctxwCmplStat 0) .PENDING = 3) := by decide +kernel

/-- RegisterAccesses: the halves of TMEM.SCRUB of tile 0 (0x1000000 + its offset), a latched COUNT, no register, a function whose BAR0
does not answer. -/
theorem witness_RegisterAccesses :
    let off := BitVec.ofNat 26 (Reg.tmemScrub 0).addr
    let count := Reg.addr .strokeCount
    let s := stroking base
    s.barOpen 0 = true ∧ s.barOpen 1 = false ∧ barOffset 0 count = some count ∧ s.regFor 0 count = some .strokeCount ∧ Reg.latches .strokeCount = true ∧
    s.regFor 0 0x300 = none ∧
    gives (exec (.registerWrite 0 off [5, 0, 0, 0]) s) (fun t => t.fld (.tmemScrub 0) .PERIOD_MIN = 5) = true ∧
    answers (exec (.registerWrite 0 off [5, 0]) s) s = true ∧ answers (exec (.registerWrite 1 off [5, 0, 0, 0]) s) s = true ∧
    answers (exec (.registerWrite 0 0x300 [5, 0, 0, 0]) s) s = true ∧
    gives (exec (.lowHalfRead 0 (BitVec.ofNat 23 (count / 8))) s) (fun t => t.outbox = [.regData count 4 9] ∧
      smGet (fun _ => none) t.latch count = some 0) = true ∧
    gives (exec (.readClearRead 0 (BitVec.ofNat 26 count) 7) s) (fun t => t.outbox = [.regData count 8 9]) = true ∧
    gives (exec (.readClearRead 0 0x300 7) s) (fun t => t.outbox = [.regData 0x300 8 0]) = true ∧
    gives (exec (.readClearRead 1 0 7) s) (fun t => t.outbox = [.pcieCpl 1 1 false []]) = true ∧
    answers (exec (.readClearRead 0 0 7) { s with rack := { s.rack with unpowered := true } }) { s with rack := { s.rack with unpowered := true } } = true := by
  decide +kernel

/-- WrittenFieldsTakeEffect: a register that only stores, a locked one, and one whose write is a command. -/
theorem witness_WrittenFieldsTakeEffect :
    let write := fun (s : State) (r : Reg) (w : Nat) => exec (.registerWrite 0 (BitVec.ofNat 26 r.addr) (toBytes 8 w)) s
    base.start.passed.isSome = true ∧ base.flag .strokeCtrl .LOCK = false ∧
    gives (write base (.memRoot 15) 0x800000FFFFFFE000) (fun t => t.fld (.memRoot 15) .BASE = 0x7FFFFFF ∧ t.flag (.memRoot 15) .ENABLE) = true ∧
    gives (write base .strokeTiming 0x0064000800FA) (fun t => t.reg .strokeTiming = 0x0064000800FA) = true ∧
    gives (write (base.setFlag .strokeCtrl .LOCK true) .strokeTiming 0) (fun t => t.fld .strokeTiming .PERIOD_US = 250) = true ∧
    gives (write base (.ctxrCtrl 0) 0x80000000) (fun t => t.fld (.ctxrCtrl 0) .STATE = 1) = true ∧
    gives (write base (knotCfg 3) 0x8200000000000000) (fun t => t.knotOwned 2 3) = true ∧
    gives (write base .strokeCtrl 2) (fun t => t.strokeState = 1) = true := by decide +kernel

/-! ### Memory -/

theorem witness_MemoryKeepsItsCanonicalForm :
    smWf memDefault base.mem = true ∧ smWf memDefault (base.putCells [(0x10001, 0), (0, 5), (0x20001, 7)]).mem = true ∧
    (base.putCells (word 0x10000 0)).mem.length < base.mem.length ∧ smWf memDefault [(4, 1), (4, 2)] = false ∧ smWf memDefault [(4, 0)] = false := by
  decide +kernel

/-- HomeAccesses: a clean and a poisoned line, whole and partial writes, a line held in a Quill cache, MCOMP. -/
theorem witness_HomeAccesses :
    let p := base.setPoison 0x100080 true
    let d := { base with dir := [{ line := 0x100080, dies := [0], owned := true, dirty := true, mcomp := false, ctx := 0 }] }
    base.ringAt 0x4002000 = none ∧ isDram 0x4002000 = true ∧
    (base.homeRead (some 0) 0x10000 8).2 = some [1, 0, 2, 0, 0, 0, 0, 0] ∧ (p.homeRead (some 0) 0x4002000 8).2 = none ∧
    (p.homeWrite (some 0) false (cellsFrom 0x4002000 [1])).2 = false ∧ (p.homeWrite (some 0) false (cellsFrom 0x4002000 [1])).1.byteAt 0x4002000 = 0 ∧
    (p.homeWrite (some 0) true (cellsFrom 0x4002000 (List.replicate 64 0))).1.poisoned 0x100080 = false ∧
    (p.homeWrite (some 0) true (cellsFrom 0x4002000 (List.replicate 64 0))).1.zeroMapped 0x100080 = true ∧
    (d.homeWrite (some 0) false (cellsFrom 0x400203F [9])).1.dir = [] ∧ (d.homeWrite (some 0) false (cellsFrom 0x400203F [9])).1.byteAt 0x400203F = 9 := by
  decide +kernel

/-- PageWalk: a 32 MiB leaf, a 64 KiB leaf and a HOST leaf, and causes 1, 2, 6 and 7. -/
theorem witness_PageWalk :
    base.walk 0 0x1FFFFFF true true = .ok 0x5FFFFFF false false ∧ base.walk 0 0x200FFFF true false = .ok 0x400000FFFF false false ∧
    base.walk 0 0x2010010 true false = .host 0x10010 ∧ base.walk 0 0x4000000000 false false = .fail 1 ∧ base.walk 0 0x2000000 false true = .fail 2 ∧
    base.walk 1 0 false false = .fail 6 ∧ base.walk 0 0x1000000000000 false false = .fail 7 ∧
    (base.translate 0 4 31 0x4000000008 false false).1.fld .memFault .CAUSE = 1 ∧ (base.translate 0 4 31 0x4000000008 false false).1.fld .memFault .TILE = 31 := by
  decide +kernel

/-- LineAccessesAndScrub. -/
theorem witness_LineAccessesAndScrub :
    let a : MemAgent := .aperture none
    gives (exec (.dramRead a 0x400 .corrected) base) (fun t => t.outbox = [.memReply 0x10000 0 (base.bytesAt 0x10000 64)] ∧ t.fld (.tmemCeCount 0) .COUNT = 1) = true ∧
    gives (exec (.dramRead a 0x400 .uncorrectable) base) (fun t => t.outbox = [.memReply 0x10000 0x12 []] ∧ t.poisoned 0x400 ∧ t.perm.defects.length = 1) = true ∧
    gives (exec (.dramRead (.nib 0) 0x400 .uncorrectable) base) (fun t => t.fld (.ctxwNibExc 0) .CAUSE = 7) = true ∧
    gives (exec (.dramFullLineWrite a 0x400 false 7 .clean) base) (fun t => t.wordAt 0x10000 8 = 7) = true ∧
    gives (exec (.dramPartialWrite a 0x400 63 [9] .clean) base) (fun t => t.byteAt 0x1003F = 9) = true ∧
    gives (exec (.dramPartialWrite a 0x400 63 [9] .clean) (base.setPoison 0x400 true)) (fun t => t.byteAt 0x1003F = 0) = true ∧
    gives (exec (.wellAccess a 0 0x2FFFFF .read .clean) base) (fun t => t.outbox = [.memReply 0x40017FFFF8 0 (List.replicate 8 0)]) = true ∧
    gives (exec (.wellAccess a 0 0x300000 .read .clean) base) (fun t => t.outbox = [.memReply 0x4001800000 0x11 []]) = true ∧
    gives (exec (.wellAccess a 0 0 (.write 7 [3]) .clean) base) (fun t => t.byteAt 0x4000000007 = 3) = true ∧
    gives (exec (.wellAccess a 0 0 .read .uncorrectable) base) (fun t => t.fld (.ctxfCause 0) .CAUSE = 4 ∧ t.perm.defects.length = 1) = true := by decide +kernel

theorem witness_Scrub :
    let s := (base.setFld (.tmemScrub 0) .PERIOD_MIN 1).setScrub 0 (2 ^ 27 + 393215)
    answers (exec (.scrubLine 31 .clean 0) (base.setFld (.tmemScrub 31) .PERIOD_MIN 0)) (base.setFld (.tmemScrub 31) .PERIOD_MIN 0) = true ∧
    gives (exec (.scrubLine 0 .clean 0) s) (fun t => t.scrubAt 0 = 0) = true ∧
    gives (exec (.scrubLine 0 .uncorrectable 0) (base.setFld (.tmemScrub 0) .PERIOD_MIN 1)) (fun t => t.scrubAt 0 = 1 ∧ t.poisoned 0) = true ∧
    gives (exec (.scrubPeriodWrite 31 0xFFFF) base) (fun t => t.fld (.tmemScrub 31) .PERIOD_MIN = 0xFFFF) = true := by decide +kernel

/-- InvalidationHostAndFabric: core 0 of context 0 reads and writes its HOST page. -/
def hosted : State := (base.setFlag .ioPcieStat .LINK_UP true).setFn 1 { (base.fnOf 1) with enabled := true }

def loading : State :=
  { (hosted.setCore 0 { hosted.core 0 with wait := .hostLoad (.scalar 6 4 true) 0x2010010 4 [] 1 }) with
    hostReads := [{ tag := 7, ctx := 0, reader := .nib 0, va := 0x2010010, bus := 0x10010, len := 4 }, { tag := 8, ctx := 0, reader := .access, va := 0, bus := 0x10010, len := 4 }] }

theorem witness_InvalidationHostAndFabric :
    hosted.canIssue 0 = true ∧ hosted.agentCtx (.nib 0) = some 0 ∧
    gives (exec (.invalidate true 0 15 0) base) (fun t => t.flag .memInvalStat .BUSY ∧ t.inval = some 15) = true ∧
    gives (exec (.invalidate true 0 15 0) { base.setFlag .memInvalStat .BUSY true with inval := some 1 }) (fun t => t.flag .memInvalStat .DROPPED ∧ t.inval = some 1) = true ∧
    gives (exec .invalidationDone { base.setFlag .memInvalStat .BUSY true with inval := some 1 }) (fun t => t.inval = none) = true ∧
    answers (exec .invalidationDone base) base = true ∧
    gives (exec (.hostPageAccess (.nib 0) 0x2010010 (.load 4)) hosted) (fun t => t.outbox = [.pcieRead 1 0 0x10010 4] ∧ t.hostReads.length = 1) = true ∧
    gives (exec (.hostPageAccess (.nib 0) 0x2010010 (.store [9])) hosted) (fun t => t.outbox.length = 1) = true ∧
    gives (exec (.hostReadCompletion 7 .sc [0xFE, 0xFF, 0xFF, 0xFF]) loading) (fun t => (t.core 0).sreg 6 = 0xFFFFFFFFFFFFFFFE ∧ (t.core 0).wait = .none) = true ∧
    gives (exec (.hostReadCompletion 8 .ur []) loading) (fun t => t.outbox = [.memReply 0x10010 0x11 []] ∧ t.hostReads.length = 1) = true ∧
    gives (exec (.completionTimeout 8) loading) (fun t => (t.fnOf 1).aerTimeout) = true ∧
    answers (exec (.hostReadCompletion 9 .sc []) loading) loading = true ∧
    gives (exec (.fabricFlitReplay 3 true) { base with replays := [(3, 14)] }) (fun t => !t.failed ∧ t.replays = [(3, 15)]) = true := by decide +kernel

/-! ### The stroke -/

/-- SHA-256 of "abc" (FIPS 180-4), its low 64 bits as log entry 7 reads them. -/
theorem test_sha : sha64 [0x61, 0x62, 0x63] = 0xB410FF61F20015AD := by decide +kernel

/-- An image of one work and one milestone in step 0 at 0x2000, for Nib core 0 and knot 5; its header follows Table 2-4. -/
def imageBytes (hash : Nat) : List Byte :=
  toBytes 4 0x4B525453 ++ toBytes 4 1 ++ toBytes 8 0x0064000800FA ++ toBytes 8 1 ++ toBytes 4 1 ++ toBytes 4 0 ++ toBytes 8 hash ++ toBytes 4 128 ++ toBytes 4 1 ++
    toBytes 8 0 ++ toBytes 4 160 ++ toBytes 4 1 ++ List.replicate 64 0 ++
    (toBytes 4 0 ++ toBytes 4 2000 ++ toBytes 8 0 ++ toBytes 8 0x3000 ++ toBytes 8 77) ++ (toBytes 4 0 ++ toBytes 4 3000 ++ toBytes 4 5 ++ toBytes 4 10)

def imaged : State :=
  let s := place (knotted base 5 0) (cellsFrom 0x4010000 (imageBytes (sha64 (imageBytes 0)).toNat))
  (s.setFlag (.strokeImage 0) .ARM true).setImage 0 { Image.empty with phase := .validating, base := 0x10000 }

/-- The image at work in step 0. -/
def imageAtWork (queue : Nat) : State :=
  let s := (stroking (knotted base 5 9)).setFlag .startStat .READY true
  let s := (s.setFlag (.strokeImage 0) .ARM true).setFld .strokePhase .PHASE 768000
  let s := s.setCore 0 { s.core 0 with imageQ := List.replicate queue { entry := 0, arg := 0 } }
  s.setImage 0 { Image.empty with
    phase := .armed, steps := 1, begun := true, works := [{ step := 0, startNs := 2000, target := 0, addr := 0x3000, arg := 77 },
      { step := 0, startNs := 2000, target := 1, addr := 0x3000, arg := 77 }],
    miles := [{ step := 0, deadlineNs := 3000, knot := 5, action := 1, threshold := 10 }, { step := 0, deadlineNs := 3000, knot := 5, action := 0, threshold := 10 },
      { step := 0, deadlineNs := 3000, knot := 5, action := 1, threshold := 9 }] }

theorem witness_ScheduleImages :
    base.ctxLive 0 = true ∧ base.flag (.strokeImage 0) .ARM = false ∧
    gives (exec (.imageArm 0 1) base) (fun t => (t.image 0).phase = .validating ∧ (t.image 0).base = 0x10000) = true ∧
    gives (exec (.imageArm 0 1) (base.setImage 0 { Image.empty with phase := .disarming })) (fun t => t.flag .strokeStatus .ARM_REFUSED) = true ∧
    gives (exec (.imageDisarm 0 1) (imageAtWork 0)) (fun t => (t.image 0).phase = .disarming) = true ∧
    gives (exec (.imageValidationDone 0) imaged) (fun t => (t.image 0).phase = .armed ∧ (t.image 0).works.length = 1 ∧ t.fld (.strokeImgStat 0) .STATUS = 1) = true ∧
    gives (exec (.imageValidationDone 0) (imaged.putCells [(0x4010000, 1)])) (fun t => (t.image 0).phase = .none ∧ t.fld (.strokeImgStat 0) .STATUS = 0x10) = true ∧
    answers (exec (.imageValidationDone 0) base) base = true ∧
    (imageAtWork 0).imageRuns 0 = true ∧ (imageAtWork 0).currentStep 0 = 0 ∧ (imageAtWork 0).inGuard = false ∧
    gives (exec (.workListStart 0 0) (imageAtWork 3)) (fun t => (t.core 0).imageQ.length = 4) = true ∧
    gives (exec (.workListStart 0 0) (imageAtWork 4)) (fun t => t.fld (.ctxfCause 0) .CAUSE = 6) = true ∧
    gives (exec (.workListStart 0 1) (imageAtWork 0)) (fun t => t.fld (.ctxfCause 0) .CAUSE = 0x13) = true ∧
    gives (exec (.milestoneCheck 0 0) (imageAtWork 0)) (fun t => t.fld (.ctxfCause 0) .CAUSE = 7) = true ∧
    gives (exec (.milestoneCheck 0 1) (imageAtWork 0)) (fun t => t.stroke.voted = [0] ∧ t.stroke.vote.map Vote.cause = some 0) = true ∧
    (imageAtWork 0).slipLimit = 8 ∧
    gives (exec (.milestoneCheck 0 1) { imageAtWork 0 with stroke := { (imageAtWork 0).stroke with consec := [(0, 8)] } }) (fun t => t.fld (.ctxfCause 0) .CAUSE = 8) = true ∧
    answers (exec (.milestoneCheck 0 2) (imageAtWork 0)) (imageAtWork 0) = true := by decide +kernel

theorem witness_StrokeBoundaryAndWindow :
    let s := (imageAtWork 0).setFld .strokePhase .PHASE 63999744
    let v := { s with stroke := { s.stroke with vote := some { x := 0, y := 0, ctx := 0, cause := 0 }, voted := [0] } }
    let w : Work := { ctx := 0, desc := 0, handle := 0, crec := false, knot := none, held := true, delayed := true, image := false }
    gives (exec (.strokeBoundary 0 []) s) (fun t => t.count = 10 ∧ t.phase = 0 ∧ t.fld (.strokeImgStat 0) .STEP = 1) = true ∧
    answers (exec (.strokeBoundary 0 []) base) base = true ∧ answers (exec (.strokeBoundary 0 []) (imageAtWork 0)) (imageAtWork 0) = true ∧
    v.turnStroke.stroke.slip = true ∧ v.turnStroke.fld .strokeSlips .SLIPS = 1 ∧ v.turnStroke.consecOf 0 = 1 ∧ v.turnStroke.consecOf 15 = 0 ∧
    ((imageAtWork 0).imageBoundary false 0).fld (.strokeImgStat 0) .STEP = 0 ∧
    (((imageAtWork 0).setFld (.strokeImgStat 0) .STATUS 1).imageBoundary true 0).fld (.strokeImgStat 0) .STATUS = 0 ∧
    ((s.setFlag .strokeCtrl .LOCK true).stopStroke).flag .strokeCtrl .LOCK = false ∧
    gives (exec .boundaryWindowClose (s.setFeedCh 0 { FeedCh.idle with queue := [w] })) (fun t => (t.feedCh 0).queue.map Work.held = [false]) = true := by
  decide +kernel

/-- Port 2 is LIVE on links 8 and 9; the stroke runs. -/
def linked : State :=
  let s := (stroking base).setFlds (.portCfg 2) [(.ENABLE, 1), (.DIR, 1), (.SIZE_LOG2, 1), (.FIRST, 0)]
  s.setFld (.portState 2) .STATE 4

def frame : FrameFields :=
  { record := 0, fw := linked.fwVersion, count := 9, timing := linked.reg .strokeTiming, rank := 255, anchorX := 0, anchorY := 0, stamp := 0, t1 := 0, x := 0, y := 0,
    dir := 0, sizeLog2 := 1, link := 0, images := [], buddies := [] }

theorem witness_BoundaryFrames :
    linked.portOfLink 8 = some 2 ∧ linked.live 2 = true ∧ (linked.link 8).relock = none ∧
    gives (exec (.boundaryFrame 8 frame 5 false) linked) (fun t => (t.port 2).framed ∧ (t.link 8).t2 = some 5) = true ∧
    gives (exec (.boundaryFrame 8 { frame with record := 1 } 5 false) linked) (fun t => t.portIs 2 = 5 ∧ t.fld (.portState 2) .CAUSE = 1) = true ∧
    gives (exec (.boundaryFrame 8 { frame with count := 8 } 5 false) linked) (fun t => t.fld (.portState 2) .CAUSE = 3) = true ∧
    gives (exec (.boundaryFrame 8 { frame with images := [{ hash := 1, step := 0 }] } 5 false) linked) (fun t => t.fld (.portState 2) .CAUSE = 5) = true ∧
    gives (exec (.stoppedFrame 8 0 frame.fw) linked) (fun t => (t.port 2).farStopped ∧ t.portIs 2 = 4) = true ∧
    gives (exec (.stoppedFrame 8 1 frame.fw) linked) (fun t => t.fld (.portState 2) .CAUSE = 1) = true ∧
    gives (exec (.replyFrame 8 110 120 200) linked) (fun t => (t.link 8).sync = some (15, 95)) = true ∧
    gives (exec (.boundaryFrameMissed 2) linked) (fun t => (t.port 2).missed = 1 ∧ t.portIs 2 = 4) = true ∧
    gives (exec (.boundaryFrameMissed 2) (linked.setPort 2 { linked.port 2 with missed := 1 })) (fun t => t.portIs 2 = 6 ∧ t.fld (.portState 2) .CAUSE = 12) = true ∧
    answers (exec (.boundaryFrame 8 frame 5 false) (linked.setFld (.portState 2) .STATE 6)) (linked.setFld (.portState 2) .STATE 6) = true := by decide +kernel

theorem witness_StrokeStartsAndStops :
    let found := base.setFlag .startStat .FOUND_ARMED true
    base.timingBad = false ∧ base.failed = false ∧ base.facesRunning = false ∧ linked.canSymbol 2 = true ∧
    gives (exec .strokeStart found) (fun t => t.strokeState = 2 ∧ t.count = 0 ∧ t.flag .strokeCtrl .LOCK) = true ∧
    gives (exec .strokeStart base) (fun t => t.strokeState = 1 ∧ t.fld .startStat .STEP = 8) = true ∧
    gives (exec .strokeStart { base with start := { base.start with passed := some 6 } }) (fun t => t.flag .startStat .ORDER_ERR) = true ∧
    gives (exec .strokeStart (base.setFld .strokeTiming .GUARD_US 3)) (fun t => t.flag .strokeStatus .TIMING_ERR) = true ∧
    gives (exec .strokeStop linked) (fun t => t.stroke.stopping) = true ∧
    gives (exec .strokeStop (base.setFld .strokeStatus .STATE 1)) (fun t => t.strokeState = 0 ∧ t.fld .startStat .CAUSE = 12) = true ∧
    gives (exec .joinTimeout { base.setFld .strokeStatus .STATE 1 with time := 1600000 }) (fun t => t.fld .startStat .CAUSE = 10) = true ∧
    gives (exec (.slip 2 9 1 2 3 1) linked) (fun t => t.stroke.vote = some { x := 1, y := 2, ctx := 3, cause := 1 } ∧ !t.flag .strokeStatus .LATE_VOTE) = true ∧
    answers (exec (.slip 2 8 1 2 3 1) linked) linked = true ∧
    gives (exec (.slip 2 9 1 2 3 1) (linked.setFld .strokePhase .PHASE 61952001)) (fun t => t.flag .strokeStatus .LATE_VOTE) = true := by decide +kernel

/-! ### Tambour, the pool, Feed -/

/-- 64 bytes with fields (offset, size, value). -/
def desc (l : List (Nat × Nat × Nat)) : List Byte :=
  toBytes 64 (l.foldl (fun n f => n + f.2.2 % 256 ^ f.2.1 * 256 ^ f.1) 0)

def work (va : Nat) : Work :=
  { ctx := 0, desc := BitVec.ofNat 64 va, handle := 0, crec := false, knot := none, held := false, delayed := false, image := false }

/-- One output element: 32 BF16 ones, scaled by 1.0, at 0x2001000 by 32 twos at 0x2001040, into FP32 at 0x2001080 (Table 6-4). -/
def tambFields (k : Nat) : List (Nat × Nat × Nat) :=
  [(0, 4, 0x466), (4, 4, 0x3F800000), (12, 4, k), (0x10, 8, 0x2001000), (0x18, 8, 0x2001040), (0x28, 8, 0x2001080), (0x30, 4, 64), (0x34, 4, 64), (0x38, 4, 16)]

def weaver (k : Nat) : State :=
  let s := place base (cellsFrom 0x4002000 (desc (tambFields k)) ++
    cellsFrom 0x4000001000 ((List.replicate 32 [0x80, 0x3F]).flatten ++ (List.replicate 32 [0, 0x40]).flatten))
  (s.setFld (.tambArray 0 1) .STATE 0).setTamb 1 { TambArray.idle with queue := [work 0x2000] }

/-- The state once array 1 of tile 0 has taken its work. -/
def weaving (k : Nat) : State :=
  match exec (.tambourWorkStart 0 1) (weaver k) with
  | .next t => t
  | _ => weaver k

theorem witness_TambourWorks :
    (weaver 32).ctxLive 0 = true ∧ (tambDesc (desc (tambFields 32))).firstBad 0 true = none ∧ (tambDesc (desc (tambFields 33))).firstBad 0 true = some 0x0C ∧
    ((weaving 32).tambOf 1).cur.map TambCur.err = some none ∧ ((weaving 32).tambOf 1).queue = [] ∧ (weaving 32).fld (.tambArray 0 1) .STATE = 1 ∧
    ((weaving 33).tambOf 1).cur.map TambCur.err = some (some (0x10, 0xC30)) ∧
    gives (exec (.tambourWorkEnd 0 1 0) (weaving 32)) (fun t => t.wordAt 0x4000001080 4 = 0x42800000 ∧ t.fld (.tambWorkMacs 0) .COUNT = 32 ∧
      t.fld (.tambArray 0 1) .STATE = 0) = true ∧
    gives (exec (.tambourWorkEnd 0 1 7) (weaving 32)) (fun t => t.fld (.pwrwCycles 0) .CYCLES = 7) = true ∧
    gives (exec (.tambourWorkEnd 0 1 0) (weaving 33)) (fun t => t.fld (.ctxfCause 0) .CAUSE = 2 ∧ t.fld (.tambArray 0 1) .STATE = 0) = true := by decide +kernel

theorem witness_ArrayAllocationAndFailure :
    let s := weaver 32
    gives (exec (.arrayAlloc 0 2 true 15) (s.setFld (.tambArray 0 2) .STATE 0)) (fun t => t.flag (.tambArray 0 2) .OWNED ∧ t.fld (.tambArray 0 2) .CTX = 15) = true ∧
    gives (exec (.arrayAlloc 0 1 true 15) s) (fun t => !t.flag (.tambArray 0 1) .OWNED ∧ t.flag (.tambStatus 0) .ALLOC_REFUSED) = true ∧
    answers (exec (.arrayAlloc 0 1 false 0) s) s = true ∧ s.logicalArray 0 1 = some 1 ∧
    gives (exec (.arrayFailure 0 1 .operandParity []) s) (fun t => t.fld (.tambArray 0 1) .STATE = 3 ∧ t.flag (.tambStatus 0) .FAILED ∧ t.perm.defects.length = 1) = true ∧
    gives (exec (.arrayFailure 0 1 .operandParity []) (s.setTamb 1 { TambArray.idle with cur := some (.ending (work 0) 0 (tambDesc []) (0x11, 5)) })) (fun t => t.fld (.ctxfCause 0) .CAUSE = 4 ∧ t.fld (.ctxfDetail 0) .ARG = 1) = true := by decide +kernel

/-- A pool of context 0 that lends generator 31. -/
def pooled : State := (base.setFlds (.poolCtrl 0) [(.ENABLE, 1), (.LEND, 0x80000000)]).setFlds (.poolSeed 0) [(.S31, 5), (.S23, 7)]

theorem witness_RoundingPool :
    let f : PoolFields := { lend := 0x80000000, s23 := 7, s31 := 5, pos := 0xFFFFFFFFFFFFFFFF }
    let asked := { pooled with poolQ := [{ ctx := 0, user := .nib 0, count := 3, since := 0 }] }
    let asked := (asked.setReg (.poolPos 0) 0xFFFFFFFFFFFFFFFF).setCore 0 { asked.core 0 with wait := .pool }
    gives (exec (.poolEnable 15 f) base) (fun t => t.flag (.poolCtrl 15) .ENABLE ∧ t.fld (.poolPos 15) .POS = 0xFFFFFFFFFFFFFFFF) = true ∧
    gives (exec (.poolEnable 15 f) pooled) (fun t => !t.flag (.poolCtrl 15) .ENABLE ∧ t.flag .poolStatus .CFG_ERR) = true ∧
    gives (exec (.poolEnable 15 { f with lend := 0 }) base) (fun t => !t.flag (.poolCtrl 15) .ENABLE) = true ∧
    gives (exec (.poolEnable 0 { f with lend := 1 }) pooled) (fun t => t.fld (.poolCtrl 0) .LEND = 0x80000000 ∧ t.flag .poolStatus .CFG_ERR) = true ∧
    gives (exec (.poolDisable 0) pooled) (fun t => t.flag (.poolCtrl 0) .DISABLING) = true ∧
    gives (exec (.poolDisabled 0) (pooled.setFlag (.poolCtrl 0) .DISABLING true)) (fun t => !t.flag (.poolCtrl 0) .ENABLE) = true ∧
    answers (exec (.poolDisabled 0) { pooled.setFlag (.poolCtrl 0) .DISABLING true with poolQ := [{ ctx := 0, user := .nib 0, count := 3, since := 0 }] })
      { pooled.setFlag (.poolCtrl 0) .DISABLING true with poolQ := [{ ctx := 0, user := .nib 0, count := 3, since := 0 }] } = true ∧
    gives (exec .poolGrant asked) (fun t => t.poolQ = [] ∧ t.fld (.poolPos 0) .POS = 2 ∧
      (t.core 0).draws = [{ s31 := 5, s23 := 7, pos := 0xFFFFFFFFFFFFFFFF, left := 3 }] ∧ (t.core 0).wait = .none) = true := by decide +kernel

/-- Channel 3 of tile 0 with a COPY of 64 bytes from 0x2100 to 0x2200 at 0x2000; trigger and target as given (Table 9-4). -/
def feeder (trig targ len : Nat) : State :=
  let s := place (knotted base 5 0) (cellsFrom 0x4002000 (desc [(0, 4, trig * 0x4000), (4, 4, targ), (8, 4, len), (0x10, 8, 0x2100), (0x18, 8, 0x2200),
    (0x20, 4, 64), (0x24, 4, 64)]) ++ cellsFrom 0x4002100 (List.replicate 64 9))
  (s.setFlds (.feedCh 0 3) [(.OWNED, 1), (.CTX, 0)]).setFeedCh 3 { FeedCh.idle with queue := [work 0x2000] }

/-- The state once the channel has taken its work. -/
def feeding (trig targ len : Nat) : State :=
  match exec (.feedWorkStart 0 3) (feeder trig targ len) with
  | .next t => t
  | _ => feeder trig targ len

theorem witness_FeedChannelsAndTriggers :
    feedExists 32 63 = true ∧ feedExists 31 15 = true ∧ feedExists 31 16 = false ∧
    gives (exec (.feedChannelAlloc 32 63 true true 15) base) (fun t => t.flag (.feedCh 32 63) .OWNED ∧ t.fld (.feedCh 32 63) .CTX = 15) = true ∧
    gives (exec (.feedChannelAlloc 0 3 true true 15) (feeder 0 0 64)) (fun t => t.fld (.feedCh 0 3) .CTX = 0 ∧ t.flag (.feedCh 0 3) .HMODE ∧
      t.flag (.feedStatus 0) .ALLOC_REFUSED) = true ∧
    ((feeding 0 0 64).feedCh 3).cur.map FeedCur.running = some true ∧ ((feeding 1 0 64).feedCh 3).cur.map FeedCur.running = some false ∧
    ((feeding 2 5 64).feedCh 3).cur.map FeedCur.err = some none ∧ ((feeding 5 5 64).feedCh 3).cur.map FeedCur.running = some false ∧
    ((feeding 0 0 0).feedCh 3).cur.map FeedCur.err = some (some (0x10, feedDetail 0 3 3 8)) ∧
    gives (exec (.feedDoorbell 0 3 false 0) (feeding 1 0 64)) (fun t => (t.feedCh 3).cur.map FeedCur.running = some true) = true ∧
    gives (exec (.feedDoorbell 0 3 false 0) ((feeder 1 0 64).setFeedCh 3 { FeedCh.idle with doorbells := 14 })) (fun t => (t.feedCh 3).doorbells = 15) = true ∧
    gives (exec (.feedDoorbell 0 3 false 0) ((feeder 1 0 64).setFeedCh 3 { FeedCh.idle with doorbells := 15 })) (fun t => (t.feedCh 3).doorbells = 15 ∧
      t.flag (.feedwDbStat 0) .OVERFLOW) = true ∧
    gives (exec (.feedDoorbell 1 3 false 0) (feeding 1 0 64)) (fun t => t.flag (.feedwDbStat 1) .REFUSED) = true ∧
    answers (exec (.feedTimerTrigger 0 3) { feeding 2 5 64 with time := 4 }) { feeding 2 5 64 with time := 4 } = true ∧
    gives (exec (.feedTimerTrigger 0 3) { feeding 2 5 64 with time := 5 }) (fun t => (t.feedCh 3).cur.map FeedCur.running = some true) = true ∧
    answers (exec (.feedTimerTrigger 0 3) (feeding 1 0 64)) (feeding 1 0 64) = true := by decide +kernel

/-- A current descriptor with a trigger, an escalation time and flags. -/
def current (trig escT : Nat) (running seen : Bool) : State :=
  base.setFeedCh 3 { FeedCh.idle with cur := some { armedOn 0 with d := { (armedOn 0).d with trig := trig, escT := escT }, running := running, strokeAt := if seen then some 0 else none } }

theorem witness_FeedStrokeEscalationAndBuddy :
    let e : Epoch := { Epoch.none with active := true, ch := 3, total := 4, sent := 4, after := 2 }
    gives (exec (.feedStrokeTrigger 0 3) (current 4 0 false true)) (fun t => (t.feedCh 3).cur.map FeedCur.running = some true) = true ∧
    answers (exec (.feedStrokeTrigger 0 3) (current 4 0 false false)) (current 4 0 false false) = true ∧
    answers (exec (.feedEscalation 0 3) (current 0 1 true false)) (current 0 1 true false) = true ∧
    gives (exec (.feedEscalation 0 3) { current 0 1 true false with time := 1 }) (fun t => (t.feedCh 3).cur.map FeedCur.escalated = some true) = true ∧
    answers (exec (.feedEscalation 0 3) (current 0 0 true false)) (current 0 0 true false) = true ∧
    gives (exec (.buddyNoCommit 0) ((current 4 0 true true).setEpoch 0 e)) (fun t => t.fld (.feedwBuddy 0) .STATE = 8 ∧ (t.epochOf 0).active = false) = true ∧
    answers (exec (.buddyNoCommit 0) ((current 4 0 true true).setEpoch 0 { e with after := 1 })) ((current 4 0 true true).setEpoch 0 { e with after := 1 }) = true := by
  decide +kernel

/-- A COPY, a POOL_FILL to 0x2200 and a BUDDY of one region at 0x30000, each current. -/
def other (kind len : Nat) (draws : Option DrawRun) : State :=
  pooled.setFeedCh 3 { FeedCh.idle with cur := some { armedOn 0 with
    d := { (armedOn 0).d with kind := kind, trig := 4, len := len, src := 0x2100, dst := 0x2200 }, running := true, draws := draws } }

/-- A COPY of 64 bytes, the state once they are staged, and the state once they are written. -/
def copying : State := place (other 0 64 none) (cellsFrom 0x4002100 (List.replicate 64 9))

def granted (s : State) : State :=
  match exec (.feedCopy 0 .dram false) s with
  | .next t => t
  | _ => base

def staged : State := granted copying
def moved : State := granted staged

/-- The BUDDY armed on STROKE, its time come. -/
def snapping : State :=
  let s := place (other 2 1 none) (word 0x4002100 0x30000 ++ word 0x4002108 0x10000)
  s.setFeedCur 3 fun u => { u with running := false, strokeAt := some 0, d := { u.d with targ := 0 } }

/-- Two channels ready on one path: channel 5 at a higher priority. -/
def rivals (prio : Nat) : State :=
  copying.setFeedCh 5 { FeedCh.idle with cur := (copying.feedCh 3).cur.map fun u => { u with d := { u.d with prio := prio } } }

theorem witness_FeedMovesAndEnds :
    let lost := fun (s : State) (n : Nat) => (s.feedCh n).cur.map fun u => (u.lost, u.staged.length)
    arbiter [(1, 0), (4, 2), (9, 2)] (fun _ => 5) = some (9, 2) ∧ arbiter [(1, 0), (4, 2), (9, 2)] (fun _ => 10) = some (4, 2) ∧ arbiter [] (fun _ => 0) = none ∧
    copying.readyOn 0 .dram = [(3, 0)] ∧ copying.readyOn 0 .wellRead = [] ∧ answers (exec (.feedCopy 0 .wellRead false) copying) copying = true ∧
    (staged.feedCh 3).cur.map (fun u => (u.staged.length, u.rd, u.written)) = some (1, (1, 0), 0) ∧ staged.mem = copying.mem ∧
    (moved.feedCh 3).cur.map FeedCur.moved = some true ∧ (moved.feedCh 3).cur.map FeedCur.written = some 64 ∧ moved.bytesAt 0x4002200 64 = List.replicate 64 9 ∧
    moved.fld (.feedBeats 0 3) .COUNT = 1 ∧ (rivals 1).readyOn 0 .dram = [(3, 0), (5, 1)] ∧
    lost (granted (rivals 1)) 3 = some (1, 0) ∧ lost (granted (rivals 1)) 5 = some (0, 1) ∧
    lost (granted (rivals 0)) 3 = some (0, 1) ∧ lost (granted (granted (rivals 0))) 5 = some (0, 1) ∧
    gives (exec (.feedCopy 0 .dram true) staged) (fun t => t.flag (.feedStatus 0) .STAGE_UE ∧ t.mem = staged.mem ∧
      (t.feedCh 3).cur.map (fun u => u.err.map Prod.fst) = some (some 0x12)) = true ∧
    gives (exec (.feedDescriptorEnd 0 3) moved) (fun t => (t.feedCh 3).cur = none ∧ t.mem = moved.mem) = true ∧
    answers (exec (.feedDescriptorEnd 0 3) copying) copying = true ∧
    gives (exec (.feedDescriptorEnd 0 3) (base.setFeedCh 3 { FeedCh.idle with cur := some { armedOn 0 with err := some (0x10, 0) } })) (fun t => t.fld (.ctxfCause 0) .CAUSE = 2) = true ∧
    pooled.poolOpen 0 = true ∧
    gives (exec (.feedPoolFill 0 3) (other 1 2 none)) (fun t => t.poolQ = [{ ctx := 0, user := .feed 3, count := 2, since := 0 }]) = true ∧
    gives (exec (.feedPoolFill 0 3) (other 1 2 (some { s31 := 5, s23 := 7, pos := 0, left := 2 }))) (fun t =>
      (t.feedCh 3).cur.map (fun u => u.staged.map StagedBeat.data) = some [toBytes 2 (poolDraw 5 7 0) ++ toBytes 2 (poolDraw 5 7 1)] ∧
      (granted t).bytesAt 0x4002200 4 = toBytes 2 (poolDraw 5 7 0) ++ toBytes 2 (poolDraw 5 7 1)) = true ∧
    gives (exec (.feedStrokeTrigger 0 3) snapping) (fun t => (t.epochOf 0).active ∧ (t.epochOf 0).sent = 0) = true ∧
    gives (exec (.feedBuddy 0 3) snapping) (fun t => (t.epochOf 0).active ∧
      (t.epochOf 0).total = 0x10000 ∧ t.fld (.feedwBuddy 0) .STATE = 1) = true := by decide +kernel

/-! ### Filet -/

/-- Table 2 of context 0: FP32 rows of 32 bytes; row 0 at 0 in tile 0, row 1 at 0x2020000 in tile 1; one spill slot a shard. -/
def filetRows : FiletTable :=
  { installed := true, etype := 4, width := 32, rows := 2, base := 0, span := 0x2020000, spill := 1, report := 0, paused := false }

/-- Unit 0 has one work, with the descriptor given; the table is as given; row 0 is eight ones. -/
def fileter (k : FiletTable) (l : List (Nat × Nat × Nat)) : State :=
  let s := place base (word 0x40010 0x200000007 ++ cellsFrom 0x4000000 (List.replicate 8 [0, 0, 0x80, 0x3F]).flatten ++
    cellsFrom 0x4002000 (desc l) ++ word 0x200000000 5)
  (s.setTable 2 k).setFilet 0 { FiletUnit.idle with queue := [work 0x2000] }

/-- What the front runs: kind, status and RESULT. -/
def filetNow (s : State) (t : Nat) : Option (Nat × Nat × Nat) := (s.filetOf t).cur.map fun u => (u.kind, u.status, u.result)

def filetCtrl (kind more : Nat) : Nat := kind + 2 * 0x10000 + more

def gathering : List (Nat × Nat × Nat) :=
  [(0, 4, filetCtrl 0 0x410), (4, 4, 1), (8, 4, 1), (12, 4, 32), (0x10, 8, 0x3000), (0x18, 8, 0x3008), (0x28, 8, 0x3100)]

/-- A SCATTER (SET) of one index to table 2. -/
def scattering (more : Nat) : List (Nat × Nat × Nat) :=
  [(0, 4, filetCtrl 1 (0x410 + more)), (8, 4, 1), (12, 4, 32), (0x10, 8, 0x3000), (0x18, 8, 0x3100), (0x20, 8, 0x3200)]

/-- Cells after the descriptor: the index and the offsets 0 and 1 at 0x3000, a gradient row of twos at 0x3100. -/
def withIndex (s : State) (i : Nat) : State :=
  s.putCells (cellsFrom 0x4003000 (toBytes 4 i) ++ cellsFrom 0x4003008 (toBytes 4 0 ++ toBytes 4 1) ++
    cellsFrom 0x4003100 (List.replicate 8 [0, 0, 0, 0x40]).flatten)

def installing (rows : Nat) : List (Nat × Nat × Nat) := [(0, 4, filetCtrl 2 0x400), (4, 4, 32), (8, 8, rows), (0x18, 8, 0x10000)]

def migrating (tile row : Nat) : List (Nat × Nat × Nat) := [(0, 4, filetCtrl 5 0), (4, 4, tile), (8, 8, row)]

theorem filet_takes {s : State} {t kind : Nat} {w : Work} {ws : List Work} {b : List Byte} (hc : (s.filetOf t).cur = none)
    (ht : (s.filetOf t).taken = none) (hk : filetKind b = kind) (hl : s.ctxLive w.ctx = true) (hr : (s.filetOf t).released = [])
    (hw : w.held = false) (hq : (s.filetOf t).queue = w :: ws)
    (hd : (((s.setBuf (unitKey 2 t 0) HostBuf.empty).setFilet t { s.filetOf t with queue := ws }).readDesc (unitKey 2 t 0) w.ctx 2 t w.desc 64 64).2 = .bytes b) :
    FiletTakes s (((s.setBuf (unitKey 2 t 0) HostBuf.empty).setFilet t { s.filetOf t with queue := ws }).readDesc (unitKey 2 t 0) w.ctx 2 t w.desc 64 64).1
      t kind { work := w, stroke := s.count, desc := b, washeld := false } := by
  refine ⟨hc, hk, hl, { work := w, stroke := s.count, desc := [], washeld := false }, { s.filetOf t with queue := ws }, ?_, .inr ⟨rfl, rfl, ?_⟩⟩
  · simp [State.filetNext, ht, hr, hq, hw]
  · rw [if_pos (by rw [ht]; rfl)]; exact Prod.ext rfl hd

/-- The work of `fileter` is taken. -/
theorem witness_FiletTakes :
    ∃ s1, FiletTakes (fileter filetRows gathering) s1 0 0 { work := work 0x2000, stroke := 0, desc := desc gathering, washeld := false } :=
  ⟨_, filet_takes (ws := []) (by decide +kernel) (by decide +kernel) (by decide +kernel) (by decide +kernel) (by decide +kernel) rfl
    (by decide +kernel) (by decide +kernel)⟩

theorem witness_FiletTables :
    let paused := { filetRows with paused := true }
    let only := fun (k : Nat) => [(0, 4, filetCtrl k 0)]
    let hold : HeldWork := { work := work 0x2000, key := 2, desc := desc gathering }
    installBad (desc (installing 1)) = false ∧ installBad (desc (installing 0)) = true ∧ installBad (desc (installing (2 ^ 36 + 1))) = true ∧
    gives (exec (.filetInstall 0) (fileter FiletTable.none (installing 1))) (fun t => filetNow t 0 = some (2, 0, 0) ∧ (t.tableOf 2).installed ∧
      (t.tableOf 2).rows = 1 ∧ (t.filetOf 0).queue = []) = true ∧
    gives (exec (.filetInstall 0) (fileter FiletTable.none (installing 0))) (fun t => filetNow t 0 = some (2, 0x10, 0) ∧ t.tables = []) = true ∧
    gives (exec (.filetInstall 0) (fileter filetRows (installing 1))) (fun t => filetNow t 0 = some (2, 0x10, 0) ∧ t.tableOf 2 = filetRows) = true ∧
    gives (exec (.filetInstall 0) (fileter paused (installing 1))) (fun t => filetNow t 0 = some (2, 0, 0) ∧ (t.tableOf 2).rows = 1 ∧ (t.tableOf 2).paused) = true ∧
    gives (exec (.filetPause 0) (fileter filetRows (only 3))) (fun t => filetNow t 0 = some (3, 0, 0) ∧ t.tableOf 2 = paused) = true ∧
    gives (exec (.filetPause 0) (fileter paused (only 3))) (fun t => filetNow t 0 = some (3, 0x10, 0)) = true ∧
    gives (exec (.filetResume 0) ((fileter paused (only 4)).setFilet 31 { FiletUnit.idle with held := [hold, { hold with key := 3 }] })) (fun t =>
      filetNow t 0 = some (4, 0, 0) ∧ t.tableOf 2 = filetRows ∧ (t.filetOf 31).released = [hold] ∧ (t.filetOf 31).held = [{ hold with key := 3 }]) = true ∧
    gives (exec (.filetResume 0) (fileter filetRows (only 4))) (fun t => filetNow t 0 = some (4, 0x10, 0)) = true ∧
    gives (exec (.filetUninstall 0) (fileter paused (only 6))) (fun t => filetNow t 0 = some (6, 0, 0) ∧ t.tableOf 2 = FiletTable.none) = true ∧
    gives (exec (.filetUninstall 0) (fileter FiletTable.none (only 6))) (fun t => filetNow t 0 = some (6, 0x10, 0)) = true := by decide +kernel

theorem witness_FiletRows :
    let paused := { filetRows with paused := true }
    let hold : HeldWork := { work := work 0x2000, key := 2, desc := desc gathering }
    let g := withIndex (fileter filetRows gathering) 0
    let full := fun (n : Nat) => (fileter paused gathering).setFilet 0 { FiletUnit.idle with queue := [work 0x2000], held := List.replicate n hold }
    gatherBad filetRows (desc gathering) = false ∧ scatterBad (desc (scattering 0)) = false ∧ scatterBad (desc (scattering 8)) = true ∧
    gives (exec (.filetGather 0 []) g) (fun t => filetNow t 0 = some (0, 0, 1) ∧ t.bytesAt 0x4003100 4 = [0, 0, 0x80, 0x3F]) = true ∧
    gives (exec (.filetGather 0 []) (withIndex (fileter filetRows gathering) 2)) (fun t => filetNow t 0 = some (0, 0, 1 + 2 ^ 32)) = true ∧
    gives (exec (.filetGather 0 []) (withIndex (fileter filetRows gathering) 0xFFFFFFFF)) (fun t => filetNow t 0 = some (0, 0, 0) ∧
      t.bytesAt 0x4003100 4 = [0, 0, 0, 0]) = true ∧
    gives (exec (.filetGather 0 []) (withIndex (fileter FiletTable.none gathering) 0)) (fun t => filetNow t 0 = some (0, 0x10, 0)) = true ∧
    gives (exec (.filetGather 0 []) (full 15)) (fun t => (t.filetOf 0).held.length = 16 ∧ (t.filetOf 0).cur = none) = true ∧
    gives (exec (.filetGather 0 []) (full 16)) (fun t => filetNow t 0 = some (0, 0x14, 0)) = true ∧
    (let r := g.engineList (unitKey 2 0 0) 0 2 0 0x3000 1 4; r.2.toOption = some [0] ∧ r.1.moving 2 0 = false ∧ (((r.1.freeBytes 16).2.engineOut 0 2 0 0x3200 (r.1.freeBytes 16).1).2 = 0)) ∧
    (let r := g.rowApply 0 2 0 (rowUpdate 1 0 4 [List.replicate 8 (.fin false 1 1)]); r.2 = 0 ∧ r.1.bytesAt 0x400001C 4 = [0, 0, 0, 0x40]) ∧
    rowUpdate 1 0 4 [[.fin false 1 1]] [.fin false 1 0] = [0, 0, 0, 0x40] ∧
    gives (exec (.filetScatter 0 []) (withIndex (fileter filetRows (scattering 0)) 2)) (fun t => filetNow t 0 = some (1, 0, 2 ^ 32)) = true ∧
    gives (exec (.filetScatter 0 []) (withIndex (fileter filetRows (scattering 8)) 0)) (fun t => filetNow t 0 = some (1, 0x10, 0)) = true ∧
    gives (exec (.filetScatter 0 []) (withIndex (fileter paused (scattering 0)) 0)) (fun t => (t.filetOf 0).held.length = 1) = true := by decide +kernel

/-- A unit whose front runs a migration of row 1 to a place, or another work. -/
def fronted (s : State) (kind status : Nat) (wh : Bool) (m : Option FiletMove) : State :=
  s.setFilet 0 { FiletUnit.idle with cur := some { work := { (work 0) with crec := wh }, stroke := 0, kind := kind, key := 2, washeld := wh, status := status, result := 0, detail := 0, move := m } }

theorem witness_FiletMoves :
    let e : Redirect := { key := 2, row := 1, tile := 0, slot := 0, bad := false }
    let m : FiletMove := { key := 2, row := 1, tile := 0, slot := some 0 }
    let f := fun (t r : Nat) => fileter filetRows (migrating t r)
    let away := { f 1 1 with redirects := [e] }
    let none' := fileter { filetRows with spill := 0 } (migrating 0 1)
    let answered := exec (.filetWorkEnd 0) (freeRing (ringed (fronted base 1 0 true none)))
    gives (exec (.filetMigrate 0 []) (f 0 0)) (fun t => filetNow t 0 = some (5, 0, 0xFFFF * 2 ^ 32)) = true ∧
    gives (exec (.filetMigrate 0 []) (f 0 1)) (fun t => (t.filetOf 0).cur.map FiletCur.status = some 0 ∧ (t.filetOf 0).cur.bind FiletCur.move ≠ none) = true ∧
    gives (exec (.filetMigrate 0 []) none') (fun t => filetNow t 0 = some (5, 0x14, 0)) = true ∧
    gives (exec (.filetMigrate 0 []) (f 32 1)) (fun t => filetNow t 0 = some (5, 0x10, 0)) = true ∧
    gives (exec (.filetMigrate 0 []) (f 0 2)) (fun t => filetNow t 0 = some (5, 0x10, 0)) = true ∧
    gives (exec (.filetMigrate 0 []) ((f 0 1).setFilet 5 ((fronted base 5 0 false (some m)).filetOf 0))) (fun t => filetNow t 0 = some (5, 0x14, 0)) = true ∧
    gives (exec (.filetMigrate 0 []) away) (fun t => filetNow t 0 = some (5, 0, 1 + 0xFFFF * 2 ^ 32) ∧
      (t.filetOf 0).cur.bind FiletCur.move = some { m with tile := 1, slot := none }) = true ∧
    gives (exec (.filetWorkEnd 0) (fronted (f 0 1) 5 0 false (some m))) (fun t => t.redirects = [e] ∧ t.bytesAt 0x4000020 1 = [5] ∧ (t.filetOf 0).cur = none) = true ∧
    gives (exec (.filetWorkEnd 0) (fronted away 5 0 false (some { m with tile := 1, slot := none }))) (fun t => t.redirects = []) = true ∧
    answers (exec (.filetWorkEnd 0) base) base = true ∧
    gives (exec (.filetWorkEnd 0) (fronted base 3 0 false none)) (fun t => (t.filetOf 0).cur = none) = true ∧
    gives (exec (.filetWorkEnd 0) ((fronted base 3 0 false none).setFilet 5 ((fronted base 5 0 false (some m)).filetOf 0)))
      (fun t => (t.filetOf 0).cur ≠ none) = true ∧
    gives (exec (.filetWorkEnd 0) (fronted base 1 0x10 false none)) (fun t => t.fld (.ctxfCause 0) .CAUSE = 2) = true ∧
    gives answered (fun t => t.wordAt 0x4000000008 1 = 0x19) = true ∧
    gives (exec (.filetAllocWrite 0 0x8001) base) (fun t => t.fld (.filetAlloc 0) .CTXMASK = 0x8001 ∧ !t.flag (.filetStatus 0) .ALLOC_REFUSED) = true ∧
    gives (exec (.filetAllocWrite 0 0) ((f 0 1).setFld (.filetAlloc 0) .CTXMASK 3)) (fun t => t.fld (.filetAlloc 0) .CTXMASK = 1 ∧
      t.flag (.filetStatus 0) .ALLOC_REFUSED) = true := by decide +kernel

/-! ### Folio -/

/-- SID 1 of context 0 at home 0: 32 FP32 elements a row, 256 tokens a folio. -/
def tokens (len res lockid : Nat) (chain : List Nat) : FolioSeq :=
  { opened := true, home := 0, dim := 32, sfmt := 4, len := len, res := res, lockid := lockid, torn := false, chain := chain, bad := false, quant := false }

/-- Pool 0 enabled at 0x5000000 with folios 2 and 3 free; a quota of 8; SID 1 as given; one work with a descriptor. -/
def folioed (q : FolioSeq) (l : List (Nat × Nat × Nat)) (more : List Host.Cell) : State :=
  let s := place base (cellsFrom 0x4002000 (desc l) ++ more)
  let s := (s.setFlds (.folioPool 0) [(.BASE_F, 0x500), (.COUNT, 4), (.ENABLE, 1)]).setFld (.folioQuota 0) .LIMIT 8
  (s.setSeq 1 q).setFolio 0 { FolioUnit.idle with queue := [work 0x2000], free := [2, 3] }

/-- What the front runs: status and RESULT. -/
def folioNow (s : State) : Option (Nat × Nat) := (s.folioOf 0).cur.map fun u => (u.status, u.result)

/-- The front of unit 0 reads SID 1 for a FETCH. -/
def reading (s : State) : State :=
  s.setFolio 5 { FolioUnit.idle with cur := some { work := work 0, stroke := 0, kind := 4, status := 0, result := 0, detail := 0, reads := some 1, outs := [], append := none } }

theorem folio_takes {s : State} {t : Nat} {w : Work} {ws : List Work} {b : List Byte} (hc : (s.folioOf t).cur = none)
    (ht : (s.folioOf t).taken = none) (hw : w.held = false) (hl : s.ctxLive w.ctx = true) (hq : (s.folioOf t).queue = w :: ws)
    (hd : (((s.setBuf (unitKey 3 t 0) HostBuf.empty).setFolio t { s.folioOf t with queue := ws }).readDesc (unitKey 3 t 0) w.ctx 3 t w.desc 64 64).2 = .bytes b) :
    FolioTakes s (((s.setBuf (unitKey 3 t 0) HostBuf.empty).setFolio t { s.folioOf t with queue := ws }).readDesc (unitKey 3 t 0) w.ctx 3 t w.desc 64 64).1
      t { work := w, stroke := s.count, desc := b, washeld := false } :=
  ⟨hc, hl, .inr ⟨{ work := w, stroke := s.count, desc := [], washeld := false }, _, rfl, rfl, .inr ⟨ht, ws, hq, hw, rfl, rfl, rfl⟩, Prod.ext rfl hd⟩⟩

/-- The work of `folioed` is taken. -/
theorem witness_FolioTakes : ∃ s1, FolioTakes (folioed FolioSeq.none [(0, 4, 0x400)] []) s1 0
    { work := work 0x2000, stroke := 0, desc := desc [(0, 4, 0x400)], washeld := false } :=
  ⟨_, folio_takes (ws := []) (by decide +kernel) (by decide +kernel) rfl (by decide +kernel) (by decide +kernel) (by decide +kernel)⟩

theorem witness_FolioPools :
    let s := base
    let on := folioed FolioSeq.none [] []
    let held := folioed (tokens 1 0 0 [1]) [] []
    let zero := (place on (word 0x5000000 1 ++ word 0x5020000 1)).setFolio 0 { FolioUnit.idle with zeroing := [2] }
    gives (exec (.folioPoolEnable 0 0x18000 32768) s) (fun t => t.flag (.folioPool 0) .ENABLE ∧ t.flag (.folioPool 0) .INIT ∧
      t.fld (.folioPool 0) .COUNT = 32768 ∧ t.fld (.folioPool 0) .BASE_F = 0x18000) = true ∧
    gives (exec (.folioPoolEnable 0 0x18001 32768) s) (fun t => !t.flag (.folioPool 0) .ENABLE ∧ t.flag (.folioStatus 0) .CFG_ERR ∧ t.fld (.folioPool 0) .COUNT = 32768) = true ∧
    gives (exec (.folioPoolEnable 0 0 0) s) (fun t => !t.flag (.folioPool 0) .ENABLE) = true ∧
    gives (exec (.folioPoolEnable 0 0x500 5) on) (fun t => t.fld (.folioPool 0) .COUNT = 4 ∧ t.flag (.folioStatus 0) .CFG_ERR) = true ∧
    answers (exec (.folioPoolEnable 0 0x500 4) on) on = true ∧
    gives (exec (.folioPoolInitDone 0) (zero.setFlag (.folioPool 0) .INIT true)) (fun t => !t.flag (.folioPool 0) .INIT ∧ (t.folioOf 0).free = [2] ∧
      t.wordAt 0x5020000 8 = 0 ∧ t.wordAt 0x5000000 8 = 1) = true ∧
    gives (exec (.folioZeroed 0 2) zero) (fun t => (t.folioOf 0).free = [2] ∧ (t.folioOf 0).zeroing = [] ∧ t.wordAt 0x5020000 8 = 0 ∧ t.wordAt 0x5000000 8 = 1) = true ∧
    answers (exec (.folioZeroed 0 0) zero) zero = true ∧
    gives (exec (.folioPoolDisable 0 0 0) on) (fun t => !t.flag (.folioPool 0) .ENABLE ∧ (t.folioOf 0).free = []) = true ∧
    gives (exec (.folioPoolDisable 0 0 0) held) (fun t => t.flag (.folioPool 0) .ENABLE ∧ t.flag (.folioStatus 0) .CFG_ERR) = true ∧
    gives (exec (.folioQuotaWrite 15 0x1FFFFF) s) (fun t => t.fld (.folioQuota 15) .LIMIT = 0x1FFFFF) = true ∧
    gives (exec (.folioAllocWrite 0 0x8001) s) (fun t => t.fld (.folioAlloc 0) .CTXMASK = 0x8001) = true ∧
    gives (exec (.folioAllocWrite 0 0) (on.setFld (.folioAlloc 0) .CTXMASK 3)) (fun t => t.fld (.folioAlloc 0) .CTXMASK = 1 ∧ t.flag (.folioStatus 0) .ALLOC_REFUSED) = true := by
  decide +kernel

theorem witness_FolioSequences :
    let opens := fun (q : FolioSeq) (sid dim home : Nat) => exec (.folioOpen 0) (folioed q [(0, 4, 0x400), (4, 4, sid), (8, 4, dim), (12, 4, home)] [])
    let cut := fun (q : FolioSeq) (n : Nat) => folioed q [(0, 4, 5), (4, 4, 1), (8, 4, n)] []
    let close := fun (q : FolioSeq) => folioed q [(0, 4, 6), (4, 4, 1)] []
    let q := tokens 300 0 0 [0, 1]
    gives (opens FolioSeq.none 1 32 0) (fun t => folioNow t = some (0, 256) ∧ t.seqOf 1 = tokens 0 0 0 []) = true ∧
    gives (opens FolioSeq.none 4095 2048 0) (fun t => folioNow t = some (0, 4) ∧ (t.seqOf 4095).opened) = true ∧
    gives (opens q 1 32 0) (fun t => folioNow t = some (0x10, 0) ∧ t.seqOf 1 = q) = true ∧
    gives (opens FolioSeq.none 1 32 31) (fun t => folioNow t = some (0x10, 0)) = true ∧
    gives (exec (.folioTruncate 0 false) (cut q 256)) (fun t => folioNow t = some (0, 1) ∧ t.seqOf 1 = tokens 256 0 0 [0] ∧ (t.folioOf 0).zeroing = [1]) = true ∧
    gives (exec (.folioTruncate 0 false) (cut q 300)) (fun t => folioNow t = some (0, 0) ∧ t.seqOf 1 = q) = true ∧
    gives (exec (.folioTruncate 0 false) (cut q 301)) (fun t => folioNow t = some (0x10, 0)) = true ∧
    gives (exec (.folioTruncate 0 false) (cut { q with lockid := 7 } 300)) (fun t => folioNow t = some (0x14, 0)) = true ∧
    gives (exec (.folioTruncate 0 false) (cut FolioSeq.none 0)) (fun t => folioNow t = some (0x10, 0)) = true ∧
    gives (exec (.folioTruncate 0 false) (reading (cut q 256))) (fun t => t.seqOf 1 = q ∧ (t.folioOf 0).cur = none ∧ (t.folioOf 0).taken.isSome) = true ∧
    gives (exec (.folioClose 0 false) (close q)) (fun t => folioNow t = some (0, 2) ∧ t.seqOf 1 = FolioSeq.none ∧ (t.folioOf 0).zeroing = [0, 1]) = true ∧
    gives (exec (.folioClose 0 false) (close { q with lockid := 7 })) (fun t => folioNow t = some (0x14, 0)) = true ∧
    gives (exec (.folioClose 0 false) (close FolioSeq.none)) (fun t => folioNow t = some (0x10, 0)) = true ∧
    gives (exec (.folioClose 0 false) (reading (close q))) (fun t => t.seqOf 1 = q ∧ (t.folioOf 0).cur = none ∧ (t.folioOf 0).taken.isSome) = true ∧
    gives (exec (.folioClose 0 true) (close (tokens 0 0 0 []))) (fun t => folioNow t = some (0x12, 0) ∧ t.seqOf 1 = FolioSeq.none ∧ t.flag (.folioStatus 0) .TABLE_UE) = true := by
  decide +kernel

/-- A list entry: SID 1 and a token count or position. -/
def entryAt (pa n : Nat) : List Host.Cell := cellsFrom pa (toBytes 8 (1 + n * 2 ^ 32))

theorem witness_FolioAppends :
    let quant := fun (q : FolioSeq) (n : Nat) => folioed { q with sfmt := 7 } [(0, 4, 0x501), (4, 4, 1), (8, 8, 0x3000), (0x10, 8, 0x3100), (0x18, 8, 0x3200), (0x20, 4, 64),
      (0x24, 4, 64), (0x28, 8, 0x3300)] (entryAt 0x4003000 n ++ cellsFrom 0x4003100 [0, 0x3C])
    let reserve := fun (q : FolioSeq) (n : Nat) => folioed q [(0, 4, 9), (4, 4, 1), (8, 8, 0x3000), (0x28, 8, 0x3300), (0x30, 4, 7)] (entryAt 0x4003000 n)
    gives (exec (.appendQuant 0 []) (quant (tokens 1 0 0 [0]) 1)) (fun t => folioNow t = some (0, 0) ∧ (t.seqOf 1).len = 1 ∧ (t.seqOf 1).quant ∧
      t.bytesAt 0x5000040 2 = [0x38, 0] ∧ gives (exec (.appendQuant 0 []) t) (fun t => folioNow t = some (0, 1) ∧ (t.seqOf 1).len = 2 ∧ !(t.seqOf 1).quant ∧
        t.wordAt 0x4003300 8 = 1 * 2 ^ 32) ∧ gives (exec (.folioWorkEnd 0) t) (fun t => (t.seqOf 1).len = 2 ∧ (t.folioOf 0).cur = none)) = true ∧
    gives (exec (.appendReserve 0 []) (reserve (tokens 1 0 0 [0]) 255)) (fun t => folioNow t = some (0, 255) ∧ (t.seqOf 1).res = 255 ∧ (t.seqOf 1).lockid = 7 ∧
      (t.seqOf 1).len = 1) = true ∧
    gives (exec (.appendReserve 0 []) (reserve (tokens 1 0 8 [0]) 1)) (fun t => (t.folioOf 0).cur.map FolioCur.status = some 0x14 ∧
      (t.folioOf 0).cur.map FolioCur.result = some (2 ^ 32) ∧ (t.seqOf 1).res = 0) = true ∧
    gives (exec (.appendReserve 0 []) (reserve (tokens 1 0 0 [0]) 65536)) (fun t => (t.folioOf 0).cur.map FolioCur.status = some 0x15) = true ∧
    (reserve (tokens 1 0 0 [0]) 65537).appendTest 0 1 65537 7 = some (0x10, 3) ∧ (reserve FolioSeq.none 1).appendTest 0 1 1 7 = some (0x10, 4) ∧
    (reserve (tokens 256 0 0 [0]) 1).appendTest 0 1 256 7 = none ∧ (reserve { tokens 1 0 0 [0] with torn := true } 1).appendTest 0 1 1 7 = some (0x16, 0) := by
  decide +kernel

theorem witness_FolioMoves :
    let write := fun (q : FolioSeq) (pos : Nat) => folioed { q with sfmt := 7 } [(0, 4, 2), (4, 4, 1), (8, 8, 0x3000), (0x10, 8, 0x3100), (0x18, 8, 0x3200), (0x20, 4, 32),
      (0x24, 4, 32), (0x30, 4, 7)] (entryAt 0x4003000 pos ++ word 0x4003100 9)
    let commit := fun (d : Nat) => folioed (tokens 1 255 7 [0, 1]) [(0, 4, 3 + 8 * d), (0x30, 4, 7)] []
    let fetch := fun (first n ctrl : Nat) => folioed { tokens 2 0 0 [0] with torn := true, sfmt := 7 } [(0, 4, 4 + ctrl), (4, 4, 1), (8, 4, first), (12, 4, n), (0x10, 8, 0x3100), (0x18, 8, 0x3200), (0x20, 4, 32),
      (0x24, 4, 32)] (word 0x5000040 9)
    let bucket := fun (b0 b1 : Nat) => folioed (tokens 5 0 0 [0]) [(0, 4, 0x1007), (4, 4, 1), (8, 8, 0x3000), (0x10, 8, 0x3100), (0x18, 8, 0x3200), (0x20, 8, 0x3300)]
      (cellsFrom 0x4003000 (toBytes 4 1) ++ cellsFrom 0x4003300 (toBytes 4 b0 ++ toBytes 4 b1))
    gives (exec (.folioWrite 0 []) (write (tokens 1 2 7 [0]) 2)) (fun t => folioNow t = some (0, 1) ∧ t.bytesAt 0x5000080 2 = [9, 0]) = true ∧
    gives (exec (.folioWrite 0 []) (write (tokens 1 2 7 [0]) 3)) (fun t => folioNow t = some (0x10, 0)) = true ∧
    gives (exec (.folioWrite 0 []) (write (tokens 1 2 8 [0]) 2)) (fun t => folioNow t = some (0x10, 0)) = true ∧
    gives (exec (.folioCommit 0 []) (commit 0)) (fun t => folioNow t = some (0, 1) ∧ t.seqOf 1 = tokens 256 0 0 [0, 1]) = true ∧
    gives (exec (.folioCommitDiscard 0 []) (commit 1)) (fun t => folioNow t = some (0, 1) ∧ t.seqOf 1 = tokens 1 0 0 [0]) = true ∧
    gives (exec (.folioFetch 0 false) (fetch 1 1 0)) (fun t => folioNow t = some (0, 1 + 2 ^ 63) ∧ t.bytesAt 0x4003100 2 = [9, 0]) = true ∧
    gives (exec (.folioFetch 0 false) (fetch 1 2 0)) (fun t => folioNow t = some (0x10, 0)) = true ∧
    gives (exec (.folioFetch 0 true) (fetch 1 1 0)) (fun t => folioNow t = some (0x12, 0)) = true ∧
    gives (exec (.folioBucket 0 []) (bucket 5 6)) (fun t => folioNow t = some (0, 0) ∧ t.wordAt 0x4003100 8 = 5 * 2 ^ 32 ∧ t.wordAt 0x4003200 8 = 2 ^ 32) = true ∧
    gives (exec (.folioBucket 0 []) (bucket 4 5)) (fun t => t.wordAt 0x4003200 8 = 0 ∧ t.wordAt 0x4003208 4 = 1) = true ∧
    gives (exec (.folioBucket 0 []) (bucket 5 5)) (fun t => folioNow t = some (0x10, 0)) = true := by decide +kernel

theorem witness_FolioEnds :
    let u : FolioCur := { work := work 0, stroke := 0, kind := 6, status := 0, result := 0, detail := 0, reads := none, outs := [], append := none }
    answers (exec (.folioWorkEnd 0) base) base = true ∧
    gives (exec (.folioWorkEnd 0) (base.setFolio 0 { FolioUnit.idle with cur := some u })) (fun t => (t.folioOf 0).cur = none ∧ t.fld (.folioDone 0) .COUNT = 1) = true ∧
    gives (exec (.folioWorkEnd 0) (base.setFolio 0 { FolioUnit.idle with cur := some { u with status := 0x14 } })) (fun t => t.fld (.ctxfCause 0) .CAUSE = 2) = true := by
  decide +kernel

/-! ### Ports, links, slots and frames -/

/-- The package in tray 2, slot 1: none of its links lies on a face of the rack. -/
def inner (s : State) : State := { s with rack := { s.rack with place := (2, 1) } }

/-- Port 2, links 8 and 9, in a state of Table 12-5. -/
def portIn (st : Nat) : State := linked.setFld (.portState 2) .STATE st

/-- Port 2 in training at a step, after a number of attempts. -/
def training (step attempts : Nat) : State := ((portIn 2).setFld (.portState 2) .STEP step).setPort 2 { PortSt.idle with attempts := attempts, record := 5 }

theorem witness_PortsForm :
    (linked.portLinks 2 = [8, 9]) ∧ (∀ l ∈ linked.portLinks 2, l < 32) ∧
    gives (exec (.portEnable 15 3 3 0 true) base) (fun t => t.portIs 15 = 1 ∧ t.flag (.portCfg 15) .ENABLE) = true ∧
    gives (exec (.portEnable 15 3 3 0 true) (base.setTray 2 { SwitchTray.fresh with path := .loop })) (fun t => t.portIs 15 = 2) = true ∧
    gives (exec (.portEnable 15 3 3 0 true) (inner base)) (fun t => t.portIs 15 = 2 ∧ t.flag (.portCfg 15) .ENABLE ∧ (t.port 15).attempts = 1 ∧
      t.fld (linkStateReg 31) .STATE = 2 ∧ t.portGeom 15 = (3, 3, 0)) = true ∧
    gives (exec (.portEnable 15 3 0 7 false) base) (fun t => t.portIs 15 = 1 ∧ t.fld (linkStateReg 31) .STATE = 1) = true ∧
    gives (exec (.portEnable 0 0 1 1 true) base) (fun t => t.portIs 0 = 0 ∧ t.flag (.linkdStatus 0) .CFG_ERR) = true ∧
    gives (exec (.portEnable 0 1 0 1 true) linked) (fun t => t.portIs 0 = 0 ∧ t.flag (.linkdStatus 0) .CFG_ERR) = true ∧
    answers (exec (.portEnable 2 1 1 0 true) linked) linked = true ∧
    gives (exec (.portEnable 2 1 0 0 true) linked) (fun t => t.portGeom 2 = (1, 1, 0) ∧ t.flag (.linkdStatus 0) .CFG_ERR) = true ∧
    gives (exec (.portDisable 2 1 1 0) linked) (fun t => t.portIs 2 = 0 ∧ !t.flag (.portCfg 2) .ENABLE) = true ∧
    gives (exec (.portDisable 2 1 0 0) (portIn 6)) (fun t => t.portIs 2 = 0 ∧ t.flag (.linkdStatus 0) .CFG_ERR ∧ t.portGeom 2 = (1, 1, 0)) = true ∧
    gives (exec (.portDisable 3 1 2 4) linked) (fun t => t.portGeom 3 = (1, 2, 4)) = true := by decide +kernel

theorem witness_PortsMove :
    gives (exec (.portCtrlRetrain 2) linked) (fun t => t.portIs 2 = 2) = true ∧ answers (exec (.portCtrlRetrain 2) (portIn 7)) (portIn 7) = true ∧
    gives (exec (.retrain 2) (portIn 6)) (fun t => t.portIs 2 = 2) = true ∧ answers (exec (.retrain 2) (portIn 2)) (portIn 2) = true ∧
    gives (exec (.portCtrlDown 2) linked) (fun t => t.portIs 2 = 6 ∧ t.fld (.portState 2) .CAUSE = 14 ∧ .symbol 2 8 14 ∈ t.outbox) = true ∧
    gives (exec (.portCtrlDown 2) (portIn 1)) (fun t => t.portIs 2 = 6 ∧ .symbol 2 8 14 ∉ t.outbox) = true ∧
    answers (exec (.portCtrlDown 2) (portIn 0)) (portIn 0) = true ∧
    gives (exec (.portCtrlTest 2) (portIn 3)) (fun t => t.portIs 2 = 7) = true ∧ answers (exec (.portCtrlTest 2) linked) linked = true ∧
    answers (exec (.absentSample 2 true) (portIn 1)) (portIn 1) = true ∧
    gives (exec (.absentSample 2 true) (inner (portIn 1))) (fun t => t.portIs 2 = 2) = true ∧ answers (exec (.absentSample 2 false) (portIn 1)) (portIn 1) = true ∧
    gives (exec (.down 2 9) linked) (fun t => t.portIs 2 = 6 ∧ t.fld (.portState 2) .CAUSE = 13) = true ∧ answers (exec (.down 2 9) (portIn 6)) (portIn 6) = true ∧
    gives (exec (.lossOfSignal 2 3) linked) (fun t => t.portIs 2 = 1) = true ∧
    gives (exec (.lossOfSignal 2 1) linked) (fun t => t.portIs 2 = 6 ∧ t.fld (.portState 2) .CAUSE = 10) = true ∧
    answers (exec (.lossOfSignal 2 4) linked) linked = true ∧
    gives (exec (.fenceSymbol 2 1) linked) (fun t => t.portIs 2 = 5 ∧ t.fld (.portState 2) .CAUSE = 1) = true ∧
    gives (exec (.fenceSymbol 2 5) linked) (fun t => t.portIs 2 = 5 ∧ t.fld (.portState 2) .CAUSE = 5) = true ∧
    gives (exec (.fenceSymbol 2 7) (portIn 2)) (fun t => t.portIs 2 = 3 ∧ t.fld (.portState 2) .CAUSE = 7) = true ∧
    gives (exec (.test 2 true 5 2) (portIn 6)) (fun t => t.portIs 2 = 7 ∧ t.flag (.linkPg 1 1 0) .ENABLE ∧ t.fld (.linkPg 1 0 0) .MODE = 5) = true ∧
    gives (exec (.test 2 false 5 2) (portIn 7)) (fun t => t.portIs 2 = 7 ∧ !t.flag (.linkPg 1 1 0) .ENABLE) = true ∧
    answers (exec (.test 2 true 5 2) linked) linked = true := by decide +kernel

/-- The handshake frame of link l that agrees with port 2 in training. -/
def handshake (count : W64) (l : Nat) : FrameFields :=
  let n := linked.neighbour 1
  { frame with record := 5, count := count, x := BitVec.ofNat 8 n.1, y := BitVec.ofNat 8 n.2, dir := 0, link := BitVec.ofNat 8 l }

/-- The training of port 2 in HANDSHAKE with link 8 agreed, and the stroke stopped or running. -/
def shaking (stopped : Bool) : State :=
  let s := (training 4 1).setPort 2 { (training 4 1).port 2 with agreed := [8] }
  if stopped then s.setFld .strokeStatus .STATE 0 else s

theorem witness_PortTraining :
    gives (exec (.trainingStepTimeout 2) (training 3 2)) (fun t => t.portIs 2 = 2 ∧ t.fld (.portState 2) .STEP = 1 ∧ (t.port 2).attempts = 3) = true ∧
    gives (exec (.trainingStepTimeout 2) (training 3 3)) (fun t => t.portIs 2 = 6 ∧ t.fld (.portState 2) .CAUSE = 9) = true ∧
    answers (exec (.trainingStepTimeout 2) linked) linked = true ∧
    gives (exec (.trainingStepDone 2 []) (training 2 1)) (fun t => t.fld (.portState 2) .STEP = 3) = true ∧
    gives (exec (.trainingStepDone 2 [{ laneMap := 0x1B, invert := 5, precode := 3, asym := 2, delay := 256 }]) (training 3 1)) (fun t => t.fld (.portState 2) .STEP = 4 ∧
      t.fld (linkStateReg 8) .LANEMAP = 0x1B ∧ (t.link 8).delay = 256 ∧ t.outbox.length = 2) = true ∧
    answers (exec (.trainingStepDone 2 []) (training 4 1)) (training 4 1) = true := by decide +kernel

/-- The hypotheses about a handshake frame, for every value of the field that stays free: FAR_PORT. -/
theorem witness_HandshakeFrame :
    (∀ stopped, (shaking stopped).portOfLink 9 = some 2 ∧ (shaking stopped).portIs 2 = 2 ∧ (shaking stopped).fld (.portState 2) .STEP = 4 ∧
      ((shaking stopped).port 2).passed = false ∧ (shaking true).strokeState = 0) ∧
    ∀ (farPort : Fin 16) (stopped : Bool), let s0 := ((shaking stopped).freeNat 4).2.setFlds (.portState 2) [(.FAR_X, 0), (.FAR_Y, 0), (.FAR_PORT, farPort)]
      s0.handshakeCause 2 9 0 (handshake (BitVec.allOnes 64) 1) = none ∧ s0.handshakeCause 2 9 2 (handshake 9 1) = none ∧
      s0.handshakeCause 2 9 2 (handshake 9 0) = some 8 ∧ s0.handshakeCause 2 9 2 { handshake 9 1 with record := 4 } = some 1 := by decide +kernel

theorem witness_LinksRelockAndTest :
    let going := linked.setLink 9 { LinkSt.idle with relock := some 0 }
    let late := { going with time := 7000000 }
    let s := linked
    let f : PgFields := { g := 1, enable := true, mode := 7, inv := false, path := 0, lanes := 8 }
    let on := (portIn 7).setFlds (.linkPg 1 1 1) [(.ENABLE, 1), (.LANES, 8)]
    let lent := (pooled.setFld (.poolCtrl 0) .LEND 0x80000000)
    wiredLink 8 = 0 ∧ wiredLink 23 = 31 ∧
    gives (exec (.relock 1) s) (fun t => (t.link 9).farRelock ∧ !(t.link 1).farRelock) = true ∧
    gives (exec (.relocked 1) (s.setLink 9 { LinkSt.idle with farRelock := true })) (fun t => !(t.link 9).farRelock) = true ∧
    gives (exec (.relockStart 9 300) s) (fun t => (t.link 9).relock = some s.time ∧ t.fld (linkStateReg 9) .STATE = 4 ∧ t.fld (linkRelockReg 9) .COUNT = 1 ∧
      .symbol 2 2 (9 + 300 * 256) ∈ t.outbox) = true ∧
    answers (exec (.relockStart 9 300) going) going = true ∧ answers (exec (.relockStart 0 300) s) s = true ∧
    gives (exec (.lockReturn 9) late) (fun t => (t.link 9).relock = none ∧ t.fld (linkRelockReg 9) .LAST_US = 0xFFFF ∧ t.fld (linkStateReg 9) .STATE = 3 ∧
      .symbol 2 3 9 ∈ t.outbox) = true ∧
    answers (exec (.relockTimeout 9) { going with time := 24999 }) { going with time := 24999 } = true ∧
    gives (exec (.relockTimeout 9) { going with time := 25000 }) (fun t => t.portIs 2 = 6 ∧ t.fld (.portState 2) .CAUSE = 11) = true ∧
    answers (exec (.lockReturn 0) going) going = true ∧
    gives (exec (.laneMarginCheck 31 65535 0 1 1062501) s) (fun t => t.flag (.linkdStatus 3) .MARGIN ∧ bits (t.reg (.linkSer 3 7)) 15 0 = 65535 ∧
      bits (t.reg (.linkSer 3 7)) 63 48 = 65535 ∧ bits (t.reg (.linkSer 3 7)) 47 32 = 1) = true ∧
    gives (exec (.laneMarginCheck 31 1062500 0 0 0) s) (fun t => !t.flag (.linkdStatus 3) .MARGIN) = true ∧
    gives (exec (.pgEnable 31 f) lent) (fun t => t.flag (.linkdStatus 3) .TEST_REFUSED ∧ !t.flag (.linkPg 3 7 1) .ENABLE) = true ∧
    gives (exec (.pgEnable 9 f) s) (fun t => t.flag (.linkdStatus 1) .TEST_REFUSED) = true ∧
    gives (exec (.pgEnable 9 f) (portIn 7)) (fun t => t.flag (.linkPg 1 1 1) .ENABLE ∧ t.fld (.linkPg 1 1 1) .MODE = 7 ∧ t.fld (.linkPg 1 1 1) .LANES = 8) = true ∧
    gives (exec (.pgEnable 9 { f with enable := false }) s) (fun t => !t.flag (.linkPg 1 1 1) .ENABLE) = true ∧
    gives (exec (.patternCheckerLock 9 1 3 9) on) (fun t => t.fld (.linkPg 1 1 1) .LOCKED = 8 ∧ bits (t.reg (.linkPgerr 1 1 1)) 63 48 = 9) = true ∧
    answers (exec (.patternCheckerLock 9 1 2 9) on) on = true := by decide +kernel

/-- A slot of context 0's armed image on port 2: MODE and BINDING, frames 10 to 20. -/
def slotE (mode binding : Nat) : SlotEntry := { step := 0, startNs := 320, lenNs := 320, portMode := 2 + mode * 16 + binding * 256 }

/-- Stream 3's table at 0x8000: 64 bytes at 0x3000; port 2 carries slot 0. -/
def slotted (mode binding : Nat) : State :=
  let s := place (knotted linked 5 0) (word 0x4003000 0x1122 ++ word 0x4008060 0x3000 ++ cellsFrom 0x4008068 (toBytes 4 64 ++ [4, 0, 5, 0]))
  (((s.setFlds (.linkwStreams 0) [(.BASE, 1), (.LOCK, 1)]).setFlag .startStat .READY true).setFld .strokePhase .PHASE 81920).setImage 0
    { Image.empty with phase := .armed, hash := 0x1234, steps := 1, begun := true, slots := [slotE mode binding] }

def stream3 : StreamEntry := { addr := 0x3000, bytes := 64, role := 0, ken := true, ptype := 0, knot := 5, waddr := 0 }

/-- The stroke at the end of the slot. -/
def atEnd (s : State) : State := s.setFld .strokePhase .PHASE 163840

/-- `slotted` with a run of slot 0. -/
def slotRunning (mode : Nat) (f : SlotRun → SlotRun) : State :=
  (slotted mode 3).setSlotRun (f (freshRun 0 0 (slotE mode 3) (some stream3)))

theorem witness_SlotsBegin :
    let s := slotted 0 3
    let r := slotRunning 0 id
    let relocking := r.setLink 9 { LinkSt.idle with relock := some 0 }
    let behind := { r with slots := r.slots ++ [{ freshRun 1 0 (slotE 0 3) none with held := true }] }
    let down := (slotRunning 0 id).setFld (.portState 2) .STATE 6
    (s.slotAt 0 0 = some (slotE 0 3)) ∧ s.slotDue 0 0 (slotE 0 3) false = true ∧ s.slotAt 0 1 = none ∧
    { s with stroke := { s.stroke with slip := true } }.slotDue 0 0 (slotE 0 3) false = false ∧
    gives (exec (.streamPrefetch 0 0 false) s) (fun t => t.slots = r.slots) = true ∧
    gives (exec (.streamPrefetch 0 0 false) (s.putCells [(0x4008068, 65)])) (fun t => t.fld (.linkwStat 0) .STREAM_ERR = 1 ∧ t.slots = [] ∧
      t.fld (.ctxfCause 0) .CAUSE = 0x0E ∧ t.fld (.ctxfDetail 0) .ARG = 3 ∧ t.wordAt 0x400806D 1 = 0x10) = true ∧
    answers (exec (.slotStart 0 0 false) s) s = true ∧ answers (exec (.streamPrefetch 0 1 false) s) s = true ∧
    gives (exec (.slotStart 0 0 false) r) (fun t => (t.slotRun 0 0).map (fun x => (x.begun, x.first, x.out.length)) = some (true, 10, 1)) = true ∧
    gives (exec (.slotStart 0 0 false) relocking) (fun t => (t.slotRun 0 0).map SlotRun.held = some true) = true ∧
    gives (exec (.slotStart 0 0 false) behind) (fun t => (t.slotRun 0 0).map SlotRun.missed = some true ∧
      t.outbox = [.symbol 2 7 (3 ||| 10 <<< 16 ||| 0x1234 <<< 36)]) = true ∧
    gives (exec (.slotStart 0 0 false) down) (fun t => t.slots = []) = true ∧
    gives (exec (.streamTableLock 0 0x1FFFFFFFF) (slotted 0 3)) (fun t => t.fld (.linkwStreams 0) .BASE = 1 ∧ t.flag (.ctxwCmplStat 0) .WO_VIOLATION) = true ∧
    gives (exec (.streamTableLock 0 1) linked) (fun t => t.fld (.linkwStreams 0) .BASE = 1 ∧ t.flag (.linkwStreams 0) .LOCK) = true ∧
    gives (exec (.streamTableLock 15 1) linked) (fun t => !t.flag (.linkwStreams 15) .LOCK ∧ t.flag (.linkdStatus 0) .CFG_ERR) = true ∧
    gives (exec (.streamTableUnlock 0 0) s) (fun t => t.flag (.linkwStreams 0) .LOCK ∧ t.flag (.linkdStatus 0) .CFG_ERR) = true ∧
    gives (exec (.streamTableUnlock 0 7) (s.setImage 0 Image.empty)) (fun t => !t.flag (.linkwStreams 0) .LOCK ∧ t.fld (.linkwStreams 0) .BASE = 7) = true := by
  decide +kernel

def beat0 : Beat := { tag := 0, data := List.replicate 64 1 }
def in0 : FrameBeat := { pos := 0, last := true, start := false, lenM1 := 0, index := 0, data := 0x99 }

theorem witness_FramesGoAndCome :
    let r := slotRunning 0 fun r => { r with begun := true, out := [beat0, beat0] }
    let got := slotRunning 1 fun r => { r with begun := true }
    gives (exec (.frameDeparture 8 10 0 true) r) (fun t => t.outbox = [.frame 8 1 10 0x1234 3 9 [{ beat0 with tag := 0xC0000000 }]]) = true ∧
    gives (exec (.frameDeparture 9 10 0 true) r) (fun t => t.outbox = [.frame 9 1 10 0x1234 3 9 [{ beat0 with tag := 0xC0000000 }]]) = true ∧
    gives (exec (.frameDeparture 8 9 0 true) r) (fun t => t.outbox = [.frame 8 0 9 0 0 9 []]) = true ∧
    gives (exec (.frameDeparture 8 10 0 false) r) (fun t => (t.slotRun 0 0).map SlotRun.missed = some true) = true ∧
    gives (exec (.frameDeparture 8 5 0 true) linked) (fun t => t.outbox = [.frame 8 0 5 0 0 9 []]) = true ∧
    gives (exec (.frameDeparture 8 5 0 true) (portIn 2)) (fun t => t.outbox = [.frame 8 4 5 0 0 9 []]) = true ∧
    gives (exec (.frameDeparture 8 5 0 true) (portIn 5)) (fun t => t.outbox = [.frame 8 0 5 0 0 9 []]) = true ∧
    answers (exec (.frameDeparture 8 5 0 true) (portIn 6)) (portIn 6) = true ∧ answers (exec (.frameDeparture 8 0 0 true) linked) linked = true ∧
    gives (exec (.frameDeparture 8 32 7 true) (linked.setLink 8 { LinkSt.idle with t2 := some 6 })) (fun t =>
      t.outbox = [.frame 8 3 32 0 0 9 (plainBeats (toBytes 8 6 ++ toBytes 8 7))]) = true ∧
    answers (exec (.frameDeparture 9 5 0 true) (linked.setLink 9 { LinkSt.idle with relock := some 0 })) (linked.setLink 9 { LinkSt.idle with relock := some 0 }) = true ∧
    gives (exec (.dataFrame 8 10 0x1234 3 [in0] none false) got) (fun t => (t.slotRun 0 0).map (fun x => smGet (fun _ => []) x.got 0) = some (toBytes 64 0x99)) = true ∧
    gives (exec (.dataFrame 8 10 0x1234 4 [in0] none false) got) (fun t => t.fld (.portCount 2) .UNMATCHED = 1 ∧ t.slots = got.slots) = true ∧
    gives (exec (.dataFrame 8 10 0 0 [] none true) got) (fun t => t.fld (.portCount 2) .FRAMES_LOST = 1 ∧ t.fld (linkFecReg 8) .UNCORR = 1 ∧
      (t.slotRun 0 0).map SlotRun.missed = some true) = true ∧
    gives (exec (.dataFrame 8 10 0 0 [] none true) linked) (fun t => t.fld (.portCount 2) .FRAMES_LOST = 1) = true ∧
    answers (exec (.dataFrame 8 10 0 0 [] none true) (portIn 5)) (portIn 5) = true ∧
    gives (exec (.missed 2 3 10 0x1234) (slotted 1 3)) (fun t => (t.slotRun 0 0).map SlotRun.missed = some true) = true ∧
    answers (exec (.missed 2 3 10 0x1234) (atEnd (slotted 1 3))) (atEnd (slotted 1 3)) = true ∧
    answers (exec (.missed 2 3 11 0x1234) (slotted 1 3)) (slotted 1 3) = true := by decide +kernel

theorem witness_SlotEnds :
    let full := slotRunning 1 fun r => { r with begun := true, got := [(0, List.replicate 64 7)] }
    let none' := slotRunning 1 fun r => { r with begun := true }
    let held := slotRunning 0 fun r => { r with held := true }
    (smGet (fun _ => []) [(0, List.replicate 64 (7 : Byte))] 0 = List.replicate 64 7) ∧
    gives (exec (.slotEnd 0 0) (atEnd full)) (fun t => t.slots = [] ∧ t.wordAt 0x4003000 8 = 0x0707070707070707 ∧ t.knotCount 5 = 1 ∧ t.wordAt 0x400806D 1 = 0 ∧
      t.wordAt 0x4008078 4 = 9) = true ∧
    gives (exec (.slotEnd 0 0) (atEnd none')) (fun t => t.slots = [] ∧ t.fld (.linkwStat 0) .MISSED = 1 ∧ t.fld (.portCount 2) .SLOTS_MISSED = 1 ∧
      t.stroke.missedNow = [(0, 0)] ∧ t.wordAt 0x400806D 1 = 0x18 ∧ t.outbox = []) = true ∧
    gives (exec (.slotEnd 0 0) (atEnd held)) (fun t => t.fld (.linkwStat 0) .MISSED = 1 ∧ t.outbox = [.symbol 2 7 (3 ||| 10 <<< 16 ||| 0x1234 <<< 36)]) = true ∧
    answers (exec (.slotEnd 0 0) (atEnd (slotted 1 3))) (atEnd (slotted 1 3)) = true ∧ answers (exec (.slotEnd 0 0) full) full = true ∧
    gives (exec (.slotEnd 0 0) (atEnd (slotRunning 1 id))) (fun t => t.slots = [] ∧ t.fld (.linkwStat 0) .MISSED = 0) = true := by decide +kernel

theorem witness_SlotsOfAChangedEntry :
    let full := (slotRunning 1 fun r => { r with begun := true, got := [(0, List.replicate 64 7)] }).putCells [(0x4008068, 65)]
    let r := (slotRunning 0 fun r => { r with begun := true, out := [beat0, beat0] }).putCells [(0x4008068, 65)]
    ((full.slotRun 0 0).map full.streamChanged = some true) ∧ (r.slotRun 0 0).map r.streamChanged = some true ∧
    ((full.slotRun 0 0).map fun x => ((full.spoilRun x).2.got.map fun g => (g.1, g.2.length), decide ((full.spoilRun x).1.freeIx = full.freeIx))) = some ([(0, 64)], false) ∧
    gives (exec (.frameDeparture 8 10 0 true) r) (fun t => t.outbox.length = 1 ∧ t.freeIx ≠ r.freeIx) = true := by decide +kernel

/-! ### The host interface -/

/-- VF 1 (context 0) is enabled, with its aperture over the first 4 GiB and MSI-X on; vector 5 has an address and data. -/
def vfOn : State :=
  let s := base.setFn 1 { FnState.fresh with enabled := true, msixEnable := true }
  ((s.setFlag (.hostwHwin 0) .ENABLE true).setReg (msixAddr 1 5) 0xFEE00000).setFlds (msixData 1 5) [(.DATA, 0x45), (.MASK, 0)]

/-- VF 1 with a bit of a word of ARMED or PEND set. -/
def vfBit (r : Reg) (i : Nat) : State := vfOn.setRegBit r i true

theorem witness_BarWindows :
    let s := vfOn.putCells [(0x4002000, 7)]
    let off := base.setFn 1 { FnState.fresh with enabled := true }
    let pw := (base.setFlag .ioPwin .ENABLE true).putCells [(0x4002000, 7)]
    gives (exec (.vfApertureAccess 0 0x2000 (.read 2)) s) (fun t => t.outbox = [.pcieCpl 1 0 false [7, 0]]) = true ∧
    gives (exec (.vfApertureAccess 0 0x2000 (.write [8, 9])) s) (fun t => t.bytesAt 0x4002000 2 = [8, 9]) = true ∧
    gives (exec (.vfApertureAccess 0 0xFFFFFFFF (.read 1)) s) (fun t => t.outbox = [.pcieCpl 1 4 false []] ∧ t.flag (.hostwHwinFault 0) .VALID ∧
      t.fld (.hostwHwinFault 0) .CAUSE = 1) = true ∧
    gives (exec (.vfApertureAccess 0 0x2000 (.read 2)) off) (fun t => t.outbox = [.pcieCpl 1 4 false []] ∧ t.fld .memFault .CAUSE = 6 ∧
      t.fld (.hostwHwinFault 0) .CAUSE = 6) = true ∧
    gives (exec (.vfApertureAccess 0 0x2000 (.write [8])) (off.setFlds (.hostwHwinFault 0) [(.VALID, 1), (.CAUSE, 3)])) (fun t => t.fld (.hostwHwinFault 0) .CAUSE = 3) = true ∧
    gives (exec (.vfApertureAccess 0 0x2000 (.read 2)) base) (fun t => t.outbox = [.pcieCpl 1 1 false []]) = true ∧
    gives (exec (.vfApertureAccess 0 0x2000 (.read 2)) (s.setFn 0 { FnState.fresh with d3 := true })) (fun t => t.outbox = [.pcieCpl 1 1 false []]) = true ∧
    gives (exec (.pfWindowAccess 0x4002000 (.read 2)) pw) (fun t => t.outbox = [.pcieCpl 0 0 false [7, 0]]) = true ∧
    gives (exec (.pfWindowAccess 0x4002000 (.write [1])) pw) (fun t => t.bytesAt 0x4002000 1 = [1]) = true ∧
    gives (exec (.pfWindowAccess 0x4002000 (.read 2)) base) (fun t => t.outbox = [.pcieCpl 0 4 false []] ∧ t.flag .ioStatus .HOST_ERR) = true ∧
    gives (exec (.pfWindowAccess 0 (.read 2)) (base.setFn 0 { FnState.fresh with d3 := true })) (fun t => t.outbox = [.pcieCpl 0 1 false []]) = true ∧
    gives (exec (.unsupportedRequest 16 false) base) (fun t => t.outbox = [.pcieCpl 16 1 false []]) = true ∧
    gives (exec (.unsupportedRequest 16 true) base) (fun t => (t.fnOf 16).aerUr) = true := by decide +kernel

theorem witness_Vectors :
    let msg : Output := .msix 1 0xFEE00000 0x45
    let armed := vfBit (.vecwArmed 0 0) 5
    let pend := vfBit (.vecwPend 0 0) 5
    let held := (vfBit (.vfPba 0 0) 5).setFlag (msixData 1 5) .MASK true
    let msgAt := fun (v : Nat) => (vfOn.setRegBit (.vecwArmed 0 1) (v % 64) true)
    gives (.next (armed.vectorEvent 1 5)) (fun t => t.outbox = [msg] ∧ t.reg (.vecwArmed 0 0) = 0) = true ∧
    gives (.next (vfOn.vectorEvent 1 127)) (fun t => t.outbox = [] ∧ t.reg (.vecwPend 0 1) = 0x8000000000000000) = true ∧
    gives (.next ((msgAt 127).vectorEvent 1 127)) (fun t => t.outbox = [] ∧ t.reg (.vfPba 0 1) = 0x8000000000000000) = true ∧
    vfOn.msixHeld 1 5 = false ∧ held.msixHeld 1 5 = true ∧ (vfOn.fnOf 2).enabled = false ∧
    gives (.next (held.message 1 5)) (fun t => t.outbox = [] ∧ t.reg (.vfPba 0 0) = 32) = true ∧
    answers (.next ((vfOn.setFn 1 { FnState.fresh with enabled := true }).message 1 5)) (vfOn.setFn 1 { FnState.fresh with enabled := true }) = true ∧
    gives (exec (.vectorArm 1 0 32) vfOn) (fun t => t.reg (.vecwArmed 0 0) = 32) = true ∧
    gives (exec (.vectorArm 1 0 32) pend) (fun t => t.reg (.vecwArmed 0 0) = 0 ∧ t.reg (.vecwPend 0 0) = 0 ∧ t.outbox = [msg]) = true ∧
    gives (exec (.vectorArm 0 3 0x8000000000000000) vfOn) (fun t => t.reg (.pfvecArmed 3) = 0x8000000000000000) = true ∧
    answers (exec (.vectorArm 2 0 32) vfOn) vfOn = true ∧ answers (exec (.msixUnmask 2 (.vector 5 false)) vfOn) vfOn = true ∧
    gives (exec (.msixUnmask 1 (.vector 5 false)) held) (fun t => t.outbox = [msg] ∧ t.reg (.vfPba 0 0) = 0) = true ∧
    gives (exec (.msixUnmask 1 (.control true true)) vfOn) (fun t => (t.fnOf 1).funcMask) = true := by decide +kernel

theorem witness_VectorMapAndPcie :
    let ok : W64 := 0x2000000000000005
    let read : HostRead := { tag := 8, ctx := 0, reader := .access, va := 0, bus := 0x10010, len := 4 }
    vmapOk ok = true ∧ vmapOk (ok + 0x10000) = false ∧ vmapOk 0x4000000000000000 = false ∧
    gives (exec (.vmapWrite 15 111 ok) vfOn) (fun t => t.reg (.vmapMap 15 111) = ok) = true ∧
    gives (exec (.vmapWrite 0 0 (0x8000000000000000 + ok + 0x10000)) vfOn) (fun t => t.reg (.vmapMap 0 0) = ok + 0x10000 ∧ t.flag (.vecwStat 0) .MAP_ERR) = true ∧
    gives (exec (.pcieLinkUp 5 15 true) base) (fun t => t.flag .ioPcieStat .LINK_UP ∧ t.fld .ioPcieStat .LANES = 16 ∧ t.fld .ioPcieStat .RATE = 6 ∧ !t.flag .ioPcieStat .DEGRADED) = true ∧
    gives (exec (.pcieLinkUp 4 15 true) base) (fun t => t.flag .ioPcieStat .DEGRADED) = true ∧
    answers (exec (.pcieLinkUp 5 2 true) base) base = true ∧ answers (exec (.pcieLinkUp 5 15 false) base) base = true ∧
    gives (exec (.powerStateChange 1 true) { vfOn with hostReads := [read] }) (fun t => (t.fnOf 1).d3 ∧ t.hostReads = []) = true ∧
    gives (exec (.powerStateChange 1 false) ((vfBit (.vfPba 0 0) 5).setFn 1 { FnState.fresh with enabled := true, msixEnable := true, d3 := true })) (fun t =>
      t.outbox = [.msix 1 0xFEE00000 0x45]) = true ∧
    answers (exec (.vfFlr 1) vfOn) vfOn = true ∧ (vfOn.fnOf (0 + 1)).enabled = true ∧
    gives (exec (.vfEnable true) base) (fun t => (t.fnOf 16).enabled) = true := by decide +kernel

/-! ### Start-up -/

/-- The start has passed step k. -/
def startAt (k : Nat) : State := { base with start := { base.start with passed := some k } }

def varied : State := base.setFlds .idVariant [(.TILE_MHZ, 1250), (.SUSTAINED_W, 1500), (.PEAK_W, 1800)]

/-- Step k runs, to end with an outcome. -/
def stepping (k out : Nat) : State :=
  let s := base.setFlds .startStat [(.STEP, k), (.STATE, 1)]
  { s with start := { s.start with passed := some (k - 1), outcome := out } }

theorem witness_StartUp :
    let shelf := { base with rack := { base.rack with tmcs := [(0, { Tmc.fresh with heldShelf := true })] } }
    let s := { base with pending := [.packageReset] }
    shelf.heldInReset = true ∧ answers (exec (.powerGood none true true) shelf) shelf = true ∧
    gives (exec (.powerGood none true true) s) (fun t => t.fld .startStat .STATE = 1 ∧ t.start.outcome = 1 ∧ t.straps = some (0, 0) ∧ t.pending = s.pending) = true ∧
    gives (exec (.powerGood (some 5) false false) s) (fun t => t.start.outcome = 2 ∧ t.reg .stwFwVersion = 5 ∧ t.straps = none) = true ∧
    gives (exec (.powerGood (some 5) true true) s) (fun t => t.perm.boots = 1 ∧ t.start.outcome = 0) = true ∧
    gives (exec .packageReset s) (fun t => t.regs = [] ∧ t.mem = [] ∧ t.pending = s.pending) = true ∧
    gives (exec (.runlimWrite 1250 1500 1800) varied) (fun t => t.fld .startRunlim .TILE_MHZ = 1250 ∧ t.fld .startRunlim .SUSTAINED_W = 1500 ∧ t.fld .startRunlim .PEAK_W = 1800) = true ∧
    gives (exec (.runlimWrite 1250 1500 1700) (varied.setFld .startRunlim .PEAK_W 1800)) (fun t => t.fld .startRunlim .TILE_MHZ = 1250 ∧ t.fld .startRunlim .PEAK_W = 1800 ∧
      t.flag .idStatus .WO_VIOLATION) = true ∧
    gives (exec (.runlimWrite 1251 1500 1800) varied) (fun t => t.flag .startStat .CFG_ERR ∧ t.reg .startRunlim = 0) = true ∧
    gives (exec (.runlimWrite 0 1500 1800) varied) (fun t => t.flag .startStat .CFG_ERR) = true ∧
    gives (exec (.runlimWrite 1250 1500 1800) (varied.setFld .startStat .STEP 1)) (fun t => t.flag .idStatus .WO_VIOLATION) = true ∧
    (startAt 0).stepNext 1 = true ∧ (startAt 6).stepNext 7 = true ∧ base.stepNext 1 = false ∧ (stepping 1 0).stepNext 2 = false ∧ (startAt 4).stepNext 5 = true ∧
    (startAt 5).stepNext 6 = true ∧
    gives (exec (.startLimits true) (startAt 0)) (fun t => t.start.outcome = 0 ∧ t.start.limits.isSome ∧ t.fld .startStat .STEP = 1) = true ∧
    gives (exec (.startLimits false) (startAt 0)) (fun t => t.start.outcome = 3) = true ∧
    gives (exec (.startLimits true) base) (fun t => t.flag .startStat .ORDER_ERR) = true ∧
    gives (exec .startPower (startAt 1)) (fun t => t.start.outcome = 4) = true ∧
    gives (exec .startPower ((startAt 1).setFlds .pwrCap [(.PEAK_W, 1), (.SUST_W, 1)] |>.setFlag .pwrCtrl .LOCK true)) (fun t => t.start.outcome = 0) = true ∧
    gives (exec (.startMemtest [.bank 31 49]) (startAt 2)) (fun t => t.mem = [] ∧ t.perm.defects.length = 1) = true ∧
    gives (exec (.startUnittest [.nib 31 8, .nib 31 8] true) (startAt 3)) (fun t => t.start.outcome = 6 ∧ t.perm.defects.length = 1) = true ∧
    gives (exec .startPorts (startAt 6)) (fun t => t.start.outcome = 0 ∧ t.fld .startStat .STEP = 7) = true := by decide +kernel

theorem witness_StartSteps :
    let recorded := { base.setFlag .idPosition .RECORD_VALID true with
      perm := { base.perm with record := some (List.replicate 18 0 ++ [1] ++ List.replicate 13 0 ++ [3, 0, 0] ++ List.replicate 93 0, 0, 0) } }
    let trains := (stepping 7 0).setFlag (.portCfg 2) .ENABLE true |>.setFld (.portState 2) .STATE 2
    recorded.myRank = some 3 ∧ base.myRank = none ∧ trains.portsTrain = true ∧ (stepping 7 0).portsTrain = false ∧
    gives (exec .startFound recorded) (fun t => t.flag .startStat .FOUND_ARMED) = true ∧ gives (exec .startFound base) (fun t => t.flag .startStat .ORDER_ERR) = true ∧
    gives (exec .startStepDone (stepping 7 0)) (fun t => t.start.passed = some 7 ∧ t.fld .startStat .STATE = 2) = true ∧
    gives (exec .startStepDone (stepping 5 7)) (fun t => t.start.passed = some 4 ∧ t.fld .startStat .STATE = 3 ∧ t.fld .startStat .CAUSE = 7) = true ∧
    answers (exec .startStepDone trains) trains = true ∧ answers (exec .startStepDone base) base = true ∧
    answers (exec .startStepTimeout (stepping 3 0)) (stepping 3 0) = true ∧
    gives (exec .startStepTimeout { stepping 3 0 with time := 6000000000 }) (fun t => t.fld .startStat .STATE = 3 ∧ t.fld .startStat .CAUSE = 5) = true ∧
    gives (exec .startStepTimeout { trains with time := 17275000 }) (fun t => t.fld .startStat .CAUSE = 5) = true ∧
    gives (exec .startStepTimeout { stepping 7 0 with time := 17275000 }) (fun t => t.start.passed = some 7) = true ∧
    answers (exec .startStepTimeout (stepping 2 0)) (stepping 2 0) = true := by decide +kernel

/-! ### Faults, resets and hangs -/

/-- Context 3 is in reset with its units pending. -/
def resetting : State := (base.setFld (.ctxrCtrl 3) .STATE 1).setFld (.ctxrPending 3) .UNITS 0xFF

theorem witness_FaultsAndResets :
    let s := { base with time := 500 }
    let once := s.contextFault 15 0x11 0xFF 0xFF 0xFFFF 7
    let most := s.setFlds (.ctxfCause 0) [(.VALID, 1), (.CAUSE, 4), (.MERGED, 0x7FFF)]
    let core := (resetting.setFld (coreReg 7) .BOUND 1).setFld (coreReg 7) .CTX 3
    let core := core.setCore 7 { runner with imageQ := [{ entry := 0, arg := 0 }] }
    let gone := { base with regs := [] }.setFld (.ctxrCtrl 3) .STATE 1
    (once.fld (.ctxfCause 15) .CAUSE = 0x11 ∧ once.fld (.ctxfDetail 15) .ARG = 7 ∧ once.fld (.ctxfDetail 15) .UNIT = 0xFFFF ∧ once.fld (.ctxrCtrl 15) .STATE = 1 ∧
      once.fld (.ctxrPending 15) .UNITS = 0xFF ∧ (once.context 15).resetStart = 500) ∧
    ((most.contextFault 0 9 0 0 0 0).fld (.ctxfCause 0) .CAUSE = 4 ∧ (most.contextFault 0 9 0 0 0 0).fld (.ctxfCause 0) .MERGED = 0x7FFF) ∧
    s.ctxLive 0 = true ∧ resetting.ctxLive 3 = false ∧
    gives (exec (.contextResetRequest 15) s) (fun t => t.fld (.ctxfCause 15) .CAUSE = 0x11 ∧ t.fld (.ctxrCtrl 15) .STATE = 1) = true ∧
    answers (exec (.contextResetRequest 3) resetting) resetting = true ∧
    gives (exec (.contextResetDone 3) gone) (fun t => t.fld (.ctxrCtrl 3) .STATE = 0 ∧ t.fld (.ctxrTime 3) .RESETS = 1) = true ∧
    answers (exec (.contextResetDone 3) resetting) resetting = true ∧ answers (exec (.contextResetDone 0) s) s = true ∧
    answers (exec (.resetDeadline 0) s) s = true ∧
    core.coreCtx 7 = some 3 ∧
    gives (exec (.resetUnitStopped 3 0 []) core) (fun t => (t.core 7).st = .faulted ∧ (t.core 7).imageQ = [] ∧ t.fld (.ctxrPending 3) .UNITS = 0xFE) = true ∧
    gives (exec (.resetUnitStopped 3 7 []) resetting) (fun t => t.fld (.ctxrPending 3) .UNITS = 0x7F) = true ∧
    gives (exec (.resetUnitStopped 3 3 []) resetting) (fun t => t.fld (.ctxrPending 3) .UNITS = 0xF7) = true ∧
    answers (exec (.resetUnitStopped 4 0 []) resetting) resetting = true ∧
    (base.setFlag .pkgFail .FAILED true).failed = true ∧ base.failed = false ∧
    answers (exec .sharedUnitError (base.setFlag .pkgFail .FAILED true)) (base.setFlag .pkgFail .FAILED true) = true := by decide +kernel

/-- Core 0 waits on knot 9, whose HMODE is as given. -/
def knotWaiter (waitfor : Bool) : State :=
  let s := (knotted base 9 4).setFlag (knotCfg 9) .HMODE waitfor
  { s.setCore 0 { s.core 0 with wait := .kwait 6 9 99 none, st := .waiting } with waiting := [.nib 0], time := 25000 }

def watched9 : Watched := { ctx := 0, kind := 0, io := false, tile := 0, index := 9, who := 0 }

theorem witness_Hangs :
    let s := knotWaiter false
    let seen := fun n => { s with watches := [{ obj := watched9, value := s.progressOf watched9, strokes := n }] }
    let c := knotWaiter true
    let asking := c.setClosed 0 { Closed.none with strokes := 3, pid := 8, out := some 8 }
    let live := fun (s : State) => s.setFld (.portState 2) .STATE 4
    let far : ProbeOrigin := { x := 1, y := 0, ctx := 5 }
    let sends := (live c).setImage 0 { Image.empty with phase := .armed, hash := 0x1234, slots := [slotE 0 3] }
    s.watched = [watched9] ∧ (stroking s).strokeState = 2 ∧
    gives (exec .progressInterval s) (fun t => t.watches.map Watch.strokes = [0]) = true ∧
    gives (exec .progressInterval (seen 6)) (fun t => t.watches.map Watch.strokes = [7] ∧ !t.flag (.ctxhHang 0) .VALID) = true ∧
    gives (exec .progressInterval (seen 7)) (fun t => t.fld (.ctxfCause 0) .CAUSE = 0x0F ∧ t.flag (.ctxhHang 0) .VALID ∧ t.fld (.ctxhHang 0) .INDEX = 9) = true ∧
    answers (exec .progressInterval (stroking s)) (stroking s) = true ∧
    answers (exec .progressInterval { s with sampledAt := 1 }) { s with sampledAt := 1 } = true ∧
    (c.declareHang watched9 true 1).fld (.ctxfCause 0) .CAUSE = 0x10 ∧ (c.declareHang watched9 true 1).fld (.ctxfDetail 0) .ARG = 1 ∧
    c.isClosed 0 = true ∧ c.blockedOn 0 = [watched9] ∧
    gives (exec (.probe 2 { x := 0, y := 0, ctx := 0 } 0 8 4) (live asking)) (fun t => t.fld (.ctxfCause 0) .CAUSE = 0x10 ∧ (t.closedOf 0).out = none) = true ∧
    answers (exec (.probe 2 { x := 0, y := 0, ctx := 0 } 0 7 4) (live asking)) (live asking) = true ∧
    answers (exec (.probe 2 { x := 0, y := 0, ctx := 0 } 0 8 4) asking) asking = true ∧
    sends.probeContext 2 0x1234 = some 0 ∧
    gives (exec (.probe 2 far 0x1234 8 0xFFFE) sends) (fun t => t.probes = [{ x := 1, y := 0, ctx := 5, pid := 8 }]) = true ∧
    answers (exec (.probe 2 far 0x1234 8 0xFFFF) sends) sends = true ∧
    answers (exec (.probe 2 far 0x1235 8 1) sends) sends = true := by decide +kernel

/-! ### Power -/

/-- A tick without activity. -/
def quiet : TickCounts := { classes := [], ballast := [], rest := [] }

/-- Variant limits, caps at them, the ladder index, a temperature. -/
def capped (q : Nat) : State := (varied.setFlds .pwrCap [(.PEAK_W, 1800), (.SUST_W, 1500)]).setFld .pwrState .Q q

/-- 147 points at p, the last at l. -/
def points (p l : Nat) : List W16 := List.replicate 146 (BitVec.ofNat 16 p) ++ [BitVec.ofNat 16 l]

theorem witness_PowerTick :
    let q := fun (s : State) => s.fld .pwrState .Q
    gives (exec (.powerTick quiet) (capped 0)) (fun t => q t = 0 ∧ !t.flag .pwrStatus .CAP_UNMET) = true ∧
    gives (exec (.powerTick quiet) (capped 61)) (fun t => q t = 60 ∧ t.fld .pwrState .GATE = 0 ∧ bits (t.reg .pwrState) 15 0 = 0xFFFF ∧
      t.fld (.pwrwTicks 15) .CLASS = 1) = true ∧
    gives (exec (.powerTick quiet) base) (fun t => q t = 75 ∧ t.flag .pwrStatus .CAP_UNMET ∧ t.fld .pwrState .GATE = 15) = true := by decide +kernel

theorem witness_PowerController :
    let s := capped 0
    let locked := (base.setFlag .pwrCtrl .LOCK true).setFld .pwrCtrl .DROOP_MV 9
    let droop := { base with power := { base.power with stretched := [31] } }
    let hot := { base with power := { base.power with hot := 1 } }
    let capAt := fun (h c : Nat) (cool : Bool) => { varied.setFld .pwrTemp .H h with power := { base.power with tcap := c, cool := cool } }
    gives (exec (.powerLock 9) base) (fun t => t.flag .pwrCtrl .LOCK ∧ t.fld .pwrCtrl .DROOP_MV = 9) = true ∧
    gives (exec (.powerLock 8) locked) (fun t => t.fld .pwrCtrl .DROOP_MV = 9 ∧ t.flag .pwrStatus .WO_VIOLATION) = true ∧
    gives (exec (.capWrite 500 500) s) (fun t => t.fld .pwrCap .PEAK_W = 500) = true ∧
    gives (exec (.capWrite 1800 1500) s) (fun t => t.fld .pwrCap .SUST_W = 1500) = true ∧
    gives (exec (.capWrite 499 500) s) (fun t => t.flag .pwrStatus .CFG_ERR ∧ t.fld .pwrCap .PEAK_W = 1800) = true ∧
    gives (exec (.capWrite 1801 500) s) (fun t => t.flag .pwrStatus .CFG_ERR) = true ∧
    gives (exec (.droopDetect 31) base) (fun t => t.power.stretched = [31] ∧ t.fld (.pwrDroop 31) .EVENTS = 1) = true ∧
    answers (exec (.droopDetect 31) droop) droop = true ∧ answers (exec (.droopEnd 31 5) base) base = true ∧
    gives (exec (.droopEnd 31 5) droop) (fun t => t.power.stretched = [] ∧ t.fld (.pwrDroop 31) .STRETCHED = 32) = true ∧
    gives (exec (.junctionSample (points 300 919)) hot) (fun t => t.fld .pwrTemp .H = 919 ∧ t.fld .pwrTemp .SENSOR = 146 ∧ t.power.hot = 0) = true ∧
    gives (exec (.junctionSample (points 300 920)) base) (fun t => t.power.hot = 1 ∧ !t.power.cool) = true ∧
    answers (exec (.junctionSample [1]) base) base = true ∧ (points 300 920).length = 147 ∧ (hottest (points 300 920)).1 = 920 ∧ hot.power.hot + 1 = 2 ∧
    answers (.next (base.setFlag .pwrStatus .SHUTDOWN true).shutdown) (base.setFlag .pwrStatus .SHUTDOWN true) = true ∧
    gives (exec .thermalCapUpdate (capAt 800 0 true)) (fun t => t.power.tcap = 176400 ∧ t.flag .pwrStatus .THERMAL ∧ t.fld .pwrTemp .TCAP_W = 1764) = true ∧
    gives (exec .thermalCapUpdate (capAt 900 50100 true)) (fun t => t.power.tcap = 50000) = true ∧
    gives (exec .thermalCapUpdate (capAt 799 50100 false)) (fun t => t.power.tcap = 50100 ∧ !t.power.cool) = true ∧
    gives (exec .thermalCapUpdate (capAt 775 50100 true)) (fun t => t.power.tcap = 51900 ∧ t.power.cool) = true ∧
    gives (exec .thermalCapUpdate (capAt 775 178200 true)) (fun t => t.power.tcap = 0) = true := by decide +kernel

/-! ### The Steward and the TMCs -/

def dg (t : TrayId) (m : RmId) : Datagram := { m := m, tray := t, seq := 9 }

/-- TMC 3 with changes. -/
def tmc3 (f : Tmc → Tmc) : State := base.setTmc 3 (f Tmc.fresh)

/-- RM-A holds the lease of TMC 3. -/
def leased : State := tmc3 fun k => { k with lease := { holder := 1, expires := 300000000, since := 0, seq := 0, released := false, expired := none } }

theorem witness_Steward :
    let off := { base with rack := { base.rack with unpowered := true } }
    let full := base.setFlag .stwMboxStat .FULL true
    let caps := base.setFlds .pwrMgmt [(.SEQ, 8), (.PEAK_W, 700)]
    base.stewardUp = true ∧ off.stewardUp = false ∧ serialNewer 0 0xFFFF = true ∧ serialNewer 5 5 = false ∧ serialNewer 0x8000 0 = false ∧
    answers (exec (.setMgmt 600 400 true true 9) off) off = true ∧ answers (exec .getSensors off) off = true ∧
    gives (exec (.setMgmt 600 499 true true 9) caps) (fun t => t.fld .pwrMgmt .PEAK_W = 600 ∧ t.fld .pwrMgmt .SUST_W = 500 ∧ t.flag .pwrMgmt .HOLDOFF ∧
      t.outbox = [.stewardReply 1 [9]]) = true ∧
    gives (exec (.setMgmt 600 499 true true 8) caps) (fun t => t.fld .pwrMgmt .PEAK_W = 700 ∧ t.flag .stwSb .AUTONOMOUS ∧ t.outbox = [.stewardReply 1 [8]]) = true ∧
    gives (exec .getSensors base) (fun t => t.outbox = [.stewardReply 2 (List.replicate 148 0)]) = true ∧
    gives (exec (.fwChunk [1] false true) base) (fun t => t.stw.image = [1] ∧ t.perm.firmware = none) = true ∧
    gives (exec (.fwChunk [2] true true) { base with stw := { base.stw with image := [1] } }) (fun t => t.stw.image = [] ∧ t.perm.firmware = some [1, 2]) = true ∧
    gives (exec (.fwChunk [2] true false) base) (fun t => t.perm.firmware = none) = true ∧
    gives (exec (.toDriver (List.replicate 240 5)) base) (fun t => t.fld .stwMboxStat .LEN = 240 ∧ t.reg (.stwMbox 29) = 0x0505050505050505) = true ∧
    gives (exec (.toDriver [1]) full) (fun t => t.outbox = [.stewardReply 7 [0x14]]) = true ∧
    gives (exec (.setEndpointId 9) base) (fun t => t.stw.eid = 9) = true ∧ gives (exec .getEndpointId base) (fun t => t.outbox = [.mctpReply 2 [0]]) = true ∧
    gives (exec .getMessageTypeSupport base) (fun t => t.outbox = [.mctpReply 5 [0x7F]]) = true ∧
    gives (exec .packagePowerLoss base) (fun t => t.rack.unpowered ∧ t.mem = []) = true := by decide +kernel

theorem witness_TmcCommands :
    let k := fun (s : State) => s.tmc 3
    let failed := tmc3 fun k => { k with failed := true }
    let expired := tmc3 fun k => { k with lease := { Lease.none with expired := some 1 } }
    let at' := fun (s : State) (n : Nat) => { s with rack := { s.rack with now := n } }
    answers (exec (.leaseReq (dg 3 0)) failed) failed = true ∧ (failed.tmc 3).up = false ∧ answers (exec (.readPorts (dg 3 0)) failed) failed = true ∧
    gives (exec (.leaseReq (dg 3 0)) base) (fun t => (k t).lease = { holder := 1, expires := 300000000, since := 0, seq := 9, released := false, expired := none }) = true ∧
    gives (exec (.leaseRenew (dg 3 1)) (at' expired 50000001)) (fun t => (k t).lease.holder = 2) = true ∧
    gives (exec (.leaseRenew (dg 3 1)) (at' expired 50000000)) (fun t => t.outbox = [.tmcReply 3 1 9 0x14 []]) = true ∧
    gives (exec (.leaseReq (dg 3 1)) leased) (fun t => t.outbox = [.tmcReply 3 1 9 0x14 []] ∧ (k t).lease.holder = 1) = true ∧
    gives (exec (.leaseRelease (dg 3 0)) leased) (fun t => (k t).lease.holder = 0 ∧ (k t).lease.released) = true ∧
    gives (exec (.leaseRelease (dg 3 1)) leased) (fun t => t.outbox = [.tmcReply 3 1 9 0x14 []]) = true ∧
    gives (exec (.setCaps (dg 3 0) (some 3) 600 500 true) leased) (fun t => (k t).capsOf 3 = { peak := 600, sust := 500, holdoff := true } ∧ (k t).capsOf 2 = Caps.zero) = true ∧
    gives (exec (.setCaps (dg 3 0) none 600 500 true) leased) (fun t => (k t).capsOf 0 = (k t).capsOf 3 ∧ t.outbox.length = 5) = true ∧
    gives (exec (.setCaps (dg 3 1) none 600 500 true) leased) (fun t => t.outbox = [.tmcReply 3 1 9 0x14 []]) = true ∧
    gives (exec (.setFallback (dg 3 0) 700) leased) (fun t => (k t).fallback = 700) = true ∧
    gives (exec (.setCooling (dg 3 0) 55 100) leased) (fun t => (k t).target = 55 ∧ (k t).minPct = 100) = true ∧
    gives (exec (.setCooling (dg 3 0) 56 100) leased) (fun t => (k t).target = 48 ∧ t.outbox.length = 1) = true ∧
    gives (exec (.pkgReset (dg 3 0) 2 true) leased) (fun t => (k t).heldBy = 4 ∧ t.outbox = [.resetLine 3 2 true, .tmcReply 3 0 9 0 []]) = true ∧
    gives (exec (.pkgReset (dg 3 0) 2 false) (leased.setTmc 3 { leased.tmc 3 with heldBy := 4 })) (fun t => (k t).heldBy = 0) = true ∧
    gives (exec (.fwRecover (dg 3 0) 1 [7] true) leased) (fun t => t.outbox = [.toSteward 3 1 6 [1, 7], .tmcReply 3 0 9 0 []]) = true ∧
    gives (exec (.readSensors (dg 3 1)) leased) (fun t => t.outbox = [.tmcReply 3 1 9 0 [100, 0]]) = true ∧
    gives (exec (.readPower (dg 3 1)) leased) (fun t => t.outbox = [.tmcReply 3 1 9 0 (List.replicate 12 0)]) = true ∧
    gives (exec (.readReg (dg 3 1) 0x10) leased) (fun t => t.outbox = [.tmcReply 3 1 9 0 [0x301464]]) = true ∧
    gives (exec (.readReg (dg 3 1) 0) leased) (fun t => t.outbox = [.tmcReply 3 1 9 0 [2 ^ 62 + 3000]]) = true ∧
    gives (exec (.readLog (dg 3 1) 0) leased) (fun t => t.outbox = [.tmcReply 3 1 9 0 []]) = true := by decide +kernel

/-- A state that many milliseconds of rack time after its start. -/
def after (ms : Nat) (s : State) : State := { s with rack := { s.rack with now := 100000 * ms } }

theorem witness_TmcEvents :
    let k := fun (s : State) => s.tmc 3
    let good := fun (n : Nat) (f : Tmc → Tmc) => tmc3 fun k => f { k with shelfGood := n }
    let failed := tmc3 fun k => { k with failed := true }
    answers (exec (.leaseExpiry 3) leased) leased = true ∧
    gives (exec (.leaseExpiry 3) { leased with rack := { leased.rack with now := 300000000 } }) (fun t => (k t).lease.holder = 0 ∧ (k t).lease.expired = some 300000000) = true ∧
    answers (exec (.leaseExpiry 3) failed) failed = true ∧ answers (exec (.flowLost 3) failed) failed = true ∧
    gives (exec (.portState 3 3 15 7 14) base) (fun t => smGet (fun _ => (0, 0)) (k t).ports 63 = (7, 14)) = true ∧
    gives (exec (.failReport 3 3 5) base) (fun t => smGet (fun _ => 0) (k t).fails 3 = 5) = true ∧
    gives (exec (.bootStatus 3 0 5) base) (fun t => smGet (fun _ => 0) (k t).boots 0 = 5) = true ∧
    gives (exec (.i3cEnumeration 3 3 false 0) base) (fun t => (k t).absent = 8) = true ∧
    gives (exec (.i3cEnumeration 0 0 true 9) base) (fun t => t.flag .stwSb .TMC_UP ∧ t.stw.eid = 9) = true ∧
    gives (exec (.tmcWatchdog 3) base) (fun t => (k t).valve = 100 ∧ (k t).watchdog ∧ (k t).log = [(0, 1)]) = true ∧
    answers (exec (.coolingRegulation 3 [5, 6]) failed) failed = true ∧ (base.tmc 3).up = true ∧
    gives (exec (.shelfGoodChange 3 3) (good 15 id)) (fun t => (k t).fallbackOn ∧ !(k t).heldShelf ∧ t.outbox.length = 4) = true ∧
    gives (exec (.shelfGoodChange 3 1) (good 15 id)) (fun t => (k t).heldShelf ∧ t.outbox = (List.range 4).map fun i => .resetLine 3 i true) = true ∧
    gives (exec (.shelfGoodChange 3 7) (good 3 fun k => { k with fallbackOn := true })) (fun t => !(k t).fallbackOn) = true ∧
    gives (exec (.shelfResetRelease 3) (after 10000 (good 3 fun k => { k with heldShelf := true }))) (fun t => !(k t).heldShelf ∧ .resetLine 3 3 false ∈ t.outbox) = true ∧
    gives (exec (.shelfResetRelease 3) (good 3 fun k => { k with heldShelf := true })) (fun t => (k t).heldShelf) = true ∧
    gives (exec (.shelfGoodChange 3 3) (after 7 (good 1 id))) (fun t => (k t).goodSince = 700000) = true ∧
    answers (exec (.shelfResetRelease 3) (good 1 fun k => { k with heldShelf := true })) (good 1 fun k => { k with heldShelf := true }) = true ∧
    gives (exec (.flowLost 3) base) (fun t => (k t).flowLost ∧ (k t).heldBy = 15) = true ∧
    gives (exec (.tmcFailure 3) base) (fun t => !(k t).up ∧ (k t).valve = 100) = true ∧
    gives (exec (.trayPowerSwitch 3 false none false false) base) (fun t => !(k t).powered) = true ∧
    gives (exec (.trayPowerSwitch 3 true none false false) (tmc3 fun k => { k with powered := false, target := 50, fallback := 1 })) (fun t =>
      (k t).powered ∧ (k t).target = 50 ∧ (k t).fallback = 0x48E) = true ∧
    gives (exec (.trayPowerSwitch 0 false none false false) base) (fun t => t.rack.unpowered ∧ t.mem = []) = true := by decide +kernel

/-- A report that exceeds its estimate, in either variant, on a TMC that runs. -/
theorem witness_PowerReport : (base.tmc 3).up = true ∧ 40 * 0 + 3 * sustainedW < 40 * 65535 := by
  refine ⟨by decide +kernel, ?_⟩
  unfold sustainedW
  split <;> decide

/-! ### The managers, Redfish and the installation record -/

/-- RM-A is active and holds n leases; token 5 is a session of user 0, whose role is given; RM-B may stand by. -/
def managed (n : Nat) (role : RoleName) : State :=
  let s := (List.range n).foldl (fun s t => s.setTmc t { Tmc.fresh with lease := { holder := 1, expires := 9, since := 0, seq := 0, released := false, expired := none } }) base
  (s.setRm 0 { Rm.fresh with active := true, synced := true, cfg := { RackCfg.fresh with accounts := [(0, role)], sessions := [(5, 0)], nextToken := 6 } }).setRm 1 Rm.fresh

/-- Its last heartbeat of RM-B, healthy and SYNCED. -/
def fit : State := (managed 7 .administrator).setRm 0 { (managed 7 .administrator).rm 0 with heard := some { active := false, healthy := true, synced := true, seq := 0, leases := 0, handover := false } }

theorem witness_Managers :
    let a := managed 7 .administrator
    let b := base
    let h : HeartbeatFields := { active := true, healthy := true, synced := true, seq := 4, leases := 12, handover := true }
    let lost := b.setRm 1 { Rm.fresh with peerLost := true }
    let other := b.setRm 1 { Rm.fresh with synced := true, cold := false }
    let renewed := (after 999 (managed 6 .administrator)).setRm 0 { (managed 6 .administrator).rm 0 with short := true, renewedAt := some 0 }
    let short := fun (n : Nat) (x : Bool) => (managed n .administrator).setRm 0 { (managed n .administrator).rm 0 with short := x }
    let req := fun (m : Nat) => (List.range 12).map fun t => Output.datagram m t 1 []
    gives (exec (.heartbeatTimer 0) a) (fun t => t.outbox.length = 2) = true ∧ gives (exec (.heartbeatTimer 1) lost) (fun t => t.outbox.drop 2 = req 1) = true ∧
    gives (exec (.heartbeatTimer 0) b) (fun t => t.outbox.drop 2 = req 0 ∧ (t.rm 0).beatAt = some 0) = true ∧
    gives (exec (.heartbeatTimer 1) (after 1999 b)) (fun t => t.outbox.length = 2) = true ∧
    gives (exec (.heartbeatTimer 1) (after 2000 b)) (fun t => t.outbox.drop 2 = req 1) = true ∧
    gives (exec (.heartbeatTimer 1) (after 249 (b.setRm 1 { Rm.fresh with beatAt := some 0 }))) (fun t => t.outbox = []) = true ∧
    gives (exec (.heartbeat 1 0 h) other) (fun t => (t.rm 1).heard.map Heard.leases = some 12 ∧ t.outbox = req 1) = true ∧
    gives (exec (.heartbeat 1 0 h) b) (fun t => !(t.rm 1).cold ∧ t.outbox = []) = true ∧
    gives (exec (.heartbeat 0 1 h) a) (fun t => (t.rm 0).heard.isSome ∧ t.outbox = []) = true ∧
    answers (exec (.activeLost 0) a) a = true ∧ gives (exec (.activeLost 1) (after 1000 other)) (fun t => (t.rm 1).peerLost ∧ t.outbox = req 1) = true ∧
    gives (exec (.activeLost 1) (after 999 other)) (fun t => !(t.rm 1).peerLost) = true ∧
    (a.leasesOf 0).length = 7 ∧ (((a.setRm 0 Rm.fresh).checkActive 0).rm 0).active = true ∧
    answers (.next ((managed 6 .administrator).checkActive 0)) (managed 6 .administrator) = true ∧
    answers (exec (.leaseRenewalTimer 1) b) b = true ∧
    gives (exec (.leaseRenewalTimer 0) renewed) (fun t => (t.rm 0).active ∧ t.outbox = []) = true ∧
    gives (exec (.leaseRenewalTimer 0) (short 6 true)) (fun t => !(t.rm 0).active ∧ .datagram 0 5 3 [] ∈ t.outbox) = true ∧
    gives (exec (.leaseRenewalTimer 0) (short 6 false)) (fun t => (t.rm 0).active ∧ (t.rm 0).short ∧ t.outbox.length = 6) = true ∧
    gives (exec (.leaseRenewalTimer 0) (short 7 true)) (fun t => !(t.rm 0).short ∧ t.outbox.length = 12 ∧ .datagram 0 11 1 [] ∈ t.outbox) = true ∧
    answers (exec (.selfDiagnosis 1 false) b) b = true ∧ gives (exec (.selfDiagnosis 0 true) a) (fun t => (t.rm 0).healthy) = true ∧
    fit.standbyFit 0 = true ∧
    gives (exec (.selfDiagnosis 0 false) fit) (fun t => !(t.rm 0).active ∧ (t.rm 0).handover ∧ .datagram 0 11 3 [] ∈ t.outbox) = true ∧
    gives (exec (.selfDiagnosis 0 false) a) (fun t => (t.rm 0).active ∧ (t.rm 0).alarm) = true ∧
    gives (exec (.resynchronisation 1) a) (fun t => (t.rm 1).synced ∧ (t.rm 1).cfg.accounts = [(0, .administrator)]) = true ∧
    answers (exec (.resynchronisation 0) a) a = true ∧
    gives (exec (.heartbeatPathLoss 1) a) (fun t => (t.rm 0).alarm ∧ (t.rm 1).alarm ∧ t.activeRm = some 0) = true := by decide +kernel

theorem witness_RackCommands :
    let a := managed 7 .administrator
    let from' := fun (f : Nat) => { a with rack := { a.rack with switchover := some f } }
    let capped := a.setRm 0 { a.rm 0 with cfg := { (a.rm 0).cfg with capped := true } }
    answers (exec .failoverRevert a) a = true ∧ answers (exec .failoverRevert (from' 1)) (from' 1) = true ∧
    gives (exec .failoverRevert (after 1999 (from' 0))) (fun t => t.rack.switchover = some 0) = true ∧
    gives (exec .failoverRevert (after 2000 (from' 0))) (fun t => t.rack.switchover = none ∧ .event (.reverted (List.range 12)) ∈ t.outbox ∧ .datagram 0 11 1 [] ∈ t.outbox) = true ∧
    answers (exec (.shelfPoll 3) base) base = true ∧ answers (exec (.nplChange 3) base) base = true ∧ base.activeRm = none ∧ a.activeRm = some 0 ∧
    gives (exec (.shelfPoll 7) a) (fun t => t.rack.shelves = 7 ∧ t.outbox = []) = true ∧ gives (exec (.shelfPoll 3) a) (fun t => (t.rm 0).cfg.capped ∧ t.outbox.length = 48) = true ∧
    gives (exec (.shelfPoll 7) capped) (fun t => !(t.rm 0).cfg.capped) = true ∧
    gives (exec (.nplChange 14000) a) (fun t => .datagram 0 11 0x11 [1166] ∈ t.outbox) = true ∧
    gives (exec .pumpTransfer a) (fun t => t.rack.duty = 1 ∧ t.rack.pumps = [0, 1]) = true ∧ gives (exec .pumpSwap a) (fun t => t.rack.pumps = [1]) = true ∧
    gives (exec .tankLevelAlarm a) (fun t => t.rack.tankAlarm) = true := by decide +kernel

theorem witness_Redfish :
    let a := managed 7 .administrator
    let o := managed 7 .operator
    let r := managed 7 .readOnly
    let codes := fun (s : State) (i : Instr) (n : Nat) => gives (exec i s) fun t => t.outbox.getLast?.elim false fun x => match x with
      | .redfish k _ => k = n
      | _ => false
    (o.rm 0).cfg.roleOf 5 = some .operator ∧ (o.rm 0).cfg.roleOf 6 = none ∧
    answers (exec (.redfishGet 5 .rack false) base) base = true ∧
    codes a (.redfishGet 5 .other false) 404 = true ∧ codes a (.redfishGet 5 .rack true) 501 = true ∧ codes a (.redfishGet 6 .rack false) 401 = true ∧
    codes a (.redfishGet 6 .root false) 200 = true ∧ gives (exec (.redfishGet 5 .rack false) a) (fun t => t.outbox = [.redfish 200 [0, 14000, 0]]) = true ∧
    codes o (.pkgCapSetpoint 6 3 3 900) 401 = true ∧ codes r (.pkgCapSetpoint 5 3 3 900) 403 = true ∧ codes o (.accountChange 5 (.delete 0)) 403 = true ∧
    gives (exec (.pkgCapSetpoint 5 11 3 900) o) (fun t => smGet (fun _ => 0) (t.rm 0).cfg.setPoints 47 = 900 ∧ .datagram 0 11 0x10 [3, 900, 900, 0] ∈ t.outbox) = true ∧
    codes o (.coolingSetpoint 5 0 39) 400 = true ∧ codes o (.coolingSetpoint 5 0 55) 200 = true ∧ codes o (.cduSupplySetpoint 5 41) 400 = true ∧
    gives (exec (.cduSupplySetpoint 5 40) o) (fun t => t.rack.supply = 40) = true ∧
    gives (exec (.processorReset 5 3 2 true) o) (fun t => t.outbox = [.datagram 0 3 0x13 [2, 1], .redfish 200 []]) = true ∧
    gives (exec (.processorReset 5 3 2 false) o) (fun t => t.outbox.length = 3) = true ∧
    gives (exec (.managerReset 5 0) o) (fun t => !(t.rm 0).active ∧ (t.rm 0).cfg.accounts = [(0, .operator)]) = true ∧
    codes a (.forceFailover 5 0 false) 409 = true ∧ codes fit (.forceFailover 5 1 false) 409 = true ∧
    gives (exec (.forceFailover 5 0 false) fit) (fun t => t.rack.switchover = some 0 ∧ !(t.rm 0).active ∧ (t.rm 0).handover) = true ∧
    gives (exec (.forceFailover 5 0 true) fit) (fun t => (t.rm 0).active) = true ∧
    codes a (.sessionCreate (.create 0 false)) 401 = true ∧ codes a (.sessionCreate (.create 1 true)) 401 = true ∧
    gives (exec (.sessionCreate (.create 0 true)) a) (fun t => (t.rm 0).cfg.sessions = [(5, 0), (6, 0)] ∧ t.outbox = [.redfish 201 [6]]) = true ∧
    gives (exec (.sessionCreate (.delete 5)) a) (fun t => (t.rm 0).cfg.sessions = []) = true ∧
    gives (exec (.accountChange 5 (.set 1 .readOnly)) a) (fun t => (t.rm 0).cfg.accounts = [(0, .administrator), (1, .readOnly)]) = true ∧
    gives (exec (.accountChange 5 (.delete 0)) a) (fun t => (t.rm 0).cfg.accounts = []) = true ∧
    gives (exec (.subscriptionChange 5 .create) o) (fun t => (t.rm 0).cfg.subs = [1]) = true ∧
    gives (exec (.subscriptionChange 5 (.delete 1)) o) (fun t => (t.rm 0).cfg.subs = []) = true ∧ codes o (.simpleUpdate 5) 202 = true := by decide +kernel

/-- A record of 8 × 12 packages with anchors at (0, 0) and (0, 6): two racks. -/
def record (magic xm1 n : Nat) : List Byte :=
  toBytes 4 magic ++ toBytes 2 1 ++ toBytes 2 0 ++ toBytes 8 7 ++ [BitVec.ofNat 8 xm1, 11, BitVec.ofNat 8 n] ++ List.replicate 13 0 ++ [0, 0, 0, 0, 0, 0, 0, 0, 1, 0, 6, 0, 0, 0, 0, 0] ++
    List.replicate 80 0

/-- It is staged for position x, y in tray 0, slot 3. -/
def staging (r : List Byte) (x y : Nat) : State :=
  let s := (List.range 16).foldl (fun s i => s.setReg (.recStage i) (BitVec.ofNat 64 (ofBytes ((r.drop (8 * i)).take 8)))) base
  { s.setFlds .recPos [(.X, x), (.Y, y)] with straps := some (0, 3) }

theorem witness_InstallationRecord :
    let good := record 0x4C545349 7 2
    let s := staging good 3 6
    let busy := { s.setFlag .recStatus .BUSY true with start := { s.start with commit := some (good, 3, 6) } }
    let result := fun (s : State) (n : Nat) => gives (exec .recordCommit s) fun t => t.fld .recStatus .RESULT = n ∧ !t.flag .recStatus .BUSY
    let tray := fun (i : Nat) (r : List Byte) => base.setTray i { record := some (r, 1, 0), path := .none }
    s.staged = good ∧ good.length = 128 ∧
    gives (exec .recordCommit s) (fun t => t.flag .recStatus .BUSY ∧ t.start.commit = some (good, 3, 6)) = true ∧
    answers (exec .recordCommit busy) busy = true ∧ gives (exec .recordCommit (s.setFlag .idPosition .RECORD_VALID true)) (fun t => t.flag .idStatus .WO_VIOLATION) = true ∧
    result (staging (record 5 7 2) 3 6) 2 = true ∧ result (staging (record 0x4C545349 6 2) 3 6) 3 = true ∧ result (staging (record 0x4C545349 7 5) 3 6) 4 = true ∧
    result (staging good 8 6) 5 = true ∧ result (staging good 3 12) 5 = true ∧ result (staging good 2 6) 6 = true ∧
    answers (exec (.recordCommitDone true) s) s = true ∧
    gives (exec (.recordCommitDone false) busy) (fun t => t.fld .recStatus .RESULT = 7 ∧ t.perm.record = none) = true ∧
    gives (exec (.recordCommitDone true) busy) (fun t => t.fld .recStatus .RESULT = 1 ∧ t.perm.record = some (good, 3, 6) ∧ t.fld .idPosition .X = 3 ∧ t.fld .idPosition .Y = 6 ∧
      t.flag .idPosition .RECORD_VALID) = true ∧
    answers (exec (.switchTrayRecordWrite 0 (record 5 7 2) 0 0 true) base) base = true ∧
    answers (exec (.switchTrayRecordWrite 0 good 4 0 true) base) base = true ∧
    gives (exec (.switchTrayRecordWrite 0 good 3 32 true) base) (fun t => (t.tray 0).record = some (good, 3, 32)) = true ∧
    gives (exec (.switchTrayPowerOn 1) (tray 1 good)) (fun t => (t.tray 1).path = .loop) = true ∧
    gives (exec (.switchTrayPowerOn 1) (tray 1 (record 0x4C545349 15 2))) (fun t => (t.tray 1).path = .optic) = true ∧
    gives (exec (.switchTrayPowerOn 3) base) (fun t => (t.tray 3).path = .none) = true := by decide +kernel

/-! ### Words (Tables 5-2 to 5-17) and the refusals of WellFormed -/

/-- The words of the worked case of chapter 5. -/
theorem test_decode_worked :
    decodeNib 3 0x10C8000000050103 = some (.or 3 4 0 (.imm 0x50103)) ∧ decodeNib 3 0x90C000000C800000 = some (.kset 3 0 0 200 0) ∧
    decodeNib 3 0x800C42D0C8000000 = some (.dispatch 3 6 4 5 true false true 200) ∧ decodeNib 3 0x3000600000000005 = some (.beq 3 6 0 5) ∧
    decodeNib 3 0x904E00000C800000 = some (.kwait 3 7 0 0 0 false 200 0) ∧ decodeNib 3 0x8850600000000000 = some (.cwait 3 8 6) ∧
    decodeNib 3 0x8892600000000000 = some (.cretire 3 9 6) ∧ decodeNib 3 0xA880000000000000 = some (.endProg 3) ∧
    decodeNib 3 0xA8C0000000000000 = some (.trap 3 0) := by decide +kernel

/-- A word of each class, its fields laid out from Table 5-2. -/
theorem test_decode_classes :
    decodeNib 0 0x08422f8000000000 = some (.sub 0 1 2 (.reg 31)) ∧ decodeNib 0 0x0b8a600000000000 = some (.clz 0 5 6) ∧
    decodeNib 0 0x1982218000000000 = some (.remu 0 1 2 3) ∧ decodeNib 0 0x21864000fffffff8 = some (.lwu 0 3 4 0xfffffff8) ∧
    decodeNib 0 0x28c0110000000008 = some (.sd 0 1 2 8) ∧ decodeNib 0 0x31401100ffffffff = some (.bgeu 0 1 2 0xffffffff) ∧
    decodeNib 0 0x3842200000000004 = some (.jalr 0 1 2 4) ∧ decodeNib 0 0x44448c3a00000000 = some (.vsel 0 { vd := 1, vs1 := 2, b := .vec 3, pg := 7, et := .fp32 }) ∧
    decodeNib 0 0x4004800126000000 = some (.vadd 0 { vd := 1, vs1 := 2, b := .scal 9, pg := 0, et := .i32 }) ∧
    decodeNib 0 0x48ffb70a80000000 = some (.vfma 0 { vd := 15, vs1 := 14, b := .vec 13, pg := 1, et := .fp16 } 12) ∧
    decodeNib 0 0x500c00141dffffff = some (.vld 0 { v := 3, rs := 7, imm25 := 0x1ffffff, pg := 2, et := .e5m2 }) ∧
    decodeNib 0 0x5800c0141c000010 = some (.vst 0 { v := 3, rs := 7, imm25 := 16, pg := 2, et := .e5m2 }) ∧
    decodeNib 0 0x604100002400003f = some (.vext 0 9 4 .i8 63) ∧ decodeNib 0 0x6101000924000000 = some (.vredadd 0 9 4 1 .i32) ∧
    decodeNib 0 0x6914481880000000 = some (.vcmpLtu 0 { pd := 5, vs1 := 1, b := .vec 2, pg := 3, et := .i16 }) ∧
    decodeNib 0 0x6cdd940000000000 = some (.pandn 0 7 6 5) ∧ decodeNib 0 0x6d41c0000c000000 = some (.ptos 0 3 7) ∧
    decodeNib 0 0x704480038000151a = some (.vcvtw 0 { vd := 1, vs1 := 2, pg := 0, et := .e4m3, dt := .fp16, u := true, part := 1, sat := true, rm := .stochastic }) ∧
    decodeNib 0 0x70c4800200000089 = some (.qpack 0 { vd := 1, vs1 := 2, et := .fp32, qf := .qb4, sat := true, rm := .zero }) ∧
    decodeNib 0 0x7806000000000006 = some (.mfs 0 3 .cycle) ∧ decodeNib 0 0x7840300000000000 = some (.mts 0 3 .evec) ∧
    decodeNib 0 0x8802200000000003 = some (.cread 0 1 2 3) ∧ decodeNib 0 0x91001101ffffffff = some (.kthr 0 1 2 0x1fff 0xfffff) ∧
    decodeNib 0 0x980221820050000f = some (.bsend 0 1 2 3 true 5 15) ∧ decodeNib 0 0xa086000000000000 = some (.sstep 0 3) ∧
    decodeNib 0 0xa900000000000000 = some (.eret 0) := by decide +kernel

/-- Reserved classes, opcodes and bits that must be zero. -/
theorem test_decode_reserved :
    decodeNib 0 0 = none ∧ decodeNib 0 0xB000000000000000 = none ∧ decodeNib 0 0x0F80000000000000 = none ∧ decodeNib 0 0x08422f8000000001 = none ∧
    decodeNib 0 0x44448c3a00000001 = none ∧ decodeNib 0 0x4004800126000000 ≠ none ∧ decodeNib 0 0x4004840126000000 = none := by decide +kernel

/-- One ill-formed term for each check of WellFormed. -/
theorem test_wellFormed_refuses :
    let b : VBin := { vd := 1, vs1 := 2, b := .vec 3, pg := 0, et := .fp32 }
    let i : VBin := { b with et := .i8 }
    let c : VCmpOp := { pd := 1, vs1 := 2, b := .vec 3, pg := 0, et := .fp32 }
    let v : CvtOp := { vd := 1, vs1 := 2, pg := 0, et := .fp32, dt := .e4m3, u := true, part := 0, sat := true, rm := .nearest }
    let q : QOp := { vd := 1, vs1 := 2, et := .i8, qf := .qb8, sat := false, rm := .nearest }
    (Instr.vadd 0 b).wellFormed = false ∧ (Instr.vadd 0 i).wellFormed = true ∧ (Instr.vfadd 0 i).wellFormed = false ∧ (Instr.vfabs 0 1 2 0 .i8).wellFormed = false ∧
    (Instr.vext 0 1 2 .i64 8).wellFormed = false ∧ (Instr.vext 0 1 2 .i64 7).wellFormed = true ∧ (Instr.vins 0 1 2 .i8 63).wellFormed = true ∧
    (Instr.vredadd 0 1 2 0 .fp32).wellFormed = false ∧ (Instr.vfredadd 0 1 2 0 .i8).wellFormed = false ∧ (Instr.vcmpEq 0 c).wellFormed = false ∧
    (Instr.vcmpFeq 0 { c with et := .i8 }).wellFormed = false ∧ (Instr.vcvtw 0 v).wellFormed = false ∧ (Instr.qpack 0 q).wellFormed = false ∧
    (Instr.mts 0 1 .cycle).wellFormed = false ∧ (Instr.dispatch 0 1 2 3 false false false 1).wellFormed = false ∧ (Instr.kwait 0 1 2 3 4 true 0 0).wellFormed = false ∧
    (Instr.registerWrite 0 0 []).wellFormed = false ∧ (Instr.registerWrite 0 0 (List.replicate 9 0)).wellFormed = false ∧
    (Instr.dramPartialWrite (.nib 0) 0 0 (List.replicate 64 0) .clean).wellFormed = false ∧ (Instr.bobbinArrival 0 [{ src := .core 0, ctx := 0, data := [1] }]).wellFormed = false ∧
    (Instr.remoteBobbinMessage 0 0 (List.replicate 16 0)).wellFormed = true := by decide +kernel

/-! ### Further witnesses of the statements above -/

/-- `hosted`, core 0 idle with posts. -/
def hostedIdle (ps : List Post) : State := hosted.setCore 0 { runner with st := .idle, postQ := ps }

/-- StalledInstructionsResume, NibRunsStart, NibBindingDrainsAndFailures, ConversionsComplete: WAIT = 0, a bobbin lost, a record on a HOST
page, a failing drain of two entries, the spare core, a pool that is not enabled. -/
theorem witness_NibWaitsAndFailures :
    let w := fun (n : Nat) => waits fullQueue (.dispatch 7 0x100 0 false (n = 1) none)
    let lost := waits base (.brecv 6 3 16 0x2000)
    let none' := waits (bobbined base 3 []) (.brecv 6 3 16 0x2000)
    let p : Post := { arg := .desc 0x2010020, handle := 9, crec := true, knot := none, held := false, delayed := false }
    let two := withCore fun k => { k with stores := [[{ host := false, mcomp := false, cells := [(0x4003000, 1)] }], [{ host := false, mcomp := false, cells := [(0x4004000, 2)] }]] }
    fullQueue.judge 0 0x100 false none = .queueFull ∧
    gives (exec (.stalledDispatchAccept (.nib 0)) (w 0)) (fun t => (t.core 0).dstat = 0x014 ∧ t.waiting = []) = true ∧
    answers (exec (.stalledDispatchAccept (.nib 0)) (w 1)) (w 1) = true ∧
    gives (exec (.brecvWake 0) lost) (fun t => (t.core 0).sreg 6 = 0x10 ∧ t.waiting = []) = true ∧ answers (exec (.brecvWake 0) none') none' = true ∧
    gives (exec (.nibRunStart 0) (hostedIdle [p])) (fun t => (t.core 0).wait = .postRead p ∧ t.hostReads.map HostRead.len = [32]) = true ∧
    gives (exec (.storeDrain 0) (two.setPoison 0x1000C0 true)) (fun t => (t.core 0).stores = [] ∧ t.byteAt 0x4004000 = 2 ∧ t.fld (.ctxfCause 0) .CAUSE = 3) = true ∧
    base.logicalCore 0 8 = none ∧ gives (exec (.nibCoreFailure 0 8 .storeParity) base) (fun t => t.perm.defects.length = 1 ∧ t.nib = base.nib ∧ t.flag (.nibStatus 0) .FAILED) = true ∧
    Executes vectored (fetched vectored) 0 ∧ gives (exec (.vcvtn 0 { cvt with rm := .stochastic }) vectored) (fun t => t.fld (.ctxwNibExc 0) .CAUSE = 1) = true := by
  refine ⟨?_, ?_, ?_, ?_, ?_, ?_, ?_, ?_, ?_, executes ?_ ?_, ?_⟩ <;> decide +kernel

/-- HomeAccesses, LineAccessesAndScrub: a poisoned line held modified; an uncorrectable Well line. -/
theorem witness_OwnedLines :
    let own := fun (dirty : Bool) => { (base.setPoison 0x400 true) with dir := [{ line := 0x400, dies := [0], owned := true, dirty := dirty, mcomp := false, ctx := 0 }] }
    let well := (base.setFld (.tmemScrub 31) .PERIOD_MIN 1).setScrub 31 (2 ^ 27)
    gives (exec (.dramRead (.aperture none) 0x400 .uncorrectable) (own true)) (fun t => t.outbox = [.memReply 0x10000 0 (base.bytesAt 0x10000 64)] ∧ !t.ownedLine 0x400) = true ∧
    ((own true).homeWrite (some 0) false (cellsFrom 0x10001 [7])).2 = true ∧ ((own true).homeWrite (some 0) false (cellsFrom 0x10001 [7])).1.poisoned 0x400 = false ∧
    gives (exec (.scrubLine 31 .uncorrectable 7) well) (fun t => t.flag (.tmemUeLog 31) .VALID ∧ t.scrubAt 31 = 2 ^ 27 + 1) = true := by decide +kernel

/-- InvalidationHostAndFabric: an invalidation whose context still reads the host, and one that drains its stores. -/
theorem witness_InvalidationWaits :
    answers (exec .invalidationDone { loading with inval := some 0 }) { loading with inval := some 0 } = true ∧
    gives (exec .invalidationDone { stores 1 with inval := some 0 }) (fun t => t.inval = none ∧ (t.core 0).stores = [] ∧ t.byteAt 0x4003000 = 1) = true := by decide +kernel

/-- InvalidationHostAndFabric: accesses of a hart and a core to a HOST page. -/
theorem witness_HostPages :
    let host := fun (s : State) => { (s.setFlag .ioPcieStat .LINK_UP true) with fn := hosted.fn }
    let h := host (quill 0)
    h.canIssue 0 = true ∧
    gives (exec (.hostPageAccess (.hart 0) 0x2010010 .atomic) h) (fun t => (t.hartOf 0).csrAt 0x342 = 7) = true ∧
    (h.putCells (word 0x40010 0x1001F)).walk 0 0x2020010 false true = .host 0x10010 ∧
    gives (exec (.hostPageAccess (.hart 0) 0x2020010 .fetch) (h.putCells (word 0x40010 0x1001F))) (fun t => (t.hartOf 0).csrAt 0x342 = 1) = true := by decide +kernel

theorem witness_HostReadsFail :
    let caught := loading.setCore 0 { loading.core 0 with evec := 0x5000 }
    gives (exec (.hostReadCompletion 7 .ur []) caught) (fun t => (t.core 0).handler ∧ (t.core 0).pc = 0x5000 ∧ (t.core 0).ecause = 5) = true := by decide +kernel

theorem witness_HostReadPoisoned :
    gives (exec (.hostReadCompletion 7 .poisoned []) loading) (fun t => t.fld (.ctxwNibExc 0) .CAUSE = 7) = true := by decide +kernel

/-- A link whose next replay is the 16th in a row, on a package that has not failed. -/
theorem witness_SixteenthReplay : smGet (fun _ => 0) { base with replays := [(3, 15)] }.replays 3 + 1 = 16 ∧ { base with replays := [(3, 15)] }.failed = false := by
  decide +kernel

theorem witness_QpostHostPage :
    let ps := { ((poster 0x2010020).setFlag .ioPcieStat .LINK_UP true) with fn := hosted.fn }
    gives (exec (.qpost 0 3 1 2) (poster 0x2010020)) (fun t => (t.hartOf 0).cbits 0x7C3 7 0 = 0x11) = true ∧
    gives (exec (.qpost 0 3 1 2) ps) (fun t => (t.hartOf 0).wait = .qpostRead 3 0x2010020 0 ∧ t.hostReads.length = 1) = true ∧
    gives (exec (.hartRun 0 { bound := false, ctx := 0, resetPc := 0 }) (quill 0)) (fun t => t.flag (.quillStatus 0) .BIND_REFUSED ∧ (t.hartOf 0).st = .running) = true := by decide +kernel

/-- ScheduleImages, StrokeBoundaryAndWindow, LinksAndSymbols: images given up, entries before their time and of the Feed engine, a port heard. -/
theorem witness_ImagesGivenUpAndPorts :
    let at' := fun (p : ImagePhase) => (stroking base).setImage 0 { Image.empty with phase := p }
    let armed := fun (s : State) => s.setFlag (.strokeImage 0) .ARM true
    let i := imageAtWork 0
    let early := i.setFld .strokePhase .PHASE 256000
    let feedEntry := fun (n : Nat) => ((i.setFlds (.feedCh 0 0) [(.OWNED, 1), (.CTX, 0)]).setFeedCh 0 { FeedCh.idle with queue := List.replicate n (work 0x2000) }).setImage 0
      { i.image 0 with works := [{ step := 0, startNs := 2000, target := 0x10000, addr := 0x3000, arg := 0 }] }
    let heard := (linked.setPort 2 { linked.port 2 with framed := true }).setLink 8 { linked.link 8 with sync := some (15, 95) }
    let fenced := linked.setImage 0 { Image.empty with phase := .armed, slots := [{ step := 0, startNs := 320, lenNs := 320, portMode := 2 }] }
    gives (exec (.imageArm 0 1) (at' .dropped)) (fun t => t.flag .strokeStatus .ARM_REFUSED ∧ (t.image 0).phase = .dropped) = true ∧
    gives (exec (.imageDisarm 0 1) (armed (at' .validating))) (fun t => (t.image 0).phase = .dropped) = true ∧
    gives (exec (.imageDisarm 0 1) (armed (base.setImage 0 { Image.empty with phase := .armed }))) (fun t => (t.image 0).phase = .none ∧ t.fld (.strokeImgStat 0) .STATUS = 2) = true ∧
    answers (exec (.workListStart 0 0) early) early = true ∧
    gives (exec (.workListStart 0 0) (feedEntry 15)) (fun t => (t.feedCh 0).queue.length = 16) = true ∧
    gives (exec (.workListStart 0 0) (feedEntry 16)) (fun t => t.fld (.ctxfCause 0) .CAUSE = 6) = true ∧
    (heard.portOffset 2).flag (.strokeOffset 2) .VALID = true ∧ (heard.portOffset 2).fld (.strokeOffset 2) .DELAY = 95 ∧
    ((heard.setPort 2 { heard.port 2 with missed := 1 }).portOffset 2).flag (.strokeOffset 2) .VALID = false ∧
    fenced.comparedOn 2 = [0] ∧
    linked.comparedOn 2 = [] ∧ gives (exec (.fenceSymbol 2 5) linked) (fun t => t.portIs 2 = 5 ∧ t.fld (.portState 2) .CAUSE = 5) = true := by decide +kernel

/-- ArrayAllocationAndFailure, TambourWorks, FeedChannelsAndTriggers: a spare; descriptors on a HOST page. -/
theorem witness_SparesAndHostDescriptors :
    let spare := weaver 32
    let queued := fun (s : State) => s.setFeedCh 2048 { FeedCh.idle with queue := [work 0x2010040] }
    spare.logicalArray 0 16 = none ∧
    gives (exec (.arrayFailure 0 16 .operandParity []) spare) (fun t => t.deadSpares = [(0, 16)] ∧ t.tamb = spare.tamb ∧ t.perm.defects.length = 1) = true ∧
    answers (exec (.arrayFailure 0 16 .operandParity []) { spare with deadSpares := [(0, 16)] }) { spare with deadSpares := [(0, 16)] } = true ∧
    gives (exec (.tambourWorkStart 0 1) ((hosted.setFld (.tambArray 0 1) .STATE 0).setTamb 1 { TambArray.idle with queue := [work 0x2010040] })) (fun t =>
      (t.tambOf 1).cur.isNone ∧ t.hostReads.length = 1) = true ∧
    gives (exec (.feedWorkStart 32 0) (queued hosted)) (fun t => (t.feedCh 2048).cur.map FeedCur.reading = some (some 0x2010040) ∧ t.hostReads.length = 1) = true := by decide +kernel

end Sys2Proof.Tests
end

section
/-!
Bytes as memory holds them: what stored cells read back as, and numbers as bytes, lowest first (R7, R79).
-/
namespace Sys2Proof.Proofs
open Sys2Proof.Machine Sys2Proof.Laws

/-! ### Cells stored -/

theorem putCells_cons (s : State) (c : Host.Cell) (cs : List Host.Cell) :
    s.putCells (c :: cs) = (s.putCells [c]).putCells cs := rfl

/-- Storing cells keeps memory canonical. -/
theorem putCells_mem_canonical (s : State) (cs : List Host.Cell) (h : smWf memDefault s.mem = true) :
    smWf memDefault (s.putCells cs).mem = true := smWf_foldl_smSet cs h

/-- An address no stored cell names reads as before. -/
theorem byteAt_putCells_of_not_mem (s : State) (cs : List Host.Cell) {a : Nat} (h : a ∉ cs.map Prod.fst) :
    (s.putCells cs).byteAt a = s.byteAt a :=
  byteAt_putCells_other s cs fun _ hc e => h (List.mem_map.mpr ⟨_, hc, e⟩)

/-- Of cells of distinct addresses, each address reads its byte. -/
theorem byteAt_putCells_of_mem (s : State) (cs : List Host.Cell) (h : (cs.map Prod.fst).Nodup) :
    ∀ x ∈ cs, (s.putCells cs).byteAt x.1 = x.2 := by
  induction cs generalizing s with
  | nil => simp
  | cons c cs ih =>
    rw [List.map_cons, List.nodup_cons] at h
    rw [putCells_cons]
    intro x hx
    rcases List.mem_cons.mp hx with rfl | hx
    · rw [byteAt_putCells_of_not_mem _ _ h.1]
      exact byteAt_putCells_one s _ _
    · exact ih _ h.2 x hx

/-- Consecutive cells have the addresses from a on. -/
theorem map_fst_cellsFrom (a : Nat) (bs : List Byte) : (cellsFrom a bs).map Prod.fst = List.range' a bs.length := by
  induction bs generalizing a with
  | nil => rfl
  | cons b bs ih => rw [cellsFrom, List.map_cons, ih, List.length_cons, List.range'_succ]

theorem mem_cellsFrom_getElem (a : Nat) (bs : List Byte) (i : Nat) (h : i < bs.length) : (a + i, bs[i]) ∈ cellsFrom a bs := by
  induction bs generalizing a i with
  | nil => simp at h
  | cons b bs ih =>
    cases i with
    | zero => exact List.mem_cons_self
    | succ i =>
      have hi := ih (a + 1) i (by simpa using h)
      rw [show a + 1 + i = a + (i + 1) by omega] at hi
      exact List.mem_cons_of_mem _ hi

/-- The i-th of consecutive bytes stored reads back. -/
theorem byteAt_putCells_cellsFrom (s : State) (a : Nat) (bs : List Byte) (i : Nat) (h : i < bs.length) :
    (s.putCells (cellsFrom a bs)).byteAt (a + i) = bs[i] :=
  byteAt_putCells_of_mem s _ (by rw [map_fst_cellsFrom]; exact List.nodup_range') _ (mem_cellsFrom_getElem a bs i h)

@[simp] theorem length_bytesAt (s : State) (a n : Nat) : (s.bytesAt a n).length = n := by simp [State.bytesAt]

theorem getElem_bytesAt (s : State) (a n i : Nat) (h : i < (s.bytesAt a n).length) : (s.bytesAt a n)[i] = s.byteAt (a + i) := by
  simp [State.bytesAt]

/-- Bytes that agree are the same list of bytes. -/
theorem bytesAt_congr {s t : State} {a n : Nat} (h : ∀ i < n, t.byteAt (a + i) = s.byteAt (a + i)) : t.bytesAt a n = s.bytesAt a n :=
  List.map_congr_left fun i hi => h i (List.mem_range.mp hi)

/-- Consecutive bytes stored read back. -/
theorem bytesAt_putCells_cellsFrom (s : State) (a : Nat) (bs : List Byte) : (s.putCells (cellsFrom a bs)).bytesAt a bs.length = bs :=
  List.ext_getElem (length_bytesAt ..) fun i _ h => by rw [getElem_bytesAt, byteAt_putCells_cellsFrom s a bs i h]

/-- A number stored as n bytes reads back modulo 2⁸ⁿ. -/
theorem wordAt_putCells_toBytes (s : State) (a n v : Nat) : (s.putCells (cellsFrom a (toBytes n v))).wordAt a n = v % 2 ^ (8 * n) := by
  have h := bytesAt_putCells_cellsFrom s a (toBytes n v)
  rw [length_toBytes] at h
  rw [State.wordAt, h, ofBytes_toBytes]

/-- At reset every byte reads 0 (notes/assumptions/1). -/
theorem byteAt_reset (a : Nat) : State.reset.byteAt a = 0 := rfl

/-- Settles O36: each clause is one of the rules above. -/
theorem memoryKeepsItsCanonicalForm : Obligations.MemoryKeepsItsCanonicalForm :=
  ⟨putCells_mem_canonical,
   fun s cs h => ⟨byteAt_putCells_of_mem s cs h, fun _ => byteAt_putCells_of_not_mem s cs⟩,
   wordAt_putCells_toBytes, reset_mem_canonical, byteAt_reset⟩

end Sys2Proof.Proofs
end

section
/-!
Register fields and events: fields of a register lie apart, what a field reads after a flag or a field is written, and the registers an event
leaves alone.
-/
namespace Sys2Proof.Proofs
open Sys2Proof.Machine Sys2Proof.Laws

/-! ### Where fields lie -/

/-- Two fields share no bit. -/
def FieldsApart (f g : Field) : Prop := f.hi < g.lo ∨ g.hi < f.lo

/-- The layout of a register, as a computation: every field in bits 63 to 0, and no two with a bit in common. -/
def layoutOk : List Field → Bool
  | [] => true
  | f :: fs => Nat.ble f.lo f.hi && Nat.blt f.hi 64 && (fs.all fun g => Nat.blt f.hi g.lo || Nat.blt g.hi f.lo) && layoutOk fs

theorem layoutOk_cons {f : Field} {fs : List Field} (h : layoutOk (f :: fs) = true) :
    (f.lo ≤ f.hi ∧ f.hi < 64) ∧ (∀ g ∈ fs, FieldsApart f g) ∧ layoutOk fs = true := by
  simpa [layoutOk, FieldsApart, and_assoc, Nat.ble_eq, Nat.blt_eq] using h

/-- Every register is laid out so (Tables 1-9 to 18-8). -/
theorem layoutOk_fields (r : Reg) : layoutOk r.fields = true := by cases r <;> rfl

theorem bounds_of_layoutOk {fs : List Field} (h : layoutOk fs = true) : ∀ f ∈ fs, f.lo ≤ f.hi ∧ f.hi < 64 := by
  induction fs with
  | nil => simp
  | cons x fs ih =>
    obtain ⟨hx, -, hfs⟩ := layoutOk_cons h
    exact List.forall_mem_cons.mpr ⟨hx, ih hfs⟩

theorem pairwise_of_layoutOk {fs : List Field} (h : layoutOk fs = true) : fs.Pairwise FieldsApart := by
  induction fs with
  | nil => exact .nil
  | cons x fs ih =>
    obtain ⟨-, hx, hfs⟩ := layoutOk_cons h
    exact .cons hx (ih hfs)

/-- A field lies in bits 63 to 0. -/
theorem field_bounds {r : Reg} {f : Field} (hf : f ∈ r.fields) : f.lo ≤ f.hi ∧ f.hi < 64 := bounds_of_layoutOk (layoutOk_fields r) f hf

/-- Two fields of a register share no bit. -/
theorem fields_apart {r : Reg} {f g : Field} (hf : f ∈ r.fields) (hg : g ∈ r.fields) (h : f ≠ g) : FieldsApart f g :=
  have : Std.Symm FieldsApart := ⟨fun _ _ => Or.symm⟩
  (pairwise_of_layoutOk (layoutOk_fields r)).forall hf hg h

/-- Does the register have a field of the name? -/
def hasField (r : Reg) (n : FName) : Bool := (r.fields.find? fun f => f.name = n).isSome

/-- The place of a field that the register has is the place of one of its fields of that name. -/
theorem pos_of_hasField {r : Reg} {n : FName} (h : hasField r n = true) : ∃ f ∈ r.fields, f.name = n ∧ r.pos n = (f.hi, f.lo) := by
  obtain ⟨f, hf⟩ := Option.isSome_iff_exists.mp h
  exact ⟨f, List.mem_of_find?_eq_some hf, by simpa using List.find?_some hf, by rw [Reg.pos, hf]⟩

/-- A register's field names differ, as a computation: each field is found by its name. -/
theorem fields_found (r : Reg) : (r.fields.all fun f => r.pos f.name == (f.hi, f.lo)) = true := by cases r <;> rfl

theorem pos_of_mem {r : Reg} {f : Field} (hf : f ∈ r.fields) : r.pos f.name = (f.hi, f.lo) :=
  eq_of_beq (List.all_eq_true.mp (fields_found r) f hf)

/-- Every name has its place in bits 63 to 0. -/
theorem pos_bounds (r : Reg) (n : FName) : (r.pos n).2 ≤ (r.pos n).1 ∧ (r.pos n).1 < 64 := by
  by_cases h : hasField r n = true
  · obtain ⟨f, hf, -, hp⟩ := pos_of_hasField h
    rw [hp]; exact field_bounds hf
  · rw [hasField, Option.not_isSome_iff_eq_none] at h
    rw [Reg.pos, h]; decide

/-- Fields of two names have places apart. -/
theorem pos_apart {r : Reg} {m n : FName} (hm : hasField r m = true) (hn : hasField r n = true) (h : n ≠ m) :
    (r.pos n).1 < (r.pos m).2 ∨ (r.pos m).1 < (r.pos n).2 := by
  obtain ⟨f, hf, rfl, hpf⟩ := pos_of_hasField hm
  obtain ⟨g, hg, rfl, hpg⟩ := pos_of_hasField hn
  rw [hpf, hpg]
  exact fields_apart hg hf fun e => h (e ▸ rfl)

/-! ### A field read after a field is written -/

/-- A field set reads back modulo its width. -/
theorem fld_setFld (s : State) (r : Reg) (f : FName) (v : Nat) :
    (s.setFld r f v).fld r f = v % 2 ^ ((r.pos f).1 + 1 - (r.pos f).2) :=
  fld_setFld_same s r f v (pos_bounds r f).1 (pos_bounds r f).2

/-- Another field of the register is as it was. -/
theorem fld_setFld_ne (s : State) (r : Reg) {f g : FName} (v : Nat) (hf : hasField r f = true) (hg : hasField r g = true) (h : g ≠ f) :
    (s.setFld r f v).fld r g = s.fld r g :=
  fld_setFld_disjoint s r v (by have := (pos_bounds r f).1; omega) (pos_bounds r g).2 (pos_apart hf hg h)

theorem fld_congr {s t : State} {r : Reg} (h : t.reg r = s.reg r) (f : FName) : t.fld r f = s.fld r f := by rw [State.fld, h, State.fld]

theorem flag_congr_fld {s t : State} {r : Reg} {f : FName} (h : t.fld r f = s.fld r f) : t.flag r f = s.flag r f := by
  rw [State.flag, h, State.flag]

theorem flag_congr {s t : State} {r : Reg} (h : t.reg r = s.reg r) (f : FName) : t.flag r f = s.flag r f := flag_congr_fld (fld_congr h f)

/-- A one-bit field set reads back. -/
theorem flag_setFlag (s : State) (r : Reg) (f : FName) (b : Bool) (h : (r.pos f).1 = (r.pos f).2) : (s.setFlag r f b).flag r f = b := by
  rw [State.flag, State.setFlag, fld_setFld, h, Nat.add_sub_cancel_left]
  cases b <;> rfl

theorem fld_setFlag_ne (s : State) (r : Reg) {f g : FName} (b : Bool) (hf : hasField r f = true) (hg : hasField r g = true) (h : g ≠ f) :
    (s.setFlag r f b).fld r g = s.fld r g := fld_setFld_ne s r _ hf hg h

theorem flag_setFlag_ne (s : State) (r : Reg) {f g : FName} (b : Bool) (hf : hasField r f = true) (hg : hasField r g = true) (h : g ≠ f) :
    (s.setFlag r f b).flag r g = s.flag r g := flag_congr_fld (fld_setFlag_ne s r b hf hg h)

theorem reg_setFlag_other (s : State) {r q : Reg} (f : FName) (b : Bool) (h : q.addr ≠ r.addr) : (s.setFlag r f b).reg q = s.reg q :=
  reg_setReg_other s _ h

/-! ### Events of vectors -/

/-- A message writes no register but its PBA word. -/
theorem reg_message (s : State) (f v : Nat) {q : Reg} (h : q.addr ≠ (pbaReg f v).addr) : (s.message f v).reg q = s.reg q := by
  unfold State.message
  split
  · rfl
  · split
    · exact reg_setReg_other _ _ h
    · rfl

/-- An event of a vector writes no register but its ARMED, PEND and PBA words. -/
theorem reg_vectorEvent (s : State) (f v : Nat) {q : Reg} (ha : q.addr ≠ (armedReg f v).addr) (hd : q.addr ≠ (pendReg f v).addr)
    (hp : q.addr ≠ (pbaReg f v).addr) : (s.vectorEvent f v).reg q = s.reg q := by
  unfold State.vectorEvent
  split
  · rw [reg_message _ _ _ hp]; exact reg_setReg_other _ _ ha
  · exact reg_setReg_other _ _ hd

/-- An event leaves memory. -/
theorem mem_vfEvent (s : State) (c v : Nat) : (s.vfEvent c v).mem = s.mem := by
  have h := events_vfEvent s c v
  rw [Events] at h
  rw [h]

end Sys2Proof.Proofs
end

section
/-!
The completion ring: what its lock, its initialisation and its unlock leave, and which writes reach its slots (R121, R124, R137, R138).
-/
namespace Sys2Proof.Proofs
open Sys2Proof.Machine Sys2Proof.Laws

/-! ### CTXW.CMPL and CTXW.CMPL_STAT -/

theorem cmplStat_addr_ne_cmpl (c : Nat) : (Reg.ctxwCmplStat c).addr ≠ (Reg.ctxwCmpl c).addr := by simp only [Reg.addr]; omega

/-- Vector 11, that of the ring, writes neither register. -/
theorem reg_cmpl_vfEvent (s : State) (c : Nat) : (s.vfEvent c 11).reg (.ctxwCmpl c) = s.reg (.ctxwCmpl c) :=
  reg_vectorEvent _ _ _ (by simp [armedReg, Reg.addr]) (by simp [pendReg, Reg.addr]) (by simp [pbaReg, Reg.addr])

theorem reg_cmplStat_vfEvent (s : State) (c : Nat) : (s.vfEvent c 11).reg (.ctxwCmplStat c) = s.reg (.ctxwCmplStat c) :=
  reg_vectorEvent _ _ _ (by simp [armedReg, Reg.addr]) (by simp [pendReg, Reg.addr]) (by simp [pbaReg, Reg.addr])

/-- A flag of CTXW.CMPL_STAT leaves CTXW.CMPL. -/
theorem reg_cmpl_setFlag_stat (s : State) (c : Nat) (f : FName) (b : Bool) :
    (s.setFlag (.ctxwCmplStat c) f b).reg (.ctxwCmpl c) = s.reg (.ctxwCmpl c) := reg_setFlag_other s f b (cmplStat_addr_ne_cmpl c).symm

/-- SLOTS_LOG2 and BASE written read back; LOCK stays. -/
theorem fld_writeRing (s : State) (c : Nat) {g base : Nat} (hg : g < 2 ^ 4) (hb : base < 2 ^ 37) :
    (s.writeRing c g base).fld (.ctxwCmpl c) .SLOTS_LOG2 = g ∧ (s.writeRing c g base).fld (.ctxwCmpl c) .BASE = base := by
  refine ⟨?_, ?_⟩
  · rw [State.writeRing, fld_setFld_ne _ _ _ rfl rfl (by decide), fld_setFld]
    exact Nat.mod_eq_of_lt hg
  · rw [State.writeRing, fld_setFld]
    exact Nat.mod_eq_of_lt hb

theorem lock_writeRing (s : State) (c g base : Nat) : (s.writeRing c g base).flag (.ctxwCmpl c) .LOCK = s.flag (.ctxwCmpl c) .LOCK := by
  refine flag_congr_fld ?_
  rw [State.writeRing, fld_setFld_ne _ _ _ rfl rfl (by decide), fld_setFld_ne _ _ _ rfl rfl (by decide)]

/-! ### Lock and unlock (R137, R138) -/

/-- A refused write sets CFG_ERR and leaves CTXW.CMPL. -/
theorem reg_ringRefused (s : State) (c : Nat) : (s.ringRefused c).reg (.ctxwCmpl c) = s.reg (.ctxwCmpl c) := by
  rw [State.ringRefused, reg_cmpl_vfEvent, reg_cmpl_setFlag_stat]

theorem cfgErr_ringRefused (s : State) (c : Nat) : (s.ringRefused c).flag (.ctxwCmplStat c) .CFG_ERR = true := by
  rw [State.ringRefused, flag_congr (reg_cmplStat_vfEvent ..), flag_setFlag _ _ _ _ rfl]

/-- Frames kept, LOCK and INIT set: what a lock does once the fields are written. -/
def lockRing (s : State) (c : Nat) (fs : List Nat) : State :=
  ((s.setContext c { s.context c with ringFrames := fs }).setFlag (.ctxwCmpl c) .LOCK true).setFlag (.ctxwCmplStat c) .INIT true

theorem flags_lockRing (s : State) (c : Nat) (fs : List Nat) :
    (lockRing s c fs).flag (.ctxwCmpl c) .LOCK = true ∧ (lockRing s c fs).flag (.ctxwCmplStat c) .INIT = true := by
  refine ⟨?_, flag_setFlag _ _ _ _ rfl⟩
  rw [lockRing, flag_congr (reg_cmpl_setFlag_stat ..), flag_setFlag _ _ _ _ rfl]

/-- The fields of the ring stay. -/
theorem fld_lockRing (s : State) (c : Nat) (fs : List Nat) {f : FName} (hf : hasField (.ctxwCmpl c) f = true) (h : f ≠ .LOCK) :
    (lockRing s c fs).fld (.ctxwCmpl c) f = s.fld (.ctxwCmpl c) f := by
  rw [lockRing, fld_congr (reg_cmpl_setFlag_stat ..), fld_setFlag_ne _ _ _ rfl hf h]; rfl

theorem ringFrames_lockRing (s : State) (c : Nat) (fs : List Nat) : ((lockRing s c fs).context c).ringFrames = fs :=
  congrArg CtxState.ringFrames (context_setContext_same s c _)

/-- An unlocked ring that meets R137 is locked: LOCK and INIT are 1, the fields and the frames are kept. -/
theorem ringLock_of_map {s : State} {c g base : Nat} (hg : g < 2 ^ 4) (hb : base < 2 ^ 37) (hl : s.flag (.ctxwCmpl c) .LOCK = false)
    {fs : List Nat} (hm : (s.writeRing c g base).ringMap c = some fs) : let t := s.ringLock c g base
    t.flag (.ctxwCmpl c) .LOCK = true ∧ t.flag (.ctxwCmplStat c) .INIT = true ∧ t.fld (.ctxwCmpl c) .SLOTS_LOG2 = g ∧
      t.fld (.ctxwCmpl c) .BASE = base ∧ (t.context c).ringFrames = fs := by
  have e : s.ringLock c g base = lockRing (s.writeRing c g base) c fs := by simp [State.ringLock, hl, hm, lockRing]
  obtain ⟨hlock, hinit⟩ := flags_lockRing (s.writeRing c g base) c fs
  obtain ⟨hslots, hbase⟩ := fld_writeRing s c hg hb
  dsimp only
  rw [e, fld_lockRing _ _ _ rfl (by decide), fld_lockRing _ _ _ rfl (by decide)]
  exact ⟨hlock, hinit, hslots, hbase, ringFrames_lockRing ..⟩

/-- One that does not stays unlocked, with CFG_ERR. -/
theorem ringLock_of_no_map {s : State} {c g base : Nat} (hl : s.flag (.ctxwCmpl c) .LOCK = false)
    (hm : (s.writeRing c g base).ringMap c = none) :
    (s.ringLock c g base).flag (.ctxwCmpl c) .LOCK = false ∧ (s.ringLock c g base).flag (.ctxwCmplStat c) .CFG_ERR = true := by
  have e : s.ringLock c g base = (s.writeRing c g base).ringRefused c := by simp [State.ringLock, hl, hm]
  rw [e, flag_congr (reg_ringRefused ..), lock_writeRing]
  exact ⟨hl, cfgErr_ringRefused ..⟩

/-- A write of a locked ring's own fields changes nothing. -/
theorem ringLock_same {s : State} {c g base : Nat} (hl : s.flag (.ctxwCmpl c) .LOCK = true) (hg : s.fld (.ctxwCmpl c) .SLOTS_LOG2 = g)
    (hb : s.fld (.ctxwCmpl c) .BASE = base) : s.ringLock c g base = s := by simp [State.ringLock, hl, hg, hb]

/-- A write of other fields to a locked ring is a violation. -/
theorem ringLock_violation {s : State} {c g base : Nat} (hl : s.flag (.ctxwCmpl c) .LOCK = true)
    (h : s.fld (.ctxwCmpl c) .SLOTS_LOG2 ≠ g ∨ s.fld (.ctxwCmpl c) .BASE ≠ base) :
    (s.ringLock c g base).reg (.ctxwCmpl c) = s.reg (.ctxwCmpl c) ∧ (s.ringLock c g base).flag (.ctxwCmplStat c) .WO_VIOLATION = true := by
  have e : s.ringLock c g base = s.setFlag (.ctxwCmplStat c) .WO_VIOLATION true := by
    simp only [State.ringLock, hl, if_true]
    exact if_neg (by simpa using not_and_or.mpr h)
  rw [e]
  exact ⟨reg_cmpl_setFlag_stat .., flag_setFlag _ _ _ _ rfl⟩

/-- A ring in use stays locked, with CFG_ERR. -/
theorem ringUnlock_in_use {s : State} {c g base : Nat} (hl : s.flag (.ctxwCmpl c) .LOCK = true)
    (h : s.hasBound c = true ∨ s.fld (.ctxwCmplStat c) .PENDING ≠ 0) :
    (s.ringUnlock c g base).flag (.ctxwCmpl c) .LOCK = true ∧ (s.ringUnlock c g base).flag (.ctxwCmplStat c) .CFG_ERR = true := by
  have hlock : (s.ringRefused c).flag (.ctxwCmpl c) .LOCK = true := by rw [flag_congr (reg_ringRefused ..), hl]
  have hcfg := cfgErr_ringRefused s c
  unfold State.ringUnlock
  rw [if_pos (by simpa [hl] using h)]
  dsimp only
  split
  · exact ⟨hlock, hcfg⟩
  · rw [flag_congr (reg_cmpl_setFlag_stat ..), flag_setFlag_ne _ _ _ rfl rfl (by decide)]
    exact ⟨hlock, hcfg⟩

/-- A ring that nothing uses is unlocked, and takes the fields. -/
theorem ringUnlock_unused {s : State} {c g base : Nat} (hg : g < 2 ^ 4) (hb : base < 2 ^ 37) (hn : s.hasBound c = false)
    (hp : s.fld (.ctxwCmplStat c) .PENDING = 0) : let t := s.ringUnlock c g base
    t.flag (.ctxwCmpl c) .LOCK = false ∧ t.fld (.ctxwCmpl c) .SLOTS_LOG2 = g ∧ t.fld (.ctxwCmpl c) .BASE = base := by
  have e : s.ringUnlock c g base = (s.setFlag (.ctxwCmpl c) .LOCK false).writeRing c g base := by simp [State.ringUnlock, hn, hp]
  dsimp only
  rw [e]
  exact ⟨by rw [lock_writeRing, flag_setFlag _ _ _ _ rfl], fld_writeRing _ c hg hb⟩

/-! ### Slots (R121) -/

/-- How a slot stands, from its STATUS and READY bytes. -/
theorem slotState_bytesAt (s : State) (pa : Nat) : slotState (s.bytesAt pa 32) =
    if !(s.byteAt (pa + 9)).getLsbD 0 then .pending else if (s.byteAt (pa + 8)).toNat = 2 then .free else .complete := rfl

/-- A slot of STATUS STALE (2) with READY set is free. -/
theorem slotState_eq_free {s : State} {pa : Nat} (h8 : s.byteAt (pa + 8) = 2) (h9 : (s.byteAt (pa + 9)).getLsbD 0 = true) :
    slotState (s.bytesAt pa 32) = .free := by
  rw [slotState_bytesAt, h8, h9]; rfl

/-- READY set in a byte, its other bits as they were. -/
theorem getLsbD_zero_or_one (b : Byte) : (b ||| 1#8).getLsbD 0 = true := by simp

/-- The slot at pa is as initialisation leaves it: SEQ 0, STATUS STALE, READY. -/
def SlotInitialised (s : State) (pa : Nat) : Prop := s.wordAt pa 8 = 0 ∧ s.byteAt (pa + 8) = 2 ∧ (s.byteAt (pa + 9)).getLsbD 0 = true

theorem SlotInitialised.free {s : State} {pa : Nat} : SlotInitialised s pa → slotState (s.bytesAt pa 32) = .free
  | ⟨_, hstatus, hready⟩ => slotState_eq_free hstatus hready

/-- It depends on the bytes of the slot alone. -/
theorem SlotInitialised.congr {s t : State} {pa : Nat} (h : SlotInitialised s pa) (e : ∀ i < 32, t.byteAt (pa + i) = s.byteAt (pa + i)) :
    SlotInitialised t pa := by
  obtain ⟨hseq, hstatus, hready⟩ := h
  refine ⟨?_, (e 8 (by decide)).trans hstatus, by rw [e 9 (by decide)]; exact hready⟩
  rw [State.wordAt, bytesAt_congr fun i hi => e i (by omega)]; exact hseq

theorem byteAt_initSlot_outside (s : State) (pa : Nat) {a : Nat} (h : a < pa ∨ pa + 10 ≤ a) : (s.initSlot pa).byteAt a = s.byteAt a :=
  byteAt_putCells_outside s pa _ h

theorem slotInitialised_initSlot (s : State) (pa : Nat) : SlotInitialised (s.initSlot pa) pa := by
  have hbyte := byteAt_putCells_cellsFrom s pa (toBytes 8 0 ++ [2#8, s.byteAt (pa + 9) ||| 1#8])
  refine ⟨?_, hbyte 8 (by simp), ?_⟩
  · have hseq : (s.initSlot pa).bytesAt pa 8 = toBytes 8 0 := by
      refine List.ext_getElem (by simp) fun i hi _ => ?_
      rw [length_bytesAt] at hi
      rw [getElem_bytesAt, State.initSlot, hbyte i (by simp; omega), List.getElem_append_left]
    rw [State.wordAt, hseq]; rfl
  · rw [State.initSlot, hbyte 9 (by simp)]
    exact getLsbD_zero_or_one _

/-- Slots lie apart or are the same: initialising one keeps another that is initialised. -/
theorem SlotInitialised.initSlot {s : State} {pa qa : Nat} (h : SlotInitialised s pa) (hp : pa % 32 = 0) (hq : qa % 32 = 0) :
    SlotInitialised (s.initSlot qa) pa := by
  by_cases e : pa = qa
  · subst e; exact slotInitialised_initSlot ..
  · exact h.congr fun i hi => byteAt_initSlot_outside s qa (by omega)

/-- A slot's address depends on the ring's register and frames alone. -/
theorem slotPa_initSlot (s : State) (pa c i : Nat) : (s.initSlot pa).slotPa c i = s.slotPa c i := rfl

/-- In frames aligned to 32 every slot is. -/
theorem slotPa_aligned {s : State} {c : Nat} (h : ∀ f ∈ (s.context c).ringFrames, f % 32 = 0) (i : Nat) : s.slotPa c i % 32 = 0 := by
  have hchunk : 32 ∣ s.ringChunk c := by
    rw [State.ringChunk, State.ringBytes]
    rcases min_choice (32 * 2 ^ s.fld (.ctxwCmpl c) .SLOTS_LOG2) 0x10000 with e | e <;> rw [e]
    · exact Dvd.intro _ rfl
    · decide
  have hframe : ∀ k, 32 ∣ (s.context c).ringFrames.getD k 0 := by
    intro k
    by_cases hk : k < (s.context c).ringFrames.length
    · rw [List.getD_eq_getElem _ _ hk]; exact Nat.dvd_of_mod_eq_zero (h _ (List.getElem_mem hk))
    · rw [List.getD_eq_default _ _ (by omega)]; exact Nat.dvd_zero 32
  exact Nat.mod_eq_zero_of_dvd ((Nat.dvd_add_right (hframe _)).mpr ((Nat.dvd_mod_iff hchunk).mpr (Dvd.intro _ rfl)))

/-- Every slot of a list initialised in turn. -/
def initSlots (s : State) (c : Nat) (l : List Nat) : State := l.foldl (fun s i => s.initSlot (s.slotPa c i)) s

/-- Slots that the list names, or that were initialised before, are initialised after it. -/
theorem slotInitialised_initSlots {s : State} {c : Nat} (h : ∀ f ∈ (s.context c).ringFrames, f % 32 = 0) (l : List Nat) :
    ∀ i, i ∈ l ∨ SlotInitialised s (s.slotPa c i) → SlotInitialised (initSlots s c l) (s.slotPa c i) := by
  induction l generalizing s with
  | nil => intro i hi; exact hi.resolve_left (by simp)
  | cons j l ih =>
    intro i hi
    refine ih (s := s.initSlot (s.slotPa c j)) h i ?_
    rw [slotPa_initSlot]
    rcases hi with hi | hi
    · rcases List.mem_cons.mp hi with rfl | hi
      · exact .inr (slotInitialised_initSlot ..)
      · exact .inl hi
    · exact .inr (hi.initSlot (slotPa_aligned h i) (slotPa_aligned h j))

/-- RING_INIT_DONE of a locked ring in INIT initialises every slot and clears INIT. -/
theorem exec_ringInitDone {s : State} {c : Ctx} (hi : s.flag (.ctxwCmplStat c) .INIT = true) (hl : s.flag (.ctxwCmpl c) .LOCK = true) :
    exec (.ringInitDone c) s = .next ((initSlots s c (List.range (s.ringSlots c))).setFlag (.ctxwCmplStat c) .INIT false) := by
  show execRingInitDone c s = _
  simp only [execRingInitDone, hi, hl, Bool.not_true, Bool.false_eq_true, if_false, if_true]
  rfl

/-! ### Retiring writes (R124) -/

/-- A freed slot is free, and no byte but its STATUS and READY moves. -/
theorem slotState_freeSlot (s : State) (c pa : Nat) : slotState ((s.freeSlot c pa).bytesAt pa 32) = .free := by
  have hnodup : (([(pa + 8, 2#8), (pa + 9, s.byteAt (pa + 9) ||| 1#8)] : List Host.Cell).map Prod.fst).Nodup := by simp
  have hbyte := byteAt_putCells_of_mem (s.setContext c { s.context c with retired := (s.context c).retired + 1 }) _ hnodup
  refine slotState_eq_free (hbyte (pa + 8, 2#8) (by simp)) ?_
  have h9 : (s.freeSlot c pa).byteAt (pa + 9) = s.byteAt (pa + 9) ||| 1#8 := hbyte (pa + 9, s.byteAt (pa + 9) ||| 1#8) (by simp)
  rw [h9]; exact getLsbD_zero_or_one _

theorem byteAt_freeSlot_other (s : State) (c pa : Nat) {a : Nat} (h8 : a ≠ pa + 8) (h9 : a ≠ pa + 9) :
    (s.freeSlot c pa).byteAt a = s.byteAt a :=
  byteAt_putCells_of_not_mem (s.setContext c { s.context c with retired := (s.context c).retired + 1 }) _ (by simp [h8, h9])

section RingWrite
variable {s : State} {c o pa : Nat} {bs : List Byte}

/-- The write of a slot's own SEQ frees it when it is complete and none of its Well words is in error. -/
theorem ringWrite_complete (h : bs.length = 8 ∧ o % 32 = 0 ∧ bs = s.bytesAt pa 8) (hc : slotState (s.bytesAt pa 32) = .complete)
    (hw : ∀ w ∈ wordsOf pa 32, s.badWord w = false) : s.ringWrite c o pa bs = s.freeSlot c pa := by
  have hfind : (wordsOf pa 32).find? (fun w => s.badWord w) = none := List.find?_eq_none.mpr fun w hm => by simp [hw w hm]
  unfold State.ringWrite
  rw [if_pos (by simpa [and_assoc] using h), hc, hfind]

/-- It is discarded on a slot that is not. -/
theorem ringWrite_not_complete (h : bs.length = 8 ∧ o % 32 = 0 ∧ bs = s.bytesAt pa 8) (hc : slotState (s.bytesAt pa 32) ≠ .complete) :
    s.ringWrite c o pa bs = s := by
  unfold State.ringWrite
  rw [if_pos (by simpa [and_assoc] using h)]
  split
  · exact absurd ‹_› hc
  · exact absurd ‹_› hc
  · rfl

/-- Every other write to the ring's frames stores nothing and sets BAD_WRITE. -/
theorem ringWrite_bad (h : ¬ (bs.length = 8 ∧ o % 32 = 0 ∧ bs = s.bytesAt pa 8)) :
    (s.ringWrite c o pa bs).mem = s.mem ∧ (s.ringWrite c o pa bs).flag (.ctxwCmplStat c) .BAD_WRITE = true := by
  have e : s.ringWrite c o pa bs = (s.setFlag (.ctxwCmplStat c) .BAD_WRITE true).vfEvent c 11 :=
    if_neg (by simpa [and_assoc] using h)
  rw [e, mem_vfEvent, flag_congr (reg_cmplStat_vfEvent ..), flag_setFlag _ _ _ _ rfl]
  exact ⟨rfl, rfl⟩

end RingWrite

/-- RETIRING_WRITE is judged by the ring whose frames hold the address, and changes nothing beyond every ring. -/
theorem exec_retiringWrite_of_ring {s : State} {pa : BitVec 40} {c o : Nat} (h : s.ringAt pa.toNat = some (c, o)) (data : List Byte) :
    exec (.retiringWrite pa data) s = .next (s.ringWrite c o pa.toNat data) := by
  show execRetiringWrite pa data s = _
  rw [execRetiringWrite, h]

theorem exec_retiringWrite_of_none {s : State} {pa : BitVec 40} (h : s.ringAt pa.toNat = none) (data : List Byte) :
    exec (.retiringWrite pa data) s = .next s := by
  show execRetiringWrite pa data s = _
  rw [execRetiringWrite, h]

/-! ### The statement -/

/-- Settles O28: lock and unlock by the cases of R137 and R138, the slots by an induction over those initialised, and a retiring write
by the cases of R124. -/
theorem completionRings : Obligations.CompletionRings := by
  refine ⟨fun c g base s => ⟨fun hl => ⟨fun fs hm => ⟨_, rfl, ringLock_of_map g.isLt base.isLt hl hm⟩,
      fun hm => ⟨_, rfl, ringLock_of_no_map hl hm⟩⟩, fun hl => ⟨fun hg hb => ?_, fun h => ⟨_, rfl, ringLock_violation hl h⟩,
      fun h => ⟨_, rfl, ringUnlock_in_use hl h⟩, fun hn hp => ⟨_, rfl, ringUnlock_unused g.isLt base.isLt hn hp⟩⟩⟩, ?_, ?_⟩
  · exact congrArg Host.Outcome.next (ringLock_same hl hg hb)
  · intro c s hi hl hf
    refine ⟨_, exec_ringInitDone hi hl, flag_setFlag _ _ _ _ rfl, fun i h => ?_⟩
    have hslot := slotInitialised_initSlots hf (List.range (s.ringSlots c)) i (.inl (List.mem_range.mpr h))
    exact ⟨hslot.free, hslot.1⟩
  · intro pa data s
    refine ⟨fun h => exec_retiringWrite_of_none h data, fun c o h => ?_⟩
    rw [exec_retiringWrite_of_ring h]
    refine ⟨fun hr hc hw => ?_, fun hr hc => by rw [ringWrite_not_complete hr hc], fun hr => ⟨_, rfl, ringWrite_bad hr⟩⟩
    rw [ringWrite_complete hr hc hw]
    exact ⟨_, rfl, slotState_freeSlot .., fun a => byteAt_freeSlot_other s c _⟩

end Sys2Proof.Proofs
end

section
/-!
BAR0 accesses: which write acts at which register, what a read returns, which high halves it latches and which fields it clears (R11 to R13).
-/
namespace Sys2Proof.Proofs
open Sys2Proof.Machine Sys2Proof.Laws

/-! ### Part of a word's bytes -/

theorem drop_toBytes (k n v : Nat) : (toBytes (k + n) v).drop k = toBytes n (v / 256 ^ k) := by
  induction k generalizing v with
  | zero => simp
  | succ k ih => rw [Nat.succ_add, toBytes, List.drop_succ_cons, ih, Nat.div_div_eq_div_mul, pow_succ']

theorem take_toBytes (n k v : Nat) : (toBytes (n + k) v).take n = toBytes n v := by
  induction n generalizing v with
  | zero => simp [toBytes]
  | succ n ih => rw [Nat.succ_add, toBytes, List.take_succ_cons, ih, toBytes]

/-- n of a word's bytes from byte k on, as a number. -/
theorem ofBytes_slice_toBytes {k n : Nat} (v : Nat) (h : k + n ≤ 8) : ofBytes (((toBytes 8 v).drop k).take n) = v / 256 ^ k % 256 ^ n := by
  obtain ⟨m, hm⟩ := Nat.exists_eq_add_of_le h
  rw [hm, Nat.add_assoc, drop_toBytes, take_toBytes, ofBytes_toBytes, Nat.pow_mul]

theorem ofBytes_zeros {bs : List Byte} (h : ∀ b ∈ bs, b = 0) : ofBytes bs = 0 := by
  induction bs with
  | nil => rfl
  | cons b bs ih =>
    obtain ⟨hb, hbs⟩ := List.forall_mem_cons.mp h
    rw [ofBytes, hb, ih hbs]; rfl

theorem eq_zero_of_mem_toBytes_zero {n : Nat} : ∀ b ∈ toBytes n 0, b = 0 := by
  induction n with
  | zero => simp [toBytes]
  | succ n ih => exact List.forall_mem_cons.mpr ⟨rfl, ih⟩

/-! ### Bits of a field -/

/-- Words that agree on the bits of a field have the same field. -/
theorem bits_congr {w v : W64} {hi lo : Nat} (h : ∀ i, lo ≤ i → i ≤ hi → w.getLsbD i = v.getLsbD i) : bits w hi lo = bits v hi lo := by
  refine Nat.eq_of_testBit_eq fun i => ?_
  rw [testBit_bits, testBit_bits]
  by_cases hi' : i < hi + 1 - lo
  · rw [h (lo + i) (by omega) (by omega)]
  · simp [hi']

theorem bits_zero (hi lo : Nat) : bits 0 hi lo = 0 := by simp [bits, nbits]

/-- The high half of a word. -/
theorem bits_63_32 (w : W64) : bits w 63 32 = w.toNat / 2 ^ 32 := by
  have := w.isLt
  rw [bits, nbits]; omega

/-! ### The word an access acts on -/

/-- A VF's window keeps offsets in step with BAR0, word by word. -/
theorem barOffset_add {f o a j : Nat} (h : barOffset f (8 * o) = some a) (hj : j < 8) : barOffset f (8 * o + j) = some (a + j) ∧ a % 8 = 0 := by
  unfold barOffset at h ⊢
  by_cases hf : f = 0
  · simp only [hf, if_true, Option.some.injEq] at h ⊢; omega
  · by_cases hw : 8 * o < 0x10000
    · simp only [hf, hw, if_false, if_true, Option.some.injEq] at h ⊢
      rw [if_pos (by omega)]
      exact ⟨congrArg some (by omega), by omega⟩
    · simp [hf, hw] at h

theorem touchedWords_one {a n : Nat} (hn : 0 < n) (h : a % 8 + n ≤ 8) : touchedWords a n = [a / 8 * 8] := if_pos (by omega)

theorem stewardUp_of_barOpen {s : State} {f : Nat} (h : s.barOpen f = true) : s.stewardUp = true := by
  simp only [State.barOpen, Bool.and_eq_true] at h; exact h.1.1

/-! ### Writes on the bus (R11) -/

theorem writeLanes_whole {a : Nat} {data : List Byte} (ha : a % 8 = 0) (hl : data.length = 8) :
    writeLanes a data = some (a, BitVec.ofNat 64 (ofBytes data), BitVec.allOnes 64) := if_pos (by simp [ha, hl])

theorem writeLanes_low {a : Nat} {data : List Byte} (ha : a % 8 = 0) (hl : data.length = 4) :
    writeLanes a data = some (a, BitVec.ofNat 64 (ofBytes data), 0xFFFFFFFF) :=
  (if_neg (by simp [hl])).trans (if_pos (by simp [ha, hl]))

theorem writeLanes_high {a : Nat} {data : List Byte} (ha : a % 8 = 4) (hl : data.length = 4) :
    writeLanes a data = some (a - 4, BitVec.ofNat 64 (ofBytes data * 2 ^ 32), 0xFFFFFFFF00000000) :=
  (if_neg (by simp [hl])).trans ((if_neg (by simp [ha])).trans (if_pos (by simp [ha, hl])))

/-- A write of another length or alignment acts nowhere. -/
theorem writeLanes_none {a : Nat} {data : List Byte} (h : ¬ (data.length = 8 ∧ a % 8 = 0 ∨ data.length = 4 ∧ a % 4 = 0)) :
    writeLanes a data = none := by
  unfold writeLanes
  rw [if_neg (by simp; omega), if_neg (by simp; omega), if_neg (by simp; omega)]

/-- A write acts within the 64-bit word it meets. -/
theorem writeLanes_word {a w : Nat} {data : List Byte} {d m : W64} (h : writeLanes a data = some (w, d, m)) : w = a / 8 * 8 := by
  unfold writeLanes at h
  split_ifs at h <;> simp only [Option.some.injEq, Prod.mk.injEq, Bool.and_eq_true, decide_eq_true_eq] at * <;> omega

section Write
variable {s : State} {f off a : Nat} {data : List Byte}

theorem barWrite_closed (h : s.barOpen f = false) : s.barWrite f off data = s := by simp [State.barWrite, h]

variable (ho : s.barOpen f = true) (hb : barOffset f off = some a)
include ho hb

/-- A write that acts at a register writes it. -/
theorem barWrite_of_regFor {w : Nat} {d m : W64} {r : Reg} (hw : writeLanes a data = some (w, d, m)) (hr : s.regFor f w = some r) :
    s.barWrite f off data = s.writeReg r d m := by
  simp [State.barWrite, ho, hb, hw, hr]

/-- One that acts nowhere, or where there is no register, changes nothing. -/
theorem barWrite_ignored (h : s.regFor f (a / 8 * 8) = none ∨ ¬ (data.length = 8 ∧ a % 8 = 0 ∨ data.length = 4 ∧ a % 4 = 0)) :
    s.barWrite f off data = s := by
  rcases h with hr | hn
  · cases hw : writeLanes a data with
    | none => simp [State.barWrite, ho, hb, hw]
    | some x => simp [State.barWrite, ho, hb, hw, writeLanes_word hw, hr]
  · simp [State.barWrite, ho, hb, writeLanes_none hn]

end Write

/-! ### The side effects of a read (R11, R12) -/

/-- The bits of a register's RC fields. -/
def rcMask (r : Reg) : W64 := r.fields.foldl (fun m x => if x.acc = .RC then m ||| maskOf x.hi x.lo else m) 0

/-- A bit of the masks of some fields: one of an RC field among them, or one of the word at the start. -/
theorem getLsbD_rcMasks {l : List Field} (hl : ∀ x ∈ l, x.lo ≤ x.hi) (m : W64) {i : Nat} (hi : i < 64) :
    (l.foldl (fun m x => if x.acc = .RC then m ||| maskOf x.hi x.lo else m) m).getLsbD i = true ↔
      m.getLsbD i = true ∨ ∃ x ∈ l, x.acc = .RC ∧ x.lo ≤ i ∧ i ≤ x.hi := by
  induction l generalizing m with
  | nil => simp
  | cons x l ih =>
    obtain ⟨hx, hl⟩ := List.forall_mem_cons.mp hl
    rw [List.foldl_cons, ih hl]
    by_cases hrc : x.acc = .RC
    · simp [hrc, getLsbD_maskOf x.hi x.lo i hi (by omega), or_assoc]
    · simp [hrc]

theorem getLsbD_rcMask (r : Reg) {i : Nat} (hi : i < 64) :
    (rcMask r).getLsbD i = true ↔ ∃ x ∈ r.fields, x.acc = .RC ∧ x.lo ≤ i ∧ i ≤ x.hi := by
  rw [rcMask, getLsbD_rcMasks (fun x hx => (field_bounds hx).1) 0 hi]; simp

/-- Cleared of the mask, an RC field is 0. -/
theorem bits_clear_rc (w : W64) {r : Reg} {x : Field} (hx : x ∈ r.fields) (hrc : x.acc = .RC) : bits (w &&& ~~~ rcMask r) x.hi x.lo = 0 := by
  rw [← bits_zero x.hi x.lo]
  refine bits_congr fun i hlo hhi => ?_
  have hi : i < 64 := by have := field_bounds hx; omega
  simp [(getLsbD_rcMask r hi).mpr ⟨x, hx, hrc, hlo, hhi⟩]

/-- Every other field is as it was. -/
theorem bits_clear_other (w : W64) {r : Reg} {x : Field} (hx : x ∈ r.fields) (hrc : x.acc ≠ .RC) :
    bits (w &&& ~~~ rcMask r) x.hi x.lo = bits w x.hi x.lo := by
  refine bits_congr fun i hlo hhi => ?_
  have hi : i < 64 := by have := field_bounds hx; omega
  have hm : (rcMask r).getLsbD i = false := by
    rw [← Bool.not_eq_true, getLsbD_rcMask r hi]
    rintro ⟨y, hy, hyrc, hylo, hyhi⟩
    have hne : x ≠ y := fun e => hrc (e ▸ hyrc)
    rcases fields_apart hx hy hne with h | h <;> omega
  rw [BitVec.getLsbD_and, BitVec.getLsbD_not, hm]; simp [hi]

/-- The high half of a register latched by an aligned read of the low half. -/
def latchHigh (s : State) (r : Reg) (off n : Nat) : State :=
  if readsLow off n && r.latches then
    { s with latch := smSet (fun _ => none) s.latch r.addr (some (BitVec.ofNat 32 (bits (s.view r) 63 32))) }
  else s

theorem reg_latchHigh (s : State) (r q : Reg) (off n : Nat) : (latchHigh s r off n).reg q = s.reg q := by
  unfold latchHigh; split <;> rfl

theorem latchHigh_of_not_low {off n : Nat} (h : readsLow off n = false) (s : State) (r : Reg) : latchHigh s r off n = s := by
  simp [latchHigh, h]

theorem latch_latchHigh {off n : Nat} (h : readsLow off n = true) (s : State) {r : Reg} (hr : r.latches = true) :
    smGet (fun _ => none) (latchHigh s r off n).latch r.addr = some (BitVec.ofNat 32 (bits (s.view r) 63 32)) := by
  simp [latchHigh, h, hr]

section ReadEffect
variable {s : State} {f a : Nat} (off n : Nat)

theorem readEffect_none (h : s.regFor f a = none) : s.readEffect f a off n = s := by rw [State.readEffect, h]

variable {r : Reg} (h : s.regFor f a = some r)
include h

theorem readEffect_some : s.readEffect f a off n =
    if rcMask r = 0 then latchHigh s r off n else (latchHigh s r off n).setReg r ((latchHigh s r off n).reg r &&& ~~~ rcMask r) := by
  rw [State.readEffect, h]; rfl

/-- A read leaves the register without its RC bits. -/
theorem reg_readEffect : (s.readEffect f a off n).reg r = s.reg r &&& ~~~ rcMask r := by
  rw [readEffect_some off n h]
  split
  · rename_i h0
    rw [reg_latchHigh, h0]; exact (BitVec.and_allOnes ..).symm
  · rw [reg_setReg_same, reg_latchHigh]

theorem latch_readEffect : (s.readEffect f a off n).latch = (latchHigh s r off n).latch := by
  rw [readEffect_some off n h]; split <;> rfl

theorem outbox_readEffect : (s.readEffect f a off n).outbox = s.outbox := by
  have hlatch : (latchHigh s r off n).outbox = s.outbox := by unfold latchHigh; split <;> rfl
  rw [readEffect_some off n h]; split <;> exact hlatch

end ReadEffect

/-- No read but the aligned one of a low half changes a latch. -/
theorem latch_readEffect_of_not_low (s : State) (f a : Nat) {off n : Nat} (hl : readsLow off n = false) :
    (s.readEffect f a off n).latch = s.latch := by
  cases h : s.regFor f a with
  | none => rw [readEffect_none off n h]
  | some r => rw [latch_readEffect off n h, latchHigh_of_not_low hl]

/-- Every RC field of the register is 0, and every other field as it was. -/
def RcCleared (s t : State) (r : Reg) : Prop :=
  (∀ x ∈ r.fields, x.acc = .RC → bits (t.reg r) x.hi x.lo = 0) ∧ ∀ x ∈ r.fields, x.acc ≠ .RC → bits (t.reg r) x.hi x.lo = bits (s.reg r) x.hi x.lo

theorem rcCleared_of_reg {s t : State} {r : Reg} (h : t.reg r = s.reg r &&& ~~~ rcMask r) : RcCleared s t r := by
  rw [RcCleared, h]
  exact ⟨fun _ => bits_clear_rc _, fun _ => bits_clear_other _⟩

/-! ### What a read returns (R12, R13) -/

/-- The high half as a read of it alone returns it: the latched one if there is one, the live one if not. -/
def highHalf (s : State) (r : Reg) : Nat := (smGet (fun _ => none) s.latch r.addr).elim (bits (s.view r) 63 32) BitVec.toNat

section ReadWord
variable {s : State} {f a off : Nat}

theorem readWord_none (h : s.regFor f a = none) : s.readWord f a off = 0 := by rw [State.readWord, h]

variable {r : Reg} (h : s.regFor f a = some r)
include h

/-- A read that begins in the low half returns the live word. -/
theorem readWord_of_not_high (hh : readsHigh a off = false) : s.readWord f a off = s.view r := by
  rw [State.readWord, h]
  dsimp only
  split
  · rw [hh]; rfl
  · rfl

/-- A read of bytes of the high half alone returns the latched half. -/
theorem bits_readWord_of_high (hh : readsHigh a off = true) : bits (s.readWord f a off) 63 32 = highHalf s r := by
  rw [State.readWord, h, highHalf]
  dsimp only
  split
  · rename_i w hw
    rw [hh, if_pos rfl, bits_setBits_same _ _ _ _ (by decide) (by decide), hw]
    exact Nat.mod_eq_of_lt w.isLt
  · rename_i hw
    rw [hw]; rfl

end ReadWord

section Read
variable {s : State} {f off n a : Nat}

/-- A read of a package that is off or held in reset meets nothing; of a closed BAR it is an unsupported request. -/
theorem barRead_down (h : s.stewardUp = false) : s.barRead f off n = s := by simp [State.barRead, h]

theorem barRead_closed (hu : s.stewardUp = true) (h : s.barOpen f = false) : s.barRead f off n = s.send (.pcieCpl f 1 false []) := by
  simp [State.barRead, hu, h, State.unsupported]

variable (ho : s.barOpen f = true) (hb : barOffset f off = some a)
include ho hb

theorem barRead_open : s.barRead f off n = ((touchedWords a n).foldl (fun s w => s.readEffect f w a n) s).send
    (.regData a n (ofBytes ((((touchedWords a n).flatMap fun w => toBytes 8 (s.readWord f w a).toNat).drop (a % 8)).take n))) := by
  simp [State.barRead, stewardUp_of_barOpen ho, ho, hb]

/-- A read within one 64-bit word. -/
theorem barRead_word (hn : 0 < n) (h : a % 8 + n ≤ 8) : s.barRead f off n =
    (s.readEffect f (a / 8 * 8) a n).send (.regData a n ((s.readWord f (a / 8 * 8) a).toNat / 256 ^ (a % 8) % 256 ^ n)) := by
  rw [barRead_open ho hb, touchedWords_one hn h, List.flatMap_singleton, ofBytes_slice_toBytes _ h]; rfl

/-- No read but the aligned one of a low half changes a latch. -/
theorem latch_barRead_of_not_low (h : readsLow a n = false) : (s.barRead f off n).latch = s.latch := by
  have hfold : ∀ (ws : List Nat) (s : State), (ws.foldl (fun s w => s.readEffect f w a n) s).latch = s.latch := by
    intro ws
    induction ws with
    | nil => exact fun _ => rfl
    | cons w ws ih => exact fun s => (ih _).trans (latch_readEffect_of_not_low s f w h)
  rw [barRead_open ho hb]
  exact hfold _ s

/-- Where there is no register a read returns 0. -/
theorem barRead_of_no_reg (h : ∀ w ∈ touchedWords a n, s.regFor f w = none) : s.barRead f off n = s.send (.regData a n 0) := by
  have hfold : ∀ ws : List Nat, (∀ w ∈ ws, s.regFor f w = none) → ws.foldl (fun s w => s.readEffect f w a n) s = s := by
    intro ws
    induction ws with
    | nil => exact fun _ => rfl
    | cons w ws ih =>
      intro hws
      obtain ⟨hw, hws⟩ := List.forall_mem_cons.mp hws
      rw [List.foldl_cons, readEffect_none a n hw, ih hws]
  rw [barRead_open ho hb, hfold _ h, ofBytes_zeros]
  intro b hm
  obtain ⟨w, hw, hmw⟩ := List.mem_flatMap.mp (List.mem_of_mem_drop (List.mem_of_mem_take hm))
  rw [readWord_none (h w hw)] at hmw
  exact eq_zero_of_mem_toBytes_zero b hmw

end Read

/-! ### Reads of one register -/

theorem outbox_send (s : State) (o : Output) : (s.send o).outbox = s.outbox ++ [o] := rfl

theorem latch_send (s : State) (o : Output) : (s.send o).latch = s.latch := rfl

section ReadReg
variable {s : State} {f a w : Nat} {r : Reg} (ho : s.barOpen f = true) (hb : barOffset f (8 * w) = some a) (hr : s.regFor f a = some r)
include ho hb hr

/-- An aligned read of the low half returns it, and latches the high half of a register that the machine updates. -/
theorem barRead_lowHalf : let t := s.barRead f (8 * w) 4
    t.outbox = s.outbox ++ [.regData a 4 ((s.view r).toNat % 2 ^ 32)] ∧
    (r.latches = true → smGet (fun _ => none) t.latch r.addr = some (BitVec.ofNat 32 (bits (s.view r) 63 32))) ∧ RcCleared s t r := by
  have ha : a % 8 = 0 := (barOffset_add hb (j := 0) (by decide)).2
  have hw : a / 8 * 8 = a := by omega
  have e := barRead_word ho hb (n := 4) (by decide) (by omega)
  rw [hw, readWord_of_not_high hr (by simp [readsHigh]), ha, Nat.pow_zero, Nat.div_one, show 256 ^ 4 = 2 ^ 32 by rfl] at e
  dsimp only
  rw [e]
  refine ⟨?_, fun hl => ?_, rcCleared_of_reg (reg_readEffect a 4 hr)⟩
  · rw [outbox_send, outbox_readEffect a 4 hr]
  · rw [latch_send, latch_readEffect a 4 hr, latch_latchHigh (by simp [readsLow, ha]) s hl]

/-- A read of the whole register returns it. -/
theorem barRead_whole : let t := s.barRead f (8 * w) 8
    t.outbox = s.outbox ++ [.regData a 8 (s.view r).toNat] ∧ t.latch = s.latch ∧ RcCleared s t r := by
  have ha : a % 8 = 0 := (barOffset_add hb (j := 0) (by decide)).2
  have hw : a / 8 * 8 = a := by omega
  have e := barRead_word ho hb (n := 8) (by decide) (by omega)
  rw [hw, readWord_of_not_high hr (by simp [readsHigh]), ha, Nat.pow_zero, Nat.div_one, show 256 ^ 8 = 2 ^ 64 by rfl, Nat.mod_eq_of_lt (s.view r).isLt] at e
  dsimp only
  refine ⟨?_, latch_barRead_of_not_low ho hb (by simp [readsLow]), ?_⟩
  · rw [e, outbox_send, outbox_readEffect a 8 hr]
  · rw [e]; exact rcCleared_of_reg (reg_readEffect a 8 hr)

/-- A read of bytes of the high half alone returns those of the latched half, or of the live one. -/
theorem barRead_highBytes {k m : Nat} (hk : k + m ≤ 3) : let t := s.barRead f (8 * w + 4 + k) (m + 1)
    RcCleared s t r ∧ t.latch = s.latch ∧ t.outbox = s.outbox ++ [.regData (a + 4 + k) (m + 1) (highHalf s r / 256 ^ k % 256 ^ (m + 1))] := by
  obtain ⟨hb', ha⟩ := barOffset_add hb (j := 4 + k) (by omega)
  rw [← Nat.add_assoc, ← Nat.add_assoc] at hb'
  have hw : (a + 4 + k) / 8 * 8 = a := by omega
  have hm : (a + 4 + k) % 8 = 4 + k := by omega
  have hhigh := bits_readWord_of_high hr (off := a + 4 + k) (by simp [readsHigh])
  rw [bits_63_32] at hhigh
  have e := barRead_word ho hb' (n := m + 1) (by omega) (by omega)
  rw [hw, hm, Nat.pow_add, ← Nat.div_div_eq_div_mul, show 256 ^ 4 = 2 ^ 32 by rfl, hhigh] at e
  dsimp only
  refine ⟨?_, latch_barRead_of_not_low ho hb' (by simp [readsLow, hm]), ?_⟩
  · rw [e]; exact rcCleared_of_reg (reg_readEffect _ _ hr)
  · rw [e, outbox_send, outbox_readEffect _ _ hr]

end ReadReg

/-! ### The statement -/

theorem exec_registerWrite (f : FnId) (off : BitVec 26) (data : List Byte) (s : State) :
    exec (.registerWrite f off data) s = .next (s.barWrite f off.toNat data) := rfl

theorem exec_readClearRead (f : FnId) (off : BitVec 26) (n : Fin 8) (s : State) :
    exec (.readClearRead f off n) s = .next (s.barRead f off.toNat (n + 1)) := rfl

theorem exec_lowHalfRead (f : FnId) (word : BitVec 23) (s : State) :
    exec (.lowHalfRead f word) s = .next (s.barRead f (8 * word.toNat) 4) := rfl

/-- A byte of a 64-bit word of BAR0 has an offset of 26 bits. -/
theorem toNat_ofNat_word (word : BitVec 23) {o : Nat} (h : o < 8 * word.toNat + 8) : (BitVec.ofNat 26 o).toNat = o :=
  Nat.mod_eq_of_lt (by have := word.isLt; omega)

/-- Settles O34: writes by the word and the bits they cover, reads of one register by the part of it they cover, and the reads that find
no register or no BAR. -/
theorem registerAccesses : Obligations.RegisterAccesses := by
  refine ⟨fun f off data s => ?_, fun f word s ho a hb => ?_, fun f off n s => ?_⟩
  · rw [exec_registerWrite]
    refine ⟨fun hc => by rw [barWrite_closed hc], fun ho a hb => ⟨fun r hr ha => ⟨fun hl => ?_, fun hl => ?_⟩, fun r ha hr hl => ?_, fun hn => ?_⟩⟩
    · rw [barWrite_of_regFor ho hb (writeLanes_whole ha hl) hr]
    · rw [barWrite_of_regFor ho hb (writeLanes_low ha hl) hr]
    · rw [barWrite_of_regFor ho hb (writeLanes_high ha hl) hr]
    · rw [barWrite_ignored ho hb hn]
  · rw [exec_lowHalfRead]
    refine ⟨fun r hr _ => ⟨⟨_, rfl, barRead_lowHalf ho hb hr⟩, ?_, fun k m hk => ?_⟩, fun hr => ?_⟩
    · rw [exec_readClearRead, toNat_ofNat_word word (by omega)]
      exact ⟨_, rfl, barRead_whole ho hb hr⟩
    · obtain ⟨hrc, hlatch, hout⟩ := barRead_highBytes ho hb hr hk
      have hm : ((Fin.ofNat 8 m : Fin 8) : Nat) = m := Nat.mod_eq_of_lt (by omega)
      rw [exec_readClearRead, toNat_ofNat_word word (by omega), hm]
      refine ⟨_, rfl, hrc, hlatch, hout.trans ?_⟩
      rw [highHalf]
      cases smGet (fun _ => none) s.latch r.addr <;> rfl
    · have ha : a % 8 = 0 := (barOffset_add hb (j := 0) (by decide)).2
      rw [barRead_of_no_reg ho hb]
      rw [touchedWords_one (by decide) (by omega), List.forall_mem_singleton, show a / 8 * 8 = a by omega]
      exact hr
  · rw [exec_readClearRead]
    refine ⟨fun ho a hb => ⟨fun hn => ⟨_, rfl, latch_barRead_of_not_low ho hb ?_⟩, fun hr => by rw [barRead_of_no_reg ho hb hr]⟩,
      fun hu hc => by rw [barRead_closed hu hc], fun hu => by rw [barRead_down hu]⟩
    rw [readsLow, Bool.and_eq_false_iff, decide_eq_false_iff_not, decide_eq_false_iff_not]
    refine not_and_or.mp fun ⟨ha, h4⟩ => hn ⟨ha, Fin.ext ?_⟩
    omega

end Sys2Proof.Proofs
end

section
/-!
Writes of registers through the PF: where the map finds a register, what a write of a register's own fields stores, and the registers whose
write performs a command (R8 to R10, Table 0-3).
-/
namespace Sys2Proof.Proofs
open Sys2Proof.Machine Sys2Proof.Laws

/-! ### The map (Table 13-3) -/

theorem regAt_tile {t o : Nat} (ht : t < 32) (ho : o < 0x100000) : regAt (0x1000000 + t * 0x100000 + o) = regAtTile t o := by
  rw [regAt, if_neg (by omega), if_neg (by omega), if_neg (by omega), if_pos (by omega)]
  rw [show (0x1000000 + t * 0x100000 + o - 0x1000000) / 0x100000 = t by omega, show (0x1000000 + t * 0x100000 + o - 0x1000000) % 0x100000 = o by omega]

theorem regAt_quill {d o : Nat} (hd : d < 2) (ho : o < 0x400000) : regAt (0x3000000 + d * 0x400000 + o) = regAtQuill d o := by
  rw [regAt, if_neg (by omega), if_neg (by omega), if_neg (by omega), if_neg (by omega), if_pos (by omega)]
  rw [show (0x3000000 + d * 0x400000 + o - 0x3000000) / 0x400000 = d by omega, show (0x3000000 + d * 0x400000 + o - 0x3000000) % 0x400000 = o by omega]

theorem regAt_window {c o : Nat} (hc : c < 16) (ho : o < 0x10000) : regAt (0x3800000 + c * 0x10000 + o) = regAtWin c o := by
  rw [regAt, if_neg (by omega), if_neg (by omega), if_neg (by omega), if_neg (by omega), if_neg (by omega), if_pos (by omega)]
  rw [show (0x3800000 + c * 0x10000 + o - 0x3800000) / 0x10000 = c by omega, show (0x3800000 + c * 0x10000 + o - 0x3800000) % 0x10000 = o by omega]

theorem regAt_tmemScrub {t : Nat} (h : t < 32) : regAt (Reg.tmemScrub t).addr = some (.tmemScrub t) := regAt_tile h (by decide)

theorem regAt_tbobPool {t : Nat} (h : t < 32) : regAt (Reg.tbobPool t).addr = some (.tbobPool t) := regAt_tile h (by decide)

theorem regAt_ctxrCtrl {c : Nat} (h : c < 16) : regAt (Reg.ctxrCtrl c).addr = some (.ctxrCtrl c) := regAt_window h (by decide)

theorem regAt_nibCore {t n : Nat} (ht : t < 32) (hn : n < 8) : regAt (Reg.nibCore t n).addr = some (.nibCore t n) := by
  rw [Reg.addr, Nat.add_assoc, regAt_tile ht (by omega)]
  simp (disch := omega) only [regAtTile, if_neg, if_pos]
  congr 2; omega

theorem regAt_bobCfg {t l : Nat} (ht : t < 32) (hl : l < 256) : regAt (Reg.bobCfg t l).addr = some (.bobCfg t l) := by
  rw [Reg.addr, Nat.add_assoc, regAt_tile ht (by omega)]
  simp (disch := omega) only [regAtTile, if_neg, if_pos]
  congr 2; omega

theorem regAt_knotCfg {t l : Nat} (ht : t < 32) (hl : l < 128) : regAt (Reg.knotCfg t l).addr = some (.knotCfg t l) := by
  rw [Reg.addr, Nat.add_assoc, regAt_tile ht (by omega)]
  simp (disch := omega) only [regAtTile, if_neg, if_pos]
  congr 2; omega

theorem regAt_quillHart {d h : Nat} (hd : d < 2) (hh : h < 32) : regAt (Reg.quillHart d h).addr = some (.quillHart d h) := by
  rw [Reg.addr, Nat.add_assoc, regAt_quill hd (by omega)]
  simp (disch := omega) only [regAtQuill, if_neg, if_pos]
  congr 2; omega

theorem regAt_memRoot {c : Nat} (h : c < 16) : regAt (Reg.memRoot c).addr = some (.memRoot c) := by
  rw [Reg.addr, regAt, if_pos (by omega)]
  simp (disch := omega) only [regAtLow, if_neg, if_pos]
  congr 2; omega

/-! ### A write of a register's own fields (Table 0-3) -/

/-- The word a write under the access codes leaves in a register: its fields in turn. -/
def codesWord (lk : Bool) (data mask : W64) (l : List Field) (w : W64) : W64 := l.foldl (fun w f => (fieldWrite lk data mask w f).1) w

/-- Does a write store its bits in the field: RW, or LK while unlocked? -/
def Stores (lk : Bool) (f : Field) : Prop := f.acc = .RW ∨ f.acc = .LK ∧ lk = false

theorem codesWord_eq (lk : Bool) (data mask : W64) (l : List Field) (w : W64) (b : Bool) :
    (l.foldl (fun acc f => let x := fieldWrite lk data mask acc.1 f; (x.1, acc.2 || x.2)) (w, b)).1 = codesWord lk data mask l w := by
  induction l generalizing w b with
  | nil => rfl
  | cons f l ih => exact ih ..

/-- Writing one field leaves the bits outside it. -/
theorem getLsbD_fieldWrite_outside (lk : Bool) (data mask w : W64) {f : Field} (hf : f.lo ≤ f.hi) {i : Nat} (hi : i < 64)
    (ho : ¬ (f.lo ≤ i ∧ i ≤ f.hi)) : (fieldWrite lk data mask w f).1.getLsbD i = w.getLsbD i := by
  have hm : (maskOf f.hi f.lo &&& mask).getLsbD i = false := by
    rw [BitVec.getLsbD_and, getLsbD_maskOf _ _ _ hi (by omega), ← Bool.decide_and, decide_eq_false ho, Bool.false_and]
  dsimp only [fieldWrite]
  generalize maskOf f.hi f.lo &&& mask = m at hm
  have hnew : ((w &&& ~~~ m) ||| (data &&& m)).getLsbD i = w.getLsbD i := by
    rw [BitVec.getLsbD_or, BitVec.getLsbD_and, BitVec.getLsbD_and, BitVec.getLsbD_not, hm]; simp [hi]
  split
  · rfl
  · cases f.acc
    case RW => exact hnew
    case W1C =>
      show (w &&& ~~~ (data &&& m)).getLsbD i = _
      rw [BitVec.getLsbD_and, BitVec.getLsbD_not, BitVec.getLsbD_and, hm]; simp [hi]
    case W1S =>
      show (w ||| (data &&& m)).getLsbD i = _
      rw [BitVec.getLsbD_or, BitVec.getLsbD_and, hm]; simp
    case LK => cases lk <;> [exact hnew; rfl]
    all_goals rfl

/-- A field that stores takes its bits of the data under the mask. -/
theorem fieldWrite_stores {lk : Bool} (data mask w : W64) {f : Field} (hs : Stores lk f) :
    (fieldWrite lk data mask w f).1 = (w &&& ~~~ (maskOf f.hi f.lo &&& mask)) ||| (data &&& (maskOf f.hi f.lo &&& mask)) := by
  dsimp only [fieldWrite]
  generalize maskOf f.hi f.lo &&& mask = m
  split
  · rename_i h
    rw [h]; exact (by rw [BitVec.and_allOnes, BitVec.and_zero, BitVec.or_zero] : w = (w &&& BitVec.allOnes 64) ||| (data &&& 0#64))
  · rcases hs with h | ⟨h, hl⟩
    · rw [h]
    · rw [h, hl]; rfl

theorem getLsbD_fieldWrite_stores {lk : Bool} (data mask w : W64) {f : Field} (hs : Stores lk f) (hf : f.lo ≤ f.hi) {i : Nat} (hi : i < 64)
    (hlo : f.lo ≤ i) (hhi : i ≤ f.hi) :
    (fieldWrite lk data mask w f).1.getLsbD i = if mask.getLsbD i then data.getLsbD i else w.getLsbD i := by
  have hm : (maskOf f.hi f.lo).getLsbD i = true := by rw [getLsbD_maskOf _ _ _ hi (by omega)]; simp [hlo, hhi]
  rw [fieldWrite_stores data mask w hs]
  rw [BitVec.getLsbD_or, BitVec.getLsbD_and, BitVec.getLsbD_and, BitVec.getLsbD_not, BitVec.getLsbD_and, hm]
  cases mask.getLsbD i <;> simp [hi]

/-- Writing other fields leaves the bits of a field. -/
theorem getLsbD_codesWord_outside (lk : Bool) (data mask : W64) {l : List Field} (hl : ∀ f ∈ l, f.lo ≤ f.hi) (w : W64) {i : Nat} (hi : i < 64)
    (ho : ∀ f ∈ l, ¬ (f.lo ≤ i ∧ i ≤ f.hi)) : (codesWord lk data mask l w).getLsbD i = w.getLsbD i := by
  induction l generalizing w with
  | nil => rfl
  | cons f l ih =>
    obtain ⟨hf, hl⟩ := List.forall_mem_cons.mp hl
    obtain ⟨hof, hol⟩ := List.forall_mem_cons.mp ho
    rw [codesWord, List.foldl_cons]
    exact (ih hl _ hol).trans (getLsbD_fieldWrite_outside lk data mask w hf hi hof)

/-- A bit of a field that stores, after a write of all the fields. -/
theorem getLsbD_codesWord_stores {lk : Bool} (data mask : W64) {l : List Field} (hl : layoutOk l = true) (w : W64) {f : Field} (hf : f ∈ l)
    (hs : Stores lk f) {i : Nat} (hlo : f.lo ≤ i) (hhi : i ≤ f.hi) :
    (codesWord lk data mask l w).getLsbD i = if mask.getLsbD i then data.getLsbD i else w.getLsbD i := by
  have hi : i < 64 := by have := bounds_of_layoutOk hl f hf; omega
  induction l generalizing w with
  | nil => simp at hf
  | cons x l ih =>
    obtain ⟨⟨hx, -⟩, hapart, htail⟩ := layoutOk_cons hl
    rw [codesWord, List.foldl_cons]
    rcases List.mem_cons.mp hf with rfl | hf
    · refine (getLsbD_codesWord_outside lk data mask (fun g hg => (bounds_of_layoutOk htail g hg).1) _ hi fun g hg => ?_).trans
        (getLsbD_fieldWrite_stores data mask w hs hx hi hlo hhi)
      rcases hapart g hg with h | h <;> omega
    · refine (ih htail _ hf).trans ?_
      rw [getLsbD_fieldWrite_outside lk data mask w hx hi]
      rcases hapart f hf with h | h <;> omega

/-- A write under the codes stores their word, unless it marks a violation in the same register. -/
theorem reg_writeCodes (s : State) {r : Reg} (data mask : W64) (h : r.addr ≠ r.violation.addr) :
    (s.writeCodes r data mask).reg r = codesWord (s.locked r) data mask r.fields (s.reg r) := by
  rw [← codesWord_eq (s.locked r) data mask r.fields (s.reg r) false]
  unfold State.writeCodes
  dsimp only
  split
  · rw [reg_setFlag_other _ _ _ h, reg_setReg_same]
  · rw [reg_setReg_same]

theorem mem_writeCodes (s : State) (r : Reg) (data mask : W64) : (s.writeCodes r data mask).mem = s.mem := by
  unfold State.writeCodes
  dsimp only
  split <;> rfl

/-- A write of all 64 bits stores its bits in a field that stores. -/
theorem fld_writeCodes_whole (s : State) {r : Reg} (data : W64) (h : r.addr ≠ r.violation.addr) {f : Field} (hf : f ∈ r.fields)
    (hs : Stores (s.locked r) f) : (s.writeCodes r data (BitVec.allOnes 64)).fld r f.name = bits data f.hi f.lo := by
  rw [State.fld, pos_of_mem hf, reg_writeCodes s data _ h]
  refine bits_congr fun i hlo hhi => ?_
  have hi : i < 64 := by have := field_bounds hf; omega
  rw [getLsbD_codesWord_stores data _ (layoutOk_fields r) _ hf hs hlo hhi, BitVec.getLsbD_allOnes, decide_eq_true hi, if_pos rfl]

/-- A write of a register of locked fields leaves it. -/
theorem codesWord_locked (data mask : W64) {l : List Field} (hl : ∀ f ∈ l, f.acc = .LK) (w : W64) : codesWord true data mask l w = w := by
  induction l with
  | nil => rfl
  | cons f l ih =>
    obtain ⟨hf, hl⟩ := List.forall_mem_cons.mp hl
    have hw : (fieldWrite true data mask w f).1 = w := by
      dsimp only [fieldWrite]
      split
      · rfl
      · rw [hf]; rfl
    rw [codesWord, List.foldl_cons, hw]
    exact ih hl

/-! ### A whole write through the PF -/

/-- After step 0 the PF finds every register that is no VF's own. -/
theorem regFor_pf {s : State} (hp : s.start.passed.isSome = true) {a : Nat} {r : Reg} (hr : regAt a = some r) (hv : r.vfOnly = false) :
    s.regFor 0 a = some r := by
  have hn : s.start.passed.isNone = false := by rw [← Option.not_isSome, hp]; rfl
  simp [State.regFor, hn, hr, hv]

theorem lt_of_regAt {a : Nat} {r : Reg} (h : regAt a = some r) : a < 2 ^ 26 := by
  by_contra hn
  rw [regAt, if_neg (by omega), if_neg (by omega), if_neg (by omega), if_neg (by omega), if_neg (by omega), if_neg (by omega)] at h
  simp at h

/-- Eight bytes through the PF write the register at their offset. -/
theorem exec_registerWrite_pf {s : State} {data : List Byte} (ho : s.barOpen 0 = true) (hp : s.start.passed.isSome = true)
    (hl : data.length = 8) {r : Reg} (hr : regAt r.addr = some r) (h8 : r.addr % 8 = 0) (hv : r.vfOnly = false) :
    exec (.registerWrite 0 (BitVec.ofNat 26 r.addr) data) s = .next (s.writeReg r (BitVec.ofNat 64 (ofBytes data)) (BitVec.allOnes 64)) := by
  rw [exec_registerWrite, BitVec.toNat_ofNat, Nat.mod_eq_of_lt (lt_of_regAt hr)]
  exact congrArg _ (barWrite_of_regFor ho rfl (writeLanes_whole h8 hl) (regFor_pf hp hr hv))

/-! ### What a write of all 64 bits does to a register -/

/-- It acts on a register with a bit that a write can act on. -/
theorem acts_whole {r : Reg} (h : (r.writable == 0) = false) : ¬ BitVec.allOnes 64 &&& r.writable = 0 := by
  rw [BitVec.allOnes_and]; exact ne_of_beq_false h

/-- Nothing of the old word is left. -/
theorem word_whole (old w : W64) : (old &&& ~~~ BitVec.allOnes 64) ||| (w &&& BitVec.allOnes 64) = w := by
  rw [BitVec.not_allOnes, BitVec.and_zero, BitVec.and_allOnes, BitVec.zero_or]

section Whole
variable (s : State) (w : W64)

theorem writeReg_tmemScrub (t : Nat) : s.writeReg (.tmemScrub t) w (BitVec.allOnes 64) = s.writeCodes (.tmemScrub t) w (BitVec.allOnes 64) :=
  if_neg (acts_whole (r := (.tmemScrub t)) rfl)

theorem writeReg_memRoot (c : Nat) : s.writeReg (.memRoot c) w (BitVec.allOnes 64) = s.writeCodes (.memRoot c) w (BitVec.allOnes 64) :=
  if_neg (acts_whole (r := (.memRoot c)) rfl)

theorem writeReg_strokeTiming : s.writeReg .strokeTiming w (BitVec.allOnes 64) = s.writeCodes .strokeTiming w (BitVec.allOnes 64) :=
  if_neg (t := s) (e := s.writeCodes .strokeTiming w (BitVec.allOnes 64)) (acts_whole (r := .strokeTiming) rfl)

theorem writeReg_bobCfg (t l : Nat) : s.writeReg (.bobCfg t l) w (BitVec.allOnes 64) = s.writeBob (256 * t + l) w :=
  (if_neg (acts_whole (r := (.bobCfg t l)) rfl)).trans (congrArg (s.writeBob _) (word_whole _ w))

theorem writeReg_knotCfg (t l : Nat) : s.writeReg (.knotCfg t l) w (BitVec.allOnes 64) = s.writeKnot (128 * t + l) w w :=
  (if_neg (acts_whole (r := (.knotCfg t l)) rfl)).trans (congrArg₂ (s.writeKnot _) (word_whole _ w) (BitVec.and_allOnes ..))

theorem writeReg_nibCore (t n : Nat) : s.writeReg (.nibCore t n) w (BitVec.allOnes 64) = s.nibBind (8 * t + n) (bitAt w 63) (bits w 59 56) :=
  (if_neg (acts_whole (r := (.nibCore t n)) rfl)).trans (congrArg (fun v => s.nibBind _ (bitAt v 63) (bits v 59 56)) (word_whole _ w))

theorem writeReg_quillHart (d h : Nat) : s.writeReg (.quillHart d h) w (BitVec.allOnes 64) = s.writeHart (32 * d + h) w (BitVec.allOnes 64) :=
  (if_neg (acts_whole (r := (.quillHart d h)) rfl)).trans (congrArg (s.writeHart _ · _) (word_whole _ w))

theorem writeReg_tbobPool (t : Nat) : s.writeReg (.tbobPool t) w (BitVec.allOnes 64) = s.poolWrite t (bits w 48 32) (bits w 16 0) :=
  (if_neg (acts_whole (r := (.tbobPool t)) rfl)).trans (congrArg (fun v => s.poolWrite t (bits v 48 32) (bits v 16 0)) (word_whole _ w))

theorem writeReg_ctxrCtrl (c : Nat) : s.writeReg (.ctxrCtrl c) w (BitVec.allOnes 64) = if bitAt w 31 then s.resetRequest c else s :=
  (if_neg (acts_whole (r := (.ctxrCtrl c)) rfl)).trans (congrArg (fun v => if bitAt v 31 then s.resetRequest c else s) (BitVec.and_allOnes ..))

theorem writeReg_strokeCtrl : s.writeReg .strokeCtrl w (BitVec.allOnes 64) = s.writeStrokeCtrl w :=
  (if_neg (t := s) (e := s.writeStrokeCtrl (w &&& BitVec.allOnes 64)) (acts_whole (r := .strokeCtrl) rfl)).trans (congrArg s.writeStrokeCtrl (BitVec.and_allOnes ..))

end Whole

/-! ### Fields as the commands take them -/

theorem bits_lt (w : W64) (hi lo : Nat) : bits w hi lo < 2 ^ (hi + 1 - lo) := Nat.mod_lt _ (Nat.two_pow_pos _)

theorem fin16_bits (w : W64) : ((Fin.ofNat 16 (bits w 59 56) : Fin 16) : Nat) = bits w 59 56 := Nat.mod_eq_of_lt (bits_lt w 59 56)

/-- A one-bit field is its bit. -/
theorem bits_ne_zero (w : W64) (i : Nat) : decide (bits w i i ≠ 0) = bitAt w i := by
  have h := testBit_bits w i i 0
  have hlt := bits_lt w i i
  rw [Nat.add_sub_cancel_left] at h hlt
  have hb : bits w i i = 0 ∨ bits w i i = 1 := by omega
  rcases hb with hb | hb <;> rw [hb] at h ⊢ <;> simpa [bitAt] using h

/-! ### The statement -/

/-- Settles O35: the map leads each write to its register; a register of plain fields stores them, and each other does what its command
does with the fields of the word. -/
theorem writtenFieldsTakeEffect : Obligations.WrittenFieldsTakeEffect := by
  intro s data ho hp hl w write
  have hwrite : ∀ r : Reg, regAt r.addr = some r → r.addr % 8 = 0 → r.vfOnly = false → write r = .next (s.writeReg r w (BitVec.allOnes 64)) :=
    fun r => exec_registerWrite_pf ho hp hl
  have hstroke : write .strokeTiming = .next (s.writeCodes .strokeTiming w (BitVec.allOnes 64)) := by
    rw [hwrite _ rfl rfl rfl, writeReg_strokeTiming]
  refine ⟨fun t => ?_, fun c => ?_, fun hk => ⟨_, hstroke, fun f hf hacc => ?_⟩, fun hk => ⟨_, hstroke, ?_⟩, fun c h31 => ?_, fun b => ?_,
    fun k => ?_, fun n => ?_, fun h => ?_, fun t => ?_, fun h1 h2 h3 => ?_⟩
  · rw [hwrite _ (regAt_tmemScrub t.isLt) (by simp only [Reg.addr]; omega) rfl, writeReg_tmemScrub]
    exact ⟨_, rfl, fld_writeCodes_whole s w (by simp only [Reg.addr, Reg.violation]; omega) (f := ⟨.PERIOD_MIN, 15, 0, .RW, 0x3c⟩)
      (by simp [Reg.fields]) (.inl rfl), mem_writeCodes ..⟩
  · rw [hwrite _ (regAt_memRoot c.isLt) (by simp only [Reg.addr]; omega) rfl, writeReg_memRoot]
    have hfld {f : Field} := fld_writeCodes_whole s (r := .memRoot c) w (by simp only [Reg.addr, Reg.violation]; omega) (f := f)
    refine ⟨_, rfl, hfld (f := ⟨.BASE, 39, 13, .RW, 0⟩) (by simp [Reg.fields]) (.inl rfl), ?_⟩
    rw [State.flag, hfld (f := ⟨.ENABLE, 63, 63, .RW, 0⟩) (by simp [Reg.fields]) (.inl rfl)]
    exact bits_ne_zero w 63
  · exact fld_writeCodes_whole s w (by decide) hf (.inr ⟨hacc, hk⟩)
  · rw [reg_writeCodes s w _ (by decide), show s.locked .strokeTiming = true from hk]
    exact codesWord_locked w _ (by simp [Reg.fields]) _
  · rw [hwrite _ (regAt_ctxrCtrl c.isLt) (by simp only [Reg.addr]; omega) rfl, writeReg_ctxrCtrl, if_pos h31]
    rfl
  · rw [bobCfg, hwrite _ (regAt_bobCfg (by omega) (by omega)) (by simp only [Reg.addr]; omega) rfl, writeReg_bobCfg, Nat.div_add_mod]
    unfold State.writeBob
    split <;> rfl
  · rw [knotCfg, hwrite _ (regAt_knotCfg (by omega) (by omega)) (by simp only [Reg.addr]; omega) rfl, writeReg_knotCfg, Nat.div_add_mod]
    unfold State.writeKnot
    split <;> rfl
  · rw [coreReg, hwrite _ (regAt_nibCore (by omega) (by omega)) (by simp only [Reg.addr]; omega) rfl, writeReg_nibCore, Nat.div_add_mod]
    exact congrArg (fun c => Host.Outcome.next (s.nibBind n (bitAt w 63) c)) (fin16_bits w).symm
  · rw [hartReg, hwrite _ (regAt_quillHart (by omega) (by omega)) (by simp only [Reg.addr]; omega) rfl, writeReg_quillHart, Nat.div_add_mod]
    rfl
  · rw [hwrite _ (regAt_tbobPool t.isLt) (by simp only [Reg.addr]; omega) rfl, writeReg_tbobPool]
    exact congrArg₂ (fun size base => Host.Outcome.next (s.poolWrite t size base)) (Nat.mod_eq_of_lt (bits_lt w 48 32)).symm
      (Nat.mod_eq_of_lt (bits_lt w 16 0)).symm
  · rw [hwrite _ rfl rfl rfl, writeReg_strokeCtrl]
    simp only [State.writeStrokeCtrl, h1, h2, h3, if_true, Bool.false_eq_true, if_false]
    rfl

end Sys2Proof.Proofs
end

section
/-!
What a fold over units leaves, and several fields of a register set at once.
-/
namespace Sys2Proof.Proofs
open Sys2Proof.Machine Sys2Proof.Laws

/-! ### Folds over units -/

/-- What every pass of a fold leaves, the fold leaves. -/
theorem foldl_same {β γ : Type} (g : State → γ) {f : State → β → State} {l : List β} (h : ∀ s, ∀ b ∈ l, g (f s b) = g s) (s : State) :
    g (l.foldl f s) = g s := by
  induction l generalizing s with
  | nil => rfl
  | cons b l ih => rw [List.foldl_cons, ih fun s c hc => h s c (List.mem_cons_of_mem _ hc), h s b List.mem_cons_self]

theorem start_of_events {s t : State} (h : Events s t) : t.start = s.start := by rw [Events] at h; rw [h]

theorem perm_of_events {s t : State} (h : Events s t) : t.perm = s.perm := by rw [Events] at h; rw [h]

theorem pending_mem_straps_of_events {s t : State} (h : Events s t) : t.pending = s.pending ∧ t.mem = s.mem ∧ t.straps = s.straps := by
  rw [Events] at h
  and_intros <;> rw [h]

theorem events_foldl {β : Type} {f : State → β → State} (h : ∀ s b, Events s (f s b)) (l : List β) (s : State) : Events s (l.foldl f s) := by
  induction l generalizing s with
  | nil => exact .refl s
  | cons b l ih => exact (h s b).trans (ih _)

/-! ### Several fields of a register -/

theorem reg_setFld_other (s : State) {r q : Reg} (f : FName) (v : Nat) (h : q.addr ≠ r.addr) : (s.setFld r f v).reg q = s.reg q :=
  reg_setReg_other s _ h

theorem reg_setFlds_other (s : State) {r q : Reg} (l : List (FName × Nat)) (h : q.addr ≠ r.addr) : (s.setFlds r l).reg q = s.reg q :=
  foldl_same (·.reg q) (fun s _ _ => reg_setFld_other s _ _ h) s

/-- A field of the register that is not among them is as it was. -/
theorem fld_setFlds_of_not_mem (s : State) (r : Reg) {l : List (FName × Nat)} (hl : ∀ e ∈ l, hasField r e.1 = true) {f : FName}
    (hf : hasField r f = true) (h : f ∉ l.map Prod.fst) : (s.setFlds r l).fld r f = s.fld r f :=
  foldl_same (·.fld r f) (fun s e he => fld_setFld_ne s r _ (hl e he) hf fun x => h (x ▸ List.mem_map_of_mem he)) s

/-- Each of them reads back modulo its width, if no name stands twice. -/
theorem fld_setFlds_of_mem (s : State) (r : Reg) {l : List (FName × Nat)} (hl : ∀ e ∈ l, hasField r e.1 = true) (hn : (l.map Prod.fst).Nodup)
    {f : FName} {v : Nat} (h : (f, v) ∈ l) : (s.setFlds r l).fld r f = v % 2 ^ ((r.pos f).1 + 1 - (r.pos f).2) := by
  induction l generalizing s with
  | nil => simp at h
  | cons e l ih =>
    obtain ⟨he, hl'⟩ := List.forall_mem_cons.mp hl
    obtain ⟨hne, hn'⟩ := List.nodup_cons.mp hn
    rw [setFlds_cons]
    rcases List.mem_cons.mp h with rfl | h
    · rw [fld_setFlds_of_not_mem _ _ hl' he hne, fld_setFld]
    · exact ih _ hl' hn' h

end Sys2Proof.Proofs
end

section
/-!
The start of the package: a step begun and ended, and what the work of a step leaves of START.STAT (R436, R438, R461).
-/
namespace Sys2Proof.Proofs
open Sys2Proof.Machine Sys2Proof.Laws

/-! ### A step begins -/

/-- What the start keeps beside its registers is no register. -/
theorem reg_withStart (s : State) (st : StartSt) (q : Reg) : ({ s with start := st } : State).reg q = s.reg q := rfl

theorem reg_beginStep (s : State) (k : Nat) (q : Reg) :
    (s.beginStep k).reg q = (s.setFlds .startStat [(.STEP, k), (.STATE, 1), (.CAUSE, 0)]).reg q := by
  rw [State.beginStep, reg_withStart]

theorem reg_beginStep_other (s : State) (k : Nat) {q : Reg} (h : q.addr ≠ Reg.startStat.addr) : (s.beginStep k).reg q = s.reg q := by
  rw [reg_beginStep, reg_setFlds_other _ _ h]

theorem pos_startStat_STEP : Reg.startStat.pos .STEP = (3, 0) := rfl
theorem pos_startStat_STATE : Reg.startStat.pos .STATE = (9, 8) := rfl
theorem pos_startStat_CAUSE : Reg.startStat.pos .CAUSE = (23, 16) := rfl

theorem fld_beginStep (s : State) {k : Nat} (hk : k < 16) : (s.beginStep k).fld .startStat .STATE = 1 ∧ (s.beginStep k).fld .startStat .STEP = k := by
  have hl : ∀ e ∈ [(FName.STEP, k), (.STATE, 1), (.CAUSE, 0)], hasField .startStat e.1 = true := by simp; and_intros <;> rfl
  rw [fld_congr (reg_beginStep ..), fld_congr (reg_beginStep ..), fld_setFlds_of_mem s .startStat hl (by simp) (v := 1) (by simp),
    fld_setFlds_of_mem s .startStat hl (by simp) (v := k) (by simp), pos_startStat_STEP, pos_startStat_STATE]
  exact ⟨rfl, Nat.mod_eq_of_lt hk⟩

theorem perm_beginStep (s : State) (k : Nat) : (s.beginStep k).perm = s.perm := by rw [State.beginStep]; rfl

/-- The step has no outcome yet, and what lies outside START.STAT is as it was. -/
theorem start_beginStep (s : State) (k : Nat) : (s.beginStep k).start = { s.start with since := s.time, outcome := 0 } := by rw [State.beginStep]; rfl

theorem pending_mem_straps_beginStep (s : State) (k : Nat) :
    (s.beginStep k).pending = s.pending ∧ (s.beginStep k).mem = s.mem ∧ (s.beginStep k).straps = s.straps := by
  rw [State.beginStep]; exact ⟨rfl, rfl, rfl⟩

/-! ### What the work of a step leaves -/

/-- START.STAT and the highest step passed are as they were. -/
def KeepsStart (s t : State) : Prop := t.reg .startStat = s.reg .startStat ∧ t.start.passed = s.start.passed

theorem KeepsStart.refl (s : State) : KeepsStart s s := ⟨rfl, rfl⟩

theorem KeepsStart.trans {s t u : State} (h : KeepsStart s t) (g : KeepsStart t u) : KeepsStart s u := ⟨g.1.trans h.1, g.2.trans h.2⟩

theorem keepsStart_foldl {β : Type} {f : State → β → State} (h : ∀ s b, KeepsStart s (f s b)) (l : List β) (s : State) : KeepsStart s (l.foldl f s) :=
  ⟨foldl_same (·.reg .startStat) (fun s b _ => (h s b).1) s, foldl_same (·.start.passed) (fun s b _ => (h s b).2) s⟩

theorem keepsStart_setReg (s : State) {r : Reg} (w : W64) (h : Reg.startStat.addr ≠ r.addr) : KeepsStart s (s.setReg r w) := ⟨reg_setReg_other s w h, rfl⟩

theorem keepsStart_setFld (s : State) {r : Reg} (f : FName) (v : Nat) (h : Reg.startStat.addr ≠ r.addr) : KeepsStart s (s.setFld r f v) :=
  keepsStart_setReg s _ h

theorem keepsStart_list (s : State) (kind origin : Nat) (z : Bool) (tile loc : Nat) : KeepsStart s (s.list kind origin z tile loc) := by
  rw [list_eq]; exact .refl s

/-- The registers of a tile lie above START.STAT. -/
theorem startStat_ne_tstartResult (t : Nat) : Reg.startStat.addr ≠ (Reg.tstartResult t).addr := by simp only [Reg.addr]; omega

theorem startStat_ne_tambArray (t a : Nat) : Reg.startStat.addr ≠ (Reg.tambArray t a).addr := by simp only [Reg.addr]; omega

theorem keepsStart_tstartResult (s : State) (t : Nat) (f : FName) (v : Nat) : KeepsStart s (s.setFld (.tstartResult t) f v) :=
  keepsStart_setFld s f v (startStat_ne_tstartResult t)

/-! ### A step's work (R438) -/

theorem runStep_of_next {s : State} {k : Nat} (h : s.stepNext k = true) (f : State → State × Nat) :
    s.runStep k f = { (f (s.beginStep k)).1 with start := { (f (s.beginStep k)).1.start with outcome := (f (s.beginStep k)).2 } } := if_pos h

/-- Out of order, a step command sets ORDER_ERR alone. -/
theorem runStep_of_not_next {s : State} {k : Nat} (h : s.stepNext k = false) (f : State → State × Nat) :
    s.runStep k f = s.setFlag .startStat .ORDER_ERR true := if_neg (by simp [h])

/-- In order, it begins its step; its outcome waits for the end of the step. -/
theorem runStep_begins {s : State} {k : Nat} (h : s.stepNext k = true) (hk : k < 16) {f : State → State × Nat}
    (hf : KeepsStart (s.beginStep k) (f (s.beginStep k)).1) : let t := s.runStep k f
    t.fld .startStat .STATE = 1 ∧ t.fld .startStat .STEP = k ∧ t.start.passed = s.start.passed ∧ t.start.outcome = (f (s.beginStep k)).2 := by
  obtain ⟨hreg, hpassed⟩ := hf
  obtain ⟨hstate, hstep⟩ := fld_beginStep s hk
  dsimp only
  rw [runStep_of_next h]
  exact ⟨(fld_congr hreg _).trans hstate, (fld_congr hreg _).trans hstep, hpassed, rfl⟩

/-! ### A step ends -/

theorem reg_send (s : State) (o : Output) (q : Reg) : (s.send o).reg q = s.reg q := rfl

/-- Vector 1 of the PF leaves START.STAT. -/
theorem reg_startStat_pfEvent (s : State) : (s.pfEvent 1).reg .startStat = s.reg .startStat :=
  reg_vectorEvent _ _ _ (by simp [armedReg, Reg.addr]) (by simp [pendReg, Reg.addr]) (by simp [pbaReg, Reg.addr])

theorem events_endStep (s : State) (k out : Nat) : Events s (s.endStep k out) :=
  (events_setFlds ..).trans ((events_send ..).trans (events_pfEvent ..))

theorem reg_endStep (s : State) (k out : Nat) : ∃ e, (s.endStep k out).reg .startStat =
    (s.setFlds .startStat [(.STEP, k), (.STATE, if out = 0 then 2 else 3), (.CAUSE, out), (.ELAPSED, e)]).reg .startStat :=
  ⟨min ((s.time - s.start.since) / 1000000) 0xFFFF, by rw [State.endStep, reg_startStat_pfEvent, reg_send]⟩

/-- The end of a step shows PASSED, or FAILED with its cause. -/
theorem fld_endStep (s : State) (k : Nat) {out : Nat} (ho : out < 256) :
    (s.endStep k out).fld .startStat .STATE = (if out = 0 then 2 else 3) ∧ (s.endStep k out).fld .startStat .CAUSE = out := by
  obtain ⟨e, he⟩ := reg_endStep s k out
  have hl : ∀ x ∈ [(FName.STEP, k), (.STATE, if out = 0 then 2 else 3), (.CAUSE, out), (.ELAPSED, e)], hasField .startStat x.1 = true := by
    simp; and_intros <;> rfl
  rw [fld_congr he, fld_congr he, fld_setFlds_of_mem s .startStat hl (by simp) (v := if out = 0 then 2 else 3) (by simp),
    fld_setFlds_of_mem s .startStat hl (by simp) (v := out) (by simp), pos_startStat_STATE, pos_startStat_CAUSE]
  exact ⟨by split <;> rfl, Nat.mod_eq_of_lt ho⟩

theorem start_endStep (s : State) (k out : Nat) : (s.endStep k out).start = s.start := start_of_events (events_endStep s k out)

end Sys2Proof.Proofs
end

section
/-!
The work of the start steps: limits, listing, the mapping of spares, and the known-answer runs (R439 to R447).
-/
namespace Sys2Proof.Proofs
open Sys2Proof.Machine Sys2Proof.Laws

/-! ### The defect list (R443, R444) -/

/-- A unit whose key is listed, or any on a full list, is not listed. -/
theorem list_of_listed {s : State} {kind origin tile loc : Nat} {z : Bool}
    (h : 4096 ≤ s.perm.defects.length ∨ ∃ d ∈ s.perm.defects, defectKey d = defectKey (defectEntry kind origin z s.perm.boots.toNat tile loc)) :
    s.list kind origin z tile loc = s := if_pos (by simpa using h)

theorem list_of_new {s : State} {kind origin tile loc : Nat} {z : Bool} (hl : s.perm.defects.length < 4096)
    (h : ∀ d ∈ s.perm.defects, defectKey d ≠ defectKey (defectEntry kind origin z s.perm.boots.toNat tile loc)) :
    s.list kind origin z tile loc =
      { s with perm := { s.perm with defects := s.perm.defects ++ [defectEntry kind origin z s.perm.boots.toNat tile loc] } } :=
  if_neg (by simpa using ⟨hl, h⟩)

/-- What listing leaves in the permanent store depends on the permanent store alone. -/
theorem perm_list_congr {s t : State} (h : t.perm = s.perm) (kind origin : Nat) (z : Bool) (tile loc : Nat) :
    (t.list kind origin z tile loc).perm = (s.list kind origin z tile loc).perm := by
  unfold State.list
  rw [h]
  dsimp only
  split
  · exact h
  · rfl

theorem perm_listMem_congr {s t : State} (h : t.perm = s.perm) (x : MemFailure) : (t.listMem x).perm = (s.listMem x).perm := by
  cases x <;> exact perm_list_congr h ..

theorem perm_listUnit_congr {s t : State} (h : t.perm = s.perm) (x : PhysUnit) : (t.listUnit x).perm = (s.listUnit x).perm := by
  cases x <;> exact perm_list_congr h ..

/-- So with a list of failures. -/
theorem perm_foldl_congr {β : Type} {f : State → β → State} (hf : ∀ {s t : State}, t.perm = s.perm → ∀ b, (f t b).perm = (f s b).perm) {s t : State}
    (h : t.perm = s.perm) (l : List β) : (l.foldl f t).perm = (l.foldl f s).perm := by
  induction l generalizing s t with
  | nil => exact h
  | cons b l ih => exact ih (hf h b)

theorem keepsStart_listMem (s : State) (x : MemFailure) : KeepsStart s (s.listMem x) := by cases x <;> exact keepsStart_list ..
theorem keepsStart_listUnit (s : State) (x : PhysUnit) : KeepsStart s (s.listUnit x) := by cases x <;> exact keepsStart_list ..
theorem keepsStart_listKat (s : State) (x : KatUnit) : KeepsStart s (s.listKat x) := by cases x <;> exact keepsStart_list ..

/-! ### Physical units (R445, Table 14-4) -/

theorem physOf_setPhys_same (s : State) (kind tile unit p : Nat) : (s.setPhys kind tile unit p).physOf kind tile unit = p := smGet_smSet_same ..

/-- Another kind, tile or unit keeps its physical unit. -/
theorem physOf_setPhys_other (s : State) {kind tile unit kind' tile' unit' : Nat} (p : Nat) (ht : tile < 32) (ht' : tile' < 32) (hu : unit < 64)
    (hu' : unit' < 64) (h : kind ≠ kind' ∨ tile ≠ tile' ∨ unit ≠ unit') :
    (s.setPhys kind tile unit p).physOf kind' tile' unit' = s.physOf kind' tile' unit' := smGet_smSet_other _ _ _ (by omega)

/-- The physical units set for a list of logical ones leave those of other kinds and tiles. -/
theorem physOf_foldl_setPhys_other {β : Type} (unit phys : β → Nat) {l : List β} (hl : ∀ b ∈ l, unit b < 64) {kind tile kind' tile' unit' : Nat} (ht : tile < 32)
    (ht' : tile' < 32) (hu' : unit' < 64) (h : kind ≠ kind' ∨ tile ≠ tile') (s : State) :
    (l.foldl (fun s b => s.setPhys kind tile (unit b) (phys b)) s).physOf kind' tile' unit' = s.physOf kind' tile' unit' :=
  foldl_same (·.physOf kind' tile' unit') (fun s b hb => physOf_setPhys_other s _ ht ht' (hl b hb) hu' (by tauto)) s

theorem physOf_mapUnits_other (s : State) {kind tile n : Nat} (phys : List Nat) {kind' tile' unit' : Nat} (hn : n ≤ 64) (ht : tile < 32) (ht' : tile' < 32)
    (hu' : unit' < 64) (h : kind ≠ kind' ∨ tile ≠ tile') : (s.mapUnits kind tile n phys).physOf kind' tile' unit' = s.physOf kind' tile' unit' :=
  physOf_foldl_setPhys_other (fun i => i) (phys.getD · 63) (fun _ hb => by have := List.mem_range.mp hb; omega) ht ht' hu' h s

/-- Each logical unit of the range takes the physical unit at its place of the list. -/
theorem physOf_mapUnits_same (s : State) {kind tile n : Nat} (phys : List Nat) {unit : Nat} (ht : tile < 32) (hn : n ≤ 64) (hu : unit < n) :
    (s.mapUnits kind tile n phys).physOf kind tile unit = phys.getD unit 63 := by
  induction n with
  | zero => omega
  | succ n ih =>
    rw [State.mapUnits, List.range_succ, List.foldl_append, List.foldl_cons, List.foldl_nil]
    by_cases h : unit = n
    · rw [h, physOf_setPhys_same]
    · rw [physOf_setPhys_other _ _ ht ht (by omega) (by omega) (.inr (.inr (Ne.symm h)))]
      exact ih (by omega) (by omega)

theorem physOf_mapBanks_other (s : State) {tile kind' tile' unit' : Nat} (ht : tile < 32) (ht' : tile' < 32) (hu' : unit' < 64)
    (h : 3 ≠ kind' ∨ tile ≠ tile') : (s.mapBanks tile).1.physOf kind' tile' unit' = s.physOf kind' tile' unit' := by
  have hbank : ∀ b ∈ List.range 48, b < 64 := fun b hb => by have := List.mem_range.mp hb; omega
  refine (physOf_foldl_setPhys_other Prod.fst Prod.snd (fun p hp => hbank _ ?_) ht ht' hu' h _).trans
    (physOf_foldl_setPhys_other (fun b => b) (fun b => b) hbank ht ht' hu' h s)
  exact List.mem_of_mem_filter (List.of_mem_zip (b := p.2) hp).1

/-! ### What the mapping leaves -/

/-- START.STAT, the highest step passed and the permanent store are as they were. -/
def Mapped (s t : State) : Prop := KeepsStart s t ∧ t.perm = s.perm

theorem Mapped.refl (s : State) : Mapped s s := ⟨.refl s, rfl⟩

theorem Mapped.trans {s t u : State} (h : Mapped s t) (g : Mapped t u) : Mapped s u := ⟨h.1.trans g.1, g.2.trans h.2⟩

theorem mapped_foldl {β : Type} {f : State → β → State} (h : ∀ s b, Mapped s (f s b)) (l : List β) (s : State) : Mapped s (l.foldl f s) :=
  ⟨keepsStart_foldl (fun s b => (h s b).1) l s, foldl_same State.perm (fun s b _ => (h s b).2) s⟩

theorem mapped_tstartResult (s : State) (t : Nat) (f : FName) (v : Nat) : Mapped s (s.setFld (.tstartResult t) f v) :=
  ⟨keepsStart_tstartResult s t f v, rfl⟩

theorem mapped_setPhys (s : State) (kind tile unit phys : Nat) : Mapped s (s.setPhys kind tile unit phys) := ⟨⟨rfl, rfl⟩, rfl⟩

theorem mapped_mapUnits (s : State) (kind tile n : Nat) (phys : List Nat) : Mapped s (s.mapUnits kind tile n phys) :=
  mapped_foldl (fun s i => mapped_setPhys s kind tile i _) _ s

theorem mapped_mapBanks (s : State) (tile : Nat) : Mapped s (s.mapBanks tile).1 :=
  (mapped_foldl (fun s b => mapped_setPhys s 3 tile b b) _ s).trans (mapped_foldl (fun s (p : Nat × Nat) => mapped_setPhys s 3 tile p.1 p.2) _ _)

theorem mapped_mapTile (s : State) (t : Nat) : Mapped s (s.mapTile t).1 :=
  (mapped_mapUnits ..).trans ((mapped_mapUnits ..).trans ((mapped_mapBanks ..).trans (mapped_foldl (fun s (e : FName × Nat) => mapped_tstartResult s t e.1 e.2) _ _)))

theorem mapped_mapQuill (s : State) : Mapped s s.mapQuill :=
  mapped_foldl (fun s h => by dsimp only; split; exacts [⟨⟨rfl, rfl⟩, rfl⟩, .refl s]) _ s

/-- Which units are healthy, which rows and banks are short: the permanent store alone decides. -/
theorem healthy_congr {s t : State} (h : t.perm = s.perm) (kind tile n : Nat) : t.healthy kind tile n = s.healthy kind tile n := by
  simp only [State.healthy, State.isListed, h]

theorem rowsShort_congr {s t : State} (h : t.perm = s.perm) (tile : Nat) : t.rowsShort tile = s.rowsShort tile := by
  simp only [State.rowsShort, h]

theorem banksShort_congr {s t : State} (h : t.perm = s.perm) (tile : Nat) : (t.mapBanks tile).2 = (s.mapBanks tile).2 := by
  simp only [State.mapBanks, State.isListed, h]

/-! ### One tile, and the tiles of a list (R445) -/

/-- Has a tile a row or a bank without a spare? -/
def tileShort (s : State) (t : Nat) : Bool := s.rowsShort t ≠ 0 || (s.mapBanks t).2 ≠ 0

theorem tileShort_congr {s t : State} (h : t.perm = s.perm) : tileShort t = tileShort s := by
  funext tile
  simp only [tileShort, rowsShort_congr h, banksShort_congr h]

theorem mapTile_short (s : State) (t : Nat) : (s.mapTile t).2 = tileShort s t := by
  rw [tileShort, ← banksShort_congr ((mapped_mapUnits s 1 t 16 (s.healthy 1 t 17)).trans (mapped_mapUnits _ 2 t 8 (s.healthy 2 t 9))).2]
  rfl

theorem physOf_setFlds (s : State) (r : Reg) (l : List (FName × Nat)) (kind tile unit : Nat) : (s.setFlds r l).physOf kind tile unit = s.physOf kind tile unit :=
  congrArg (·.physOf kind tile unit) (setFlds_eq s r l)

/-- The arrays of a mapped tile take its healthy physical arrays; those of another are as they were. -/
theorem physOf_mapTile (s : State) {t tile unit : Nat} (ht : t < 32) (htile : tile < 32) (hu : unit < 16) :
    (s.mapTile t).1.physOf 1 tile unit = if t = tile then (s.healthy 1 t 17).getD unit 63 else s.physOf 1 tile unit := by
  rw [State.mapTile]
  dsimp only
  rw [physOf_setFlds, physOf_mapBanks_other _ ht htile (by omega) (.inl (by decide)), physOf_mapUnits_other _ _ (by decide) ht htile (by omega) (.inl (by decide))]
  split
  case isTrue h => rw [← h, physOf_mapUnits_same _ _ ht (by decide) hu]
  case isFalse h => rw [physOf_mapUnits_other _ _ (by decide) ht htile (by omega) (.inr h)]

/-- The tiles of a list mapped, one after another. -/
def mapTiles (s : State) (tiles : List Nat) : State := tiles.foldl (fun s t => (s.mapTile t).1) s

theorem mapped_mapTiles (s : State) (tiles : List Nat) : Mapped s (mapTiles s tiles) := mapped_foldl mapped_mapTile tiles s

/-- MAP maps the tiles of its list and the Quill cores, and says whether one of the tiles is short. -/
theorem mapAll_eq (s : State) (tiles : List Nat) : s.mapAll tiles = ((mapTiles s tiles).mapQuill, tiles.any (tileShort s)) := by
  have h : ∀ (l : List Nat) (u : State) (b : Bool), l.foldl (fun acc t => ((acc.1.mapTile t).1, acc.2 || (acc.1.mapTile t).2)) (u, b) =
      (mapTiles u l, b || l.any (tileShort u)) := by
    intro l
    induction l with
    | nil => simp [mapTiles]
    | cons t l ih =>
      intro u b
      rw [List.foldl_cons, ih, mapTile_short, tileShort_congr (mapped_mapTile u t).2, List.any_cons, Bool.or_assoc]
      rfl
  rw [State.mapAll, h, Bool.false_or]

theorem mapped_mapAll (s : State) (tiles : List Nat) : Mapped s (s.mapAll tiles).1 := by
  rw [mapAll_eq]
  dsimp only
  exact (mapped_mapTiles s tiles).trans (mapped_mapQuill (mapTiles s tiles))

theorem physOf_mapTiles (s : State) {tiles : List Nat} (hl : ∀ t ∈ tiles, t < 32) {tile unit : Nat} (htile : tile < 32) (hu : unit < 16) :
    (mapTiles s tiles).physOf 1 tile unit = if tile ∈ tiles then (s.healthy 1 tile 17).getD unit 63 else s.physOf 1 tile unit := by
  induction tiles generalizing s with
  | nil => rfl
  | cons t l ih =>
    obtain ⟨ht, hl'⟩ := List.forall_mem_cons.mp hl
    have hcons : mapTiles s (t :: l) = mapTiles (s.mapTile t).1 l := rfl
    rw [hcons, ih _ hl', healthy_congr (mapped_mapTile s t).2, physOf_mapTile s ht htile hu]
    by_cases h : tile ∈ l
    · rw [if_pos h, if_pos (List.mem_cons_of_mem _ h)]
    · by_cases e : t = tile
      · rw [if_neg h, if_pos e, if_pos (e ▸ List.mem_cons_self), e]
      · rw [if_neg h, if_neg e, if_neg (by simp [h, Ne.symm e])]

theorem physOf_mapQuill (s : State) (kind tile unit : Nat) : s.mapQuill.physOf kind tile unit = s.physOf kind tile unit :=
  foldl_same (·.physOf kind tile unit) (fun s h _ => by dsimp only; split <;> rfl) s

/-- MAP gives the logical arrays of every tile of its list the healthy physical ones, upwards. -/
theorem physOf_mapAll (s : State) {tiles : List Nat} (hl : ∀ t ∈ tiles, t < 32) {tile unit : Nat} (ht : tile ∈ tiles) (hu : unit < 16) :
    (s.mapAll tiles).1.physOf 1 tile unit = (s.healthy 1 tile 17).getD unit 63 := by
  rw [mapAll_eq, physOf_mapQuill, physOf_mapTiles s hl (hl _ ht) hu, if_pos ht]

/-! ### Known-answer runs (R446, R447) -/

theorem keepsStart_addFld_tstartResult (s : State) (t : Nat) (f : FName) (k : Nat) : KeepsStart s (s.addFld (.tstartResult t) f k) :=
  keepsStart_tstartResult s t f _

theorem keepsStart_katRounds (n : Nat) (rs : List KatRound) (tiles dies : List Nat) (s : State) : KeepsStart s (State.katRounds n rs tiles dies s).1 := by
  have hcount : ∀ (tiles : List Nat) (s : State), KeepsStart s (tiles.foldl (fun s t => s.addFld (.tstartResult t) .ROUNDS 1) s) :=
    keepsStart_foldl fun s t => keepsStart_addFld_tstartResult s t _ _
  induction rs generalizing n tiles dies s with
  | nil => exact hcount tiles s
  | cons r rs ih =>
    rw [State.katRounds]
    dsimp only
    have hlist := fun l => (hcount tiles s).trans (keepsStart_foldl keepsStart_listKat l _)
    split
    · exact hcount tiles s
    split
    · exact hcount tiles s
    split
    · exact hlist _
    have hmap := fun l tiles => (hlist l).trans (mapped_mapAll _ tiles).1
    split
    · dsimp only
      exact hmap ..
    · refine KeepsStart.trans ?_ (ih ..)
      exact hmap ..

/-- Without a round to run, KAT counts one and lists nothing. -/
theorem katRounds_nil (n : Nat) (tiles dies : List Nat) (s : State) : (State.katRounds n [] tiles dies s).2 = 0 ∧ (State.katRounds n [] tiles dies s).1.perm = s.perm :=
  ⟨rfl, foldl_same State.perm (f := fun s t => s.addFld (.tstartResult t) .ROUNDS 1) (fun _ _ _ => rfl) s⟩

end Sys2Proof.Proofs
end

section
/-!
O54: the reset of the package, power-good, the run limits, and the commands that begin and end the start steps (R24, R436 to R450).
-/
namespace Sys2Proof.Proofs
open Sys2Proof.Machine Sys2Proof.Laws

/-! ### Package reset (R456, R591) -/

/-- A commit in progress is there whole or not at all; nothing else of the permanent store changes. -/
theorem perm_settleCommit (s : State) : (s.start.commit = none → s.settleCommit.perm = s.perm) ∧
    ∀ r, s.start.commit = some r → s.settleCommit.perm = s.perm ∨ s.settleCommit.perm = { s.perm with record := some r } := by
  unfold State.settleCommit
  cases s.start.commit with
  | none => exact ⟨fun _ => rfl, fun _ h => nomatch h⟩
  | some r =>
    refine ⟨nofun, fun q hq => ?_⟩
    cases hq
    dsimp only
    split
    · exact .inr rfl
    · exact .inl rfl

/-- What a package reset keeps is what settling a commit keeps. -/
theorem settleCommit_frame (s : State) : s.settleCommit.pending = s.pending ∧ s.settleCommit.straps = s.straps ∧ s.settleCommit.outbox = s.outbox ∧
    s.settleCommit.rack = s.rack := by
  unfold State.settleCommit
  split
  · exact ⟨rfl, rfl, rfl, rfl⟩
  · dsimp only
    split <;> exact ⟨rfl, rfl, rfl, rfl⟩

/-! ### Power-good (R24, R437, R438) -/

theorem reg_foldl_setFld_other (R : Nat → Reg) (f : FName) (v : Nat → Nat) (l : List Nat) {q : Reg} (h : ∀ i, q.addr ≠ (R i).addr) (s : State) :
    (l.foldl (fun s i => s.setFld (R i) f (v i)) s).reg q = s.reg q :=
  foldl_same (·.reg q) (fun s i _ => reg_setFld_other s f _ (h i)) s

theorem power_le_pwrW (i : Nat) : 0x300000 ≤ (Reg.pwrW i).addr := by
  show 0x300000 ≤ 0x300000 + 0x0100 + 8 * i
  omega

theorem power_le_pwrStatic (j : Nat) : 0x300000 ≤ (Reg.pwrStatic j).addr := by
  show 0x300000 ≤ 0x300000 + 0x0200 + 8 * j
  omega

/-- Of the registers below the power block, the permanent store gives ID.VARIANT and ID.POSITION. -/
theorem reg_loadStore (s : State) {q : Reg} (hp : q.addr ≠ Reg.idPosition.addr) (hw : q.addr < 0x300000) :
    s.loadStore.reg q = (s.setReg .idVariant variantWord).reg q := by
  unfold State.loadStore
  dsimp only
  rw [reg_foldl_setFld_other .pwrStatic _ _ _ fun j => (hw.trans_le (power_le_pwrStatic j)).ne,
    reg_foldl_setFld_other .pwrW _ _ _ fun i => (hw.trans_le (power_le_pwrW i)).ne]
  split
  · rw [reg_setReg_other _ _ hp]; rfl
  · rfl

/-- The boot is counted; beside that the permanent store changes registers alone. -/
theorem events_loadStore (s : State) : Events { s with perm := { s.perm with boots := s.perm.boots + 1 } } s.loadStore := by
  unfold State.loadStore
  dsimp only
  refine .trans ?_ (events_foldl (fun s j => events_setFld s (.pwrStatic j) .WATTS _) _ _)
  refine .trans ?_ (events_foldl (fun s i => events_setFld s (.pwrW i) .WEIGHT _) _ _)
  split
  · exact (events_setReg ..).trans (events_setReg ..)
  · exact events_setReg ..

/-- A boot shows the firmware version and the variant, and leaves START.STAT, the queue and the start as they are. -/
theorem loadStore_shows (s : State) (v : W64) : let t := (s.setReg .stwFwVersion v).loadStore
    (t.reg .startStat = s.reg .startStat ∧ t.reg .stwFwVersion = v ∧ t.reg .idVariant = variantWord) ∧
    (t.pending = s.pending ∧ t.mem = s.mem ∧ t.straps = s.straps) ∧ t.start = s.start ∧ t.perm.boots = s.perm.boots + 1 := by
  have hev := events_loadStore (s.setReg .stwFwVersion v)
  have hqueue := pending_mem_straps_of_events hev
  have hstart := start_of_events hev
  have hperm := perm_of_events hev
  refine ⟨⟨?_, ?_, ?_⟩, hqueue, hstart, congrArg Perm.boots hperm⟩
  · rw [reg_loadStore _ (by decide) (by decide), reg_setReg_other _ _ (by decide), reg_setReg_other _ _ (by decide)]
  · rw [reg_loadStore _ (by decide) (by decide), reg_setReg_other _ _ (by decide), reg_setReg_same]
  · rw [reg_loadStore _ (by decide) (by decide), reg_setReg_same]

/-- Step 0 on a package reset, with the straps that could be read. -/
def booting (s : State) (straps : Bool) : State :=
  { s.packageReset with straps := if straps then some s.rack.place else none
                        rack := { s.packageReset.rack with unpowered := false } }.beginStep 0

/-- START.STAT shows step 0 begun; the queue and the permanent store are as the package reset leaves them. -/
theorem booting_shows (s : State) (straps : Bool) :
    ((booting s straps).fld .startStat .STATE = 1 ∧ (booting s straps).fld .startStat .STEP = 0) ∧
    ((booting s straps).pending = s.pending ∧ (booting s straps).mem = [] ∧ (booting s straps).straps = if straps then some s.rack.place else none) ∧
    (booting s straps).perm = s.packageReset.perm ∧ (booting s straps).start.outcome = 0 := by
  obtain ⟨hpending, -, -, hrack⟩ := settleCommit_frame s
  obtain ⟨hq, hm, hs⟩ := pending_mem_straps_beginStep { s.packageReset with
    straps := if straps then some s.rack.place else none
    rack := { s.packageReset.rack with unpowered := false } } 0
  refine ⟨fld_beginStep _ (by decide), ⟨hq.trans hpending, hm, hs⟩, perm_beginStep .., ?_⟩
  rw [booting, start_beginStep]

section Powered
variable {s : State} (h : s.heldInReset = false) (v : W64) (straps : Bool)
include h

theorem exec_powerGood_no_firmware (store : Bool) : exec (.powerGood none store straps) s =
    .next { booting s straps with start := { (booting s straps).start with outcome := 1 } } :=
  if_neg (ne_true_of_eq_false h)

theorem exec_powerGood_unreadable : exec (.powerGood (some v) false straps) s =
    .next { (booting s straps).setReg .stwFwVersion v with start := { (booting s straps).start with outcome := 2 } } :=
  if_neg (ne_true_of_eq_false h)

theorem exec_powerGood_store : exec (.powerGood (some v) true straps) s = .next ((booting s straps).setReg .stwFwVersion v).loadStore :=
  if_neg (ne_true_of_eq_false h)

end Powered

/-! ### Run limits (R439, R595) -/

/-- Is a write of the field no first write, or past the begin of step 1? -/
def runlimLate (s : State) (f : FName) : Bool := decide (1 ≤ s.fld .startStat .STEP) || decide (s.fld .startRunlim f ≠ 0)

theorem runlimLate_iff {s : State} {f : FName} : runlimLate s f = true ↔ 1 ≤ s.fld .startStat .STEP ∨ s.fld .startRunlim f ≠ 0 := by simp [runlimLate]

/-- Is a value zero or above the variant's? -/
def runlimBad (s : State) (x : FName × Nat) : Bool := decide (x.2 = 0) || decide (s.fld .idVariant x.1 < x.2)

theorem runlimBad_iff {s : State} {x : FName × Nat} : runlimBad s x = true ↔ x.2 = 0 ∨ s.fld .idVariant x.1 < x.2 := by simp [runlimBad]

/-- A write of fields of START.RUNLIM tells a violation first. -/
def runlimTold (s : State) (fs : List (FName × Nat)) : State :=
  if fs.any fun x => runlimLate s x.1 then s.setFlag .idStatus .WO_VIOLATION true else s

theorem reg_runlimTold (s : State) (fs : List (FName × Nat)) {q : Reg} (h : q.addr ≠ Reg.idStatus.addr) : (runlimTold s fs).reg q = s.reg q := by
  unfold runlimTold
  split
  · exact reg_setFlag_other _ _ _ h
  · rfl

theorem flag_runlimTold {s : State} {fs : List (FName × Nat)} (h : ∃ x ∈ fs, runlimLate s x.1 = true) :
    (runlimTold s fs).flag .idStatus .WO_VIOLATION = true := by
  rw [runlimTold, if_pos (List.any_eq_true.mpr h), flag_setFlag _ _ _ _ rfl]

theorem runlimWrite_eq (s : State) (fs : List (FName × Nat)) : s.runlimWrite fs =
    if fs.all fun x => runlimLate s x.1 then runlimTold s fs
    else if fs.any (runlimBad s) then (runlimTold s fs).setFlag .startStat .CFG_ERR true
    else (runlimTold s fs).setFlds .startRunlim (fs.filter fun x => !runlimLate s x.1) := by
  have hbad : (fun x : FName × Nat => decide (x.2 = 0) || decide ((runlimTold s fs).variantOf x.1 < x.2)) = runlimBad s := by
    funext x
    rw [State.variantOf, fld_congr (reg_runlimTold s fs (by decide)), runlimBad]
  rw [← hbad]
  rfl

/-- No write of run limits touches another register than START.STAT, START.RUNLIM and, for a violation, ID.STATUS. -/
theorem reg_runlimWrite_idStatus (s : State) (fs : List (FName × Nat)) : (s.runlimWrite fs).reg .idStatus = (runlimTold s fs).reg .idStatus := by
  rw [runlimWrite_eq]
  split
  · rfl
  split
  · exact reg_setFlag_other _ _ _ (by decide)
  · exact reg_setFlds_other _ _ (by decide)

theorem runlimWrite_violation {s : State} {fs : List (FName × Nat)} (h : ∃ x ∈ fs, runlimLate s x.1 = true) :
    (s.runlimWrite fs).flag .idStatus .WO_VIOLATION = true := by
  rw [flag_congr (reg_runlimWrite_idStatus ..), flag_runlimTold h]

theorem runlimWrite_late {s : State} {fs : List (FName × Nat)} (h : ∀ x ∈ fs, runlimLate s x.1 = true) :
    (s.runlimWrite fs).reg .startRunlim = s.reg .startRunlim := by
  rw [runlimWrite_eq, if_pos (List.all_eq_true.mpr h), reg_runlimTold _ _ (by decide)]

theorem runlimWrite_bad {s : State} {fs : List (FName × Nat)} (h : ¬ ∀ x ∈ fs, runlimLate s x.1 = true) (hb : ∃ x ∈ fs, runlimBad s x = true) :
    (s.runlimWrite fs).flag .startStat .CFG_ERR = true ∧ (s.runlimWrite fs).reg .startRunlim = s.reg .startRunlim := by
  rw [runlimWrite_eq, if_neg (mt List.all_eq_true.mp h), if_pos (List.any_eq_true.mpr hb), reg_setFlag_other _ _ _ (by decide), reg_runlimTold _ _ (by decide)]
  exact ⟨flag_setFlag _ _ _ _ rfl, rfl⟩

/-- Values within the variant: a field not written before takes its value, one written before stays. -/
theorem runlimWrite_good {s : State} {fs : List (FName × Nat)} (h : ¬ ∀ x ∈ fs, runlimLate s x.1 = true) (hb : ¬ ∃ x ∈ fs, runlimBad s x = true)
    (hf : ∀ x ∈ fs, hasField .startRunlim x.1 = true) (hn : (fs.map Prod.fst).Nodup) {x : FName × Nat} (hx : x ∈ fs) :
    (runlimLate s x.1 = true → (s.runlimWrite fs).fld .startRunlim x.1 = s.fld .startRunlim x.1) ∧
    (runlimLate s x.1 = false →
      (s.runlimWrite fs).fld .startRunlim x.1 = x.2 % 2 ^ ((Reg.startRunlim.pos x.1).1 + 1 - (Reg.startRunlim.pos x.1).2)) := by
  have hf' : ∀ e ∈ fs.filter fun x => !runlimLate s x.1, hasField .startRunlim e.1 = true := fun e he => hf e (List.mem_of_mem_filter he)
  rw [runlimWrite_eq, if_neg (mt List.all_eq_true.mp h), if_neg (mt List.any_eq_true.mp hb)]
  refine ⟨fun hl => ?_, fun hl => fld_setFlds_of_mem _ _ hf' (hn.sublist (List.filter_sublist.map _)) (List.mem_filter.mpr ⟨hx, by simp [hl]⟩)⟩
  rw [fld_setFlds_of_not_mem _ _ hf' (hf x hx), fld_congr (reg_runlimTold s fs (by decide))]
  intro hm
  obtain ⟨e, he, hex⟩ := List.mem_map.mp hm
  simpa [hex, hl] using (List.mem_filter.mp he).2

section Fields
variable (s : State) (mhz : BitVec 12) (sust peak : W16)

/-- What RUNLIM_WRITE writes. -/
def runlims : List (FName × Nat) := [(.TILE_MHZ, mhz.toNat), (.SUSTAINED_W, sust.toNat), (.PEAK_W, peak.toNat)]

theorem all_runlims_late : (∀ x ∈ runlims mhz sust peak, runlimLate s x.1 = true) ↔
    runlimLate s .TILE_MHZ = true ∧ runlimLate s .SUSTAINED_W = true ∧ runlimLate s .PEAK_W = true := by simp [runlims]

theorem any_runlims_late : (∃ x ∈ runlims mhz sust peak, runlimLate s x.1 = true) ↔
    runlimLate s .TILE_MHZ = true ∨ runlimLate s .SUSTAINED_W = true ∨ runlimLate s .PEAK_W = true := by simp [runlims]

theorem any_runlims_bad : (∃ x ∈ runlims mhz sust peak, runlimBad s x = true) ↔
    mhz = 0 ∨ sust = 0 ∨ peak = 0 ∨ s.fld .idVariant .TILE_MHZ < mhz.toNat ∨ s.fld .idVariant .SUSTAINED_W < sust.toNat ∨
      s.fld .idVariant .PEAK_W < peak.toNat := by
  simp only [runlims, runlimBad_iff, List.mem_cons, List.not_mem_nil, or_false, exists_eq_or_imp, exists_eq_left, BitVec.toNat_eq]
  tauto

theorem hasField_runlims : ∀ x ∈ runlims mhz sust peak, hasField .startRunlim x.1 = true := by simp [runlims]; and_intros <;> rfl

/-- Each value fits its field. -/
theorem runlims_fit : ∀ x ∈ runlims mhz sust peak, x.2 < 2 ^ ((Reg.startRunlim.pos x.1).1 + 1 - (Reg.startRunlim.pos x.1).2) := by
  simp only [runlims, List.mem_cons, List.not_mem_nil, or_false, forall_eq_or_imp, forall_eq]
  exact ⟨mhz.isLt, sust.isLt, peak.isLt⟩

end Fields

/-! ### A step command (R438 to R448) -/

/-- Out of order, it changes START.STAT alone. -/
theorem runStep_out_of_order {s : State} {k : Nat} (h : s.stepNext k = false) (f : State → State × Nat) : let t := s.runStep k f
    t.flag .startStat .ORDER_ERR = true ∧ t.start = s.start ∧ t.perm = s.perm := by
  dsimp only
  rw [runStep_of_not_next h]
  exact ⟨flag_setFlag _ _ _ _ rfl, rfl, rfl⟩

/-- In order, what its work does beside the outcome stands. -/
theorem runStep_work {s : State} {k : Nat} (h : s.stepNext k = true) (f : State → State × Nat) : let t := s.runStep k f
    let u := (f (s.beginStep k)).1
    t.mem = u.mem ∧ t.poison = u.poison ∧ t.perm = u.perm ∧ t.power = u.power ∧ t.start.limits = u.start.limits ∧
      ∀ kind tile unit, t.physOf kind tile unit = u.physOf kind tile unit := by
  dsimp only
  rw [runStep_of_next h]
  exact ⟨rfl, rfl, rfl, rfl, rfl, fun _ _ _ => rfl⟩

section Works
variable {s : State}

theorem runLimit_beginStep (s : State) (k : Nat) (f : FName) :
    (s.beginStep k).runLimit f = if s.fld .startRunlim f = 0 then s.fld .idVariant f else s.fld .startRunlim f := by
  rw [State.runLimit, State.variantOf, fld_congr (reg_beginStep_other s k (by decide)), fld_congr (reg_beginStep_other s k (by decide))]

/-- The work of step 1: the limits come into force where they are taken. -/
def limitsWork (ok : Bool) (s : State) : State × Nat :=
  let l := (s.runLimit .TILE_MHZ, s.runLimit .SUSTAINED_W, s.runLimit .PEAK_W)
  if ok then ({ s with start := { s.start with limits := some l }, power := { s.power with refDue := true } }, 0) else (s, 3)

theorem stepLimits_eq (s : State) (ok : Bool) : s.stepLimits ok = s.runStep 1 (limitsWork ok) := rfl

theorem limitsWork_keeps (s : State) (ok : Bool) : KeepsStart s (limitsWork ok s).1 ∧ (limitsWork ok s).2 = if ok then 0 else 3 := by
  cases ok
  · exact ⟨.refl s, rfl⟩
  · exact ⟨⟨rfl, rfl⟩, rfl⟩

theorem limitsWork_ok (s : State) : (limitsWork true s).1.power.refDue = true ∧
    (limitsWork true s).1.start.limits = some (s.runLimit .TILE_MHZ, s.runLimit .SUSTAINED_W, s.runLimit .PEAK_W) := ⟨rfl, rfl⟩

theorem stepLimits_begins (h : s.stepNext 1 = true) (ok : Bool) : let t := s.stepLimits ok
    t.fld .startStat .STATE = 1 ∧ t.fld .startStat .STEP = 1 ∧ t.start.passed = s.start.passed ∧ t.start.outcome = if ok then 0 else 3 := by
  obtain ⟨hkeep, hout⟩ := limitsWork_keeps (s.beginStep 1) ok
  rw [stepLimits_eq, ← hout]
  exact runStep_begins h (by decide) hkeep

/-- With the limits taken, those written, or else the variant's, are in force. -/
theorem stepLimits_ok (h : s.stepNext 1 = true) :
    let lim := fun f => if s.fld .startRunlim f = 0 then s.fld .idVariant f else s.fld .startRunlim f
    (s.stepLimits true).start.limits = some (lim .TILE_MHZ, lim .SUSTAINED_W, lim .PEAK_W) ∧ (s.stepLimits true).power.refDue = true := by
  obtain ⟨-, -, -, hpower, hlimits, -⟩ := runStep_work h (limitsWork true)
  obtain ⟨hdue, hlim⟩ := limitsWork_ok (s.beginStep 1)
  dsimp only
  rw [stepLimits_eq, hlimits, hlim, hpower, hdue, runLimit_beginStep, runLimit_beginStep, runLimit_beginStep]
  exact ⟨rfl, rfl⟩

theorem stepPower_begins (h : s.stepNext 2 = true) : let t := s.stepPower
    (t.fld .startStat .STATE = 1 ∧ t.fld .startStat .STEP = 2 ∧ t.start.passed = s.start.passed ∧
      t.start.outcome = if s.flag .pwrCtrl .LOCK ∧ s.fld .pwrCap .PEAK_W ≠ 0 ∧ s.fld .pwrCap .SUST_W ≠ 0 then 0 else 4) := by
  have e : ∀ {q : Reg}, q.addr ≠ Reg.startStat.addr → (s.beginStep 2).reg q = s.reg q := fun hq => reg_beginStep_other s 2 hq
  obtain ⟨hstate, hstep, hpassed, hout⟩ := runStep_begins h (by decide)
    (f := fun s => (s, if s.flag .pwrCtrl .LOCK && s.fld .pwrCap .PEAK_W ≠ 0 && s.fld .pwrCap .SUST_W ≠ 0 then 0 else 4)) (.refl _)
  refine ⟨hstate, hstep, hpassed, hout.trans ?_⟩
  rw [flag_congr (e (by decide)), fld_congr (e (by decide)), fld_congr (e (by decide))]
  simp [and_assoc]

theorem stepMemtest_begins (h : s.stepNext 3 = true) (ms : List MemFailure) : let t := s.stepMemtest ms
    (t.fld .startStat .STATE = 1 ∧ t.fld .startStat .STEP = 3 ∧ t.start.passed = s.start.passed ∧ t.start.outcome = 0) ∧
    t.mem = [] ∧ t.poison = [] ∧ t.perm.defects = (ms.foldl State.listMem s).perm.defects := by
  dsimp only
  have hkeep : KeepsStart (s.beginStep 3) (ms.foldl State.listMem (s.beginStep 3)) := keepsStart_foldl keepsStart_listMem ms _
  obtain ⟨hmem, hpoison, hperm, -⟩ := runStep_work h fun s => ({ ms.foldl State.listMem s with mem := [], poison := [], wellBad := [], zmap := [], dir := [] }, 0)
  exact ⟨runStep_begins h (by decide) hkeep, hmem, hpoison, congrArg Perm.defects (hperm.trans (perm_foldl_congr perm_listMem_congr (perm_beginStep s 3) ms))⟩

theorem stepUnittest_begins (h : s.stepNext 4 = true) (us : List PhysUnit) (other : Bool) : let t := s.stepUnittest us other
    (t.fld .startStat .STATE = 1 ∧ t.fld .startStat .STEP = 4 ∧ t.start.passed = s.start.passed ∧ t.start.outcome = if other then 6 else 0) ∧
    t.perm.defects = (us.foldl State.listUnit s).perm.defects := by
  dsimp only
  obtain ⟨-, -, hperm, -⟩ := runStep_work h fun s => (us.foldl State.listUnit s, if other then 6 else 0)
  exact ⟨runStep_begins h (by decide) (keepsStart_foldl keepsStart_listUnit us _),
    congrArg Perm.defects (hperm.trans (perm_foldl_congr perm_listUnit_congr (perm_beginStep s 4) us))⟩

/-- The work of step 5: all tiles mapped. -/
def mapWork (s : State) : State × Nat := ((s.mapAll (List.range 32)).1, if (s.mapAll (List.range 32)).2 then 7 else 0)

theorem stepMap_eq (s : State) : s.stepMap = s.runStep 5 mapWork := rfl

theorem fst_mapWork (s : State) : (mapWork s).1 = (s.mapAll (List.range 32)).1 := by rw [mapWork]

theorem snd_mapWork (s : State) : (mapWork s).2 = if (List.range 32).any (tileShort s) then 7 else 0 := by rw [mapWork, mapAll_eq]

/-- MAP maps all 32 tiles; a short one fails it. -/
theorem stepMap_begins (h : s.stepNext 5 = true) : let t := s.stepMap
    (t.fld .startStat .STATE = 1 ∧ t.fld .startStat .STEP = 5 ∧ t.start.passed = s.start.passed ∧
      t.start.outcome = if (List.range 32).any (tileShort s) then 7 else 0) ∧
    ∀ tile unit : Nat, tile < 32 → unit < 16 → t.physOf 1 tile unit = (s.healthy 1 tile 17).getD unit 63 := by
  have hp := perm_beginStep s 5
  have hkeep : KeepsStart (s.beginStep 5) (mapWork (s.beginStep 5)).1 := by rw [fst_mapWork]; exact (mapped_mapAll ..).1
  obtain ⟨-, -, -, -, -, hphys⟩ := runStep_work h mapWork
  dsimp only
  rw [stepMap_eq, ← tileShort_congr hp, ← snd_mapWork]
  refine ⟨runStep_begins h (by decide) hkeep, fun tile unit ht hu => ?_⟩
  rw [hphys, fst_mapWork, physOf_mapAll _ (fun _ => List.mem_range.mp) (List.mem_range.mpr ht) hu, healthy_congr hp]

/-- The work of step 6: the rounds from the first on, and a list that is full. -/
def katWork (ks : List KatRound) (s : State) : State × Nat :=
  let r := State.katRounds 1 ks (List.range 32) [0, 1] ((List.range 32).foldl (fun s t => s.setFld (.tstartResult t) .ROUNDS 0) s)
  (r.1, if r.2 ≠ 0 then r.2 else if 4096 ≤ r.1.perm.defects.length then 9 else 0)

theorem stepKat_eq (s : State) (ks : List KatRound) : s.stepKat ks = s.runStep 6 (katWork ks) := rfl

theorem mapped_zeroRounds (s : State) : Mapped s ((List.range 32).foldl (fun s t => s.setFld (.tstartResult t) .ROUNDS 0) s) :=
  mapped_foldl (fun s t => mapped_tstartResult s t _ _) _ s

theorem katWork_keeps (s : State) (ks : List KatRound) : KeepsStart s (katWork ks s).1 := by
  rw [katWork]
  exact (mapped_zeroRounds s).1.trans (keepsStart_katRounds ..)

theorem katWork_nil (s : State) : (katWork [] s).2 = if 4096 ≤ s.perm.defects.length then 9 else 0 := by
  obtain ⟨h0, hp⟩ := katRounds_nil 1 (List.range 32) [0, 1] ((List.range 32).foldl (fun s t => s.setFld (.tstartResult t) .ROUNDS 0) s)
  rw [katWork]
  dsimp only
  rw [h0, if_neg (by decide), hp, (mapped_zeroRounds s).2]

theorem stepKat_begins (h : s.stepNext 6 = true) (ks : List KatRound) : let t := s.stepKat ks
    t.fld .startStat .STATE = 1 ∧ t.fld .startStat .STEP = 6 ∧ t.start.passed = s.start.passed ∧
      (ks = [] → t.start.outcome = if 4096 ≤ s.perm.defects.length then 9 else 0) := by
  obtain ⟨hstate, hstep, hpassed, hout⟩ := runStep_begins h (by decide) (katWork_keeps (s.beginStep 6) ks)
  dsimp only
  rw [stepKat_eq]
  refine ⟨hstate, hstep, hpassed, fun hk => ?_⟩
  rw [hout, hk, katWork_nil, perm_beginStep]

theorem stepPorts_begins (h : s.stepNext 7 = true) : let t := s.stepPorts
    t.fld .startStat .STATE = 1 ∧ t.fld .startStat .STEP = 7 ∧ t.start.passed = s.start.passed ∧ t.start.outcome = 0 :=
  runStep_begins h (by decide) (.refl _)

end Works

/-! ### The end of a step (R436, R461) -/

theorem keepsStart_katPassed (s : State) : KeepsStart s s.katPassed := by
  unfold State.katPassed
  dsimp only
  refine .trans ?_ (keepsStart_foldl (fun s n => by split; exacts [.refl s, ⟨rfl, rfl⟩]) _ _)
  refine .trans ?_ (keepsStart_foldl (fun s i => keepsStart_setFld s (r := .tambArray (i / 16) (i % 16)) _ _ (startStat_ne_tambArray _ _)) _ _)
  exact keepsStart_setReg _ _ (by decide)

theorem finishStep_passes {s : State} (h : s.start.outcome = 0) (k : Nat) :
    (s.finishStep k).start.passed = some k ∧ (s.finishStep k).fld .startStat .STATE = 2 := by
  have hstate : (s.endStep k 0).fld .startStat .STATE = 2 := (fld_endStep s k (by decide)).1
  unfold State.finishStep
  rw [h]
  dsimp only
  rw [if_neg (by decide)]
  split
  · obtain ⟨hreg, hpassed⟩ := keepsStart_katPassed { s.endStep k 0 with start := { (s.endStep k 0).start with passed := some k } }
    exact ⟨hpassed, (fld_congr hreg _).trans hstate⟩
  · exact ⟨rfl, hstate⟩

theorem finishStep_fails {s : State} (h : s.start.outcome ≠ 0) (h16 : s.start.outcome < 16) (k : Nat) :
    (s.finishStep k).start.passed = s.start.passed ∧ (s.finishStep k).fld .startStat .STATE = 3 ∧ (s.finishStep k).fld .startStat .CAUSE = s.start.outcome := by
  obtain ⟨hstate, hcause⟩ := fld_endStep s k (out := s.start.outcome) (by omega)
  have e : s.finishStep k = s.endStep k s.start.outcome := if_pos h
  rw [e, start_endStep, hstate, if_neg h]
  exact ⟨rfl, rfl, hcause⟩

/-- A step past its limit fails with cause 5. -/
theorem endStep_timeout (s : State) (k : Nat) : (s.endStep k 5).fld .startStat .STATE = 3 ∧ (s.endStep k 5).fld .startStat .CAUSE = 5 ∧
    (s.endStep k 5).start.passed = s.start.passed := by
  obtain ⟨hstate, hcause⟩ := fld_endStep s k (out := 5) (by decide)
  exact ⟨hstate, hcause, congrArg StartSt.passed (start_endStep s k 5)⟩

theorem exec_startStepDone_idle {s : State} (h : ¬ s.fld .startStat .STATE = 1 ∨ 7 < s.fld .startStat .STEP ∨ (s.fld .startStat .STEP = 7 ∧ s.portsTrain = true)) :
    exec .startStepDone s = .next s := congrArg Host.Outcome.next (if_pos (by simpa [or_assoc] using h))

theorem exec_startStepDone_finishes {s : State} (h1 : s.fld .startStat .STATE = 1) (h7 : s.fld .startStat .STEP ≤ 7)
    (hp : s.fld .startStat .STEP = 7 → s.portsTrain = false) : exec .startStepDone s = .next (s.finishStep (s.fld .startStat .STEP)) :=
  congrArg Host.Outcome.next (if_neg (by simpa [h1, h7] using hp))

section Timeout
variable {s : State}

theorem exec_startStepTimeout_idle (h : ¬ s.fld .startStat .STATE = 1 ∨ 7 < s.fld .startStat .STEP ∨ s.fld .startStat .STEP < 3 ∨
    ¬ s.start.since + s.stepLimit (s.fld .startStat .STEP) ≤ s.time) : exec .startStepTimeout s = .next s :=
  congrArg Host.Outcome.next (if_pos (by simpa [or_assoc] using h))

theorem exec_startStepTimeout_due (h1 : s.fld .startStat .STATE = 1) (h3 : 3 ≤ s.fld .startStat .STEP) (h7 : s.fld .startStat .STEP ≤ 7)
    (hd : s.start.since + s.stepLimit (s.fld .startStat .STEP) ≤ s.time) : exec .startStepTimeout s =
      .next (if s.fld .startStat .STEP = 7 && !s.portsTrain then s.finishStep (s.fld .startStat .STEP) else s.endStep (s.fld .startStat .STEP) 5) :=
  congrArg Host.Outcome.next (if_neg (by simp [h1, h3, h7, hd]))

end Timeout

/-! ### The statement -/

/-- Settles O54: power-good and the reset on a package reset, the run limits field by field, each step command by its work, and the ends of a
step by its outcome. -/
theorem startUp : Obligations.StartUp := by
  refine ⟨fun fw store straps s => ⟨fun h => if_pos h, fun h => ?_⟩, fun s => ?_, fun mhz sust peak s => ?_, fun s ok other ms us ks c k hc => ?_,
    fun s kind origin tile loc z => ⟨fun h => list_of_listed (.inr h), fun h => list_of_listed (.inl h), fun hl hn => congrArg (·.perm.defects) (list_of_new hl hn)⟩,
    fun s => ?_, fun s => ⟨exec_startStepDone_idle, exec_startStepTimeout_idle, fun h1 h7 hd hp => ?_, fun h1 h7 hp => ⟨fun h0 => ?_, fun h0 h16 => ?_⟩,
      fun h1 h3 h7 hd hp => ?_⟩⟩
  · obtain ⟨⟨hstate, hstep⟩, ⟨hpending, hmem, hstraps⟩, hperm, hout⟩ := booting_shows s straps
    cases fw with
    | none => exact ⟨_, exec_powerGood_no_firmware h straps store, hstate, hstep, hpending, hmem, hstraps, fun _ => rfl, nofun⟩
    | some v =>
      have hreg : ((booting s straps).setReg .stwFwVersion v).reg .startStat = (booting s straps).reg .startStat := reg_setReg_other _ _ (by decide)
      cases store with
      | false =>
        exact ⟨_, exec_powerGood_unreadable h v straps, (fld_congr hreg _).trans hstate, (fld_congr hreg _).trans hstep, hpending, hmem, hstraps, nofun,
          fun w hw => ⟨Option.some.inj hw ▸ reg_setReg_same .., fun _ => rfl, nofun⟩⟩
      | true =>
        obtain ⟨⟨hstat, hversion, hvariant⟩, ⟨hpending', hmem', hstraps'⟩, hstart, hboots⟩ := loadStore_shows (booting s straps) v
        exact ⟨_, exec_powerGood_store h v straps, (fld_congr hstat _).trans hstate, (fld_congr hstat _).trans hstep, hpending'.trans hpending, hmem'.trans hmem,
          hstraps'.trans hstraps, nofun, fun w hw => ⟨Option.some.inj hw ▸ hversion, nofun, fun _ => ⟨(congrArg StartSt.outcome hstart).trans hout,
            hboots.trans (congrArg (·.boots + 1) hperm), hvariant⟩⟩⟩
  · obtain ⟨hpending, hstraps, houtbox, -⟩ := settleCommit_frame s
    obtain ⟨hnone, hsome⟩ := perm_settleCommit s
    exact ⟨_, rfl, rfl, rfl, rfl, hpending, hstraps, houtbox, hnone, hsome⟩
  · simp only [← runlimLate_iff, ← all_runlims_late s mhz sust peak, ← any_runlims_late s mhz sust peak, ← any_runlims_bad s mhz sust peak]
    refine ⟨_, rfl, runlimWrite_violation, runlimWrite_late, runlimWrite_bad, fun h hb f v hx => ?_⟩
    obtain ⟨hlate, hfirst⟩ := runlimWrite_good h hb (hasField_runlims mhz sust peak) (by simp [runlims]) hx
    exact ⟨hlate, fun hl => (hfirst (Bool.eq_false_of_not_eq_true hl)).trans (Nat.mod_eq_of_lt (runlims_fit mhz sust peak _ hx))⟩
  · simp only [List.mem_cons, Prod.mk.injEq, List.not_mem_nil, or_false] at hc
    rcases hc with ⟨rfl, rfl⟩ | ⟨rfl, rfl⟩ | ⟨rfl, rfl⟩ | ⟨rfl, rfl⟩ | ⟨rfl, rfl⟩ | ⟨rfl, rfl⟩ | ⟨rfl, rfl⟩
    all_goals refine ⟨fun h => ⟨_, rfl, runStep_out_of_order h _⟩, fun h => ⟨_, rfl, ?_⟩⟩
    · obtain ⟨hstate, hstep, hpassed, hout⟩ := stepLimits_begins h ok
      exact ⟨hstate, hstep, hpassed, fun _ => hout, fun _ hok => by subst hok; exact stepLimits_ok h, nofun, nofun, nofun, nofun, nofun, nofun, nofun⟩
    · obtain ⟨hstate, hstep, hpassed, hout⟩ := stepPower_begins h
      exact ⟨hstate, hstep, hpassed, nofun, nofun, fun _ => hout, nofun, nofun, nofun, nofun, nofun, nofun⟩
    · obtain ⟨⟨hstate, hstep, hpassed, hout⟩, hmem, hpoison, hdefects⟩ := stepMemtest_begins h ms
      exact ⟨hstate, hstep, hpassed, nofun, nofun, nofun, fun _ => ⟨hmem, hpoison, hout, hdefects⟩, nofun, nofun, nofun, nofun, nofun⟩
    · obtain ⟨⟨hstate, hstep, hpassed, hout⟩, hdefects⟩ := stepUnittest_begins h us other
      exact ⟨hstate, hstep, hpassed, nofun, nofun, nofun, nofun, fun _ => ⟨hdefects, hout⟩, nofun, nofun, nofun, nofun⟩
    · obtain ⟨⟨hstate, hstep, hpassed, hout⟩, hphys⟩ := stepMap_begins h
      exact ⟨hstate, hstep, hpassed, nofun, nofun, nofun, nofun, nofun, fun _ => hphys, fun _ => hout, nofun, nofun⟩
    · obtain ⟨hstate, hstep, hpassed, hout⟩ := stepKat_begins h ks
      exact ⟨hstate, hstep, hpassed, nofun, nofun, nofun, nofun, nofun, nofun, nofun, fun _ => hout, nofun⟩
    · obtain ⟨hstate, hstep, hpassed, hout⟩ := stepPorts_begins h
      exact ⟨hstate, hstep, hpassed, nofun, nofun, nofun, nofun, nofun, nofun, nofun, nofun, fun _ => hout⟩
  · refine ⟨s.armFound, rfl, fun hrec hrank => ?_, fun hno => ?_⟩
    · rw [State.armFound, if_pos (by simp [hrec, hrank]), flag_setFlag _ _ _ _ rfl]
    · rw [State.armFound, if_neg (by rcases hno with h | h <;> simp [h]), flag_setFlag _ _ _ _ rfl]
  · rw [exec_startStepTimeout_due h1 (by omega) (by omega) hd, exec_startStepDone_finishes h1 (by omega) fun _ => hp, if_pos (by simp [h7, hp])]
  · exact ⟨_, exec_startStepDone_finishes h1 h7 hp, finishStep_passes h0 _⟩
  · exact ⟨_, exec_startStepDone_finishes h1 h7 hp, finishStep_fails h0 h16 _⟩
  · refine ⟨_, exec_startStepTimeout_due h1 h3 h7 hd, ?_⟩
    rw [if_neg (by simpa using hp)]
    exact endStep_timeout s _

end Sys2Proof.Proofs
end

section
/-!
ID.POSITION as a record and a position give it, and lists without repeats.
-/
namespace Sys2Proof.Proofs
open Sys2Proof.Machine Sys2Proof.Laws

/-! ### Words put together from fields -/

/-- A field of two words in one. -/
theorem bits_ofNat_or (a b hi lo : Nat) : bits (BitVec.ofNat 64 (a ||| b)) hi lo = bits (BitVec.ofNat 64 a) hi lo ||| bits (BitVec.ofNat 64 b) hi lo := by
  simp only [bits, nbits, BitVec.toNat_ofNat, Nat.or_mod_two_pow, Nat.or_div_two_pow]

/-- A number at its field is the field. -/
theorem bits_ofNat_shiftLeft {v hi lo : Nat} (hv : v < 2 ^ (hi + 1 - lo)) (hl : lo ≤ hi) (h : hi < 64) : bits (BitVec.ofNat 64 (v <<< lo)) hi lo = v := by
  refine Nat.eq_of_testBit_eq fun i => ?_
  rw [testBit_bits, BitVec.getLsbD_ofNat, Nat.testBit_shiftLeft, Nat.add_sub_cancel_left]
  by_cases hi' : i < hi + 1 - lo
  · simp [hi']; omega
  · rw [Nat.testBit_lt_two_pow (hv.trans_le (Nat.pow_le_pow_right (by decide) (Nat.le_of_not_lt hi')))]
    simp [hi']

/-- A number that stands above a field, or below it, leaves the field 0. -/
theorem bits_ofNat_shiftLeft_apart {v n hi lo : Nat} (h : hi < n ∨ v < 2 ^ (lo - n)) : bits (BitVec.ofNat 64 (v <<< n)) hi lo = 0 := by
  refine Nat.eq_of_testBit_eq fun i => ?_
  rw [testBit_bits, BitVec.getLsbD_ofNat, Nat.testBit_shiftLeft, Nat.zero_testBit]
  by_cases hi' : i < hi + 1 - lo
  · rcases h with h | h
    · simp; omega
    · rw [Nat.testBit_lt_two_pow (h.trans_le (Nat.pow_le_pow_right (by decide) (by omega)))]
      simp
  · simp [hi']

/-! ### ID.POSITION (Table 1-13, R19, R30) -/

theorem recordValid_positionWord (r : List Byte) (x y : Nat) : bits (positionWord r x y) 63 63 ≠ 0 := by
  have h1 : bits (BitVec.ofNat 64 (1 <<< 63)) 63 63 = 1 := bits_ofNat_shiftLeft (by decide) (by decide) (by decide)
  simp only [positionWord, bits_ofNat_or, h1, Nat.or_assoc]
  intro h
  exact absurd (Nat.or_eq_zero_iff.mp h).1 (by decide)

section Position
variable (r : List Byte) {x y : Nat} (hx : x < 256) (hy : y < 256)
include hx hy

/-- It shows the position, and the tray and slot of R19. -/
theorem bits_positionWord : bits (positionWord r x y) 7 0 = x ∧ bits (positionWord r x y) 15 8 = y ∧
    bits (positionWord r x y) 35 32 = 2 * (y % 6) + x % 8 / 4 ∧ bits (positionWord r x y) 37 36 = x % 4 := by
  have e : positionWord r x y = BitVec.ofNat 64 (1 <<< 63 ||| (r.getD 0x11 0).toNat <<< 48 ||| (r.getD 0x10 0).toNat <<< 40 ||| (x % 4) <<< 36 |||
      (2 * (y % 6) + x % 8 / 4) <<< 32 ||| (y / 6 * 32 + x / 8) <<< 16 ||| y <<< 8 ||| x <<< 0) := rfl
  rw [e]
  simp only [bits_ofNat_or]
  refine ⟨?_, ?_, ?_, ?_⟩
  · rw [bits_ofNat_shiftLeft (hi := 7) (lo := 0) (by omega) (by omega) (by omega)]
    simp (disch := omega) only [bits_ofNat_shiftLeft_apart, Nat.zero_or]
  · rw [bits_ofNat_shiftLeft (hi := 15) (lo := 8) (by omega) (by omega) (by omega)]
    simp (disch := omega) only [bits_ofNat_shiftLeft_apart, Nat.zero_or, Nat.or_zero]
  · rw [bits_ofNat_shiftLeft (hi := 35) (lo := 32) (by omega) (by omega) (by omega)]
    simp (disch := omega) only [bits_ofNat_shiftLeft_apart, Nat.zero_or, Nat.or_zero]
  · rw [bits_ofNat_shiftLeft (hi := 37) (lo := 36) (by omega) (by omega) (by omega)]
    simp (disch := omega) only [bits_ofNat_shiftLeft_apart, Nat.zero_or, Nat.or_zero]

end Position

/-! ### Lists without repeats -/

theorem mem_dedup {a : Nat} {l : List Nat} : a ∈ dedup l ↔ a ∈ l := by
  induction l generalizing a with
  | nil => rfl
  | cons b l ih =>
    rw [dedup]
    split
    case isTrue h =>
      rw [List.contains_iff_mem, ih] at h
      rw [ih, List.mem_cons, or_iff_right_of_imp fun e => e ▸ h]
    case isFalse => rw [List.mem_cons, List.mem_cons, ih]

theorem nodup_dedup (l : List Nat) : (dedup l).Nodup := by
  induction l with
  | nil => exact .nil
  | cons b l ih =>
    rw [dedup]
    split
    case isTrue => exact ih
    case isFalse h => exact List.nodup_cons.mpr ⟨mt List.contains_iff_mem.mpr h, ih⟩

/-- A list with more than one number has two that differ. -/
theorem exists_ne_of_dedup {l : List Nat} (h : 1 < (dedup l).length) : ∃ a ∈ l, ∃ b ∈ l, a ≠ b := by
  have hn := nodup_dedup l
  match hd : dedup l, h with
  | a :: b :: _, _ =>
    refine ⟨a, mem_dedup.mp (by simp [hd]), b, mem_dedup.mp (by simp [hd]), fun e => ?_⟩
    simp [hd, e] at hn

end Sys2Proof.Proofs
end

section
/-!
O59: the checks of an installation record, its commit, and the records and paths of switch trays (R19, R31, R578 to R590, Table 18-6).
-/
namespace Sys2Proof.Proofs
open Sys2Proof.Machine Sys2Proof.Laws

/-! ### The checks (Table 18-6) -/

section Check
variable {straps : Option (Nat × Nat)} {r : List Byte} {x y : Nat}

theorem commitCheck_of_format (h : recordFormatOk r = false) : commitCheck straps r x y = 2 := by simp [commitCheck, h]

theorem commitCheck_of_extent (h : recordFormatOk r = true) (h' : recordExtentOk r = false) : commitCheck straps r x y = 3 := by simp [commitCheck, h, h']

/-- With format and extents right, the later checks decide. -/
theorem commitCheck_of_later (h : recordFormatOk r = true) (h' : recordExtentOk r = true) : commitCheck straps r x y = 0 ∨ 4 ≤ commitCheck straps r x y := by
  rw [commitCheck, h, h']
  simp only [Bool.not_true, Bool.false_eq_true, if_false]
  split_ifs <;> simp

theorem commitCheck_eq_two : commitCheck straps r x y = 2 ↔ recordFormatOk r = false := by
  refine ⟨fun h => ?_, commitCheck_of_format⟩
  by_contra hf
  rw [Bool.not_eq_false] at hf
  cases he : recordExtentOk r with
  | false => rw [commitCheck_of_extent hf he] at h; omega
  | true => have := commitCheck_of_later (straps := straps) (x := x) (y := y) hf he; omega

theorem commitCheck_eq_three : commitCheck straps r x y = 3 ↔ recordFormatOk r = true ∧ recordExtentOk r = false := by
  refine ⟨fun h => ?_, fun ⟨hf, he⟩ => commitCheck_of_extent hf he⟩
  cases hf : recordFormatOk r with
  | false => rw [commitCheck_of_format hf] at h; omega
  | true =>
    cases he : recordExtentOk r with
    | false => exact ⟨rfl, rfl⟩
    | true => have := commitCheck_of_later (straps := straps) (x := x) (y := y) hf he; omega

/-- A record that passes passes every check. -/
theorem checks_of_commitCheck_zero (h : commitCheck straps r x y = 0) : recordFormatOk r = true ∧ recordExtentOk r = true ∧ recordAnchorsOk r = true ∧
    recordHolds r x y = true ∧ strapsOk straps x y = true := by
  unfold commitCheck at h
  split_ifs at h with hformat hextent hanchors hholds hstraps
  simp only [Bool.not_eq_true', Bool.not_eq_false] at hformat hextent hanchors hholds hstraps
  exact ⟨hformat, hextent, hanchors, hholds, hstraps⟩

/-- RESULT holds the number of any check. -/
theorem commitCheck_lt : commitCheck straps r x y < 16 := by
  unfold commitCheck
  split_ifs <;> decide

theorem length_magic_version_of_recordFormatOk (h : recordFormatOk r = true) : r.length = 128 ∧ fieldAt r 0 4 = 0x4C545349 ∧ fieldAt r 4 2 = 1 := by
  simp only [recordFormatOk, Bool.and_eq_true, decide_eq_true_eq] at h
  tauto

theorem spans_of_recordExtentOk (h : recordExtentOk r = true) : (fieldAt r 0x10 1 + 1) % 8 = 0 ∧ (fieldAt r 0x11 1 + 1) % 6 = 0 := by
  simp only [recordExtentOk, Bool.and_eq_true, decide_eq_true_eq] at h
  tauto

/-- Ranks are 0 to 3, and two anchors stand in different racks (R40). -/
theorem anchors_of_recordAnchorsOk (h : recordAnchorsOk r = true) : (∀ a ∈ recordAnchors r, a.1 ≤ 3) ∧
    ∃ a ∈ recordAnchors r, ∃ b ∈ recordAnchors r, a.2.2 / 6 * 32 + a.2.1 / 8 ≠ b.2.2 / 6 * 32 + b.2.1 / 8 := by
  simp only [recordAnchorsOk, Bool.and_eq_true, decide_eq_true_eq, List.all_eq_true] at h
  obtain ⟨⟨⟨-, hall⟩, -⟩, hracks⟩ := h
  obtain ⟨_, hp, _, hq, hne⟩ := exists_ne_of_dedup hracks
  obtain ⟨a, ha, rfl⟩ := List.mem_map.mp hp
  obtain ⟨b, hb, rfl⟩ := List.mem_map.mp hq
  exact ⟨fun a ha => (hall a ha).1.1, a, ha, b, hb, hne⟩

theorem commitCheck_zero (h : commitCheck straps r x y = 0) :
    (r.length = 128 ∧ fieldAt r 0 4 = 0x4C545349 ∧ fieldAt r 4 2 = 1) ∧ ((fieldAt r 0x10 1 + 1) % 8 = 0 ∧ (fieldAt r 0x11 1 + 1) % 6 = 0) ∧
    (x ≤ fieldAt r 0x10 1 ∧ y ≤ fieldAt r 0x11 1) ∧ straps = some (2 * (y % 6) + x % 8 / 4, x % 4) ∧ (∀ a ∈ recordAnchors r, a.1 ≤ 3) ∧
    ∃ a ∈ recordAnchors r, ∃ b ∈ recordAnchors r, a.2.2 / 6 * 32 + a.2.1 / 8 ≠ b.2.2 / 6 * 32 + b.2.1 / 8 := by
  obtain ⟨hformat, hextent, hanchors, hholds, hstraps⟩ := checks_of_commitCheck_zero h
  exact ⟨length_magic_version_of_recordFormatOk hformat, spans_of_recordExtentOk hextent, by simpa [recordHolds] using hholds, of_decide_eq_true hstraps,
    anchors_of_recordAnchorsOk hanchors⟩

end Check

/-! ### The commit (R582 to R584, R590) -/

theorem recordCommit_installed {s : State} (hb : s.flag .recStatus .BUSY = false) (hv : s.flag .idPosition .RECORD_VALID = true) :
    s.recordCommit = s.setFlag .idStatus .WO_VIOLATION true := by rw [State.recordCommit, if_neg (by simp [hb]), if_pos hv]

section Commit
variable {s : State} (hb : s.flag .recStatus .BUSY = false) (hv : s.flag .idPosition .RECORD_VALID = false)
include hb hv

/-- A record that fails a check has its number as RESULT. -/
theorem recordCommit_refused (h : commitCheck s.straps s.staged (s.fld .recPos .X) (s.fld .recPos .Y) ≠ 0) :
    s.recordCommit = s.setFld .recStatus .RESULT (commitCheck s.straps s.staged (s.fld .recPos .X) (s.fld .recPos .Y)) := by
  rw [State.recordCommit, if_neg (by simp [hb]), if_neg (by simp [hv])]
  exact if_pos h

theorem recordCommit_begins (h : commitCheck s.straps s.staged (s.fld .recPos .X) (s.fld .recPos .Y) = 0) :
    s.recordCommit = { s.setFlag .recStatus .BUSY true with start := { s.start with commit := some (s.staged, s.fld .recPos .X, s.fld .recPos .Y) } } := by
  rw [State.recordCommit, if_neg (by simp [hb]), if_neg (by simp [hv])]
  exact if_neg (not_not.mpr h)

end Commit

/-- RESULT set at the end of a commit: BUSY is 0 and no commit is left. -/
def commitEnds (s : State) (perm : Perm) (result : Nat) : State :=
  { s.setFlag .recStatus .BUSY false with start := { s.start with commit := none }, perm := perm }.setFld .recStatus .RESULT result

theorem commitEnds_shows (s : State) (perm : Perm) {k : Nat} (hk : k < 2 ^ 4) : (commitEnds s perm k).fld .recStatus .RESULT = k ∧
    (commitEnds s perm k).flag .recStatus .BUSY = false ∧ (commitEnds s perm k).start.commit = none ∧ (commitEnds s perm k).perm = perm := by
  refine ⟨?_, ?_, rfl, rfl⟩
  · rw [commitEnds, fld_setFld]
    exact Nat.mod_eq_of_lt hk
  · rw [commitEnds, flag_congr_fld (fld_setFld_ne _ _ _ rfl rfl (by decide))]
    exact flag_setFlag s .recStatus .BUSY false rfl

section Done
variable {s : State} {r : List Byte} {x y : Nat} (h : s.start.commit = some (r, x, y))
include h

theorem exec_recordCommitDone_fails : exec (.recordCommitDone false) s = .next (commitEnds s s.perm 7) := by
  have e : exec (.recordCommitDone false) s = execRecordCommitDone false s := rfl
  rw [e, execRecordCommitDone, h]
  rfl

theorem exec_recordCommitDone_ok : exec (.recordCommitDone true) s =
    .next ((commitEnds s { s.perm with record := some (r, x, y) } 1).setReg .idPosition (positionWord r x y)) := by
  have e : exec (.recordCommitDone true) s = execRecordCommitDone true s := rfl
  rw [e, execRecordCommitDone, h]
  rfl

end Done

theorem exec_recordCommitDone_idle {s : State} (h : s.start.commit = none) (ok : Bool) : exec (.recordCommitDone ok) s = .next s := by
  have e : exec (.recordCommitDone ok) s = execRecordCommitDone ok s := rfl
  rw [e, execRecordCommitDone, h]

/-! ### Switch trays (R578, R585) -/

/-- An event of the rack leaves its switch trays. -/
theorem trays_raise (s : State) (e : RackEvent) : (s.raise e).rack.trays = s.rack.trays := by
  have hrm (s : State) (m : Nat) (k : Rm) : (s.setRm m k).rack.trays = s.rack.trays := by
    unfold State.setRm
    dsimp only
    split <;> rfl
  unfold State.raise
  split
  · rfl
  · unfold State.raiseAt State.setCfg
    dsimp only
    split <;> split <;> simp only [State.send, hrm]

theorem tray_raise (s : State) (e : RackEvent) (i : Nat) : (s.raise e).tray i = s.tray i := by rw [State.tray, trays_raise, State.tray]

theorem recordsDiffer_raise (s : State) (e : RackEvent) : (s.raise e).recordsDiffer = s.recordsDiffer := by simp only [State.recordsDiffer, tray_raise]

theorem cfg_setCfg (s : State) {m : Nat} (hm : m ∈ [0, 1]) (c : RackCfg) : ((s.setCfg m c).rm m).cfg = c := by
  unfold State.setCfg
  dsimp only
  split
  · rcases List.mem_pair.mp hm with rfl | rfl <;> rfl
  · rw [rm_setRm_same]

/-- The manager that acts as active logs the event. -/
theorem mem_events_raise {s : State} {m : Nat} (h : s.activeRm = some m) (e : RackEvent) : e ∈ ((s.raise e).rm m).cfg.events := by
  have hm : m ∈ [0, 1] := List.mem_of_find?_eq_some h
  have hcfg : ((s.raiseAt m e).rm m).cfg = { (s.rm m).cfg with events := (s.rm m).cfg.events ++ [e] } := by
    rw [← cfg_setCfg s hm { (s.rm m).cfg with events := (s.rm m).cfg.events ++ [e] }]
    unfold State.raiseAt
    dsimp only
    split <;> rfl
  unfold State.raise
  rw [h]
  dsimp only
  rw [hcfg]
  simp

section TrayWrite
variable {s : State} {i : SwitchId} {record : List Byte} {st : Byte} {rack : W16} {ok : Bool}

/-- Does a switch tray not take the record: it holds one, its store fails, or a check does? -/
def trayRefuses (s : State) (i : Nat) (record : List Byte) (st : Byte) (rack : W16) (ok : Bool) : Prop :=
  (s.tray i).record ≠ none ∨ ok = false ∨ recordFormatOk record = false ∨ recordExtentOk record = false ∨ recordAnchorsOk record = false ∨ 3 < st.toNat ∨
    recordHolds record (8 * (rack.toNat % 32)) (6 * (rack.toNat / 32)) = false

/-- The record taken. -/
def trayTakes (s : State) (i : Nat) (record : List Byte) (st : Byte) (rack : W16) : State :=
  s.setTray i { s.tray i with record := some (record, st.toNat, rack.toNat) }

theorem trayRefuses_iff : trayRefuses s i record st rack ok ↔
    ((s.tray i).record.isSome || !ok || !recordFormatOk record || !recordExtentOk record || !recordAnchorsOk record || decide (3 < st.toNat) ||
      !recordHolds record (8 * (rack.toNat % 32)) (6 * (rack.toNat / 32))) = true := by
  simp only [trayRefuses, Bool.or_eq_true, Bool.not_eq_true', decide_eq_true_eq, Option.isSome_iff_ne_none, or_assoc]

theorem exec_switchTrayRecordWrite_refused (h : trayRefuses s i record st rack ok) : exec (.switchTrayRecordWrite i record st rack ok) s = .next s :=
  congrArg Host.Outcome.next (if_pos (trayRefuses_iff.mp h))

theorem exec_switchTrayRecordWrite_taken (h : ¬ trayRefuses s i record st rack ok) : exec (.switchTrayRecordWrite i record st rack ok) s =
    .next (if (trayTakes s i record st rack).recordsDiffer then (trayTakes s i record st rack).raise .recordsDiffer else trayTakes s i record st rack) :=
  congrArg Host.Outcome.next (if_neg (mt trayRefuses_iff.mpr h))

end TrayWrite

theorem tray_trayTakes (s : State) (i : Nat) (record : List Byte) (st : Byte) (rack : W16) :
    (trayTakes s i record st rack).tray i = { s.tray i with record := some (record, st.toNat, rack.toNat) } := tray_setTray_same ..

theorem activeRm_trayTakes (s : State) (i : Nat) (record : List Byte) (st : Byte) (rack : W16) :
    (trayTakes s i record st rack).activeRm = s.activeRm := rfl

/-- The paths of a tray follow its record from power-on. -/
theorem exec_switchTrayPowerOn (i : SwitchId) (s : State) : ∃ path, exec (.switchTrayPowerOn i) s = .next (s.setTray i { s.tray i with path := path }) ∧
    ((s.tray i).record = none → path = .none) ∧
    ∀ r st rack, (s.tray i).record = some (r, st, rack) →
      path = if (if st < 2 then fieldAt r 0x10 1 = 7 else fieldAt r 0x11 1 = 5) then .loop else .optic := by
  refine ⟨_, rfl, fun h => ?_, fun r st rack h => ?_⟩
  · rw [h]
  · rw [h]

/-! ### The statement -/

/-- Settles O59: a commit by its first failing check, its end by the store, and the trays by what they take. -/
theorem installationRecord : Obligations.InstallationRecord := by
  refine ⟨fun s => ⟨fun hb => congrArg Host.Outcome.next (if_pos hb), fun hb hv => ?_, fun hb hv => ⟨fun hk => ?_, fun hk => ?_⟩, exec_recordCommitDone_idle,
      fun rec x y h => ⟨?_, ?_⟩⟩,
    fun straps r x y => ⟨commitCheck_eq_two, commitCheck_eq_three, fun h => ?_⟩,
    fun i record st rack ok s => ⟨exec_switchTrayRecordWrite_refused, fun h => ⟨_, exec_switchTrayRecordWrite_taken h, ?_⟩⟩, fun i s => ?_⟩
  · exact ⟨_, congrArg Host.Outcome.next (recordCommit_installed hb hv), flag_setFlag _ _ _ _ rfl, rfl, rfl⟩
  · refine ⟨_, congrArg Host.Outcome.next (recordCommit_refused hb hv hk), ?_, rfl, rfl⟩
    rw [fld_setFld]
    exact Nat.mod_eq_of_lt commitCheck_lt
  · exact ⟨_, congrArg Host.Outcome.next (recordCommit_begins hb hv hk), flag_setFlag s .recStatus .BUSY true rfl, rfl, rfl⟩
  · obtain ⟨hresult, hbusy, hcommit, hperm⟩ := commitEnds_shows s s.perm (k := 7) (by decide)
    exact ⟨_, exec_recordCommitDone_fails h, hresult, hbusy, hcommit, hperm⟩
  · obtain ⟨hresult, hbusy, hcommit, hperm⟩ := commitEnds_shows s { s.perm with record := some (rec, x, y) } (k := 1) (by decide)
    have hstat := reg_setReg_other (commitEnds s { s.perm with record := some (rec, x, y) } 1) (r := .idPosition) (q := .recStatus) (positionWord rec x y) (by decide)
    refine ⟨_, exec_recordCommitDone_ok h, (fld_congr hstat _).trans hresult, (flag_congr hstat _).trans hbusy, hcommit, congrArg Perm.record hperm, ?_,
      fun hx hy => ?_⟩
    · rw [State.flag, State.fld, reg_setReg_same]
      exact decide_eq_true (recordValid_positionWord rec x y)
    · simp only [State.fld, reg_setReg_same]
      exact bits_positionWord rec hx hy
  · obtain ⟨⟨hlength, hmagic, hversion⟩, ⟨hxs, hys⟩, ⟨hx, hy⟩, hstraps, hranks, hracks⟩ := commitCheck_zero h
    exact ⟨hlength, hmagic, hversion, hxs, hys, hx, hy, hstraps, hranks, hracks⟩
  · split
    case isTrue hd =>
      rw [tray_raise, tray_trayTakes, recordsDiffer_raise]
      exact ⟨rfl, rfl, fun m hm => ⟨fun _ => mem_events_raise ((activeRm_trayTakes ..).trans hm) _, fun hn => absurd (hd.symm.trans hn) (by decide)⟩⟩
    case isFalse hd =>
      rw [tray_trayTakes]
      exact ⟨rfl, rfl, fun m hm => ⟨fun ht => absurd ht hd, fun _ => rfl⟩⟩
  · obtain ⟨path, hexec, hnone, hsome⟩ := exec_switchTrayPowerOn i s
    refine ⟨_, hexec, ?_⟩
    rw [tray_setTray_same]
    exact ⟨rfl, hnone, hsome⟩

end Sys2Proof.Proofs
end

section
/-!
One tick of the clock (R44, R440, Table 3-6): what an idle step moves.
-/
namespace Sys2Proof.Proofs
open Sys2Proof.Machine Sys2Proof.Laws

/-! ### A tick of the stroke clock -/

/-- What the stroke keeps beside its registers is no register. -/
theorem fld_withStroke (s : State) (k : Stroke) (q : Reg) (f : FName) : ({ s with stroke := k } : State).fld q f = s.fld q f := rfl

/-- The stroke clock moves its own state and STROKE.PHASE alone. -/
theorem strokeTick_eq (s : State) : s.strokeTick = { s with regs := s.strokeTick.regs, stroke := s.strokeTick.stroke } := by
  unfold State.strokeTick; split <;> rfl

theorem strokeTick_frame (s : State) : s.strokeTick.pending = s.pending ∧ s.strokeTick.rack = s.rack ∧ s.strokeTick.time = s.time ∧
    s.strokeTick.mem = s.mem ∧ s.strokeTick.nib = s.nib ∧ s.strokeTick.hart = s.hart := by
  rw [strokeTick_eq]; and_intros <;> rfl

theorem count_strokeTick (s : State) : s.strokeTick.count = s.count := by
  unfold State.strokeTick
  split
  · rfl
  · exact fld_setFld_other _ _ _ _ (by decide)

theorem phase_lt (s : State) : s.phase < 2 ^ 32 := bits_lt ..

theorem pos_strokePhase_PHASE : Reg.strokePhase.pos .PHASE = (31, 0) := rfl

/-- The phase never falls: it is held at the end of a period that its 32 bits can show. -/
theorem phase_le_strokeTick {s : State} (h : s.periodUs ≤ 16384) : s.phase ≤ s.strokeTick.phase := by
  unfold State.strokeTick
  split
  · exact le_rfl
  · have hp := phase_lt s
    rw [show ∀ (t : State) v, (t.setFld .strokePhase .PHASE v).phase = v % 2 ^ 32 from fun t v => fld_setFld t .strokePhase .PHASE v,
      Nat.mod_eq_of_lt (by omega)]
    omega

/-! ### The statement -/

/-- The clocks of the rack and of a package that is up, a tick on. -/
def clocksOn (s : State) : State :=
  { s with rack := { s.rack with now := s.rack.now + 1 }, time := s.time + 1, cyc100 := s.cyc100 + s.limits.1 }

theorem tick_down {s : State} (h : s.stewardUp = false) : s.tick = { s with rack := { s.rack with now := s.rack.now + 1 } } :=
  if_pos (by rw [Bool.not_eq_true']; exact h)

theorem tick_up {s : State} (h : s.stewardUp = true) : s.tick = (clocksOn s).strokeTick :=
  if_neg (by rw [Bool.not_eq_true', Bool.not_eq_false]; exact h)

/-- Settles O3: the tick of an idle step moves the clocks alone, and the phase within its 32 bits. -/
theorem idleStepIsOneClockTick : Obligations.IdleStepIsOneClockTick := by
  intro s hs
  have hstep : step s = .next s.tick := by rw [step, hs]
  refine ⟨s.tick, hstep, ?_⟩
  cases hu : s.stewardUp
  · rw [tick_down hu]
    exact ⟨hs, rfl, rfl, rfl, rfl, rfl, rfl, fun _ => le_rfl⟩
  · rw [tick_up hu]
    obtain ⟨hpending, hrack, htime, hmem, hnib, hhart⟩ := strokeTick_frame (clocksOn s)
    exact ⟨hpending.trans hs, congrArg RackSt.now hrack, htime, hmem, hnib, hhart, count_strokeTick _, phase_le_strokeTick (s := clocksOn s)⟩

end Sys2Proof.Proofs
end

section
/-!
What the shared operations of the stroke and the ports leave: the registers below the interrupt vectors, which no event writes; what a
control symbol changes; and a vote that is taken (R56 to R58, R172).
-/
namespace Sys2Proof.Proofs
open Sys2Proof.Machine Sys2Proof.Laws Sys2Proof.Claims

/-! ### Events -/

/-- Every word that an event of a vector writes lies at 0x800000 or above. -/
theorem vectorRegs_high (f v : Nat) : 0x800000 ≤ (armedReg f v).addr ∧ 0x800000 ≤ (pendReg f v).addr ∧ 0x800000 ≤ (pbaReg f v).addr := by
  unfold armedReg pendReg pbaReg
  and_intros <;> split <;> simp only [Reg.addr] <;> omega

theorem reg_vectorEvent_low (s : State) (f v : Nat) {q : Reg} (h : q.addr < 0x800000) : (s.vectorEvent f v).reg q = s.reg q := by
  obtain ⟨harmed, hpend, hpba⟩ := vectorRegs_high f v
  exact reg_vectorEvent s f v (by omega) (by omega) (by omega)

theorem reg_pfEvent_low (s : State) (v : Nat) {q : Reg} (h : q.addr < 0x800000) : (s.pfEvent v).reg q = s.reg q := reg_vectorEvent_low s 0 v h
theorem reg_vfEvent_low (s : State) (c v : Nat) {q : Reg} (h : q.addr < 0x800000) : (s.vfEvent c v).reg q = s.reg q := reg_vectorEvent_low s _ v h

/-! ### The records of units are no registers -/

theorem reg_setPort (s : State) (p : Nat) (k : PortSt) (q : Reg) : (s.setPort p k).reg q = s.reg q := rfl
theorem reg_setLink (s : State) (l : Nat) (k : LinkSt) (q : Reg) : (s.setLink l k).reg q = s.reg q := rfl
theorem reg_setImage (s : State) (c : Nat) (i : Image) (q : Reg) : (s.setImage c i).reg q = s.reg q := rfl

/-! ### Symbols (R376, R398) -/

theorem events_symbol (s : State) (p code x : Nat) : Events s (s.symbol p code x) := by
  unfold State.symbol; split
  · exact events_send ..
  · exact .refl s

theorem regs_symbol (s : State) (p code x : Nat) : (s.symbol p code x).regs = s.regs := by unfold State.symbol; split <;> rfl

/-- A symbol changes what is sent alone. -/
theorem symbol_eq (s : State) (p code x : Nat) : s.symbol p code x = { s with outbox := (s.symbol p code x).outbox } := by
  have h := events_symbol s p code x
  rw [Events, regs_symbol] at h
  exact h

theorem outbox_symbol_sent {s : State} {p code : Nat} (hc : s.canSymbol p = true) (ho : symbolOk (s.portIs p) code = true) (x : Nat) :
    (s.symbol p code x).outbox = s.outbox ++ [.symbol p code x] := by
  rw [State.symbol, if_pos (by rw [hc, ho]; rfl)]; rfl

theorem outbox_symbol_prefix (s : State) (p code x : Nat) : s.outbox <+: (s.symbol p code x).outbox := by
  unfold State.symbol; split
  · exact List.prefix_append ..
  · exact List.prefix_rfl

/-- The SLIP symbol of a vote on each port of a list. -/
def sendSlips (s : State) (v : Vote) (ports : List Nat) : State := ports.foldl (fun s p => s.symbol p 0x01 (slipPayload s.count v)) s

theorem events_sendSlips (s : State) (v : Vote) (ports : List Nat) : Events s (sendSlips s v ports) := events_foldl (fun _ _ => events_symbol ..) ports s

theorem regs_sendSlips (s : State) (v : Vote) (ports : List Nat) : (sendSlips s v ports).regs = s.regs :=
  foldl_same State.regs (fun _ _ _ => regs_symbol ..) s

theorem reg_sendSlips (s : State) (v : Vote) (ports : List Nat) (q : Reg) : (sendSlips s v ports).reg q = s.reg q := by
  rw [State.reg, regs_sendSlips, State.reg]

theorem stroke_of_events {s t : State} (h : Events s t) : t.stroke = s.stroke := by rw [Events] at h; rw [h]

theorem outbox_sendSlips_prefix (s : State) (v : Vote) (ports : List Nat) : s.outbox <+: (sendSlips s v ports).outbox := by
  induction ports generalizing s with
  | nil => exact List.prefix_rfl
  | cons p ports ih => exact (outbox_symbol_prefix ..).trans (ih _)

/-- It leaves on every LIVE port of the list that sends symbols. -/
theorem mem_outbox_sendSlips {s : State} (v : Vote) {ports : List Nat} {p : Nat} (hp : p ∈ ports) (hl : s.live p = true) (hc : s.canSymbol p = true) :
    .symbol p 0x01 (slipPayload s.count v) ∈ (sendSlips s v ports).outbox := by
  induction ports generalizing s with
  | nil => exact absurd hp List.not_mem_nil
  | cons q ports ih =>
    change _ ∈ (sendSlips (s.symbol q 0x01 (slipPayload s.count v)) v ports).outbox
    rcases List.mem_cons.mp hp with rfl | hp
    · have hok : symbolOk (s.portIs p) 0x01 = true := by rw [of_decide_eq_true hl]; rfl
      refine (outbox_sendSlips_prefix _ v ports).subset ?_
      rw [outbox_symbol_sent hc hok]
      exact List.mem_append_right _ (List.mem_singleton_self _)
    · rw [symbol_eq]
      exact ih (s := { s with outbox := _ }) hp hl hc

/-! ### A vote (R57, R58) -/

/-- LATE_VOTE set where a vote comes after P − 8 µs. -/
def markLate (s : State) : State := if (s.periodUs - 8) * 256000 < s.phase then s.setFlag .strokeStatus .LATE_VOTE true else s

theorem events_markLate (s : State) : Events s (markLate s) := by
  unfold markLate; split
  · exact events_setFld ..
  · exact .refl s

theorem outbox_markLate (s : State) : (markLate s).outbox = s.outbox := by unfold markLate; split <;> rfl

theorem reg_markLate_other (s : State) {q : Reg} (h : q.addr ≠ Reg.strokeStatus.addr) : (markLate s).reg q = s.reg q := by
  unfold markLate; split
  · exact reg_setFlag_other _ _ _ h
  · rfl

theorem fld_markLate_other (s : State) {f : FName} (hf : hasField .strokeStatus f = true) (h : f ≠ .LATE_VOTE) :
    (markLate s).fld .strokeStatus f = s.fld .strokeStatus f := by
  unfold markLate; split
  · exact fld_setFlag_ne _ _ _ rfl hf h
  · rfl

theorem flag_markLate {s : State} (h : (s.periodUs - 8) * 256000 < s.phase) : (markLate s).flag .strokeStatus .LATE_VOTE = true := by
  rw [markLate, if_pos h, flag_setFlag _ _ _ _ rfl]

/-- The state that keeps a first vote. -/
def keepVote (s : State) (v : Vote) : State := { s with stroke := { s.stroke with vote := some v } }

theorem reg_keepVote (s : State) (v : Vote) (q : Reg) : (keepVote s v).reg q = s.reg q := rfl

theorem links_keepVote (s : State) (v : Vote) : (keepVote s v).links = s.links := rfl

/-- The ports that a vote leaves on. -/
def votePorts (s : State) (origin : Option Nat) : List Nat :=
  if origin.isNone && s.strokeState = 3 then [] else s.livePorts.filter fun p => some p ≠ origin

/-- What a vote does once it is known whether it is late. -/
theorem takeVote_eq (s : State) (v : Vote) (origin : Option Nat) : s.takeVote v origin = match (markLate s).stroke.vote with
    | some _ => markLate s
    | none => sendSlips (keepVote (markLate s) v) v (votePorts (keepVote (markLate s) v) origin) := by
  by_cases h : (s.periodUs - 8) * 256000 < s.phase
  · rw [markLate, State.takeVote, if_pos h]; rfl
  · rw [markLate, State.takeVote, if_neg h]; rfl

theorem stroke_markLate (s : State) : (markLate s).stroke = s.stroke := stroke_of_events (events_markLate s)

theorem takeVote_of_some {s : State} {w : Vote} (h : s.stroke.vote = some w) (v : Vote) (origin : Option Nat) : s.takeVote v origin = markLate s := by
  rw [takeVote_eq, stroke_markLate, h]

theorem takeVote_of_none {s : State} (h : s.stroke.vote = none) (v : Vote) (origin : Option Nat) :
    s.takeVote v origin = sendSlips (keepVote (markLate s) v) v (votePorts (keepVote (markLate s) v) origin) := by
  rw [takeVote_eq, stroke_markLate, h]

/-- t differs from s in what a vote changes, at most: the register file, the stroke, and what is sent. -/
def Voted (s t : State) : Prop := t = { s with regs := t.regs, stroke := t.stroke, outbox := t.outbox }

theorem Voted.refl (s : State) : Voted s s := rfl

theorem Voted.trans {s t u : State} (h : Voted s t) (g : Voted t u) : Voted s u := by
  rw [Voted] at *; rw [g]; show _ = _; rw [h]

theorem Events.voted {s t : State} (h : Events s t) : Voted s t := by
  rw [Events] at h; rw [Voted, h]

theorem voted_keepVote (s : State) (v : Vote) : Voted s (keepVote s v) := rfl

theorem voted_takeVote (s : State) (v : Vote) (origin : Option Nat) : Voted s (s.takeVote v origin) := by
  cases h : s.stroke.vote with
  | some w => rw [takeVote_of_some h]; exact Events.voted (events_markLate s)
  | none =>
    rw [takeVote_of_none h]
    exact (Events.voted (events_markLate s)).trans ((voted_keepVote ..).trans (Events.voted (events_sendSlips ..)))

theorem stroke_takeVote (s : State) (v : Vote) (origin : Option Nat) :
    (s.takeVote v origin).stroke = { s.stroke with vote := some (s.stroke.vote.getD v) } := by
  cases h : s.stroke.vote with
  | some w => rw [takeVote_of_some h, stroke_markLate, Option.getD_some, ← h]
  | none => rw [takeVote_of_none h, stroke_of_events (events_sendSlips ..), keepVote, stroke_markLate, Option.getD_none]

/-- Of the registers, LATE_VOTE alone. -/
theorem reg_takeVote (s : State) (v : Vote) (origin : Option Nat) (q : Reg) : (s.takeVote v origin).reg q = (markLate s).reg q := by
  cases h : s.stroke.vote with
  | some w => rw [takeVote_of_some h]
  | none => rw [takeVote_of_none h, reg_sendSlips, reg_keepVote]

theorem late_takeVote {s : State} (h : (s.periodUs - 8) * 256000 < s.phase) (v : Vote) (origin : Option Nat) :
    (s.takeVote v origin).flag .strokeStatus .LATE_VOTE = true := by
  rw [flag_congr (reg_takeVote ..), flag_markLate h]

/-- In a stroke that had a vote nothing is sent. -/
theorem outbox_takeVote_of_some {s : State} (h : s.stroke.vote ≠ none) (v : Vote) (origin : Option Nat) : (s.takeVote v origin).outbox = s.outbox := by
  obtain ⟨w, hw⟩ := Option.ne_none_iff_exists'.mp h
  rw [takeVote_of_some hw, outbox_markLate]

theorem links_markLate (s : State) : (markLate s).links = s.links := by unfold markLate; split <;> rfl

theorem live_congr {s t : State} {p : Nat} (h : t.reg (.portState p) = s.reg (.portState p)) : t.live p = s.live p := by
  rw [State.live, State.portIs, fld_congr h, State.live, State.portIs]

theorem canSymbol_congr {s t : State} {p : Nat} (h : t.reg (.portCfg p) = s.reg (.portCfg p)) (hl : t.links = s.links) : t.canSymbol p = s.canSymbol p := by
  simp only [State.canSymbol, State.portLinks, State.link, fld_congr h, hl]

/-- A first vote leaves on the ports it is for. -/
theorem mem_outbox_takeVote {s : State} (h : s.stroke.vote = none) (v : Vote) {origin : Option Nat} {p : Nat} (hp : p ∈ s.livePorts)
    (ho : some p ≠ origin) (hs : origin.isNone = true → s.strokeState ≠ 3) (hc : s.canSymbol p = true) :
    .symbol p 0x01 (slipPayload s.count v) ∈ (s.takeVote v origin).outbox := by
  obtain ⟨hrange, hlive⟩ := List.mem_filter.mp hp
  have hreg : ∀ {q : Reg}, q.addr ≠ Reg.strokeStatus.addr → (keepVote (markLate s) v).reg q = s.reg q := fun hq =>
    (reg_keepVote ..).trans (reg_markLate_other s hq)
  have hlinks : (keepVote (markLate s) v).links = s.links := (links_keepVote ..).trans (links_markLate s)
  have hlive' : (keepVote (markLate s) v).live p = true := (live_congr (hreg (by simp only [Reg.addr]; omega))).trans hlive
  have hstate : (keepVote (markLate s) v).strokeState = s.strokeState :=
    (fld_congr (reg_keepVote ..) .STATE).trans (fld_markLate_other s rfl (by decide))
  have hcount : (keepVote (markLate s) v).count = s.count := fld_congr (hreg (by decide)) .COUNT
  have hports : p ∈ votePorts (keepVote (markLate s) v) origin := by
    rw [votePorts, hstate, if_neg (by simpa using hs), List.mem_filter]
    exact ⟨List.mem_filter.mpr ⟨hrange, hlive'⟩, by simpa using ho⟩
  rw [takeVote_of_none h, ← hcount]
  exact mem_outbox_sendSlips v hports hlive' ((canSymbol_congr (hreg (by simp only [Reg.addr]; omega)) hlinks).trans hc)

end Sys2Proof.Proofs
end

section
/-!
The stroke's instructions of a core and of a hart, and VOTE_SLIP (R56, R94, R172).
-/
namespace Sys2Proof.Proofs
open Sys2Proof.Machine Sys2Proof.Laws Sys2Proof.Claims

/-! ### An instruction executes -/

/-- A core that executes runs the body of its instruction. -/
theorem nibStep_of_executes {s s1 : State} {n : CoreId} (h : Executes s s1 n) (body : State → NibCore → State) : s.nibStep n body = body s1 (s1.core n) := by
  obtain ⟨hstep, hfetch⟩ := h
  rw [State.nibStep, hstep, hfetch]
  rfl

/-- A hart that executes runs the body of its instruction with the word fetched. -/
theorem hartStep_of_executes {s s1 : State} {h : HartId} {w : Nat} (hx : HartExecutes s s1 h w) (body : State → Nat → Nat → State) :
    s.hartStep h body = body s1 (s.fld (hartReg h) .CTX) w := by
  obtain ⟨hready, hint, hfetch⟩ := hx
  rw [State.hartStep, hready, hint]
  dsimp only
  rw [hfetch]
  rfl

/-! ### A vote raised here (R56, R57, R172) -/

/-- The state in which context c is among those that voted. -/
def addVoter (s : State) (c : Nat) : State :=
  { s with stroke := { s.stroke with voted := if s.stroke.voted.contains c then s.stroke.voted else s.stroke.voted ++ [c] } }

theorem raiseVote_stopped {s : State} (h : s.strokeRuns = false) (c cause : Nat) : s.raiseVote c cause = s := by simp [State.raiseVote, h]

theorem place_addVoter (s : State) (c : Nat) : (addVoter s c).myX = s.myX ∧ (addVoter s c).myY = s.myY := ⟨rfl, rfl⟩

theorem raiseVote_runs {s : State} (h : s.strokeRuns = true) (c cause : Nat) :
    s.raiseVote c cause = (addVoter s c).takeVote { x := s.myX, y := s.myY, ctx := c, cause := cause } none := by
  obtain ⟨hx, hy⟩ := place_addVoter s c
  rw [State.raiseVote, if_neg (by simp [h]), ← hx, ← hy, addVoter]

theorem mem_voted_addVoter (s : State) (c : Nat) : c ∈ (addVoter s c).stroke.voted := by
  unfold addVoter; dsimp only; split
  case isTrue h => simpa using h
  case isFalse => simp

theorem voted_addVoter (s : State) (c : Nat) : Voted s (addVoter s c) := rfl

/-- The facts of a vote raised in state u, whose clock, ports and outbox are those of s. -/
theorem raised_takeVote {s u : State} (v : Vote) (hregs : u.regs = s.regs) (hlinks : u.links = s.links) (hout : u.outbox = s.outbox)
    (hvote : u.stroke.vote = s.stroke.vote) : Raised s (u.takeVote v none) v := by
  have hfld : ∀ r f, u.fld r f = s.fld r f := fun r f => by rw [State.fld, State.reg, hregs, State.fld, State.reg]
  have hphase : u.phase = s.phase := hfld ..
  have hperiod : u.periodUs = s.periodUs := hfld ..
  have hcount : u.count = s.count := hfld ..
  have hstate : u.strokeState = s.strokeState := hfld ..
  have hreg : ∀ r, u.reg r = s.reg r := fun r => by rw [State.reg, hregs, State.reg]
  refine ⟨fun h => ?_, fun h => late_takeVote (by rw [hperiod, hphase]; exact h) v none, fun h hrun p hp hc => ?_⟩
  · rw [outbox_takeVote_of_some (by rw [hvote]; exact h), hout]
  · rw [← hcount]
    obtain ⟨hrange, hlive⟩ := List.mem_filter.mp hp
    exact mem_outbox_takeVote (hvote.trans h) v (List.mem_filter.mpr ⟨hrange, (live_congr (hreg _)).trans hlive⟩) nofun
      (fun _ => by rw [hstate, hrun]; decide) ((canSymbol_congr (hreg _) hlinks).trans hc)

/-- A vote raised while the stroke runs: who voted, the vote the stroke has, and what else it does. -/
theorem raiseVote_shows {s : State} (h : s.strokeRuns = true) (c cause : Nat) : let t := s.raiseVote c cause
    let v : Vote := { x := s.myX, y := s.myY, ctx := c, cause := cause }
    Voted s t ∧ c ∈ t.stroke.voted ∧ t.stroke.vote = some (s.stroke.vote.getD v) ∧ Raised s t v := by
  dsimp only
  rw [raiseVote_runs h]
  refine ⟨(voted_addVoter s c).trans (voted_takeVote ..), ?_, ?_, raised_takeVote _ rfl rfl rfl rfl⟩
  · rw [stroke_takeVote]; exact mem_voted_addVoter s c
  · rw [stroke_takeVote]; rfl

theorem core_of_voted {s t : State} (h : Voted s t) (n : Nat) : t.core n = s.core n := by rw [Voted] at h; rw [h]; rfl
theorem hart_of_voted {s t : State} (h : Voted s t) : t.hart = s.hart := by rw [Voted] at h; rw [h]

/-! ### The statement -/

section Nib
variable {s s1 : State} {n : CoreId} (hx : Executes s s1 n)
include hx

/-- SVOTE of a core bound to a context raises its vote behind the instruction. -/
theorem exec_svote_bound {c : Nat} (hc : s1.coreCtx n = some c) : exec (.svote n) s = .next ((finished s1 n (s1.core n)).raiseVote c 1) := by
  change Host.Outcome.next _ = _
  rw [nibStep_of_executes hx, hc]
  rfl

theorem exec_svote_shows {c : Nat} (hr : s1.strokeRuns = true) (hc : s1.coreCtx n = some c) : ∃ t, exec (.svote n) s = .next t ∧
    t.core n = (s1.core n).advance ∧ c ∈ t.stroke.voted ∧
    t.stroke.vote = some (s1.stroke.vote.getD { x := s1.myX, y := s1.myY, ctx := c, cause := 1 }) ∧
    Raised s1 t { x := s1.myX, y := s1.myY, ctx := c, cause := 1 } := by
  obtain ⟨hv, hvoted, hvote, hraised⟩ := raiseVote_shows (s := finished s1 n (s1.core n)) hr c 1
  exact ⟨_, exec_svote_bound hx hc, (core_of_voted hv n).trans (core_setCore_same ..), hvoted, hvote, hraised⟩

end Nib

theorem exec_qvote (s : State) (h : HartId) : exec (.qvote h) s = .next (s.hartStep h fun s c w => s.qvote h c w) := rfl

section Hart
variable {s s1 : State} {h : HartId} {w : Nat} (hx : HartExecutes s s1 h w)
include hx

theorem exec_qvote_illegal (hp : (s1.hartOf h).priv = .u) (hu : (s1.hartOf h).cbit 0x7C0 0 = false) :
    exec (.qvote h) s = .next (s1.hartIllegal h w) := by
  rw [exec_qvote, hartStep_of_executes hx, State.qvote, if_pos (by simp [Hart.xquillOk, hp, hu])]

/-- QVOTE that may run raises the vote of the hart's context and goes on. -/
theorem exec_qvote_runs (hp : (s1.hartOf h).priv ≠ .u ∨ (s1.hartOf h).cbit 0x7C0 0 = true) :
    exec (.qvote h) s = .next ((s1.raiseVote (s.fld (hartReg h) .CTX) 1).hartDone h ((s1.raiseVote (s.fld (hartReg h) .CTX) 1).hartOf h) 4) := by
  rw [exec_qvote, hartStep_of_executes hx, State.qvote, if_neg (by simpa [Hart.xquillOk, imp_iff_not_or] using hp)]

theorem exec_qvote_shows (hp : (s1.hartOf h).priv ≠ .u ∨ (s1.hartOf h).cbit 0x7C0 0 = true) (hr : s1.strokeRuns = true) :
    let v : Vote := { x := s1.myX, y := s1.myY, ctx := s.fld (hartReg h) .CTX, cause := 1 }
    ∃ t, exec (.qvote h) s = .next t ∧ t.hartOf h = (s1.hartOf h).advance 4 ∧ s.fld (hartReg h) .CTX ∈ t.stroke.voted ∧
      t.stroke.vote = some (s1.stroke.vote.getD v) ∧ Raised s1 t v := by
  obtain ⟨hv, hvoted, hvote, hraised⟩ := raiseVote_shows hr (s.fld (hartReg h) .CTX) 1
  have hhart : (s1.raiseVote (s.fld (hartReg h) .CTX) 1).hartOf h = s1.hartOf h := by rw [State.hartOf, hart_of_voted hv, State.hartOf]
  refine ⟨_, exec_qvote_runs hx hp, ?_, hvoted, hvote, hraised⟩
  rw [State.hartDone, hartOf_setHart_same, hhart]

end Hart

/-- VOTE_SLIP of a stroke that runs: the vote it had, or the driver's for a context of its own. -/
theorem voteSlip_shows {s : State} (h : s.strokeRuns = true) : ∃ v, s.voteSlip.stroke.vote = some v ∧ (∀ w, s.stroke.vote = some w → v = w) ∧
    (s.stroke.vote = none → v.x = s.myX ∧ v.y = s.myY ∧ v.cause = 2 ∧ v.ctx < 16) ∧ Raised s s.voteSlip v := by
  have e : s.voteSlip = (s.freeNat 4).2.takeVote { x := s.myX, y := s.myY, ctx := (s.freeNat 4).1, cause := 2 } none := by
    rw [State.voteSlip, if_neg (by simp [h])]
  rw [e, stroke_takeVote]
  have hctx : (s.freeNat 4).1 < 2 ^ 4 := Nat.mod_lt _ (by decide)
  have hr := raised_takeVote (s := s) (u := (s.freeNat 4).2) { x := s.myX, y := s.myY, ctx := (s.freeNat 4).1, cause := 2 } rfl rfl rfl rfl
  cases hv : s.stroke.vote with
  | none => exact ⟨_, congrArg (fun o => some (Option.getD o _)) hv, nofun, fun _ => ⟨rfl, rfl, rfl, hctx⟩, hr⟩
  | some w =>
    obtain ⟨hout, hlate, -⟩ := hr
    exact ⟨w, congrArg (fun o => some (Option.getD o _)) hv, fun x hx => Option.some.inj hx, nofun, hout, hlate, fun hn => nomatch hv.symm.trans hn⟩

/-- Settles O25: the instructions read the clock behind their fetch; a vote goes through `takeVote`. -/
theorem strokeInstructions : Obligations.StrokeInstructions := by
  refine ⟨fun n rd s s1 hx => ⟨?_, ?_, ?_, fun hr hb => ?_, fun c hr hc => exec_svote_shows hx hr hc⟩,
    fun h rd s s1 w hx => ⟨?_, ?_, exec_qvote_illegal hx, fun hp => ⟨fun hr => ?_, exec_qvote_shows hx hp⟩⟩, fun s => ⟨fun h => ?_, fun h => ?_⟩⟩
  · exact congrArg Host.Outcome.next (nibStep_of_executes hx _)
  · exact congrArg Host.Outcome.next (nibStep_of_executes hx _)
  · refine congrArg Host.Outcome.next ((nibStep_of_executes hx _).trans ?_)
    rw [State.stepOf]
    simp only [Bool.and_eq_true, decide_eq_true_eq]
    rfl
  · obtain ⟨c, hc⟩ := Option.ne_none_iff_exists'.mp hb
    rw [exec_svote_bound hx hc, raiseVote_stopped (s := finished s1 n (s1.core n)) hr]
  · exact congrArg Host.Outcome.next (hartStep_of_executes hx _)
  · exact congrArg Host.Outcome.next (hartStep_of_executes hx _)
  · rw [exec_qvote_runs hx hp, raiseVote_stopped hr]
  · change Host.Outcome.next s.voteSlip = _
    rw [State.voteSlip, h]; rfl
  · obtain ⟨v, hvote, hsame, hnew, hraised⟩ := voteSlip_shows h
    exact ⟨_, v, rfl, hvote, hsame, hnew, hraised⟩

end Sys2Proof.Proofs
end

section
/-!
The stroke starts and stops: START founds or joins, STOP and the join's timeout end it, and a SLIP symbol brings a vote (R56, R57, R60,
R66, R69, R436, R449, R450).
-/
namespace Sys2Proof.Proofs
open Sys2Proof.Machine Sys2Proof.Laws Sys2Proof.Claims

/-! ### The end of a start step -/

theorem reg_endStep_other (s : State) (k out : Nat) {q : Reg} (h : q.addr ≠ Reg.startStat.addr) (hq : q.addr < 0x800000) :
    (s.endStep k out).reg q = s.reg q := by
  rw [State.endStep, reg_pfEvent_low _ _ hq, reg_send, reg_setFlds_other _ _ h]

theorem hasField_endStep (k out e : Nat) : ∀ x ∈ [(FName.STEP, k), (.STATE, if out = 0 then 2 else 3), (.CAUSE, out), (.ELAPSED, e)],
    hasField .startStat x.1 = true := by simp; and_intros <;> rfl

theorem step_endStep (s : State) {k : Nat} (hk : k < 16) (out : Nat) : (s.endStep k out).fld .startStat .STEP = k := by
  obtain ⟨e, he⟩ := reg_endStep s k out
  rw [fld_congr he, fld_setFlds_of_mem s .startStat (hasField_endStep k out e) (by simp) (v := k) (by simp), pos_startStat_STEP]
  exact Nat.mod_eq_of_lt hk

theorem flag_endStep_other (s : State) (k out : Nat) {f : FName} (hf : hasField .startStat f = true) (h : f ∉ [FName.STEP, .STATE, .CAUSE, .ELAPSED]) :
    (s.endStep k out).flag .startStat f = s.flag .startStat f := by
  obtain ⟨e, he⟩ := reg_endStep s k out
  rw [flag_congr he]
  exact flag_congr_fld (fld_setFlds_of_not_mem s .startStat (hasField_endStep k out e) hf h)

/-! ### The stop of the stroke (R52, R65, R69) -/

/-- A register outside the sixteen pairs of STROKE.IMAGE and STROKE.IMG_STAT. -/
def OffImages (q : Reg) : Prop := q.addr < 0x200200 ∨ 0x200300 ≤ q.addr

theorem addr_strokeImage (c : Nat) : (Reg.strokeImage c).addr = 0x200200 + 16 * c := rfl
theorem addr_strokeImgStat (c : Nat) : (Reg.strokeImgStat c).addr = 0x200208 + 16 * c := rfl
theorem addr_strokeOffset (p : Nat) : (Reg.strokeOffset p).addr = 0x200100 + 8 * p := rfl

theorem OffImages.ne_imgStat {q : Reg} (h : OffImages q) {c : Nat} (hc : c < 16) : q.addr ≠ (Reg.strokeImgStat c).addr := by
  rw [OffImages] at h; rw [addr_strokeImgStat]; omega

theorem OffImages.ne_image {q : Reg} (h : OffImages q) {c : Nat} (hc : c < 16) : q.addr ≠ (Reg.strokeImage c).addr := by
  rw [OffImages] at h; rw [addr_strokeImage]; omega

theorem mem_allContexts {c : Nat} : c ∈ allContexts ↔ c < 16 := List.mem_range

theorem reg_disarm (s : State) {c : Nat} (hc : c < 16) {q : Reg} (h : OffImages q) : (s.disarm c).reg q = s.reg q :=
  reg_setFld_other (s.setImage c Image.empty) _ _ (h.ne_imgStat hc)

theorem reg_disarmDue (s : State) {q : Reg} (h : OffImages q) : s.disarmDue.reg q = s.reg q :=
  foldl_same (·.reg q) (fun s c hc => by
    split
    · exact reg_disarm s (mem_allContexts.mp hc) h
    · rfl) s

theorem reg_invalidOffsets (s : State) {l : List Nat} (hl : ∀ p ∈ l, p < 16) {q : Reg} (h : q.addr < 0x200100 ∨ 0x200180 ≤ q.addr) :
    (l.foldl (fun s p => s.setFlag (.strokeOffset p) .VALID false) s).reg q = s.reg q :=
  foldl_same (·.reg q) (fun s p hp => reg_setFlag_other s _ _ (by have := hl p hp; rw [addr_strokeOffset]; omega)) s

theorem mem_range16 : ∀ p ∈ List.range 16, p < 16 := fun _ => List.mem_range.mp

/-- The registers that the stop of the stroke writes first: STATE, LOCK and READY. -/
def stopFlags (s : State) : State := ((s.setFld .strokeStatus .STATE 0).setFlag .strokeCtrl .LOCK false).setFlag .startStat .READY false

/-- The stroke's own state thrown away. -/
def dropStroke (s : State) : State := { s with stroke := Stroke.stopped, slots := [] }

theorem reg_dropStroke (s : State) (q : Reg) : (dropStroke s).reg q = s.reg q := rfl

theorem stopStroke_eq (s : State) :
    s.stopStroke = (dropStroke ((List.range 16).foldl (fun s p => s.setFlag (.strokeOffset p) .VALID false) (stopFlags s))).disarmDue := rfl

theorem reg_stopStroke (s : State) {q : Reg} (h : q.addr < 0x200100 ∨ 0x200300 ≤ q.addr) : s.stopStroke.reg q = (stopFlags s).reg q := by
  rw [stopStroke_eq, reg_disarmDue _ (by rw [OffImages]; omega), reg_dropStroke, reg_invalidOffsets _ mem_range16 (by omega)]

theorem stopStroke_shows (s : State) : s.stopStroke.strokeState = 0 ∧ s.stopStroke.flag .strokeCtrl .LOCK = false ∧
    s.stopStroke.flag .startStat .READY = false := by
  have hstate : (stopFlags s).reg .strokeStatus = (s.setFld .strokeStatus .STATE 0).reg .strokeStatus := by
    rw [stopFlags, reg_setFlag_other _ _ _ (by decide), reg_setFlag_other _ _ _ (by decide)]
  have hlock : (stopFlags s).reg .strokeCtrl = ((s.setFld .strokeStatus .STATE 0).setFlag .strokeCtrl .LOCK false).reg .strokeCtrl :=
    reg_setFlag_other _ _ _ (by decide)
  refine ⟨?_, ?_, ?_⟩
  · rw [State.strokeState, fld_congr (reg_stopStroke s (.inl (by decide))), fld_congr hstate, fld_setFld, Nat.zero_mod]
  · rw [flag_congr (reg_stopStroke s (.inl (by decide))), flag_congr hlock, flag_setFlag _ _ _ _ rfl]
  · rw [flag_congr (reg_stopStroke s (.inl (by decide))), stopFlags, flag_setFlag _ _ _ _ rfl]

/-- A join that fails leaves the stroke STOPPED and step 8 FAILED with the cause. -/
theorem joinFails_shows (s : State) {cause : Nat} (h0 : cause ≠ 0) (hc : cause < 256) : let t := s.joinFails cause
    t.strokeState = 0 ∧ t.fld .startStat .STATE = 3 ∧ t.fld .startStat .CAUSE = cause ∧ t.fld .startStat .STEP = 8 := by
  obtain ⟨hstate, hcause⟩ := fld_endStep s.stopStroke 8 hc
  dsimp only
  rw [State.joinFails, hcause, hstate, if_neg h0, step_endStep _ (by decide), State.strokeState,
    fld_congr (reg_endStep_other _ 8 cause (q := .strokeStatus) (by decide) (by decide))]
  exact ⟨(stopStroke_shows s).1, rfl, rfl, rfl⟩

/-! ### The anchor view (R41) -/

/-- STROKE.ANCHOR is written, and vector 5 raised where it changed. -/
theorem showAnchor_cases (s : State) : ∃ l, s.showAnchor = s.setFlds .strokeAnchor l ∨ s.showAnchor = (s.setFlds .strokeAnchor l).pfEvent 5 := by
  unfold State.showAnchor
  extract_lets t
  have ht : ∃ l, t = s.setFlds .strokeAnchor l := by
    cases h : s.stroke.view <;> exact ⟨_, by simp only [t, h]; rfl⟩
  obtain ⟨l, hl⟩ := ht
  rw [hl]
  refine ⟨l, ?_⟩
  split
  · exact .inl rfl
  · exact .inr rfl

theorem events_showAnchor (s : State) : Events s s.showAnchor := by
  obtain ⟨l, h | h⟩ := showAnchor_cases s <;> rw [h]
  · exact events_setFlds ..
  · exact (events_setFlds ..).trans (events_pfEvent ..)

theorem reg_showAnchor (s : State) {q : Reg} (h : q.addr ≠ Reg.strokeAnchor.addr) (hq : q.addr < 0x800000) : s.showAnchor.reg q = s.reg q := by
  obtain ⟨l, hs | hs⟩ := showAnchor_cases s <;> rw [hs]
  · rw [reg_setFlds_other _ _ h]
  · rw [reg_pfEvent_low _ _ hq, reg_setFlds_other _ _ h]

/-- The state that holds a view. -/
def keepView (s : State) (v : AnchorView) : State := { s with stroke := { s.stroke with view := some v } }

theorem reg_keepView (s : State) (v : AnchorView) (q : Reg) : (keepView s v).reg q = s.reg q := rfl

theorem holdView_eq (s : State) (v : AnchorView) : s.holdView v = (keepView s v).showAnchor := rfl

theorem reg_holdView (s : State) (v : AnchorView) {q : Reg} (h : q.addr ≠ Reg.strokeAnchor.addr) (hq : q.addr < 0x800000) : (s.holdView v).reg q = s.reg q := by
  rw [holdView_eq, reg_showAnchor _ h hq, reg_keepView]

/-- A candidate declares itself, or the view it holds is shown. -/
theorem declareAnchor_cases (s : State) : s.declareAnchor = s.showAnchor ∨ ∃ v, s.declareAnchor = s.holdView v := by
  unfold State.declareAnchor
  split
  · exact .inl rfl
  · extract_lets lower
    split
    · exact .inl rfl
    · exact .inr ⟨_, rfl⟩

theorem reg_declareAnchor (s : State) {q : Reg} (h : q.addr ≠ Reg.strokeAnchor.addr) (hq : q.addr < 0x800000) : s.declareAnchor.reg q = s.reg q := by
  obtain hs | ⟨v, hs⟩ := declareAnchor_cases s <;> rw [hs]
  · exact reg_showAnchor s h hq
  · exact reg_holdView s v h hq

/-! ### START (R60, R436, R449, R450) -/

section Start
variable {s : State}

theorem exec_strokeStart (s : State) : exec .strokeStart s = .next s.strokeStart := rfl

theorem strokeStart_refused (h : s.strokeState = 0) (hf : s.failed = false) (hp : s.start.passed ≠ some 7) :
    s.strokeStart = s.setFlag .startStat .ORDER_ERR true := by
  rw [State.strokeStart, if_neg (by simp [h, hf]), if_pos hp]

theorem strokeStart_timing (h : s.strokeState = 0) (hf : s.failed = false) (hp : s.start.passed = some 7) (ht : s.timingBad = true) :
    s.strokeStart = s.setFlag .strokeStatus .TIMING_ERR true := by
  rw [State.strokeStart, if_neg (by simp [h, hf]), if_neg (by simp [hp]), if_pos ht]

/-- The registers that a START which is taken writes. -/
def startRegs (s : State) : State := ((s.setFlag .strokeCtrl .LOCK true).setFlag .startStat .FOUND_ARMED false).setReg .strokeSlips 0

/-- A stroke without a past. -/
def freshStroke (s : State) : State := { s with stroke := Stroke.stopped }

theorem reg_freshStroke (s : State) (q : Reg) : (freshStroke s).reg q = s.reg q := rfl

/-- Step 8 begun on a stroke without a past. -/
def startBegun (s : State) : State := (freshStroke (startRegs s)).beginStep 8

theorem startBegun_shows (s : State) : (startBegun s).flag .strokeCtrl .LOCK = true ∧ (startBegun s).flag .startStat .FOUND_ARMED = false ∧
    (startBegun s).fld .startStat .STATE = 1 ∧ (startBegun s).fld .startStat .STEP = 8 := by
  have hl : ∀ e ∈ [(FName.STEP, 8), (.STATE, 1), (.CAUSE, 0)], hasField .startStat e.1 = true := by simp; and_intros <;> rfl
  have hlock : (startBegun s).reg .strokeCtrl = (s.setFlag .strokeCtrl .LOCK true).reg .strokeCtrl := by
    rw [startBegun, reg_beginStep_other _ _ (by decide), reg_freshStroke, startRegs, reg_setReg_other _ _ (by decide), reg_setFlag_other _ _ _ (by decide)]
  have harmed : (startBegun s).fld .startStat .FOUND_ARMED = ((s.setFlag .strokeCtrl .LOCK true).setFlag .startStat .FOUND_ARMED false).fld .startStat .FOUND_ARMED := by
    rw [startBegun, fld_congr (reg_beginStep ..), fld_setFlds_of_not_mem _ _ hl rfl (by simp),
      fld_congr (reg_freshStroke ..), startRegs, fld_setReg_other _ _ _ (by decide)]
  refine ⟨?_, ?_, fld_beginStep _ (by decide)⟩
  · rw [flag_congr hlock, flag_setFlag _ _ _ _ rfl]
  · rw [flag_congr_fld harmed, flag_setFlag _ _ _ _ rfl]

/-- The clock of a package that founds the stroke. -/
def founds (s : State) : State := ((s.setFld .strokeStatus .STATE 2).setReg .strokeCount 0).setFld .strokePhase .PHASE 0

theorem reg_founds_other (s : State) {q : Reg} (h : q.addr < 0x200010 ∨ 0x200028 ≤ q.addr) : (founds s).reg q = s.reg q := by
  have h1 : q.addr ≠ 0x200018 ∧ q.addr ≠ 0x200010 ∧ q.addr ≠ 0x200020 := by omega
  obtain ⟨hphase, hcount, hstate⟩ := h1
  rw [founds, reg_setFld_other _ _ _ hphase, reg_setReg_other _ _ hcount, reg_setFld_other _ _ _ hstate]

theorem founds_shows (s : State) : (founds s).strokeState = 2 ∧ (founds s).count = 0 ∧ (founds s).phase = 0 := by
  refine ⟨?_, ?_, ?_⟩
  · rw [State.strokeState, founds, fld_setFld_other _ _ _ _ (by decide), fld_setReg_other _ _ _ (by decide), fld_setFld]; rfl
  · rw [State.count, founds, fld_setFld_other _ _ _ _ (by decide), State.fld, reg_setReg_same]; rfl
  · rw [State.phase, founds, fld_setFld]; rfl

theorem strokeStart_taken (h : s.strokeState = 0) (hf : s.failed = false) (hp : s.start.passed = some 7) (ht : s.timingBad = false) :
    s.strokeStart = if s.flag .startStat .FOUND_ARMED && !s.facesRunning then (founds (startBegun s)).declareAnchor.endStep 8 0
      else (startBegun s).setFld .strokeStatus .STATE 1 := by
  rw [State.strokeStart, if_neg (by simp [h, hf]), if_neg (by simp [hp]), if_neg (by simp [ht])]
  rfl

theorem founding_shows (s : State) : let t := (founds (startBegun s)).declareAnchor.endStep 8 0
    t.strokeState = 2 ∧ t.count = 0 ∧ t.phase = 0 ∧ t.flag .strokeCtrl .LOCK = true ∧ t.flag .startStat .FOUND_ARMED = false ∧ t.fld .startStat .STATE = 2 := by
  obtain ⟨hlock, harmed, -, -⟩ := startBegun_shows s
  obtain ⟨hstate, hcount, hphase⟩ := founds_shows (startBegun s)
  have hreg : ∀ {q : Reg}, q.addr ≠ Reg.startStat.addr → q.addr ≠ Reg.strokeAnchor.addr → q.addr < 0x800000 →
      ((founds (startBegun s)).declareAnchor.endStep 8 0).reg q = (founds (startBegun s)).reg q := fun h1 h2 h3 =>
    (reg_endStep_other _ 8 0 h1 h3).trans (reg_declareAnchor _ h2 h3)
  have hfound : (founds (startBegun s)).declareAnchor.reg .startStat = (startBegun s).reg .startStat :=
    (reg_declareAnchor _ (by decide) (by decide)).trans (reg_founds_other _ (.inl (by decide)))
  refine ⟨(fld_congr (hreg (by decide) (by decide) (by decide)) _).trans hstate, (fld_congr (hreg (by decide) (by decide) (by decide)) _).trans hcount,
    (fld_congr (hreg (by decide) (by decide) (by decide)) _).trans hphase, ?_, ?_, (fld_endStep _ 8 (out := 0) (by decide)).1⟩
  · rw [flag_congr (hreg (by decide) (by decide) (by decide)), flag_congr (reg_founds_other _ (.inl (by decide))), hlock]
  · rw [flag_endStep_other _ 8 0 rfl (by simp), flag_congr hfound, harmed]

theorem joining_shows (s : State) : let t := (startBegun s).setFld .strokeStatus .STATE 1
    t.strokeState = 1 ∧ t.flag .strokeCtrl .LOCK = true ∧ t.flag .startStat .FOUND_ARMED = false ∧ t.fld .startStat .STATE = 1 ∧ t.fld .startStat .STEP = 8 := by
  obtain ⟨hlock, harmed, hstate, hstep⟩ := startBegun_shows s
  have hreg : ∀ {q : Reg}, q.addr ≠ Reg.strokeStatus.addr → ((startBegun s).setFld .strokeStatus .STATE 1).reg q = (startBegun s).reg q := fun h =>
    reg_setFld_other _ _ _ h
  refine ⟨fld_setFld .., ?_, ?_, ?_, ?_⟩
  · rw [flag_congr (hreg (by decide)), hlock]
  · rw [flag_congr (hreg (by decide)), harmed]
  · rw [fld_congr (hreg (by decide)), hstate]
  · rw [fld_congr (hreg (by decide)), hstep]

end Start

/-- R60, bound by bound. -/
theorem timingBad_eq_false (s : State) : s.timingBad = false ↔ (64 ≤ s.periodUs ∧ s.periodUs ≤ 16384 ∧ 4 ≤ s.fld .strokeTiming .GUARD_US ∧
    s.fld .strokeTiming .GUARD_US < s.fld .strokeTiming .HORIZON_US ∧ 35 * s.diameter + 800 ≤ 100 * s.fld .strokeTiming .HORIZON_US ∧
    s.fld .strokeTiming .HORIZON_US + 2 ≤ s.periodUs) := by
  simp only [State.timingBad, Bool.or_eq_false_iff, decide_eq_false_iff_not, not_lt, not_le, and_assoc]

/-! ### STOP and the join's timeout (R69, R449) -/

section Stop
variable {s : State}

theorem exec_strokeStop_runs (h : s.strokeRuns = true) : exec .strokeStop s = .next { s with stroke := { s.stroke with stopping := true } } :=
  congrArg Host.Outcome.next (if_pos h)

theorem strokeRuns_eq_false (h : s.strokeState ≠ 2) (h' : s.strokeState ≠ 3) : s.strokeRuns = false := by simp [State.strokeRuns, h, h']

theorem exec_strokeStop_joins (h : s.strokeState = 1) : exec .strokeStop s = .next (s.joinFails 12) := by
  change Host.Outcome.next s.strokeStop = _
  rw [State.strokeStop, if_neg (by simp [State.strokeRuns, h]), if_pos h]

theorem exec_strokeStop_stopped (h : s.strokeState = 0) : exec .strokeStop s = .next s := by
  change Host.Outcome.next s.strokeStop = _
  rw [State.strokeStop, if_neg (by simp [State.strokeRuns, h]), if_neg (by simp [h])]

theorem exec_joinTimeout_due (h : s.strokeState = 1) (ht : s.start.since + 6400 * s.periodUs ≤ s.time) : exec .joinTimeout s = .next (s.joinFails 10) :=
  congrArg Host.Outcome.next (if_pos (by simp [h, ht]))

theorem exec_joinTimeout_early (h : s.strokeState ≠ 1 ∨ s.time < s.start.since + 6400 * s.periodUs) : exec .joinTimeout s = .next s :=
  congrArg Host.Outcome.next (if_neg (by rcases h with h | h <;> simp [h]))

end Stop

/-! ### SLIP (R57, R66) -/

section Slip
variable {s : State} {p : PortId} {countLo : W16} {x y : Byte} {c : Ctx} {cause : BitVec 3}

theorem exec_slip_discarded (h : s.live p = false ∨ s.canSymbol p = false ∨ s.strokeCounts = false ∨ countLo.toNat ≠ s.count % 2 ^ 16) :
    exec (.slip p countLo x y c cause) s = .next s :=
  congrArg Host.Outcome.next (if_pos (by simpa [or_assoc] using h))

theorem exec_slip_taken (hl : s.live p = true) (hs : s.canSymbol p = true) (hr : s.strokeCounts = true) (hc : countLo.toNat = s.count % 2 ^ 16) :
    exec (.slip p countLo x y c cause) s = .next (s.takeVote { x := x.toNat, y := y.toNat, ctx := c, cause := cause.toNat } (some p)) :=
  congrArg Host.Outcome.next (if_neg (by simp [hl, hs, hr, hc]))

end Slip

/-! ### The statement -/

/-- Settles O44: START by its refusals and its two ends, STOP and the timeout by the state of the stroke, a SLIP by the stroke it speaks of. -/
theorem strokeStartsAndStops : Obligations.StrokeStartsAndStops := by
  intro s
  refine ⟨fun h => ?_, fun h hf => ⟨fun hp => ?_, fun hp ht => ?_, fun hp ht => ⟨fun ha hn => ?_, fun hj => ?_⟩⟩, timingBad_eq_false s,
    ⟨exec_strokeStop_runs, fun h => ⟨?_, fun ht => ?_, fun ht => exec_joinTimeout_early (.inr ht)⟩, exec_strokeStop_stopped, fun h => exec_joinTimeout_early (.inl h)⟩,
    fun p countLo x y c cause => ⟨exec_slip_discarded, fun hl hs hr hc => ?_⟩⟩
  · rw [exec_strokeStart, State.strokeStart, if_pos (by simp [h])]
  · refine ⟨_, congrArg Host.Outcome.next (strokeStart_refused h hf hp), flag_setFlag _ _ _ _ rfl, ?_⟩
    exact (fld_congr (reg_setFlag_other _ _ _ (by decide)) _).trans h
  · refine ⟨_, congrArg Host.Outcome.next (strokeStart_timing h hf hp ht), flag_setFlag _ _ _ _ rfl, ?_⟩
    exact (fld_setFlag_ne _ _ _ rfl rfl (by decide)).trans h
  · refine ⟨_, congrArg Host.Outcome.next ((strokeStart_taken h hf hp ht).trans (if_pos (by simp [ha, hn]))), founding_shows s⟩
  · refine ⟨_, congrArg Host.Outcome.next ((strokeStart_taken h hf hp ht).trans (if_neg ?_)), joining_shows s⟩
    rcases hj with hj | hj <;> simp [hj]
  · exact ⟨_, exec_strokeStop_joins h, joinFails_shows s (by decide) (by decide)⟩
  · exact ⟨_, exec_joinTimeout_due h ht, joinFails_shows s (by decide) (by decide)⟩
  · refine ⟨_, exec_slip_taken hl hs hr hc, ?_, fun hlate => late_takeVote hlate _ _, fun hv q hq hne hcan => ?_⟩
    · rw [stroke_takeVote]
    · exact mem_outbox_takeVote hv _ hq (fun e => hne (Option.some.inj e)) nofun hcan

end Sys2Proof.Proofs
end

section
/-!
Schedule images: arming, validation and disarming, the starts of the work list, and milestones (R49 to R56, R67, R76, R115, R271).
-/
namespace Sys2Proof.Proofs
open Sys2Proof.Machine Sys2Proof.Laws Sys2Proof.Claims

/-! ### Registers and images -/

theorem image_setFld (s : State) (r : Reg) (f : FName) (v c : Nat) : (s.setFld r f v).image c = s.image c := rfl

theorem image_setFlds (s : State) (r : Reg) (l : List (FName × Nat)) (c : Nat) : (s.setFlds r l).image c = s.image c := by
  rw [setFlds_eq]; rfl

theorem image_setFlag (s : State) (r : Reg) (f : FName) (b : Bool) (c : Nat) : (s.setFlag r f b).image c = s.image c := rfl

/-! ### Writes of STROKE.IMAGE (R50, R52) -/

section Arm
variable {s : State} {c base : Nat}

theorem imageWrite_refused (h : (s.image c).phase = .disarming ∨ (s.image c).phase = .dropped) :
    s.imageWrite c true base = s.setFlag .strokeStatus .ARM_REFUSED true := by
  rw [State.imageWrite, if_pos (by simpa using h)]

theorem failed_congr {s t : State} (h : t.reg .pkgFail = s.reg .pkgFail) : t.failed = s.failed := flag_congr h _

theorem pkgFail_ne_strokeImage (c : Nat) : Reg.pkgFail.addr ≠ (Reg.strokeImage c).addr := by rw [addr_strokeImage]; simp only [Reg.addr]; omega

theorem imageWrite_arms (hd : (s.image c).phase ≠ .disarming) (hx : (s.image c).phase ≠ .dropped) (ha : s.flag (.strokeImage c) .ARM = false)
    (hf : s.failed = false) : s.imageWrite c true base =
      ((s.setFld (.strokeImage c) .BASE base).setFlag (.strokeImage c) .ARM true).setImage c { Image.empty with phase := .validating, base := base * 0x10000 } := by
  have hf' : (s.setFld (.strokeImage c) .BASE base).failed = false := (failed_congr (reg_setFld_other _ _ _ (pkgFail_ne_strokeImage c))).trans hf
  rw [State.imageWrite, if_neg (by simp [hd, hx])]
  dsimp only
  rw [if_pos rfl, if_neg (by simp [ha, hf'])]

theorem imageWrite_disarms (s : State) (c base : Nat) : s.imageWrite c false base =
    ((s.setFld (.strokeImage c) .BASE base).dropImage c).setFlag (.strokeImage c) .ARM false := by
  rw [State.imageWrite, if_neg (by simp)]
  rfl

/-- BASE holds its 32 bits. -/
theorem base_setFld (s : State) (c : Nat) (base : W32) : (s.setFld (.strokeImage c) .BASE base.toNat).fld (.strokeImage c) .BASE = base.toNat := by
  rw [fld_setFld]; exact Nat.mod_eq_of_lt base.isLt

theorem dropImage_runs (ha : s.flag (.strokeImage c) .ARM = true) (h : s.strokeState ≠ 0) : (s.dropImage c).image c =
    if (s.image c).phase = .armed then { s.image c with phase := .disarming } else { Image.empty with phase := .dropped } := by
  rw [State.dropImage, if_neg (by simp [ha]), if_neg h]
  split <;> exact image_setImage_same ..

theorem dropImage_stopped (ha : s.flag (.strokeImage c) .ARM = true) (h : s.strokeState = 0) :
    s.dropImage c = (s.setImage c Image.empty).setFld (.strokeImgStat c) .STATUS 2 := by
  rw [State.dropImage, if_neg (by simp [ha]), if_pos h]

end Arm

/-- What clearing ARM leaves of an image that had it set. -/
theorem imageWrite_disarms_shows {s : State} {c : Nat} (base : Nat) (ha : s.flag (.strokeImage c) .ARM = true) : let t := s.imageWrite c false base
    (s.strokeState ≠ 0 → t.image c = if (s.image c).phase = .armed then { s.image c with phase := .disarming } else { Image.empty with phase := .dropped }) ∧
    (s.strokeState = 0 → t.image c = Image.empty ∧ t.fld (.strokeImgStat c) .STATUS = 2) := by
  have ha' : (s.setFld (.strokeImage c) .BASE base).flag (.strokeImage c) .ARM = true := (flag_congr_fld (fld_setFld_ne _ _ _ rfl rfl (by decide))).trans ha
  have hstate : (s.setFld (.strokeImage c) .BASE base).strokeState = s.strokeState := fld_setFld_other _ _ _ _ (by rw [addr_strokeImage]; simp only [Reg.addr]; omega)
  dsimp only
  rw [imageWrite_disarms]
  rw [image_setFlag]
  refine ⟨fun h => dropImage_runs ha' (hstate ▸ h), fun h => ?_⟩
  rw [dropImage_stopped ha' (hstate.trans h), image_setFld, image_setImage_same]
  refine ⟨rfl, ?_⟩
  rw [State.setFlag, fld_setFld_other _ _ _ _ (by rw [addr_strokeImage, addr_strokeImgStat]; omega), fld_setFld]
  rfl

/-! ### Validation (R49, R50) -/

section Validate
variable {s : State} {c : Ctx}

theorem exec_imageValidationDone_idle (h : (s.image c).phase ≠ .validating) : exec (.imageValidationDone c) s = .next s :=
  congrArg Host.Outcome.next (if_pos h)

variable (h : (s.image c).phase = .validating)
include h

theorem exec_imageValidationDone_ok {img : Image} (hv : s.validate c (s.image c).base = .ok img) :
    exec (.imageValidationDone c) s = .next ((s.setImage c img).setFlds (.strokeImgStat c) [(.STATUS, 1), (.STEP, 0)]) := by
  refine congrArg Host.Outcome.next ((if_neg (not_not_intro h)).trans ?_)
  rw [hv]

theorem exec_imageValidationDone_error {st : Nat} (hv : s.validate c (s.image c).base = .error st) :
    exec (.imageValidationDone c) s = .next ((s.setImage c Image.empty).setFld (.strokeImgStat c) .STATUS st) := by
  refine congrArg Host.Outcome.next ((if_neg (not_not_intro h)).trans ?_)
  rw [hv]

end Validate

/-- An image that validation finds is armed; it gives up with ILLEGAL_DESC or ACCESS. -/
theorem validate_result {s : State} {c base : Nat} : (∀ img, s.validate c base = .ok img → img.phase = .armed) ∧
    ∀ st, s.validate c base = .error st → st < 256 := by
  unfold State.validate
  cases s.checkRead c base 128 with
  | none => exact ⟨nofun, fun st h => by cases h; decide⟩
  | some h =>
    dsimp only
    split
    · exact ⟨nofun, fun st h => by cases h; decide⟩
    · cases s.checkRead c base (imageLen h) with
      | none => exact ⟨nofun, fun st h => by cases h; decide⟩
      | some img =>
        dsimp only
        split
        · exact ⟨fun img h => by cases h; rfl, nofun⟩
        · exact ⟨nofun, fun st h => by cases h; decide⟩

/-! ### The work list (R54, R115, R271) -/

/-- The state in which an entry starts its unit: the Feed descriptors armed on STROKE by then have started, and its context is not
closed. -/
def listReady (s : State) (c : Nat) (e : WorkEntry) : State :=
  { s.strokesBefore e.startNs with closed := breakClosed (s.strokesBefore e.startNs).closed c }

section WorkList
variable {s : State} {c : Ctx} {ix : EntryIx} {e : WorkEntry} (he : (s.image c).works[ix.toNat]? = some e)
include he

theorem exec_workListStart_early (h : s.phaseNs < e.startNs) : exec (.workListStart c ix) s = .next s := by
  refine congrArg Host.Outcome.next ?_
  rw [he]
  exact if_pos (by simp [h])

theorem exec_workListStart_due (hr : s.imageRuns c = true) (hs : s.stroke.slip = false) (hstep : e.step = 0xFFFFFFFF ∨ e.step = s.currentStep c)
    (hg : s.inGuard = false) (ht : e.startNs ≤ s.phaseNs) : exec (.workListStart c ix) s = .next (
      if !(listReady s c e).targetServes c e then
        (listReady s c e).contextFault c 0x13 (if e.isFeed then 1 else 0) (if e.tile = 32 then 0xFF else e.tile) e.unit ix.toNat
      else if e.isFeed then (listReady s c e).startFeed c (64 * e.tile + e.unit) e ix.toNat
      else (listReady s c e).startCore c (8 * e.tile + e.unit) e ix.toNat) := by
  have hin : s.inStep c e.step = true := by simpa [State.inStep] using hstep
  refine congrArg Host.Outcome.next ?_
  rw [he]
  exact if_neg (by simp [hr, hs, hin, hg, ht])

end WorkList

theorem core_listReady (s : State) (c : Nat) (e : WorkEntry) (n : Nat) : (listReady s c e).core n = (s.strokesBefore e.startNs).core n := rfl
theorem feedCh_listReady (s : State) (c : Nat) (e : WorkEntry) (i : Nat) : (listReady s c e).feedCh i = (s.strokesBefore e.startNs).feedCh i := rfl

/-- The work that an entry starts at a Feed channel: without a record, a knot, or a hold. -/
def listWork (c : Nat) (e : WorkEntry) : Work :=
  { ctx := c, desc := e.addr, handle := BitVec.allOnes 64, crec := false, knot := none, held := false, delayed := false, image := true }

theorem startCore_queues {s : State} {n : Nat} (h : (s.core n).imageQ.length < 4) (c : Nat) (e : WorkEntry) (ix : Nat) :
    s.startCore c n e ix = s.setCore n { s.core n with imageQ := (s.core n).imageQ ++ [{ entry := e.addr, arg := e.arg }] } := if_neg (by omega)

theorem startCore_overflows {s : State} {n : Nat} (h : 4 ≤ (s.core n).imageQ.length) (c : Nat) (e : WorkEntry) (ix : Nat) :
    s.startCore c n e ix = s.contextFault c 0x06 0 (n / 8) (n % 8) ix := if_pos h

theorem startFeed_queues {s : State} {i : Nat} (h : (s.feedCh i).queue.length < 16) (c : Nat) (e : WorkEntry) (ix : Nat) :
    s.startFeed c i e ix = s.setFeedCh i { s.feedCh i with queue := (s.feedCh i).queue ++ [listWork c e] } := if_neg (by omega)

theorem startFeed_overflows {s : State} {i : Nat} (h : 16 ≤ (s.feedCh i).queue.length) (c : Nat) (e : WorkEntry) (ix : Nat) :
    s.startFeed c i e ix = s.contextFault c 0x06 1 (feedRecTile (i / 64)) (i % 64) ix := if_pos h

theorem feedRecTile_of_lt {t : Nat} (h : t < 32) : feedRecTile t = t := by rw [feedRecTile, if_neg (by omega)]

/-! ### Milestones (R56, R67, R76) -/

section Milestone
variable {s : State} {c : Ctx} {ix : EntryIx} {m : MileEntry} (hm : (s.image c).miles[ix.toNat]? = some m)
include hm

theorem exec_milestoneCheck_met (h : m.threshold ≤ s.knotCount m.knot) : exec (.milestoneCheck c ix) s = .next s := by
  refine congrArg Host.Outcome.next ?_
  rw [hm]
  exact if_pos (by simp [h])

theorem exec_milestoneCheck_missed (hr : s.imageRuns c = true) (hstep : m.step = 0xFFFFFFFF ∨ m.step = s.currentStep c) (ht : m.deadlineNs ≤ s.phaseNs)
    (h : s.knotCount m.knot < m.threshold) : exec (.milestoneCheck c ix) s = .next (
      if m.action = 1 then s.contextFault c 0x07 0xFF 0xFF 0xFFFF m.knot
      else if s.slipLimit ≤ s.consecOf c then s.contextFault c 0x08 0xFF 0xFF 0xFFFF s.slipLimit
      else s.raiseVote c 0) := by
  have hin : s.inStep c m.step = true := by simpa [State.inStep] using hstep
  refine congrArg Host.Outcome.next ?_
  rw [hm]
  exact if_neg (by simp [hr, hin, ht, h])

end Milestone

theorem strokeRuns_of_imageRuns {s : State} {c : Nat} (h : s.imageRuns c = true) : s.strokeRuns = true := by
  simp only [State.imageRuns, Bool.and_eq_true] at h
  tauto

/-! ### The statement -/

/-- Settles O41: writes of STROKE.IMAGE by the phase of the image, the end of validation by what it finds, an entry of the work list by its
unit, a milestone by its count and the slip limit. -/
theorem scheduleImages : Obligations.ScheduleImages := by
  refine ⟨fun c base s => ⟨fun h => ?_, fun hd hx ha hf => ?_, ?_⟩, fun c s => ⟨exec_imageValidationDone_idle, fun h => ⟨fun img hv => ?_, fun st hv => ?_⟩⟩,
    fun c ix s e he hr hs hstep hg => ⟨exec_workListStart_early he, fun ht => ?_⟩,
    fun c ix s m hm hr hstep ht => ⟨exec_milestoneCheck_met hm, fun h => ?_⟩⟩
  · exact ⟨_, congrArg Host.Outcome.next (imageWrite_refused h), flag_setFlag _ _ _ _ rfl, rfl,
      reg_setFlag_other _ _ _ (by rw [addr_strokeImage]; simp only [Reg.addr]; omega)⟩
  · refine ⟨_, congrArg Host.Outcome.next (imageWrite_arms hd hx ha hf),
      (flag_congr (reg_setImage ..) _).trans (flag_setFlag _ _ _ _ rfl), ?_, ?_, ?_⟩
    · rw [fld_congr (reg_setImage ..), fld_setFlag_ne _ _ _ rfl rfl (by decide), base_setFld]
    · rw [image_setImage_same]
    · rw [image_setImage_same]
  · exact ⟨_, rfl, by rw [imageWrite_disarms, flag_setFlag _ _ _ _ rfl], imageWrite_disarms_shows _⟩
  · have hl : ∀ e ∈ [(FName.STATUS, 1), (.STEP, 0)], hasField (.strokeImgStat c) e.1 = true := by simp; and_intros <;> rfl
    refine ⟨_, exec_imageValidationDone_ok h hv, ?_, validate_result.1 img hv, ?_, ?_⟩
    · rw [image_setFlds, image_setImage_same]
    · exact fld_setFlds_of_mem _ _ hl (by simp) (v := 1) (by simp)
    · exact fld_setFlds_of_mem _ _ hl (by simp) (v := 0) (by simp)
  · refine ⟨_, exec_imageValidationDone_error h hv, (image_setFld ..).trans (image_setImage_same ..), ?_⟩
    rw [fld_setFld]
    exact Nat.mod_eq_of_lt (validate_result.2 st hv)
  · have hdue := exec_workListStart_due he hr hs hstep hg ht
    refine ⟨fun hserves hfeed => ?_, fun hserves hfeed hq => ?_, fun hserves hfeed hq => ?_, fun hserves => ?_⟩
    · rw [if_neg (by rw [Bool.not_eq_true', Bool.not_eq_false]; exact hserves), if_neg (by simp [hfeed])] at hdue
      rw [← core_listReady s c e]
      refine ⟨fun hq => ?_, fun hq => ?_⟩
      · rw [startCore_queues hq] at hdue
        exact ⟨_, hdue, core_setCore_same ..⟩
      · rw [startCore_overflows hq] at hdue
        exact hdue
    · rw [if_neg (by rw [Bool.not_eq_true', Bool.not_eq_false]; exact hserves), if_pos hfeed] at hdue
      rw [← feedCh_listReady s c e] at hq ⊢
      rw [startFeed_queues hq] at hdue
      exact ⟨_, listWork c e, hdue, feedCh_setFeedCh_same .., rfl, rfl, rfl, rfl, rfl, rfl, rfl⟩
    · rw [if_neg (by rw [Bool.not_eq_true', Bool.not_eq_false]; exact hserves), if_pos hfeed] at hdue
      rw [← feedCh_listReady s c e] at hq
      rw [startFeed_overflows hq] at hdue
      exact ⟨_, hdue, fun hi => feedRecTile_of_lt (by omega)⟩
    · rw [if_pos (by rw [Bool.not_eq_true']; exact hserves)] at hdue
      exact hdue
  · have hmiss := exec_milestoneCheck_missed hm hr hstep ht h
    refine ⟨fun ha => ?_, fun ha hc => ?_, fun ha hc => ?_⟩
    · rw [hmiss, if_pos ha]
    · rw [hmiss, if_neg ha, if_pos hc]
    · rw [if_neg ha, if_neg (by omega)] at hmiss
      obtain ⟨-, hvoted, hvote, -⟩ := raiseVote_shows (strokeRuns_of_imageRuns hr) c 0
      exact ⟨_, hmiss, hvoted, hvote⟩

end Sys2Proof.Proofs
end

section
/-!
Boundary frames: the comparison of a frame, the stopped frame of a far end, the exchange that a reply completes, and a frame that is
missed (R41, R43, R61 to R64, R70, R449).
-/
namespace Sys2Proof.Proofs
open Sys2Proof.Machine Sys2Proof.Laws Sys2Proof.Claims

/-! ### The anchor view and the clock of a joining package -/

theorem voted_keepView (s : State) (v : AnchorView) : Voted s (keepView s v) := rfl

theorem voted_holdView (s : State) (v : AnchorView) : Voted s (s.holdView v) := by
  rw [holdView_eq]; exact (voted_keepView s v).trans (Events.voted (events_showAnchor _))

theorem voted_offerView (s : State) (v : AnchorView) : Voted s (s.offerView v) := by
  unfold State.offerView
  split
  · exact .refl s
  · split
    · exact voted_holdView s v
    · split
      · exact voted_holdView s v
      · exact .refl s

theorem voted_setClock (s : State) (p l : Nat) (f : FrameFields) : Voted s (s.setClock p l f) :=
  Voted.trans (t := { (s.setReg .strokeCount f.count).setFld .strokePhase .PHASE (s.link l).delay with
    stroke := { s.stroke with clockSet := true, setBy := (s.time, p), steady := 0 } }) rfl (voted_holdView ..)

theorem ports_links_mem_of_voted {s t : State} (h : Voted s t) : t.ports = s.ports ∧ t.links = s.links ∧ t.mem = s.mem := by
  rw [Voted] at h; rw [h]; exact ⟨rfl, rfl, rfl⟩

/-! ### A port that is live -/

theorem portIs_of_live {s : State} {p : Nat} (h : s.live p = true) : s.portIs p = 4 := of_decide_eq_true h

theorem strokeCounts_of_runs {s : State} (h : s.strokeRuns = true) : s.strokeCounts = true := by rw [State.strokeCounts, h]; rfl

theorem strokeState_of_runs {s : State} (h : s.strokeRuns = true) : s.strokeState ≠ 0 := by
  intro h0
  simp [State.strokeRuns, h0] at h

/-! ### The frame compared (R61, R62, R373) -/

section Frame
variable {s : State} {l : LinkId} {p : Nat} (hp : s.portOfLink l = some p)
include hp

theorem exec_boundaryFrame_dead (hl : s.live p = false) (h2 : s.portIs p ≠ 2) (f : FrameFields) (t2 : W64) (late : Bool) :
    exec (.boundaryFrame l f t2 late) s = .next s := by
  have h0 : (decide (s.portIs p = 2) && (s.port p).passed && !s.strokeCounts) = false := by simp [h2]
  refine congrArg Host.Outcome.next ?_
  rw [hp]
  simp only [h0, hl, Bool.false_eq_true, if_false, Bool.not_false, Bool.true_or, if_true]

theorem exec_boundaryFrame_compares (hl : s.live p = true) (hr : s.strokeRuns = true) (hk : (s.link l).relock = none) (f : FrameFields) (t2 : W64)
    (late : Bool) : exec (.boundaryFrame l f t2 late) s = .next (s.compareFrame p l f t2 late) := by
  have h0 : decide (s.portIs p = 2) = false := by simp [portIs_of_live hl]
  refine congrArg Host.Outcome.next ?_
  rw [hp]
  simp only [h0, hl, hk, strokeCounts_of_runs hr, Bool.false_and, Bool.false_eq_true, if_false, Bool.not_true, Option.isSome_none, Bool.or_self, if_true]

theorem exec_stoppedFrame_dead (hl : s.live p = false) (record fw : W64) : exec (.stoppedFrame l record fw) s = .next s := by
  refine congrArg Host.Outcome.next ?_
  rw [hp]
  exact if_pos (by simp [hl])

theorem exec_replyFrame_dead (hl : s.live p = false) (t2 t3 t4 : W64) : exec (.replyFrame l t2 t3 t4) s = .next s := by
  refine congrArg Host.Outcome.next ?_
  rw [hp]
  exact if_pos (by simp [hl])

/-- A reply completes the exchange of its link. -/
theorem exec_replyFrame_live (hl : s.live p = true) (hr : s.strokeRuns = true) (hk : (s.link l).relock = none) (t2 t3 t4 : W64) :
    let out := (t2 - (s.link l).t1).toInt
    let back := (t4 - t3).toInt
    exec (.replyFrame l t2 t3 t4) s = .next (s.setLink l { s.link l with
      sync := some ((out - back).tdiv 2 - (BitVec.ofNat 32 (s.fld (linkStateReg l) .ASYM)).toInt.tdiv 2, (out + back).tdiv 2) }) := by
  refine congrArg Host.Outcome.next ?_
  rw [hp]
  exact if_neg (by simp [hl, hk, strokeState_of_runs hr])

/-- The state that a stopped frame finds its port in: framed, with a far end that is stopped. -/
def farStops (s : State) (p : Nat) : State := s.setPort p { s.port p with framed := true, missed := 0, farStopped := true }

/-- A stopped frame is compared by its record and its firmware alone. -/
theorem exec_stoppedFrame_live (hl : s.live p = true) (hr : s.strokeRuns = true) (hk : (s.link l).relock = none) (record fw : W64) :
    exec (.stoppedFrame l record fw) s = .next (
      if record ≠ s.recordHash then (farStops s p).fence p 1 []
      else if fw ≠ s.fwVersion then (farStops s p).fence p 2 []
      else (((farStops s p).setFlag (.strokeOffset p) .VALID false).setLink l { s.link l with t2 := none, sync := none }).faultEach
        (s.contextsOn p) 0x0C 0xFF 0xFF 0xFFFF p) := by
  have hr' : (farStops s p).strokeRuns = true := hr
  refine congrArg Host.Outcome.next ?_
  rw [hp]
  exact (if_neg (by simp [hl, hk])).trans (if_neg (by rw [Bool.not_eq_true', Bool.not_eq_false]; exact hr'))

end Frame

/-- The cause of a frame that differs is the lowest that applies. -/
theorem frameCause_cases {s : State} {p : Nat} {f : FrameFields} :
    (f.record ≠ s.recordHash → s.frameCause p f = some 1) ∧
    (f.record = s.recordHash → f.fw ≠ s.fwVersion → s.frameCause p f = some 2) ∧
    (f.record = s.recordHash → f.fw = s.fwVersion → f.count.toNat ≠ s.count → s.frameCause p f = some 3) ∧
    (f.record = s.recordHash → f.fw = s.fwVersion → f.count.toNat = s.count → f.timing ≠ s.reg .strokeTiming → s.frameCause p f = some 4) ∧
    (f.record = s.recordHash → f.fw = s.fwVersion → f.count.toNat = s.count → f.timing = s.reg .strokeTiming →
      (f.images.map (fun e => (e.hash, e.step.toNat)) ≠ s.imageEntries p → s.frameCause p f = some 5) ∧
      (f.images.map (fun e => (e.hash, e.step.toNat)) = s.imageEntries p → s.frameCause p f = none)) := by
  refine ⟨fun h1 => ?_, fun h1 h2 => ?_, fun h1 h2 h3 => ?_, fun h1 h2 h3 h4 => ?_, fun h1 h2 h3 h4 => ⟨fun h5 => ?_, fun h5 => ?_⟩⟩ <;>
    rw [State.frameCause]
  · rw [if_pos h1]
  · rw [if_neg (not_not_intro h1), if_pos h2]
  · rw [if_neg (not_not_intro h1), if_neg (not_not_intro h2), if_pos h3]
  · rw [if_neg (not_not_intro h1), if_neg (not_not_intro h2), if_neg (not_not_intro h3), if_pos h4]
  · rw [if_neg (not_not_intro h1), if_neg (not_not_intro h2), if_neg (not_not_intro h3), if_neg (not_not_intro h4), if_pos h5]
  · rw [if_neg (not_not_intro h1), if_neg (not_not_intro h2), if_neg (not_not_intro h3), if_neg (not_not_intro h4), if_neg (not_not_intro h5)]

/-- The commits and refusals that a frame brings. -/
def takeBuddies (s : State) (p : Nat) (f : FrameFields) : State := f.buddies.foldl (fun s b => s.buddyEntry p b) s

/-- A frame that agrees is kept on its port, and its stamp on its link unless it is late. -/
def frameKept (s : State) (p l : Nat) (t2 : W64) (late : Bool) : State :=
  let s := s.setPort p { s.port p with framed := true, missed := 0, farStopped := false }
  if late then s else s.setLink l { s.link l with t2 := some t2 }

section Compare
variable {s : State} {p l : Nat} {f : FrameFields} {t2 : W64} {late : Bool}

theorem compareFrame_count (h : (takeBuddies s p f).frameCause p f = some 3) : s.compareFrame p l f t2 late =
    if (takeBuddies s p f).strokeState = 1 then (takeBuddies s p f).joinFails 11 else (takeBuddies s p f).fence p 3 [] := by
  rw [takeBuddies] at h ⊢
  rw [State.compareFrame, h]
  rfl

theorem compareFrame_differs {cause : Nat} (h : (takeBuddies s p f).frameCause p f = some cause) (h3 : cause ≠ 3) : s.compareFrame p l f t2 late =
    (takeBuddies s p f).fence p cause (if cause = 5 then (takeBuddies s p f).differing p f.images else []) := by
  rw [takeBuddies] at h ⊢
  rw [State.compareFrame, h]
  dsimp only
  split
  case h_1 e => exact absurd (Option.some.inj e) h3
  case h_2 e => rw [Option.some.inj e]
  case h_3 e => exact absurd e nofun

theorem compareFrame_agrees (h : (takeBuddies s p f).frameCause p f = none) : ∃ t, s.compareFrame p l f t2 late = t ∧
    Voted (frameKept (takeBuddies s p f) p l t2 late) t := by
  rw [takeBuddies] at h ⊢
  rw [State.compareFrame, h]
  dsimp only
  rw [← frameKept]
  refine ⟨_, rfl, ?_⟩
  split
  · exact voted_setClock ..
  · exact voted_offerView ..

end Compare

theorem frameKept_shows (s : State) (p l : Nat) (t2 : W64) (late : Bool) : let t := frameKept s p l t2 late
    t.port p = { s.port p with framed := true, missed := 0, farStopped := false } ∧
    t.link l = (if late then s.link l else { s.link l with t2 := some t2 }) ∧ t.mem = s.mem := by
  cases late
  · exact ⟨port_setPort_same .., link_setLink_same .., rfl⟩
  · exact ⟨port_setPort_same .., rfl, rfl⟩

/-- What is shown of a frame that agrees, whatever it does to the anchor view or the clock. -/
theorem compareFrame_agrees_shows {s : State} {p l : Nat} {f : FrameFields} {t2 : W64} {late : Bool} (h : (takeBuddies s p f).frameCause p f = none) :
    let u := takeBuddies s p f
    let t := s.compareFrame p l f t2 late
    t.port p = { u.port p with framed := true, missed := 0, farStopped := false } ∧
    t.link l = (if late then u.link l else { u.link l with t2 := some t2 }) ∧ t.mem = u.mem := by
  obtain ⟨t, ht, hv⟩ := compareFrame_agrees (l := l) (t2 := t2) (late := late) h
  obtain ⟨hports, hlinks, hmem⟩ := ports_links_mem_of_voted hv
  obtain ⟨hport, hlink, hmem'⟩ := frameKept_shows (takeBuddies s p f) p l t2 late
  dsimp only
  rw [ht, State.port, hports, State.link, hlinks, hmem]
  exact ⟨hport, hlink, hmem'⟩

/-! ### A frame missed (R64) -/

section Missed
variable {s : State} {p : PortId}

theorem exec_boundaryFrameMissed_idle (h : s.live p = false ∨ (s.port p).framed = true) : exec (.boundaryFrameMissed p) s = .next s :=
  congrArg Host.Outcome.next (if_pos (by rcases h with h | h <;> simp [h]))

/-- A stroke without a frame: counted, and its offset not VALID. -/
def countMissed (s : State) (p : Nat) : State := (s.addFld (.portCount p) .MISSED_BOUNDARY 1).setFlag (.strokeOffset p) .VALID false

variable (hl : s.live p = true) (hr : s.strokeRuns = true) (hf : (s.port p).framed = false)
include hl hr hf

theorem exec_boundaryFrameMissed_due : exec (.boundaryFrameMissed p) s = .next (
    if 1 ≤ (s.port p).missed then ((countMissed s p).sendDown p 12).portDown p 12
    else (countMissed s p).setPort p { s.port p with framed := true, missed := (s.port p).missed + 1 }) :=
  congrArg Host.Outcome.next (if_neg (by simp [hl, hf, strokeCounts_of_runs hr]))

theorem exec_boundaryFrameMissed_first (h0 : (s.port p).missed = 0) : ∃ t, exec (.boundaryFrameMissed p) s = .next t ∧
    t.fld (.portCount p) .MISSED_BOUNDARY = (s.fld (.portCount p) .MISSED_BOUNDARY + 1) % 2 ^ 16 ∧
    t.flag (.strokeOffset p) .VALID = false ∧ t.port p = { s.port p with framed := true, missed := 1 } := by
  refine ⟨_, (exec_boundaryFrameMissed_due hl hr hf).trans (congrArg _ (if_neg (by omega))), ?_,
    (flag_congr (reg_setPort ..) _).trans (flag_setFlag _ _ _ _ rfl), ?_⟩
  · exact (fld_congr ((reg_setPort ..).trans (reg_setFlag_other _ _ _ (by rw [addr_strokeOffset]; simp only [Reg.addr]; omega))) _).trans (fld_setFld ..)
  · rw [port_setPort_same, h0]

theorem exec_boundaryFrameMissed_second (h0 : (s.port p).missed ≠ 0) : ∃ s0 : State,
    exec (.boundaryFrameMissed p) s = .next ((s0.sendDown p 12).portDown p 12) ∧ s0.mem = s.mem ∧ s0.images = s.images :=
  ⟨countMissed s p, (exec_boundaryFrameMissed_due hl hr hf).trans (congrArg _ (if_pos (by omega))), rfl, rfl⟩

end Missed

/-! ### The statement -/

/-- Settles O43: each frame by the state of its port, a compared one by its lowest cause, a missed one by the strokes before it. -/
theorem boundaryFrames : Obligations.BoundaryFrames := by
  intro l p s hp h16
  obtain ⟨q, rfl⟩ : ∃ q : PortId, q.val = p := ⟨⟨p, h16⟩, rfl⟩
  rw [show Fin.ofNat 16 q.val = q from Fin.ext (Nat.mod_eq_of_lt h16)]
  refine ⟨fun hl => ⟨fun f t2 late h2 => exec_boundaryFrame_dead hp hl h2 f t2 late, exec_stoppedFrame_dead hp hl, exec_replyFrame_dead hp hl,
    exec_boundaryFrameMissed_idle (.inl hl)⟩, fun hl hr => ⟨fun hk => ⟨fun f t2 late => ?_, fun record fw => ?_, exec_replyFrame_live hp hl hr hk⟩,
      fun hf => exec_boundaryFrameMissed_idle (.inr hf), exec_boundaryFrameMissed_first hl hr, exec_boundaryFrameMissed_second hl hr⟩⟩
  · have hexec := exec_boundaryFrame_compares hp hl hr hk f t2 late
    have hdiffers := @compareFrame_differs s q l f t2 late
    obtain ⟨h1, h2, h3, h4, h5⟩ := @frameCause_cases (takeBuddies s q f) q f
    refine ⟨fun a => ?_, fun a b => ?_, fun a b c => ⟨fun hj => ?_, fun hj => ?_⟩, fun a b c => ⟨fun d => ?_, fun d => ⟨fun e => ?_, fun e => ?_⟩⟩⟩
    · exact hexec.trans (congrArg _ (hdiffers (h1 a) (by decide)))
    · exact hexec.trans (congrArg _ (hdiffers (h2 a b) (by decide)))
    · exact hexec.trans (congrArg _ ((compareFrame_count (h3 a b c)).trans (if_neg hj)))
    · exact hexec.trans (congrArg _ ((compareFrame_count (h3 a b c)).trans (if_pos hj)))
    · exact hexec.trans (congrArg _ (hdiffers (h4 a b c d) (by decide)))
    · exact hexec.trans (congrArg _ (hdiffers ((h5 a b c d).1 e) (by decide)))
    · exact ⟨_, hexec, compareFrame_agrees_shows ((h5 a b c d).2 e)⟩
  · have hexec := exec_stoppedFrame_live hp hl hr hk record fw
    refine ⟨fun a => ?_, fun a b => ?_, fun a b => ?_⟩
    · exact hexec.trans (congrArg _ (if_pos a))
    · exact hexec.trans (congrArg _ ((if_neg (not_not_intro a)).trans (if_pos b)))
    · exact hexec.trans (congrArg _ ((if_neg (not_not_intro a)).trans (if_neg (not_not_intro b))))

end Sys2Proof.Proofs
end

section
/-!
What a boundary does after the turn of the stroke leaves COUNT, PHASE and SLIPS and the stroke's votes as the turn made them: the units'
overruns, the ports, the images, the buddy commits, the load reports and the hang detectors write other registers (R37, R51, R58, R59).
-/
namespace Sys2Proof.Proofs
open Sys2Proof.Machine Sys2Proof.Laws Sys2Proof.Claims

/-! ### The relation -/

/-- The registers of the turn: COUNT, PHASE and SLIPS. -/
def TurnReg (q : Reg) : Prop := q.addr = 0x200010 ∨ q.addr = 0x200018 ∨ q.addr = 0x200028

/-- An address that is none of theirs. -/
def OffTurn (r : Reg) : Prop := r.addr < 0x200010 ∨ r.addr = 0x200020 ∨ 0x200030 ≤ r.addr

/-- What the turn of the stroke decides of a stroke: whether it slips, its vote, its voters, and the STOP asked for. -/
def votesOf (k : Stroke) : Bool × Option Vote × List Nat × Bool := (k.slip, k.vote, k.voted, k.stopping)

/-- t has the clock and the votes of s. -/
def KeepsTurn (s t : State) : Prop := (∀ q, TurnReg q → t.reg q = s.reg q) ∧ votesOf t.stroke = votesOf s.stroke

theorem KeepsTurn.refl (s : State) : KeepsTurn s s := ⟨fun _ _ => rfl, rfl⟩

theorem KeepsTurn.trans {s t u : State} (h : KeepsTurn s t) (g : KeepsTurn t u) : KeepsTurn s u :=
  ⟨fun q hq => (g.1 q hq).trans (h.1 q hq), g.2.trans h.2⟩

/-- A change of neither the registers nor the stroke. -/
theorem keepsTurn_of_eq {s t : State} (hr : t.regs = s.regs) (hs : t.stroke = s.stroke) : KeepsTurn s t :=
  ⟨fun q _ => by rw [State.reg, hr, State.reg], by rw [hs]⟩

theorem keepsTurn_foldl {β : Type} {f : State → β → State} (l : List β) (h : ∀ s, ∀ b ∈ l, KeepsTurn s (f s b)) (s : State) :
    KeepsTurn s (l.foldl f s) :=
  ⟨fun q hq => foldl_same (·.reg q) (fun s b hb => (h s b hb).1 q hq) s, foldl_same (fun s => votesOf s.stroke) (fun s b hb => (h s b hb).2) s⟩

theorem keepsTurn_ite {s t u : State} {p : Prop} [Decidable p] (h : KeepsTurn s t) (g : KeepsTurn s u) : KeepsTurn s (if p then t else u) := by
  split
  · exact h
  · exact g

/-! ### Registers and vectors -/

section Writes
variable (s : State) {r : Reg} (h : OffTurn r)
include h

theorem TurnReg.ne {q : Reg} (hq : TurnReg q) : q.addr ≠ r.addr := by rw [OffTurn] at h; rw [TurnReg] at hq; omega

theorem keepsTurn_setReg (w : W64) : KeepsTurn s (s.setReg r w) := ⟨fun _ hq => reg_setReg_other s w (hq.ne h), rfl⟩

theorem keepsTurn_setFld (f : FName) (v : Nat) : KeepsTurn s (s.setFld r f v) := keepsTurn_setReg s h _

theorem keepsTurn_setFlag (f : FName) (b : Bool) : KeepsTurn s (s.setFlag r f b) := keepsTurn_setReg s h _

theorem keepsTurn_satFld (f : FName) (k : Nat) : KeepsTurn s (s.satFld r f k) := keepsTurn_setReg s h _

theorem keepsTurn_addFld (f : FName) (k : Nat) : KeepsTurn s (s.addFld r f k) := keepsTurn_setReg s h _

theorem keepsTurn_setFlds (l : List (FName × Nat)) : KeepsTurn s (s.setFlds r l) :=
  ⟨fun _ hq => reg_setFlds_other s l (hq.ne h), by rw [setFlds_eq]⟩

end Writes

section Steps
variable (s : State)

theorem keepsTurn_of_events {s t : State} (h : Events s t) (hr : ∀ q, TurnReg q → t.reg q = s.reg q) : KeepsTurn s t :=
  ⟨hr, by rw [stroke_of_events h]⟩

theorem TurnReg.low {q : Reg} (hq : TurnReg q) : q.addr < 0x800000 := by rw [TurnReg] at hq; omega

theorem keepsTurn_send (o : Output) : KeepsTurn s (s.send o) := keepsTurn_of_eq rfl rfl

theorem keepsTurn_setContext (c : Nat) (k : CtxState) : KeepsTurn s (s.setContext c k) := keepsTurn_of_eq rfl rfl

theorem keepsTurn_setImage (c : Nat) (i : Image) : KeepsTurn s (s.setImage c i) := keepsTurn_of_eq rfl rfl

theorem keepsTurn_setPort (p : Nat) (k : PortSt) : KeepsTurn s (s.setPort p k) := keepsTurn_of_eq rfl rfl

theorem keepsTurn_setLink (l : Nat) (k : LinkSt) : KeepsTurn s (s.setLink l k) := keepsTurn_of_eq rfl rfl

theorem keepsTurn_pfEvent (v : Nat) : KeepsTurn s (s.pfEvent v) := keepsTurn_of_events (events_pfEvent ..) fun _ hq => reg_pfEvent_low _ _ hq.low

theorem keepsTurn_vfEvent (c v : Nat) : KeepsTurn s (s.vfEvent c v) := keepsTurn_of_events (events_vfEvent ..) fun _ hq => reg_vfEvent_low _ _ _ hq.low

theorem keepsTurn_symbol (p code x : Nat) : KeepsTurn s (s.symbol p code x) := keepsTurn_of_eq (regs_symbol ..) (stroke_of_events (events_symbol ..))

theorem keepsTurn_list (kind origin : Nat) (z : Bool) (tile loc : Nat) : KeepsTurn s (s.list kind origin z tile loc) := by
  rw [list_eq]; exact keepsTurn_of_eq rfl rfl

theorem offTurn_window {r : Reg} (c o : Nat) (h : r.addr = 0x3800000 + c * 0x10000 + o) : OffTurn r := by rw [OffTurn]; omega

/-! ### A context fault -/

theorem offTurn_strokeImgStat (c : Nat) : OffTurn (.strokeImgStat c) := by rw [OffTurn, addr_strokeImgStat]; omega
theorem offTurn_strokeImage (c : Nat) : OffTurn (.strokeImage c) := by rw [OffTurn, addr_strokeImage]; omega
theorem offTurn_strokeOffset (p : Nat) : OffTurn (.strokeOffset p) := by rw [OffTurn, addr_strokeOffset]; omega
theorem offTurn_ctxfCause (c : Nat) : OffTurn (.ctxfCause c) := offTurn_window c 0x100 rfl
theorem offTurn_ctxfDetail (c : Nat) : OffTurn (.ctxfDetail c) := offTurn_window c 0x108 rfl
theorem offTurn_ctxrCtrl (c : Nat) : OffTurn (.ctxrCtrl c) := offTurn_window c 0x110 rfl
theorem offTurn_ctxrPending (c : Nat) : OffTurn (.ctxrPending c) := offTurn_window c 0x118 rfl
theorem offTurn_ctxhHang (c : Nat) : OffTurn (.ctxhHang c) := offTurn_window c 0x130 rfl
theorem offTurn_ctxwCmplStat (c : Nat) : OffTurn (.ctxwCmplStat c) := offTurn_window c 0x410 rfl
theorem offTurn_feedwBuddy (c : Nat) : OffTurn (.feedwBuddy c) := offTurn_window c 0x510 rfl

theorem keepsTurn_disarm (c : Nat) : KeepsTurn s (s.disarm c) :=
  (keepsTurn_setImage s c Image.empty).trans (keepsTurn_setFld _ (offTurn_strokeImgStat c) _ _)

theorem keepsTurn_dropImage (c : Nat) : KeepsTurn s (s.dropImage c) := by
  unfold State.dropImage; dsimp only
  refine keepsTurn_ite (.refl s) (keepsTurn_ite (keepsTurn_disarm s c) (keepsTurn_ite ?_ ?_)) <;> exact keepsTurn_setImage ..

theorem keepsTurn_beginReset (c : Nat) : KeepsTurn s (s.beginReset c) := by
  have h1 := (keepsTurn_setFld s (offTurn_ctxrCtrl c) .STATE 1).trans (keepsTurn_setFld _ (offTurn_ctxrPending c) .UNITS 0xFF)
  have h2 : ∀ t : State, KeepsTurn t ((t.cutImage c).haltCores c) := fun t => by
    refine keepsTurn_of_eq ?_ ?_ <;> (unfold State.cutImage; split <;> rfl)
  unfold State.beginReset
  refine (h1.trans (keepsTurn_of_eq ?_ ?_)).trans ((keepsTurn_dropImage _ c).trans ((keepsTurn_setFlag _ (offTurn_strokeImage c) .ARM false).trans (h2 _)))
    <;> rfl

theorem keepsTurn_recordFault (c cause engine tile unit arg : Nat) : KeepsTurn s (s.recordFault c cause engine tile unit arg) := by
  unfold State.recordFault
  exact (keepsTurn_setFld s (offTurn_ctxfCause c) .CAUSE cause).trans (keepsTurn_setFlds _ (offTurn_ctxfDetail c) _)

theorem keepsTurn_mergeFault (c cause engine tile unit arg : Nat) : KeepsTurn s (s.mergeFault c cause engine tile unit arg) := by
  unfold State.mergeFault
  exact (keepsTurn_ite (keepsTurn_recordFault ..) (.refl s)).trans (keepsTurn_satFld _ (offTurn_ctxfCause c) _ _)

theorem keepsTurn_firstFault (c cause engine tile unit arg : Nat) : KeepsTurn s (s.firstFault c cause engine tile unit arg) := by
  unfold State.firstFault
  exact ((keepsTurn_setFlds s (offTurn_ctxfCause c) _).trans (keepsTurn_recordFault ..)).trans (keepsTurn_setContext ..)

theorem keepsTurn_contextFault (c cause engine tile unit arg : Nat) : KeepsTurn s (s.contextFault c cause engine tile unit arg) := by
  unfold State.contextFault
  extract_lets t
  have ht : KeepsTurn s t := keepsTurn_ite (keepsTurn_mergeFault ..) (keepsTurn_firstFault ..)
  exact ht.trans (keepsTurn_ite ((keepsTurn_beginReset t c).trans ((keepsTurn_vfEvent ..).trans (keepsTurn_pfEvent ..))) (.refl t))

theorem keepsTurn_faultNoUnit (c cause arg : Nat) : KeepsTurn s (s.faultNoUnit c cause arg) := keepsTurn_contextFault ..

theorem keepsTurn_faultEach (cs : List Nat) (cause engine tile unit arg : Nat) : KeepsTurn s (s.faultEach cs cause engine tile unit arg) :=
  keepsTurn_foldl cs (fun t c _ => keepsTurn_contextFault t c cause engine tile unit arg) s

/-! ### Overruns, images due, the mode and the ports -/

theorem offTurn_strokeStatus : OffTurn .strokeStatus := .inr (.inl rfl)
theorem offTurn_startStat : OffTurn .startStat := .inl (by decide)
theorem offTurn_strokeAnchor : OffTurn .strokeAnchor := .inr (.inr (by decide))

theorem keepsTurn_checkOverrun (k c : Nat) : KeepsTurn s (s.checkOverrun k c) := by
  unfold State.checkOverrun
  exact keepsTurn_ite ((keepsTurn_setFlag s offTurn_strokeStatus _ _).trans (keepsTurn_faultNoUnit ..)) (.refl s)

theorem keepsTurn_disarmDue : KeepsTurn s s.disarmDue :=
  keepsTurn_foldl _ (fun t c _ => keepsTurn_ite (keepsTurn_disarm t c) (.refl t)) s

theorem keepsTurn_endStep (k out : Nat) : KeepsTurn s (s.endStep k out) := by
  rw [State.endStep]
  exact ((keepsTurn_setFlds s offTurn_startStat _).trans (keepsTurn_send ..)).trans (keepsTurn_pfEvent ..)

theorem keepsTurn_strokeMode : KeepsTurn s s.strokeMode := by
  have hset : ∀ v, KeepsTurn s (s.setFld .strokeStatus .STATE v) := fun v => keepsTurn_setFld s offTurn_strokeStatus _ _
  unfold State.strokeMode
  extract_lets valid
  split
  · exact keepsTurn_ite ((hset 2).trans (keepsTurn_endStep ..)) (.refl s)
  · exact keepsTurn_ite (.refl s) (hset 3)
  · exact keepsTurn_ite (hset 2) (.refl s)
  · exact .refl s

theorem addr_portState (p : Nat) : (Reg.portState p).addr = 0x410008 + 32 * p := rfl
theorem addr_linkState (d i : Nat) : (Reg.linkState d i).addr = 0x400000 + d * 0x40000 + 0 + 64 * i := rfl
theorem offTurn_portState (p : Nat) : OffTurn (.portState p) := by rw [OffTurn, addr_portState]; omega
theorem offTurn_linkState (d i : Nat) : OffTurn (.linkState d i) := by rw [OffTurn, addr_linkState]; omega

theorem keepsTurn_portFields (p : Nat) (fs : List (FName × Nat)) : KeepsTurn s (s.portFields p fs) := by
  have ht := keepsTurn_setFlds s (offTurn_portState p) fs
  unfold State.portFields
  exact keepsTurn_ite ht (ht.trans (keepsTurn_pfEvent ..))

theorem keepsTurn_setPortWith (p st : Nat) (fs : List (FName × Nat)) : KeepsTurn s (s.setPortWith p st fs) := by
  unfold State.setPortWith
  extract_lets ls changed t u v
  have hu : KeepsTurn s u := (keepsTurn_portFields s p _).trans (keepsTurn_foldl ls (fun w l _ =>
    (keepsTurn_setFld w (offTurn_linkState _ _) .STATE (linkCode st)).trans (keepsTurn_setLink ..)) t)
  have hv : KeepsTurn s v := hu.trans (keepsTurn_ite (.refl u) (keepsTurn_setFlag u (offTurn_strokeOffset p) _ _))
  exact keepsTurn_ite (hv.trans (keepsTurn_send ..)) hv

theorem keepsTurn_portsGoLive : KeepsTurn s s.portsGoLive :=
  keepsTurn_foldl _ (fun t p _ => keepsTurn_ite ((keepsTurn_setPortWith t p 4 []).trans (keepsTurn_setPort ..)) (.refl t)) s

theorem keepsTurn_imageBoundary (work : Bool) (c : Nat) : KeepsTurn s (s.imageBoundary work c) := by
  have hok : KeepsTurn s (if s.fld (.strokeImgStat c) .STATUS = 1 && (s.image c).startCount ≤ s.count then s.setFld (.strokeImgStat c) .STATUS 0 else s) :=
    keepsTurn_ite (keepsTurn_setFld s (offTurn_strokeImgStat c) _ _) (.refl s)
  unfold State.imageBoundary
  extract_lets i t
  refine keepsTurn_ite (.refl s) (hok.trans (keepsTurn_ite (.refl t) (keepsTurn_ite (keepsTurn_addFld t (offTurn_strokeImgStat c) _ _) ?_)))
  exact (keepsTurn_setImage t c { i with begun := true }).trans (keepsTurn_setFld _ (offTurn_strokeImgStat c) _ _)

theorem keepsTurn_markStrokes : KeepsTurn s s.markStrokes := keepsTurn_of_eq rfl rfl

/-! ### The anchor view -/

theorem keepsTurn_showAnchor : KeepsTurn s s.showAnchor := by
  obtain ⟨l, h | h⟩ := showAnchor_cases s <;> rw [h]
  · exact keepsTurn_setFlds s offTurn_strokeAnchor l
  · exact (keepsTurn_setFlds s offTurn_strokeAnchor l).trans (keepsTurn_pfEvent ..)

theorem keepsTurn_declareAnchor : KeepsTurn s s.declareAnchor := by
  obtain h | ⟨v, h⟩ := declareAnchor_cases s <;> rw [h]
  · exact keepsTurn_showAnchor s
  · exact KeepsTurn.trans (t := keepView s v) ⟨fun q _ => reg_keepView s v q, rfl⟩ (keepsTurn_showAnchor _)

/-! ### Writes of the machine to a context's memory -/

theorem addr_tmemUeLog (t : Nat) : (Reg.tmemUeLog t).addr = 0x1000000 + t * 0x100000 + 0x8008 := rfl
theorem addr_filetStatus (t : Nat) : (Reg.filetStatus t).addr = 0x1000000 + t * 0x100000 + 0xE018 := rfl
theorem offTurn_tmemUeLog (t : Nat) : OffTurn (.tmemUeLog t) := by rw [OffTurn, addr_tmemUeLog]; omega
theorem offTurn_filetStatus (t : Nat) : OffTurn (.filetStatus t) := by rw [OffTurn, addr_filetStatus]; omega
theorem offTurn_memFault : OffTurn .memFault := .inl (by decide)

theorem keepsTurn_logUe (scrub : Bool) (c pa : Nat) : KeepsTurn s (s.logUe scrub c pa) := by
  unfold State.logUe
  exact keepsTurn_ite (keepsTurn_setFlag s (offTurn_tmemUeLog _) _ _) (keepsTurn_setFlds s (offTurn_tmemUeLog _) _)

theorem keepsTurn_translate (c src tile va : Nat) (needW needX : Bool) : KeepsTurn s (s.translate c src tile va needW needX).1 := by
  unfold State.translate
  generalize s.walk c va needW needX = x
  cases x with
  | fail k => exact keepsTurn_setFlds s offTurn_memFault _
  | uncorr pa => exact keepsTurn_logUe ..
  | _ => exact .refl s

/-- A fold over a pair keeps the turn when each step does on its state. -/
theorem keepsTurn_foldl_pair {β γ : Type} {f : State × γ → β → State × γ} (h : ∀ x b, KeepsTurn x.1 (f x b).1) (l : List β) (x : State × γ) :
    KeepsTurn x.1 (l.foldl f x).1 := by
  induction l generalizing x with
  | nil => exact .refl x.1
  | cons b l ih => exact (h x b).trans (ih (f x b))

theorem keepsTurn_mapRange (c src tile va len : Nat) (needW : Bool) : KeepsTurn s (s.mapRange c src tile va len needW).1 := by
  refine keepsTurn_foldl_pair (fun x p => ?_) _ (s, Except.ok [])
  have ht := keepsTurn_translate x.1 c src tile p.1 needW false
  obtain ⟨u, e⟩ := x
  cases e with
  | error e => exact .refl u
  | ok segs =>
    generalize u.translate c src tile p.1 needW false = r at ht
    obtain ⟨v, x⟩ := r
    cases x <;> exact ht

theorem keepsTurn_wellUe (c : Option Nat) (pa : Nat) : KeepsTurn s (s.wellUe c pa) := by
  unfold State.wellUe
  extract_lets users t u
  have ht : KeepsTurn s t := (keepsTurn_logUe ..).trans (keepsTurn_list ..)
  have hu : KeepsTurn t u := keepsTurn_foldl users (fun v x _ => keepsTurn_setContext v x _) t
  exact ht.trans (hu.trans ((keepsTurn_faultEach ..).trans (keepsTurn_pfEvent ..)))

theorem keepsTurn_freeSlot (c pa : Nat) : KeepsTurn s (s.freeSlot c pa) := keepsTurn_of_eq rfl rfl

theorem keepsTurn_ringWrite (c o pa : Nat) (bs : List Byte) : KeepsTurn s (s.ringWrite c o pa bs) := by
  unfold State.ringWrite
  refine keepsTurn_ite ?_ ((keepsTurn_setFlag s (offTurn_ctxwCmplStat c) _ _).trans (keepsTurn_vfEvent ..))
  split
  · exact (keepsTurn_wellUe ..).trans (keepsTurn_faultNoUnit ..)
  · exact keepsTurn_freeSlot ..
  · exact .refl s

theorem keepsTurn_setEpoch (c : Nat) (e : Epoch) : KeepsTurn s (s.setEpoch c e) := keepsTurn_of_eq rfl rfl

theorem keepsTurn_setFeedCh (i : Nat) (k : FeedCh) : KeepsTurn s (s.setFeedCh i k) := keepsTurn_of_eq rfl rfl

theorem keepsTurn_guardRegions (line : Nat) : KeepsTurn s (s.guardRegions line) :=
  keepsTurn_foldl _ (fun t c _ => keepsTurn_ite ((((keepsTurn_setEpoch ..).trans (keepsTurn_setFld _ (offTurn_feedwBuddy c) _ _)).trans
    (keepsTurn_setFeedCh ..)).trans (keepsTurn_vfEvent ..)) (.refl t)) s

theorem keepsTurn_writeHome (e : DirEntry) : KeepsTurn s (s.writeHome e) := by
  unfold State.writeHome; exact keepsTurn_ite (keepsTurn_of_eq rfl rfl) (.refl s)

theorem keepsTurn_dropLine (line : Nat) : KeepsTurn s (s.dropLine line) := by
  unfold State.dropLine
  extract_lets t
  exact KeepsTurn.trans (t := t) (keepsTurn_foldl _ (fun u e _ => keepsTurn_writeHome u e) s) (keepsTurn_of_eq rfl rfl)

theorem keepsTurn_loseResv (line : Nat) : KeepsTurn s (s.loseResv line) := keepsTurn_of_eq rfl rfl

theorem keepsTurn_store (cs : List Host.Cell) : KeepsTurn s (s.putCells cs) := keepsTurn_of_eq rfl rfl

theorem keepsTurn_setZeroMap (line : Nat) (b : Bool) : KeepsTurn s (s.setZeroMap line b) := keepsTurn_of_eq rfl rfl

theorem keepsTurn_setPoison (line : Nat) (b : Bool) : KeepsTurn s (s.setPoison line b) := keepsTurn_of_eq rfl rfl

theorem keepsTurn_setBadWord (w : Nat) (b : Bool) : KeepsTurn s (s.setBadWord w b) := keepsTurn_of_eq rfl rfl

theorem keepsTurn_touchTamb (cs : List Host.Cell) : KeepsTurn s (s.touchTamb cs) := keepsTurn_of_eq rfl rfl

theorem keepsTurn_writeDramLine (c : Option Nat) (mcomp : Bool) (line : Nat) (cs : List Host.Cell) : KeepsTurn s (s.writeDramLine c mcomp line cs).1 := by
  unfold State.writeDramLine
  extract_lets t u
  have hu : KeepsTurn t u := (keepsTurn_loseResv ..).trans (keepsTurn_guardRegions ..)
  refine (keepsTurn_dropLine s line).trans ?_
  split
  · exact hu.trans ((keepsTurn_store ..).trans ((keepsTurn_setPoison ..).trans (keepsTurn_setZeroMap ..)))
  · split
    · exact keepsTurn_logUe ..
    · exact hu.trans ((keepsTurn_store ..).trans (keepsTurn_setZeroMap ..))

theorem keepsTurn_writeWellLine (c : Option Nat) (cs : List Host.Cell) : KeepsTurn s (s.writeWellLine c cs).1 := by
  unfold State.writeWellLine
  extract_lets ws whole
  split
  · exact keepsTurn_wellUe ..
  · exact (keepsTurn_foldl ws (fun t w _ => keepsTurn_setBadWord t w false) s).trans
      ((keepsTurn_store ..).trans ((keepsTurn_loseResv ..).trans (keepsTurn_touchTamb ..)))

theorem keepsTurn_homeWrite (c : Option Nat) (mcomp : Bool) (cs : List Host.Cell) : KeepsTurn s (s.homeWrite c mcomp cs).1 := by
  refine keepsTurn_foldl_pair (fun x line => ?_) _ (s, true)
  dsimp only
  split
  · exact keepsTurn_ringWrite ..
  · split
    · exact keepsTurn_writeDramLine ..
    · exact keepsTurn_writeWellLine ..

theorem keepsTurn_writeSegs (c : Nat) (segs : List Seg) (bs : List Byte) : KeepsTurn s (s.writeSegs c segs bs).1 := by
  refine keepsTurn_foldl_pair (fun x g => ?_) _ (s, true)
  split
  · exact .refl x.1
  · exact keepsTurn_homeWrite ..

theorem keepsTurn_tryWrite (c va : Nat) (bs : List Byte) : KeepsTurn s (s.tryWrite c va bs).1 := by
  have hm := keepsTurn_mapRange s c 6 0 va bs.length true
  unfold State.tryWrite
  generalize s.mapRange c 6 0 va bs.length true = r at hm
  obtain ⟨t, x⟩ := r
  cases x with
  | error e => exact hm
  | ok segs =>
    dsimp only
    split
    · exact hm
    · exact hm.trans (keepsTurn_writeSegs ..)

theorem keepsTurn_writeMixed (c : Nat) (segs : List Seg) (bs : List Byte) : KeepsTurn s (s.writeMixed c segs bs).1 := by
  induction segs generalizing s bs with
  | nil => exact .refl s
  | cons g segs ih =>
    rw [State.writeMixed]
    refine KeepsTurn.trans ?_ (ih _ _)
    split
    · split
      · exact keepsTurn_send ..
      · exact .refl s
    · have hw := keepsTurn_writeSegs s c [g] (bs.take g.len)
      generalize s.writeSegs c [g] (bs.take g.len) = r at hw
      obtain ⟨t, b⟩ := r
      cases b <;> exact hw

/-! ### Buddy epochs, boundary frames and load reports -/

theorem keepsTurn_setRecv (p c : Nat) (e : RecvEpoch) : KeepsTurn s (s.setRecv p c e) := keepsTurn_of_eq rfl rfl

theorem keepsTurn_ageEpochs : KeepsTurn s s.ageEpochs :=
  keepsTurn_foldl _ (fun t _ _ => keepsTurn_ite (keepsTurn_setEpoch ..) (.refl t)) s

theorem keepsTurn_dropAborted (gone : List (PortId × Ctx)) : KeepsTurn s (s.dropAborted gone) :=
  keepsTurn_foldl gone (fun t x _ => keepsTurn_setRecv t x.1 x.2 RecvEpoch.none) s

theorem keepsTurn_commitEpoch (p c : Nat) : KeepsTurn s (s.commitEpoch p c).1 := by
  have hw := keepsTurn_tryWrite s c (s.recvOf p c).dst.toNat (buddyHeader (s.recvOf p c))
  rw [State.commitEpoch]
  generalize s.tryWrite c (s.recvOf p c).dst.toNat (buddyHeader (s.recvOf p c)) = w at hw
  split
  · exact .refl s
  · split
    · exact keepsTurn_setRecv ..
    · split
      · exact hw.trans (keepsTurn_setRecv ..)
      · exact .refl s

theorem keepsTurn_commitEpochs : KeepsTurn s s.commitEpochs.1 := by
  unfold State.commitEpochs
  generalize List.range 256 = l
  exact keepsTurn_foldl_pair (f := fun x i => ((x.1.commitEpoch (i / 16) (i % 16)).1, x.2 ++ (x.1.commitEpoch (i / 16) (i % 16)).2))
    (fun x i => keepsTurn_commitEpoch x.1 (i / 16) (i % 16)) l (s, [])

theorem keepsTurn_free : KeepsTurn s s.free.2 := keepsTurn_of_eq rfl rfl

theorem keepsTurn_boundaryPayload (p l : Nat) (count t1 : W64) (buddies : List (Nat × Nat × Nat × Nat)) :
    KeepsTurn s (s.boundaryPayload p l count t1 buddies).2 := by
  unfold State.boundaryPayload
  extract_lets f v
  have hv : KeepsTurn s v.2 := by
    cases h : s.stroke.view with
    | none => simp only [v, h]; exact (keepsTurn_free s).trans (keepsTurn_free _)
    | some w => simp only [v, h]; exact .refl s
  exact hv

theorem keepsTurn_linkBoundary (p l : Nat) (t1 : W64) (buddies : List (Nat × Nat × Nat × Nat)) : KeepsTurn s (s.linkBoundary p l t1 buddies) := by
  unfold State.linkBoundary
  extract_lets _ t b
  exact (keepsTurn_setLink s l _).trans (keepsTurn_ite ((keepsTurn_boundaryPayload t p l _ t1 buddies).trans (keepsTurn_send ..))
    ((keepsTurn_boundaryPayload t p l _ t1 buddies).trans (keepsTurn_setLink ..)))

theorem keepsTurn_sendBoundaries (t1 : W64) (buddies : List (Nat × Nat × Nat × Nat)) : KeepsTurn s (s.sendBoundaries t1 buddies) :=
  keepsTurn_foldl _ (fun t p _ => keepsTurn_foldl _ (fun u l _ => keepsTurn_linkBoundary u p l t1 buddies) t) s

theorem keepsTurn_freeNat (n : Nat) : KeepsTurn s (s.freeNat n).2 := keepsTurn_free s

theorem keepsTurn_hotEntries (l : FiletLoad) : KeepsTurn s (s.hotEntries l).2 := by
  unfold State.hotEntries
  extract_lets x
  have hx : ∀ (l : List (Nat × Nat)) (acc : List (Nat × Nat × Nat) × State), KeepsTurn acc.2 (l.foldl (fun acc e =>
      let f := acc.2.freeNat 32
      (acc.1 ++ [(e.1, e.2, f.1)], f.2)) acc).2 := fun l => by
    induction l with
    | nil => exact fun acc => .refl acc.2
    | cons e l ih => exact fun acc => (keepsTurn_freeNat acc.2 32).trans (ih _)
  exact hx l.hot ([], s)

theorem keepsTurn_setLoad (key shard : Nat) (l : FiletLoad) : KeepsTurn s (s.setLoad key shard l) := keepsTurn_of_eq rfl rfl

theorem keepsTurn_reportShard (key t strokeLo : Nat) : KeepsTurn s (s.reportShard key t strokeLo) := by
  unfold State.reportShard
  extract_lets c k l h used u lost
  have hu : KeepsTurn s u := (keepsTurn_hotEntries s l).trans (keepsTurn_setLoad ..)
  have hlost : ∀ v, KeepsTurn v (lost v) := fun v => (keepsTurn_setFlag v (offTurn_filetStatus t) _ _).trans (keepsTurn_vfEvent ..)
  refine hu.trans (keepsTurn_ite (.refl u) ?_)
  have hm := keepsTurn_mapRange u c 2 t (k.report + 256 * t) 256 true
  generalize u.mapRange c 2 t (k.report + 256 * t) 256 true = r at hm
  obtain ⟨v, x⟩ := r
  cases x with
  | error e => exact hm.trans (hlost v)
  | ok segs =>
    have hw := keepsTurn_writeMixed v c segs (shardRecord strokeLo l.load used h.1)
    dsimp only at hm ⊢
    generalize v.writeMixed c segs (shardRecord strokeLo l.load used h.1) = r at hw
    obtain ⟨w, n⟩ := r
    cases n with
    | zero => exact hm.trans hw
    | succ n => exact hm.trans (hw.trans (hlost w))

theorem keepsTurn_filetReports (strokeLo : Nat) : KeepsTurn s (s.filetReports strokeLo) :=
  keepsTurn_foldl _ (fun t e _ => keepsTurn_ite (keepsTurn_foldl _ (fun u i _ => keepsTurn_reportShard u e.1 i strokeLo) t) (.refl t)) s

/-! ### The hang detectors -/

theorem keepsTurn_forgetProbes : KeepsTurn s s.forgetProbes := keepsTurn_of_eq rfl rfl

theorem keepsTurn_declareHang (w : Watched) (waitfor : Bool) (arg : Nat) : KeepsTurn s (s.declareHang w waitfor arg) := by
  unfold State.declareHang
  extract_lets r t
  have ht : KeepsTurn s t := keepsTurn_ite (.refl s) (keepsTurn_setFlds s (offTurn_ctxhHang w.ctx) _)
  exact ht.trans ((keepsTurn_vfEvent ..).trans (keepsTurn_faultNoUnit ..))

/-- The watches of a sample. -/
def sampled (s : State) : State := { s with watches := s.nextWatches, sampledAt := s.time }

theorem keepsTurn_sampled : KeepsTurn s (sampled s) := keepsTurn_of_eq rfl rfl

theorem keepsTurn_sampleProgress : KeepsTurn s s.sampleProgress :=
  (keepsTurn_sampled s).trans (keepsTurn_foldl _ (fun t x _ => keepsTurn_ite (keepsTurn_declareHang t x.obj false 0) (.refl t)) (sampled s))

theorem keepsTurn_withClosed (m : SMap Closed) : KeepsTurn s { s with closed := m } := keepsTurn_of_eq rfl rfl

theorem keepsTurn_sendProbe (c : Nat) (i : ProbeId) (hops : Nat) : KeepsTurn s (s.sendProbe c i hops) :=
  keepsTurn_foldl _ (fun t p _ => keepsTurn_ite (keepsTurn_symbol t p _ _) (.refl t)) s

theorem keepsTurn_checkClosed (c : Nat) : KeepsTurn s (s.checkClosed c) := by
  unfold State.checkClosed
  extract_lets k n fed pid
  refine keepsTurn_ite (keepsTurn_withClosed s _) (keepsTurn_ite (keepsTurn_withClosed s _) (keepsTurn_ite ?_ ?_))
  · split
    · exact (keepsTurn_declareHang s _ true 0).trans (keepsTurn_withClosed _ _)
    · exact .refl s
  · exact (keepsTurn_withClosed s _).trans (keepsTurn_sendProbe ..)

theorem keepsTurn_checkWaitfor : KeepsTurn s s.checkWaitfor := keepsTurn_foldl _ (fun t c _ => keepsTurn_checkClosed t c) s

theorem keepsTurn_checkReady : KeepsTurn s s.checkReady := by
  unfold State.checkReady
  exact keepsTurn_ite ((keepsTurn_setFlag s offTurn_startStat _ _).trans (keepsTurn_pfEvent ..)) (.refl s)

end Steps

end Sys2Proof.Proofs
end

section
/-!
The boundary of a stroke, the images at it, and the close of the boundary window (R37, R39, R43, R44, R51, R58, R59, R67, R69).
-/
namespace Sys2Proof.Proofs
open Sys2Proof.Machine Sys2Proof.Laws Sys2Proof.Claims

/-! ### The turn of the stroke (R37, R58, R59) -/

section Turn
variable (s : State)

/-- COUNT one on and PHASE 0. -/
def turnClock (s : State) : State := (s.addFld .strokeCount .COUNT 1).setFld .strokePhase .PHASE 0

/-- The stroke whose vote has been turned into its decision. -/
def turnVotes (k : Stroke) : Stroke :=
  { k with vote := none, slip := k.vote.isSome, voted := [], consec := nextConsec k.voted k.consec, missedPrev := k.missedNow, missedNow := [] }

/-- The ports await the boundary frames of a new stroke. -/
def awaitFrames (s : State) (l : List Nat) : State := l.foldl (fun s p => s.setPort p { s.port p with framed := false }) s

theorem reg_awaitFrames (l : List Nat) (q : Reg) : (awaitFrames s l).reg q = s.reg q :=
  foldl_same (f := fun s p => s.setPort p { s.port p with framed := false }) (·.reg q) (fun _ _ _ => rfl) s

theorem stroke_awaitFrames (l : List Nat) : (awaitFrames s l).stroke = s.stroke :=
  foldl_same (f := fun s p => s.setPort p { s.port p with framed := false }) State.stroke (fun _ _ _ => rfl) s

/-- The clock and the votes turned. -/
def turnBoth (s : State) : State := { turnClock s with stroke := turnVotes s.stroke }

theorem reg_turnBoth (q : Reg) : (turnBoth s).reg q = (turnClock s).reg q := rfl

theorem stroke_turnBoth : (turnBoth s).stroke = turnVotes s.stroke := rfl

/-- The turn without its slip stroke. -/
def turned (s : State) : State := awaitFrames (turnBoth s) (List.range 16)

theorem turnStroke_eq : s.turnStroke = match s.stroke.vote with
    | some v => (turned s).beginSlip v
    | none => turned s := rfl

theorem reg_turned (q : Reg) : (turned s).reg q = (turnClock s).reg q :=
  (reg_awaitFrames ..).trans (reg_turnBoth ..)

theorem stroke_turned : (turned s).stroke = turnVotes s.stroke :=
  (stroke_awaitFrames ..).trans (stroke_turnBoth ..)

/-- The slip count, the flag and the origin of a slip stroke. -/
def slipRegs (s : State) (l : List (FName × Nat)) : State :=
  ((s.addFld .strokeSlips .SLIPS 1).setFlag .strokeStatus .SLIP true).setFlds .strokeSlipOrigin l

/-- The slip vectors. -/
def slipEvents (s : State) (l : List Nat) : State := l.foldl (fun s c => s.vfEvent c 2) (s.pfEvent 3)

theorem beginSlip_shape (v : Vote) : ∃ l, s.beginSlip v = slipEvents (slipRegs s l) allContexts := by
  unfold State.beginSlip; exact ⟨_, rfl⟩

theorem offTurn_strokeSlipOrigin : OffTurn .strokeSlipOrigin := .inr (.inr (by decide))

/-- But for SLIPS a slip stroke begins without a change to the turn. -/
theorem keepsTurn_beginSlip (v : Vote) : KeepsTurn (s.addFld .strokeSlips .SLIPS 1) (s.beginSlip v) := by
  obtain ⟨l, h⟩ := beginSlip_shape s v
  rw [h]
  exact ((keepsTurn_setFlag _ offTurn_strokeStatus _ _).trans (keepsTurn_setFlds _ offTurn_strokeSlipOrigin l)).trans
    ((keepsTurn_pfEvent _ 3).trans (keepsTurn_foldl allContexts (fun t c _ => keepsTurn_vfEvent t c 2) _))

theorem stroke_addFld (r : Reg) (f : FName) (k : Nat) : (s.addFld r f k).stroke = s.stroke := rfl

theorem turnReg_count : TurnReg .strokeCount := .inl rfl
theorem turnReg_phase : TurnReg .strokePhase := .inr (.inl rfl)
theorem turnReg_slips : TurnReg .strokeSlips := .inr (.inr rfl)

/-- The turn: the clock, and SLIPS one more exactly for a vote. -/
theorem turnStroke_shows : s.turnStroke.count = (s.count + 1) % 2 ^ 64 ∧ s.turnStroke.phase = 0 ∧
    s.turnStroke.fld .strokeSlips .SLIPS = (s.fld .strokeSlips .SLIPS + if s.stroke.vote.isSome then 1 else 0) % 2 ^ 64 ∧
    votesOf s.turnStroke.stroke = (s.stroke.vote.isSome, none, [], s.stroke.stopping) := by
  have hslips : (turned s).reg .strokeSlips = s.reg .strokeSlips := by
    rw [reg_turned, turnClock, reg_setFld_other _ _ _ (by decide), State.addFld, reg_setFld_other _ _ _ (by decide)]
  have hcount : (turned s).count = (s.count + 1) % 2 ^ 64 := by
    rw [State.count, fld_congr (reg_turned ..), turnClock, fld_setFld_other _ _ _ _ (by decide), State.addFld, fld_setFld]; rfl
  have hphase : (turned s).phase = 0 := by
    rw [State.phase, fld_congr (reg_turned ..), turnClock, fld_setFld]; rfl
  have hslip := keepsTurn_beginSlip (turned s)
  rw [turnStroke_eq]
  cases hv : s.stroke.vote with
  | none =>
    refine ⟨hcount, hphase, ?_, by rw [stroke_turned, turnVotes, votesOf, hv]⟩
    rw [fld_congr hslips]
    exact (Nat.mod_eq_of_lt (bits_lt _ _ _)).symm
  | some v =>
    have hother : ∀ q, q.addr ≠ Reg.strokeSlips.addr → TurnReg q → ((turned s).beginSlip v).reg q = (turned s).reg q := fun q hne hq =>
      ((hslip v).1 q hq).trans (reg_setFld_other _ _ _ hne)
    refine ⟨(fld_congr (hother _ (by decide) turnReg_count) _).trans hcount, (fld_congr (hother _ (by decide) turnReg_phase) _).trans hphase, ?_, ?_⟩
    · rw [fld_congr ((hslip v).1 _ turnReg_slips), State.addFld, fld_setFld, fld_congr hslips]; rfl
    · refine (hslip v).2.trans ?_
      rw [stroke_addFld, stroke_turned, turnVotes, votesOf, hv]

/-- The consecutive votes of each context at the turn (R67). -/
theorem smGet_nextConsec (voted : List Nat) (old : SMap Nat) {c : Nat} (hc : c < 16) :
    smGet (fun _ => 0) (nextConsec voted old) c = if c ∈ voted then smGet (fun _ => 0) old c + 1 else 0 := by
  have h : ∀ (l : List Nat) (m : SMap Nat), l.Nodup → c ∈ l → smGet (fun _ => 0)
      (l.foldl (fun m c => smSet (fun _ => 0) m c (if voted.contains c then smGet (fun _ => 0) old c + 1 else 0)) m) c =
      if voted.contains c then smGet (fun _ => 0) old c + 1 else 0 := by
    intro l
    induction l with
    | nil => exact fun _ _ h => absurd h List.not_mem_nil
    | cons d l ih =>
      intro m hn hm
      by_cases hcl : c ∈ l
      · exact ih _ (List.nodup_cons.mp hn).2 hcl
      · have hd : c = d := by simpa [hcl] using hm
        subst hd
        have hrest : ∀ (l : List Nat) (m : SMap Nat), c ∉ l → smGet (fun _ => 0)
            (l.foldl (fun m d => smSet (fun _ => 0) m d (if voted.contains d then smGet (fun _ => 0) old d + 1 else 0)) m) c = smGet (fun _ => 0) m c := by
          intro l
          induction l with
          | nil => exact fun _ _ => rfl
          | cons e l ih =>
            intro m he
            rw [List.foldl_cons, ih _ (fun h => he (List.mem_cons_of_mem _ h)), smGet_smSet_other _ _ _ (List.ne_of_not_mem_cons he)]
        rw [List.foldl_cons, hrest _ _ hcl, smGet_smSet_same]
  rw [nextConsec, h allContexts _ List.nodup_range (List.mem_range.mpr hc)]
  simp only [List.contains_iff_mem]

theorem consec_beginSlip (v : Vote) : (s.beginSlip v).stroke.consec = s.stroke.consec := by
  obtain ⟨l, h⟩ := beginSlip_shape s v
  have he : Events s (s.beginSlip v) := by
    rw [h]
    exact Events.trans (((events_setFld ..).trans (events_setFld ..)).trans (events_setFlds ..)) ((events_pfEvent _ 3).trans (events_foldl (fun t c => events_vfEvent t c 2) allContexts _))
  rw [stroke_of_events he]

theorem consecOf_turnStroke {c : Nat} (hc : c < 16) : s.turnStroke.consecOf c = if c ∈ s.stroke.voted then s.consecOf c + 1 else 0 := by
  have h : s.turnStroke.stroke.consec = nextConsec s.stroke.voted s.stroke.consec := by
    rw [turnStroke_eq]
    cases s.stroke.vote with
    | none => exact congrArg Stroke.consec (stroke_turned s)
    | some v => exact (consec_beginSlip _ v).trans (congrArg Stroke.consec (stroke_turned s))
  rw [State.consecOf, h, smGet_nextConsec _ _ hc, State.consecOf]

end Turn

/-! ### The boundary -/

section Boundary
variable (s : State)

/-- After the turn a boundary does work that leaves the turn as it is, and then stops the stroke where STOP was asked for. -/
theorem boundary_cases (t1 : W64) (gone : List (PortId × Ctx)) : ∃ u, KeepsTurn s.turnStroke u ∧
    s.boundary t1 gone = if u.stroke.stopping then u.stopAtBoundary else u.checkReady := by
  unfold State.boundary
  extract_lets old s0 work s1 s2 s3 s4 s5 b s6 s7 s8 sampled s9
  have h1 : KeepsTurn s0 s1 := keepsTurn_ite (.refl s0) (keepsTurn_foldl _ (fun t c _ => keepsTurn_checkOverrun t old c) s0)
  have h2 : KeepsTurn s1 s2 := (keepsTurn_disarmDue s1).trans ((keepsTurn_strokeMode _).trans (keepsTurn_portsGoLive _))
  have h3 : KeepsTurn s2 s3 := keepsTurn_foldl _ (fun t c _ => keepsTurn_imageBoundary t work c) s2
  have h4 : KeepsTurn s3 s4 := keepsTurn_ite (keepsTurn_markStrokes s3) (.refl s3)
  have h5 : KeepsTurn s4 s5 := keepsTurn_ite (keepsTurn_declareAnchor s4) (keepsTurn_showAnchor s4)
  have h6 : KeepsTurn s5 s6 := (keepsTurn_ageEpochs s5).trans ((keepsTurn_dropAborted _ gone).trans ((keepsTurn_commitEpochs _).trans (keepsTurn_sendBoundaries ..)))
  have h8 : KeepsTurn s6 s8 := (keepsTurn_filetReports s6 _).trans (keepsTurn_forgetProbes _)
  have h9 : KeepsTurn s8 s9 := keepsTurn_ite ((keepsTurn_ite (keepsTurn_sampleProgress s8) (.refl s8)).trans (keepsTurn_checkWaitfor _)) (.refl s8)
  exact ⟨s9, h1.trans (h2.trans (h3.trans (h4.trans (h5.trans (h6.trans (h8.trans h9)))))), rfl⟩

/-- A stop at the boundary leaves the clock. -/
theorem reg_stopAtBoundary {q : Reg} (hq : TurnReg q) : s.stopAtBoundary.reg q = s.reg q := by
  unfold State.stopAtBoundary
  extract_lets armed u
  have hu : KeepsTurn s u := keepsTurn_foldl armed (fun t c _ => keepsTurn_faultNoUnit t c 0x0A 0) s
  have hv := keepsTurn_foldl armed (fun t c _ => keepsTurn_disarm t c) u
  have hflags : ∀ t, (stopFlags t).reg q = t.reg q := fun t => by
    rw [TurnReg] at hq
    have hstat : q.addr ≠ Reg.startStat.addr ∧ q.addr ≠ Reg.strokeCtrl.addr ∧ q.addr ≠ Reg.strokeStatus.addr := by
      rcases hq with h | h | h <;> rw [h] <;> decide
    obtain ⟨h1, h2, h3⟩ := hstat
    rw [stopFlags, reg_setFlag_other _ _ _ h1, reg_setFlag_other _ _ _ h2, reg_setFld_other _ _ _ h3]
  rw [reg_stopStroke _ (by rw [TurnReg] at hq; omega), hflags, hv.1 q hq, hu.1 q hq]

theorem stopAtBoundary_shows : s.stopAtBoundary.strokeState = 0 ∧ s.stopAtBoundary.flag .strokeCtrl .LOCK = false ∧
    s.stopAtBoundary.flag .startStat .READY = false := stopStroke_shows _

/-- What a boundary shows of the clock, the votes and a stop. -/
theorem boundary_shows (t1 : W64) (gone : List (PortId × Ctx)) : let t := s.boundary t1 gone
    t.count = (s.count + 1) % 2 ^ 64 ∧ t.phase = 0 ∧
    t.fld .strokeSlips .SLIPS = (s.fld .strokeSlips .SLIPS + if s.stroke.vote.isSome then 1 else 0) % 2 ^ 64 ∧
    (s.stroke.stopping = false → t.stroke.slip = s.stroke.vote.isSome ∧ t.stroke.vote = none ∧ t.stroke.voted = []) ∧
    (s.stroke.stopping = true → t.strokeState = 0 ∧ t.flag .strokeCtrl .LOCK = false ∧ t.flag .startStat .READY = false) := by
  obtain ⟨u, hu, hb⟩ := boundary_cases s t1 gone
  obtain ⟨hcount, hphase, hslips, hvotes⟩ := turnStroke_shows s
  have hstop : u.stroke.stopping = s.stroke.stopping := congrArg (·.2.2.2) (hu.2.trans hvotes)
  have hclock : ∀ {t : State}, (∀ q, TurnReg q → t.reg q = u.reg q) → t.count = (s.count + 1) % 2 ^ 64 ∧ t.phase = 0 ∧
      t.fld .strokeSlips .SLIPS = (s.fld .strokeSlips .SLIPS + if s.stroke.vote.isSome then 1 else 0) % 2 ^ 64 := fun ht =>
    have hreg : ∀ q, TurnReg q → _ := fun q hq => (ht q hq).trans (hu.1 q hq)
    ⟨(fld_congr (hreg _ turnReg_count) _).trans hcount, (fld_congr (hreg _ turnReg_phase) _).trans hphase, (fld_congr (hreg _ turnReg_slips) _).trans hslips⟩
  dsimp only
  rw [hb, hstop]
  cases hs : s.stroke.stopping with
  | false =>
    have hr := keepsTurn_checkReady u
    obtain ⟨h1, h2, h3⟩ := hclock hr.1
    have hv : votesOf u.checkReady.stroke = _ := hr.2.trans (hu.2.trans hvotes)
    exact ⟨h1, h2, h3, fun _ => ⟨congrArg (·.1) hv, congrArg (·.2.1) hv, congrArg (·.2.2.1) hv⟩, nofun⟩
  | true =>
    obtain ⟨h1, h2, h3⟩ := hclock (fun _ => reg_stopAtBoundary u)
    exact ⟨h1, h2, h3, nofun, fun _ => stopAtBoundary_shows u⟩

end Boundary

/-! ### An image at the boundary (R51) -/

section Images
variable (s : State) (work : Bool) (c : Nat)

/-- An armed image is OK from its START_COUNT on. -/
abbrev imageOk (s : State) (c : Nat) : Prop :=
  s.fld (.strokeImgStat c) .STATUS = 0 ∨ (s.fld (.strokeImgStat c) .STATUS = 1 ∧ (s.image c).startCount ≤ s.count)

/-- The image's status at the boundary. -/
def statusTurns (s : State) (c : Nat) : State :=
  if s.fld (.strokeImgStat c) .STATUS = 1 && (s.image c).startCount ≤ s.count then s.setFld (.strokeImgStat c) .STATUS 0 else s

theorem imageBoundary_unarmed (h : (s.image c).phase ≠ .armed) : s.imageBoundary work c = s := if_pos h

theorem imageBoundary_armed (h : (s.image c).phase = .armed) : s.imageBoundary work c =
    if !work || (statusTurns s c).fld (.strokeImgStat c) .STATUS ≠ 0 then statusTurns s c
    else if (s.image c).begun then (statusTurns s c).addFld (.strokeImgStat c) .STEP 1
    else ((statusTurns s c).setImage c { s.image c with begun := true }).setFld (.strokeImgStat c) .STEP 0 := by
  rw [State.imageBoundary, if_neg (by simp [h])]; rfl

theorem hasField_imgStat : hasField (.strokeImgStat c) .STATUS = true ∧ hasField (.strokeImgStat c) .STEP = true := ⟨rfl, rfl⟩

theorem statusTurns_shows : (statusTurns s c).fld (.strokeImgStat c) .STATUS = (if imageOk s c then 0 else s.fld (.strokeImgStat c) .STATUS) ∧
    (statusTurns s c).fld (.strokeImgStat c) .STEP = s.fld (.strokeImgStat c) .STEP ∧ (statusTurns s c).image c = s.image c := by
  by_cases h : s.fld (.strokeImgStat c) .STATUS = 1 ∧ (s.image c).startCount ≤ s.count
  · rw [statusTurns, if_pos (by simp [h]), if_pos (Or.inr h)]
    exact ⟨by rw [fld_setFld, Nat.zero_mod], fld_setFld_ne _ _ _ rfl rfl (by decide), rfl⟩
  · rw [statusTurns, if_neg (by simpa using h)]
    refine ⟨?_, rfl, rfl⟩
    split
    · next hok => exact hok.resolve_right h
    · rfl

/-- STATUS, STEP and the first work boundary of an armed image. -/
theorem imageBoundary_shows (h : (s.image c).phase = .armed) : let t := s.imageBoundary work c
    t.fld (.strokeImgStat c) .STATUS = (if imageOk s c then 0 else s.fld (.strokeImgStat c) .STATUS) ∧
    t.fld (.strokeImgStat c) .STEP = (if work = true ∧ imageOk s c then
      (if (s.image c).begun then (s.fld (.strokeImgStat c) .STEP + 1) % 2 ^ 32 else 0) else s.fld (.strokeImgStat c) .STEP) ∧
    (t.image c).begun = ((s.image c).begun || (work && decide (imageOk s c))) := by
  obtain ⟨hstatus, hstep, himage⟩ := statusTurns_shows s c
  dsimp only
  rw [imageBoundary_armed s work c h]
  by_cases hgo : work = true ∧ imageOk s c
  · obtain ⟨hw, hok⟩ := id hgo
    rw [if_pos hok] at hstatus
    rw [if_neg (by simp [hw, hstatus]), if_pos hok, if_pos hgo]
    cases hb : (s.image c).begun with
    | true =>
      rw [if_pos rfl, if_pos rfl]
      refine ⟨?_, ?_, ?_⟩
      · rw [State.addFld, fld_setFld_ne _ _ _ rfl rfl (by decide), hstatus]
      · rw [State.addFld, fld_setFld, hstep]; rfl
      · exact (congrArg Image.begun himage).trans hb
    | false =>
      rw [if_neg Bool.false_ne_true, if_neg Bool.false_ne_true]
      refine ⟨?_, ?_, ?_⟩
      · rw [fld_setFld_ne _ _ _ rfl rfl (by decide)]; exact hstatus
      · rw [fld_setFld, Nat.zero_mod]
      · rw [hw, decide_eq_true hok, image_setFld, image_setImage_same]; rfl
  · have hstay : (!work || decide ((statusTurns s c).fld (.strokeImgStat c) .STATUS ≠ 0)) = true := by
      rw [hstatus]
      cases work with
      | false => rfl
      | true =>
        have hok : ¬ imageOk s c := fun h => hgo ⟨rfl, h⟩
        rw [if_neg hok]
        exact decide_eq_true fun h0 => hok (Or.inl h0)
    rw [if_pos hstay, if_neg hgo]
    refine ⟨hstatus, hstep, ?_⟩
    rw [himage]
    cases work with
    | false => rw [Bool.false_and, Bool.or_false]
    | true => rw [decide_eq_false fun h => hgo ⟨rfl, h⟩, Bool.true_and, Bool.or_false]

end Images

/-! ### The close of the boundary window (R39, R43, R44) -/

/-- What holds of the value of every unlisted key and of every new value holds of every value of a mapped map. -/
theorem smGet_smMap_of {α : Type} [DecidableEq α] {d : Nat → α} {f : Nat → α → α} {P : α → Prop} (hd : ∀ n, P (d n)) (hf : ∀ n v, P (f n v))
    (m : SMap α) (n : Nat) : P (smGet d (smMap d f m) n) := by
  have hlisted : ∀ m : SMap α, P (smGet d m n) ∨ n ∈ m.map Prod.fst := fun m => by
    induction m with
    | nil => exact .inl (hd n)
    | cons e m ih =>
      by_cases he : e.1 = n
      · exact .inr (List.mem_map.mpr ⟨e, List.mem_cons_self, he⟩)
      · rw [smGet, if_neg he]
        exact ih.imp_right fun h => List.mem_cons_of_mem _ h
  have hfold : ∀ l acc : SMap α, (P (smGet d acc n) ∨ n ∈ l.map Prod.fst) → P (smGet d (l.foldl (fun acc e => smSet d acc e.1 (f e.1 e.2)) acc) n) := by
    intro l
    induction l with
    | nil => exact fun _ h => h.resolve_right List.not_mem_nil
    | cons e l ih =>
      intro acc h
      refine ih _ ?_
      by_cases he : n = e.1
      · rw [he, smGet_smSet_same]; exact .inl (hf _ _)
      · rw [smGet_smSet_other _ _ _ he]
        exact h.imp_right fun h => (List.mem_cons.mp h).resolve_left he
  exact hfold m m (hlisted m)

section Window
variable (s : State)

/-- No work on a unit's queue is held any more. -/
theorem releaseHeld_frees : (∀ n, ∀ p ∈ (s.releaseHeld.core n).postQ, p.held = false) ∧ (∀ n, ∀ w ∈ (s.releaseHeld.feedCh n).queue, w.held = false) ∧
    (∀ n, ∀ w ∈ (s.releaseHeld.tambOf n).queue, w.held = false) := by
  have hmap : ∀ (l : List Work), ∀ w ∈ l.map (fun w => { w with held := false }), w.held = false := fun l w hw => by
    obtain ⟨q, -, rfl⟩ := List.mem_map.mp hw; rfl
  refine ⟨fun n => ?_, fun n => ?_, fun n => ?_⟩
  · refine smGet_smMap_of (d := fun _ => NibCore.off) (f := fun _ k => { k with postQ := k.postQ.map fun p => { p with held := false } })
      (P := fun k : NibCore => ∀ p ∈ k.postQ, p.held = false) (fun _ _ h => absurd h List.not_mem_nil) (fun _ k p hp => ?_) s.nib n
    obtain ⟨q, -, rfl⟩ := List.mem_map.mp hp; rfl
  · exact smGet_smMap_of (d := fun _ => FeedCh.idle) (f := fun _ k => { k with queue := k.queue.map fun w => { w with held := false } })
      (P := fun k : FeedCh => ∀ w ∈ k.queue, w.held = false) (fun _ _ h => absurd h List.not_mem_nil) (fun _ k => hmap k.queue) s.feed n
  · exact smGet_smMap_of (d := fun _ => TambArray.idle) (f := fun _ k => { k with queue := k.queue.map fun w => { w with held := false } })
      (P := fun k : TambArray => ∀ w ∈ k.queue, w.held = false) (fun _ _ h => absurd h List.not_mem_nil) (fun _ k => hmap k.queue) s.tamb n

/-- Does the package slew: it has valid offsets, is not the anchor, and is not in HOLDOVER (R44, R48)? -/
def slewsNow (s : State) : Bool := s.validOffsets ≠ [] && !s.flag .strokeAnchor .SELF && s.strokeState ≠ 3

/-- The stroke with its slew and its count of windows in a row with good offsets. -/
def withSlew (s : State) : State :=
  { s with stroke := { s.stroke with
      steady := if s.validOffsets ≠ [] && s.validOffsets.all fun o => o.natAbs ≤ 5 * 256 then s.stroke.steady + 1 else 0
      slew := if slewsNow s then (meanOf s.validOffsets).tdiv 2 else 0
      slewTicks := if slewsNow s then 1600 else 0 } }

/-- The trim and the works of the guard, once the slew is known. -/
def afterSlew (s : State) (slews : Bool) : State :=
  let t := if slews then s.trimRate else s
  if t.strokeRuns && !t.stroke.slip then t.releaseHeld else t

theorem exec_windowClose_idle (h : s.strokeCounts = false) : exec .boundaryWindowClose s = .next s := congrArg Host.Outcome.next (if_pos (by simp [h]))

theorem exec_windowClose (h : s.strokeCounts = true) : exec .boundaryWindowClose s =
    .next (afterSlew (withSlew ((List.range 16).foldl State.portOffset s)) (slewsNow ((List.range 16).foldl State.portOffset s))) := by
  change execBoundaryWindowClose s = _
  rw [execBoundaryWindowClose, if_neg (by simp [h])]
  generalize (List.range 16).foldl State.portOffset s = u
  rfl

theorem trim_trimRate : s.trimRate.stroke.trim.natAbs ≤ 20000 := by
  have h : ∀ n : Nat, (((n % 40001 : Nat) : Int) - 20000).natAbs ≤ 20000 := fun n => by omega
  exact h _

theorem stroke_afterSlew (slews : Bool) : (afterSlew s slews).stroke = if slews then s.trimRate.stroke else s.stroke := by
  have h : ∀ t : State, (if t.strokeRuns && !t.stroke.slip then t.releaseHeld else t).stroke = t.stroke := fun t => by split <;> rfl
  refine (h _).trans ?_
  cases slews <;> rfl

/-- The trim and the released works leave the slew. -/
theorem slew_afterSlew (slews : Bool) : (afterSlew s slews).stroke.slew = s.stroke.slew ∧ (afterSlew s slews).stroke.slewTicks = s.stroke.slewTicks := by
  rw [stroke_afterSlew]
  cases slews <;> exact ⟨rfl, rfl⟩

/-- In a work stroke that runs no work of the guard stays held. -/
theorem afterSlew_releases (slews : Bool) (hr : s.strokeRuns = true) (hs : s.stroke.slip = false) : ∃ t : State, afterSlew s slews = t.releaseHeld := by
  have h : ∀ t : State, t.strokeRuns = s.strokeRuns → t.stroke.slip = s.stroke.slip → (t.strokeRuns && !t.stroke.slip) = true := fun t h1 h2 => by
    rw [h1, h2, hr, hs]; rfl
  cases slews
  · exact ⟨s, if_pos (h s rfl rfl)⟩
  · exact ⟨s.trimRate, if_pos (h s.trimRate rfl rfl)⟩

/-- The exchanges of a port's links. -/
def exchanges (s : State) (p : Nat) : List (Int × Int) := (s.portLinks p).filterMap fun l => (s.link l).sync

/-- A port's offset from a list of exchanges. -/
def offsetFrom (s : State) (p : Nat) (ex : List (Int × Int)) : State :=
  if ex = [] then s.setFlag (.strokeOffset p) .VALID false else
  let t := s.setFlds (.strokeOffset p) [(.VALID, 1), (.DELAY, (meanOf (ex.map Prod.snd) % 2 ^ 31).toNat), (.OFFSET, (meanOf (ex.map Prod.fst) % 2 ^ 32).toNat)]
  let t := if 5 * 256 < (meanOf (ex.map Prod.fst)).natAbs then (t.setFlag .strokeStatus .SKEW_ALARM true).pfEvent 2 else t
  if 16 * 256 < (meanOf (ex.map Prod.fst)).natAbs then t.fence p 6 [] else t

theorem portOffset_eq (p : Nat) : s.portOffset p = offsetFrom s p (if s.live p && (s.port p).heard then exchanges s p else []) := rfl

theorem portOffset_none {p : Nat} (h : s.live p = false ∨ (s.port p).heard = false ∨ exchanges s p = []) :
    s.portOffset p = s.setFlag (.strokeOffset p) .VALID false := by
  have he : (if s.live p && (s.port p).heard then exchanges s p else []) = [] := by
    rcases h with h | h | h <;> simp [h]
  rw [portOffset_eq, he, offsetFrom, if_pos rfl]

theorem portOffset_some {p : Nat} (hl : s.live p = true) (hh : (s.port p).heard = true) (he : exchanges s p ≠ [])
    (hsmall : (meanOf ((exchanges s p).map Prod.fst)).natAbs ≤ 5 * 256) :
    s.portOffset p = s.setFlds (.strokeOffset p) [(.VALID, 1), (.DELAY, (meanOf ((exchanges s p).map Prod.snd) % 2 ^ 31).toNat),
      (.OFFSET, (meanOf ((exchanges s p).map Prod.fst) % 2 ^ 32).toNat)] := by
  rw [portOffset_eq, if_pos (by simp [hl, hh]), offsetFrom, if_neg he]
  dsimp only
  rw [if_neg (by omega), if_neg (by omega)]

end Window

/-- Settles O42: the turn of the stroke and what the rest of a boundary leaves of it; an image's status and step; the slew, the trim and the
released works of the window's close; a port's offset from its links' exchanges. -/
theorem strokeBoundaryAndWindow : Obligations.StrokeBoundaryAndWindow := by
  refine ⟨fun t1 gone s => ⟨fun h => ?_, fun h => ?_⟩, fun s c hc => consecOf_turnStroke s hc, fun s work c => ⟨imageBoundary_unarmed s work c, imageBoundary_shows s work c⟩,
    exec_windowClose_idle, fun s h => ?_⟩
  · exact congrArg Host.Outcome.next (if_neg (by simpa using h))
  · exact ⟨_, congrArg Host.Outcome.next (if_pos (by simpa using h)), boundary_shows s t1 gone⟩
  · dsimp only
    rw [exec_windowClose s h]
    generalize (List.range 16).foldl State.portOffset s = u
    have hslews : slewsNow u = true ↔ u.validOffsets ≠ [] ∧ u.flag .strokeAnchor .SELF = false ∧ u.strokeState ≠ 3 := by
      simp [slewsNow, and_assoc]
    obtain ⟨hslew, hticks⟩ := slew_afterSlew (withSlew u) (slewsNow u)
    refine ⟨_, rfl, hslew.trans (if_congr hslews rfl rfl), hticks.trans (if_congr hslews rfl rfl), fun hs => ?_, fun hs => ?_, fun hr hw => ?_,
      fun p v _ => ⟨portOffset_none v, portOffset_some v⟩⟩
    · rw [stroke_afterSlew, if_pos (hslews.mpr hs)]
      exact trim_trimRate _
    · rw [stroke_afterSlew, if_neg (fun h => hs (hslews.mp h))]; rfl
    · obtain ⟨t, ht⟩ := afterSlew_releases (withSlew u) (slewsNow u) hr hw
      obtain ⟨hcore, hfeed, htamb⟩ := releaseHeld_frees t
      rw [ht]
      exact ⟨fun _ => hcore, fun _ => hfeed, fun _ => htamb⟩

end Sys2Proof.Proofs
end

section
/-!
What a port's state is: the fields of PORT.STATE, the links that follow it, and what of the machine a change of state leaves (R368, R375,
R388, R393, Tables 12-5 and 12-11).
-/
namespace Sys2Proof.Proofs
open Sys2Proof.Machine Sys2Proof.Laws Sys2Proof.Claims

/-! ### Folds over states -/

/-- What one step of a fold brings about and every step keeps holds after the fold. -/
theorem foldl_reaches {β : Type} {P : State → Prop} {f : State → β → State} {l : List β} {b : β} (hb : b ∈ l) (hset : ∀ s, P (f s b))
    (hkeep : ∀ s x, P s → P (f s x)) (s : State) : P (l.foldl f s) := by
  have hstay : ∀ (l : List β) s, P s → P (l.foldl f s) := fun l => by
    induction l with
    | nil => exact fun _ h => h
    | cons x l ih => exact fun s h => ih _ (hkeep s x h)
  induction l generalizing s with
  | nil => exact absurd hb List.not_mem_nil
  | cons x l ih =>
    rcases List.mem_cons.mp hb with rfl | hb
    · exact hstay l _ (hset s)
    · exact ih hb _

/-! ### The registers of ports and links -/

theorem addr_portCfg (p : Nat) : (Reg.portCfg p).addr = 0x410000 + 32 * p := rfl
theorem addr_linkStateReg (l : Nat) : (linkStateReg l).addr = 0x400000 + l / 8 * 0x40000 + 0 + 64 * (l % 8) := rfl
theorem addr_linkRelockReg (l : Nat) : (linkRelockReg l).addr = 0x400000 + l / 8 * 0x40000 + 0x18 + 64 * (l % 8) := rfl
theorem addr_linkSer (d i : Nat) : (Reg.linkSer d i).addr = 0x400000 + d * 0x40000 + 0x10 + 64 * i := rfl
theorem addr_linkPg (d i g : Nat) : (Reg.linkPg d i g).addr = 0x400000 + d * 0x40000 + 0x20 + 64 * i + 8 * g := rfl
theorem addr_linkPgerr (d i g : Nat) : (Reg.linkPgerr d i g).addr = 0x400000 + d * 0x40000 + 0x30 + 64 * i + 8 * g := rfl
theorem addr_linkdStatus (d : Nat) : (Reg.linkdStatus d).addr = 0x400000 + d * 0x40000 + 0x400 := rfl

/-- A register that the links' own registers are not: PORT.CFG and PORT.STATE of a port. -/
theorem portReg_ne_linkState {q : Reg} {p : Nat} (hp : p < 16) (h : q.addr = 0x410000 + 32 * p ∨ q.addr = 0x410008 + 32 * p) (l : Nat) :
    q.addr ≠ (linkStateReg l).addr := by rw [addr_linkStateReg]; omega

theorem pos_portState (p : Nat) : (Reg.portState p).pos .STATE = (63, 56) ∧ (Reg.portState p).pos .CAUSE = (55, 48) ∧ (Reg.portState p).pos .STEP = (15, 12) ∧
    (Reg.portState p).pos .LAG = (27, 24) ∧ (Reg.portState p).pos .FAR_X = (47, 40) ∧ (Reg.portState p).pos .FAR_Y = (39, 32) := ⟨rfl, rfl, rfl, rfl, rfl, rfl⟩

theorem portLinks_congr {s t : State} {p : Nat} (h : t.reg (.portCfg p) = s.reg (.portCfg p)) : t.portLinks p = s.portLinks p := by
  rw [State.portLinks, fld_congr h, fld_congr h, fld_congr h, State.portLinks]

/-- The links that a port alone holds depend on the ports' configurations. -/
theorem ownLinks_congr {s t : State} {p : Nat} (hp : p < 16) (h : ∀ q < 16, t.reg (.portCfg q) = s.reg (.portCfg q)) : t.ownLinks p = s.ownLinks p := by
  have hall : ∀ l, ((List.range 16).all fun q => q = p || !t.flag (.portCfg q) .ENABLE || !(t.portLinks q).contains l) =
      (List.range 16).all fun q => q = p || !s.flag (.portCfg q) .ENABLE || !(s.portLinks q).contains l := fun l =>
    Bool.eq_iff_iff.mpr <| by
      rw [List.all_eq_true, List.all_eq_true]
      exact forall₂_congr fun q hq => by rw [flag_congr (h q (List.mem_range.mp hq)), portLinks_congr (h q (List.mem_range.mp hq))]
  rw [State.ownLinks, portLinks_congr (h p hp), State.ownLinks]
  simp only [hall]

/-! ### What a change of a port's state leaves -/

/-- t differs from s in registers, in what has been sent and in the links' own records at most. -/
def Relinked (s t : State) : Prop := t = { s with regs := t.regs, outbox := t.outbox, links := t.links }

theorem Relinked.refl (s : State) : Relinked s s := rfl

theorem Relinked.trans {s t u : State} (h : Relinked s t) (g : Relinked t u) : Relinked s u := by
  rw [Relinked] at *; rw [g]; show _ = _; rw [h]

theorem Relinked.foldl {β : Type} {f : State → β → State} (h : ∀ s b, Relinked s (f s b)) (l : List β) (s : State) : Relinked s (l.foldl f s) := by
  induction l generalizing s with
  | nil => exact .refl s
  | cons b l ih => exact (h s b).trans (ih _)

theorem relinked_of_events {s t : State} (h : Events s t) : Relinked s t := by rw [Events] at h; rw [Relinked, h]

theorem relinked_setLink (s : State) (l : Nat) (k : LinkSt) : Relinked s (s.setLink l k) := rfl

theorem Relinked.shows {s t : State} (h : Relinked s t) : t.ports = s.ports ∧ t.outq = s.outq ∧ t.mem = s.mem ∧ t.slots = s.slots ∧ t.images = s.images ∧
    t.epoch = s.epoch ∧ t.stroke = s.stroke := by rw [Relinked] at h; rw [h]; exact ⟨rfl, rfl, rfl, rfl, rfl, rfl, rfl⟩

theorem port_of_ports {s t : State} (h : t.ports = s.ports) (p : Nat) : t.port p = s.port p := by rw [State.port, h, State.port]

/-! ### What has been sent stays -/

theorem outbox_message_prefix (s : State) (f v : Nat) : s.outbox <+: (s.message f v).outbox := by
  unfold State.message
  split
  · exact List.prefix_rfl
  · split
    · exact List.prefix_rfl
    · exact List.prefix_append ..

theorem outbox_vectorEvent_prefix (s : State) (f v : Nat) : s.outbox <+: (s.vectorEvent f v).outbox := by
  unfold State.vectorEvent
  split
  · exact outbox_message_prefix (s.setRegBit (armedReg f v) (v % 64) false) f v
  · exact List.prefix_rfl

theorem outbox_foldl_prefix {β : Type} {f : State → β → State} (h : ∀ s b, s.outbox <+: (f s b).outbox) (l : List β) (s : State) :
    s.outbox <+: (l.foldl f s).outbox := by
  induction l generalizing s with
  | nil => exact List.prefix_rfl
  | cons b l ih => exact (h s b).trans (ih _)

theorem outbox_setFlds (s : State) (r : Reg) (l : List (FName × Nat)) : (s.setFlds r l).outbox = s.outbox := by rw [setFlds_eq]

/-! ### Fields of PORT.STATE -/

section Fields
variable (s : State) {p : Nat} (fs : List (FName × Nat))

theorem events_portFields (p : Nat) : Events s (s.portFields p fs) := by
  unfold State.portFields
  extract_lets t
  split
  · exact events_setFlds ..
  · exact (events_setFlds ..).trans (events_pfEvent ..)

theorem outbox_portFields_prefix (p : Nat) : s.outbox <+: (s.portFields p fs).outbox := by
  have h : s.outbox <+: (s.setFlds (.portState p) fs).outbox := by rw [outbox_setFlds]
  unfold State.portFields
  extract_lets t
  split
  · exact h
  · exact h.trans (outbox_vectorEvent_prefix ..)

/-- Below the IO die's registers only PORT.STATE of the port moves. -/
theorem reg_portFields_other {q : Reg} (h : q.addr ≠ (Reg.portState p).addr) (hq : q.addr < 0x800000) : (s.portFields p fs).reg q = s.reg q := by
  unfold State.portFields
  extract_lets t
  have ht : t.reg q = s.reg q := reg_setFlds_other s fs h
  split
  · exact ht
  · rw [reg_pfEvent_low _ _ hq, ht]

theorem portState_low (hp : p < 16) : (Reg.portState p).addr < 0x800000 := by rw [addr_portState]; omega

theorem reg_portFields (hp : p < 16) : (s.portFields p fs).reg (.portState p) = (s.setFlds (.portState p) fs).reg (.portState p) := by
  unfold State.portFields
  extract_lets t
  split
  · rfl
  · exact reg_pfEvent_low _ _ (portState_low hp)

theorem fld_portFields_of_mem (hp : p < 16) (hl : ∀ e ∈ fs, hasField (.portState p) e.1 = true) (hn : (fs.map Prod.fst).Nodup) {f : FName} {v : Nat}
    (h : (f, v) ∈ fs) : (s.portFields p fs).fld (.portState p) f = v % 2 ^ (((Reg.portState p).pos f).1 + 1 - ((Reg.portState p).pos f).2) := by
  rw [fld_congr (reg_portFields s fs hp), fld_setFlds_of_mem _ _ hl hn h]

theorem fld_portFields_of_not_mem (hp : p < 16) (hl : ∀ e ∈ fs, hasField (.portState p) e.1 = true) {f : FName}
    (hf : hasField (.portState p) f = true) (h : f ∉ fs.map Prod.fst) : (s.portFields p fs).fld (.portState p) f = s.fld (.portState p) f := by
  rw [fld_congr (reg_portFields s fs hp), fld_setFlds_of_not_mem _ _ hl hf h]

end Fields

/-! ### A port takes a state -/

/-- A link of a port that takes a state. -/
def linkFollows (st : Nat) (s : State) (l : Nat) : State :=
  (s.setFld (linkStateReg l) .STATE (linkCode st)).setLink l { s.link l with t2 := none, sync := none, relock := none, farRelock := false, late := none }

/-- The links of a port follow its state. -/
def linksFollow (s : State) (st : Nat) (ls : List Nat) : State := ls.foldl (linkFollows st) s

section Follow
variable (s : State) (st : Nat) (ls : List Nat)

theorem relinked_linksFollow : Relinked s (linksFollow s st ls) := .foldl (f := linkFollows st) (fun _ _ => rfl) ls s

theorem outbox_linksFollow : (linksFollow s st ls).outbox = s.outbox := by
  exact foldl_same (f := linkFollows st) State.outbox (fun _ _ _ => rfl) s

theorem reg_linksFollow_other {q : Reg} (h : ∀ l, q.addr ≠ (linkStateReg l).addr) : (linksFollow s st ls).reg q = s.reg q := by
  exact foldl_same (f := linkFollows st) (·.reg q) (fun s l _ => reg_setFld_other s .STATE (linkCode st) (h l)) s

theorem linkCode_lt : linkCode st < 256 := by unfold linkCode; split <;> decide

theorem linkStateReg_ne {l m : Nat} (h : l ≠ m) : (linkStateReg l).addr ≠ (linkStateReg m).addr := by rw [addr_linkStateReg, addr_linkStateReg]; omega

theorem linksFollow_shows {l : Nat} (hl : l ∈ ls) : (linksFollow s st ls).fld (linkStateReg l) .STATE = linkCode st ∧
    ((linksFollow s st ls).link l).relock = none ∧ ((linksFollow s st ls).link l).farRelock = false := by
  have hself : ∀ s, (linkFollows st s l).fld (linkStateReg l) .STATE = linkCode st ∧ ((linkFollows st s l).link l).relock = none ∧
      ((linkFollows st s l).link l).farRelock = false := fun s => by
    rw [linkFollows, link_setLink_same]
    exact ⟨(fld_setFld s ..).trans (Nat.mod_eq_of_lt (linkCode_lt st)), rfl, rfl⟩
  refine foldl_reaches (f := linkFollows st) (P := fun s => s.fld (linkStateReg l) .STATE = linkCode st ∧ (s.link l).relock = none ∧ (s.link l).farRelock = false) hl
    hself (fun s m h => ?_) s
  by_cases hm : l = m
  · rw [← hm]; exact hself s
  · rw [linkFollows, link_setLink_other _ _ _ _ hm]
    exact ⟨(fld_setFld_other s _ _ _ (linkStateReg_ne hm)).trans h.1, h.2⟩

end Follow

/-- PORT.STATE written and its links set to follow. -/
def portTakes (s : State) (p st : Nat) (fs : List (FName × Nat)) : State :=
  linksFollow (s.portFields p (fs ++ [(.STATE, st), (.STEP, if st = 2 then 1 else 0), (.LINKS_UP, upMask st (s.portLinks p).length)])) st (s.ownLinks p)

/-- Only a LIVE port keeps its offset. -/
def offsetEnds (s : State) (p st : Nat) : State := if st = 4 then s else s.setFlag (.strokeOffset p) .VALID false

section Takes
variable (s : State) {p st : Nat} (fs : List (FName × Nat))

theorem setPortWith_eq (p st : Nat) : s.setPortWith p st fs = if s.portIs p ≠ st then
    (offsetEnds (portTakes s p st fs) p st).send (.toTmc 0x03 [p, st, (offsetEnds (portTakes s p st fs) p st).fld (.portState p) .CAUSE])
    else offsetEnds (portTakes s p st fs) p st := by
  unfold State.setPortWith
  simp only
  rfl

/-- The report to the TMC is all that a change of the state adds. -/
theorem setPortWith_sends (p st : Nat) : ∃ l, s.setPortWith p st fs = { offsetEnds (portTakes s p st fs) p st with
    outbox := (offsetEnds (portTakes s p st fs) p st).outbox ++ l } := by
  rw [setPortWith_eq]
  split
  · exact ⟨_, rfl⟩
  · exact ⟨[], by rw [List.append_nil]⟩

theorem reg_setPortWith (p st : Nat) (q : Reg) : (s.setPortWith p st fs).reg q = (offsetEnds (portTakes s p st fs) p st).reg q := by
  obtain ⟨l, h⟩ := setPortWith_sends s fs p st
  rw [h]; rfl

theorem links_setPortWith (p st : Nat) : (s.setPortWith p st fs).links = (portTakes s p st fs).links := by
  obtain ⟨l, h⟩ := setPortWith_sends s fs p st
  rw [h, offsetEnds]
  split <;> rfl

theorem relinked_portTakes (p st : Nat) : Relinked s (portTakes s p st fs) := (relinked_of_events (events_portFields ..)).trans (relinked_linksFollow ..)

theorem relinked_setPortWith (p st : Nat) : Relinked s (s.setPortWith p st fs) := by
  have ho : Relinked (portTakes s p st fs) (offsetEnds (portTakes s p st fs) p st) := by
    unfold offsetEnds; split
    · exact .refl _
    · exact relinked_of_events (events_setFld ..)
  have hs := (relinked_portTakes s fs p st).trans ho
  rw [setPortWith_eq]
  split
  · exact hs.trans (relinked_of_events (events_send ..))
  · exact hs

theorem outbox_setPortWith_prefix (p st : Nat) : s.outbox <+: (s.setPortWith p st fs).outbox := by
  have hp := outbox_portFields_prefix s (fs ++ [(.STATE, st), (.STEP, if st = 2 then 1 else 0), (.LINKS_UP, upMask st (s.portLinks p).length)]) p
  have ho : ∀ u, (offsetEnds u p st).outbox = u.outbox := fun u => by unfold offsetEnds; split <;> rfl
  obtain ⟨l, h⟩ := setPortWith_sends s fs p st
  rw [h, ho, portTakes, outbox_linksFollow]
  exact hp.trans (List.prefix_append ..)

theorem reg_offsetEnds_other {q : Reg} (h : q.addr ≠ (Reg.strokeOffset p).addr) (st : Nat) : (offsetEnds s p st).reg q = s.reg q := by
  unfold offsetEnds; split
  · rfl
  · exact reg_setFlag_other _ _ _ h

/-- A register that no change of a port's state writes. -/
theorem reg_setPortWith_other {q : Reg} (h : q.addr ≠ (Reg.portState p).addr) (hl : ∀ l, q.addr ≠ (linkStateReg l).addr)
    (ho : q.addr ≠ (Reg.strokeOffset p).addr) (hq : q.addr < 0x800000) (st : Nat) : (s.setPortWith p st fs).reg q = s.reg q := by
  rw [reg_setPortWith, reg_offsetEnds_other _ ho, portTakes, reg_linksFollow_other _ _ _ hl, reg_portFields_other _ _ h hq]

/-- PORT.STATE itself. -/
theorem portState_setPortWith (hp : p < 16) (st : Nat) : (s.setPortWith p st fs).reg (.portState p) =
    (s.portFields p (fs ++ [(.STATE, st), (.STEP, if st = 2 then 1 else 0), (.LINKS_UP, upMask st (s.portLinks p).length)])).reg (.portState p) := by
  rw [reg_setPortWith, reg_offsetEnds_other _ (by rw [addr_portState, addr_strokeOffset]; omega), portTakes,
    reg_linksFollow_other _ _ _ (portReg_ne_linkState hp (.inr rfl))]

theorem portCfg_setPortWith {q : Nat} (hp : p < 16) (hq : q < 16) (st : Nat) : (s.setPortWith p st fs).reg (.portCfg q) = s.reg (.portCfg q) :=
  reg_setPortWith_other s fs (by rw [addr_portCfg, addr_portState]; omega) (portReg_ne_linkState hq (.inl rfl))
    (by rw [addr_portCfg, addr_strokeOffset]; omega) (by rw [addr_portCfg]; omega) st

theorem hasField_state (p st step up : Nat) : ∀ e ∈ [(FName.STATE, st), (.STEP, step), (.LINKS_UP, up)], hasField (.portState p) e.1 = true := by
  simp; and_intros <;> rfl

theorem fld_setPortWith (hp : p < 16) (hl : ∀ e ∈ fs, hasField (.portState p) e.1 = true) (hn : (fs.map Prod.fst ++ [FName.STATE, .STEP, .LINKS_UP]).Nodup)
    {f : FName} {v : Nat} (h : (f, v) ∈ fs ++ [(.STATE, st), (.STEP, if st = 2 then 1 else 0), (.LINKS_UP, upMask st (s.portLinks p).length)]) :
    (s.setPortWith p st fs).fld (.portState p) f = v % 2 ^ (((Reg.portState p).pos f).1 + 1 - ((Reg.portState p).pos f).2) := by
  rw [fld_congr (portState_setPortWith s fs hp st)]
  refine fld_portFields_of_mem s _ hp (fun e he => ?_) ?_ h
  · rcases List.mem_append.mp he with he | he
    · exact hl e he
    · exact hasField_state p _ _ _ e he
  · rw [List.map_append]; exact hn

theorem portIs_setPortWith (hp : p < 16) (hl : ∀ e ∈ fs, hasField (.portState p) e.1 = true) (hn : (fs.map Prod.fst ++ [FName.STATE, .STEP, .LINKS_UP]).Nodup)
    (hst : st < 8) : (s.setPortWith p st fs).portIs p = st := by
  rw [State.portIs, fld_setPortWith s fs hp hl hn (v := st) (by simp), (pos_portState p).1]
  exact Nat.mod_eq_of_lt (hst.trans (by decide))

/-- The links that are a port's own follow its state; a port that is not LIVE has no valid offset. -/
theorem setPortWith_shows (hp : p < 16) {l : Nat} (hl : l ∈ s.ownLinks p) (st : Nat) : (s.setPortWith p st fs).fld (linkStateReg l) .STATE = linkCode st ∧
    ((s.setPortWith p st fs).link l).relock = none ∧ ((s.setPortWith p st fs).link l).farRelock = false := by
  obtain ⟨hstate, hrelock, hfar⟩ := linksFollow_shows (s.portFields p (fs ++ [(.STATE, st), (.STEP, if st = 2 then 1 else 0),
    (.LINKS_UP, upMask st (s.portLinks p).length)])) st (s.ownLinks p) hl
  have hlink : (s.setPortWith p st fs).link l = (portTakes s p st fs).link l := by rw [State.link, links_setPortWith, State.link]
  rw [hlink, fld_congr ((reg_setPortWith s fs p st _).trans (reg_offsetEnds_other _ ?_ st))]
  · exact ⟨hstate, hrelock, hfar⟩
  · rw [addr_linkStateReg, addr_strokeOffset]; omega

theorem offset_setPortWith (p : Nat) (h : st ≠ 4) : (s.setPortWith p st fs).flag (.strokeOffset p) .VALID = false := by
  rw [flag_congr (reg_setPortWith ..), offsetEnds, if_neg h, flag_setFlag _ _ _ _ rfl]

end Takes

end Sys2Proof.Proofs
end

section
/-!
A port formed and trained: the geometry that PORT.CFG stores, the start of training, and what a port that goes down costs (R368, R375,
R388, R393, R395).
-/
namespace Sys2Proof.Proofs
open Sys2Proof.Machine Sys2Proof.Laws Sys2Proof.Claims

/-! ### The state that a port takes -/

theorem setPortState_shows (s : State) {p st : Nat} (hp : p < 16) (hst : st < 8) : let t := s.setPortState p st
    t.portIs p = st ∧ (∀ l ∈ s.ownLinks p, t.fld (linkStateReg l) .STATE = linkCode st ∧ (t.link l).relock = none ∧ (t.link l).farRelock = false) ∧
      (st ≠ 4 → t.flag (.strokeOffset p) .VALID = false) :=
  ⟨portIs_setPortWith s [] hp nofun (by decide) hst, fun _ hl => setPortWith_shows s [] hp hl st, offset_setPortWith s [] p⟩

theorem portIs_congr {s t : State} {p : Nat} (h : t.reg (.portState p) = s.reg (.portState p)) : t.portIs p = s.portIs p := by
  rw [State.portIs, fld_congr h, State.portIs]

theorem portIs_setPort (s : State) (p q : Nat) (k : PortSt) : (s.setPort q k).portIs p = s.portIs p := rfl

theorem portIs_portDown (s : State) {p cause : Nat} (hp : p < 16) (hc : cause < 256) : (s.portDown p cause).portIs p = 6 ∧
    (s.portDown p cause).fld (.portState p) .CAUSE = cause := by
  have hl : ∀ e ∈ [(FName.CAUSE, cause)], hasField (.portState p) e.1 = true := by simp; rfl
  refine ⟨portIs_setPortWith (s.linkDown p) _ hp hl (by simp) (by decide), ?_⟩
  refine (fld_setPortWith (s.linkDown p) _ hp hl (by simp) (v := cause) (by simp)).trans ?_
  rw [(pos_portState p).2.1]
  exact Nat.mod_eq_of_lt hc

/-! ### Forming a port (R368, R395) -/

section Forming
variable (s : State) {p : Nat} (g : Nat × Nat × Nat)

theorem hasField_geom (p d z f : Nat) : ∀ e ∈ [(FName.DIR, d), (.SIZE_LOG2, z), (.FIRST, f)], hasField (.portCfg p) e.1 = true := by
  simp; and_intros <;> rfl

theorem portGeom_setGeom (p : Nat) (hd : g.1 < 4) (hz : g.2.1 < 4) (hf : g.2.2 < 8) : (s.setGeom p g).portGeom p = g := by
  have h := fun f v hm => fld_setFlds_of_mem s (.portCfg p) (hasField_geom p g.1 g.2.1 g.2.2) (by simp) (f := f) (v := v) hm
  rw [State.portGeom, State.setGeom, h .DIR g.1 (by simp), h .SIZE_LOG2 g.2.1 (by simp), h .FIRST g.2.2 (by simp)]
  exact Prod.ext (Nat.mod_eq_of_lt hd) (Prod.ext (Nat.mod_eq_of_lt hz) (Nat.mod_eq_of_lt hf))

theorem portState_ne_portCfg (p q : Nat) : (Reg.portState p).addr ≠ (Reg.portCfg q).addr := by rw [addr_portState, addr_portCfg]; omega

theorem portIs_setGeom (p q : Nat) : (s.setGeom q g).portIs p = s.portIs p := portIs_congr (reg_setFlds_other _ _ (portState_ne_portCfg p q))

theorem portIs_setCfgFlag (p q : Nat) (f : FName) (b : Bool) : (s.setFlag (.portCfg q) f b).portIs p = s.portIs p :=
  portIs_congr (reg_setFlag_other _ _ _ (portState_ne_portCfg p q))

theorem portIs_cfgErr (hp : p < 16) : s.cfgErr.portIs p = s.portIs p :=
  portIs_congr (reg_setFlag_other _ _ _ (by rw [addr_portState, addr_linkdStatus]; omega))

/-- A disabled port with a geometry that is aligned and free trains, waits for signal, or stays in TEST. -/
theorem portEnable_off (h : s.flag (.portCfg p) .ENABLE = false) (signal : Bool) : s.portEnable p g signal =
    if !(s.setGeom p g).geomOk p then (s.setGeom p g).cfgErr
    else if s.portIs p ≠ 0 then (s.setGeom p g).setFlag (.portCfg p) .ENABLE true
    else if ((s.setGeom p g).setFlag (.portCfg p) .ENABLE true).finds p signal then ((s.setGeom p g).setFlag (.portCfg p) .ENABLE true).startTraining p
    else ((s.setGeom p g).setFlag (.portCfg p) .ENABLE true).setPortState p 1 := by
  rw [← portIs_setGeom s g p p, ← portIs_setCfgFlag (s.setGeom p g) p p .ENABLE true, State.portEnable, if_neg (by rw [h]; exact Bool.false_ne_true)]

theorem portEnable_on (h : s.flag (.portCfg p) .ENABLE = true) (signal : Bool) : s.portEnable p g signal = if s.portGeom p = g then s else s.cfgErr := by
  rw [State.portEnable, if_pos h]

theorem portDisable_off (h : s.flag (.portCfg p) .ENABLE = false) : s.portDisable p g = s.setGeom p g := by
  rw [State.portDisable, if_pos (by rw [h]; rfl)]

theorem portDisable_on (hp : p < 16) (h : s.flag (.portCfg p) .ENABLE = true) : let a := if s.portGeom p = g then s else s.cfgErr
    s.portDisable p g = (if s.portIs p = 7 then a else ((a.linkDown p).setPortState p 0).setPort p PortSt.idle).setFlag (.portCfg p) .ENABLE false := by
  have ha : (if s.portGeom p = g then s else s.cfgErr).portIs p = s.portIs p := by
    split
    · rfl
    · exact portIs_cfgErr s hp
  dsimp only
  rw [← ha, State.portDisable, if_neg (by rw [h]; exact Bool.false_ne_true)]

/-- A port disabled outside TEST reads DISABLED. -/
theorem portDisabled_shows (hp : p < 16) : let t := ((s.setPortState p 0).setPort p PortSt.idle).setFlag (.portCfg p) .ENABLE false
    t.portIs p = 0 ∧ t.flag (.portCfg p) .ENABLE = false :=
  ⟨(portIs_setCfgFlag ..).trans ((portIs_setPort ..).trans (setPortState_shows s hp (by decide)).1), flag_setFlag _ _ _ _ rfl⟩

end Forming

/-! ### What a port that stops loses (R248, R251, R285) -/

section Stops
variable (s : State) {p : Nat}

theorem outQueue_dropOutbound {c : Nat} (hc : c < 16) : (s.dropOutbound p).outQueue p c = [] := by
  refine foldl_reaches (f := fun s c => s.setOutQueue p c []) (P := fun s => s.outQueue p c = []) (mem_allContexts.mpr hc) (fun s => ?_) (fun s d h => ?_) s
  · exact outQueue_setOutQueue_same s p c []
  · by_cases hd : 16 * p + c = 16 * p + d
    · have hcd : c = d := Nat.add_left_cancel hd
      rw [hcd]; exact outQueue_setOutQueue_same s p d []
    · rw [outQueue_setOutQueue_other s p d [] hd, h]

theorem outbox_dropOutbound : (s.dropOutbound p).outbox = s.outbox :=
  foldl_same (f := fun s c => s.setOutQueue p c []) State.outbox (fun _ _ _ => rfl) s

/-- t has the outbound queues of s, and what s has sent it has sent. -/
def KeepsQueues (s t : State) : Prop := t.outq = s.outq ∧ s.outbox <+: t.outbox

theorem KeepsQueues.refl (s : State) : KeepsQueues s s := ⟨rfl, List.prefix_rfl⟩

theorem KeepsQueues.trans {s t u : State} (h : KeepsQueues s t) (g : KeepsQueues t u) : KeepsQueues s u := ⟨g.1.trans h.1, h.2.trans g.2⟩

theorem keepsQueues_vfEvent (c v : Nat) : KeepsQueues s (s.vfEvent c v) :=
  ⟨by rw [events_vfEvent s c v], outbox_vectorEvent_prefix s (c + 1) v⟩

theorem keepsQueues_setFeedCur (i : Nat) (f : FeedCur → FeedCur) : KeepsQueues s (s.setFeedCur i f) := by
  unfold State.setFeedCur; exact ⟨rfl, List.prefix_rfl⟩

theorem keepsQueues_endEpoch (c st : Nat) (err : Option (Nat × Nat)) : KeepsQueues s (s.endEpoch c st err) := by
  unfold State.endEpoch
  extract_lets e t u
  split
  · exact .refl s
  · have ht : KeepsQueues s t := ⟨rfl, List.prefix_rfl⟩
    exact ht.trans ((keepsQueues_setFeedCur t _ _).trans (keepsQueues_vfEvent u c 8))

theorem keepsQueues_endEpochsOn (p : Nat) : KeepsQueues s (s.endEpochsOn p) := by
  unfold State.endEpochsOn
  generalize allContexts = l
  induction l generalizing s with
  | nil => exact .refl s
  | cons c l ih =>
    have hrecv : ∀ t : State, KeepsQueues t (t.setRecv p c RecvEpoch.none) := fun t => ⟨rfl, List.prefix_rfl⟩
    have hfree : KeepsQueues s (s.freeNat 16).2 := ⟨rfl, List.prefix_rfl⟩
    refine KeepsQueues.trans ?_ (ih _)
    dsimp only
    split
    · exact (hfree.trans (keepsQueues_endEpoch ..)).trans (hrecv _)
    · exact hrecv s

/-- A port that is not LIVE loses its outbound messages. -/
theorem linkDown_of_not_live (h : s.live p = false) : (∀ c < 16, (s.linkDown p).outQueue p c = []) ∧ s.outbox <+: (s.linkDown p).outbox := by
  obtain ⟨hq, ho⟩ := keepsQueues_endEpochsOn (s.dropOutbound p) p
  rw [State.linkDown, if_neg (by rw [h]; exact Bool.false_ne_true)]
  refine ⟨fun c hc => ?_, ?_⟩
  · rw [State.outQueue, hq]; exact outQueue_dropOutbound s hc
  · rw [outbox_dropOutbound] at ho; exact ho

theorem outQueue_setPortWith (t : State) (p st : Nat) (fs : List (FName × Nat)) (c : Nat) : (t.setPortWith p st fs).outQueue p c = t.outQueue p c := by
  obtain ⟨-, hq, -⟩ := (relinked_setPortWith t fs p st).shows
  rw [State.outQueue, hq, State.outQueue]

end Stops

/-! ### The start of training (R375, R393) -/

section Training
variable (s : State) {p : Nat}

/-- The port's FENCED bit cleared. -/
def unfenced (s : State) (p : Nat) : State := s.setFld .strokeDissent .FENCED (s.fld .strokeDissent .FENCED &&& (0xFFFF ^^^ 2 ^ p))

theorem outbox_unfenced (p : Nat) : (unfenced s p).outbox = s.outbox := rfl

theorem outQueue_unfenced (p q c : Nat) : (unfenced s p).outQueue q c = s.outQueue q c := rfl

theorem startTraining_eq (p : Nat) : s.startTraining p =
    ((unfenced ((s.sendRetrain p).linkDown p) p).setPortWith p 2 []).setPort p { PortSt.idle with attempts := 1 } := rfl

theorem startTraining_shows (hp : p < 16) : (s.startTraining p).portIs p = 2 ∧ ((s.startTraining p).port p).attempts = 1 := by
  rw [startTraining_eq, port_setPort_same]
  exact ⟨portIs_setPortWith _ [] hp nofun (by decide) (by decide), rfl⟩

theorem outbox_setPort (q : Nat) (k : PortSt) : (s.setPort q k).outbox = s.outbox := rfl

theorem outQueue_setPort (q : Nat) (k : PortSt) (r c : Nat) : (s.setPort q k).outQueue r c = s.outQueue r c := rfl

theorem live_symbol (p q code x : Nat) : (s.symbol q code x).live p = s.live p := live_congr (by rw [State.reg, regs_symbol, State.reg])

/-- RETRAIN is sent first by a port that sends symbols, and its outbound messages are gone. -/
theorem startTraining_of_not_live (hl : s.live p = false) : (s.canSymbol p = true → ∃ l, (s.startTraining p).outbox = s.outbox ++ .symbol p 0x05 0 :: l) ∧
    ∀ c < 16, (s.startTraining p).outQueue p c = [] := by
  obtain ⟨hq, ho⟩ := linkDown_of_not_live (s.sendRetrain p) (p := p) ((live_symbol s p p 0x05 0).trans hl)
  rw [startTraining_eq]
  refine ⟨fun hc => ?_, fun c hc => ?_⟩
  · have hok : symbolOk (s.portIs p) 0x05 = true := by simp [symbolOk]
    have hall := ho.trans (outbox_setPortWith_prefix (unfenced ((s.sendRetrain p).linkDown p) p) [] p 2)
    rw [State.sendRetrain, outbox_symbol_sent hc hok] at hall
    obtain ⟨l, hl⟩ := hall
    exact ⟨l, hl.symm.trans (List.append_assoc ..)⟩
  · rw [outQueue_setPort, outQueue_setPortWith, outQueue_unfenced, hq c hc]

theorem outQueue_portDown_of_not_live (hl : s.live p = false) (cause : Nat) {c : Nat} (hc : c < 16) : (s.portDown p cause).outQueue p c = [] := by
  rw [State.portDown, outQueue_setPort, outQueue_setPortWith]
  exact (linkDown_of_not_live s hl).1 c hc

end Training

end Sys2Proof.Proofs
end

section
/-!
The commands of a port: its control register, its signal, the symbols it receives, and the steps and the handshake of its training
(R63, R374, R375, R388, R389, R390, R393, Table 12-5).
-/
namespace Sys2Proof.Proofs
open Sys2Proof.Machine Sys2Proof.Laws Sys2Proof.Claims

/-! ### PORT.CTRL, signal and symbols (Table 12-5) -/

/-- A command whose next state is one of two. -/
theorem next_ite {b : Bool} {P : Prop} [Decidable P] {s t : State} (h : b = true ↔ P) :
    (Host.Outcome.next (if b then s else t) : Out) = if P then .next s else .next t := (apply_ite _ _ _ _).trans (if_congr h rfl rfl)

section Control
variable (s : State) (p : PortId)

theorem transmits_iff (p : Nat) : s.transmits p = true ↔ s.portIs p ∈ [2, 3, 4, 5, 7] := by rw [State.transmits, List.contains_iff_mem]

theorem goDown_eq (p cause : Nat) : s.goDown p cause = (if s.portIs p ∈ [2, 3, 4, 5, 7] then s.sendDown p cause else s).portDown p cause := by
  rw [State.goDown, if_congr (transmits_iff s p) rfl rfl]

theorem exec_portCtrlRetrain : exec (.portCtrlRetrain p) s = if s.portIs p = 0 ∨ s.portIs p = 7 then .next s else .next (s.startTraining p) :=
  next_ite (by simp)

theorem exec_retrain : exec (.retrain p) s =
    if s.portIs p = 0 ∨ s.portIs p = 2 ∨ s.portIs p = 7 ∨ s.canSymbol p = false then .next s else .next (s.startTraining p) :=
  next_ite (by simp [or_assoc])

theorem exec_portCtrlDown : exec (.portCtrlDown p) s = if s.portIs p = 0 then .next s else .next (s.goDown p 14) := apply_ite Host.Outcome.next _ _ _

theorem ctrlTest_eq (p : Nat) : s.ctrlTest p = if s.portIs p ∈ [0, 1, 3, 6] then s.setPortState p 7 else s := by
  rw [State.ctrlTest, if_congr List.contains_iff_mem rfl rfl]

theorem exec_portCtrlTest : exec (.portCtrlTest p) s = if s.portIs p ∈ [0, 1, 3, 6] then .next (s.setPortState p 7) else .next s := by
  change Host.Outcome.next (s.ctrlTest p) = _
  rw [ctrlTest_eq, apply_ite Host.Outcome.next]

theorem exec_absentSample (signal : Bool) : exec (.absentSample p signal) s =
    if s.portIs p = 1 ∧ s.finds p signal = true then .next (s.startTraining p) else .next s := next_ite (by simp)

theorem exec_down (cause : Byte) : exec (.down p cause) s =
    if s.portIs p ∈ [2, 3, 4, 5, 7] ∧ s.canSymbol p = true then .next (s.portDown p 13) else .next s :=
  next_ite (by rw [Bool.and_eq_true, transmits_iff])

theorem live_iff (p : Nat) : s.live p = true ↔ s.portIs p = 4 := decide_eq_true_iff

theorem live_eq_false {p : Nat} (h : s.portIs p ≠ 4) : s.live p = false := decide_eq_false h

theorem exec_lossOfSignal_none {lost : Byte} (h : s.portIs p ≠ 4 ∨ lost.toNat % 2 ^ s.portSize p = 0) : exec (.lossOfSignal p lost) s = .next s := by
  refine congrArg Host.Outcome.next (if_pos ?_)
  rcases h with h | h
  · rw [live_eq_false s h]; rfl
  · rw [h]; exact Bool.or_true _

theorem two_pow_portSize (p : Nat) : 2 ≤ 2 ^ s.portSize p := by
  have h1 : 1 ≤ s.portSize p := Nat.one_le_two_pow
  exact Nat.pow_le_pow_right (n := 2) Nat.two_pos h1

theorem exec_lossOfSignal_all {lost : Byte} (h : s.portIs p = 4) (hm : lost.toNat % 2 ^ s.portSize p = 2 ^ s.portSize p - 1) :
    exec (.lossOfSignal p lost) s = .next (((s.linkDown p).setPortState p 1).setPort p PortSt.idle) := by
  have h2 := two_pow_portSize s p
  have hgo : (!s.live p || decide (lost.toNat % 2 ^ s.portSize p = 0)) = false := by
    rw [(live_iff s p).mpr h, decide_eq_false (by omega)]; rfl
  exact congrArg Host.Outcome.next ((if_neg (by rw [hgo]; exact Bool.false_ne_true)).trans (if_pos hm))

theorem exec_lossOfSignal_some {lost : Byte} (h : s.portIs p = 4) (h0 : lost.toNat % 2 ^ s.portSize p ≠ 0)
    (hm : lost.toNat % 2 ^ s.portSize p ≠ 2 ^ s.portSize p - 1) : exec (.lossOfSignal p lost) s = .next (s.goDown p 10) := by
  have hgo : (!s.live p || decide (lost.toNat % 2 ^ s.portSize p = 0)) = false := by
    rw [(live_iff s p).mpr h, decide_eq_false h0]; rfl
  exact congrArg Host.Outcome.next ((if_neg (by rw [hgo]; exact Bool.false_ne_true)).trans (if_neg hm))

/-! ### FENCE (R62, R63) -/

/-- The contexts that the far end is taken to have found different are of those compared. -/
theorem mem_farDiffer {l : List Nat} {c : Nat} (h : c ∈ (s.farDiffer l).1) : c ∈ l := by
  induction l generalizing s with
  | nil => exact h
  | cons d l ih =>
    rw [State.farDiffer] at h
    dsimp only at h
    split at h
    · exact (List.mem_cons.mp h).elim (fun h => h ▸ List.mem_cons_self) fun h => List.mem_cons_of_mem _ (ih _ h)
    · exact List.mem_cons_of_mem _ (ih _ h)

section Fence
variable {s : State} {p : PortId} {cause : Byte}

theorem exec_fenceSymbol_lost (h : s.canSymbol p = false) : exec (.fenceSymbol p cause) s = .next s :=
  congrArg Host.Outcome.next (if_pos (by rw [h]; rfl))

theorem exec_fenceSymbol_live (h : s.canSymbol p = true) (hl : s.portIs p = 4) : exec (.fenceSymbol p cause) s =
    .next (if cause.toNat = 5 then (s.farDiffer (s.comparedOn p)).2.fence p cause.toNat (s.farDiffer (s.comparedOn p)).1 else s.fence p cause.toNat []) :=
  congrArg Host.Outcome.next ((if_neg (by rw [h]; exact Bool.false_ne_true)).trans (if_pos ((live_iff s p).mpr hl)))

theorem exec_fenceSymbol_training (h : s.canSymbol p = true) (h2 : s.portIs p = 2) : exec (.fenceSymbol p cause) s =
    .next ((s.setPortWith p 3 [(.CAUSE, cause.toNat)]).setPort p PortSt.idle) :=
  congrArg Host.Outcome.next ((if_neg (by rw [h]; exact Bool.false_ne_true)).trans
    ((if_neg (by rw [live_eq_false s (by omega)]; exact Bool.false_ne_true)).trans (if_pos h2)))

theorem exec_fenceSymbol_other (h : s.canSymbol p = true) (h2 : s.portIs p ≠ 2) (h4 : s.portIs p ≠ 4) : exec (.fenceSymbol p cause) s = .next s :=
  congrArg Host.Outcome.next ((if_neg (by rw [h]; exact Bool.false_ne_true)).trans
    ((if_neg (by rw [live_eq_false s h4]; exact Bool.false_ne_true)).trans (if_neg h2)))

/-- A FENCE on a LIVE port fences it with the far end's cause. -/
theorem fenceSymbol_fences (h : s.canSymbol p = true) (hl : s.portIs p = 4) :
    (cause ≠ 5 → exec (.fenceSymbol p cause) s = .next (s.fence p cause.toNat [])) ∧
    (cause = 5 → ∀ d u, s.farDiffer (s.comparedOn p) = (d, u) → exec (.fenceSymbol p cause) s = .next (u.fence p 5 d) ∧ ∀ c ∈ d, c ∈ s.comparedOn p) := by
  refine ⟨fun hc => ?_, fun hc d u hd => ?_⟩
  · have h5 : cause.toNat ≠ 5 := fun h5 => hc (BitVec.eq_of_toNat_eq h5)
    rw [exec_fenceSymbol_live h hl, if_neg h5]
  · have h5 : cause.toNat = 5 := by rw [hc]; rfl
    have hmem : ∀ c ∈ (s.farDiffer (s.comparedOn p)).1, c ∈ s.comparedOn p := fun _ => mem_farDiffer s
    rw [exec_fenceSymbol_live h hl, if_pos h5, h5]
    rw [hd] at hmem ⊢
    exact ⟨rfl, hmem⟩

theorem quarantined_shows (s : State) {p cause : Nat} (hp : p < 16) (hc : cause < 256) :
    let t := (s.setPortWith p 3 [(.CAUSE, cause)]).setPort p PortSt.idle
    t.portIs p = 3 ∧ t.fld (.portState p) .CAUSE = cause := by
  have hl : ∀ e ∈ [(FName.CAUSE, cause)], hasField (.portState p) e.1 = true := by simp; rfl
  refine ⟨(portIs_setPort ..).trans (portIs_setPortWith s _ hp hl (by simp) (by decide)), ?_⟩
  refine (fld_congr (reg_setPort ..) _).trans ((fld_setPortWith s _ hp hl (by simp) (v := cause) (by simp)).trans ?_)
  rw [(pos_portState p).2.1]
  exact Nat.mod_eq_of_lt hc

end Fence

end Control

/-! ### TEST (R389, R390) -/

/-- Generator and checker 0 of one link as TEST sets them. -/
def testLink (start : Bool) (mode path : Nat) (s : State) (l : Nat) : State :=
  s.setFlds (.linkPg (l / 8) (l % 8) 0) [(.ENABLE, if start then 1 else 0), (.MODE, mode), (.PATH, path), (.LANES, 0xF), (.LOCKED, 0)]

/-- Those of every link that is the port's own. -/
def tested (s : State) (p : Nat) (start : Bool) (mode path : Nat) : State := (s.ownLinks p).foldl (testLink start mode path) s

section Test
variable {s : State} {p : PortId} {start : Bool} {mode : BitVec 3} {path : BitVec 2}

theorem exec_test_lost (h : s.canSymbol p = false) : exec (.test p start mode path) s = .next s :=
  congrArg Host.Outcome.next (if_pos (by rw [h]; rfl))

/-- The state that a TEST symbol first brings its port to. -/
def entersTest (s : State) (p : Nat) (start : Bool) : State := if start then s.ctrlTest p else s

theorem exec_test_taken (h : s.canSymbol p = true) (h7 : (entersTest s p start).portIs p = 7) :
    exec (.test p start mode path) s = .next (tested (entersTest s p start) p start mode.toNat path.toNat) :=
  congrArg Host.Outcome.next ((if_neg (by rw [h]; exact Bool.false_ne_true)).trans (if_neg (not_not_intro h7)))

theorem exec_test_refused (h : s.canSymbol p = true) (h7 : (entersTest s p start).portIs p ≠ 7) :
    exec (.test p start mode path) s = .next (entersTest s p start) :=
  congrArg Host.Outcome.next ((if_neg (by rw [h]; exact Bool.false_ne_true)).trans (if_pos h7))

theorem addr_linkPg0_ne {l m : Nat} (h : l ≠ m) : (Reg.linkPg (l / 8) (l % 8) 0).addr ≠ (Reg.linkPg (m / 8) (m % 8) 0).addr := by
  rw [addr_linkPg, addr_linkPg]; omega

theorem hasField_linkPg (d i g e m v pa la lo : Nat) : ∀ x ∈ [(FName.ENABLE, e), (.MODE, m), (.INV, v), (.PATH, pa), (.LANES, la), (.LOCKED, lo)],
    hasField (.linkPg d i g) x.1 = true := by simp; and_intros <;> rfl

theorem hasField_testLink (l e m pa : Nat) : ∀ x ∈ [(FName.ENABLE, e), (.MODE, m), (.PATH, pa), (.LANES, 0xF), (.LOCKED, 0)],
    hasField (.linkPg (l / 8) (l % 8) 0) x.1 = true := by simp; and_intros <;> rfl

theorem pos_linkPg (d i g : Nat) : (Reg.linkPg d i g).pos .ENABLE = (63, 63) ∧ (Reg.linkPg d i g).pos .MODE = (62, 60) ∧ (Reg.linkPg d i g).pos .PATH = (58, 57) ∧
    (Reg.linkPg d i g).pos .LANES = (55, 52) ∧ (Reg.linkPg d i g).pos .LOCKED = (51, 48) := ⟨rfl, rfl, rfl, rfl, rfl⟩

/-- What the generator of a link then reads. -/
def TestReads (s : State) (l : Nat) (start : Bool) (mode path : Nat) : Prop := s.flag (.linkPg (l / 8) (l % 8) 0) .ENABLE = start ∧
  s.fld (.linkPg (l / 8) (l % 8) 0) .MODE = mode ∧ s.fld (.linkPg (l / 8) (l % 8) 0) .PATH = path

theorem testLink_reads (s : State) (l : Nat) (start : Bool) {mode path : Nat} (hm : mode < 8) (hpa : path < 4) :
    TestReads (testLink start mode path s l) l start mode path := by
  obtain ⟨he, hmo, hpo, -, -⟩ := pos_linkPg (l / 8) (l % 8) 0
  have hl := hasField_testLink l (if start then 1 else 0) mode path
  refine ⟨?_, ?_, ?_⟩
  · rw [State.flag, testLink, fld_setFlds_of_mem _ _ hl (by simp) (v := if start then 1 else 0) (by simp), he]
    cases start <;> rfl
  · rw [testLink, fld_setFlds_of_mem _ _ hl (by simp) (v := mode) (by simp), hmo]
    exact Nat.mod_eq_of_lt hm
  · rw [testLink, fld_setFlds_of_mem _ _ hl (by simp) (v := path) (by simp), hpo]
    exact Nat.mod_eq_of_lt hpa

theorem tested_reads (s : State) (p : Nat) (start : Bool) {mode path : Nat} (hm : mode < 8) (hpa : path < 4) {l : Nat} (hl : l ∈ s.ownLinks p) :
    TestReads (tested s p start mode path) l start mode path := by
  refine foldl_reaches (f := testLink start mode path) (P := fun s => TestReads s l start mode path) hl
    (fun s => testLink_reads s l start hm hpa) (fun s m h => ?_) s
  by_cases hlm : l = m
  · rw [← hlm]; exact testLink_reads s l start hm hpa
  · have hreg : (testLink start mode path s m).reg (.linkPg (l / 8) (l % 8) 0) = s.reg (.linkPg (l / 8) (l % 8) 0) :=
      reg_setFlds_other s _ (addr_linkPg0_ne hlm)
    rw [TestReads, flag_congr hreg, fld_congr hreg, fld_congr hreg]
    exact h

theorem portIs_tested (s : State) (p : PortId) (start : Bool) (mode path : Nat) : (tested s p start mode path).portIs p = s.portIs p :=
  portIs_congr (foldl_same (f := testLink start mode path) (·.reg (.portState p))
    (fun s l _ => reg_setFlds_other s _ (by rw [addr_portState, addr_linkPg]; omega)) s)

/-- The port is in TEST, by its state or by a start where Table 12-5 allows it; its own links are those it had. -/
theorem entersTest_shows (h : s.portIs p = 7 ∨ (start = true ∧ s.portIs p ∈ [0, 1, 3, 6])) :
    (entersTest s p start).portIs p = 7 ∧ (entersTest s p start).ownLinks p = s.ownLinks p := by
  unfold entersTest
  by_cases hin : start = true ∧ s.portIs p ∈ [0, 1, 3, 6]
  · obtain ⟨hs, hm⟩ := hin
    rw [if_pos hs, ctrlTest_eq, if_pos hm]
    exact ⟨(setPortState_shows s p.isLt (by decide)).1, ownLinks_congr p.isLt fun q hq => portCfg_setPortWith s [] p.isLt hq 7⟩
  · have h7 := h.resolve_right hin
    cases start with
    | false => exact ⟨h7, rfl⟩
    | true =>
      rw [if_pos rfl, ctrlTest_eq, if_neg fun h => hin ⟨rfl, h⟩]
      exact ⟨h7, rfl⟩

theorem entersTest_refused (h : start = false ∨ s.portIs p ∉ [0, 1, 3, 6]) : entersTest s p start = s := by
  unfold entersTest
  rcases h with h | h
  · rw [h, if_neg Bool.false_ne_true]
  · rw [ctrlTest_eq, if_neg h, ite_self]

theorem test_shows (hc : s.canSymbol p = true) (h : s.portIs p = 7 ∨ (start = true ∧ s.portIs p ∈ [0, 1, 3, 6])) :
    ∃ t, exec (.test p start mode path) s = .next t ∧ t.portIs p = 7 ∧ ∀ l ∈ s.ownLinks p, TestReads t l start mode.toNat path.toNat := by
  obtain ⟨h7, hown⟩ := entersTest_shows h
  exact ⟨_, exec_test_taken hc h7, (portIs_tested ..).trans h7, fun l hl => tested_reads _ p start mode.isLt path.isLt (hown ▸ hl)⟩

theorem test_ignored (h : s.canSymbol p = false ∨ (s.portIs p ≠ 7 ∧ (start = false ∨ s.portIs p ∉ [0, 1, 3, 6]))) :
    exec (.test p start mode path) s = .next s := by
  cases hc : s.canSymbol p with
  | false => exact exec_test_lost hc
  | true =>
    obtain ⟨h7, hin⟩ := h.resolve_left (by rw [hc]; exact Bool.true_eq_false.mp)
    have he := entersTest_refused hin
    rw [exec_test_refused hc (by rw [he]; exact h7), he]

end Test

/-! ### The steps of training (R375, Table 12-6) -/

section Steps
variable {s : State} {p : PortId}

theorem exec_trainingStepTimeout_idle (h : s.portIs p ≠ 2 ∨ (s.port p).passed = true) : exec (.trainingStepTimeout p) s = .next s :=
  congrArg Host.Outcome.next (if_pos (by rcases h with h | h <;> simp [h]))

theorem trainingStepTimeout_again (h2 : s.portIs p = 2) (hp : (s.port p).passed = false) (ha : (s.port p).attempts < 3) :
    ∃ t, exec (.trainingStepTimeout p) s = .next t ∧ t.portIs p = 2 ∧ t.fld (.portState p) .STEP = 1 ∧ (t.port p).attempts = (s.port p).attempts + 1 := by
  have hl : ∀ e ∈ [(FName.STEP, 1)], hasField (.portState p) e.1 = true := by simp; rfl
  refine ⟨_, congrArg Host.Outcome.next ((if_neg (by simp [h2, hp])).trans (if_pos ha)), ?_, ?_, congrArg PortSt.attempts (port_setPort_same ..)⟩
  · exact (portIs_setPort ..).trans ((fld_portFields_of_not_mem s _ p.isLt hl rfl (by simp)).trans h2)
  · exact (fld_congr (reg_setPort ..) _).trans (fld_portFields_of_mem s _ p.isLt hl (by simp) (v := 1) (by simp))

theorem exec_trainingStepTimeout_last (h2 : s.portIs p = 2) (hp : (s.port p).passed = false) (ha : 3 ≤ (s.port p).attempts) :
    exec (.trainingStepTimeout p) s = .next (s.goDown p 9) :=
  congrArg Host.Outcome.next ((if_neg (by simp [h2, hp])).trans (if_neg (by omega)))

theorem exec_trainingStepDone_idle (found : List LinkAlign) (h : s.portIs p ≠ 2 ∨ s.fld (.portState p) .STEP = 0 ∨ 4 ≤ s.fld (.portState p) .STEP) :
    exec (.trainingStepDone p found) s = .next s := congrArg Host.Outcome.next (if_pos (by simpa [or_assoc] using h))

theorem trainingStepDone_early (found : List LinkAlign) (h2 : s.portIs p = 2) (h : s.fld (.portState p) .STEP = 1 ∨ s.fld (.portState p) .STEP = 2) :
    ∃ t, exec (.trainingStepDone p found) s = .next t ∧ t.fld (.portState p) .STEP = s.fld (.portState p) .STEP + 1 ∧ t.portIs p = 2 := by
  have hl : ∀ e ∈ [(FName.STEP, s.fld (.portState p) .STEP + 1)], hasField (.portState p) e.1 = true := by simp; rfl
  have hgo : ¬ (decide (s.portIs p ≠ 2) || decide (s.fld (.portState p) .STEP = 0) || decide (4 ≤ s.fld (.portState p) .STEP)) = true := by
    simp only [Bool.or_eq_true, decide_eq_true_eq]; omega
  refine ⟨_, congrArg Host.Outcome.next ((if_neg hgo).trans (if_pos (by omega))), ?_, ?_⟩
  · refine (fld_portFields_of_mem s _ p.isLt hl (by simp) (v := s.fld (.portState p) .STEP + 1) (by simp)).trans ?_
    rw [(pos_portState p).2.2.1]
    exact Nat.mod_eq_of_lt (by have : (2 : Nat) ^ ((15, 12).1 + 1 - (15, 12).2) = 16 := rfl; omega)
  · exact (fld_portFields_of_not_mem s _ p.isLt hl rfl (by simp)).trans h2

/-- One link as ALIGN leaves it. -/
def alignStep (s : State) (x : Nat × LinkAlign) : State := s.alignLink x.1 x.2

theorem reg_alignStep (s : State) (x : Nat × LinkAlign) {q : Reg} (h : ∀ l, q.addr ≠ (linkStateReg l).addr) : (alignStep s x).reg q = s.reg q := by
  rw [alignStep, State.alignLink, reg_setLink]
  exact reg_setFlds_other (r := linkStateReg x.1) s _ (h x.1)

/-- The links of a port as ALIGN leaves them. -/
def aligned (s : State) (p : Nat) (found : List LinkAlign) : State := ((s.portLinks p).zip found).foldl alignStep s

theorem reg_aligned (s : State) (p : Nat) (found : List LinkAlign) {q : Reg} (h : ∀ l, q.addr ≠ (linkStateReg l).addr) :
    (aligned s p found).reg q = s.reg q :=
  foldl_same (f := alignStep) (·.reg q) (fun s x _ => reg_alignStep s x h) s

/-- LAG fixed and HANDSHAKE begun. -/
def handshakes (s : State) (p lag : Nat) : State :=
  (s.portFields p [(.STEP, 4), (.LAG, lag)]).setPort p { (s.portFields p [(.STEP, 4), (.LAG, lag)]).port p with
    record := (s.portFields p [(.STEP, 4), (.LAG, lag)]).recordHash, agreed := [], passed := false }

/-- The mean delay of a port's links. -/
def meanDelay (s : State) (p : Nat) : Nat := ((s.portLinks p).map fun l => (s.link l).delay).sum / ((s.portLinks p).map fun l => (s.link l).delay).length

theorem exec_trainingStepDone_align (found : List LinkAlign) (h2 : s.portIs p = 2) (h : s.fld (.portState p) .STEP = 3) :
    exec (.trainingStepDone p found) s = .next ((handshakes (aligned s p found) p (lagOf (meanDelay (aligned s p found) p))).sendHandshake p) := by
  have hgo : ¬ (decide (s.portIs p ≠ 2) || decide (s.fld (.portState p) .STEP = 0) || decide (4 ≤ s.fld (.portState p) .STEP)) = true := by
    simp only [Bool.or_eq_true, decide_eq_true_eq]; omega
  exact congrArg Host.Outcome.next ((if_neg hgo).trans (if_neg (by omega)))

theorem links_portFields (s : State) (p : Nat) (fs : List (FName × Nat)) : (s.portFields p fs).links = s.links := by
  have h := events_portFields s fs p
  rw [Events] at h
  rw [h]

theorem recordHash_setPort (s : State) (p : Nat) (k : PortSt) : (s.setPort p k).recordHash = s.recordHash := rfl

theorem handshakes_shows (s : State) {p : Nat} (hp : p < 16) (lag : Nat) : let u := handshakes s p lag
    u.fld (.portState p) .STEP = 4 ∧ u.portIs p = s.portIs p ∧ u.fld (.portState p) .LAG = lag % 16 ∧ u.links = s.links ∧
    (u.port p).record = u.recordHash ∧ (u.port p).agreed = [] ∧ (u.port p).passed = false := by
  have hl : ∀ e ∈ [(FName.STEP, 4), (.LAG, lag)], hasField (.portState p) e.1 = true := by simp; and_intros <;> rfl
  have hstep := fld_portFields_of_mem s _ hp hl (by simp) (f := .STEP) (v := 4) (by simp)
  have hlag := fld_portFields_of_mem s _ hp hl (by simp) (f := .LAG) (v := lag) (by simp)
  have hstate := fld_portFields_of_not_mem s _ hp hl (f := .STATE) rfl (by simp)
  have hlinks := links_portFields s p [(.STEP, 4), (.LAG, lag)]
  rw [(pos_portState p).2.2.1] at hstep
  rw [(pos_portState p).2.2.2.1] at hlag
  dsimp only
  rw [handshakes, port_setPort_same, recordHash_setPort]
  generalize s.portFields p [(.STEP, 4), (.LAG, lag)] = u at hstep hlag hstate hlinks
  exact ⟨hstep, hstate, hlag, hlinks, rfl, rfl, rfl⟩

theorem trainingStepDone_align (found : List LinkAlign) (h2 : s.portIs p = 2) (h : s.fld (.portState p) .STEP = 3) :
    ∃ u : State, exec (.trainingStepDone p found) s = .next (u.sendHandshake p) ∧ u.fld (.portState p) .STEP = 4 ∧ u.portIs p = 2 ∧
      (let ds := (s.portLinks p).map fun l => (u.link l).delay
       u.fld (.portState p) .LAG = lagOf (ds.sum / ds.length) % 16) ∧
      (u.port p).record = u.recordHash ∧ (u.port p).agreed = [] ∧ (u.port p).passed = false := by
  obtain ⟨hstep, hport, hlag, hlinks, hrest⟩ := handshakes_shows (aligned s p found) p.isLt (lagOf (meanDelay (aligned s p found) p))
  have hcfg : (aligned s p found).portLinks p = s.portLinks p := portLinks_congr (reg_aligned s p found (portReg_ne_linkState p.isLt (.inl (addr_portCfg p))))
  have h2' : (aligned s p found).portIs p = 2 := (portIs_congr (reg_aligned s p found (portReg_ne_linkState p.isLt (.inr (addr_portState p))))).trans h2
  refine ⟨_, exec_trainingStepDone_align found h2 h, hstep, hport.trans h2', ?_, hrest⟩
  have hlink : ∀ l, (handshakes (aligned s p found) p (lagOf (meanDelay (aligned s p found) p))).link l = (aligned s p found).link l := fun l => by
    rw [State.link, hlinks, State.link]
  dsimp only
  simp only [hlink]
  rw [hlag, meanDelay, hcfg]

end Steps

end Sys2Proof.Proofs
end

section
/-!
The links of a port: the handshake that ends its training, the relock of either end, lane errors, and pattern generators and checkers
(R367, R374, R387, R389, R390, R396).
-/
namespace Sys2Proof.Proofs
open Sys2Proof.Machine Sys2Proof.Laws Sys2Proof.Claims

/-! ### A handshake frame (R374) -/

section Handshake
variable {l : LinkId} {far : BitVec 2} {f : FrameFields} {s : State} {p : Nat}

theorem exec_handshakeFrame_none (h : s.portOfLink l = none) : exec (.handshakeFrame l far f) s = .next s := by
  refine congrArg Host.Outcome.next ?_
  rw [h]

/-- What a frame shows of the far end. -/
def seenFields (f : FrameFields) (port : Nat) : List (FName × Nat) := [(.FAR_X, f.x.toNat), (.FAR_Y, f.y.toNat), (.FAR_PORT, port)]

/-- The links that have agreed once one more has. -/
def agreedWith (l : List Nat) (x : Nat) : List Nat := if l.contains x then l else l ++ [x]

/-- The record of a port one of whose links agrees. -/
def agrees (s : State) (p l far : Nat) : PortSt :=
  { s.port p with agreed := agreedWith (s.port p).agreed l, farStopped := far < 2, passed := (s.portLinks p).all fun x => (agreedWith (s.port p).agreed l).contains x }

section Taken
variable (hp : s.portOfLink l = some p)
include hp

theorem exec_handshakeFrame_idle (h : s.portIs p ≠ 2 ∨ s.fld (.portState p) .STEP ≠ 4 ∨ (s.port p).passed = true) :
    exec (.handshakeFrame l far f) s = .next s := by
  refine congrArg Host.Outcome.next ?_
  rw [hp]
  exact if_pos (by simpa [or_assoc] using h)

variable (h2 : s.portIs p = 2) (h4 : s.fld (.portState p) .STEP = 4) (hpass : (s.port p).passed = false)
include h2 h4 hpass

/-- The first difference quarantines the port. -/
theorem exec_handshakeFrame_differs {cause : Nat} (hc : (s.freeNat 4).2.handshakeCause p l far.toNat f = some cause) : exec (.handshakeFrame l far f) s =
    .next ((((s.freeNat 4).2.sendFence p cause).setPortWith p 3 ((.CAUSE, cause) :: seenFields f (s.freeNat 4).1)).setPort p PortSt.idle) := by
  refine congrArg Host.Outcome.next ?_
  rw [hp]
  refine (if_neg (by simp [h2, h4, hpass])).trans ?_
  dsimp only
  rw [hc]
  rfl

/-- A frame that agrees is kept; the last one ends training. -/
theorem exec_handshakeFrame_agrees (hc : (s.freeNat 4).2.handshakeCause p l far.toNat f = none) : exec (.handshakeFrame l far f) s =
    .next (
      let t := (s.freeNat 4).2.setPort p (agrees s p l far.toNat)
      if (agrees s p l far.toNat).passed && far = 0 && t.strokeState = 0 then
        (t.setPortWith p 4 (seenFields f (s.freeNat 4).1)).setPort p { t.port p with passed := false }
      else t.portFields p (seenFields f (s.freeNat 4).1)) := by
  refine congrArg Host.Outcome.next ?_
  rw [hp]
  refine (if_neg (by simp [h2, h4, hpass])).trans ?_
  dsimp only
  rw [hc]
  rfl

end Taken

theorem hasField_seen (f : FrameFields) (p port : Nat) : ∀ e ∈ seenFields f port, hasField (.portState p) e.1 = true := by
  simp [seenFields]; and_intros <;> rfl

theorem hasField_causeSeen (f : FrameFields) (p port cause : Nat) : ∀ e ∈ (FName.CAUSE, cause) :: seenFields f port, hasField (.portState p) e.1 = true :=
  List.forall_mem_cons.mpr ⟨rfl, hasField_seen f p port⟩

/-- The far end's place reads back. -/
theorem seen_setPortWith (t : State) (hp : p < 16) (st port : Nat) (fs : List (FName × Nat)) (hl : ∀ e ∈ fs ++ seenFields f port, hasField (.portState p) e.1 = true)
    (hn : ((fs ++ seenFields f port).map Prod.fst ++ [FName.STATE, .STEP, .LINKS_UP]).Nodup) :
    (t.setPortWith p st (fs ++ seenFields f port)).fld (.portState p) .FAR_X = f.x.toNat ∧
    (t.setPortWith p st (fs ++ seenFields f port)).fld (.portState p) .FAR_Y = f.y.toNat := by
  obtain ⟨-, -, -, -, hx, hy⟩ := pos_portState p
  rw [fld_setPortWith t _ hp hl hn (v := f.x.toNat) (by simp [seenFields]), fld_setPortWith t _ hp hl hn (v := f.y.toNat) (by simp [seenFields]), hx, hy]
  exact ⟨Nat.mod_eq_of_lt f.x.isLt, Nat.mod_eq_of_lt f.y.isLt⟩

theorem seen_portFields (t : State) (hp : p < 16) (port : Nat) : (t.portFields p (seenFields f port)).fld (.portState p) .FAR_X = f.x.toNat ∧
    (t.portFields p (seenFields f port)).fld (.portState p) .FAR_Y = f.y.toNat := by
  obtain ⟨-, -, -, -, hx, hy⟩ := pos_portState p
  rw [fld_portFields_of_mem t _ hp (hasField_seen f p port) (by simp [seenFields]) (v := f.x.toNat) (by simp [seenFields]),
    fld_portFields_of_mem t _ hp (hasField_seen f p port) (by simp [seenFields]) (v := f.y.toNat) (by simp [seenFields]), hx, hy]
  exact ⟨Nat.mod_eq_of_lt f.x.isLt, Nat.mod_eq_of_lt f.y.isLt⟩

/-- A difference is a cause of Table 12-6. -/
theorem handshakeCause_lt {k cause : Nat} (h : s.handshakeCause p k far.toNat f = some cause) : cause < 256 := by
  unfold State.handshakeCause at h
  dsimp only at h
  split_ifs at h <;> exact Option.some.inj h ▸ by decide

theorem canSymbol_freeNat (s : State) (n p : Nat) : (s.freeNat n).2.canSymbol p = s.canSymbol p := rfl

theorem port_of_relinked {s t : State} (h : Relinked s t) (p : Nat) : t.port p = s.port p := port_of_ports h.shows.1 p

theorem handshake_quarantines (hp : s.portOfLink l = some p) (hlt : p < 16) (h2 : s.portIs p = 2) (h4 : s.fld (.portState p) .STEP = 4)
    (hpass : (s.port p).passed = false) {cause : Nat} (hc : (s.freeNat 4).2.handshakeCause p l far.toNat f = some cause) :
    ∃ t, exec (.handshakeFrame l far f) s = .next t ∧ t.portIs p = 3 ∧ t.fld (.portState p) .CAUSE = cause ∧ t.fld (.portState p) .FAR_X = f.x.toNat ∧
      t.fld (.portState p) .FAR_Y = f.y.toNat ∧ (s.canSymbol p = true → .symbol p 0x04 cause ∈ t.outbox) := by
  have hl := hasField_causeSeen f p (s.freeNat 4).1 cause
  have hn : (((FName.CAUSE, cause) :: seenFields f (s.freeNat 4).1).map Prod.fst ++ [FName.STATE, .STEP, .LINKS_UP]).Nodup := by simp [seenFields]
  refine ⟨_, exec_handshakeFrame_differs hp h2 h4 hpass hc, (portIs_setPort ..).trans (portIs_setPortWith _ _ hlt hl hn (by decide)), ?_, ?_, ?_, fun hcan => ?_⟩
  · refine (fld_congr (reg_setPort ..) _).trans ((fld_setPortWith _ _ hlt hl hn (v := cause) (by simp)).trans ?_)
    rw [(pos_portState p).2.1]
    exact Nat.mod_eq_of_lt (handshakeCause_lt hc)
  · exact (fld_congr (reg_setPort ..) _).trans (seen_setPortWith _ hlt 3 _ [(.CAUSE, cause)] hl hn).1
  · exact (fld_congr (reg_setPort ..) _).trans (seen_setPortWith _ hlt 3 _ [(.CAUSE, cause)] hl hn).2
  · rw [outbox_setPort]
    refine (outbox_setPortWith_prefix ..).subset ?_
    rw [State.sendFence, outbox_symbol_sent ((canSymbol_freeNat ..).trans hcan) (by simp [symbolOk])]
    exact List.mem_append_right _ (List.mem_singleton_self _)

/-- The port that has agreed on every link of two STOPPED ends is LIVE; any other goes on training. -/
theorem handshake_agrees (hp : s.portOfLink l = some p) (hlt : p < 16) (h2 : s.portIs p = 2) (h4 : s.fld (.portState p) .STEP = 4)
    (hpass : (s.port p).passed = false) (hc : (s.freeNat 4).2.handshakeCause p l far.toNat f = none) :
    let agreed := agreedWith (s.port p).agreed l
    let all := (s.portLinks p).all fun x => agreed.contains x
    ∃ t, exec (.handshakeFrame l far f) s = .next t ∧ (t.port p).agreed = agreed ∧ t.fld (.portState p) .FAR_X = f.x.toNat ∧
      t.fld (.portState p) .FAR_Y = f.y.toNat ∧
      (all = true → far = 0 → s.strokeState = 0 → t.portIs p = 4) ∧
      (¬ (all = true ∧ far = 0 ∧ s.strokeState = 0) → t.portIs p = 2 ∧ (t.port p).passed = all) := by
  dsimp only
  rw [exec_handshakeFrame_agrees hp h2 h4 hpass hc]
  dsimp only
  have hstroke : ((s.freeNat 4).2.setPort p (agrees s p l far.toNat)).strokeState = s.strokeState := rfl
  have hstate : ((s.freeNat 4).2.setPort p (agrees s p l far.toNat)).portIs p = s.portIs p := rfl
  have hport : ((s.freeNat 4).2.setPort p (agrees s p l far.toNat)).port p = agrees s p l far.toNat := port_setPort_same ..
  generalize (s.freeNat 4).2.setPort p (agrees s p l far.toNat) = t at hstroke hstate hport
  generalize (s.freeNat 4).1 = port
  have hall : (agrees s p l far.toNat).passed = (s.portLinks p).all fun x => (agreedWith (s.port p).agreed l).contains x := rfl
  by_cases hlive : (agrees s p l far.toNat).passed = true ∧ far = 0 ∧ s.strokeState = 0
  · have hn : ((seenFields f port).map Prod.fst ++ [FName.STATE, .STEP, .LINKS_UP]).Nodup := by simp [seenFields]
    obtain ⟨hx, hy⟩ := seen_setPortWith t hlt 4 port [] (hasField_seen f p port) hn
    rw [if_pos (by simpa [hstroke, and_assoc] using hlive), hport]
    refine ⟨_, rfl, ?_, (fld_congr (reg_setPort ..) _).trans hx, (fld_congr (reg_setPort ..) _).trans hy, fun _ _ _ => ?_, fun h => absurd hlive h⟩
    · rw [port_setPort_same, agrees]
    · exact (portIs_setPort ..).trans (portIs_setPortWith t _ hlt (hasField_seen f p port) hn (by decide))
  · obtain ⟨hx, hy⟩ := seen_portFields (f := f) t hlt port
    have hkeep : (t.portFields p (seenFields f port)).port p = agrees s p l far.toNat :=
      (port_of_relinked (relinked_of_events (events_portFields ..)) p).trans hport
    rw [if_neg (by simpa [hstroke, and_assoc] using hlive)]
    refine ⟨_, rfl, by rw [hkeep, agrees], hx, hy, fun ha hf hs => absurd ⟨ha, hf, hs⟩ hlive, fun _ => ⟨?_, by rw [hkeep, agrees]⟩⟩
    exact (fld_portFields_of_not_mem t _ hlt (hasField_seen f p port) rfl (by simp [seenFields])).trans (hstate.trans h2)

end Handshake

/-! ### Relock (R387, R396) -/

section Relock
variable {l : LinkId} {s : State} {p : Nat}

theorem exec_farLink_none (h : s.portOfLink (wiredLink l) = none) : exec (.relock l) s = .next s ∧ exec (.relocked l) s = .next s := by
  have hf : ∀ b, s.farLink l b = s := fun b => by rw [State.farLink, h]
  exact ⟨congrArg Host.Outcome.next (hf true), congrArg Host.Outcome.next (hf false)⟩

theorem exec_farLink_lost (hp : s.portOfLink (wiredLink l) = some p) (h : s.live p = false ∨ s.canSymbol p = false) :
    exec (.relock l) s = .next s ∧ exec (.relocked l) s = .next s := by
  have hf : ∀ b, s.farLink l b = s := fun b => by
    rw [State.farLink, hp]
    exact if_pos (by rcases h with h | h <;> simp [h])
  exact ⟨congrArg Host.Outcome.next (hf true), congrArg Host.Outcome.next (hf false)⟩

theorem exec_farLink_taken (hp : s.portOfLink (wiredLink l) = some p) (hl : s.live p = true) (hc : s.canSymbol p = true) :
    exec (.relock l) s = .next (s.setLink (wiredLink l) { s.link (wiredLink l) with farRelock := true }) ∧
    exec (.relocked l) s = .next ((s.setLink (wiredLink l) { s.link (wiredLink l) with farRelock := false }).resumeHeld p) := by
  have hf : ∀ b, s.farLink l b = if b then s.setLink (wiredLink l) { s.link (wiredLink l) with farRelock := b }
      else (s.setLink (wiredLink l) { s.link (wiredLink l) with farRelock := b }).resumeHeld p := fun b => by
    rw [State.farLink, hp]
    exact if_neg (by simp [hl, hc])
  exact ⟨congrArg Host.Outcome.next ((hf true).trans (if_pos rfl)), congrArg Host.Outcome.next ((hf false).trans (if_neg Bool.false_ne_true))⟩

theorem exec_relockStart_none (h : s.portOfLink l = none) (us : W16) : exec (.relockStart l us) s = .next s := by
  refine congrArg Host.Outcome.next ?_
  rw [h]

theorem exec_lockReturn_none (h : s.portOfLink l = none) : exec (.lockReturn l) s = .next s := by
  refine congrArg Host.Outcome.next ?_
  rw [h]

theorem exec_relockTimeout_none (h : s.portOfLink l = none) : exec (.relockTimeout l) s = .next s := by
  refine congrArg Host.Outcome.next ?_
  rw [h]

theorem exec_relockStart_refused (hp : s.portOfLink l = some p) (us : W16)
    (h : s.live p = false ∨ (s.link l).relock ≠ none ∨ ∃ r ∈ s.slots, r.begun = true ∧ r.e.onPort p = true) : exec (.relockStart l us) s = .next s := by
  refine congrArg Host.Outcome.next ?_
  rw [hp]
  refine if_pos ?_
  rw [Bool.or_eq_true, Bool.or_eq_true, List.any_eq_true, Option.isSome_iff_ne_none, or_assoc]
  simpa using h

/-- A relock begun: RELOCK sent, the link RELOCKING and counted. -/
def relockBegun (s : State) (p l us : Nat) : State :=
  (((s.symbol p 0x02 (l ||| us <<< 8)).setFld (linkStateReg l) .STATE 4).addFld (linkRelockReg l) .COUNT 1).setLink l { s.link l with relock := some s.time }

theorem link_symbol (s : State) (p code x l : Nat) : (s.symbol p code x).link l = s.link l := by rw [symbol_eq]; rfl
theorem time_symbol (s : State) (p code x : Nat) : (s.symbol p code x).time = s.time := by rw [symbol_eq]
theorem reg_symbol (s : State) (p code x : Nat) (q : Reg) : (s.symbol p code x).reg q = s.reg q := by rw [State.reg, regs_symbol, State.reg]

theorem exec_relockStart_taken (hp : s.portOfLink l = some p) (us : W16) (hl : s.live p = true) (hr : (s.link l).relock = none)
    (hs : ∀ r ∈ s.slots, r.begun = true → r.e.onPort p = false) : exec (.relockStart l us) s = .next (relockBegun s p l us.toNat) := by
  have hnone : (s.slots.any fun r => r.begun && r.e.onPort p) = false := List.any_eq_false.mpr fun r hm => by
    rw [Bool.and_eq_true]
    exact fun h => Bool.false_ne_true ((hs r hm h.1).symm.trans h.2)
  refine congrArg Host.Outcome.next ?_
  rw [hp]
  refine (if_neg (by simp [hl, hr, hnone])).trans ?_
  rw [relockBegun, ← link_symbol s p 0x02 (l.val ||| us.toNat <<< 8), ← time_symbol s p 0x02 (l.val ||| us.toNat <<< 8)]
  rfl

theorem linkStateReg_ne_relock (l m : Nat) : (linkStateReg l).addr ≠ (linkRelockReg m).addr := by
  rw [addr_linkStateReg, addr_linkRelockReg]; omega

theorem outbox_setLink (s : State) (l : Nat) (k : LinkSt) : (s.setLink l k).outbox = s.outbox := rfl
theorem outbox_setFld (s : State) (r : Reg) (f : FName) (v : Nat) : (s.setFld r f v).outbox = s.outbox := rfl

theorem outbox_symbol_live (hl : s.live p = true) (code x : Nat) : (s.symbol p code x).outbox = s.outbox ++ if s.canSymbol p then [Output.symbol p code x] else [] := by
  have hok : symbolOk (s.portIs p) code = true := by rw [(live_iff s p).mp hl]; rfl
  split
  · next hc => exact outbox_symbol_sent hc hok x
  · next hc => rw [State.symbol, if_neg (by simp [hc]), List.append_nil]

theorem relockBegun_shows (hl : s.live p = true) (l us : Nat) : let t := relockBegun s p l us
    t.link l = { s.link l with relock := some s.time } ∧ t.fld (linkStateReg l) .STATE = 4 ∧
    t.fld (linkRelockReg l) .COUNT = (s.fld (linkRelockReg l) .COUNT + 1) % 2 ^ 32 ∧
    t.outbox = s.outbox ++ (if s.canSymbol p then [.symbol p 0x02 (l ||| us <<< 8)] else []) := by
  dsimp only
  rw [← outbox_symbol_live hl]
  refine ⟨link_setLink_same .., ?_, ?_, ?_⟩
  · rw [relockBegun, fld_congr (reg_setLink ..), State.addFld, fld_setFld_other _ _ _ _ (linkStateReg_ne_relock l l), fld_setFld]; rfl
  · rw [relockBegun, fld_congr (reg_setLink ..), State.addFld, fld_setFld, fld_setFld_other _ _ _ _ (linkStateReg_ne_relock l l).symm,
      fld_congr (reg_symbol ..)]
    rfl
  · rw [relockBegun, outbox_setLink, State.addFld, outbox_setFld, outbox_setFld]

/-- The microseconds of a relock, as LINK.RELOCK keeps them. -/
def relockUs (s : State) (t0 : Nat) : Nat := min ((s.time - t0) / 100) 0xFFFF

/-- A lock that returned: its duration kept, the link UP. -/
def lockKept (s : State) (l t0 : Nat) : State :=
  ((s.setFlds (linkRelockReg l) [(.LAST_US, relockUs s t0), (.MAX_US, max (relockUs s t0) (s.fld (linkRelockReg l) .MAX_US))]).setFld
    (linkStateReg l) .STATE 3).setLink l { s.link l with relock := none }

theorem exec_lockReturn_taken (hp : s.portOfLink l = some p) {t0 : Nat} (hr : (s.link l).relock = some t0) :
    exec (.lockReturn l) s = .next ((((lockKept s l t0).symbol p 0x03 l.val).sendLate l).resumeHeld p) := by
  have hlink : ∀ fs, (s.setFlds (linkRelockReg l) fs).link l = s.link l := fun fs => by rw [setFlds_eq]; rfl
  refine congrArg Host.Outcome.next ?_
  rw [hp, hr]
  dsimp only
  rw [lockKept, ← hlink [(.LAST_US, relockUs s t0), (.MAX_US, max (relockUs s t0) (s.fld (linkRelockReg l) .MAX_US))]]
  rfl

theorem hasField_relock (l a b : Nat) : ∀ e ∈ [(FName.LAST_US, a), (.MAX_US, b)], hasField (linkRelockReg l) e.1 = true := by
  simp; and_intros <;> rfl

theorem pos_linkRelock (l : Nat) : (linkRelockReg l).pos .LAST_US = (31, 16) ∧ (linkRelockReg l).pos .MAX_US = (15, 0) := ⟨rfl, rfl⟩

theorem lockKept_shows (s : State) (l t0 : Nat) : let u := lockKept s l t0
    u.link l = { s.link l with relock := none } ∧ u.fld (linkStateReg l) .STATE = 3 ∧ u.fld (linkRelockReg l) .LAST_US = relockUs s t0 ∧
    u.fld (linkRelockReg l) .MAX_US = max (relockUs s t0) (s.fld (linkRelockReg l) .MAX_US) := by
  obtain ⟨hlast, hmax⟩ := pos_linkRelock l
  have hus : relockUs s t0 < 2 ^ 16 := by have : relockUs s t0 ≤ 0xFFFF := Nat.min_le_right ..; omega
  have hold : s.fld (linkRelockReg l) .MAX_US < 2 ^ 16 := by
    have h := bits_lt (s.reg (linkRelockReg l)) 15 0
    rw [State.fld, hmax]; exact h
  have hreg : (lockKept s l t0).reg (linkRelockReg l) = (s.setFlds (linkRelockReg l)
      [(.LAST_US, relockUs s t0), (.MAX_US, max (relockUs s t0) (s.fld (linkRelockReg l) .MAX_US))]).reg (linkRelockReg l) := by
    rw [lockKept, reg_setLink, reg_setFld_other _ _ _ (linkStateReg_ne_relock l l).symm]
  have hl := hasField_relock l (relockUs s t0) (max (relockUs s t0) (s.fld (linkRelockReg l) .MAX_US))
  refine ⟨link_setLink_same .., ?_, ?_, ?_⟩
  · rw [lockKept, fld_congr (reg_setLink ..), fld_setFld]; rfl
  · rw [fld_congr hreg, fld_setFlds_of_mem _ _ hl (by simp) (v := relockUs s t0) (by simp), hlast]
    exact Nat.mod_eq_of_lt hus
  · rw [fld_congr hreg, fld_setFlds_of_mem _ _ hl (by simp) (v := max (relockUs s t0) (s.fld (linkRelockReg l) .MAX_US)) (by simp), hmax]
    exact Nat.mod_eq_of_lt (max_lt hus hold)

theorem exec_relockTimeout_taken (hp : s.portOfLink l = some p) {t0 : Nat} (hr : (s.link l).relock = some t0) :
    exec (.relockTimeout l) s = .next (if s.time < t0 + 100 * s.periodUs then s else s.goDown p 11) := by
  refine congrArg Host.Outcome.next ?_
  rw [hp, hr]

end Relock

/-! ### Lane errors (R367) -/

section Lanes

/-- Errors of one lane added into its 16-bit field. -/
def addLane (w : W64) (i e : Nat) : W64 := setBits w (16 * i + 15) (16 * i) (min (bits w (16 * i + 15) (16 * i) + e) 0xFFFF)

theorem addLanes_four (w : W64) (a b c d : Nat) : addLanes w [a, b, c, d] = addLane (addLane (addLane (addLane w 0 a) 1 b) 2 c) 3 d := rfl

theorem bits_addLane_same (w : W64) {i : Nat} (hi : i < 4) (e : Nat) :
    bits (addLane w i e) (16 * i + 15) (16 * i) = min (bits w (16 * i + 15) (16 * i) + e) 0xFFFF := by
  have h16 : 16 * i + 15 + 1 - 16 * i = 16 := by omega
  rw [addLane, bits_setBits_same _ _ _ _ (by omega) (by omega), h16]
  exact Nat.mod_eq_of_lt (Nat.lt_succ_of_le (Nat.min_le_right ..))

theorem bits_addLane_other (w : W64) {i j : Nat} (hj : j < 4) (h : j ≠ i) (e : Nat) :
    bits (addLane w i e) (16 * j + 15) (16 * j) = bits w (16 * j + 15) (16 * j) := by
  rw [addLane, bits_setBits_other _ _ (by omega) (by omega) (by omega)]

/-- Each lane's field holds its own sum. -/
theorem bits_addLanes (w : W64) (a b c d : Nat) : bits (addLanes w [a, b, c, d]) 15 0 = min (bits w 15 0 + a) 0xFFFF ∧
    bits (addLanes w [a, b, c, d]) 31 16 = min (bits w 31 16 + b) 0xFFFF ∧ bits (addLanes w [a, b, c, d]) 47 32 = min (bits w 47 32 + c) 0xFFFF ∧
    bits (addLanes w [a, b, c, d]) 63 48 = min (bits w 63 48 + d) 0xFFFF := by
  have same := fun w i (hi : i < 4) e => bits_addLane_same w hi e
  have other := fun w i j (hj : j < 4) (h : j ≠ i) e => bits_addLane_other w hj h e
  rw [addLanes_four]
  refine ⟨?_, ?_, ?_, ?_⟩
  · exact (other _ 3 0 (by decide) (by decide) d).trans ((other _ 2 0 (by decide) (by decide) c).trans
      ((other _ 1 0 (by decide) (by decide) b).trans (same w 0 (by decide) a)))
  · refine (other _ 3 1 (by decide) (by decide) d).trans ((other _ 2 1 (by decide) (by decide) c).trans ((same _ 1 (by decide) b).trans ?_))
    rw [other w 0 1 (by decide) (by decide) a]
  · refine (other _ 3 2 (by decide) (by decide) d).trans ((same _ 2 (by decide) c).trans ?_)
    rw [other _ 1 2 (by decide) (by decide) b, other w 0 2 (by decide) (by decide) a]
  · refine (same _ 3 (by decide) d).trans ?_
    rw [other _ 2 3 (by decide) (by decide) c, other _ 1 3 (by decide) (by decide) b, other w 0 3 (by decide) (by decide) a]

end Lanes

/-- More than 1,062,500 errors of a lane in a second. -/
def marginBroken (es : List Nat) : Bool := es.any (1062500 < ·)

/-- LANE_MARGIN_CHECK's next state. -/
def marginChecked (s : State) (l : Nat) (es : List Nat) : State :=
  let t := s.setReg (.linkSer (l / 8) (l % 8)) (addLanes (s.reg (.linkSer (l / 8) (l % 8))) es)
  if marginBroken es then (t.setFlag (.linkdStatus (l / 8)) .MARGIN true).pfEvent 8 else t

theorem exec_laneMarginCheck (l : LinkId) (e0 e1 e2 e3 : W32) (s : State) :
    exec (.laneMarginCheck l e0 e1 e2 e3) s = .next (marginChecked s l [e0.toNat, e1.toNat, e2.toNat, e3.toNat]) := rfl

theorem addr_linkDie_lt (l : LinkId) : (Reg.linkSer (l.val / 8) (l.val % 8)).addr < 0x800000 ∧ (Reg.linkdStatus (l.val / 8)).addr < 0x800000 ∧
    (Reg.linkSer (l.val / 8) (l.val % 8)).addr ≠ (Reg.linkdStatus (l.val / 8)).addr := by
  have := l.isLt
  rw [addr_linkSer, addr_linkdStatus]; omega

theorem reg_marginChecked (s : State) (l : LinkId) (es : List Nat) :
    (marginChecked s l es).reg (.linkSer (l.val / 8) (l.val % 8)) = addLanes (s.reg (.linkSer (l.val / 8) (l.val % 8))) es := by
  obtain ⟨hlow, -, hne⟩ := addr_linkDie_lt l
  unfold marginChecked
  extract_lets t
  have ht : t.reg (.linkSer (l.val / 8) (l.val % 8)) = addLanes (s.reg (.linkSer (l.val / 8) (l.val % 8))) es := reg_setReg_same ..
  split
  · rw [reg_pfEvent_low _ _ hlow, reg_setFlag_other _ _ _ hne, ht]
  · exact ht

theorem margin_marginChecked (s : State) (l : LinkId) (es : List Nat) :
    (marginBroken es = true → (marginChecked s l es).flag (.linkdStatus (l.val / 8)) .MARGIN = true) ∧
    (marginBroken es = false → (marginChecked s l es).reg (.linkdStatus (l.val / 8)) = s.reg (.linkdStatus (l.val / 8))) := by
  obtain ⟨-, hlow, hne⟩ := addr_linkDie_lt l
  refine ⟨fun h => ?_, fun h => ?_⟩
  · rw [marginChecked, if_pos h, flag_congr (reg_pfEvent_low _ _ hlow), flag_setFlag _ _ _ _ rfl]
  · rw [marginChecked, if_neg (by rw [h]; exact Bool.false_ne_true), reg_setReg_other _ _ hne.symm]

/-! ### Pattern generators and checkers (R389, R390) -/

section Patterns
variable {l : LinkId} {f : PgFields} {s : State}

/-- Is the enable refused: pair 1 lent, or a link of a port that is not in TEST? -/
def pgRefused (s : State) (l : Nat) (f : PgFields) : Bool :=
  f.enable && ((f.g.val = 1 && allContexts.any fun c => s.flag (.poolCtrl c) .ENABLE && Nat.testBit (s.fld (.poolCtrl c) .LEND) l) ||
    ((s.testPort l).isNone && (s.portOfLink l).isSome))

theorem pgRefused_iff : pgRefused s l f = true ↔ f.enable = true ∧
    ((f.g.val = 1 ∧ ∃ c < 16, s.flag (.poolCtrl c) .ENABLE = true ∧ (s.fld (.poolCtrl c) .LEND).testBit l.val = true) ∨
      (s.portOfLink l ≠ none ∧ ∀ p < 16, s.portIs p = 7 → l.val ∉ s.ownLinks p)) := by
  have hlent : (allContexts.any fun c => s.flag (.poolCtrl c) .ENABLE && Nat.testBit (s.fld (.poolCtrl c) .LEND) l) = true ↔
      ∃ c < 16, s.flag (.poolCtrl c) .ENABLE = true ∧ (s.fld (.poolCtrl c) .LEND).testBit l.val = true := by
    rw [List.any_eq_true]
    exact exists_congr fun c => by rw [mem_allContexts, Bool.and_eq_true]
  have htest : (s.testPort l).isNone = true ↔ ∀ p < 16, s.portIs p = 7 → l.val ∉ s.ownLinks p := by
    rw [Option.isNone_iff_eq_none, State.testPort, List.find?_eq_none]
    refine forall_congr' fun p => ?_
    rw [List.mem_range, Bool.and_eq_true, decide_eq_true_eq, List.contains_iff_mem, not_and]
  rw [pgRefused, Bool.and_eq_true, Bool.or_eq_true, Bool.and_eq_true, Bool.and_eq_true, decide_eq_true_eq, hlent, htest, Option.isSome_iff_ne_none,
    and_comm (b := s.portOfLink l ≠ none)]

/-- The generator's register as a write leaves it. -/
def pgWritten (s : State) (l : Nat) (f : PgFields) : State := s.setFlds (.linkPg (l / 8) (l % 8) f.g.val)
  [(.ENABLE, if f.enable then 1 else 0), (.MODE, f.mode.toNat), (.INV, if f.inv then 1 else 0), (.PATH, f.path.toNat), (.LANES, f.lanes.toNat), (.LOCKED, 0)]

theorem exec_pgEnable_refused (h : pgRefused s l f = true) : exec (.pgEnable l f) s = .next (s.setFlag (.linkdStatus (l.val / 8)) .TEST_REFUSED true) :=
  congrArg Host.Outcome.next (if_pos h)

theorem exec_pgEnable_taken (h : pgRefused s l f = false) : exec (.pgEnable l f) s = .next (match s.testPort l with
    | some p => if f.path.toNat = 0 then pgWritten s l f else (pgWritten s l f).symbol p 0x09 f.mode.toNat
    | none => pgWritten s l f) := by
  refine congrArg Host.Outcome.next ((if_neg ?_).trans ?_)
  · exact fun h' => Bool.false_ne_true (h.symm.trans h')
  · rfl

theorem linkPg_ne_linkdStatus (l : Nat) (g : Fin 2) : (Reg.linkPg (l / 8) (l % 8) g.val).addr ≠ (Reg.linkdStatus (l / 8)).addr := by
  have := g.isLt
  rw [addr_linkPg, addr_linkdStatus]; omega

theorem pgWritten_shows (s : State) (l : Nat) (f : PgFields) : let r := Reg.linkPg (l / 8) (l % 8) f.g.val
    (pgWritten s l f).flag r .ENABLE = f.enable ∧ (pgWritten s l f).fld r .MODE = f.mode.toNat ∧ (pgWritten s l f).fld r .PATH = f.path.toNat ∧
    (pgWritten s l f).fld r .LANES = f.lanes.toNat := by
  obtain ⟨he, hm, hp, hla, -⟩ := pos_linkPg (l / 8) (l % 8) f.g.val
  have hl := hasField_linkPg (l / 8) (l % 8) f.g.val (if f.enable then 1 else 0) f.mode.toNat (if f.inv then 1 else 0) f.path.toNat f.lanes.toNat 0
  refine ⟨?_, ?_, ?_, ?_⟩
  · rw [State.flag, pgWritten, fld_setFlds_of_mem _ _ hl (by simp) (v := if f.enable then 1 else 0) (by simp), he]
    cases f.enable <;> rfl
  · rw [pgWritten, fld_setFlds_of_mem _ _ hl (by simp) (v := f.mode.toNat) (by simp), hm]
    exact Nat.mod_eq_of_lt f.mode.isLt
  · rw [pgWritten, fld_setFlds_of_mem _ _ hl (by simp) (v := f.path.toNat) (by simp), hp]
    exact Nat.mod_eq_of_lt f.path.isLt
  · rw [pgWritten, fld_setFlds_of_mem _ _ hl (by simp) (v := f.lanes.toNat) (by simp), hla]
    exact Nat.mod_eq_of_lt f.lanes.isLt

theorem links_outbox_pgWritten (s : State) (l : Nat) (f : PgFields) : (pgWritten s l f).links = s.links ∧ (pgWritten s l f).outbox = s.outbox := by
  rw [pgWritten, setFlds_eq]; exact ⟨rfl, rfl⟩

/-- PORT.CFG and PORT.STATE are no registers of a generator. -/
theorem reg_pgWritten (s : State) (l : Nat) (f : PgFields) {q : Reg} {p : Nat} (hp : p < 16) (h : q.addr = 0x410000 + 32 * p ∨ q.addr = 0x410008 + 32 * p) :
    (pgWritten s l f).reg q = s.reg q := reg_setFlds_other s _ (by rw [addr_linkPg]; have := f.g.isLt; omega)

theorem mem_testPort {p : Nat} (h : s.testPort l = some p) : p < 16 ∧ s.portIs p = 7 := by
  have hm := List.mem_of_find?_eq_some h
  have hp := List.find?_some h
  simp only [Bool.and_eq_true, decide_eq_true_eq] at hp
  exact ⟨List.mem_range.mp hm, hp.1⟩

/-- A generator that is set announces a LINE or FRAMED test on the port in TEST that its link belongs to. -/
theorem pgEnable_taken (h : pgRefused s l f = false) : let r := Reg.linkPg (l.val / 8) (l.val % 8) f.g.val
    ∃ t, exec (.pgEnable l f) s = .next t ∧ t.flag r .ENABLE = f.enable ∧ t.fld r .MODE = f.mode.toNat ∧ t.fld r .PATH = f.path.toNat ∧
      t.fld r .LANES = f.lanes.toNat ∧
      ∀ p, s.testPort l = some p → f.path ≠ 0 → s.canSymbol p = true → t.outbox = s.outbox ++ [.symbol p 0x09 f.mode.toNat] := by
  obtain ⟨hlinks, hout⟩ := links_outbox_pgWritten s l f
  have hshows := pgWritten_shows s l f
  dsimp only at hshows ⊢
  have hread : ∀ t : State, t.reg (.linkPg (l.val / 8) (l.val % 8) f.g.val) = (pgWritten s l f).reg (.linkPg (l.val / 8) (l.val % 8) f.g.val) →
      t.flag (.linkPg (l.val / 8) (l.val % 8) f.g.val) .ENABLE = f.enable ∧ t.fld (.linkPg (l.val / 8) (l.val % 8) f.g.val) .MODE = f.mode.toNat ∧
      t.fld (.linkPg (l.val / 8) (l.val % 8) f.g.val) .PATH = f.path.toNat ∧ t.fld (.linkPg (l.val / 8) (l.val % 8) f.g.val) .LANES = f.lanes.toNat := fun t ht => by
    rw [flag_congr ht, fld_congr ht, fld_congr ht, fld_congr ht]; exact hshows
  have hexec := exec_pgEnable_taken h
  cases ht : s.testPort l with
  | none =>
    rw [ht] at hexec
    obtain ⟨h1, h2, h3, h4⟩ := hread _ rfl
    exact ⟨_, hexec, h1, h2, h3, h4, nofun⟩
  | some p =>
    obtain ⟨hp16, h7⟩ := mem_testPort ht
    rw [ht] at hexec
    by_cases hpath : f.path.toNat = 0
    · obtain ⟨h1, h2, h3, h4⟩ := hread _ rfl
      refine ⟨_, hexec.trans (congrArg Host.Outcome.next (if_pos hpath)), h1, h2, h3, h4, fun _ _ h0 => absurd (BitVec.eq_of_toNat_eq ?_) h0⟩
      rw [hpath]; rfl
    · obtain ⟨h1, h2, h3, h4⟩ := hread _ (reg_symbol (pgWritten s l f) p 0x09 f.mode.toNat _)
      refine ⟨_, hexec.trans (congrArg Host.Outcome.next (if_neg hpath)), h1, h2, h3, h4, fun q hq _ hc => ?_⟩
      have hpq : p = q := Option.some.inj hq
      subst hpq
      have hcan : (pgWritten s l f).canSymbol p = true := (canSymbol_congr (reg_pgWritten s l f hp16 (.inl (addr_portCfg p))) hlinks).trans hc
      have hst : (pgWritten s l f).portIs p = 7 := (portIs_congr (reg_pgWritten s l f hp16 (.inr (addr_portState p)))).trans h7
      rw [outbox_symbol_sent hcan (by rw [hst]; rfl), hout]

variable {g : Fin 2} {lane : Fin 4} {errors : W16}

/-- A checker's lane LOCKED, its errors counted. -/
def checkerLocked (s : State) (l g lane errors : Nat) : State :=
  let t := s.setFld (.linkPg (l / 8) (l % 8) g) .LOCKED (s.fld (.linkPg (l / 8) (l % 8) g) .LOCKED ||| 2 ^ lane)
  t.setReg (.linkPgerr (l / 8) (l % 8) g) (addLane (t.reg (.linkPgerr (l / 8) (l % 8) g)) lane errors)

theorem exec_patternCheckerLock_idle (h : s.flag (.linkPg (l.val / 8) (l.val % 8) g.val) .ENABLE = false ∨
    (s.fld (.linkPg (l.val / 8) (l.val % 8) g.val) .LANES).testBit lane = false) : exec (.patternCheckerLock l g lane errors) s = .next s :=
  congrArg Host.Outcome.next (if_pos (by rcases h with h | h <;> simp [h]))

theorem exec_patternCheckerLock_locked (he : s.flag (.linkPg (l.val / 8) (l.val % 8) g.val) .ENABLE = true)
    (hla : (s.fld (.linkPg (l.val / 8) (l.val % 8) g.val) .LANES).testBit lane = true) :
    exec (.patternCheckerLock l g lane errors) s = .next (checkerLocked s l g lane errors.toNat) :=
  congrArg Host.Outcome.next (if_neg (by simp [he, hla]))

theorem checkerLocked_shows (s : State) (l : Nat) (g : Fin 2) (lane : Fin 4) (errors : Nat) : let r := Reg.linkPg (l / 8) (l % 8) g.val
    let e := Reg.linkPgerr (l / 8) (l % 8) g.val
    ((checkerLocked s l g lane errors).fld r .LOCKED).testBit lane = true ∧
    bits ((checkerLocked s l g lane errors).reg e) (16 * lane.val + 15) (16 * lane.val) =
      min (bits (s.reg e) (16 * lane.val + 15) (16 * lane.val) + errors) 0xFFFF := by
  have hne : (Reg.linkPg (l / 8) (l % 8) g.val).addr ≠ (Reg.linkPgerr (l / 8) (l % 8) g.val).addr := by
    rw [addr_linkPg, addr_linkPgerr]; omega
  have hlane : lane.val < 4 := lane.isLt
  obtain ⟨-, -, -, -, hpos⟩ := pos_linkPg (l / 8) (l % 8) g.val
  refine ⟨?_, ?_⟩
  · rw [checkerLocked, fld_setReg_other _ _ _ hne, fld_setFld, hpos, Nat.testBit_mod_two_pow, Nat.testBit_or, Nat.testBit_two_pow_self, Bool.or_true, Bool.and_true]
    exact decide_eq_true hlane
  · rw [checkerLocked, reg_setReg_same, bits_addLane_same _ hlane, reg_setFld_other _ _ _ hne.symm]

end Patterns

end Sys2Proof.Proofs
end

section
/-!
The statement on ports and links, part by part.
-/
namespace Sys2Proof.Proofs
open Sys2Proof.Machine Sys2Proof.Laws Sys2Proof.Claims

/-- PORT.CFG: a write with ENABLE = 1 and one with ENABLE = 0 (R368, R389, R395). -/
theorem portFormed (p : PortId) (dir size : BitVec 2) (first : BitVec 3) (signal : Bool) (s : State) :
    let g := (dir.toNat, size.toNat, first.toNat)
    let u := s.setGeom p g
    let v := u.setFlag (.portCfg p) .ENABLE true
    let on := exec (.portEnable p dir size first signal) s
    let off := exec (.portDisable p dir size first) s
    u.portGeom p = g ∧
    (s.flag (.portCfg p) .ENABLE = false →
      (u.geomOk p = false → on = .next u.cfgErr) ∧
      (u.geomOk p = true → s.portIs p = 0 → v.finds p signal = true → on = .next (v.startTraining p)) ∧
      (u.geomOk p = true → s.portIs p = 0 → v.finds p signal = false → on = .next (v.setPortState p 1)) ∧
      (u.geomOk p = true → s.portIs p ≠ 0 → on = .next v) ∧ off = .next u) ∧
    (s.flag (.portCfg p) .ENABLE = true →
      (s.portGeom p = g → on = .next s) ∧ (s.portGeom p ≠ g → on = .next s.cfgErr) ∧
      let a := if s.portGeom p = g then s else s.cfgErr
      (s.portIs p = 7 → off = .next (a.setFlag (.portCfg p) .ENABLE false)) ∧
      (s.portIs p ≠ 7 → ∃ t, off = .next t ∧ t = (((a.linkDown p).setPortState p 0).setPort p PortSt.idle).setFlag (.portCfg p) .ENABLE false ∧
        t.portIs p = 0 ∧ t.flag (.portCfg p) .ENABLE = false)) := by
  dsimp only
  refine ⟨portGeom_setGeom s _ p dir.isLt size.isLt first.isLt, fun h => ?_, fun h => ?_⟩
  · have hon : exec (.portEnable p dir size first signal) s = .next (s.portEnable p (dir.toNat, size.toNat, first.toNat) signal) := rfl
    rw [hon, portEnable_off s _ h signal]
    refine ⟨fun hg => ?_, fun hg h0 hf => ?_, fun hg h0 hf => ?_, fun hg h0 => ?_, congrArg Host.Outcome.next (portDisable_off s _ h)⟩
    · rw [if_pos (by rw [hg]; rfl)]
    · rw [if_neg (by rw [hg]; exact Bool.false_ne_true), if_neg (not_not_intro h0), if_pos hf]
    · rw [if_neg (by rw [hg]; exact Bool.false_ne_true), if_neg (not_not_intro h0), if_neg (by rw [hf]; exact Bool.false_ne_true)]
    · rw [if_neg (by rw [hg]; exact Bool.false_ne_true), if_pos h0]
  · have hon : exec (.portEnable p dir size first signal) s = .next (s.portEnable p (dir.toNat, size.toNat, first.toNat) signal) := rfl
    have hoff : exec (.portDisable p dir size first) s = .next (s.portDisable p (dir.toNat, size.toNat, first.toNat)) := rfl
    rw [hon, hoff, portEnable_on s _ h signal, portDisable_on s _ p.isLt h]
    refine ⟨fun hg => by rw [if_pos hg], fun hg => by rw [if_neg hg], fun h7 => by rw [if_pos h7], fun h7 => ⟨_, rfl, by rw [if_neg h7], ?_⟩⟩
    rw [if_neg h7]
    exact portDisabled_shows _ p.isLt

/-- The steps of training: their time-outs and their ends (R375, Table 12-6). -/
theorem portTrained (p : PortId) (s : State) :
    ((s.portIs p ≠ 2 ∨ (s.port p).passed = true) → exec (.trainingStepTimeout p) s = .next s) ∧
    (s.portIs p = 2 → (s.port p).passed = false →
      ((s.port p).attempts < 3 → ∃ t, exec (.trainingStepTimeout p) s = .next t ∧ t.portIs p = 2 ∧ t.fld (.portState p) .STEP = 1 ∧
        (t.port p).attempts = (s.port p).attempts + 1) ∧
      (3 ≤ (s.port p).attempts → exec (.trainingStepTimeout p) s =
        .next ((if s.portIs p ∈ [2, 3, 4, 5, 7] then s.sendDown p 9 else s).portDown p 9))) :=
  ⟨exec_trainingStepTimeout_idle, fun h2 hp => ⟨trainingStepTimeout_again h2 hp, fun ha => by rw [exec_trainingStepTimeout_last h2 hp ha, goDown_eq]⟩⟩

/-- Settles O51: the fields and links of a port that takes a state; forming, training, signal, symbols and TEST of a port; the handshake; relock;
lane errors; generators and checkers. -/
theorem portsAndLinks : Obligations.PortsAndLinks := by
  refine ⟨fun p s st hst => setPortState_shows s p.isLt hst, portFormed, fun p s => ?_, fun p s => ?_, fun l far f s p hp hlt => ?_,
    fun l far f s h => exec_handshakeFrame_none h, fun l s => ?_, fun l e0 e1 e2 e3 s => ?_, fun l f s => ?_, fun l g lane errors s => ?_⟩
  · obtain ⟨hstate, hattempts⟩ := startTraining_shows s p.isLt
    obtain ⟨hdown, hcause⟩ := portIs_portDown s p.isLt (cause := 14) (by decide)
    refine ⟨hstate, hattempts, hdown, hcause, fun hl _ => ?_⟩
    obtain ⟨hsent, hqueue⟩ := startTraining_of_not_live s hl
    exact ⟨hsent, fun c hc => ⟨hqueue c hc, outQueue_portDown_of_not_live s hl 14 hc⟩⟩
  · obtain ⟨hidle, hstep⟩ := portTrained p s
    refine ⟨exec_portCtrlRetrain s p, exec_retrain s p, ?_, exec_portCtrlTest s p, exec_absentSample s p, exec_down s p,
      fun lost => ⟨exec_lossOfSignal_none s p, exec_lossOfSignal_all s p, fun h4 h0 hm => ?_⟩,
      fun cause => ⟨exec_fenceSymbol_lost, fun hc => ⟨fun h4 => (fenceSymbol_fences hc h4).1, fun h4 => (fenceSymbol_fences hc h4).2, fun h2 => ?_,
        exec_fenceSymbol_other hc⟩⟩,
      fun start mode path => ⟨test_shows, test_ignored⟩, hidle, hstep, fun found => ⟨exec_trainingStepDone_idle found, trainingStepDone_early found,
        trainingStepDone_align found⟩⟩
    · rw [exec_portCtrlDown, goDown_eq]
    · rw [exec_lossOfSignal_some s p h4 h0 hm, goDown_eq]
    · exact ⟨_, exec_fenceSymbol_training hc h2, quarantined_shows s p.isLt cause.isLt⟩
  · exact ⟨exec_handshakeFrame_idle hp, fun h2 h4 hpass => ⟨fun cause hc => handshake_quarantines hp hlt h2 h4 hpass hc,
      fun hc => handshake_agrees hp hlt h2 h4 hpass hc⟩⟩
  · refine ⟨exec_farLink_none, fun p hp => ⟨exec_farLink_lost hp, fun hl hc => ?_⟩, fun us p hp => ⟨exec_relockStart_refused hp us, fun hl hr hs => ?_⟩,
      fun p t0 hp hr => ⟨?_, exec_relockTimeout_taken hp hr⟩, fun h => ⟨exec_relockStart_none h, exec_lockReturn_none h, exec_relockTimeout_none h⟩⟩
    · obtain ⟨hrelock, hrelocked⟩ := exec_farLink_taken hp hl hc
      exact ⟨⟨_, hrelock, link_setLink_same .., fun x hx => link_setLink_other _ _ _ _ hx⟩, hrelocked⟩
    · exact ⟨_, exec_relockStart_taken hp us hl hr hs, relockBegun_shows hl l us.toNat⟩
    · exact ⟨_, exec_lockReturn_taken hp hr, lockKept_shows s l t0⟩
  · obtain ⟨hbroken, hkept⟩ := margin_marginChecked s l [e0.toNat, e1.toNat, e2.toNat, e3.toNat]
    have hsums := bits_addLanes (s.reg (.linkSer (l.val / 8) (l.val % 8))) e0.toNat e1.toNat e2.toNat e3.toNat
    refine ⟨_, exec_laneMarginCheck l e0 e1 e2 e3 s, ?_, fun h => hbroken ?_, fun h => hkept ?_⟩
    · rw [reg_marginChecked]; exact hsums
    · simpa [marginBroken] using h
    · simpa [marginBroken] using h
  · refine ⟨fun h => ⟨_, exec_pgEnable_refused (pgRefused_iff.mpr h), ?_, flag_setFlag _ _ _ _ rfl⟩, fun h => pgEnable_taken ?_⟩
    · exact reg_setFlag_other _ _ _ (linkPg_ne_linkdStatus l f.g)
    · exact Bool.eq_false_iff.mpr fun h' => h (pgRefused_iff.mp h')
  · exact ⟨exec_patternCheckerLock_idle, fun he hla => ⟨_, exec_patternCheckerLock_locked he hla, checkerLocked_shows s l g lane errors.toNat⟩⟩

end Sys2Proof.Proofs
end

section
/-!
Runs of slots: the list that holds them, the stream table, and what comes before a slot's first frame (R377, R379, R383, R387, R391).
-/
namespace Sys2Proof.Proofs
open Sys2Proof.Machine Sys2Proof.Laws Sys2Proof.Claims

/-! ### The list of runs -/

section Runs
variable (s : State) (r : SlotRun)

theorem slotRun_congr {s t : State} (h : t.slots = s.slots) (c i : Nat) : t.slotRun c i = s.slotRun c i := by rw [State.slotRun, h, State.slotRun]

theorem slotRun_setSlotRun {c i : Nat} (hc : r.ctx = c) (hi : r.idx = i) : (s.setSlotRun r).slotRun c i = some r := by
  subst hc; subst hi
  have hnone : (s.slots.filter fun x => !(x.ctx = r.ctx && x.idx = r.idx)).find? (fun x => x.ctx = r.ctx && x.idx = r.idx) = none :=
    List.find?_eq_none.mpr fun x hx => by
      have h := (List.mem_filter.mp hx).2
      rw [Bool.not_eq_true'] at h
      rw [h]; exact Bool.false_ne_true
  rw [State.slotRun, State.setSlotRun, List.find?_append, hnone, Option.none_or]
  exact List.find?_cons_of_pos (by simp)

theorem slotRun_dropSlotRun (c i : Nat) : (s.dropSlotRun c i).slotRun c i = none := by
  rw [State.slotRun, State.dropSlotRun]
  refine List.find?_eq_none.mpr fun x hx => ?_
  have h := (List.mem_filter.mp hx).2
  rw [Bool.not_eq_true'] at h
  rw [h]; exact Bool.false_ne_true

/-- A symbol changes what is sent alone. -/
theorem slots_mem_symbol (p code x : Nat) : (s.symbol p code x).slots = s.slots ∧ (s.symbol p code x).mem = s.mem := by
  rw [symbol_eq]; exact ⟨rfl, rfl⟩

theorem events_sayMissed : Events s (s.sayMissed r) := events_symbol ..

theorem regs_sayMissed : (s.sayMissed r).regs = s.regs := regs_symbol ..

/-- MISSED, where it is sent, is a symbol. -/
theorem tellMissed_shows : (s.tellMissed r).slots = s.slots ∧ (s.tellMissed r).mem = s.mem ∧ (s.tellMissed r).regs = s.regs := by
  unfold State.tellMissed
  split
  · exact ⟨(slots_mem_symbol ..).1, (slots_mem_symbol ..).2, regs_symbol ..⟩
  · exact ⟨rfl, rfl, rfl⟩

theorem relayMissed_shows : (s.relayMissed r).slots = s.slots ∧ (s.relayMissed r).mem = s.mem ∧ (s.relayMissed r).regs = s.regs := by
  unfold State.relayMissed
  split
  · exact ⟨(slots_mem_symbol ..).1, (slots_mem_symbol ..).2, regs_symbol ..⟩
  · exact ⟨rfl, rfl, rfl⟩

theorem reg_tellMissed (q : Reg) : (s.tellMissed r).reg q = s.reg q := by rw [State.reg, (tellMissed_shows s r).2.2, State.reg]

theorem reg_relayMissed (q : Reg) : (s.relayMissed r).reg q = s.reg q := by rw [State.reg, (relayMissed_shows s r).2.2, State.reg]

theorem mem_setSlotRun : (s.setSlotRun r).mem = s.mem := rfl
theorem reg_setSlotRun (q : Reg) : (s.setSlotRun r).reg q = s.reg q := rfl
theorem reg_dropSlotRun (c i : Nat) (q : Reg) : (s.dropSlotRun c i).reg q = s.reg q := rfl

end Runs

/-! ### The stream table (R391) -/

section Table
variable (c : Ctx) (base : BitVec 33) (s : State)

theorem pos_streams (c : Nat) : (Reg.linkwStreams c).pos .BASE = (47, 15) ∧ (Reg.linkwStreams c).pos .LOCK = (63, 63) := ⟨rfl, rfl⟩

theorem addr_linkwStreams (c : Nat) : (Reg.linkwStreams c).addr = 0x3800000 + c * 0x10000 + 0x800 := rfl
theorem addr_linkwStat (c : Nat) : (Reg.linkwStat c).addr = 0x3800000 + c * 0x10000 + 0x808 := rfl
theorem addr_ctxwCmplStat (c : Nat) : (Reg.ctxwCmplStat c).addr = 0x3800000 + c * 0x10000 + 0x410 := rfl

theorem streams_ne_cmplStat (c : Nat) : (Reg.linkwStreams c).addr ≠ (Reg.ctxwCmplStat c).addr := by rw [addr_linkwStreams, addr_ctxwCmplStat]; omega
theorem streams_ne_linkdStatus (c : Nat) : (Reg.linkwStreams c).addr ≠ (Reg.linkdStatus 0).addr := by rw [addr_linkwStreams, addr_linkdStatus]; omega
theorem linkdStatus_ne_cmplStat (c : Nat) : (Reg.linkdStatus 0).addr ≠ (Reg.ctxwCmplStat c).addr := by rw [addr_linkdStatus, addr_ctxwCmplStat]; omega

theorem exec_streamTableLock : exec (.streamTableLock c base) s = .next (s.streamsLock c base.toNat) := rfl

theorem exec_streamTableUnlock : exec (.streamTableUnlock c base) s = .next (s.streamsUnlock c base.toNat) := rfl

theorem fld_base_setFld (c : Nat) : (s.setFld (.linkwStreams c) .BASE base.toNat).fld (.linkwStreams c) .BASE = base.toNat := by
  rw [fld_setFld, (pos_streams c).1]
  exact Nat.mod_eq_of_lt base.isLt

/-- A table that is not locked takes its base, and is locked when its pages translate. -/
theorem streamsLock_open (c : Nat) (h : s.flag (.linkwStreams c) .LOCK = false) : let r := Reg.linkwStreams c
    (s.streamsLock c base.toNat).fld r .BASE = base.toNat ∧ (s.streamsLock c base.toNat).flag r .LOCK = (s.setFld r .BASE base.toNat).streamsMapped c ∧
    ((s.setFld r .BASE base.toNat).streamsMapped c = false → (s.streamsLock c base.toNat).flag (.linkdStatus 0) .CFG_ERR = true) := by
  dsimp only
  have hbase := fld_base_setFld base s c
  have hlock : (s.setFld (.linkwStreams c) .BASE base.toNat).flag (.linkwStreams c) .LOCK = false :=
    (flag_congr_fld (fld_setFld_ne _ _ _ rfl rfl (by decide))).trans h
  rw [State.streamsLock, if_neg (by rw [h]; exact Bool.false_ne_true)]
  dsimp only
  generalize s.setFld (.linkwStreams c) .BASE base.toNat = t at hbase hlock
  cases hm : t.streamsMapped c with
  | true =>
    rw [if_pos rfl]
    exact ⟨(fld_setFlag_ne _ _ _ rfl rfl (by decide)).trans hbase, flag_setFlag _ _ _ _ rfl, nofun⟩
  | false =>
    have hreg : t.cfgErr.reg (.linkwStreams c) = t.reg (.linkwStreams c) := reg_setFlag_other _ _ _ (streams_ne_linkdStatus c)
    rw [if_neg Bool.false_ne_true]
    exact ⟨(fld_congr hreg _).trans hbase, (flag_congr hreg _).trans hlock, fun _ => flag_setFlag _ _ _ _ rfl⟩

/-- A locked table keeps its base; another one is a violation. -/
theorem streamsLock_locked (c : Nat) (h : s.flag (.linkwStreams c) .LOCK = true) : let r := Reg.linkwStreams c
    (s.fld r .BASE = base.toNat → s.streamsLock c base.toNat = s) ∧
    (s.fld r .BASE ≠ base.toNat → (s.streamsLock c base.toNat).reg r = s.reg r ∧ (s.streamsLock c base.toNat).flag (.ctxwCmplStat c) .WO_VIOLATION = true) := by
  dsimp only
  rw [State.streamsLock, if_pos h]
  refine ⟨fun hb => if_pos hb, fun hb => ?_⟩
  rw [if_neg hb]
  exact ⟨reg_setFlag_other _ _ _ (streams_ne_cmplStat c), flag_setFlag _ _ _ _ rfl⟩

/-- Unlocking waits for the image. -/
theorem streamsUnlock_armed (c : Nat) (h : (s.image c).active = true) : let r := Reg.linkwStreams c
    (s.streamsUnlock c base.toNat).reg r = s.reg r ∧ (s.streamsUnlock c base.toNat).flag (.linkdStatus 0) .CFG_ERR = true ∧
    (s.flag r .LOCK = true → s.fld r .BASE ≠ base.toNat → (s.streamsUnlock c base.toNat).flag (.ctxwCmplStat c) .WO_VIOLATION = true) := by
  dsimp only
  have hreg : s.cfgErr.reg (.linkwStreams c) = s.reg (.linkwStreams c) := reg_setFlag_other _ _ _ (streams_ne_linkdStatus c)
  have herr : s.cfgErr.flag (.linkdStatus 0) .CFG_ERR = true := flag_setFlag _ _ _ _ rfl
  rw [State.streamsUnlock, if_pos h]
  split
  · refine ⟨(reg_setFlag_other _ _ _ (streams_ne_cmplStat c)).trans hreg, ?_, fun _ _ => flag_setFlag _ _ _ _ rfl⟩
    exact (flag_congr (reg_setFlag_other _ _ _ (linkdStatus_ne_cmplStat c)) _).trans herr
  · next hn => exact ⟨hreg, herr, fun hl hb => absurd (by simp [hl, hb]) hn⟩

theorem streamsUnlock_idle (c : Nat) (h : (s.image c).active = false) :
    (s.streamsUnlock c base.toNat).flag (.linkwStreams c) .LOCK = false ∧ (s.streamsUnlock c base.toNat).fld (.linkwStreams c) .BASE = base.toNat := by
  rw [State.streamsUnlock, if_neg (by rw [h]; exact Bool.false_ne_true)]
  refine ⟨?_, fld_base_setFld base _ c⟩
  exact (flag_congr_fld (fld_setFld_ne _ _ _ rfl rfl (by decide))).trans (flag_setFlag _ _ _ _ rfl)

end Table

/-! ### A stream error (R383) -/

section Errors
variable (s : State) (r : SlotRun)

/-- STATUS of the entry, where the error has one. -/
def errorStatus (s : State) (r : SlotRun) (st : Option Nat) : State := match st with
  | some x => s.streamStatus r x
  | none => s

/-- The error counted, told and its run gone, before the context faults. -/
def errorCounted (s : State) (r : SlotRun) : State :=
  (((s.addFld (.linkwStat r.ctx) .STREAM_ERR 1).vfEvent r.ctx 6).tellMissed r).dropSlotRun r.ctx r.idx

theorem streamError_eq (st : Option Nat) : s.streamError r st = (errorCounted (errorStatus s r st) r).faultNoUnit r.ctx 0x0E r.e.stream := by
  cases st <;> rfl

/-- Vector 6 writes no status of a stream. -/
theorem reg_linkwStat_vfEvent (c : Nat) : (s.vfEvent c 6).reg (.linkwStat c) = s.reg (.linkwStat c) :=
  reg_vectorEvent _ _ _ (by simp [armedReg, Reg.addr]) (by simp [pendReg, Reg.addr]) (by simp [pbaReg, Reg.addr])

theorem pos_linkwStat (c : Nat) : (Reg.linkwStat c).pos .STREAM_ERR = (63, 32) ∧ (Reg.linkwStat c).pos .MISSED = (31, 0) := ⟨rfl, rfl⟩

theorem errorCounted_shows : (errorCounted s r).fld (.linkwStat r.ctx) .STREAM_ERR = (s.fld (.linkwStat r.ctx) .STREAM_ERR + 1) % 2 ^ 32 ∧
    (errorCounted s r).slotRun r.ctx r.idx = none := by
  refine ⟨?_, slotRun_dropSlotRun ..⟩
  rw [errorCounted, fld_congr (reg_dropSlotRun ..), fld_congr (reg_tellMissed ..), fld_congr (reg_linkwStat_vfEvent ..), State.addFld, fld_setFld,
    (pos_linkwStat r.ctx).1]
  rfl

end Errors

/-! ### STREAM_PREFETCH (R379, R383) -/

section Prefetch
variable {c : Ctx} {ix : EntryIx} {rerun : Bool} {s : State} {e : SlotEntry} {r : SlotRun}

theorem exec_slotCommand_none (h : s.slotAt c ix.toNat = none) : exec (.streamPrefetch c ix rerun) s = .next s ∧ exec (.slotStart c ix rerun) s = .next s := by
  refine ⟨congrArg Host.Outcome.next ?_, congrArg Host.Outcome.next ?_⟩ <;> rw [h]

/-- The run of a slot, its own or a fresh one. -/
def IsRun (s : State) (c i : Nat) (e : SlotEntry) (r : SlotRun) : Prop := s.slotRun c i = some r ∨ (s.slotRun c i = none ∧ r = freshRun c i e none)

theorem getD_of_isRun {c i : Nat} (h : IsRun s c i e r) : (s.slotRun c i).getD (freshRun c i e none) = r := by
  rcases h with h | ⟨h, hr⟩
  · rw [h]; rfl
  · rw [h, hr]; rfl

section At
variable (he : s.slotAt c ix.toNat = some e)
include he

theorem exec_prefetch_idle (h : e.kind ≠ 0 ∨ s.slotDue c ix.toNat e rerun = false ∨ s.reached (e.startNs - 4000) = false) :
    exec (.streamPrefetch c ix rerun) s = .next s := by
  refine congrArg Host.Outcome.next ?_
  rw [he]
  exact if_pos (by simpa [or_assoc] using h)

/-- A stream slot that is due is prefetched once. -/
theorem exec_prefetch_due (hr : IsRun s c ix.toNat e r) (hk : e.kind = 0) (hd : s.slotDue c ix.toNat e rerun = true)
    (ht : s.reached (e.startNs - 4000) = true) :
    exec (.streamPrefetch c ix rerun) s = .next (if r.begun || r.stream.isSome then s else s.fetchStream r) := by
  refine congrArg Host.Outcome.next ?_
  rw [he]
  refine (if_neg (by simp [hk, hd, ht])).trans ?_
  dsimp only
  rw [getD_of_isRun hr]

theorem prefetch_known (hr : IsRun s c ix.toNat e r) (h : r.begun = true ∨ r.stream ≠ none) : exec (.streamPrefetch c ix rerun) s = .next s := by
  by_cases hgo : e.kind = 0 ∧ s.slotDue c ix.toNat e rerun = true ∧ s.reached (e.startNs - 4000) = true
  · obtain ⟨hk, hd, ht⟩ := hgo
    rw [exec_prefetch_due he hr hk hd ht, if_pos]
    rw [Bool.or_eq_true, Option.isSome_iff_ne_none]
    exact h
  · refine exec_prefetch_idle he ?_
    simpa [-not_and, Classical.not_and_iff_not_or_not] using hgo

end At

/-- A run whose entry was found. -/
def fetchedRun (r : SlotRun) (t : StreamEntry) : SlotRun :=
  { r with stream := some t, missed := r.missed && !(r.e.mode = 2 && t.role = 1) }

theorem fetchStream_ok {s1 : State} {t : StreamEntry} (h : s.prefetch r.ctx r.e = (s1, .ok t)) : s.fetchStream r =
    if (fetchedRun r t).missed then (s1.setSlotRun (fetchedRun r t)).relayMissed (fetchedRun r t) else s1.setSlotRun (fetchedRun r t) := by
  rw [State.fetchStream, h]; rfl

theorem fetchStream_error {s1 : State} {st : Option Nat} (h : s.prefetch r.ctx r.e = (s1, .error st)) : s.fetchStream r = s1.streamError r st := by
  rw [State.fetchStream, h]

theorem fetchStream_ok_shows {s1 : State} {t : StreamEntry} (h : s.prefetch r.ctx r.e = (s1, .ok t)) :
    (s.fetchStream r).mem = s1.mem ∧ (s.fetchStream r).slotRun r.ctx r.idx = some (fetchedRun r t) := by
  obtain ⟨hslots, hmem, -⟩ := relayMissed_shows (s1.setSlotRun (fetchedRun r t)) (fetchedRun r t)
  have hrun : (s1.setSlotRun (fetchedRun r t)).slotRun r.ctx r.idx = some (fetchedRun r t) := slotRun_setSlotRun s1 (fetchedRun r t) rfl rfl
  rw [fetchStream_ok h]
  split
  · exact ⟨hmem.trans (mem_setSlotRun ..), (slotRun_congr hslots ..).trans hrun⟩
  · exact ⟨mem_setSlotRun .., hrun⟩

end Prefetch

/-! ### SLOT_START (R377, R387) -/

section Start
variable {c : Ctx} {ix : EntryIx} {rerun : Bool} {s : State} {e : SlotEntry} {r : SlotRun} (he : s.slotAt c ix.toNat = some e)
include he

theorem exec_slotStart_idle (h : s.slotDue c ix.toNat e rerun = false ∨ s.reached e.startNs = false) : exec (.slotStart c ix rerun) s = .next s := by
  refine congrArg Host.Outcome.next ?_
  rw [he]
  exact if_pos (by simpa using h)

/-- What a slot that is due does at its start. -/
def slotStarts (s : State) (c i : Nat) (e : SlotEntry) (r : SlotRun) : State :=
  if r.begun || r.held || r.missed then s
  else if !s.live e.port then s.dropSlotRun c i
  else if s.slots.any fun x => x.held && x.e.port = e.port then (s.setSlotRun { r with missed := true }).tellMissed r
  else if r.sends && s.relocking e.port then s.setSlotRun { r with held := true }
  else s.beginSlot r e.frame0

theorem exec_slotStart_unfetched (hk : e.kind = 0) (hr : s.slotRun c ix.toNat = none) : exec (.slotStart c ix rerun) s = .next s := by
  refine congrArg Host.Outcome.next ?_
  rw [he]
  refine (ite_eq_left_iff.mpr fun _ => ?_)
  dsimp only
  rw [hr, if_pos (by simp [hk])]

theorem exec_slotStart_due (hr : IsRun s c ix.toNat e r) (hs : e.kind = 0 → r.stream ≠ none) (hd : s.slotDue c ix.toNat e rerun = true)
    (ht : s.reached e.startNs = true) : exec (.slotStart c ix rerun) s = .next (slotStarts s c ix.toNat e r) := by
  have hfetched : ¬ (decide (e.kind = 0) && !(s.slotRun c ix.toNat).any fun r => r.stream.isSome) = true := by
    rcases hr with hr | ⟨hr, hf⟩
    · rw [hr]
      simpa [Option.isSome_iff_ne_none] using hs
    · have hk : e.kind ≠ 0 := fun hk => hs hk (by rw [hf]; rfl)
      simp [hk]
  refine congrArg Host.Outcome.next ?_
  rw [he]
  refine (if_neg (by simp [hd, ht])).trans ?_
  dsimp only
  rw [getD_of_isRun hr]
  exact if_neg hfetched

end Start

section Starts
variable {s : State} {c i : Nat} {e : SlotEntry} {r : SlotRun}

theorem slotStarts_known (h : r.begun = true ∨ r.held = true ∨ r.missed = true) : slotStarts s c i e r = s :=
  if_pos (by simpa [or_assoc] using h)

variable (hb : r.begun = false) (hh : r.held = false) (hm : r.missed = false)
include hb hh hm

theorem slotStarts_new : slotStarts s c i e r = if !s.live e.port then s.dropSlotRun c i
    else if s.slots.any fun x => x.held && x.e.port = e.port then (s.setSlotRun { r with missed := true }).tellMissed r
    else if r.sends && s.relocking e.port then s.setSlotRun { r with held := true }
    else s.beginSlot r e.frame0 := if_neg (by simp [hb, hh, hm])

theorem slotStarts_dead (hl : s.live e.port = false) : slotStarts s c i e r = s.dropSlotRun c i := by
  rw [slotStarts_new hb hh hm, if_pos (by rw [hl]; rfl)]

variable (hl : s.live e.port = true)
include hl

theorem slotStarts_behind (hq : (s.slots.any fun x => x.held && x.e.port = e.port) = true) :
    slotStarts s c i e r = (s.setSlotRun { r with missed := true }).tellMissed r := by
  rw [slotStarts_new hb hh hm, if_neg (by rw [hl]; exact Bool.false_ne_true), if_pos hq]

theorem slotStarts_held (hq : (s.slots.any fun x => x.held && x.e.port = e.port) = false) (hs : r.sends = true) (hk : s.relocking e.port = true) :
    slotStarts s c i e r = s.setSlotRun { r with held := true } := by
  rw [slotStarts_new hb hh hm, if_neg (by rw [hl]; exact Bool.false_ne_true), if_neg (by rw [hq]; exact Bool.false_ne_true), if_pos (by rw [hs, hk]; rfl)]

theorem slotStarts_begins (hq : (s.slots.any fun x => x.held && x.e.port = e.port) = false) (hs : r.sends = false ∨ s.relocking e.port = false) :
    slotStarts s c i e r = s.beginSlot r e.frame0 := by
  rw [slotStarts_new hb hh hm, if_neg (by rw [hl]; exact Bool.false_ne_true), if_neg (by rw [hq]; exact Bool.false_ne_true),
    if_neg (by rcases hs with hs | hs <;> simp [hs])]

end Starts

section Begins
variable {s s1 : State} {r : SlotRun} {frame : Nat}

theorem beginSlot_ok {r1 : SlotRun} (h : s.stage r = (s1, .ok r1)) :
    s.beginSlot r frame = s1.setSlotRun { r1 with begun := true, held := false, first := frame } := by
  rw [State.beginSlot, h]

theorem beginSlot_uncorrectable (h : s.stage r = (s1, .error 0x12)) :
    s.beginSlot r frame = ((s1.tellMissed r).dropSlotRun r.ctx r.idx).faultNoUnit r.ctx 0x02 0x12 := by
  rw [State.beginSlot, h]; rfl

theorem beginSlot_error {st : Nat} (hst : st ≠ 0x12) (h : s.stage r = (s1, .error st)) : s.beginSlot r frame = s1.streamError r (some st) := by
  unfold State.beginSlot
  rw [h]
  split
  · next hx => exact absurd (congrArg Prod.snd hx) nofun
  · next hx => exact absurd (Except.error.inj (congrArg Prod.snd hx)) hst
  · next hx => obtain ⟨h1, h2⟩ := Prod.mk.inj hx; rw [h1, Except.error.inj h2]

/-- A sender behind a held slot tells its port. -/
theorem outbox_missedBehind {p : Nat} (hp : r.e.port = p) (hs : r.sends = true) (hl : s.live p = true) (hc : s.canSymbol p = true) (x : SlotRun) :
    ((s.setSlotRun x).tellMissed r).outbox = s.outbox ++ [Output.symbol p 0x07 (r.e.binding ||| r.e.frame0 <<< 16 ||| s.htag r.ctx <<< 36)] := by
  have hlive : (s.setSlotRun x).live p = true := hl
  have hcan : (s.setSlotRun x).canSymbol p = true := hc
  have hhtag : (s.setSlotRun x).htag r.ctx = s.htag r.ctx := rfl
  have hout : (s.setSlotRun x).outbox = s.outbox := rfl
  rw [State.tellMissed, if_pos hs, State.sayMissed, State.sendMissed, hhtag, hp, outbox_symbol_live hlive, if_pos hcan, hout]

end Begins

end Sys2Proof.Proofs
end

section
/-!
Frames of a port: those that leave, with the traffic of the slot that sends, and those that arrive, with the traffic of the slot that
receives (R370, R371, R372, R380, R382, R385, R401).
-/
namespace Sys2Proof.Proofs
open Sys2Proof.Machine Sys2Proof.Laws Sys2Proof.Claims

/-! ### Free data (R379) -/

/-- Free values taken change no more than their count. -/
def Drawn (s t : State) : Prop := t = { s with freeIx := t.freeIx }

theorem Drawn.refl (s : State) : Drawn s s := rfl

theorem Drawn.trans {s t u : State} (h : Drawn s t) (g : Drawn t u) : Drawn s u := by
  rw [Drawn] at *; rw [g]; show _ = _; rw [h]

theorem drawn_freeNat (s : State) (n : Nat) : Drawn s (s.freeNat n).2 := rfl

theorem drawn_freeBytes (s : State) (n : Nat) : Drawn s (s.freeBytes n).2 := by
  induction n generalizing s with
  | zero => exact .refl s
  | succ n ih => exact (drawn_freeNat s 8).trans (ih _)

theorem drawn_foldl {β γ : Type} {f : State × γ → β → State × γ} (h : ∀ x b, Drawn x.1 (f x b).1) (l : List β) (x : State × γ) :
    Drawn x.1 (l.foldl f x).1 := by
  induction l generalizing x with
  | nil => exact .refl x.1
  | cons b l ih => exact (h x b).trans (ih (f x b))

theorem drawn_spoilBeats (s : State) (bs : List Beat) : Drawn s (s.spoilBeats bs).1 :=
  drawn_foldl (fun x b => drawn_freeBytes x.1 b.data.length) bs (s, [])

/-- A received beat with free data. -/
def spoilGot (acc : State × SMap (List Byte)) (g : Nat × List Byte) : State × SMap (List Byte) :=
  ((acc.1.freeBytes g.2.length).2, acc.2 ++ [(g.1, (acc.1.freeBytes g.2.length).1)])

theorem drawn_spoilRun (s : State) (r : SlotRun) : Drawn s (s.spoilRun r).1 :=
  drawn_foldl (f := spoilGot) (fun x g => drawn_freeBytes x.1 g.2.length) r.got (s, [])

theorem Drawn.shows {s t : State} (h : Drawn s t) : t.regs = s.regs ∧ t.images = s.images ∧ t.slots = s.slots := by
  rw [Drawn] at h; rw [h]; exact ⟨rfl, rfl, rfl⟩

theorem htag_of_images {s t : State} (h : t.images = s.images) (c : Nat) : t.htag c = s.htag c := by
  rw [State.htag, State.image, h, State.htag, State.image]

theorem reg_of_regs {s t : State} (h : t.regs = s.regs) (q : Reg) : t.reg q = s.reg q := by rw [State.reg, h, State.reg]

theorem count_of_regs {s t : State} (h : t.regs = s.regs) : t.count = s.count := fld_congr (reg_of_regs h _) _

theorem ctxLive_of_reg {s t : State} {c : Nat} (hc : t.reg (.ctxrCtrl c) = s.reg (.ctxrCtrl c)) (hf : t.reg .pkgFail = s.reg .pkgFail) :
    t.ctxLive c = s.ctxLive c := by
  rw [State.ctxLive, fld_congr hc, State.failed, flag_congr hf, State.ctxLive, State.failed]

/-! ### FRAME_DEPARTURE (R370, R372) -/

/-- A frame without slot traffic. -/
def plainFrame (s : State) (l type f : Nat) (beats : List Beat) : State := s.send (.frame l type f 0 0 (s.count % 256) beats)

section Departure
variable {l : LinkId} {f : BitVec 20} {t3 : W64} {staged : Bool} {s : State} {p : Nat}

/-- A frame that would cross the boundary is not sent. -/
def crosses (s : State) (f : BitVec 20) : Prop := s.strokeCounts = true ∧ s.periodUs * 1000 < 32 * (f.toNat + 1)

/-- The frame of a LIVE port that carries slot traffic or none. -/
def trafficFrame (s : State) (p l f : Nat) (staged : Bool) : State := match s.sender p with
  | none => plainFrame s l 0 f []
  | some r => match s.slotFrame r f with
    | none => plainFrame s l 0 f []
    | some k => s.sendData l f k r staged

theorem trafficFrame_none (h : s.sender p = none) : trafficFrame s p l f.toNat staged = plainFrame s l 0 f.toNat [] := by
  rw [trafficFrame, h]

theorem trafficFrame_idle {r : SlotRun} (h : s.sender p = some r) (hk : s.slotFrame r f.toNat = none) :
    trafficFrame s p l f.toNat staged = plainFrame s l 0 f.toNat [] := by rw [trafficFrame, h]; dsimp only; rw [hk]

theorem trafficFrame_data {r : SlotRun} {k : Nat} (h : s.sender p = some r) (hk : s.slotFrame r f.toNat = some k) :
    trafficFrame s p l f.toNat staged = s.sendData l f.toNat k r staged := by rw [trafficFrame, h]; dsimp only; rw [hk]

variable (hp : s.portOfLink l = some p)
include hp

theorem exec_frameDeparture_not (h : (s.link l).relock ≠ none ∨ crosses s f) : exec (.frameDeparture l f t3 staged) s = .next s := by
  refine congrArg Host.Outcome.next ?_
  rw [hp]
  refine if_pos ?_
  rw [Bool.or_eq_true, Bool.and_eq_true, decide_eq_true_eq, Option.isSome_iff_ne_none]
  exact h

variable (hr : (s.link l).relock = none) (hc : ¬ crosses s f)
include hr hc

/-- A frame that may leave is what its port's state makes it. -/
theorem exec_frameDeparture : exec (.frameDeparture l f t3 staged) s = .next (
    if s.portIs p = 2 then plainFrame s l 4 f.toNat []
    else if s.portIs p = 3 || s.portIs p = 5 then plainFrame s l 0 f.toNat []
    else if !s.live p || (f.toNat = 0 && s.strokeState ≠ 0) then s
    else if f.toNat = 32 && s.strokeState ≠ 0 then
      match (s.link l).t2 with
      | some t2 => plainFrame s l 3 f.toNat (plainBeats (toBytes 8 t2.toNat ++ toBytes 8 t3.toNat))
      | none => plainFrame s l 0 f.toNat []
    else trafficFrame s p l f.toNat staged) := by
  refine congrArg Host.Outcome.next ?_
  rw [hp]
  refine if_neg ?_
  rw [Bool.or_eq_true, Bool.and_eq_true, decide_eq_true_eq, Option.isSome_iff_ne_none, hr]
  exact fun h => hc (h.resolve_left fun h => h rfl)

theorem exec_frameDeparture_training (h : s.portIs p = 2) : exec (.frameDeparture l f t3 staged) s = .next (plainFrame s l 4 f.toNat []) := by
  rw [exec_frameDeparture hp hr hc, if_pos h]

theorem exec_frameDeparture_fenced (h : s.portIs p = 3 ∨ s.portIs p = 5) : exec (.frameDeparture l f t3 staged) s = .next (plainFrame s l 0 f.toNat []) := by
  rw [exec_frameDeparture hp hr hc, if_neg (by omega), if_pos (by simpa using h)]

theorem exec_frameDeparture_silent (h2 : s.portIs p ≠ 2) (h3 : s.portIs p ≠ 3) (h4 : s.portIs p ≠ 4) (h5 : s.portIs p ≠ 5) :
    exec (.frameDeparture l f t3 staged) s = .next s := by
  rw [exec_frameDeparture hp hr hc, if_neg h2, if_neg (by simp [h3, h5]), if_pos (by rw [live_eq_false s h4]; rfl)]

variable (h4 : s.portIs p = 4)
include h4

theorem exec_frameDeparture_live : exec (.frameDeparture l f t3 staged) s = .next (
    if f.toNat = 0 && s.strokeState ≠ 0 then s
    else if f.toNat = 32 && s.strokeState ≠ 0 then
      match (s.link l).t2 with
      | some t2 => plainFrame s l 3 f.toNat (plainBeats (toBytes 8 t2.toNat ++ toBytes 8 t3.toNat))
      | none => plainFrame s l 0 f.toNat []
    else trafficFrame s p l f.toNat staged) := by
  rw [exec_frameDeparture hp hr hc, if_neg (by omega), if_neg (by simp [h4]), (live_iff s p).mpr h4, Bool.not_true, Bool.false_or]

/-- Frame 0 is the boundary's own. -/
theorem exec_frameDeparture_zero (hs : s.strokeState ≠ 0) (hf : f = 0) : exec (.frameDeparture l f t3 staged) s = .next s := by
  rw [exec_frameDeparture_live hp hr hc h4, if_pos (by simp [hs, hf])]

/-- Frame 32 carries the REPLY. -/
theorem exec_frameDeparture_reply (hs : s.strokeState ≠ 0) (hf : f = 32) :
    (∀ t2, (s.link l).t2 = some t2 → exec (.frameDeparture l f t3 staged) s =
      .next (plainFrame s l 3 f.toNat (plainBeats (toBytes 8 t2.toNat ++ toBytes 8 t3.toNat)))) ∧
    ((s.link l).t2 = none → exec (.frameDeparture l f t3 staged) s = .next (plainFrame s l 0 f.toNat [])) := by
  have h32 : f.toNat = 32 := by rw [hf]; rfl
  rw [exec_frameDeparture_live hp hr hc h4, if_neg (by simp [h32]), if_pos (by simp [hs, h32])]
  refine ⟨fun t2 ht => ?_, fun ht => ?_⟩ <;> rw [ht]

theorem exec_frameDeparture_traffic (hf : s.strokeState = 0 ∨ (f ≠ 0 ∧ f ≠ 32)) :
    exec (.frameDeparture l f t3 staged) s = .next (trafficFrame s p l f.toNat staged) := by
  have h0 : ¬ (decide (f.toNat = 0) && decide (s.strokeState ≠ 0)) = true := by
    rw [Bool.and_eq_true, decide_eq_true_eq, decide_eq_true_eq]
    exact fun ⟨h, hs⟩ => (hf.resolve_left hs).1 (BitVec.eq_of_toNat_eq h)
  have h32 : ¬ (decide (f.toNat = 32) && decide (s.strokeState ≠ 0)) = true := by
    rw [Bool.and_eq_true, decide_eq_true_eq, decide_eq_true_eq]
    exact fun ⟨h, hs⟩ => (hf.resolve_left hs).2 (BitVec.eq_of_toNat_eq h)
  rw [exec_frameDeparture_live hp hr hc h4, if_neg h0, if_neg h32]

end Departure

/-! ### The traffic of a sending slot (R377, R380) -/

section Data
variable {l f k : Nat} {staged : Bool} {s : State} {r : SlotRun}

/-- The numbers of the beats that link l carries in frame k of a run's traffic. -/
def linkBeats (s : State) (l k : Nat) (r : SlotRun) : List Nat :=
  frameBeats (s.portSize r.e.port) ((s.portLinks r.e.port).idxOf l) k r.beats

/-- Beats as they leave, those that are there. -/
def taggedBeats (s : State) (js : List Nat) (r : SlotRun) : List Beat :=
  js.filterMap fun j => (r.beat j).map (tagBeat (s.portSize r.e.port) r.beats j)

theorem sendData_none (h : linkBeats s l k r = []) : s.sendData l f k r staged = plainFrame s l 0 f [] := if_pos h

/-- Does every beat stand ready? -/
theorem any_missing_beat (n total : Nat) (js : List Nat) (r : SlotRun) :
    (js.map fun j => (r.beat j).map (tagBeat n total j)).any Option.isNone = true ↔ ∃ j ∈ js, r.beat j = none := by
  simp only [List.any_map, List.any_eq_true, Function.comp_apply, Option.isNone_map, Option.isNone_iff_eq_none]

theorem sendData_missed (h : linkBeats s l k r ≠ []) (hs : staged = false ∨ ∃ j ∈ linkBeats s l k r, r.beat j = none) :
    s.sendData l f k r staged = (s.setSlotRun { r with missed := true }).tellMissed r := by
  refine (if_neg h).trans (if_pos ?_)
  rw [Bool.or_eq_true, any_missing_beat, Bool.not_eq_true']
  exact hs

theorem sendData_sent (h : linkBeats s l k r ≠ []) (hs : staged = true) (hb : ∀ j ∈ linkBeats s l k r, r.beat j ≠ none) :
    s.sendData l f k r staged =
      (if s.streamChanged r then s.spoilBeats (taggedBeats s (linkBeats s l k r) r) else (s, taggedBeats s (linkBeats s l k r) r)).1.send
        (.frame l 1 f (s.htag r.ctx) r.e.binding (s.count % 256)
          (if s.streamChanged r then s.spoilBeats (taggedBeats s (linkBeats s l k r) r) else (s, taggedBeats s (linkBeats s l k r) r)).2) := by
  have hbeats : ((linkBeats s l k r).map fun j => (r.beat j).map (tagBeat (s.portSize r.e.port) r.beats j)).filterMap id =
      taggedBeats s (linkBeats s l k r) r := by rw [List.filterMap_map]; rfl
  rw [← hbeats]
  refine (if_neg h).trans (if_neg ?_)
  rw [Bool.or_eq_true, any_missing_beat, hs]
  exact fun h' => h'.elim (fun h' => absurd h' nofun) fun ⟨j, hj, hn⟩ => hb j hj hn

theorem sendData_unchanged (h : linkBeats s l k r ≠ []) (hs : staged = true) (hb : ∀ j ∈ linkBeats s l k r, r.beat j ≠ none)
    (hc : s.streamChanged r = false) : s.sendData l f k r staged =
      s.send (.frame l 1 f (s.htag r.ctx) r.e.binding (s.count % 256) (taggedBeats s (linkBeats s l k r) r)) := by
  rw [sendData_sent h hs hb, if_neg (by rw [hc]; exact Bool.false_ne_true)]

/-- Where the entry was changed since its prefetch the data are free. -/
theorem sendData_changed (h : linkBeats s l k r ≠ []) (hs : staged = true) (hb : ∀ j ∈ linkBeats s l k r, r.beat j ≠ none)
    (hc : s.streamChanged r = true) {s0 : State} {bs : List Beat} (hx : s.spoilBeats (taggedBeats s (linkBeats s l k r) r) = (s0, bs)) :
    s.sendData l f k r staged = s0.send (.frame l 1 f (s0.htag r.ctx) r.e.binding (s0.count % 256) bs) := by
  have hd := drawn_spoilBeats s (taggedBeats s (linkBeats s l k r) r)
  rw [hx] at hd
  obtain ⟨hregs, himages, -⟩ := hd.shows
  rw [sendData_sent h hs hb, if_pos hc, hx, htag_of_images himages, count_of_regs hregs]

end Data

/-! ### DATA_FRAME (R371, R382, R401) -/

theorem fld_satFld (s : State) (r : Reg) (f : FName) (k : Nat) :
    (s.satFld r f k).fld r f = min (s.fld r f + k) (2 ^ ((r.pos f).1 + 1 - (r.pos f).2) - 1) := by
  rw [State.satFld, fld_setFld]
  have hpos := Nat.two_pow_pos ((r.pos f).1 + 1 - (r.pos f).2)
  exact Nat.mod_eq_of_lt (by omega)

theorem reg_satFld_other (s : State) {r q : Reg} (f : FName) (k : Nat) (h : q.addr ≠ r.addr) : (s.satFld r f k).reg q = s.reg q :=
  reg_setFld_other s _ _ h

theorem addr_portCount (p : Nat) : (Reg.portCount p).addr = 0x410018 + 32 * p := rfl
theorem addr_linkFecReg (l : Nat) : (linkFecReg l).addr = 0x400000 + l / 8 * 0x40000 + 0x8 + 64 * (l % 8) := rfl
theorem addr_ctxrCtrl (c : Nat) : (Reg.ctxrCtrl c).addr = 0x3800000 + c * 0x10000 + 0x110 := rfl
theorem pos_portCount (p : Nat) : (Reg.portCount p).pos .FRAMES_LOST = (47, 32) ∧ (Reg.portCount p).pos .UNMATCHED = (15, 0) ∧
    (Reg.portCount p).pos .SLOTS_MISSED = (63, 48) := ⟨rfl, rfl, rfl⟩
theorem pos_linkFec (l : Nat) : (linkFecReg l).pos .UNCORR = (31, 0) := rfl

theorem portOfLink_lt {s : State} {l p : Nat} (h : s.portOfLink l = some p) : p < 16 := List.mem_range.mp (List.mem_of_find?_eq_some h)

/-- A receiver depends on the runs and on which contexts live. -/
theorem receiver_congr {s t : State} (hs : t.slots = s.slots) (hc : ∀ c, t.ctxLive c = s.ctxLive c) (p : Nat) (q : SlotRun → Bool) :
    t.receiver p q = s.receiver p q := by simp only [State.receiver, hs, hc]

/-- A lost frame counted. -/
def lostCounted (s : State) (p l : Nat) : State := (s.satFld (.portCount p) .FRAMES_LOST 1).satFld (linkFecReg l) .UNCORR 1

section Lost
variable (s : State) {p : Nat} (hp : p < 16) (l : LinkId)

theorem lostCounted_shows : (lostCounted s p l).fld (.portCount p) .FRAMES_LOST = min (s.fld (.portCount p) .FRAMES_LOST + 1) 0xFFFF ∧
    (lostCounted s p l).fld (linkFecReg l) .UNCORR = min (s.fld (linkFecReg l) .UNCORR + 1) (2 ^ 32 - 1) := by
  have hne : (Reg.portCount p).addr ≠ (linkFecReg l).addr := by rw [addr_portCount, addr_linkFecReg]; omega
  refine ⟨?_, ?_⟩
  · rw [lostCounted, fld_congr (reg_satFld_other _ _ _ hne), fld_satFld, (pos_portCount p).1]
    rfl
  · rw [lostCounted, fld_satFld, fld_congr (reg_satFld_other _ _ _ hne.symm), pos_linkFec]
    rfl

include hp in
theorem ctxLive_lostCounted (c : Nat) : (lostCounted s p l).ctxLive c = s.ctxLive c := by
  have hl := l.isLt
  refine ctxLive_of_reg ?_ ?_
  · rw [lostCounted, reg_satFld_other _ _ _ (by rw [addr_ctxrCtrl, addr_linkFecReg]; omega), reg_satFld_other _ _ _ (by rw [addr_ctxrCtrl, addr_portCount]; omega)]
  · have hpkg : Reg.pkgFail.addr = 0x180 := rfl
    rw [lostCounted, reg_satFld_other _ _ _ (by rw [hpkg, addr_linkFecReg]; omega), reg_satFld_other _ _ _ (by rw [hpkg, addr_portCount]; omega)]

/-- A run missed by what its port brings. -/
theorem missRun_shows (r : SlotRun) (h : r.missed = false) {c i : Nat} (hc : r.ctx = c) (hi : r.idx = i) :
    (s.missRun r).slotRun c i = some { r with missed := true } ∧ ∀ q, (s.missRun r).reg q = s.reg q := by
  obtain ⟨hslots, -, -⟩ := relayMissed_shows (s.setSlotRun { r with missed := true }) r
  rw [State.missRun, if_neg (by rw [h]; exact Bool.false_ne_true)]
  refine ⟨(slotRun_congr hslots ..).trans (slotRun_setSlotRun s { r with missed := true } hc hi), fun q => ?_⟩
  rw [reg_relayMissed, reg_setSlotRun]

end Lost

section DataFrame
variable {l : LinkId} {f : BitVec 20} {htag binding : W16} {beats : List FrameBeat} {s : State} {p : Nat} {buddy : Option BuddyStart} {lost : Bool}
  (hp : s.portOfLink l = some p)
include hp

theorem exec_dataFrame_not (h : s.live p = false ∨ (s.link l).relock ≠ none) : exec (.dataFrame l f htag binding beats buddy lost) s = .next s := by
  refine congrArg Host.Outcome.next ?_
  rw [hp]
  refine if_pos ?_
  rw [Bool.or_eq_true, Bool.not_eq_true', Option.isSome_iff_ne_none]
  exact h

variable (hl : s.live p = true) (hr : (s.link l).relock = none)
include hl hr

theorem exec_dataFrame_lost : exec (.dataFrame l f htag binding beats buddy true) s = .next (match s.receiver p (fun _ => true) with
    | some r => (lostCounted s p l).missRun r
    | none => lostCounted s p l) := by
  have hrecv : (lostCounted s p l).receiver p (fun _ => true) = s.receiver p (fun _ => true) :=
    receiver_congr (s := s) (t := lostCounted s p l) rfl (ctxLive_lostCounted s (portOfLink_lt hp) l) p _
  refine congrArg Host.Outcome.next ?_
  rw [hp, ← hrecv]
  exact (if_neg (by simp [hl, hr])).trans (if_pos rfl)

/-- Does a run receive frames with an HTAG and a BINDING? -/
def fitsFrame (s : State) (htag binding : W16) (r : SlotRun) : Bool := r.e.binding = binding.toNat && s.htag r.ctx = htag.toNat

omit hp hl hr in
/-- The first line of a buddy epoch, where the frame brings one. -/
def buddyBegins (s : State) (p : Nat) (r : SlotRun) (buddy : Option BuddyStart) : State := match buddy with
  | some b => if r.e.kind = 2 then s.startEpoch p r.ctx b else s
  | none => s

theorem exec_dataFrame_unmatched (h : s.receiver p (fitsFrame s htag binding) = none) : exec (.dataFrame l f htag binding beats buddy false) s =
    .next (if s.matched p htag.toNat binding.toNat then s else s.addFld (.portCount p) .UNMATCHED 1) := by
  refine congrArg Host.Outcome.next ?_
  rw [hp]
  refine (if_neg (by simp [hl, hr])).trans ((if_neg Bool.false_ne_true).trans ?_)
  change (match s.receiver p (fitsFrame s htag binding) with | none => _ | some r => _) = _
  rw [h]

theorem exec_dataFrame_taken {r : SlotRun} (h : s.receiver p (fitsFrame s htag binding) = some r) :
    exec (.dataFrame l f htag binding beats buddy false) s = .next (if r.missed then s else (buddyBegins s p r buddy).takeFrame l f.toNat r beats) := by
  refine congrArg Host.Outcome.next ?_
  rw [hp]
  refine (if_neg (by simp [hl, hr])).trans ((if_neg Bool.false_ne_true).trans ?_)
  change (match s.receiver p (fitsFrame s htag binding) with | none => _ | some r => _) = _
  rw [h]
  rfl

end DataFrame

/-! ### The beats of a frame at their places (R377, R380) -/

section Beats
variable (n li k : Nat)

/-- The number of a beat of frame k of a slot on link number li of n. -/
def beatNumber (n li k : Nat) (b : FrameBeat) : Nat := k * 46 * n + b.pos.val * n + li

/-- One beat stored. -/
def storeBeat (n li k : Nat) (r : SlotRun) (b : FrameBeat) : SlotRun :=
  { r with got := smSet (fun _ => []) r.got (beatNumber n li k b) (toBytes 64 b.data.toNat),
           lasts := if b.last then r.lasts ++ [beatNumber n li k b] else r.lasts,
           msgs := if b.start then r.msgs ++ [(beatNumber n li k b, b.index.toNat, 16 * (b.lenM1.toNat + 1))] else r.msgs }

theorem got_storeBeat (r : SlotRun) (b : FrameBeat) :
    (storeBeat n li k r b).got = smSet (fun _ => []) r.got (beatNumber n li k b) (toBytes 64 b.data.toNat) := rfl

theorem beatNumber_ne (hn : 0 < n) {a b : FrameBeat} (h : a.pos ≠ b.pos) : beatNumber n li k a ≠ beatNumber n li k b := fun he => by
  have hmul : a.pos.val * n = b.pos.val * n := by unfold beatNumber at he; omega
  exact h (Fin.ext (Nat.eq_of_mul_eq_mul_right hn hmul))

/-- The beats of a frame stored in turn. -/
def storeBeats (n li k : Nat) (r : SlotRun) (beats : List FrameBeat) : SlotRun := beats.foldl (storeBeat n li k) r

theorem storeBeats_keeps (r : SlotRun) (beats : List FrameBeat) : (storeBeats n li k r beats).ctx = r.ctx ∧ (storeBeats n li k r beats).idx = r.idx ∧
    (storeBeats n li k r beats).rx = r.rx := by
  induction beats generalizing r with
  | nil => exact ⟨rfl, rfl, rfl⟩
  | cons b beats ih => exact ih (storeBeat n li k r b)

theorem got_storeBeats_other (r : SlotRun) (beats : List FrameBeat) {j : Nat} (h : ∀ b ∈ beats, j ≠ beatNumber n li k b) :
    smGet (fun _ => []) (storeBeats n li k r beats).got j = smGet (fun _ => []) r.got j := by
  induction beats generalizing r with
  | nil => rfl
  | cons b beats ih =>
    obtain ⟨hb, hrest⟩ := List.forall_mem_cons.mp h
    refine (ih (storeBeat n li k r b) hrest).trans ?_
    rw [got_storeBeat]
    exact smGet_smSet_other _ _ _ hb

/-- Beats at distinct places all stand where they belong. -/
theorem got_storeBeats (hn : 0 < n) (r : SlotRun) {beats : List FrameBeat} (hd : beats.Pairwise fun a b => a.pos ≠ b.pos) {b : FrameBeat} (hb : b ∈ beats) :
    smGet (fun _ => []) (storeBeats n li k r beats).got (beatNumber n li k b) = toBytes 64 b.data.toNat := by
  induction beats generalizing r with
  | nil => exact absurd hb List.not_mem_nil
  | cons a beats ih =>
    obtain ⟨hfirst, hrest⟩ := List.pairwise_cons.mp hd
    rcases List.mem_cons.mp hb with rfl | hb
    · refine (got_storeBeats_other n li k (storeBeat n li k r b) beats fun c hc => beatNumber_ne n li k hn (hfirst c hc)).trans ?_
      rw [got_storeBeat]
      exact smGet_smSet_same ..
    · exact ih (storeBeat n li k r a) hrest hb

/-- The run with a frame's beats, counted from the first frame that came. -/
def withFrame (s : State) (l f : Nat) (r : SlotRun) (beats : List FrameBeat) : SlotRun :=
  storeBeats (s.portSize r.fromPort) ((s.portLinks r.fromPort).idxOf l) (f - r.rx.getD f) { r with rx := some (r.rx.getD f) } beats

theorem takeFrame_eq (s : State) (l f : Nat) (r : SlotRun) (beats : List FrameBeat) : s.takeFrame l f r beats = s.setSlotRun (withFrame s l f r beats) := rfl

theorem takeFrame_shows (s : State) (l f : Nat) (r : SlotRun) (beats : List FrameBeat) :
    (s.takeFrame l f r beats).slotRun r.ctx r.idx = some (withFrame s l f r beats) ∧ (withFrame s l f r beats).rx = some (r.rx.getD f) ∧
    (s.takeFrame l f r beats).mem = s.mem := by
  obtain ⟨hc, hi, hrx⟩ := storeBeats_keeps (s.portSize r.fromPort) ((s.portLinks r.fromPort).idxOf l) (f - r.rx.getD f) { r with rx := some (r.rx.getD f) } beats
  rw [takeFrame_eq]
  exact ⟨slotRun_setSlotRun s _ hc hi, hrx, rfl⟩

/-- The first line of a buddy epoch opens it. -/
theorem startEpoch_shows (s : State) (p c : Nat) (b : BuddyStart) : ((s.startEpoch p c b).recvOf p c).active = true ∧
    ((s.startEpoch p c b).recvOf p c).dst = b.dst ∧ ((s.startEpoch p c b).recvOf p c).total = b.total.toNat ∧
    ((s.startEpoch p c b).recvOf p c).epoch = b.epoch.toNat ∧ ((s.startEpoch p c b).recvOf p c).landed = 0 := by
  rw [State.startEpoch, recvOf_setRecv_same]
  exact ⟨rfl, rfl, rfl, rfl, rfl⟩

theorem recvOf_takeFrame (s : State) (l f : Nat) (r : SlotRun) (beats : List FrameBeat) (p c : Nat) : (s.takeFrame l f r beats).recvOf p c = s.recvOf p c := rfl

end Beats

end Sys2Proof.Proofs
end

section
/-!
MISSED from the far end of a slot and the slot's own end (R379, R380, R381, R385, R402): with the files before it, what a port
brings and sends in its slots.
-/
namespace Sys2Proof.Proofs
open Sys2Proof.Machine Sys2Proof.Laws Sys2Proof.Claims

/-! ### MISSED (R381) -/

section Missed
variable (s : State) (p : PortId) (binding : W16) (start : BitVec 20) (htag : W16)

/-- Is slot ix of context c, with its entry, the one that MISSED names? -/
def NamedByMissed (c ix : Nat) (e : SlotEntry) : Prop :=
  c < 16 ∧ s.slotAt c ix = some e ∧ s.slotDue c ix e true = true ∧ s.htag c = htag.toNat ∧
    e.frame0 = start.toNat ∧ e.binding = binding.toNat ∧ ((e.mode = 1 ∧ e.port = p) ∨ (e.mode = 2 ∧ e.inPort = p))

/-- The same of an entry alone, as the model asks it. -/
def entryMissed (c : Nat) (e : SlotEntry) : Bool :=
  e.binding = binding.toNat && e.frame0 = start.toNat && s.htag c = htag.toNat && (if e.mode = 2 then e.inPort = p.val else e.mode = 1 && e.port = p)

theorem entryMissed_iff (c : Nat) (e : SlotEntry) : entryMissed s p binding start htag c e = true ↔
    s.htag c = htag.toNat ∧ e.frame0 = start.toNat ∧ e.binding = binding.toNat ∧ ((e.mode = 1 ∧ e.port = p) ∨ (e.mode = 2 ∧ e.inPort = p)) := by
  have hport : (if e.mode = 2 then decide (e.inPort = p.val) else decide (e.mode = 1) && decide (e.port = p)) = true ↔
      (e.mode = 1 ∧ e.port = p) ∨ (e.mode = 2 ∧ e.inPort = p) := by
    split
    · next h => simp [h]
    · next h => simp [h]
  rw [entryMissed, Bool.and_eq_true, Bool.and_eq_true, Bool.and_eq_true, hport, decide_eq_true_eq, decide_eq_true_eq, decide_eq_true_eq]
  exact ⟨fun ⟨⟨⟨hb, hf⟩, hh⟩, hp⟩ => ⟨hh, hf, hb, hp⟩, fun ⟨hh, hf, hb, hp⟩ => ⟨⟨⟨hb, hf⟩, hh⟩, hp⟩⟩

/-- The slots that MISSED may mean. -/
def missedSlots : List (Nat × Nat × SlotEntry) := allContexts.flatMap fun c =>
  ((s.image c).slots.zipIdx.filter fun x => entryMissed s p binding start htag c x.1 && s.slotDue c x.2 x.1 true).map fun x => (c, x.2, x.1)

theorem mem_missedSlots (x : Nat × Nat × SlotEntry) :
    x ∈ missedSlots s p binding start htag ↔ NamedByMissed s p binding start htag x.1 x.2.1 x.2.2 := by
  obtain ⟨c, ix, e⟩ := x
  have hmem : (c, ix, e) ∈ missedSlots s p binding start htag ↔
      c < 16 ∧ s.slotAt c ix = some e ∧ entryMissed s p binding start htag c e = true ∧ s.slotDue c ix e true = true := by
    simp [missedSlots, allContexts, State.slotAt, List.mem_zipIdx_iff_getElem?]
  rw [hmem, entryMissed_iff, NamedByMissed]
  exact ⟨fun ⟨hc, ha, hf, hd⟩ => ⟨hc, ha, hd, hf⟩, fun ⟨hc, ha, hd, hf⟩ => ⟨hc, ha, hf, hd⟩⟩

/-- What MISSED does to the slot it means. -/
def missNamed (x : Nat × Nat × SlotEntry) : State :=
  if !s.live p || !s.canSymbol p || ((s.slotRun x.1 x.2.1).isNone && s.reached (x.2.2.startNs + x.2.2.lenNs)) then s
  else if ((s.slotRun x.1 x.2.1).getD (freshRun x.1 x.2.1 x.2.2 none)).role = some 1 then s
  else s.missRun ((s.slotRun x.1 x.2.1).getD (freshRun x.1 x.2.1 x.2.2 none))

theorem exec_missed : exec (.missed p binding start htag) s = .next (match missedSlots s p binding start htag with
    | [] => s
    | x :: _ => missNamed s p x) := rfl

theorem exec_missed_none (h : ∀ c ix e, ¬ NamedByMissed s p binding start htag c ix e) : exec (.missed p binding start htag) s = .next s := by
  have hnil : missedSlots s p binding start htag = [] :=
    List.eq_nil_iff_forall_not_mem.mpr fun x hx => h _ _ _ ((mem_missedSlots s p binding start htag x).mp hx)
  rw [exec_missed, hnil]

theorem exec_missed_silent (h : s.live p = false ∨ s.canSymbol p = false) : exec (.missed p binding start htag) s = .next s := by
  rw [exec_missed]
  cases missedSlots s p binding start htag with
  | nil => rfl
  | cons x l => exact congrArg Host.Outcome.next (if_pos (by rcases h with h | h <;> simp [h]))

/-- A slot that alone fits is the one meant. -/
theorem exec_missed_named {c ix : Nat} {e : SlotEntry} (h : NamedByMissed s p binding start htag c ix e)
    (hu : ∀ c2 ix2 e2, NamedByMissed s p binding start htag c2 ix2 e2 → c2 = c ∧ ix2 = ix) :
    exec (.missed p binding start htag) s = .next (missNamed s p (c, ix, e)) := by
  have hmem := (mem_missedSlots s p binding start htag (c, ix, e)).mpr h
  rw [exec_missed]
  cases hl : missedSlots s p binding start htag with
  | nil => rw [hl] at hmem; exact absurd hmem List.not_mem_nil
  | cons x l =>
    obtain ⟨cx, ixx, ex⟩ := x
    have hx : NamedByMissed s p binding start htag cx ixx ex :=
      (mem_missedSlots s p binding start htag (cx, ixx, ex)).mp (by rw [hl]; exact List.mem_cons_self)
    obtain ⟨rfl, rfl⟩ := hu _ _ _ hx
    rw [Option.some.inj (h.2.1.symm.trans hx.2.1)]

end Missed

section MissNamed
variable {s : State} {p : PortId} {c ix : Nat} {e : SlotEntry} {r : SlotRun}

/-- A slot that is over is not marked. -/
theorem missNamed_over (hr : s.slotRun c ix = none) (ht : s.reached (e.startNs + e.lenNs) = true) : missNamed s p (c, ix, e) = s :=
  if_pos (by simp [hr, ht])

theorem missNamed_run (hl : s.live p = true) (hc : s.canSymbol p = true)
    (hr : s.slotRun c ix = some r ∨ (s.slotRun c ix = none ∧ r = freshRun c ix e none ∧ s.reached (e.startNs + e.lenNs) = false)) :
    missNamed s p (c, ix, e) = if r.role = some 1 then s else s.missRun r := by
  have hrun : IsRun s c ix e r := hr.imp_right fun ⟨hn, hf, _⟩ => ⟨hn, hf⟩
  have hopen : ¬ (!s.live p || !s.canSymbol p || ((s.slotRun c ix).isNone && s.reached (e.startNs + e.lenNs))) = true := by
    rcases hr with hr | ⟨-, -, ht⟩
    · simp [hl, hc, hr]
    · simp [hl, hc, ht]
  refine (if_neg hopen).trans ?_
  dsimp only
  rw [getD_of_isRun hrun]

end MissNamed

/-! ### SLOT_END (R380, R381, R385, R402) -/

/-- The end of a run, itself no longer listed. -/
def endRun (u : State) (c : Nat) (r : SlotRun) : State :=
  if !u.ctxLive c then (if r.begun then u.slotLeaves r else u)
  else if !(r.begun || r.held || r.missed) then u
  else if u.endsMissed r then (if r.missed then u else if r.held then u.tellMissed r else u.relayMissed r).slotMissed r
  else u.slotDone r

section SlotEnd
variable {s s0 : State} {c : Ctx} {ix : EntryIx} {r0 r : SlotRun}

theorem exec_slotEnd_none (h : s.slotRun c ix.toNat = none) : exec (.slotEnd c ix) s = .next s := by
  refine congrArg Host.Outcome.next ?_
  rw [h]

theorem exec_slotEnd_early (h : s.slotRun c ix.toNat = some r) (ht : s.reached (r.e.startNs + r.e.lenNs) = false) :
    exec (.slotEnd c ix) s = .next s := by
  refine congrArg Host.Outcome.next ?_
  rw [h]
  exact if_pos (by rw [ht]; rfl)

theorem exec_slotEnd_due (h : s.slotRun c ix.toNat = some r0) (ht : s.reached (r0.e.startNs + r0.e.lenNs) = true)
    (hx : (if s.streamChanged r0 then s.spoilRun r0 else (s, r0)) = (s0, r)) :
    exec (.slotEnd c ix) s = .next (endRun (s0.dropSlotRun c ix.toNat) c r) := by
  refine congrArg Host.Outcome.next ?_
  rw [h]
  refine (if_neg (by rw [ht]; exact Bool.false_ne_true)).trans ?_
  dsimp only
  rw [hx]
  rfl

/-- Free data leave the contexts as they are. -/
theorem ctxLive_spoiled (hx : (if s.streamChanged r0 then s.spoilRun r0 else (s, r0)) = (s0, r)) (c i : Nat) :
    (s0.dropSlotRun c i).ctxLive c = s.ctxLive c := by
  have hd : Drawn s s0 := by
    split at hx
    · have hd := drawn_spoilRun s r0
      rwa [hx] at hd
    · rw [← (Prod.mk.inj hx).1]; exact .refl s
  obtain ⟨hregs, -, -⟩ := hd.shows
  exact ctxLive_of_reg (reg_of_regs hregs _) (reg_of_regs hregs _)

end SlotEnd

section EndRun
variable {u : State} {c : Nat} {r : SlotRun}

theorem endRun_reset (h : u.ctxLive c = false) : endRun u c r = if r.begun then u.slotLeaves r else u := if_pos (by rw [h]; rfl)

variable (hc : u.ctxLive c = true)
include hc

theorem endRun_live : endRun u c r = if !(r.begun || r.held || r.missed) then u
    else if u.endsMissed r then (if r.missed then u else if r.held then u.tellMissed r else u.relayMissed r).slotMissed r
    else u.slotDone r := if_neg (by rw [hc]; exact Bool.false_ne_true)

theorem endRun_unstarted (hb : r.begun = false) (hh : r.held = false) (hm : r.missed = false) : endRun u c r = u := by
  rw [endRun_live hc, if_pos (by simp [hb, hh, hm])]

theorem endRun_started (h : r.begun = true ∨ r.held = true ∨ r.missed = true) : endRun u c r =
    if u.endsMissed r then (if r.missed then u else if r.held then u.tellMissed r else u.relayMissed r).slotMissed r else u.slotDone r := by
  rw [endRun_live hc, if_neg (by rcases h with h | h | h <;> simp [h])]

end EndRun

/-! ### What a missed slot counts, and what a complete stream leaves -/

/-- A slot remembered as missed in the present stroke. -/
def rememberMissed (s : State) (c i : Nat) : State := { s with stroke := { s.stroke with missedNow := s.stroke.missedNow ++ [(c, i)] } }

theorem reg_rememberMissed (s : State) (c i : Nat) (q : Reg) : (rememberMissed s c i).reg q = s.reg q := rfl
theorem missedNow_rememberMissed (s : State) (c i : Nat) : (rememberMissed s c i).stroke.missedNow = s.stroke.missedNow ++ [(c, i)] := rfl

theorem stroke_setFld (s : State) (q : Reg) (f : FName) (v : Nat) : (s.setFld q f v).stroke = s.stroke := rfl

/-- A missed slot counted and remembered, before its context is told. -/
def missCounted (s : State) (r : SlotRun) : State :=
  rememberMissed ((s.satFld (.portCount r.e.port) .SLOTS_MISSED 1).addFld (.linkwStat r.ctx) .MISSED 1) r.ctx r.idx

section Counted
variable (s : State) (r : SlotRun)

/-- A bobbin slot that brought no message leaves nothing else. -/
theorem slotMissed_noMessage (hk : r.e.kind = 1) (hm : r.msgs = []) : s.slotMissed r = (missCounted s r).vfEvent r.ctx 6 := by
  have hmessages : r.messages = [] := by rw [SlotRun.messages, hm]; rfl
  have hstatus : s.streamStatus r 0x18 = s := if_pos (by rw [hk]; decide)
  unfold State.slotMissed
  dsimp only
  split
  · rw [hmessages, List.foldl_nil, hstatus]
    rfl
  · next h => exact absurd (hk.symm.trans h) (by decide)
  · next h _ => exact absurd hk h

theorem reg_missCounted (q : Reg) : (missCounted s r).reg q =
    ((s.satFld (.portCount r.e.port) .SLOTS_MISSED 1).addFld (.linkwStat r.ctx) .MISSED 1).reg q := reg_rememberMissed ..

theorem missedNow_missCounted : (missCounted s r).stroke.missedNow = s.stroke.missedNow ++ [(r.ctx, r.idx)] := by
  rw [missCounted, missedNow_rememberMissed, State.addFld, stroke_setFld, State.satFld, stroke_setFld]

theorem stroke_vfEvent (c v : Nat) : (s.vfEvent c v).stroke = s.stroke := by
  have h := events_vfEvent s c v
  rw [Events] at h
  rw [h]

theorem missCounted_shows (hp : r.e.port < 16) :
    ((missCounted s r).vfEvent r.ctx 6).fld (.linkwStat r.ctx) .MISSED = (s.fld (.linkwStat r.ctx) .MISSED + 1) % 2 ^ 32 ∧
    ((missCounted s r).vfEvent r.ctx 6).fld (.portCount r.e.port) .SLOTS_MISSED = min (s.fld (.portCount r.e.port) .SLOTS_MISSED + 1) 0xFFFF ∧
    ((missCounted s r).vfEvent r.ctx 6).stroke.missedNow = s.stroke.missedNow ++ [(r.ctx, r.idx)] := by
  have hlow : (Reg.portCount r.e.port).addr < 0x800000 := by rw [addr_portCount]; omega
  have hne : (Reg.portCount r.e.port).addr ≠ (Reg.linkwStat r.ctx).addr := by rw [addr_portCount, addr_linkwStat]; omega
  refine ⟨?_, ?_, ?_⟩
  · rw [fld_congr (reg_linkwStat_vfEvent ..), fld_congr (reg_missCounted ..), State.addFld, fld_setFld, (pos_linkwStat r.ctx).2,
      fld_congr (reg_satFld_other s _ _ hne.symm)]
    rfl
  · have hreg : ((missCounted s r).vfEvent r.ctx 6).reg (.portCount r.e.port) = (s.satFld (.portCount r.e.port) .SLOTS_MISSED 1).reg (.portCount r.e.port) :=
      (reg_vfEvent_low _ _ _ hlow).trans ((reg_missCounted ..).trans (reg_setFld_other _ _ _ hne))
    rw [fld_congr hreg, fld_satFld, (pos_portCount r.e.port).2.2]
    rfl
  · rw [stroke_vfEvent, missedNow_missCounted]

/-- A stream whose pieces are all written has STATUS OK, then its knot arrives. -/
theorem slotDone_written (hk : r.e.kind = 0) {t : StreamEntry} {a : Nat} (hs : r.stream = some t) (ht : r.target t = some a) {v : State}
    (hv : (r.groups t).foldl (fun (acc : State × Bool) (g : Nat × Option (List Byte)) => ((acc.1.linkWrite r.ctx (a + g.1) (g.2.getD [])).1,
      acc.2 && (acc.1.linkWrite r.ctx (a + g.1) (g.2.getD [])).2)) (s, true) = (v, true)) : s.slotDone r = v.streamDone r t := by
  rw [State.slotDone, hk, hs]
  change (match r.target t with | none => _ | some a => _) = _
  rw [ht]
  dsimp only
  rw [hv]

end Counted

end Sys2Proof.Proofs
end

section
/-!
The statement on slots and frames, assembled from the commands that make it up.
-/
namespace Sys2Proof.Proofs
open Sys2Proof.Machine Sys2Proof.Laws Sys2Proof.Claims

section Outcomes
variable {l : LinkId} {f : BitVec 20} {htag binding : W16} {beats : List FrameBeat} {s : State} {p : Nat} {r : SlotRun} (hp : s.portOfLink l = some p)
  (hl : s.live p = true) (hr : (s.link l).relock = none) (buddy : Option BuddyStart)
include hp hl hr

theorem lost_unreceived (h : s.receiver p (fun _ => true) = none) :
    exec (.dataFrame l f htag binding beats buddy true) s = .next (lostCounted s p l) := by
  rw [exec_dataFrame_lost hp hl hr, h]

theorem lost_received (h : s.receiver p (fun _ => true) = some r) :
    exec (.dataFrame l f htag binding beats buddy true) s = .next ((lostCounted s p l).missRun r) := by
  rw [exec_dataFrame_lost hp hl hr, h]

theorem frame_matched (h : s.receiver p (fitsFrame s htag binding) = none) (hm : s.matched p htag.toNat binding.toNat = true) :
    exec (.dataFrame l f htag binding beats buddy false) s = .next s := by
  rw [exec_dataFrame_unmatched hp hl hr h, if_pos hm]

theorem frame_unmatched (h : s.receiver p (fitsFrame s htag binding) = none) (hm : s.matched p htag.toNat binding.toNat = false) :
    exec (.dataFrame l f htag binding beats buddy false) s = .next (s.addFld (.portCount p) .UNMATCHED 1) := by
  rw [exec_dataFrame_unmatched hp hl hr h, if_neg (by rw [hm]; exact Bool.false_ne_true)]

theorem frame_of_missed (h : s.receiver p (fitsFrame s htag binding) = some r) (hm : r.missed = true) :
    exec (.dataFrame l f htag binding beats buddy false) s = .next s := by
  rw [exec_dataFrame_taken hp hl hr h, if_pos hm]

theorem frame_taken (h : s.receiver p (fitsFrame s htag binding) = some r) (hm : r.missed = false) :
    exec (.dataFrame l f htag binding beats buddy false) s = .next ((buddyBegins s p r buddy).takeFrame l f.toNat r beats) := by
  rw [exec_dataFrame_taken hp hl hr h, if_neg (by rw [hm]; exact Bool.false_ne_true)]

omit hp hl hr in
theorem fld_unmatched (s : State) (p : Nat) :
    (s.addFld (.portCount p) .UNMATCHED 1).fld (.portCount p) .UNMATCHED = (s.fld (.portCount p) .UNMATCHED + 1) % 2 ^ 16 := by
  rw [State.addFld, fld_setFld, (pos_portCount p).2.1]
  rfl

end Outcomes

/-- Settles O52: it holds. Each command's branches are the model's own; what makes the clauses true is that a run put in the list is
the one found there, that counters of a port, a link and a context share no register, and that free data change nothing but their count. -/
theorem slotsAndFrames : Obligations.SlotsAndFrames := by
  unfold Obligations.SlotsAndFrames
  refine ⟨?table, ?starts, ?departure, ?arrival, ?missed, ?ends⟩
  case table =>
    intro c base s
    refine ⟨fun h => ⟨_, exec_streamTableLock c base s, streamsLock_open base s c h⟩, fun h => ?_, fun h => ⟨_, exec_streamTableUnlock c base s, streamsUnlock_armed base s c h⟩,
      fun h => ⟨_, exec_streamTableUnlock c base s, streamsUnlock_idle base s c h⟩⟩
    obtain ⟨hsame, hother⟩ := streamsLock_locked base s c h
    exact ⟨fun hb => (exec_streamTableLock c base s).trans (congrArg _ (hsame hb)), fun hb => ⟨_, exec_streamTableLock c base s, hother hb⟩⟩
  case starts =>
    intro c ix rerun s
    refine ⟨exec_slotCommand_none, fun e he => ⟨fun h => exec_prefetch_idle he (.inr h), exec_slotStart_idle he, fun h => exec_prefetch_idle he (.inl h),
      exec_slotStart_unfetched he, ?prefetch, ?start⟩⟩
    case prefetch =>
      intro r hr hk hc hi hre
      refine ⟨prefetch_known he hr, fun hd ht hb hs => ?_⟩
      have hgo : exec (.streamPrefetch c ix rerun) s = .next (s.fetchStream r) := by
        rw [exec_prefetch_due he hr hk hd ht, if_neg (by simp [hb, hs])]
      rw [← hc, ← hi, ← hre]
      refine ⟨fun s1 t h => ?_, fun s1 st h => ?_⟩
      · obtain ⟨hmem, hrun⟩ := fetchStream_ok_shows h
        exact ⟨_, hgo, hmem, hrun⟩
      · obtain ⟨hcount, hgone⟩ := errorCounted_shows (errorStatus s1 r st) r
        refine ⟨errorCounted (errorStatus s1 r st) r, ?_, hgone, ?_⟩
        · cases st <;> exact hcount
        · rw [hgo, fetchStream_error h, streamError_eq]
    case start =>
      intro hd ht r hr hs hc hi hre
      rw [exec_slotStart_due he hr hs hd ht]
      refine ⟨fun h => congrArg _ (slotStarts_known (by simpa [or_assoc] using h)), fun hb hh hm => ⟨fun hl => ?_, fun hl hq => ?_, fun hl hq hsend hk => ?_, fun hl hq hk => ?_⟩⟩
      · exact ⟨_, congrArg _ (slotStarts_dead hb hh hm hl), slotRun_dropSlotRun .., rfl⟩
      · refine ⟨_, congrArg _ (slotStarts_behind hb hh hm hl hq), ?_, fun hsend hsym => ?_⟩
        · exact (slotRun_congr (tellMissed_shows _ r).1 ..).trans (slotRun_setSlotRun s { r with missed := true } hc hi)
        · rw [outbox_missedBehind (congrArg _ hre) hsend hl hsym, hre, hc]
      · exact ⟨_, congrArg _ (slotStarts_held hb hh hm hl hq hsend hk), slotRun_setSlotRun s { r with held := true } hc hi⟩
      · rw [slotStarts_begins hb hh hm hl hq hk]
        refine ⟨fun s1 r1 h => congrArg _ (beginSlot_ok h), fun s1 h => ?_, fun s1 st hst h => congrArg _ (beginSlot_error hst h)⟩
        rw [beginSlot_uncorrectable h, hc, hi]
  case departure =>
    intro l f t3 staged s p hp
    refine ⟨exec_frameDeparture_not hp, fun hr hc => ⟨exec_frameDeparture_training hp hr hc, exec_frameDeparture_fenced hp hr hc, exec_frameDeparture_silent hp hr hc,
      exec_frameDeparture_zero hp hr hc, exec_frameDeparture_reply hp hr hc, fun h4 hf => ?_⟩⟩
    rw [exec_frameDeparture_traffic hp hr hc h4 hf]
    refine ⟨fun h => congrArg _ (trafficFrame_none h), fun r h => ⟨fun hk => congrArg _ (trafficFrame_idle h hk), fun k hk => ?_⟩⟩
    rw [trafficFrame_data h hk]
    exact ⟨fun hj => congrArg _ (sendData_none hj), fun hj hb => congrArg _ (sendData_missed hj hb), fun hj hs hb hn => congrArg _ (sendData_unchanged hj hs hb hn),
      fun hj hs hb hn s0 bs hx => congrArg _ (sendData_changed hj hs hb hn hx)⟩
  case arrival =>
    intro l f htag binding beats s p hp
    refine ⟨fun h b x => exec_dataFrame_not hp h, fun hl hr => ⟨fun b h => ?_, fun b r h hm => ?_, fun b h hmatch => ?_, fun b h hmatch => ?_, fun b r h hm => ?_,
      fun r h hm hd => ⟨?_, fun hk b => ?_⟩⟩⟩
    · exact ⟨_, lost_unreceived hp hl hr b h, (lostCounted_shows s l).1, rfl⟩
    · obtain ⟨hlost, huncorr⟩ := lostCounted_shows (p := p) s l
      obtain ⟨hrun, hreg⟩ := missRun_shows (lostCounted s p l) r hm rfl rfl
      exact ⟨_, lost_received hp hl hr b h, (fld_congr (hreg _) _).trans hlost, (fld_congr (hreg _) _).trans huncorr, hrun⟩
    · exact frame_matched hp hl hr b h hmatch
    · exact ⟨s.addFld (.portCount p) .UNMATCHED 1, frame_unmatched hp hl hr b h hmatch, fld_unmatched s p, rfl, rfl⟩
    · exact frame_of_missed hp hl hr b h hm
    · obtain ⟨hrun, hrx, hmem⟩ := takeFrame_shows s l f.toNat r beats
      exact ⟨s.takeFrame l f.toNat r beats, _, frame_taken hp hl hr none h hm, hrun, hrx, hmem, fun hn b hb => got_storeBeats _ _ _ hn _ hd hb⟩
    · have hbegins : buddyBegins s p r (some b) = s.startEpoch p r.ctx b := if_pos hk
      refine ⟨(buddyBegins s p r (some b)).takeFrame l f.toNat r beats, frame_taken hp hl hr (some b) h hm, ?_⟩
      rw [recvOf_takeFrame, hbegins]
      exact startEpoch_shows s p r.ctx b
  case missed =>
    intro p binding start htag s
    refine ⟨fun h => ?_, fun c ix e h hu hl hc => ⟨fun hn ht => ?_, fun r hr hre hrc hri => ⟨fun hm => ?_, fun hm hrole => ?_⟩⟩⟩
    · rcases h with h | h | h
      · exact exec_missed_silent s p binding start htag (.inl h)
      · exact exec_missed_silent s p binding start htag (.inr h)
      · exact exec_missed_none s p binding start htag h
    · rw [exec_missed_named s p binding start htag h hu, missNamed_over hn ht]
    · rw [exec_missed_named s p binding start htag h hu, missNamed_run hl hc hr]
      split
      · rfl
      · next hrole => exact congrArg _ (if_pos (hm.resolve_right hrole))
    · refine ⟨s.missRun r, ?_, (missRun_shows s r hm hrc hri).1⟩
      rw [exec_missed_named s p binding start htag h hu, missNamed_run hl hc hr, if_neg hrole]
  case ends =>
    intro c ix s
    refine ⟨exec_slotEnd_none, fun r => exec_slotEnd_early, fun r0 h ht s0 r hx => ?_⟩
    dsimp only
    rw [exec_slotEnd_due h ht hx, ← ctxLive_spoiled hx c ix.toNat]
    have hgone : (s0.dropSlotRun c ix.toNat).slotRun c ix.toNat = none := slotRun_dropSlotRun ..
    generalize s0.dropSlotRun c ix.toNat = u at hgone
    refine ⟨hgone, fun hc => congrArg _ (endRun_reset hc), fun hc hb hh hm => congrArg _ (endRun_unstarted hc hb hh hm), fun hc hb => ?_⟩
    rw [endRun_started hc hb]
    refine ⟨fun he => ?_, fun he hm => ?_, fun he hm hh => ?_, fun he hm hh => ?_, fun hrc hp hk hmsgs => ⟨_, rfl, ?_⟩, fun hk t a hs ht v hv => ?_⟩
    · rw [if_neg (by rw [he]; exact Bool.false_ne_true)]
    · rw [if_pos he, if_pos hm]
    · rw [if_pos he, if_neg (by rw [hm]; exact Bool.false_ne_true), if_pos hh]
    · rw [if_pos he, if_neg (by rw [hm]; exact Bool.false_ne_true), if_neg (by rw [hh]; exact Bool.false_ne_true)]
    · rw [slotMissed_noMessage u r hk hmsgs, ← hrc]
      exact missCounted_shows u r hp
    · rw [slotDone_written u r hk hs ht hv]
      rfl

end Sys2Proof.Proofs
end

section
/-!
QUILL.HART under its writes: a hart that is started, stopped, left alone or refused (R91, R92, R109).
-/
namespace Sys2Proof.Proofs
open Sys2Proof.Machine Sys2Proof.Laws

/-! ### A write of QUILL.HART by the state of the hart -/

section Write
variable {s : State} {h : HartId} {f : HartFields}

/-- QUILL_HART_BIND and the command of the same RUN are one write of the register. -/
theorem hartCommands {run : Bool} {p : Instr → Prop} (hp : ∀ i, exec i s = .next (s.hartWrite h (some run) f) → p i) :
    p (.quillHartBind h run f) ∧ p (if run then .hartRun h f else .hartStop h f) :=
  ⟨hp _ rfl, hp _ (by cases run <;> rfl)⟩

/-- A hart that a write can start, or whose fields it stores. -/
def HartRests (s : State) (h : Nat) : Prop :=
  (s.hartOf h).st = .off ∨ ((s.hartOf h).st = .faulted ∧ s.resetting (s.fld (hartReg h) .CTX) = false)

theorem hartWrite_unbound (hb : f.bound = false) : s.hartWrite h (some true) f = s.bindRefused h := by
  simp [State.hartWrite, hb]

theorem hartWrite_out_of_use (ho : (s.hartOf h).st = .failed ∨ (s.hartOf h).st = .disabled) :
    s.hartWrite h (some true) f = s.bindRefused h ∧ s.hartWrite h (some false) f = s := by
  rcases ho with ho | ho <;> simp [State.hartWrite, ho]

theorem hartWrite_starts (hr : HartRests s h) (hb : f.bound = true) : s.hartWrite h (some true) f = (s.hartFields h f).startHart h := by
  rcases hr with hr | ⟨hr, hc⟩
  · simp [State.hartWrite, hr, hb]
  · simp [State.hartWrite, hr, hb, hc]

theorem hartWrite_stores (hr : HartRests s h) : s.hartWrite h (some false) f = (s.hartFields h f).stopHart h := by
  rcases hr with hr | ⟨hr, hc⟩
  · simp [State.hartWrite, hr]
  · simp [State.hartWrite, hr, hc]

theorem hartWrite_runs (hr : (s.hartOf h).st = .running ∨ (s.hartOf h).st = .wfi) :
    (f.bound = true → s.hartWrite h (some true) f = s) ∧ s.hartWrite h (some false) f = s.stopHart h := by
  rcases hr with hr | hr <;> simp +contextual [State.hartWrite, hr]

theorem hartWrite_resetting (hr : (s.hartOf h).st = .faulted) (hc : s.resetting (s.fld (hartReg h) .CTX) = true) :
    (f.bound = true → s.hartWrite h (some true) f = s) ∧ s.hartWrite h (some false) f = s := by
  simp +contextual [State.hartWrite, hr, hc]

end Write

/-! ### Fields set at once -/

/-- A value that fits its field reads back. -/
theorem fld_setFlds_fits (s : State) (r : Reg) {l : List (FName × Nat)} (hl : (l.map Prod.fst).all (hasField r) = true)
    (hn : (l.map Prod.fst).Nodup) {f : FName} {v : Nat} (h : (f, v) ∈ l) (hv : v < 2 ^ ((r.pos f).1 + 1 - (r.pos f).2)) :
    (s.setFlds r l).fld r f = v :=
  (fld_setFlds_of_mem s r (fun _ he => List.all_eq_true.mp hl _ (List.mem_map_of_mem he)) hn h).trans (Nat.mod_eq_of_lt hv)

/-- A one-bit field set at once with others is what it was set to. -/
theorem flag_setFlds_bool (s : State) (r : Reg) {l : List (FName × Nat)} (hl : (l.map Prod.fst).all (hasField r) = true)
    (hn : (l.map Prod.fst).Nodup) {f : FName} {b : Bool} (h : (f, if b then 1 else 0) ∈ l) (hf : (r.pos f).1 = (r.pos f).2) :
    (s.setFlds r l).flag r f = b := by
  rw [State.flag, fld_setFlds_fits s r hl hn h (by rw [hf, Nat.add_sub_cancel_left]; split <;> decide)]
  cases b <;> rfl

/-! ### What a write leaves in the register and in the hart -/

/-- BOUND, CTX and RESET_PC of hart h as f has them. -/
def HartStored (t : State) (h : HartId) (f : HartFields) : Prop :=
  t.flag (hartReg h) .BOUND = f.bound ∧ t.fld (hartReg h) .CTX = f.ctx ∧ t.fld (hartReg h) .RESET_PC = f.resetPc.toNat

theorem hartStored_hartFields (s : State) (h : HartId) (f : HartFields) : HartStored (s.hartFields h f) h f :=
  ⟨flag_setFlds_bool s (hartReg h) rfl (by simp) (by simp) rfl, fld_setFlds_fits s (hartReg h) rfl (by simp) (by simp) f.ctx.isLt,
   fld_setFlds_fits s (hartReg h) rfl (by simp) (by simp) f.resetPc.isLt⟩

/-- A write of RUN leaves them. -/
theorem HartStored.setRun {s t : State} {h : HartId} {f : HartFields} (hs : HartStored s h f) {b : Bool}
    (ht : t.reg (hartReg h) = (s.setFlag (hartReg h) .RUN b).reg (hartReg h)) : HartStored t h f := by
  have keep : ∀ n, hasField (hartReg h) n = true → n ≠ .RUN → t.fld (hartReg h) n = s.fld (hartReg h) n := fun n hn hne =>
    (fld_congr ht n).trans (fld_setFlag_ne s _ b rfl hn hne)
  obtain ⟨hb, hc, hp⟩ := hs
  exact ⟨(flag_congr_fld (keep .BOUND rfl (by decide))).trans hb, (keep .CTX rfl (by decide)).trans hc, (keep .RESET_PC rfl (by decide)).trans hp⟩

theorem hartOf_setFlag (s : State) (r : Reg) (n : FName) (b : Bool) (h : Nat) : (s.setFlag r n b).hartOf h = s.hartOf h := rfl

theorem hartOf_startHart (s : State) (h : Nat) : (s.startHart h).hartOf h =
    { Hart.off with st := .running, pc := BitVec.ofNat 64 (s.fld (hartReg h) .RESET_PC / 2 * 2) } := by
  rw [State.startHart, hartOf_setFlag, hartOf_setHart_same]

theorem hartOf_stopHart (s : State) (h : Nat) : (s.stopHart h).hartOf h = (s.hartOf h).stop .off := by
  unfold State.stopHart State.hartOf
  exact smGet_smSet_same ..

theorem waiting_stopHart (s : State) (h : Nat) : Agent.hart h ∉ (s.stopHart h).waiting := by simp [State.stopHart]

theorem reg_stopHart (s : State) (h : Nat) (q : Reg) : (s.stopHart h).reg q = (s.setFlag (hartReg h) .RUN false).reg q := rfl

theorem reg_startHart (s : State) (h : Nat) (q : Reg) : (s.startHart h).reg q = (s.setFlag (hartReg h) .RUN true).reg q := rfl

section Left
variable (s : State) (h : HartId) (f : HartFields)

theorem startHart_shows : let t := (s.hartFields h f).startHart h
    HartStored t h f ∧ t.flag (hartReg h) .RUN = true ∧
    t.hartOf h = { Hart.off with st := .running, pc := BitVec.ofNat 64 (f.resetPc.toNat / 2 * 2) } := by
  have hs := hartStored_hartFields s h f
  exact ⟨hs.setRun (reg_startHart ..), (flag_congr (reg_startHart ..) _).trans (flag_setFlag _ _ _ _ rfl), by rw [hartOf_startHart, hs.2.2]⟩

theorem stopHart_shows : let t := s.stopHart h
    t.flag (hartReg h) .RUN = false ∧ t.hartOf h = (s.hartOf h).stop .off ∧ Agent.hart h ∉ t.waiting ∧
    t.flag (hartReg h) .BOUND = s.flag (hartReg h) .BOUND :=
  ⟨(flag_congr (reg_stopHart s h _) _).trans (flag_setFlag _ _ _ _ rfl), hartOf_stopHart s h, waiting_stopHart s h,
   (flag_congr (reg_stopHart s h _) _).trans (flag_setFlag_ne _ _ _ rfl rfl (by decide))⟩

theorem stored_stopHart : HartStored ((s.hartFields h f).stopHart h) h f := (hartStored_hartFields s h f).setRun (reg_stopHart ..)

end Left

/-! ### The statement -/

/-- Settles O29: the state of the hart decides the write, and each write leaves what is said of it. -/
theorem hartBindingRunAndStop : Obligations.HartBindingRunAndStop := by
  intro h f s k r both same stored
  have write : ∀ {run : Bool} {p : Instr → Prop}, (∀ i, exec i s = .next (s.hartWrite h (some run) f) → p i) → both run p := hartCommands
  clear_value both
  refine ⟨fun hr => ⟨fun hb => write fun i hi => ⟨_, hi, ?_⟩, fun hb => write fun i hi => hi.trans ?_, write fun i hi => ⟨_, hi, ?_⟩⟩,
    fun hr => ⟨fun hb => write fun i hi => hi.trans ?_, fun hb => write fun i hi => hi.trans ?_, write fun i hi => ⟨_, hi, ?_⟩⟩,
    fun ho => ⟨write fun i hi => hi.trans ?_, write fun i hi => hi.trans ?_⟩,
    fun hr hc => ⟨fun hb => write fun i hi => hi.trans ?_, write fun i hi => hi.trans ?_⟩⟩
  · rw [hartWrite_starts hr hb]
    exact startHart_shows s h f
  · rw [hartWrite_unbound hb]; rfl
  · rw [hartWrite_stores hr]
    obtain ⟨hrun, hh, -, -⟩ := stopHart_shows (s.hartFields h f) h
    exact ⟨stored_stopHart s h f, hrun, by rw [hh]; rfl⟩
  · rw [(hartWrite_runs hr).1 hb]
  · rw [hartWrite_unbound hb]; rfl
  · rw [(hartWrite_runs hr).2]
    obtain ⟨hrun, hh, hw, hb⟩ := stopHart_shows s h
    rw [hh]
    exact ⟨hrun, rfl, rfl, rfl, rfl, hw, hb⟩
  · rw [(hartWrite_out_of_use ho).2]
  · rw [(hartWrite_out_of_use (f := f) ho).1]; rfl
  · rw [(hartWrite_resetting hr hc).1 hb]
  · rw [(hartWrite_resetting hr hc).2]

end Sys2Proof.Proofs
end

section
/-!
RISC-V words of a hart (Table 3-5, R93; encodings and results PRESUMED, notes/assumptions/60): which operation an opcode names, and what each
operation of the integer base leaves.
-/
namespace Sys2Proof.Proofs
open Sys2Proof.Machine Sys2Proof.Laws Sys2Proof.Claims

/-! ### The operation of an opcode -/

/-- A word of 32 bits: its two low bits are ones. -/
theorem mod_four_of_opcode {w op : Nat} (h : nbits w 6 0 = op) (hop : op % 4 = 3) : w % 4 = 3 := by
  simp only [nbits] at h
  omega

theorem exec_riscvInstruction_word {s s1 : State} {h : HartId} {w : Nat} (hx : HartExecutes s s1 h w) (hw : w % 4 = 3) :
    exec (.riscvInstruction h) s = .next (s1.rvWord h (s.fld (hartReg h) .CTX) w w 4) := by
  show Host.Outcome.next (s.hartStep h fun s c raw => s.rvExec h c raw) = _
  rw [hartStep_of_executes hx, State.rvExec, if_pos hw]

section Opcode
variable (s : State) (h c raw len : Nat) {w : Nat}

theorem rvWord_lui (hop : nbits w 6 0 = 0x37) : s.rvWord h c w raw len = s.rvResult h w raw len (some (immU w)) := by
  rw [State.rvWord, hop]; rfl
theorem rvWord_auipc (hop : nbits w 6 0 = 0x17) : s.rvWord h c w raw len = s.rvResult h w raw len (some ((s.hartOf h).pc + immU w)) := by
  rw [State.rvWord, hop]; rfl
theorem rvWord_jal (hop : nbits w 6 0 = 0x6F) : s.rvWord h c w raw len =
    s.rvJump h ((s.hartOf h).setX (rvRd w) ((s.hartOf h).pc + BitVec.ofNat 64 len)) len ((s.hartOf h).pc + immJ w) := by rw [State.rvWord, hop]; rfl
theorem rvWord_jalr (hop : nbits w 6 0 = 0x67) : s.rvWord h c w raw len = s.rvJalr h w raw len := by rw [State.rvWord, hop]; rfl
theorem rvWord_branch (hop : nbits w 6 0 = 0x63) : s.rvWord h c w raw len = s.rvBranchOp h w raw len := by rw [State.rvWord, hop]; rfl
theorem rvWord_load (hop : nbits w 6 0 = 0x03) : s.rvWord h c w raw len = s.rvLoad h c w raw len := by rw [State.rvWord, hop]; rfl
theorem rvWord_store (hop : nbits w 6 0 = 0x23) : s.rvWord h c w raw len = s.rvStore h c w raw len := by rw [State.rvWord, hop]; rfl
theorem rvWord_miscMem (hop : nbits w 6 0 = 0x0F) : s.rvWord h c w raw len = s.rvMiscMem h c w raw := by rw [State.rvWord, hop]; rfl

theorem rvWord_op (hop : nbits w 6 0 = 0x33) : s.rvWord h c w raw len =
    s.rvResult h w raw len (rvAlu (rvF7 w) (rvF3 w) ((s.hartOf h).xreg (rvRs1 w)) ((s.hartOf h).xreg (rvRs2 w))) := by rw [State.rvWord, hop]; rfl

theorem rvWord_addi (hop : nbits w 6 0 = 0x13) (h3 : rvF3 w = 0) : s.rvWord h c w raw len =
    s.rvResult h w raw len (some ((s.hartOf h).xreg (rvRs1 w) + immI w)) := by
  have hp : isPrefetch w = false := by simp [isPrefetch, h3]
  have ha : rvAluImm w ((s.hartOf h).xreg (rvRs1 w)) = some ((s.hartOf h).xreg (rvRs1 w) + immI w) := by rw [rvAluImm, h3]; rfl
  rw [State.rvWord, hop]
  simp only [hp, ha]; rfl

/-- The opcodes of Table 3-5 have none of these. -/
theorem rvWord_reserved (hop : nbits w 6 0 ∈ [0x2B, 0x3F, 0x5B, 0x5F, 0x6B, 0x77, 0x7B, 0x7F, 0x1F]) :
    s.rvWord h c w raw len = s.hartIllegal h raw := by
  simp only [List.mem_cons, List.not_mem_nil, or_false] at hop
  rcases hop with hop | hop | hop | hop | hop | hop | hop | hop | hop <;> (rw [State.rvWord, hop]; rfl)

end Opcode

/-! ### Operations -/

/-- A target with bit 0 cleared. -/
theorem setBits_bit0_clear (x : W64) : setBits x 0 0 0 = x &&& ~~~ 1#64 := by simp [setBits, maskOf]

section Operation
variable (s : State) (h c raw len : Nat) {w : Nat}

theorem rvJalr_of_f3 (h3 : rvF3 w = 0) : s.rvJalr h w raw len =
    s.rvJump h ((s.hartOf h).setX (rvRd w) ((s.hartOf h).pc + BitVec.ofNat 64 len)) len (((s.hartOf h).xreg (rvRs1 w) + immI w) &&& ~~~ 1#64) := by
  rw [State.rvJalr, if_neg (by simp [h3]), setBits_bit0_clear]

theorem rvBranchOp_taken (ht : rvBranch (rvF3 w) ((s.hartOf h).xreg (rvRs1 w)) ((s.hartOf h).xreg (rvRs2 w)) = some true) :
    s.rvBranchOp h w raw len = s.rvJump h (s.hartOf h) len ((s.hartOf h).pc + immB w) := by rw [State.rvBranchOp, ht]

theorem rvBranchOp_not_taken (ht : rvBranch (rvF3 w) ((s.hartOf h).xreg (rvRs1 w)) ((s.hartOf h).xreg (rvRs2 w)) = some false) :
    s.rvBranchOp h w raw len = s.hartDone h (s.hartOf h) len := by rw [State.rvBranchOp, ht]

theorem rvMiscMem_fence (h3 : rvF3 w = 0) : s.rvMiscMem h c w raw = s.hartDone h (s.hartOf h) 4 := by rw [State.rvMiscMem, h3]; rfl

/-- A doubleword read whole is its own extension. -/
theorem extendLoad_doubleword (v : Nat) : extendLoad 8 true v = BitVec.ofNat 64 v := by
  have h : signedOf (8 * 8) v = (BitVec.ofNat 64 v).toInt := by
    rw [BitVec.toInt_eq_toNat_cond, BitVec.toNat_ofNat, signedOf]
    norm_num
    split_ifs <;> omega
  rw [extendLoad, if_pos rfl, h, BitVec.ofInt_toInt]

theorem rvLoad_doubleword (h3 : rvF3 w = 3) {s2 : State} {bs : List Byte}
    (hl : s.hartLoad h c ((s.hartOf h).mode .load) ((s.hartOf h).xreg (rvRs1 w) + immI w) 8 = (s2, .ok (.bytes bs))) :
    s.rvLoad h c w raw len = s2.hartDone h ((s2.hartOf h).setX (rvRd w) (BitVec.ofNat 64 (ofBytes bs))) len := by
  rw [State.rvLoad, h3]
  simp [State.loadInto, hl, extendLoad_doubleword]

theorem rvStore_doubleword (h3 : rvF3 w = 3) {s2 : State}
    (hs : s.hartStore h c ((s.hartOf h).mode .store) ((s.hartOf h).xreg (rvRs1 w) + immS w) (toBytes 8 ((s.hartOf h).xreg (rvRs2 w)).toNat) = (s2, .ok ())) :
    s.rvStore h c w raw len = s2.hartDone h (s2.hartOf h) len := by
  rw [State.rvStore, h3]
  simp [State.storeFrom, hs]

end Operation

/-! ### Results of OP (RV64I and M) -/

section Alu
variable (a b : W64)

theorem rvAlu_sltu : rvAlu 0 3 a b = some (if a.toNat < b.toNat then 1 else 0) := by
  by_cases h : a.toNat < b.toNat <;> simp [rvAlu, BitVec.ult, h]

theorem rvAlu_mul : rvAlu 1 0 a b = some (BitVec.ofNat 64 (a.toNat * b.toNat)) := by
  rw [BitVec.ofNat_mul, BitVec.ofNat_toNat, BitVec.ofNat_toNat]; simp [rvAlu]

theorem rvAlu_divu : rvAlu 1 5 a b = some (if b = 0 then BitVec.allOnes 64 else BitVec.ofNat 64 (a.toNat / b.toNat)) := by
  have ha := Nat.mod_eq_of_lt a.isLt
  have hb := Nat.mod_eq_of_lt b.isLt
  by_cases h : b = 0
  · subst h; rfl
  · have h0 : b.toNat ≠ 0 := fun e => h (BitVec.eq_of_toNat_eq e)
    have hd : (intOf 64 true a.toNat).tdiv (intOf 64 true b.toNat) = ((a.toNat / b.toNat : Nat) : Int) := by
      rw [intOf, if_pos rfl, intOf, if_pos rfl, ha, hb, Int.ofNat_tdiv]
    rw [if_neg h]
    show some (BitVec.ofNat 64 (divOf 64 true a.toNat b.toNat)) = _
    rw [divOf, hb, if_neg h0, hd, wrapTo]
    norm_cast
    rw [Nat.mod_eq_of_lt (Nat.lt_of_le_of_lt (Nat.div_le_self ..) a.isLt)]

end Alu

theorem rvBranch_beq (a b : W64) : rvBranch 0 a b = some (decide (a = b)) := rfl
theorem rvBranch_bltu (a b : W64) : rvBranch 6 a b = some (decide (a.toNat < b.toNat)) := rfl

/-! ### The statement -/

/-- Settles O30: each word by its opcode, and its operation by what it leaves. -/
theorem riscvIntegerInstructions : Obligations.RiscvIntegerInstructions := by
  intro h w s s1 hx k c a b is gives jumps
  have word : ∀ {op : Nat} {t : State}, nbits w 6 0 = op → op % 4 = 3 → s1.rvWord h c w w 4 = t → exec (.riscvInstruction h) s = .next t :=
    fun hop h4 ht => by rw [exec_riscvInstruction_word hx (mod_four_of_opcode hop h4), ← ht]
  have op : ∀ {f3 f7 : Nat} {v : W64}, is 0x33 f3 f7 → rvAlu f7 f3 a b = some v → gives v := fun ⟨hop, h3, h7⟩ hv =>
    word hop rfl (by rw [rvWord_op _ _ _ _ _ hop, h3, h7, hv]; rfl)
  have branch : ∀ {f3 : Nat} {p : Prop} [Decidable p], nbits w 6 0 = 0x63 → rvF3 w = f3 → rvBranch f3 a b = some (decide p) →
      (p → jumps k (k.pc + immB w)) ∧ (¬ p → exec (.riscvInstruction h) s = .next (s1.hartDone h k 4)) := fun hop h3 hb => by
    subst h3
    refine ⟨fun hp => word hop rfl ?_, fun hp => word hop rfl ?_⟩ <;> rw [rvWord_branch _ _ _ _ _ hop]
    · exact rvBranchOp_taken s1 h w 4 (by rw [hb, decide_eq_true hp])
    · exact rvBranchOp_not_taken s1 h w 4 (by rw [hb, decide_eq_false hp])
  refine ⟨fun hop => word hop rfl (rvWord_lui _ _ _ _ _ hop), fun hop => word hop rfl (rvWord_auipc _ _ _ _ _ hop),
    fun hop h3 => word hop rfl (rvWord_addi _ _ _ _ _ hop h3), fun hi => op hi rfl, fun hi => op hi rfl, fun hi => op hi (rvAlu_sltu a b),
    fun hi => op hi rfl, fun hi => op hi (rvAlu_mul a b), fun hi => op hi (rvAlu_divu a b), fun hop => word hop rfl (rvWord_jal _ _ _ _ _ hop),
    fun hop h3 => word hop rfl ?_, fun hop h3 => branch hop h3 (rvBranch_beq a b), fun hop h3 => ?_, fun hop h3 s2 bs hl _ => word hop rfl ?_,
    fun hop h3 s2 hs => word hop rfl ?_, fun hop h3 => word hop rfl ?_, fun hop => ?_⟩
  · rw [rvWord_jalr _ _ _ _ _ hop]; exact rvJalr_of_f3 s1 h w 4 h3
  · obtain ⟨ht, hn⟩ := branch hop h3 (rvBranch_bltu a b)
    exact ⟨ht, fun hle => hn (Nat.not_lt.mpr hle)⟩
  · rw [rvWord_load _ _ _ _ _ hop]; exact rvLoad_doubleword s1 h c w 4 h3 hl
  · rw [rvWord_store _ _ _ _ _ hop]; exact rvStore_doubleword s1 h c w 4 h3 hs
  · rw [rvWord_miscMem _ _ _ _ _ hop]; exact rvMiscMem_fence s1 h c w h3
  · have h4 : nbits w 6 0 % 4 = 3 := by
      simp only [List.mem_cons, List.not_mem_nil, or_false] at hop
      omega
    exact word rfl h4 (rvWord_reserved _ _ _ _ _ hop)

end Sys2Proof.Proofs
end

section
/-!
The page walk (R85, R86, R597): what one walk finds level by level, and what a translation leaves in MEM.FAULT.
-/
namespace Sys2Proof.Proofs
open Sys2Proof.Machine Sys2Proof.Laws

/-! ### Entries -/

/-- A line that is not poisoned reads. -/
theorem lineBad_of_clean {s : State} {line : Nat} (h : s.poisoned line = false) : s.lineBad line = false := by rw [State.lineBad, h]; rfl

theorem isDram_of_lt {pa : Nat} (h : pa < wellBase) : isDram pa = true := decide_eq_true h

theorem tableCause_invalid {e : W64} (h : bitAt e 0 = false) (align : Nat) : tableCause e align = some 1 := by simp [tableCause, h]

/-- An entry that names a table of DRAM. -/
theorem tableCause_table {e : W64} {align : Nat} (h0 : bitAt e 0 = true) (h1 : bitAt e 1 = false) (h4 : bitAt e 4 = false) (hu : bits e 63 56 = 0)
    (hl : bits e 11 7 = 0) (ha : pteAddr e % align = 0) (hd : pteAddr e < wellBase) : tableCause e align = none := by
  have hs : pteAddr e < 1099511627776 := by unfold wellBase at hd; omega
  simp [tableCause, h0, h1, h4, hu, hl, ha, isDram_of_lt hd, hs]

/-- Does an entry allow what an access needs? -/
def Permits (e : W64) (needW needX : Bool) : Prop := (needW = true → bitAt e 2 = true) ∧ (needX = true → bitAt e 3 = true)

theorem denies_iff (e : W64) (needW needX : Bool) : ((needW && !bitAt e 2) || (needX && !bitAt e 3)) = true ↔ ¬ Permits e needW needX := by
  unfold Permits
  generalize bitAt e 2 = w
  generalize bitAt e 3 = x
  cases needW <;> cases needX <;> cases w <;> cases x <;> decide

theorem mapped_lt {a : Nat} (h : isMapped a = true) : a < 1099511627776 := by
  simp only [isMapped, isDram, isWell, Bool.or_eq_true, Bool.and_eq_true, decide_eq_true_eq] at h
  unfold wellBase at h
  omega

section Leaf
variable {e : W64} {size : Nat} {needW needX : Bool} (h0 : bitAt e 0 = true) (h1 : bitAt e 1 = true) (hu : bits e 63 56 = 0) (hl : bits e 11 7 = 0)
include h0 h1 hu hl

/-- A leaf of a local page in its place: what it does not allow fails with cause 2. -/
theorem leafCause_local (h4 : bitAt e 4 = false) (ha : pteAddr e % size = 0) (hm : isMapped (pteAddr e) = true)
    (hw : size = 0x10000 ∨ isWell (pteAddr e) = false) :
    leafCause e size needW needX = if (needW && !bitAt e 2) || (needX && !bitAt e 3) then some 2 else none := by
  have hs := mapped_lt hm
  rcases hw with rfl | hw
  · simp [leafCause, h0, h1, hu, hl, h4, ha, hm, hs]
  · simp [leafCause, h0, h1, hu, hl, h4, ha, hm, hs, hw]

/-- A 64 KiB leaf of a HOST page. -/
theorem leafCause_host (h4 : bitAt e 4 = true) :
    leafCause e 0x10000 needW needX = if (needW && !bitAt e 2) || (needX && !bitAt e 3) then some 2 else none := by
  simp [leafCause, h0, h1, hu, hl, h4]

end Leaf

/-! ### The walk level by level -/

section Walk
variable {s : State} {c va : Nat} {needW needX : Bool}

theorem walk_disabled (h : s.flag (.memRoot c) .ENABLE = false) : s.walk c va needW needX = .fail 6 := by simp [State.walk, h]

theorem walk_wide (h : s.flag (.memRoot c) .ENABLE = true) (hv : 2 ^ 48 ≤ va) : s.walk c va needW needX = .fail 7 := by
  have hq : va / 2 ^ 48 ≠ 0 := by omega
  simp only [State.walk, h, Bool.not_true, Bool.false_eq_true, if_false, if_pos hq]

/-- The entry at an address, as memory holds it. -/
def pteAt (s : State) (a : Nat) : W64 := BitVec.ofNat 64 (s.wordAt a 8)

/-- Where the level-1 entry of an address lies. -/
def pte1 (s : State) (c va : Nat) : Nat := s.fld (.memRoot c) .BASE * 0x2000 + 8 * (va / 2 ^ 38 % 2 ^ 10)

/-- The walk from level 2, whose table e1 names. -/
def walk2 (s : State) (e1 : W64) (va : Nat) (needW needX : Bool) : Xlat :=
  let a2 := pteAddr e1 + 8 * (va / 2 ^ 25 % 2 ^ 13)
  let e2 := pteAt s a2
  if s.lineBad (a2 / 64) then .uncorr a2
  else if bitAt e2 0 && bitAt e2 1 then
    match leafCause e2 0x2000000 needW needX with
    | some k => .fail k
    | none => leafTarget e2 (va % 0x2000000)
  else match tableCause e2 0x1000 with
    | some k => .fail k
    | none =>
      let a3 := pteAddr e2 + 8 * (va / 2 ^ 16 % 2 ^ 9)
      let e3 := pteAt s a3
      if s.lineBad (a3 / 64) then .uncorr a3
      else match leafCause e3 0x10000 needW needX with
        | some k => .fail k
        | none => leafTarget e3 (va % 0x10000)

/-- The walk of an enabled context with its root in DRAM. -/
theorem walk_enabled (h : s.flag (.memRoot c) .ENABLE = true) (hv : va < 2 ^ 48) (hr : s.fld (.memRoot c) .BASE * 0x2000 < wellBase)
    (hp : s.poisoned (pte1 s c va / 64) = false) : s.walk c va needW needX =
    match tableCause (pteAt s (pte1 s c va)) 0x10000 with
    | some k => .fail k
    | none => walk2 s (pteAt s (pte1 s c va)) va needW needX := by
  have hq : va / 2 ^ 48 = 0 := by omega
  have hb : s.lineBad ((s.fld (.memRoot c) .BASE * 0x2000 + 8 * nbits va 47 38) / 64) = false := lineBad_of_clean hp
  unfold State.walk
  simp only [h, hq, isDram_of_lt hr, hb, Bool.not_true, Bool.false_eq_true, if_false, ne_eq, not_true_eq_false]
  rfl

end Walk

section Walk2
variable {s : State} {e1 : W64} {va : Nat} {needW needX : Bool}

/-- A 32 MiB leaf at level 2. -/
theorem walk2_leaf {e2 : W64} (he : pteAt s (pteAddr e1 + 8 * (va / 2 ^ 25 % 2 ^ 13)) = e2)
    (hp : s.poisoned ((pteAddr e1 + 8 * (va / 2 ^ 25 % 2 ^ 13)) / 64) = false) (h0 : bitAt e2 0 = true) (h1 : bitAt e2 1 = true)
    (hc : leafCause e2 0x2000000 needW needX = none) : walk2 s e1 va needW needX = leafTarget e2 (va % 0x2000000) := by
  simp only [walk2, he, lineBad_of_clean hp, h0, h1, hc, Bool.and_self, Bool.false_eq_true, if_false, if_true]

/-- A table at level 2: the leaf at level 3 decides. -/
theorem walk2_table {e2 e3 : W64} (he : pteAt s (pteAddr e1 + 8 * (va / 2 ^ 25 % 2 ^ 13)) = e2)
    (hp : s.poisoned ((pteAddr e1 + 8 * (va / 2 ^ 25 % 2 ^ 13)) / 64) = false) (h1 : bitAt e2 1 = false) (ht : tableCause e2 0x1000 = none)
    (he3 : pteAt s (pteAddr e2 + 8 * (va / 2 ^ 16 % 2 ^ 9)) = e3)
    (hp3 : s.poisoned ((pteAddr e2 + 8 * (va / 2 ^ 16 % 2 ^ 9)) / 64) = false) : walk2 s e1 va needW needX =
    match leafCause e3 0x10000 needW needX with
    | some k => .fail k
    | none => leafTarget e3 (va % 0x10000) := by
  simp only [walk2, he, lineBad_of_clean hp, h1, ht, he3, lineBad_of_clean hp3, Bool.and_false, Bool.false_eq_true, if_false]

end Walk2

/-! ### Causes fit their field -/

theorem tableCause_lt {e : W64} {align k : Nat} (h : tableCause e align = some k) : k < 16 := by
  unfold tableCause at h
  split at h
  · cases h; decide
  · split at h
    · cases h; decide
    · split at h <;> cases h
      decide

theorem leafCause_lt {e : W64} {size k : Nat} {needW needX : Bool} (h : leafCause e size needW needX = some k) : k < 16 := by
  unfold leafCause at h
  grind

/-- What a walk finds is no failure, or one whose cause fits MEM.FAULT. -/
def FitsCause (x : Xlat) : Prop := ∀ k, x = .fail k → k < 16

theorem fitsCause_fail {k : Nat} (h : k < 16) : FitsCause (.fail k) := fun _ e => Xlat.fail.inj e ▸ h

theorem fitsCause_ite {p : Prop} [Decidable p] {x y : Xlat} (hx : FitsCause x) (hy : FitsCause y) : FitsCause (if p then x else y) := by
  split
  · exact hx
  · exact hy

theorem fitsCause_match {o : Option Nat} {x : Xlat} : (∀ k, o = some k → k < 16) → FitsCause x →
    FitsCause (match o with
      | some k => .fail k
      | none => x) := fun ho hx => by
  cases o with
  | some k => exact fitsCause_fail (ho k rfl)
  | none => exact hx

theorem fitsCause_uncorr (pa : Nat) : FitsCause (.uncorr pa) := fun _ h => by cases h

theorem fitsCause_leafTarget (e : W64) (off : Nat) : FitsCause (leafTarget e off) := by
  unfold leafTarget
  exact fitsCause_ite (fun _ h => by cases h) fun _ h => by cases h

theorem fitsCause_walk (s : State) (c va : Nat) (needW needX : Bool) : FitsCause (s.walk c va needW needX) := by
  unfold State.walk
  dsimp only
  refine fitsCause_ite (fitsCause_fail (by decide)) (fitsCause_ite (fitsCause_fail (by decide)) (fitsCause_ite (fitsCause_fail (by decide))
    (fitsCause_ite (fitsCause_uncorr _) (fitsCause_match (fun _ => tableCause_lt) (fitsCause_ite (fitsCause_uncorr _) (fitsCause_ite ?_ ?_))))))
  · exact fitsCause_match (fun _ => leafCause_lt) (fitsCause_leafTarget _ _)
  · exact fitsCause_match (fun _ => tableCause_lt) (fitsCause_ite (fitsCause_uncorr _) (fitsCause_match (fun _ => leafCause_lt) (fitsCause_leafTarget _ _)))

/-! ### Translations -/

section Translate
variable {s : State} {c src tile va : Nat} {needW needX : Bool}

theorem translate_ok {pa : Nat} {m q : Bool} (h : s.walk c va needW needX = .ok pa m q) :
    s.translate c src tile va needW needX = (s, .ok pa m q) := by rw [State.translate, h]

/-- What a failed translation writes into MEM.FAULT (R86). -/
def faultFields (c src tile k va : Nat) : List (FName × Nat) := [(.CTX, c), (.SOURCE, src), (.TILE, tile), (.CAUSE, k), (.VA, va)]

theorem translate_fail {k : Nat} (h : s.walk c va needW needX = .fail k) : s.translate c src tile va needW needX =
    (s.setFlds .memFault (faultFields c src tile k va), .fail k) := by rw [State.translate, h]; rfl

end Translate

/-! ### The statement -/

theorem isWell_of_lt {a : Nat} (h : a < wellBase) : isWell a = false := by
  have hn : ¬ wellBase ≤ a := Nat.not_le.mpr h
  simp [isWell, hn]

theorem isMapped_of_lt {a : Nat} (h : a < wellBase) : isMapped a = true := by rw [isMapped, isDram_of_lt h]; rfl

theorem leafTarget_local {e : W64} (h : bitAt e 4 = false) (off : Nat) : leafTarget e off = .ok (pteAddr e + off) (bitAt e 5) (bitAt e 6) := by
  simp [leafTarget, h]

theorem leafTarget_host {e : W64} (h : bitAt e 4 = true) (off : Nat) : leafTarget e off = .host (pteAddr e + off) := by
  simp [leafTarget, h]

/-- Settles O38: the walk by its levels, a translation by what the walk finds. -/
theorem pageWalk : Obligations.PageWalk := by
  intro c s va needW needX root entry a1 e1 table a2 e2 a3 e3 permits walk
  have denied : ∀ {e : W64}, permits e → ((needW && !bitAt e 2) || (needX && !bitAt e 3)) = false := fun hp =>
    Bool.eq_false_iff.mpr fun h => (denies_iff _ _ _).mp h hp
  refine ⟨walk_disabled, walk_wide, fun hen hva hroot hp1 => ?_, fun src tile hsrc htile hva => ⟨fun pa m q h => ?_, fun k h => ?_⟩⟩
  · have hw : walk = _ := walk_enabled hen hva hroot hp1
    refine ⟨fun h0 => ?_, fun ht hp2 => ?_⟩
    · rw [hw, show tableCause (pteAt s (pte1 s c va)) 0x10000 = some 1 from tableCause_invalid h0 _]
    · obtain ⟨t0, t1, t4, tu, tl, ta, td⟩ := ht
      rw [show tableCause (pteAt s (pte1 s c va)) 0x10000 = none from tableCause_table t0 t1 t4 tu tl ta td] at hw
      refine ⟨fun h0 h1 hu hl h4 ha hd hperm => ?_, fun ht2 hp3 h0 h1 hu hl => ?_⟩
      · have hc := leafCause_local (needW := needW) (needX := needX) h0 h1 hu hl h4 ha (isMapped_of_lt hd) (.inr (isWell_of_lt hd))
        rw [denied hperm, if_neg Bool.false_ne_true] at hc
        rw [hw, ← leafTarget_local h4]
        exact walk2_leaf rfl hp2 h0 h1 hc
      · obtain ⟨u0, u1, u4, uu, ul, ua, ud⟩ := ht2
        have hw3 : walk = _ := hw.trans (walk2_table (e2 := e2) (e3 := e3) rfl hp2 u1 (tableCause_table u0 u1 u4 uu ul ua ud) rfl hp3)
        refine ⟨fun h4 ha hm => ?_, fun h4 hperm => ?_⟩
        · rw [leafCause_local h0 h1 hu hl h4 ha hm (.inl rfl)] at hw3
          refine ⟨fun hperm => ?_, fun hperm => ?_⟩
          · rw [hw3, denied hperm, ← leafTarget_local h4]; rfl
          · rw [hw3, (denies_iff _ _ _).mpr hperm]; rfl
        · rw [hw3, leafCause_host h0 h1 hu hl h4, denied hperm, ← leafTarget_host h4]; rfl
  · rw [translate_ok h, ← h]
  · have read : ∀ {f : FName} {v : Nat}, (f, v) ∈ faultFields c src tile k va → v < 2 ^ ((Reg.memFault.pos f).1 + 1 - (Reg.memFault.pos f).2) →
        (s.setFlds .memFault (faultFields c src tile k va)).fld .memFault f = v := fun hm hv =>
      fld_setFlds_fits s .memFault rfl (by simp [faultFields]) hm hv
    refine ⟨s.setFlds .memFault (faultFields c src tile k va), (translate_fail h).trans (by rw [← h]), by rw [setFlds_eq], read ?_ c.isLt,
      read ?_ hsrc, read ?_ htile, read ?_ (fitsCause_walk s c va needW needX k h)⟩ <;> simp [faultFields]

end Sys2Proof.Proofs
end

section
/-!
qpost (R94, R95, R127, R128): the refusals in their order, the read of the post record, and the post or the wait for a ring slot.
-/
namespace Sys2Proof.Proofs
open Sys2Proof.Machine Sys2Proof.Laws Sys2Proof.Claims

/-! ### What bars a qpost (notes/assumptions/89) -/

section Bars
variable {s : State} {c : Nat} {record target : W64}

theorem qpostBars_illegal (h : record.toNat % 32 ≠ 0 ∨ s.coreServes c (qpostCore target) = false ∨ s.flag (.ctxwCmpl c) .LOCK = false) :
    s.qpostBars c record target = some 0x10 := by
  rcases h with h | h | h <;> simp [State.qpostBars, h]

variable (ha : record.toNat % 32 = 0) (hs : s.coreServes c (qpostCore target) = true) (hl : s.flag (.ctxwCmpl c) .LOCK = true)
include ha hs hl

theorem qpostBars_busy (h : 8 ≤ (s.core (qpostCore target)).postQ.length) : s.qpostBars c record target = some 0x14 := by
  simp [State.qpostBars, ha, hs, hl, h]

theorem qpostBars_none (h : (s.core (qpostCore target)).postQ.length < 8) : s.qpostBars c record target = none := by
  simp [State.qpostBars, ha, hs, hl, h]

end Bars

/-! ### Reads issued to the host (R89) -/

section Issue
variable {s : State} {c : Nat}

theorem issueRead_none (h : s.canIssue c = false) (reader : HostReader) (va bus len : Nat) : s.issueRead c reader va bus len = (s, false) := by
  rw [State.issueRead, h]; rfl

/-- The state with a read sent and waited for. -/
def readIssued (s : State) (c : Nat) (reader : HostReader) (va bus len : Nat) : State :=
  { s.send (.pcieRead (c + 1) s.nextTag bus len) with
    hostReads := s.hostReads ++ [{ tag := s.nextTag, ctx := c, reader := reader, va := va, bus := bus, len := len }]
    nextTag := s.nextTag + 1 }

theorem issueRead_some (h : s.canIssue c = true) (reader : HostReader) (va bus len : Nat) :
    s.issueRead c reader va bus len = (readIssued s c reader va bus len, true) := by
  rw [State.issueRead, h]; rfl

end Issue

/-! ### A qpost by its record -/

section Record
variable {s s2 : State} {h c w : Nat} {rd rs1 rs2 : XReg} (hok : (s.hartOf h).xquillOk = true)
include hok

theorem qpost_barred {st : Nat} (hb : s.qpostBars c ((s.hartOf h).xreg rs1) ((s.hartOf h).xreg rs2) = some st) :
    s.qpost h c w rd rs1 rs2 = s.qpostRefused h rd st := by
  simp only [State.qpost, hok, hb, Bool.not_true, Bool.false_eq_true, if_false]

variable (hb : s.qpostBars c ((s.hartOf h).xreg rs1) ((s.hartOf h).xreg rs2) = none)
include hb

theorem qpost_bad (hr : s.qpostRecord c ((s.hartOf h).xreg rs1) = (s2, .bad)) : s.qpost h c w rd rs1 rs2 = s2.qpostRefused h rd 0x11 := by
  simp only [State.qpost, hok, hb, hr, Bool.not_true, Bool.false_eq_true, if_false]

theorem qpost_bytes {b : List Byte} (hr : s.qpostRecord c ((s.hartOf h).xreg rs1) = (s2, .bytes b)) :
    s.qpost h c w rd rs1 rs2 = s2.qpostGo h c rd ((s.hartOf h).xreg rs1) ((s.hartOf h).xreg rs2) b := by
  simp only [State.qpost, hok, hb, hr, Bool.not_true, Bool.false_eq_true, if_false]

section Host
variable {bus : Nat} (hr : s.qpostRecord c ((s.hartOf h).xreg rs1) = (s2, .host bus))
include hr

theorem qpost_host_refused (hi : s2.canIssue c = false) : s.qpost h c w rd rs1 rs2 = s2.qpostRefused h rd 0x11 := by
  simp only [State.qpost, hok, hb, hr, issueRead_none hi, Bool.not_true, Bool.false_eq_true, if_false]

theorem qpost_host_asks (hi : s2.canIssue c = true) : s.qpost h c w rd rs1 rs2 =
    let t := readIssued s2 c (.hart h) ((s.hartOf h).xreg rs1).toNat bus 32
    t.setHart h { t.hartOf h with wait := .qpostRead rd ((s.hartOf h).xreg rs1) ((s.hartOf h).xreg rs2) } := by
  simp only [State.qpost, hok, hb, hr, issueRead_some hi, Bool.not_true, Bool.false_eq_true, if_false]

end Host

end Record

/-! ### A record that was read -/

section Go
variable {s : State} {h c : Nat} {rd : XReg} {record target : W64} {b : List Byte} (hb : s.qpostBars c record target = none)
include hb

theorem qpostGo_waits (hf : s.nextSlotFree c = false) : s.qpostGo h c rd record target b =
    { s.setHart h { s.hartOf h with wait := .qpost rd record target b } with waiting := s.waiting ++ [.hart h] } := by
  simp only [State.qpostGo, hb, hf, Bool.false_eq_true, if_false]

theorem qpostGo_accepts (hf : s.nextSlotFree c = true) : s.qpostGo h c rd record target b = s.qpostAccept h c rd (qpostCore target) b := by
  simp only [State.qpostGo, hb, hf, if_true]

end Go

/-- The post of a qpost whose record is b, with its handle, in a stroke whose guard is g. -/
def qpostOf (b : List Byte) (handle : W64) (g : Bool) : Post :=
  { arg := .args (BitVec.ofNat 64 (fieldAt b 0 8)) (BitVec.ofNat 64 (fieldAt b 8 8)) (BitVec.ofNat 64 (fieldAt b 16 8)), handle := handle, crec := true,
    knot := if fieldAt b 0x1A 1 % 2 = 1 then some (fieldAt b 0x18 2) else none, held := g, delayed := g }

/-- A post put at the tail of a core's queue. -/
def queuePost (s : State) (n : Nat) (p : Post) : State := s.setCore n { s.core n with postQ := (s.core n).postQ ++ [p] }

theorem postQ_queuePost (s : State) (n : Nat) (p : Post) : ((queuePost s n p).core n).postQ = (s.core n).postQ ++ [p] := by
  rw [queuePost, core_setCore_same]

theorem core_hartDone (s : State) (h : Nat) (k : Hart) (len n : Nat) : (s.hartDone h k len).core n = s.core n := rfl

theorem hartOf_hartDone (s : State) (h : Nat) (k : Hart) (len : Nat) : (s.hartDone h k len).hartOf h = k.advance len := hartOf_setHart_same ..

theorem qpostAccept_ready {s u : State} {h c : Nat} {rd : XReg} {n : Nat} {b : List Byte} {handle : W64}
    (hu : s.allocRecord c 0 (n / 8) (n % 8) = (u, handle)) (hr : u.hartReady h = true) : s.qpostAccept h c rd n b =
    (queuePost u n (qpostOf b handle u.inGuard)).hartDone h ((u.hartOf h).setX rd handle) 4 := by
  unfold State.qpostAccept coreTile
  rw [hu]
  exact if_pos hr

/-- An accepted qpost of a hart that is ready: the post at the tail of the core's queue, and rd the handle. -/
theorem qpostAccept_shows {s u : State} {h c : Nat} {rd : XReg} {n : Nat} {b : List Byte} {handle : W64}
    (hu : s.allocRecord c 0 (n / 8) (n % 8) = (u, handle)) (hr : u.hartReady h = true) : let t := s.qpostAccept h c rd n b
    t.hartOf h = ((u.hartOf h).setX rd handle).advance 4 ∧ (t.core n).postQ = (u.core n).postQ ++ [qpostOf b handle u.inGuard] := by
  rw [qpostAccept_ready hu hr]
  exact ⟨hartOf_hartDone .., by rw [core_hartDone, postQ_queuePost]⟩

/-! ### The statement -/

section Statement
variable {s s1 : State} {h : HartId} {w : Nat} (hx : HartExecutes s s1 h w)
include hx

theorem exec_qpost (rd rs1 rs2 : XReg) : exec (.qpost h rd rs1 rs2) s = .next (s1.qpost h (s.fld (hartReg h) .CTX) w rd rs1 rs2) := by
  show Host.Outcome.next (s.hartStep h fun s c w => s.qpost h c w rd rs1 rs2) = _
  rw [hartStep_of_executes hx]

end Statement

/-- Settles O31: the refusals in their order, then the record by what its read finds. -/
theorem qpostJudged : Obligations.QpostJudged := by
  intro h rd rs1 rs2 s s1 w hx k c record target n goes refused
  have hgoes : ∀ {t : State}, s1.qpost h c w rd rs1 rs2 = t → goes = .next t := fun ht => by rw [← ht]; exact exec_qpost hx rd rs1 rs2
  refine ⟨fun hu => hgoes ?_, fun hok => ⟨fun hi => hgoes (qpost_barred hok (qpostBars_illegal hi)), fun ha hs hl => ⟨fun h8 => ?_, fun h8 => ?_⟩⟩⟩
  · simp [State.qpost, show (s1.hartOf h).xquillOk = false from hu]
  · exact hgoes (qpost_barred hok (qpostBars_busy ha hs hl h8))
  · have hb : s1.qpostBars c record target = none := qpostBars_none ha hs hl h8
    refine ⟨fun s2 hr => hgoes (qpost_bad hok hb hr), fun s2 bus hr => ⟨fun hi => hgoes (qpost_host_refused hok hb hr hi), fun hi => ?_⟩, fun s2 b hr hb2 => ?_⟩
    · refine ⟨_, hgoes (qpost_host_asks hok hb hr hi), ?_, rfl⟩
      exact congrArg Hart.wait (hartOf_setHart_same ..)
    · refine ⟨fun hf => hgoes ((qpost_bytes hok hb hr).trans (qpostGo_waits hb2 hf)), fun hf => ?_⟩
      · intro r hready
        obtain ⟨hh, hq⟩ := qpostAccept_shows (u := r.1) (handle := r.2) (rd := rd) (b := b) rfl hready
        exact ⟨_, hgoes ((qpost_bytes hok hb hr).trans (qpostGo_accepts hb2 hf)), hh, hq⟩

end Sys2Proof.Proofs
end

section
/-!
INVALIDATION_DONE (R88) drains the stores of the context's cores one core after another. The statement asks for it in every state, and
the table of cores may list one core twice there. A store of core 6 that fails begins the reset of the context, which writes the
table anew entry by entry, so what core 5 holds afterwards is its second entry, whose stores nothing drained.
-/
namespace Sys2Proof.Proofs
open Sys2Proof.Machine Sys2Proof.Laws Sys2Proof.Claims

/-- A buffered store to a HOST page. -/
def hostStore : StoreEntry := [{ host := true, mcomp := false, cells := [] }]

/-- Cores 5 and 6 bound to context 0, whose invalidation is under way and which can issue no request to the host. Core 5 is listed
twice, the second time FAILED with a store; core 6 has a store to the host. -/
def coreListedTwice : State :=
  { ((State.reset.setFlag (coreReg 5) .BOUND true).setFlag (coreReg 6) .BOUND true) with
    nib := [(5, NibCore.off), (5, { NibCore.off with st := .failed, stores := [hostStore] }),
      (6, { NibCore.off with stores := [hostStore] })]
    inval := some 0 }

/-- Does core n hold a buffered store in the state that comes next? -/
def leavesStores (n : Nat) : Out → Bool
  | .next t => !(t.core n).stores.isEmpty
  | _ => false

theorem coreListedTwice_setting : coreListedTwice.inval = some 0 ∧ coreListedTwice.hostReads = [] ∧ coreListedTwice.coreCtx 5 = some 0 := by
  decide +kernel

/-- INVALIDATION_DONE of that state leaves core 5 with the store of its second entry. -/
theorem invalidationDone_leavesStores : leavesStores 5 (exec .invalidationDone coreListedTwice) = true := by decide +kernel

/-- Refutes O40: its second clause fails in a state whose table of cores, not in canonical form, names core 5 twice: a fault of core 6
during the drain brings the second entry of core 5, with its store, to the front. -/
theorem not_invalidationHostAndFabric : ¬ Obligations.InvalidationHostAndFabric := by
  unfold Obligations.InvalidationHostAndFabric
  intro claim
  obtain ⟨hinval, hreads, hctx⟩ := coreListedTwice_setting
  obtain ⟨t, ht, -, -, hdrained⟩ := ((claim.2.1 coreListedTwice).2 0 hinval).2 (by simp [hreads])
  have hleft := invalidationDone_leavesStores
  rw [ht, leavesStores, hdrained 5 (by decide) hctx] at hleft
  exact absurd hleft (by decide)

end Sys2Proof.Proofs
end

section
/-!
A context fault (R466, R468, R470): the registers it spares, the record that it leaves in CTXF, and the cores it leaves.
-/
namespace Sys2Proof.Proofs
open Sys2Proof.Machine Sys2Proof.Laws

/-! ### The registers that a reset and the events of vectors spare -/

/-- A register of a tile, of a Quill die or of a context's window that no reset's start and no event of a vector writes. -/
def Spared (q : Reg) : Prop :=
  0x830000 ≤ q.addr ∧ (q.addr < 0x3800000 ∨ ∃ c o, q.addr = 0x3800000 + c * 0x10000 + o ∧ o < 0x1800 ∧ o ≠ 0x110 ∧ o ≠ 0x118)

theorem spared_nibCore (t n : Nat) (ht : t < 32) (hn : n < 8) : Spared (.nibCore t n) := by
  refine ⟨?_, .inl ?_⟩ <;> simp only [Reg.addr] <;> omega

theorem spared_coreReg {n : Nat} (hn : n < 256) : Spared (coreReg n) := spared_nibCore _ _ (by omega) (by omega)

theorem spared_nibStatus {t : Nat} (ht : t < 32) : Spared (.nibStatus t) := by
  refine ⟨?_, .inl ?_⟩ <;> simp only [Reg.addr] <;> omega

theorem spared_nibFailLog {t : Nat} (ht : t < 32) : Spared (.nibFailLog t) := by
  refine ⟨?_, .inl ?_⟩ <;> simp only [Reg.addr] <;> omega

theorem spared_tmemUeLog {t : Nat} (ht : t < 32) : Spared (.tmemUeLog t) := by
  refine ⟨?_, .inl ?_⟩ <;> simp only [Reg.addr] <;> omega

theorem spared_hartReg {h : Nat} (hh : h < 64) : Spared (hartReg h) := by
  refine ⟨?_, .inl ?_⟩ <;> simp only [hartReg, Reg.addr] <;> omega

theorem spared_ctxfCause (c : Nat) : Spared (.ctxfCause c) :=
  ⟨by simp only [Reg.addr]; omega, .inr ⟨c, 0x100, rfl, by decide, by decide, by decide⟩⟩

theorem spared_ctxfDetail (c : Nat) : Spared (.ctxfDetail c) :=
  ⟨by simp only [Reg.addr]; omega, .inr ⟨c, 0x108, rfl, by decide, by decide, by decide⟩⟩

theorem spared_ctxwNibExc (c : Nat) : Spared (.ctxwNibExc c) :=
  ⟨by simp only [Reg.addr]; omega, .inr ⟨c, 0x418, rfl, by decide, by decide, by decide⟩⟩

/-- The words of a vector of the PF lie below 0x830000. -/
theorem pfVectorRegs_below {v : Nat} (hv : v < 256) :
    (armedReg 0 v).addr < 0x830000 ∧ (pendReg 0 v).addr < 0x830000 ∧ (pbaReg 0 v).addr < 0x830000 := by
  have h1 : (armedReg 0 v).addr = 0x800000 + 0x100 + 8 * (v / 64) := rfl
  have h2 : (pendReg 0 v).addr = 0x800000 + 0x120 + 8 * (v / 64) := rfl
  have h3 : (pbaReg 0 v).addr = 0x821000 + 8 * (v / 64) := rfl
  omega

/-- The words of a vector of a VF lie in the window of its context, from 0x1800 on. -/
theorem vfVectorRegs_window (c : Nat) {v : Nat} (hv : v < 128) :
    (∃ o, (armedReg (c + 1) v).addr = 0x3800000 + c * 0x10000 + o ∧ 0x1800 ≤ o ∧ o < 0x10000) ∧
    (∃ o, (pendReg (c + 1) v).addr = 0x3800000 + c * 0x10000 + o ∧ 0x1800 ≤ o ∧ o < 0x10000) ∧
    ∃ o, (pbaReg (c + 1) v).addr = 0x3800000 + c * 0x10000 + o ∧ 0x1800 ≤ o ∧ o < 0x10000 :=
  ⟨⟨0x1800 + 8 * (v / 64), by show 0x3800000 + c * 0x10000 + 0x1800 + 8 * (v / 64) = _; omega, by omega, by omega⟩,
   ⟨0x1810 + 8 * (v / 64), by show 0x3800000 + c * 0x10000 + 0x1810 + 8 * (v / 64) = _; omega, by omega, by omega⟩,
   ⟨0x9000 + 8 * (v / 64), by show 0x3800000 + c * 0x10000 + 0x9000 + 8 * (v / 64) = _; omega, by omega, by omega⟩⟩

section Events
variable (s : State) {q : Reg} (hq : Spared q)
include hq

theorem Spared.offImages : OffImages q := .inr (by have := hq.1; omega)

theorem reg_pfEvent_spared {v : Nat} (hv : v < 256) : (s.pfEvent v).reg q = s.reg q := by
  have hlow := hq.1
  obtain ⟨h1, h2, h3⟩ := pfVectorRegs_below hv
  exact reg_vectorEvent s 0 v (by omega) (by omega) (by omega)

theorem reg_vfEvent_spared (c : Nat) {v : Nat} (hv : v < 128) : (s.vfEvent c v).reg q = s.reg q := by
  obtain ⟨⟨o1, ha1, ho1⟩, ⟨o2, ha2, ho2⟩, ⟨o3, ha3, ho3⟩⟩ := vfVectorRegs_window c hv
  obtain ⟨-, htile | ⟨d, o, ha, ho, -, -⟩⟩ := hq <;>
    exact reg_vectorEvent s (c + 1) v (by omega) (by omega) (by omega)

theorem Spared.ne_ctxrCtrl (c : Nat) : q.addr ≠ (Reg.ctxrCtrl c).addr := by
  have hr : (Reg.ctxrCtrl c).addr = 0x3800000 + c * 0x10000 + 0x110 := rfl
  obtain ⟨-, htile | ⟨d, o, ha, ho, h1, h2⟩⟩ := hq <;> omega

theorem Spared.ne_ctxrPending (c : Nat) : q.addr ≠ (Reg.ctxrPending c).addr := by
  have hr : (Reg.ctxrPending c).addr = 0x3800000 + c * 0x10000 + 0x118 := rfl
  obtain ⟨-, htile | ⟨d, o, ha, ho, h1, h2⟩⟩ := hq <;> omega

end Events

/-! ### The start of a reset -/

theorem reg_dropImage (s : State) {c : Nat} (hc : c < 16) {q : Reg} (hq : OffImages q) : (s.dropImage c).reg q = s.reg q := by
  unfold State.dropImage; dsimp only
  split
  · rfl
  · split
    · exact reg_disarm s hc hq
    · split <;> rfl

theorem reg_cutImage (s : State) (c : Nat) (q : Reg) : (s.cutImage c).reg q = s.reg q := by unfold State.cutImage; split <;> rfl

theorem reg_haltCores (s : State) (c : Nat) (q : Reg) : (s.haltCores c).reg q = s.reg q := rfl

theorem reg_setContext (s : State) (c : Nat) (k : CtxState) (q : Reg) : (s.setContext c k).reg q = s.reg q := rfl

theorem reg_requestsKept (s : State) (l : List PoolReq) (q : Reg) : ({ s with poolQ := l } : State).reg q = s.reg q := rfl

theorem reg_beginReset (s : State) {c : Nat} (hc : c < 16) {q : Reg} (hq : Spared q) : (s.beginReset c).reg q = s.reg q := by
  unfold State.beginReset
  extract_lets t k u v w
  have ht : t.reg q = s.reg q := by
    rw [reg_setFld_other _ _ _ (hq.ne_ctxrPending c), reg_setFld_other _ _ _ (hq.ne_ctxrCtrl c)]
  have hv : v.reg q = t.reg q := (reg_requestsKept u _ q).trans (reg_setContext t c _ q)
  have hw : w.reg q = v.reg q := (reg_setFlag_other _ _ _ (hq.offImages.ne_image hc)).trans (reg_dropImage v hc hq.offImages)
  rw [reg_haltCores, reg_cutImage, hw, hv, ht]

/-! ### The fault -/

/-- The record of a fault, before the context's reset begins. -/
def faultRecorded (s : State) (c cause engine tile unit arg : Nat) : State :=
  if s.flag (.ctxfCause c) .VALID then s.mergeFault c cause engine tile unit arg else s.firstFault c cause engine tile unit arg

theorem contextFault_eq (s : State) (c cause engine tile unit arg : Nat) : s.contextFault c cause engine tile unit arg =
    (let t := faultRecorded s c cause engine tile unit arg
     if t.fld (.ctxrCtrl c) .STATE = 0 && !t.failed then ((t.beginReset c).vfEvent c 0).pfEvent (32 + c) else t) := rfl

/-- The reset that a fault begins spares the registers of `Spared`. -/
theorem reg_contextFault_record (s : State) {c : Nat} (hc : c < 16) (cause engine tile unit arg : Nat) {q : Reg} (hq : Spared q) :
    (s.contextFault c cause engine tile unit arg).reg q = (faultRecorded s c cause engine tile unit arg).reg q := by
  rw [contextFault_eq]
  dsimp only
  split
  · rw [reg_pfEvent_spared _ hq (by omega), reg_vfEvent_spared _ hq c (by decide), reg_beginReset _ hc hq]
  · rfl

section Record
variable (s : State) (c cause engine tile unit arg : Nat)

theorem reg_recordFault {q : Reg} (h1 : q.addr ≠ (Reg.ctxfCause c).addr) (h2 : q.addr ≠ (Reg.ctxfDetail c).addr) :
    (s.recordFault c cause engine tile unit arg).reg q = s.reg q := by
  rw [State.recordFault, reg_setFlds_other _ _ h2, reg_setFld_other _ _ _ h1]

theorem firstFault_eq : s.firstFault c cause engine tile unit arg =
    (let t := (s.setFlds (.ctxfCause c) [(.VALID, 1), (.MERGED, 0), (.STROKE_LO, s.countLo)]).recordFault c cause engine tile unit arg
     t.setContext c { t.context c with faultAt := some t.time }) := rfl

theorem reg_firstFault (q : Reg) : (s.firstFault c cause engine tile unit arg).reg q =
    ((s.setFlds (.ctxfCause c) [(.VALID, 1), (.MERGED, 0), (.STROKE_LO, s.countLo)]).recordFault c cause engine tile unit arg).reg q := by
  rw [firstFault_eq]; exact reg_setContext ..

theorem reg_mergeFault {q : Reg} (h1 : q.addr ≠ (Reg.ctxfCause c).addr) (h2 : q.addr ≠ (Reg.ctxfDetail c).addr) :
    (s.mergeFault c cause engine tile unit arg).reg q = s.reg q := by
  unfold State.mergeFault State.satFld
  extract_lets t
  rw [reg_setFld_other _ _ _ h1]
  unfold t
  split
  · exact reg_recordFault s c cause engine tile unit arg h1 h2
  · rfl

theorem reg_faultRecorded {q : Reg} (h1 : q.addr ≠ (Reg.ctxfCause c).addr) (h2 : q.addr ≠ (Reg.ctxfDetail c).addr) :
    (faultRecorded s c cause engine tile unit arg).reg q = s.reg q := by
  unfold faultRecorded
  split
  · exact reg_mergeFault s c cause engine tile unit arg h1 h2
  · rw [reg_firstFault, reg_recordFault _ _ _ _ _ _ _ h1 h2, reg_setFlds_other _ _ h1]

/-- A fault writes no spared register but the two of CTXF. -/
theorem reg_contextFault (hc : c < 16) {q : Reg} (hq : Spared q) (h1 : q.addr ≠ (Reg.ctxfCause c).addr) (h2 : q.addr ≠ (Reg.ctxfDetail c).addr) :
    (s.contextFault c cause engine tile unit arg).reg q = s.reg q :=
  (reg_contextFault_record s hc cause engine tile unit arg hq).trans (reg_faultRecorded s c cause engine tile unit arg h1 h2)

end Record

/-- What CTXF holds of a fault. -/
def FaultHeld (t : State) (c cause engine tile unit arg : Nat) : Prop :=
  t.fld (.ctxfCause c) .CAUSE = cause ∧ t.fld (.ctxfDetail c) .ENGINE = engine ∧ t.fld (.ctxfDetail c) .TILE = tile ∧
    t.fld (.ctxfDetail c) .UNIT = unit ∧ t.fld (.ctxfDetail c) .ARG = arg

theorem faultHeld_recordFault (s : State) (c : Nat) {cause engine tile unit arg : Nat} (hcause : cause < 256) (he : engine < 256) (ht : tile < 256)
    (hu : unit < 65536) (ha : arg < 4294967296) : FaultHeld (s.recordFault c cause engine tile unit arg) c cause engine tile unit arg := by
  have hdetail : (Reg.ctxfCause c).addr ≠ (Reg.ctxfDetail c).addr := by simp only [Reg.addr]; omega
  refine ⟨?_, ?_, ?_, ?_, ?_⟩
  · refine (fld_congr (reg_setFlds_other _ _ hdetail) _).trans ?_
    exact (fld_setFld s (.ctxfCause c) .CAUSE cause).trans (Nat.mod_eq_of_lt hcause)
  all_goals exact fld_setFlds_fits _ (.ctxfDetail c) rfl (by simp) (by simp) (by assumption)

/-- The first fault of a context is recorded in CTXF. -/
theorem contextFault_held (s : State) {c : Nat} (hc : c < 16) {cause engine tile unit arg : Nat} (hv : s.flag (.ctxfCause c) .VALID = false)
    (hcause : cause < 256) (he : engine < 256) (ht : tile < 256) (hu : unit < 65536) (ha : arg < 4294967296) :
    FaultHeld (s.contextFault c cause engine tile unit arg) c cause engine tile unit arg := by
  obtain ⟨h1, h2, h3, h4, h5⟩ := faultHeld_recordFault
    (s.setFlds (.ctxfCause c) [(.VALID, 1), (.MERGED, 0), (.STROKE_LO, s.countLo)]) c hcause he ht hu ha
  have hfirst : faultRecorded s c cause engine tile unit arg = s.firstFault c cause engine tile unit arg := by
    rw [faultRecorded, hv]; rfl
  have hreg : ∀ {q : Reg}, Spared q → (s.contextFault c cause engine tile unit arg).reg q =
      ((s.setFlds (.ctxfCause c) [(.VALID, 1), (.MERGED, 0), (.STROKE_LO, s.countLo)]).recordFault c cause engine tile unit arg).reg q := fun hq => by
    rw [reg_contextFault_record s hc _ _ _ _ _ hq, hfirst, reg_firstFault]
  have hcauseReg := hreg (spared_ctxfCause c)
  have hdetailReg := hreg (spared_ctxfDetail c)
  exact ⟨(fld_congr hcauseReg _).trans h1, (fld_congr hdetailReg _).trans h2, (fld_congr hdetailReg _).trans h3,
    (fld_congr hdetailReg _).trans h4, (fld_congr hdetailReg _).trans h5⟩

/-- A register of a tile or of a Quill die is none of CTXF's. -/
theorem reg_contextFault_unit (s : State) {c : Nat} (hc : c < 16) (cause engine tile unit arg : Nat) {q : Reg} (hq : Spared q)
    (hn : q.addr < 0x3800000) : (s.contextFault c cause engine tile unit arg).reg q = s.reg q := by
  have h1 : (Reg.ctxfCause c).addr = 0x3800000 + c * 0x10000 + 0x100 := rfl
  have h2 : (Reg.ctxfDetail c).addr = 0x3800000 + c * 0x10000 + 0x108 := rfl
  exact reg_contextFault s c _ _ _ _ _ hc hq (by omega) (by omega)

theorem reg_ctxwNibExc_contextFault (s : State) {c : Nat} (hc : c < 16) (cause engine tile unit arg d : Nat) :
    (s.contextFault c cause engine tile unit arg).reg (.ctxwNibExc d) = s.reg (.ctxwNibExc d) := by
  have h0 : (Reg.ctxwNibExc d).addr = 0x3800000 + d * 0x10000 + 0x418 := rfl
  have h1 : (Reg.ctxfCause c).addr = 0x3800000 + c * 0x10000 + 0x100 := rfl
  have h2 : (Reg.ctxfDetail c).addr = 0x3800000 + c * 0x10000 + 0x108 := rfl
  exact reg_contextFault s c _ _ _ _ _ hc (spared_ctxwNibExc d) (by omega) (by omega)

end Sys2Proof.Proofs
end

section
/-!
A hart's events, its timer interrupt and its failures (R91, R93, R102, R103, R257, R258; the CSR layout is log 60's).
-/
namespace Sys2Proof.Proofs
open Sys2Proof.Machine Sys2Proof.Laws Sys2Proof.Claims

/-! ### CSRs -/

theorem bitAt_setBits {w : W64} {hi lo v i : Nat} (h64 : i < 64) (h : lo ≤ hi + 1) :
    bitAt (setBits w hi lo v) i = if lo ≤ i ∧ i ≤ hi then v.testBit (i - lo) else bitAt w i := getLsbD_setBits w hi lo v i h64 h

/-- The next instruction counts in minstret and in no other CSR. -/
theorem csrAt_hartAdvance (k : Hart) (len : Nat) {n : Nat} (hn : n ≠ 0xB02) : (k.advance len).csrAt n = k.csrAt n := by
  unfold Hart.advance Hart.csrAt
  dsimp only
  split
  · rfl
  · exact csrAt_setCsr_other k _ hn

theorem bind_hartAdvance (k : Hart) (len : Nat) : (k.advance len).bind = k.bind := by
  unfold Hart.advance; dsimp only; split <;> rfl

theorem pc_hartAdvance (k : Hart) (len : Nat) : (k.advance len).pc = k.pc + BitVec.ofNat 64 len := by
  unfold Hart.advance; dsimp only; split <;> rfl

/-! ### Bindings -/

/-- May the binding of a word be stored: no reserved bit, and what it names is the context's or VALID is 0? -/
def BindingOk (s : State) (c : Nat) (w : W64) : Prop :=
  bits w 61 13 = 0 ∧ (bitAt w 63 = true → (if bitAt w 62 then s.bobOwned c (bits w 12 0) else s.knotOwned c (bits w 12 0)) = true)

/-- Hart k with the word w as the binding of its index. -/
def bound (k : Hart) (w : W64) : Hart := { k with bind := smSet (fun _ => 0) k.bind (k.cbits 0x7C4 5 0) w }

theorem bind_bound (k : Hart) (w : W64) : smGet (fun _ => 0) (bound k w).bind (k.cbits 0x7C4 5 0) = w := smGet_smSet_same ..

theorem qebindWrite_ok {s : State} {h c : Nat} {w : W64} (hok : BindingOk s c w) : s.qebindWrite h c w = bound (s.hartOf h) w := by
  obtain ⟨hr, ho⟩ := hok
  exact if_neg (by simpa [hr, imp_iff_not_or] using ho)

theorem qebindWrite_bad {s : State} {h c : Nat} {w : W64} (hbad : ¬ BindingOk s c w) :
    s.qebindWrite h c w = (bound (s.hartOf h) 0).setCbits 0x7C3 7 0 0x10 := by
  refine if_pos ?_
  by_contra hok
  simp only [ne_eq, Bool.or_eq_true, Bool.and_eq_true, decide_eq_true_eq, Bool.not_eq_true', not_or, not_not, not_and, Bool.not_eq_false] at hok
  exact hbad hok

section Qebind
variable {s s1 : State} {h : HartId} {w : Nat} (hx : HartExecutes s s1 h w) (data : W64)
include hx

theorem exec_qebindWrite : exec (.qebindWrite h data) s = .next (if (s1.hartOf h).priv ≠ .m then s1.hartIllegal h w
    else s1.hartDone h (s1.qebindWrite h (s.fld (hartReg h) .CTX) data) 4) :=
  congrArg Host.Outcome.next (hartStep_of_executes hx _)

theorem exec_qebindWrite_illegal (hm : (s1.hartOf h).priv ≠ .m) : exec (.qebindWrite h data) s = .next (s1.hartIllegal h w) := by
  rw [exec_qebindWrite hx, if_pos hm]

theorem exec_qebindWrite_done (hm : (s1.hartOf h).priv = .m) :
    exec (.qebindWrite h data) s = .next (s1.hartDone h (s1.qebindWrite h (s.fld (hartReg h) .CTX) data) 4) := by
  rw [exec_qebindWrite hx, if_neg (not_not_intro hm)]

end Qebind

/-! ### Interrupts -/

/-- The trap registers of Table 3-6's modes: status, cause, pc, value and instruction. -/
def trapCsrs : List Nat := [0x300, 0x341, 0x342, 0x343, 0x34B, 0x34A, 0x600, 0x141, 0x142, 0x143, 0x643, 0x64A, 0x200, 0x241, 0x242, 0x243]

/-- A trap goes to one of three modes. -/
theorem trap_cases (k : Hart) (t : Trap) : k.trap t = ({ k with wait := .none } : Hart).trapM t ∨
    k.trap t = ({ k with wait := .none } : Hart).trapVS t ∨ k.trap t = ({ k with wait := .none } : Hart).trapS t := by
  unfold Hart.trap
  extract_lets md hd k1
  split
  · exact .inl rfl
  · split
    · exact .inr (.inl rfl)
    · exact .inr (.inr rfl)

/-- The mode and the pc of a hart are no CSR. -/
theorem csrAt_mode (k : Hart) (p : Priv) (v : Bool) (pc : W64) (n : Nat) : ({ k with priv := p, virt := v, pc := pc } : Hart).csrAt n = k.csrAt n := rfl

section Traps
variable (k : Hart) (t : Trap) {n : Nat} (hn : n ∉ trapCsrs)
include hn

theorem ne_of_not_trapCsr {m : Nat} (hm : m ∈ trapCsrs) : n ≠ m := fun h => hn (h ▸ hm)

theorem csrAt_trapM : (k.trapM t).csrAt n = k.csrAt n := by
  have other : ∀ (a : Hart) (m : Nat) (w : W64), m ∈ trapCsrs → (a.setCsr m w).csrAt n = a.csrAt n :=
    fun a m w hm => csrAt_setCsr_other a w (ne_of_not_trapCsr hn hm)
  unfold Hart.trapM
  dsimp only
  rw [csrAt_mode, other _ _ _ (by decide), other _ _ _ (by decide), other _ _ _ (by decide), other _ _ _ (by decide),
    other _ _ _ (by decide), other _ _ _ (by decide)]

theorem csrAt_trapVS : (k.trapVS t).csrAt n = k.csrAt n := by
  have other : ∀ (a : Hart) (m : Nat) (w : W64), m ∈ trapCsrs → (a.setCsr m w).csrAt n = a.csrAt n :=
    fun a m w hm => csrAt_setCsr_other a w (ne_of_not_trapCsr hn hm)
  unfold Hart.trapVS
  dsimp only
  rw [csrAt_mode, other _ _ _ (by decide), other _ _ _ (by decide), other _ _ _ (by decide), other _ _ _ (by decide)]

theorem csrAt_trapS : (k.trapS t).csrAt n = k.csrAt n := by
  have other : ∀ (a : Hart) (m : Nat) (w : W64), m ∈ trapCsrs → (a.setCsr m w).csrAt n = a.csrAt n :=
    fun a m w hm => csrAt_setCsr_other a w (ne_of_not_trapCsr hn hm)
  unfold Hart.trapS
  dsimp only
  rw [csrAt_mode, other _ _ _ (by decide), other _ _ _ (by decide), other _ _ _ (by decide), other _ _ _ (by decide),
    other _ _ _ (by decide), other _ _ _ (by decide), other _ _ _ (by decide)]

/-- A trap writes no other CSR. -/
theorem csrAt_trap : (k.trap t).csrAt n = k.csrAt n := by
  have rested : ({ k with wait := .none } : Hart).csrAt n = k.csrAt n := rfl
  obtain h | h | h := trap_cases k t <;> rw [h]
  · exact (csrAt_trapM _ t hn).trans rested
  · exact (csrAt_trapVS _ t hn).trans rested
  · exact (csrAt_trapS _ t hn).trans rested

end Traps

/-- Serving a hart's interrupts writes no CSR but those of a trap. -/
theorem csrAt_serveHart (s : State) (h : Nat) {n : Nat} (hn : n ∉ trapCsrs) : ((s.serveHart h).hartOf h).csrAt n = (s.hartOf h).csrAt n := by
  unfold State.serveHart
  extract_lets k k1
  have hk : k1.csrAt n = (s.hartOf h).csrAt n := by unfold k1; split <;> rfl
  split
  · rfl
  · split
    · extract_lets wait
      split
      · rw [hartOf_setHart_same, hk]
      · exact (congrArg (·.csrAt n) (hartOf_setHart_same s h _)).trans ((csrAt_trap k1 _ hn).trans hk)
    · rw [hartOf_setHart_same, hk]

/-! ### The timer -/

/-- A word with bit 7 under the mask of that bit. -/
theorem and_bit7 {w : W64} (h : bitAt w 7 = true) : w &&& 0x80#64 = 0x80#64 :=
  (BitVec.and_twoPow w 7).trans (if_pos h)

/-- Bit 7 of mip is the machine timer's. -/
theorem mip_timer (s : State) (k : Hart) (h : (k.csrAt 0x7C1).toNat ≤ s.time) : bitAt (s.mip k) 7 = true := by
  unfold State.mip
  extract_lets now w0 w1 w2 w3
  have h1 : bitAt w1 7 = true := (bitAt_setBits (by decide) (by decide)).trans (by rw [if_pos (by decide), if_pos h]; rfl)
  have h2 : bitAt w2 7 = true := (bitAt_setBits (by decide) (by decide)).trans h1
  have h3 : bitAt w3 7 = true := by
    unfold w3
    split
    · exact (bitAt_setBits (by decide) (by decide)).trans h2
    · exact h2
  split
  · exact (bitAt_setBits (by decide) (by decide)).trans h3
  · exact h3

theorem mideleg_bit7 {k : Hart} (h : k.cbit 0x303 7 = false) : bitAt (~~~ k.mideleg) 7 = true := by
  have h' : (k.csrAt 0x303).getLsbD 7 = false := h
  rw [bitAt, Hart.mideleg, BitVec.getLsbD_not, BitVec.getLsbD_or, h']
  rfl

/-- In M-mode with MIE, the timer the only enable and not delegated, the timer interrupts once its time has come. -/
theorem interrupt_timer {s : State} {k : Hart} (hie : k.cbit 0x300 3 = true) (hen : k.csrAt 0x304 = 0x80)
    (hdel : k.cbit 0x303 7 = false) (ht : (k.csrAt 0x7C1).toNat ≤ s.time) : s.interrupt k = some 7 := by
  have hp : s.mip k &&& k.csrAt 0x304 = 0x80#64 := by rw [hen]; exact and_bit7 (mip_timer s k ht)
  have hm : 0x80#64 &&& ~~~ k.mideleg = 0x80#64 := by rw [BitVec.and_comm]; exact and_bit7 (mideleg_bit7 hdel)
  unfold State.interrupt
  dsimp only
  rw [hp, hm, hie, Bool.or_true]
  rfl

theorem trap_of_m {k : Hart} (t : Trap) (hp : k.priv = .m) : k.trap t = ({ k with wait := .none } : Hart).trapM t :=
  if_pos (by simp [hp])

/-- Interrupt i, as a trap. -/
def interruptOf (i : Nat) : Trap := { int := true, cause := i, tval := 0, gva := false, gpa := 0 }

theorem serveHart_trap {s : State} {h : Nat} {i : Nat} (hr : (s.hartOf h).st = .running) (hw : (s.hartOf h).wait = .none)
    (hi : s.interrupt (s.hartOf h) = some i) : s.serveHart h =
      { s.setHart h ((s.hartOf h).trap (interruptOf i)) with
        waiting := s.waiting.filter (· ≠ .hart h) } := by
  unfold State.serveHart
  extract_lets k k1
  have hk : k1 = s.hartOf h := if_neg (by simp [k, hr])
  clear_value k1
  subst hk
  rw [if_neg (not_not_intro hr), hi]
  dsimp only
  rename_i wait
  have hwait : wait = false := by unfold wait; rw [hw]
  rw [hwait]
  exact if_neg Bool.false_ne_true

theorem hartOf_waiting (s : State) (l : List Agent) (h : Nat) : ({ s with waiting := l } : State).hartOf h = s.hartOf h := rfl

theorem hartOf_serveHart_trapM {s : State} {h : Nat} {i : Nat} (hr : (s.hartOf h).st = .running) (hw : (s.hartOf h).wait = .none)
    (hp : (s.hartOf h).priv = .m) (hi : s.interrupt (s.hartOf h) = some i) :
    (s.serveHart h).hartOf h = ({ s.hartOf h with wait := .none } : Hart).trapM (interruptOf i) := by
  rw [serveHart_trap hr hw hi, hartOf_waiting, hartOf_setHart_same, trap_of_m _ hp]

theorem serveHart_rests {s : State} {h : Nat} (h1 : (s.hartOf h).st ≠ .running) (h2 : (s.hartOf h).st ≠ .wfi) : s.serveHart h = s := by
  simp [State.serveHart, h1, h2]

theorem x_setCsr (k : Hart) (n : Nat) (w : W64) : (k.setCsr n w).x = k.x := rfl

theorem x_mode (k : Hart) (p : Priv) (v : Bool) (pc : W64) : ({ k with priv := p, virt := v, pc := pc } : Hart).x = k.x := rfl

/-- What a trap into M-mode leaves: pc and cause kept, interrupts off with MIE in MPIE, and the handler of mtvec. -/
theorem trapM_shows (k : Hart) (t : Trap) : (k.trapM t).csrAt 0x341 = k.pc ∧ (k.trapM t).csrAt 0x342 = causeWord t.int t.cause ∧
    (k.trapM t).cbit 0x300 3 = false ∧ (k.trapM t).cbit 0x300 7 = k.cbit 0x300 3 ∧ (k.trapM t).priv = .m ∧ (k.trapM t).x = k.x ∧
    (k.trapM t).pc = vecPc (k.csrAt 0x305) t.int t.cause := by
  unfold Hart.trapM
  extract_lets st st1 st2 k1
  have hstatus : ({ k1.setCsr 0x34A 0 with priv := .m, virt := false, pc := vecPc (k.csrAt 0x305) t.int t.cause } : Hart).csrAt 0x300 = st2 := by
    rw [csrAt_mode, csrAt_setCsr_other _ _ (by decide), csrAt_setCsr_other _ _ (by decide), csrAt_setCsr_other _ _ (by decide),
      csrAt_setCsr_other _ _ (by decide), csrAt_setCsr_other _ _ (by decide), csrAt_setCsr_same]
  refine ⟨?_, ?_, ?_, ?_, rfl, ?_, rfl⟩
  · rw [csrAt_mode, csrAt_setCsr_other _ _ (by decide), csrAt_setCsr_other _ _ (by decide), csrAt_setCsr_other _ _ (by decide),
      csrAt_setCsr_other _ _ (by decide), csrAt_setCsr_same]
  · rw [csrAt_mode, csrAt_setCsr_other _ _ (by decide), csrAt_setCsr_other _ _ (by decide), csrAt_setCsr_other _ _ (by decide),
      csrAt_setCsr_same]
  · rw [Hart.cbit, hstatus]
    simp [st2, st1, bitAt_setBits]
  · rw [Hart.cbit, hstatus]
    have hst : bitAt (setBits st 7 7 (bits st 3 3)) 7 = bitAt st 3 := by
      rw [bitAt_setBits (by decide) (by decide), if_pos ⟨Nat.le_refl 7, Nat.le_refl 7⟩, testBit_bits]; rfl
    have hrest : bitAt st2 7 = bitAt (setBits st 7 7 (bits st 3 3)) 7 :=
      (bitAt_setBits (by decide) (by decide)).trans ((bitAt_setBits (by decide) (by decide)).trans
        ((bitAt_setBits (by decide) (by decide)).trans (bitAt_setBits (by decide) (by decide))))
    exact hrest.trans hst
  · exact (x_mode (k1.setCsr 0x34A 0) _ _ _).trans (by rw [x_setCsr, x_setCsr, x_setCsr, x_setCsr, x_setCsr, x_setCsr])

/-! ### The failure of a core -/

theorem addr_hartReg_lt {h : Nat} (hh : h < 64) : (hartReg h).addr < 0x3800000 := by
  have hr : (hartReg h).addr = 0x3000000 + h / 32 * 0x400000 + 0x0000 + 16 * (h % 32) := rfl
  omega

/-- The die's first machine check kept. -/
def mcheckKept (s : State) (d core c : Nat) : State :=
  if s.flag (.quillMcheck d) .VALID then s else s.setFlds (.quillMcheck d) [(.VALID, 1), (.CORE, core), (.CTX, c)]

/-- Hart h failed, out of every wait. -/
def hartDead (s : State) (h : Nat) : State :=
  { s.setHart h ((s.hartOf h).stop .failed) with
    waiting := s.waiting.filter (· ≠ Agent.hart h), hostReads := s.hostReads.filter fun q => q.reader ≠ HostReader.hart h }

/-- Hart h listed, failed and unbound, before its context is faulted. -/
def hartFailed (s : State) (h : HartId) : State :=
  (((hartDead (mcheckKept (s.list 5 0 false (h.val / 32) (h.val % 32)) (h.val / 32) (h.val % 32) ((s.hartCtx h).getD 0)) h).setFlag
    (hartReg h) .BOUND false).setFlag (hartReg h) .RUN false).pfEvent 10

theorem exec_quillCoreFailure {s : State} {h : HartId} (h1 : (s.hartOf h).st ≠ .failed) (h2 : (s.hartOf h).st ≠ .disabled) :
    (s.hartCtx h = none → exec (.quillCoreFailure h) s = .next (hartFailed s h)) ∧
    ∀ c, s.hartCtx h = some c → exec (.quillCoreFailure h) s = .next ((hartFailed s h).faultNoUnit c 0x04 3) := by
  have hif : ¬ (decide ((s.hartOf h).st = .failed) || decide ((s.hartOf h).st = .disabled)) = true := by simp [h1, h2]
  refine ⟨fun hc => ?_, fun c hc => ?_⟩
  · refine congrArg Host.Outcome.next ((if_neg hif).trans ?_)
    rw [hc]
    unfold hartFailed hartDead mcheckKept
    rw [hc]
  · refine congrArg Host.Outcome.next ((if_neg hif).trans ?_)
    rw [hc]
    unfold hartFailed hartDead mcheckKept
    rw [hc]

theorem reg_list (s : State) (kind origin : Nat) (z : Bool) (tile loc : Nat) (q : Reg) : (s.list kind origin z tile loc).reg q = s.reg q := by
  rw [list_eq]; rfl

theorem hartOf_list (s : State) (kind origin : Nat) (z : Bool) (tile loc h : Nat) : (s.list kind origin z tile loc).hartOf h = s.hartOf h := by
  rw [list_eq]; rfl

theorem events_mcheckKept (s : State) (d core c : Nat) : Events s (mcheckKept s d core c) := by
  unfold mcheckKept; split
  · exact .refl s
  · exact events_setFlds ..

theorem reg_mcheckKept (s : State) (d core c : Nat) {q : Reg} (hq : q.addr ≠ (Reg.quillMcheck d).addr) : (mcheckKept s d core c).reg q = s.reg q := by
  unfold mcheckKept; split
  · rfl
  · exact reg_setFlds_other s _ hq

theorem hartOf_waits (s : State) (l : List Agent) (r : List HostRead) (h : Nat) :
    ({ s with waiting := l, hostReads := r } : State).hartOf h = s.hartOf h := rfl

theorem reg_hartDead (s : State) (h : Nat) (q : Reg) : (hartDead s h).reg q = s.reg q := rfl
theorem perm_hartDead (s : State) (h : Nat) : (hartDead s h).perm = s.perm := rfl
theorem hartOf_hartDead (s : State) (h : Nat) : (hartDead s h).hartOf h = (s.hartOf h).stop .failed := by
  exact (hartOf_waits _ _ _ h).trans (hartOf_setHart_same s h _)

theorem hart_of_events {s t : State} (e : Events s t) (h : Nat) : t.hartOf h = s.hartOf h := by rw [Events] at e; rw [e]; rfl

theorem hart_of_faulted {s t : State} (e : Faulted s t) (h : Nat) : t.hartOf h = s.hartOf h := by rw [Faulted] at e; rw [e]; rfl

theorem perm_of_faulted {s t : State} (e : Faulted s t) : t.perm = s.perm := by rw [Faulted] at e; rw [e]

theorem hartOf_hartFailed (s : State) (h : HartId) : (hartFailed s h).hartOf h = (s.hartOf h).stop .failed := by
  rw [hartFailed, hart_of_events (events_pfEvent ..), hartOf_setFlag, hartOf_setFlag, hartOf_hartDead, hart_of_events (events_mcheckKept ..),
    hartOf_list]

theorem perm_setFlag (s : State) (r : Reg) (f : FName) (b : Bool) : (s.setFlag r f b).perm = s.perm := rfl

theorem perm_hartFailed (s : State) (h : HartId) : (hartFailed s h).perm = (s.list 5 0 false (h.val / 32) (h.val % 32)).perm := by
  rw [hartFailed, perm_of_events (events_pfEvent ..), perm_setFlag, perm_setFlag, perm_hartDead, perm_of_events (events_mcheckKept ..)]

theorem flags_hartFailed (s : State) (h : HartId) :
    (hartFailed s h).flag (hartReg h) .BOUND = false ∧ (hartFailed s h).flag (hartReg h) .RUN = false := by
  have hk := fun (t : State) (f : FName) => flag_congr (reg_pfEvent_spared t (spared_hartReg h.isLt) (v := 10) (by decide)) f
  exact ⟨(hk _ .BOUND).trans ((flag_setFlag_ne _ _ _ rfl rfl (by decide)).trans (flag_setFlag _ _ _ _ rfl)),
    (hk _ .RUN).trans (flag_setFlag _ _ _ _ rfl)⟩

theorem flag_ctxfCause_hartFailed (s : State) (h : HartId) (c : Nat) (f : FName) :
    (hartFailed s h).flag (.ctxfCause c) f = s.flag (.ctxfCause c) f := by
  have hh : (hartReg h).addr = 0x3000000 + h.val / 32 * 0x400000 + 0x0000 + 16 * (h.val % 32) := rfl
  have hc : (Reg.ctxfCause c).addr = 0x3800000 + c * 0x10000 + 0x100 := rfl
  have hm : (Reg.quillMcheck (h.val / 32)).addr = 0x3000000 + h.val / 32 * 0x400000 + 0x1008 := rfl
  have hlt := h.isLt
  refine flag_congr ?_ f
  rw [hartFailed, reg_pfEvent_spared _ (spared_ctxfCause c) (by decide), reg_setFlag_other _ _ _ (by omega), reg_setFlag_other _ _ _ (by omega),
    reg_hartDead, reg_mcheckKept _ _ _ _ (by omega), reg_list]

/-- A unit that finds room is listed, now or before. -/
theorem mem_list (s : State) (kind origin : Nat) (z : Bool) (tile loc : Nat) (hl : s.perm.defects.length < 4096) :
    ∃ d ∈ (s.list kind origin z tile loc).perm.defects, defectKey d = defectKey (defectEntry kind origin z s.perm.boots.toNat tile loc) := by
  by_cases hd : ∃ d ∈ s.perm.defects, defectKey d = defectKey (defectEntry kind origin z s.perm.boots.toNat tile loc)
  · rw [list_of_listed (.inr hd)]; exact hd
  · rw [list_of_new hl (by simpa using hd)]
    exact ⟨_, List.mem_append_right _ (List.mem_singleton_self _), rfl⟩

theorem hartCtx_lt {s : State} {h c : Nat} (hc : s.hartCtx h = some c) : c < 16 := by
  unfold State.hartCtx at hc
  split at hc
  · cases hc; exact bits_lt _ 59 56
  · cases hc

theorem faultNoUnit_held (s : State) {c : Nat} (hc : c < 16) {cause arg : Nat} (hv : s.flag (.ctxfCause c) .VALID = false) (hcause : cause < 256)
    (ha : arg < 4294967296) : FaultHeld (s.faultNoUnit c cause arg) c cause 0xFF 0xFF 0xFFFF arg :=
  contextFault_held s hc hv hcause (by decide) (by decide) (by decide) ha

theorem faulted_faultNoUnit (s : State) (c cause arg : Nat) : Faulted s (s.faultNoUnit c cause arg) := faulted_contextFault ..

/-! ### A line of a Quill cache -/

/-- The home of a modified line that is lost, poisoned and logged. -/
def homeLost (s : State) (e : DirEntry) (l : Nat) : State := if e.dirty then (s.setPoison l true).logUe false e.ctx (l * 64) else s

theorem exec_quillCacheUe_none {s : State} {line : BitVec 32} (h : s.dir.find? (fun e => e.line = line.toNat) = none) :
    exec (.quillCacheUe line) s = .next s := by
  refine congrArg Host.Outcome.next ?_
  rw [h]

theorem exec_quillCacheUe_some {s : State} {line : BitVec 32} {e : DirEntry} (h : s.dir.find? (fun e => e.line = line.toNat) = some e) :
    exec (.quillCacheUe line) s =
      .next ((homeLost { s with dir := s.dir.filter fun e => e.line ≠ line.toNat } e line.toNat).faultNoUnit e.ctx 0x04 4) := by
  refine congrArg Host.Outcome.next ?_
  rw [h]
  rfl

/-- Logging a line moves its tile's TMEM.UE_LOG alone. -/
theorem events_logUe (s : State) (scrub : Bool) (c pa : Nat) : Events s (s.logUe scrub c pa) := by
  unfold State.logUe; dsimp only
  split
  · exact events_setFld ..
  · exact events_setFlds ..

theorem reg_logUe (s : State) (scrub : Bool) (c pa : Nat) {q : Reg} (hq : q.addr ≠ (Reg.tmemUeLog (tileOfPa pa)).addr) :
    (s.logUe scrub c pa).reg q = s.reg q := by
  unfold State.logUe; dsimp only
  split
  · exact reg_setFlag_other _ _ _ hq
  · exact reg_setFlds_other _ _ hq

theorem dir_of_events {s t : State} (e : Events s t) : t.dir = s.dir := by rw [Events] at e; rw [e]
theorem poison_of_events {s t : State} (e : Events s t) (l : Nat) : t.poisoned l = s.poisoned l := by rw [Events] at e; rw [e]; rfl
theorem dir_of_faulted {s t : State} (e : Faulted s t) : t.dir = s.dir := by rw [Faulted] at e; rw [e]
theorem poison_of_faulted {s t : State} (e : Faulted s t) (l : Nat) : t.poisoned l = s.poisoned l := by rw [Faulted] at e; rw [e]; rfl

theorem homeLost_shows (s : State) (e : DirEntry) (l : Nat) : (homeLost s e l).dir = s.dir ∧
    (homeLost s e l).poisoned l = (s.poisoned l || e.dirty) ∧ ∀ c f, (homeLost s e l).flag (.ctxfCause c) f = s.flag (.ctxfCause c) f := by
  unfold homeLost
  split
  next hd =>
    refine ⟨(dir_of_events (events_logUe ..)).trans rfl, ?_, fun c f => flag_congr ((reg_logUe _ _ _ _ ?_).trans rfl) f⟩
    · rw [poison_of_events (events_logUe ..), poisoned_setPoison_same, hd, Bool.or_true]
    · have hc : (Reg.ctxfCause c).addr = 0x3800000 + c * 0x10000 + 0x100 := rfl
      rw [addr_tmemUeLog]; omega
  next hd => exact ⟨rfl, by simp [hd], fun _ _ => rfl⟩

theorem flag_ctxfCause_dir (s : State) (d : List DirEntry) (c : Nat) (f : FName) :
    ({ s with dir := d } : State).flag (.ctxfCause c) f = s.flag (.ctxfCause c) f := rfl

/-! ### The statement -/

theorem exec_qeventUpdate (h : HartId) (b : BitVec 6) (s : State) : exec (.qeventUpdate h b) s =
    .next ((s.setHart h ((s.hartOf h).setCbits 0x7C2 b.toNat b.toNat (if (match s.hartCtx h with
      | some c => s.eventHolds c (smGet (fun _ => 0) (s.hartOf h).bind b.toNat)
      | none => false) then 1 else 0))).serveHart h) := rfl

/-- Bit i of qevent after a set of bit b. -/
theorem bitAt_qevent (s : State) (h : Nat) (k : Hart) {b i : Nat} (v : Bool) (hi : i < 64) :
    bitAt ((((s.setHart h (k.setCbits 0x7C2 b b (if v then 1 else 0))).serveHart h).hartOf h).csrAt 0x7C2) i =
      if i = b then v else bitAt (k.csrAt 0x7C2) i := by
  rw [csrAt_serveHart _ _ (by decide), hartOf_setHart_same, Hart.setCbits, csrAt_setCsr_same, bitAt_setBits hi (by omega)]
  by_cases e : i = b
  · subst e; cases v <;> simp
  · rw [if_neg (by omega), if_neg e]

/-- A core that fails: its hart stopped, unbound and listed, and its context faulted. -/
theorem quillCoreFailure_shows {s : State} {h : HartId} (h1 : (s.hartOf h).st ≠ .failed) (h2 : (s.hartOf h).st ≠ .disabled) :
    ∃ t, exec (.quillCoreFailure h) s = .next t ∧ (t.hartOf h).st = .failed ∧ (t.hartOf h).resv = none ∧
      t.flag (hartReg h) .BOUND = false ∧ t.flag (hartReg h) .RUN = false ∧
      (s.perm.defects.length < 4096 → ∃ d ∈ t.perm.defects,
        defectKey d = defectKey (defectEntry 5 0 false s.perm.boots.toNat (h.val / 32) (h.val % 32))) ∧
      ∀ c, s.hartCtx h = some c → s.flag (.ctxfCause c) .VALID = false → t.fld (.ctxfCause c) .CAUSE = 0x04 ∧ t.fld (.ctxfDetail c) .ARG = 3 := by
  have hlist : s.perm.defects.length < 4096 → ∃ d ∈ (hartFailed s h).perm.defects,
      defectKey d = defectKey (defectEntry 5 0 false s.perm.boots.toNat (h.val / 32) (h.val % 32)) := by
    rw [perm_hartFailed]; exact mem_list s 5 0 false _ _
  obtain ⟨hb, hr⟩ := flags_hartFailed s h
  obtain ⟨hnone, hsome⟩ := exec_quillCoreFailure h1 h2
  cases hctx : s.hartCtx h with
  | none =>
    refine ⟨_, hnone hctx, ?_, ?_, hb, hr, hlist, fun c hc => nomatch hc⟩
    · rw [hartOf_hartFailed]; rfl
    · rw [hartOf_hartFailed]; rfl
  | some c =>
    have hc := hartCtx_lt hctx
    have hf := faulted_faultNoUnit (hartFailed s h) c 0x04 3
    have hk := fun f => flag_congr (reg_contextFault_unit (hartFailed s h) hc 0x04 0xFF 0xFF 0xFFFF 3 (spared_hartReg h.isLt) (addr_hartReg_lt h.isLt)) f
    refine ⟨_, hsome c hctx, ?_, ?_, (hk .BOUND).trans hb, (hk .RUN).trans hr, ?_, ?_⟩
    · exact congrArg Hart.st ((hart_of_faulted hf h).trans (hartOf_hartFailed s h))
    · exact congrArg Hart.resv ((hart_of_faulted hf h).trans (hartOf_hartFailed s h))
    · exact fun hl => by rw [perm_of_faulted hf]; exact hlist hl
    · rintro _ ⟨⟩ hv
      obtain ⟨hcause, -, -, -, harg⟩ := faultNoUnit_held (hartFailed s h) hc (cause := 0x04) (arg := 3)
        ((flag_ctxfCause_hartFailed s h c .VALID).trans hv) (by decide) (by decide)
      exact ⟨hcause, harg⟩

/-- A cached line that is lost: out of the directory, its home poisoned where it was modified, and its context faulted. -/
theorem quillCacheUe_shows {s : State} {line : BitVec 32} {e : DirEntry} (he : s.dir.find? (fun e => e.line = line.toNat) = some e) :
    ∃ t, exec (.quillCacheUe line) s = .next t ∧ (∀ x ∈ t.dir, x.line ≠ line.toNat) ∧
      t.poisoned line.toNat = (s.poisoned line.toNat || e.dirty) ∧
      (e.ctx < 16 → s.flag (.ctxfCause e.ctx) .VALID = false → t.fld (.ctxfCause e.ctx) .CAUSE = 0x04 ∧ t.fld (.ctxfDetail e.ctx) .ARG = 4) := by
  have hf := faulted_faultNoUnit (homeLost { s with dir := s.dir.filter fun e => e.line ≠ line.toNat } e line.toNat) e.ctx 0x04 4
  obtain ⟨hdir, hpoison, hflag⟩ := homeLost_shows { s with dir := s.dir.filter fun e => e.line ≠ line.toNat } e line.toNat
  refine ⟨_, exec_quillCacheUe_some he, ?_, (poison_of_faulted hf _).trans hpoison, fun hc hv => ?_⟩
  · rw [dir_of_faulted hf, hdir]
    intro x hx
    simpa using (List.mem_filter.mp hx).2
  · obtain ⟨hcause, -, -, -, harg⟩ := faultNoUnit_held _ hc (cause := 0x04) (arg := 4)
      ((hflag e.ctx .VALID).trans ((flag_ctxfCause_dir s _ e.ctx .VALID).trans hv)) (by decide) (by decide)
    exact ⟨hcause, harg⟩

/-- Settles O32: each command by what it writes of the hart, and the faults by the record they leave in CTXF. -/
theorem quillEventsAndFailures : Obligations.QuillEventsAndFailures := by
  unfold Obligations.QuillEventsAndFailures
  refine ⟨?_, fun h b s => ?_, ?_, fun h s h1 h2 => ?_, fun line s => ⟨exec_quillCacheUe_none, fun e he => ?_⟩⟩
  · intro h data s s1 w hx k c ok
    refine ⟨exec_qebindWrite_illegal hx data, fun hm => ⟨_, exec_qebindWrite_done hx data hm, ?_⟩⟩
    simp only [hartOf_hartDone, bind_hartAdvance, pc_hartAdvance, Hart.cbits, csrAt_hartAdvance _ _ (show (0x7C3 : Nat) ≠ 0xB02 by decide)]
    by_cases hok : BindingOk s1 c data
    · rw [qebindWrite_ok hok]
      exact ⟨(bind_bound ..).trans (if_pos hok).symm, fun h => absurd hok h, rfl⟩
    · rw [qebindWrite_bad hok]
      have hbind : ((bound (s1.hartOf h) 0).setCbits 0x7C3 7 0 0x10).bind = (bound (s1.hartOf h) 0).bind := rfl
      rw [hbind]
      exact ⟨(bind_bound ..).trans (if_neg hok).symm, fun _ => (congrArg (bits · 7 0) (csrAt_setCsr_same ..)).trans (bits_setBits_same _ 7 0 0x10 (by decide) (by decide)), rfl⟩
  · refine ⟨_, exec_qeventUpdate h b s, fun c hc => ?_, fun hc => ?_, fun j hj hne => ?_⟩
    · rw [bitAt_qevent _ _ _ _ b.isLt, if_pos rfl, hc]
    · rw [bitAt_qevent _ _ _ _ b.isLt, if_pos rfl, hc]
    · rw [bitAt_qevent _ _ _ _ hj, if_neg hne]
  · intro h s k
    refine ⟨fun hr hw hp hie hen hdel ht => ⟨s.serveHart h, rfl, ?_⟩, fun h1 h2 => congrArg Host.Outcome.next (serveHart_rests h1 h2)⟩
    obtain ⟨h1, h2, h3, h4, h5, h6, h7⟩ := trapM_shows { k with wait := .none } (interruptOf 7)
    rw [hartOf_serveHart_trapM hr hw hp (interrupt_timer hie hen hdel ht)]
    refine ⟨h1, h2, h3, h4.trans hie, h5, h6, h7.trans ?_⟩
    simp only [vecPc, interruptOf, Bool.true_and, decide_eq_true_eq]
    rfl
  · exact quillCoreFailure_shows h1 h2
  · exact quillCacheUe_shows he

end Sys2Proof.Proofs
end

section
/-!
Reads and writes at the home (R80, R82, R84, R96, R97, R225, R233): what a line that a die holds, one that is poisoned and one that is
clean does to the bytes asked for or given.
-/
namespace Sys2Proof.Proofs
open Sys2Proof.Machine Sys2Proof.Laws Sys2Proof.Claims

/-! ### Modified lines written home -/

/-- t differs from s in the poison and the zero map of lines, at most. -/
def Homed (s t : State) : Prop := t = { s with poison := t.poison, zmap := t.zmap }

theorem Homed.refl (s : State) : Homed s s := rfl

theorem Homed.trans {s t u : State} (h : Homed s t) (g : Homed t u) : Homed s u := by
  rw [Homed] at *; rw [g]; show _ = _; rw [h]

theorem homed_writeHome (s : State) (e : DirEntry) : Homed s (s.writeHome e) := by
  unfold State.writeHome
  split <;> rfl

theorem homed_writeHomeAll (s : State) (es : List DirEntry) : Homed s (s.writeHomeAll es) := by
  induction es generalizing s with
  | nil => exact .refl s
  | cons e es ih => exact (homed_writeHome s e).trans (ih _)

theorem Homed.same {s t : State} (h : Homed s t) : t.mem = s.mem ∧ t.nib = s.nib ∧ t.dir = s.dir ∧ t.hart = s.hart ∧ t.wellBad = s.wellBad ∧
    t.regs = s.regs ∧ t.outbox = s.outbox ∧ t.ctx = s.ctx ∧ t.perm = s.perm := by
  rw [Homed] at h; rw [h]; and_intros <;> rfl

theorem poisoned_writeHome (s : State) (e : DirEntry) (l : Nat) :
    (s.writeHome e).poisoned l = (s.poisoned l && !(e.dirty && decide (e.line = l))) := by
  have hzero : ∀ (u : State) (b : Bool), (u.setZeroMap e.line b).poisoned l = u.poisoned l := fun _ _ => rfl
  unfold State.writeHome
  split
  next hd =>
    rw [hzero, hd]
    by_cases hl : e.line = l
    · subst hl; simp
    · rw [poisoned_setPoison_other _ _ _ _ (Ne.symm hl)]; simp [hl]
  next hd => simp [hd]

/-- The poison of a line once entries are written home: cleared where one of them is modified. -/
theorem poisoned_writeHomeAll (s : State) (es : List DirEntry) (l : Nat) :
    (s.writeHomeAll es).poisoned l = (s.poisoned l && !es.any fun e => e.dirty && decide (e.line = l)) := by
  induction es generalizing s with
  | nil => simp [State.writeHomeAll]
  | cons e es ih =>
    have hstep : s.writeHomeAll (e :: es) = (s.writeHome e).writeHomeAll es := rfl
    rw [hstep, ih, poisoned_writeHome, List.any_cons, Bool.not_or, Bool.and_assoc]

/-- Is a line held modified by a die? -/
def heldDirty (s : State) (line : Nat) : Bool := s.dir.any fun e => decide (e.line = line) && e.dirty

theorem any_dirty_filter (d : List DirEntry) (line : Nat) :
    ((d.filter fun e => e.line = line).any fun e => e.dirty && decide (e.line = line)) = d.any fun e => decide (e.line = line) && e.dirty := by
  rw [List.any_filter]
  congr 1; funext e
  by_cases h : e.line = line <;> simp [h]

theorem any_dirty_filter_other (d : List DirEntry) {line l : Nat} (h : l ≠ line) :
    ((d.filter fun e => e.line = line).any fun e => e.dirty && decide (e.line = l)) = false := by
  rw [List.any_filter, List.any_eq_false]
  intro e _
  by_cases he : e.line = line
  · simp [he, Ne.symm h]
  · simp [he]

/-! ### A line read -/

/-- What a read of line l at its home leaves: memory, the cores, the words in error and the poison of other lines. -/
structure LineRead (l : Nat) (s t : State) : Prop where
  mem : t.mem = s.mem
  nib : t.nib = s.nib
  badWord : ∀ w, t.badWord w = s.badWord w
  lineBad : ∀ l', l' ≠ l → t.lineBad l' = s.lineBad l'

theorem dir_snoopRead (s : State) (line : Nat) :
    (s.snoopRead line).dir = s.dir.map fun e => if e.line = line then { e with owned := false, dirty := false } else e := by
  obtain ⟨-, -, hdir, -⟩ := (homed_writeHomeAll s (s.dir.filter fun e => e.line = line)).same
  exact congrArg (List.map _) hdir

theorem ownedLine_snoopRead_same (s : State) (line : Nat) : (s.snoopRead line).ownedLine line = false := by
  rw [State.ownedLine, dir_snoopRead, List.any_map, List.any_eq_false]
  intro e _
  by_cases he : e.line = line <;> simp [he]

theorem ownedLine_snoopRead_other (s : State) {line l : Nat} (h : l ≠ line) : (s.snoopRead line).ownedLine l = s.ownedLine l := by
  rw [State.ownedLine, dir_snoopRead, List.any_map, State.ownedLine]
  congr 1; funext e
  by_cases he : e.line = line
  · simp [he, Ne.symm h]
  · simp [he]

theorem poisoned_snoopRead_other (s : State) {line l : Nat} (h : l ≠ line) : (s.snoopRead line).poisoned l = s.poisoned l := by
  have hp := poisoned_writeHomeAll s (s.dir.filter fun e => e.line = line) l
  rw [any_dirty_filter_other _ h, Bool.not_false, Bool.and_true] at hp
  exact hp

theorem lineRead_snoopRead (s : State) (l : Nat) : LineRead l s (s.snoopRead l) := by
  obtain ⟨hmem, hnib, -, -, hbad, -⟩ := (homed_writeHomeAll s (s.dir.filter fun e => e.line = l)).same
  refine ⟨hmem, hnib, fun w => congrArg (smGet _ · w) hbad, fun l' h => ?_⟩
  rw [State.lineBad, poisoned_snoopRead_other s h, ownedLine_snoopRead_other s h, State.lineBad]

theorem lineRead_addFld (s : State) (l : Nat) (r : Reg) (f : FName) (k : Nat) : LineRead l s (s.addFld r f k) := ⟨rfl, rfl, fun _ => rfl, fun _ _ => rfl⟩

section ReadLine
variable {s : State} {c : Option Nat} {l : Nat} {ws : List Nat}

/-- A line of DRAM that no reader meets poisoned is read. -/
theorem readLine_dram (hd : isDram (l * 64) = true) (hb : s.lineBad l = false) : (s.readLine c l ws).2 = true ∧ LineRead l s (s.readLine c l ws).1 := by
  unfold State.readLine
  rw [if_pos hd]
  cases ho : s.ownedLine l with
  | true => rw [if_pos rfl]; exact ⟨rfl, lineRead_snoopRead s l⟩
  | false =>
    have hp : s.poisoned l = false := by simpa [State.lineBad, ho] using hb
    rw [if_neg Bool.false_ne_true, if_neg (by simp [hp])]
    split
    · exact ⟨rfl, lineRead_addFld ..⟩
    · exact ⟨rfl, rfl, rfl, fun _ => rfl, fun _ _ => rfl⟩

theorem readLine_well (hd : isDram (l * 64) = false) (hw : ∀ w ∈ ws, w / 8 = l → s.badWord w = false) : s.readLine c l ws = (s, true) := by
  have hfind : ws.find? (fun w => w / 8 = l && s.badWord w) = none := by
    rw [List.find?_eq_none]
    intro w hm hb
    simp only [Bool.and_eq_true, decide_eq_true_eq] at hb
    exact absurd (hw w hm hb.1) (by simp [hb.2])
  unfold State.readLine
  rw [if_neg (by simp [hd]), hfind]

theorem readLine_bad (hd : isDram (l * 64) = true) (hb : s.lineBad l = true) :
    s.readLine c l ws = (s.logUe false (c.getD 0) (l * 64), false) := by
  obtain ⟨hp, ho⟩ := Bool.and_eq_true_iff.mp hb
  unfold State.readLine
  rw [if_pos hd, if_neg (by simpa using ho), if_pos hp]

end ReadLine

/-- The lines of a read, one after another. -/
def readLines (c : Option Nat) (ws : List Nat) (x : State × Bool) (ls : List Nat) : State × Bool :=
  ls.foldl (fun acc l => let x := acc.1.readLine c l ws; (x.1, acc.2 && x.2)) x

theorem homeRead_eq (s : State) (c : Option Nat) (pa n : Nat) : s.homeRead c pa n =
    (let r := readLines c (wordsOf pa n) (s, true) (linesOf pa n); (r.1, if r.2 then some (s.bytesAt pa n) else none)) := rfl

/-- Lines none of which fails: all are read, and memory and the cores stay. -/
theorem readLines_ok {c : Option Nat} {ws : List Nat} (ls : List Nat) (hn : ls.Nodup) (s : State)
    (hl : ∀ l ∈ ls, isDram (l * 64) = true → s.lineBad l = false) (hw : ∀ w ∈ ws, isDram (w * 8) = false → s.badWord w = false) :
    (readLines c ws (s, true) ls).2 = true ∧ (readLines c ws (s, true) ls).1.mem = s.mem ∧ (readLines c ws (s, true) ls).1.nib = s.nib := by
  induction ls generalizing s with
  | nil => exact ⟨rfl, rfl, rfl⟩
  | cons l ls ih =>
    obtain ⟨hnot, hn⟩ := List.nodup_cons.mp hn
    have hline : (s.readLine c l ws).2 = true ∧ LineRead l s (s.readLine c l ws).1 := by
      cases hd : isDram (l * 64) with
      | true => exact readLine_dram hd (hl l List.mem_cons_self hd)
      | false =>
        rw [readLine_well hd fun w hm he => hw w hm ?_]
        · exact ⟨rfl, rfl, rfl, fun _ => rfl, fun _ _ => rfl⟩
        · simp only [isDram, decide_eq_false_iff_not] at hd ⊢
          omega
    obtain ⟨hok, hmem, hnib, hbad, hlines⟩ := hline
    have hstep : readLines c ws (s, true) (l :: ls) = readLines c ws ((s.readLine c l ws).1, true) ls := by
      show readLines c ws ((s.readLine c l ws).1, true && (s.readLine c l ws).2) ls = _
      rw [hok, Bool.and_self]
    obtain ⟨h1, h2, h3⟩ := ih hn (s.readLine c l ws).1
      (fun l' hm hd => (hlines l' (fun e => hnot (e ▸ hm))).trans (hl l' (List.mem_cons_of_mem _ hm) hd))
      (fun w hm hd => (hbad w).trans (hw w hm hd))
    rw [hstep]
    exact ⟨h1, h2.trans hmem, h3.trans hnib⟩

theorem nodup_linesOf (pa n : Nat) : (linesOf pa n).Nodup := by
  unfold linesOf
  split
  · exact .nil
  · exact List.nodup_range.map fun a b h => Nat.add_left_cancel h

theorem linesOf_one {pa n l : Nat} (h1 : pa / 64 = l) (hn : 0 < n) (h2 : (pa + n - 1) / 64 = l) : linesOf pa n = [l] := by
  unfold linesOf
  rw [if_neg (by omega), h1, h2, Nat.sub_self]
  rfl

/-! ### A line written -/

/-- t differs from s in registers, in what it has sent, in the epochs and in the Feed channels, at most. -/
def Guarded (s t : State) : Prop := t = { s with regs := t.regs, outbox := t.outbox, epoch := t.epoch, feed := t.feed }

theorem Guarded.refl (s : State) : Guarded s s := rfl

theorem Guarded.trans {s t u : State} (h : Guarded s t) (g : Guarded t u) : Guarded s u := by
  rw [Guarded] at *; rw [g]; show _ = _; rw [h]

theorem Events.guarded {s t : State} (h : Events s t) : Guarded s t := by rw [Events] at h; rw [Guarded, h]

theorem guarded_setEpoch (s : State) (c : Nat) (e : Epoch) : Guarded s (s.setEpoch c e) := rfl
theorem guarded_setFeedCh (s : State) (i : Nat) (k : FeedCh) : Guarded s (s.setFeedCh i k) := rfl

theorem guarded_guardRegions (s : State) (line : Nat) : Guarded s (s.guardRegions line) := by
  unfold State.guardRegions
  generalize allContexts = l
  induction l generalizing s with
  | nil => exact .refl s
  | cons c l ih =>
    refine Guarded.trans ?_ (ih _)
    dsimp only
    split
    · exact (guarded_setEpoch ..).trans (Guarded.trans (Events.guarded (events_setFld ..)) ((guarded_setFeedCh ..).trans (Events.guarded (events_vfEvent ..))))
    · exact .refl s

theorem Guarded.same {s t : State} (h : Guarded s t) : t.mem = s.mem ∧ t.dir = s.dir ∧ t.hart = s.hart ∧ t.poison = s.poison ∧ t.zmap = s.zmap ∧
    t.nib = s.nib ∧ t.perm = s.perm := by
  rw [Guarded] at h; rw [h]; and_intros <;> rfl

/-- A line ready for a write: out of the Quill caches, with no reservation, its streams aborted. -/
def lineReady (s : State) (line : Nat) : State := ((s.dropLine line).loseResv line).guardRegions line

theorem dropLine_same (s : State) (line : Nat) : (s.dropLine line).mem = s.mem ∧ (s.dropLine line).nib = s.nib ∧ (s.dropLine line).hart = s.hart ∧
    (s.dropLine line).dir = s.dir.filter (fun e => e.line ≠ line) ∧ (s.dropLine line).perm = s.perm ∧ (s.dropLine line).outbox = s.outbox ∧
    (s.dropLine line).regs = s.regs := by
  obtain ⟨hmem, hnib, hdir, hhart, -, hregs, hout, -, hperm⟩ := (homed_writeHomeAll s (s.dir.filter fun e => e.line = line)).same
  exact ⟨hmem, hnib, hhart, congrArg (List.filter _) hdir, hperm, hout, hregs⟩

theorem poisoned_dropLine (s : State) (line : Nat) : (s.dropLine line).poisoned line = (s.poisoned line && !heldDirty s line) := by
  have hp := poisoned_writeHomeAll s (s.dir.filter fun e => e.line = line) line
  rw [any_dirty_filter] at hp
  exact hp

theorem resv_loseResv (s : State) (line h : Nat) : ((s.loseResv line).hartOf h).resv ≠ some line := by
  refine smGet_smMap_of (d := fun _ => Hart.off) (f := fun _ k => if k.resv = some line then { k with resv := none } else k)
    (P := fun k => k.resv ≠ some line) (fun _ => ?_) (fun _ k => ?_) s.hart h
  · rw [show Hart.off.resv = none from rfl]; exact Option.some_ne_none _ |>.symm
  · split
    · exact (Option.some_ne_none _).symm
    · assumption

theorem lineReady_shows (s : State) (line : Nat) : (lineReady s line).mem = s.mem ∧ (∀ e ∈ (lineReady s line).dir, e.line ≠ line) ∧
    (∀ h, ((lineReady s line).hartOf h).resv ≠ some line) ∧ (lineReady s line).poisoned line = (s.poisoned line && !heldDirty s line) := by
  obtain ⟨hmem, hdir, hhart, hpoison, -⟩ := (guarded_guardRegions ((s.dropLine line).loseResv line) line).same
  obtain ⟨hmem', -, -, hdir', -⟩ := dropLine_same s line
  refine ⟨hmem.trans hmem', fun e he => ?_, fun h => ?_, (congrArg (smGet _ · line) hpoison).trans (poisoned_dropLine s line)⟩
  · have he' : e ∈ s.dir.filter (fun e => e.line ≠ line) := by rw [← hdir', ← show _ = (s.dropLine line).dir from hdir]; exact he
    simpa using (List.mem_filter.mp he').2
  · have hh : (lineReady s line).hartOf h = ((s.dropLine line).loseResv line).hartOf h := congrArg (smGet _ · h) hhart
    rw [hh]
    exact resv_loseResv (s.dropLine line) line h

section WriteLine
variable (s : State) (c : Option Nat) (mcomp : Bool) (line : Nat) {cs : List Host.Cell}

theorem writeDramLine_whole (h : cs.length = 64) : s.writeDramLine c mcomp line cs =
    ((((lineReady s line).putCells cs).setPoison line false).setZeroMap line (mcomp && cs.all fun x => x.2 = 0), true) := by
  unfold State.writeDramLine
  exact if_pos h

theorem writeDramLine_part (h : cs.length ≠ 64) (hp : (s.dropLine line).poisoned line = false) : s.writeDramLine c mcomp line cs =
    (((lineReady s line).putCells cs).setZeroMap line false, true) := by
  unfold State.writeDramLine
  dsimp only
  rw [if_neg h, if_neg (by simp [hp])]
  rfl

theorem writeDramLine_poisoned (h : cs.length ≠ 64) (hp : (s.dropLine line).poisoned line = true) : s.writeDramLine c mcomp line cs =
    ((s.dropLine line).logUe false (c.getD 0) (line * 64), false) := by
  unfold State.writeDramLine
  dsimp only
  rw [if_neg h, if_pos hp]

end WriteLine

theorem dedup_replicate (n a : Nat) : dedup (List.replicate (n + 1) a) = [a] := by
  induction n with
  | zero => rfl
  | succ n ih => rw [List.replicate_succ, dedup, ih]; simp

/-- A write within one line is one write of that line. -/
theorem homeWrite_line (s : State) (c : Option Nat) (mcomp : Bool) {pa : Nat} {bs : List Byte} (hne : bs ≠ [])
    (hline : (pa + bs.length - 1) / 64 = pa / 64) (hring : s.ringAt pa = none) : s.homeWrite c mcomp (cellsFrom pa bs) =
      if isDram pa then s.writeDramLine c mcomp (pa / 64) (cellsFrom pa bs) else s.writeWellLine c (cellsFrom pa bs) := by
  have hall : ∀ x ∈ cellsFrom pa bs, x.1 / 64 = pa / 64 := fun x hx => by
    have := mem_cellsFrom hx; omega
  obtain ⟨b, bs', rfl⟩ := List.exists_cons_of_ne_nil hne
  have hmap : (cellsFrom pa (b :: bs')).map (fun x => x.1 / 64) = List.replicate (bs'.length + 1) (pa / 64) :=
    List.eq_replicate_iff.mpr ⟨by rw [List.length_map, length_cellsFrom, List.length_cons], fun y hy => by
      obtain ⟨x, hx, rfl⟩ := List.mem_map.mp hy; exact hall x hx⟩
  have hpart : (cellsFrom pa (b :: bs')).filter (fun x => x.1 / 64 = pa / 64) = cellsFrom pa (b :: bs') :=
    List.filter_eq_self.mpr fun x hx => by simpa using hall x hx
  have hhead : ((cellsFrom pa (b :: bs')).headD (0, 0)).1 = pa := rfl
  unfold State.homeWrite
  rw [hmap, dedup_replicate, List.foldl_cons, List.foldl_nil]
  dsimp only
  rw [hpart, hhead, hring]
  dsimp only
  split <;> rw [Bool.true_and]

theorem all_cellsFrom (pa : Nat) (bs : List Byte) : ((cellsFrom pa bs).all fun x => x.2 = 0) = bs.all (· = 0) := by
  induction bs generalizing pa with
  | nil => rfl
  | cons b bs ih => rw [cellsFrom, List.all_cons, List.all_cons, ih]

/-! ### Errors logged -/

/-- A line logged makes its tile's TMEM.UE_LOG valid. -/
theorem valid_logUe (s : State) (scrub : Bool) (c pa : Nat) : (s.logUe scrub c pa).flag (.tmemUeLog (tileOfPa pa)) .VALID = true := by
  unfold State.logUe
  dsimp only
  split
  next hv => exact (flag_setFlag_ne s _ true rfl rfl (by decide)).trans hv
  next => exact flag_setFlds_bool s (.tmemUeLog (tileOfPa pa)) (b := true) rfl (by simp) (by simp) rfl

theorem tileOfPa_line {pa : Nat} (h : isDram pa = true) : tileOfPa (pa / 64 * 64) = tileOfPa pa := by
  have h' : isDram (pa / 64 * 64) = true := by
    simp only [isDram, decide_eq_true_eq] at h ⊢; omega
  rw [tileOfPa, tileOfPa, if_pos h, if_pos h']
  omega

theorem mem_of_events {s t : State} (e : Events s t) : t.mem = s.mem := (pending_mem_straps_of_events e).2.1

/-! ### The statement -/

theorem heldDirty_iff {s : State} {line : Nat} : heldDirty s line = true ↔ ∃ e ∈ s.dir, e.line = line ∧ e.dirty = true := by
  simp [heldDirty]

theorem homed_setPoison (s : State) (l : Nat) (b : Bool) : Homed s (s.setPoison l b) := rfl
theorem homed_setZeroMap (s : State) (l : Nat) (b : Bool) : Homed s (s.setZeroMap l b) := rfl
theorem poisoned_setZeroMap (s : State) (l : Nat) (b : Bool) (l' : Nat) : (s.setZeroMap l b).poisoned l' = s.poisoned l' := rfl
theorem poisoned_putCells (s : State) (cs : List Host.Cell) (l : Nat) : (s.putCells cs).poisoned l = s.poisoned l := rfl
theorem dir_putCells (s : State) (cs : List Host.Cell) : (s.putCells cs).dir = s.dir := rfl
theorem hartOf_putCells (s : State) (cs : List Host.Cell) (h : Nat) : (s.putCells cs).hartOf h = s.hartOf h := rfl

/-- What a write of bytes to a line that is ready leaves, whatever becomes of its poison and its zero map. -/
theorem lineStored_shows {s t : State} {pa : Nat} {bs : List Byte} (ht : Homed ((lineReady s (pa / 64)).putCells (cellsFrom pa bs)) t) :
    t.bytesAt pa bs.length = bs ∧ (∀ a, (a < pa ∨ pa + bs.length ≤ a) → t.byteAt a = s.byteAt a) ∧ (∀ e ∈ t.dir, e.line ≠ pa / 64) ∧
      ∀ h, (t.hartOf h).resv ≠ some (pa / 64) := by
  obtain ⟨hm, hd, hr, -⟩ := lineReady_shows s (pa / 64)
  obtain ⟨hmem, -, hdir, hhart, -⟩ := ht.same
  have hbyte : ∀ a, t.byteAt a = ((lineReady s (pa / 64)).putCells (cellsFrom pa bs)).byteAt a := fun a => congrArg (smGet _ · a) hmem
  refine ⟨(bytesAt_congr fun i _ => hbyte (pa + i)).trans (bytesAt_putCells_cellsFrom ..), fun a ha => ?_, ?_, fun h => ?_⟩
  · rw [hbyte, byteAt_putCells_outside _ _ _ ha]
    exact congrArg (smGet _ · a) hm
  · rw [hdir, dir_putCells]; exact hd
  · have hh : t.hartOf h = ((lineReady s (pa / 64)).putCells (cellsFrom pa bs)).hartOf h := congrArg (smGet _ · h) hhart
    rw [hh, hartOf_putCells]
    exact hr h

/-- Settles O37: a read line by line, a write of one line by whether it is whole, poisoned or held modified. -/
theorem homeAccesses : Obligations.HomeAccesses := by
  unfold Obligations.HomeAccesses
  refine ⟨fun s c pa n => ⟨fun hl hw => ?_, fun l h1 hn h2 hd hb => ?_⟩, ?_⟩
  · obtain ⟨hok, hmem, hnib⟩ := readLines_ok (c := c) (linesOf pa n) (nodup_linesOf pa n) s hl hw
    exact ⟨_, by rw [homeRead_eq]; dsimp only; rw [hok, if_pos rfl], hmem, hnib⟩
  · refine ⟨s.logUe false (c.getD 0) (l * 64), ?_, mem_of_events (events_logUe ..)⟩
    rw [homeRead_eq, linesOf_one h1 hn h2, readLines, List.foldl_cons, List.foldl_nil, readLine_bad hd hb]
    rfl
  · intro s c mcomp pa bs hne hd hline hring line held
    have hwrite := homeWrite_line s c mcomp hne hline hring
    rw [if_pos hd] at hwrite
    have hpoison := poisoned_dropLine s line
    refine ⟨fun hok => ?_, fun h64 hp hheld => ?_⟩
    · by_cases h64 : bs.length = 64
      · obtain ⟨h1, h2, h3, h4⟩ := lineStored_shows (s := s) (bs := bs) (pa := pa)
          ((homed_setPoison _ line false).trans (homed_setZeroMap _ line (mcomp && (cellsFrom pa bs).all fun x => x.2 = 0)))
        refine ⟨_, hwrite.trans (writeDramLine_whole s c mcomp line ((length_cellsFrom pa bs).trans h64)), h1, h2, h3, ?_, fun _ => h4, ?_⟩
        · rw [poisoned_setZeroMap, poisoned_setPoison_same]
        · rw [zeroMapped_setZeroMap_same, all_cellsFrom, decide_eq_true h64, Bool.true_and]
      · have hclean : (s.dropLine line).poisoned line = false := by
          rw [hpoison]
          obtain h | h | h := hok
          · exact absurd h h64
          · rw [h, Bool.false_and]
          · rw [heldDirty_iff.mpr h, Bool.not_true, Bool.and_false]
        obtain ⟨h1, h2, h3, h4⟩ := lineStored_shows (s := s) (bs := bs) (pa := pa) (homed_setZeroMap _ line false)
        refine ⟨_, hwrite.trans (writeDramLine_part s c mcomp line (by rwa [length_cellsFrom]) hclean), h1, h2, h3, ?_, fun _ => h4, ?_⟩
        · rw [poisoned_setZeroMap, poisoned_putCells]
          obtain ⟨-, -, -, hready⟩ := lineReady_shows s line
          exact hready.trans (hpoison.symm.trans hclean)
        · rw [zeroMapped_setZeroMap_same, decide_eq_false h64, Bool.false_and, Bool.false_and]
    · have hbad : (s.dropLine line).poisoned line = true := by
        rw [hpoison, hp, Bool.true_and, Bool.not_eq_true']
        exact Bool.eq_false_iff.mpr fun h => hheld (heldDirty_iff.mp h)
      refine ⟨_, hwrite.trans (writeDramLine_poisoned s c mcomp line (by rwa [length_cellsFrom]) hbad), ?_, ?_⟩
      · exact (mem_of_events (events_logUe ..)).trans (dropLine_same s line).1
      · rw [← tileOfPa_line hd]; exact valid_logUe ..

end Sys2Proof.Proofs
end

section
/-!
What a fault, a write at the home and the drain of a store buffer only add to, and what they never add to: the outbox and the defect list
grow, and no store comes back into the buffer of a core that the table lists once (R99, R110, R443, R470).
-/
namespace Sys2Proof.Proofs
open Sys2Proof.Machine Sys2Proof.Laws

/-! ### Tables that list a key once -/

section Table
variable {α : Type} [DecidableEq α] {d : Nat → α}

/-- Does every entry of key n hold what the key reads as? -/
def Sole (d : Nat → α) (m : SMap α) (n : Nat) : Prop := ∀ e ∈ m, e.1 = n → e.2 = smGet d m n

theorem smSet_mem {m : SMap α} {k : Nat} {v : α} {e : Nat × α} (h : e ∈ smSet d m k v) : e = (k, v) ∨ (e ∈ m ∧ e.1 ≠ k) := by
  unfold smSet at h
  split at h
  · exact .inr (smErase_mem h)
  · exact (smInsert_mem h).imp_right smErase_mem

theorem sole_smSet_same (m : SMap α) (n : Nat) (v : α) : Sole d (smSet d m n v) n := fun e he hn => by
  rw [smGet_smSet_same]
  obtain rfl | ⟨-, hne⟩ := smSet_mem he
  · rfl
  · exact absurd hn hne

theorem Sole.smSet {m : SMap α} {n : Nat} (h : Sole d m n) (k : Nat) (v : α) : Sole d (smSet d m k v) n := by
  by_cases hk : n = k
  · subst hk; exact sole_smSet_same m n v
  · intro e he hn
    rw [smGet_smSet_other _ _ _ hk]
    obtain rfl | ⟨hm, -⟩ := smSet_mem he
    · exact absurd hn.symm hk
    · exact h e hm hn

/-- Mapping keeps a key listed once, and its value is mapped at most once. -/
theorem sole_smMap {m : SMap α} {n : Nat} (f : Nat → α → α) (h : Sole d m n) :
    Sole d (smMap d f m) n ∧ (smGet d (smMap d f m) n = smGet d m n ∨ smGet d (smMap d f m) n = f n (smGet d m n)) := by
  have hfold : ∀ l acc : SMap α, (∀ e ∈ l, e.1 = n → e.2 = smGet d m n) → Sole d acc n →
      (smGet d acc n = smGet d m n ∨ smGet d acc n = f n (smGet d m n)) →
      Sole d (l.foldl (fun acc e => smSet d acc e.1 (f e.1 e.2)) acc) n ∧
        (smGet d (l.foldl (fun acc e => smSet d acc e.1 (f e.1 e.2)) acc) n = smGet d m n ∨
          smGet d (l.foldl (fun acc e => smSet d acc e.1 (f e.1 e.2)) acc) n = f n (smGet d m n)) := by
    intro l
    induction l with
    | nil => exact fun acc _ hs hv => ⟨hs, hv⟩
    | cons e l ih =>
      intro acc hl hs hv
      refine ih _ (fun x hx => hl x (List.mem_cons_of_mem _ hx)) (hs.smSet _ _) ?_
      by_cases he : n = e.1
      · subst he
        rw [smGet_smSet_same, hl e List.mem_cons_self rfl]
        exact .inr rfl
      · rw [smGet_smSet_other _ _ _ he]; exact hv
  exact hfold m m h h (.inl rfl)

end Table

/-! ### The relation -/

/-- t has sent and listed what s had, and more; and a core that s lists once is listed once, with no more stores than it had. -/
structure Onward (s t : State) : Prop where
  sent : s.outbox <+: t.outbox
  listed : s.perm.defects <+: t.perm.defects
  stores : ∀ n, Sole (fun _ => NibCore.off) s.nib n → Sole (fun _ => NibCore.off) t.nib n ∧ (t.core n).stores.length ≤ (s.core n).stores.length

theorem Onward.refl (s : State) : Onward s s := ⟨List.prefix_rfl, List.prefix_rfl, fun _ h => ⟨h, Nat.le_refl _⟩⟩

theorem Onward.trans {s t u : State} (h : Onward s t) (g : Onward t u) : Onward s u :=
  ⟨h.sent.trans g.sent, h.listed.trans g.listed, fun n hs => by
    obtain ⟨h1, h2⟩ := h.stores n hs
    obtain ⟨g1, g2⟩ := g.stores n h1
    exact ⟨g1, g2.trans h2⟩⟩

/-- A change of none of the three. -/
theorem onward_of_eq {s t : State} (ho : t.outbox = s.outbox) (hp : t.perm = s.perm) (hn : t.nib = s.nib) : Onward s t := by
  refine ⟨by rw [ho], by rw [hp], fun n hs => ?_⟩
  have hc : t.core n = s.core n := congrArg (smGet _ · n) hn
  rw [hn, hc]
  exact ⟨hs, Nat.le_refl _⟩

theorem onward_of_nib {s t : State} (ho : s.outbox <+: t.outbox) (hp : s.perm.defects <+: t.perm.defects) (hn : t.nib = s.nib) : Onward s t := by
  refine ⟨ho, hp, fun n hs => ?_⟩
  have hc : t.core n = s.core n := congrArg (smGet _ · n) hn
  rw [hn, hc]
  exact ⟨hs, Nat.le_refl _⟩

theorem onward_foldl {β : Type} {f : State → β → State} (h : ∀ s b, Onward s (f s b)) (l : List β) (s : State) : Onward s (l.foldl f s) := by
  induction l generalizing s with
  | nil => exact .refl s
  | cons b l ih => exact (h s b).trans (ih _)

/-- A fold over a pair goes onward when each step does on its state. -/
theorem onward_foldl_pair {β γ : Type} {f : State × γ → β → State × γ} (h : ∀ x b, Onward x.1 (f x b).1) (l : List β) (x : State × γ) :
    Onward x.1 (l.foldl f x).1 := by
  induction l generalizing x with
  | nil => exact .refl x.1
  | cons b l ih => exact (h x b).trans (ih (f x b))

theorem onward_ite {s t u : State} {p : Prop} [Decidable p] (h : Onward s t) (g : Onward s u) : Onward s (if p then t else u) := by
  split
  · exact h
  · exact g

theorem nib_of_events {s t : State} (e : Events s t) : t.nib = s.nib := by rw [Events] at e; rw [e]

theorem onward_of_events {s t : State} (e : Events s t) (ho : s.outbox <+: t.outbox) : Onward s t :=
  onward_of_nib ho (by rw [perm_of_events e]) (nib_of_events e)

section Steps
variable (s : State)

theorem onward_send (o : Output) : Onward s (s.send o) := onward_of_nib (List.prefix_append ..) List.prefix_rfl rfl
theorem onward_setReg (r : Reg) (w : W64) : Onward s (s.setReg r w) := onward_of_eq rfl rfl rfl
theorem onward_setFld (r : Reg) (f : FName) (v : Nat) : Onward s (s.setFld r f v) := onward_setReg ..
theorem onward_setFlag (r : Reg) (f : FName) (b : Bool) : Onward s (s.setFlag r f b) := onward_setReg ..
theorem onward_setFlds (r : Reg) (l : List (FName × Nat)) : Onward s (s.setFlds r l) :=
  onward_of_events (events_setFlds ..) (by rw [outbox_setFlds])
theorem onward_vfEvent (c v : Nat) : Onward s (s.vfEvent c v) := onward_of_events (events_vfEvent ..) (outbox_vectorEvent_prefix ..)
theorem onward_pfEvent (v : Nat) : Onward s (s.pfEvent v) := onward_of_events (events_pfEvent ..) (outbox_vectorEvent_prefix ..)

theorem onward_list (kind origin : Nat) (z : Bool) (tile loc : Nat) : Onward s (s.list kind origin z tile loc) := by
  unfold State.list
  dsimp only
  split
  · exact .refl s
  · exact onward_of_nib List.prefix_rfl (List.prefix_append ..) rfl

theorem onward_setContext (c : Nat) (k : CtxState) : Onward s (s.setContext c k) := onward_of_eq rfl rfl rfl
theorem onward_setImage (c : Nat) (i : Image) : Onward s (s.setImage c i) := onward_of_eq rfl rfl rfl
theorem onward_setEpoch (c : Nat) (e : Epoch) : Onward s (s.setEpoch c e) := onward_of_eq rfl rfl rfl
theorem onward_setFeedCh (i : Nat) (k : FeedCh) : Onward s (s.setFeedCh i k) := onward_of_eq rfl rfl rfl
theorem onward_setBadWord (w : Nat) (b : Bool) : Onward s (s.setBadWord w b) := onward_of_eq rfl rfl rfl
theorem onward_putCells (cs : List Host.Cell) : Onward s (s.putCells cs) := onward_of_eq rfl rfl rfl
theorem onward_loseResv (line : Nat) : Onward s (s.loseResv line) := onward_of_eq rfl rfl rfl
theorem onward_touchTamb (cs : List Host.Cell) : Onward s (s.touchTamb cs) := onward_of_eq rfl rfl rfl
theorem onward_freeSlot (c pa : Nat) : Onward s (s.freeSlot c pa) := onward_of_eq rfl rfl rfl
theorem onward_requestsKept (l : List PoolReq) : Onward s { s with poolQ := l } := onward_of_eq rfl rfl rfl

theorem onward_homed {s t : State} (h : Homed s t) : Onward s t := by
  obtain ⟨-, hnib, -, -, -, -, hout, -, hperm⟩ := h.same
  exact onward_of_eq hout hperm hnib

/-! ### A context fault -/

/-- Cores halted have no stores. -/
theorem onward_haltCores (c : Nat) : Onward s (s.haltCores c) := by
  refine ⟨List.prefix_rfl, List.prefix_rfl, fun n hs => ?_⟩
  obtain ⟨hsole, hv⟩ := sole_smMap (fun n k =>
      if s.coreCtx n = some c && k.st ≠ .failed && k.st ≠ .disabled then k.halt .faulted else k) hs
  refine ⟨hsole, ?_⟩
  obtain h | h := hv
  · exact Nat.le_of_eq (congrArg (fun k : NibCore => k.stores.length) h)
  · refine Nat.le_trans (Nat.le_of_eq (congrArg (fun k : NibCore => k.stores.length) h)) ?_
    split
    · exact Nat.zero_le _
    · exact Nat.le_refl _

theorem onward_dropImage (c : Nat) : Onward s (s.dropImage c) := by
  unfold State.dropImage
  dsimp only
  refine onward_ite (.refl s) (onward_ite ((onward_setImage ..).trans (onward_setFld ..)) (onward_ite (onward_setImage ..) (onward_setImage ..)))

theorem onward_cutImage (c : Nat) : Onward s (s.cutImage c) := by
  unfold State.cutImage
  exact onward_ite (onward_setImage ..) (.refl s)

theorem onward_beginReset (c : Nat) : Onward s (s.beginReset c) := by
  unfold State.beginReset
  extract_lets t k u v w
  have hu : Onward s u := ((onward_setFld s ..).trans (onward_setFld ..)).trans (onward_setContext t c _)
  have hv : Onward u v := onward_requestsKept u _
  have hw : Onward v w := (onward_dropImage v c).trans (onward_setFlag ..)
  exact ((hu.trans hv).trans hw).trans ((onward_cutImage ..).trans (onward_haltCores ..))

theorem onward_recordFault (c cause engine tile unit arg : Nat) : Onward s (s.recordFault c cause engine tile unit arg) := by
  unfold State.recordFault
  exact (onward_setFld ..).trans (onward_setFlds ..)

theorem onward_faultRecorded (c cause engine tile unit arg : Nat) : Onward s (faultRecorded s c cause engine tile unit arg) := by
  unfold faultRecorded
  refine onward_ite ?_ ?_
  · unfold State.mergeFault State.satFld
    exact (onward_ite (onward_recordFault ..) (.refl s)).trans (onward_setFld ..)
  · rw [firstFault_eq]
    exact ((onward_setFlds ..).trans (onward_recordFault ..)).trans (onward_setContext ..)

theorem onward_contextFault (c cause engine tile unit arg : Nat) : Onward s (s.contextFault c cause engine tile unit arg) := by
  rw [contextFault_eq]
  extract_lets t
  exact (onward_faultRecorded ..).trans (onward_ite ((onward_beginReset ..).trans ((onward_vfEvent ..).trans (onward_pfEvent ..))) (.refl t))

theorem onward_faultNoUnit (c cause arg : Nat) : Onward s (s.faultNoUnit c cause arg) := onward_contextFault ..

theorem onward_faultEach (cs : List Nat) (cause engine tile unit arg : Nat) : Onward s (s.faultEach cs cause engine tile unit arg) :=
  onward_foldl (fun t c => onward_contextFault t c cause engine tile unit arg) cs s

/-! ### Writes at the home -/

theorem onward_logUe (scrub : Bool) (c pa : Nat) : Onward s (s.logUe scrub c pa) := by
  unfold State.logUe
  exact onward_ite (onward_setFlag ..) (onward_setFlds ..)

theorem onward_wellUe (c : Option Nat) (pa : Nat) : Onward s (s.wellUe c pa) := by
  unfold State.wellUe
  extract_lets users t u
  have ht : Onward s t := (onward_logUe ..).trans (onward_list ..)
  have hu : Onward t u := onward_foldl (fun v x => onward_setContext v x _) users t
  exact ht.trans (hu.trans ((onward_faultEach ..).trans (onward_pfEvent ..)))

theorem onward_ringWrite (c o pa : Nat) (bs : List Byte) : Onward s (s.ringWrite c o pa bs) := by
  unfold State.ringWrite
  refine onward_ite ?_ ((onward_setFlag ..).trans (onward_vfEvent ..))
  split
  · exact (onward_wellUe ..).trans (onward_faultNoUnit ..)
  · exact onward_freeSlot ..
  · exact .refl s

theorem onward_guardRegions (line : Nat) : Onward s (s.guardRegions line) :=
  onward_foldl (fun t c => onward_ite ((((onward_setEpoch t c _).trans (onward_setFld ..)).trans (onward_setFeedCh ..)).trans (onward_vfEvent ..))
    (.refl t)) _ s

theorem onward_dropLine (line : Nat) : Onward s (s.dropLine line) := by
  obtain ⟨-, hnib, -, -, hperm, hout, -⟩ := dropLine_same s line
  exact onward_of_eq hout hperm hnib

theorem onward_writeDramLine (c : Option Nat) (mcomp : Bool) (line : Nat) (cs : List Host.Cell) : Onward s (s.writeDramLine c mcomp line cs).1 := by
  unfold State.writeDramLine
  extract_lets t u
  have hu : Onward t u := (onward_loseResv ..).trans (onward_guardRegions ..)
  refine (onward_dropLine s line).trans ?_
  split
  · exact hu.trans ((onward_putCells ..).trans (onward_homed ((homed_setPoison ..).trans (homed_setZeroMap ..))))
  · split
    · exact onward_logUe ..
    · exact hu.trans ((onward_putCells ..).trans (onward_homed (homed_setZeroMap ..)))

theorem onward_writeWellLine (c : Option Nat) (cs : List Host.Cell) : Onward s (s.writeWellLine c cs).1 := by
  unfold State.writeWellLine
  extract_lets ws whole
  split
  · exact onward_wellUe ..
  · exact (onward_foldl (fun t w => onward_setBadWord t w false) ws s).trans
      ((onward_putCells ..).trans ((onward_loseResv ..).trans (onward_touchTamb ..)))

theorem onward_homeWrite (c : Option Nat) (mcomp : Bool) (cs : List Host.Cell) : Onward s (s.homeWrite c mcomp cs).1 := by
  refine onward_foldl_pair (fun x line => ?_) _ (s, true)
  dsimp only
  split
  · exact onward_ringWrite ..
  · split
    · exact onward_writeDramLine ..
    · exact onward_writeWellLine ..

/-! ### The store buffer -/

theorem onward_drainSeg (c : Nat) (g : WSeg) : Onward s (s.drainSeg c g).1 := by
  unfold State.drainSeg
  split
  · split
    · exact onward_foldl (fun t r => onward_send t _) _ s
    · exact .refl s
  · exact onward_homeWrite ..

theorem onward_performStore (c : Nat) (e : StoreEntry) : Onward s (s.performStore c e).1 := by
  refine onward_foldl_pair (fun x g => ?_) e (s, [])
  exact onward_drainSeg x.1 c g

theorem onward_storeFaults (n : Nat) (args : List Nat) : Onward s (s.storeFaults n args) :=
  onward_foldl (fun t a => onward_contextFault t (t.ctxOf n) 0x03 0 (coreTile n) (n % 8) a) args s

/-- A core set with no more stores than it had. -/
theorem onward_setCore (n : Nat) {k : NibCore} (h : k.stores.length ≤ (s.core n).stores.length) : Onward s (s.setCore n k) := by
  refine ⟨List.prefix_rfl, List.prefix_rfl, fun m hs => ⟨hs.smSet n k, ?_⟩⟩
  by_cases hm : m = n
  · subst hm; rw [core_setCore_same]; exact h
  · rw [core_setCore_other _ _ _ _ hm]

theorem sole_setCore (n : Nat) (k : NibCore) : Sole (fun _ => NibCore.off) (s.setCore n k).nib n := sole_smSet_same _ n k

theorem takeStore_cons {n : Nat} {e : StoreEntry} {es : List StoreEntry} (h : (s.core n).stores = e :: es) :
    s.takeStore n = (s.setCore n { s.core n with stores := es }).performStore (s.ctxOf n) e := by
  unfold State.takeStore
  rw [h]

theorem takeStore_nil {n : Nat} (h : (s.core n).stores = []) : s.takeStore n = (s, []) := by
  unfold State.takeStore
  rw [h]

/-- A store taken leaves one store fewer, and the core listed once. -/
theorem takeStore_shortens {n : Nat} {e : StoreEntry} {es : List StoreEntry} (h : (s.core n).stores = e :: es) :
    Sole (fun _ => NibCore.off) (s.takeStore n).1.nib n ∧ ((s.takeStore n).1.core n).stores.length ≤ es.length := by
  rw [takeStore_cons s h]
  obtain ⟨h1, h2⟩ := (onward_performStore (s.setCore n { s.core n with stores := es }) (s.ctxOf n) e).stores n (sole_setCore _ n _)
  exact ⟨h1, h2.trans (by rw [core_setCore_same])⟩

theorem onward_takeStore (n : Nat) : Onward s (s.takeStore n).1 := by
  cases h : (s.core n).stores with
  | nil => rw [takeStore_nil s h]; exact .refl s
  | cons e es =>
    rw [takeStore_cons s h]
    exact (onward_setCore s n (by rw [h]; exact Nat.le_succ _)).trans (onward_performStore ..)

/-- Every store of a core taken, with the failures so far. -/
def takeStores (n : Nat) (x : State × List Nat) (steps : List Nat) : State × List Nat :=
  steps.foldl (fun acc _ => let x := acc.1.takeStore n; (x.1, acc.2 ++ x.2)) x

theorem onward_takeStores (n : Nat) (x : State × List Nat) (steps : List Nat) : Onward x.1 (takeStores n x steps).1 := by
  refine onward_foldl_pair (fun x i => ?_) steps x
  exact onward_takeStore x.1 n

/-- As many steps as the core has stores, or more, empty its buffer. -/
theorem takeStores_empties {n : Nat} (steps : List Nat) (x : State × List Nat) (hs : Sole (fun _ => NibCore.off) x.1.nib n)
    (hl : (x.1.core n).stores.length ≤ steps.length) : ((takeStores n x steps).1.core n).stores.length = 0 := by
  induction steps generalizing x with
  | nil => exact Nat.le_zero.mp hl
  | cons i steps ih =>
    refine ih (_, _) ((onward_takeStore x.1 n).stores n hs).1 ?_
    cases h : (x.1.core n).stores with
    | nil => exact Nat.le_trans ((onward_takeStore x.1 n).stores n hs).2 (by rw [h]; exact Nat.zero_le _)
    | cons e es =>
      rw [h, List.length_cons, List.length_cons] at hl
      exact (takeStore_shortens x.1 h).2.trans (Nat.le_of_succ_le_succ hl)

theorem drainOne_eq (n : Nat) : s.drainOne n =
    (let r := s.takeStore n
     if r.2.contains 0 then
      let q := takeStores n r (List.range (r.1.core n).stores.length)
      q.1.storeFaults n q.2
     else r.1.storeFaults n r.2) := rfl

theorem onward_drainOne (n : Nat) : Onward s (s.drainOne n) := by
  rw [drainOne_eq]
  extract_lets r q
  have hr : Onward s r.1 := onward_takeStore s n
  have hq : Onward r.1 q.1 := onward_takeStores n r _
  exact onward_ite (hr.trans (hq.trans (onward_storeFaults ..))) (hr.trans (onward_storeFaults ..))

theorem onward_drainAll (n : Nat) : Onward s (s.drainAll n) := onward_foldl (fun t _ => onward_drainOne t n) _ s

/-- A core without stores has none to drain. -/
theorem drainAll_nil {n : Nat} (h : (s.core n).stores = []) : s.drainAll n = s := by
  unfold State.drainAll
  rw [h]; rfl

/-! ### An exception -/

theorem onward_nibStop (n cause : Nat) (pc : BitVec 48) (b : Bool) : Onward s (s.nibStop n cause pc b) := by
  unfold State.nibStop
  extract_lets c r t
  have ht : Onward s t := onward_ite (.refl s) (onward_setFlds ..)
  exact ht.trans ((onward_setCore t n (k := { t.core n with st := .faulted }) (Nat.le_refl _)).trans (onward_contextFault ..))

theorem onward_nibException (n cause eaddr : Nat) : Onward s (s.nibException n cause eaddr) := by
  unfold State.nibException
  extract_lets k0 t k
  have ht : Onward s t := onward_drainAll s n
  exact ht.trans (onward_ite (onward_setCore t n (Nat.le_refl _)) (onward_nibStop ..))

end Steps

end Sys2Proof.Proofs
end

section
/-!
A Nib core bound and unbound, its oldest store drained, and its failure (R99, R110, R112, R133).
-/
namespace Sys2Proof.Proofs
open Sys2Proof.Machine Sys2Proof.Laws Sys2Proof.Claims

/-! ### NIB_BIND -/

section Bind
variable {s : State} {n : Nat} {bound : Bool} {ctx : Nat}

/-- Would a write of NIB.CORE change BOUND or CTX? -/
def BindChanges (s : State) (n : Nat) (bound : Bool) (ctx : Nat) : Prop := s.flag (coreReg n) .BOUND ≠ bound ∨ s.fld (coreReg n) .CTX ≠ ctx

/-- May it change them (R112)? -/
def MayBind (s : State) (n : Nat) (bound : Bool) (ctx : Nat) : Prop :=
  ((s.core n).st = .off ∨ (s.core n).st = .idle) ∧ (s.core n).wait = .none ∧ (s.core n).imageQ = [] ∧ (s.core n).postQ = [] ∧
    (bound = true → s.flag (.ctxwCmpl ctx) .LOCK = true)

theorem nibBind_same (h : ¬ BindChanges s n bound ctx) : s.nibBind n bound ctx = s := by
  obtain ⟨hb, hc⟩ := not_or.mp h
  exact if_pos (by simp [not_not.mp hb, not_not.mp hc])

theorem not_same_of_changes (h : BindChanges s n bound ctx) :
    ¬ (decide (s.flag (coreReg n) .BOUND = bound) && decide (s.fld (coreReg n) .CTX = ctx)) = true := by
  rw [Bool.and_eq_true, decide_eq_true_eq, decide_eq_true_eq, not_and_or]
  exact h

theorem nibBind_bound (h : BindChanges s n bound ctx) (hm : MayBind s n bound ctx) : s.nibBind n bound ctx =
    ((s.setFlag (coreReg n) .BOUND bound).setFld (coreReg n) .CTX ctx).setCore n { s.core n with st := if bound then .idle else .off } := by
  obtain ⟨hst, hw, hi, hp, hl⟩ := hm
  refine (if_neg (not_same_of_changes h)).trans (if_pos ?_)
  cases bound
  · simp [hst, hw, hi, hp]
  · simp [hst, hw, hi, hp, hl rfl]

theorem nibBind_refused (h : BindChanges s n bound ctx) (hm : ¬ MayBind s n bound ctx) :
    s.nibBind n bound ctx = s.setFlag (.nibStatus (n / 8)) .BIND_REFUSED true := by
  refine (if_neg (not_same_of_changes h)).trans (if_neg fun hmay => hm ?_)
  simp only [Bool.and_eq_true, Bool.or_eq_true, decide_eq_true_eq, Bool.not_eq_true'] at hmay
  obtain ⟨⟨⟨⟨hst, hw⟩, hi⟩, hp⟩, hl⟩ := hmay
  exact ⟨hst, hw, hi, hp, fun hb => hl.resolve_left (by simp [hb])⟩

end Bind

theorem reg_setCore (s : State) (n : Nat) (k : NibCore) (q : Reg) : (s.setCore n k).reg q = s.reg q := rfl

theorem addr_coreReg (n : Nat) : (coreReg n).addr = 0x1000000 + n / 8 * 0x100000 + 0x4000 + 16 * (n % 8) := rfl
theorem addr_nibStatus (t : Nat) : (Reg.nibStatus t).addr = 0x1000000 + t * 0x100000 + 0x4100 := rfl
theorem addr_nibFailLog (t : Nat) : (Reg.nibFailLog t).addr = 0x1000000 + t * 0x100000 + 0x4108 := rfl

/-! ### STORE_DRAIN -/

section Drain
variable {s t : State} {n : Nat} {g : WSeg} {es : List StoreEntry} {ok : Bool}

/-- An entry of one segment in tile memory taken: its write, with ARG 0 where it fails. -/
theorem takeStore_tile (hs : (s.core n).stores = [g] :: es) (hg : g.host = false)
    (hw : (s.setCore n { s.core n with stores := es }).homeWrite (some (s.ctxOf n)) g.mcomp g.cells = (t, ok)) :
    s.takeStore n = (t, if ok then [] else [0]) := by
  have hseg : (s.setCore n { s.core n with stores := es }).drainSeg (s.ctxOf n) g = (t, if ok then none else some 0) := by
    unfold State.drainSeg
    rw [hg, hw]
    rfl
  rw [takeStore_cons s hs]
  unfold State.performStore
  rw [List.foldl_cons, List.foldl_nil]
  dsimp only
  rw [hseg]
  cases ok <;> rfl

theorem drainOne_ok (h : s.takeStore n = (t, [])) : s.drainOne n = t := by
  rw [drainOne_eq, h]; rfl

theorem drainOne_last (h : s.takeStore n = (t, [0])) (he : (t.core n).stores = []) :
    s.drainOne n = t.contextFault (t.ctxOf n) 0x03 0 (n / 8) (n % 8) 0 := by
  rw [drainOne_eq, h]
  dsimp only
  rw [he]
  rfl

/-- The oldest store and then every other taken. -/
def allTaken (s : State) (n : Nat) : State × List Nat := takeStores n (s.takeStore n) (List.range ((s.takeStore n).1.core n).stores.length)

theorem drainOne_fails (h : s.takeStore n = (t, [0])) : s.drainOne n = (allTaken s n).1.storeFaults n (allTaken s n).2 := by
  rw [drainOne_eq]
  exact if_pos (by rw [h]; rfl)

theorem allTaken_empties {e : StoreEntry} (hs : (s.core n).stores = e :: es) :
    Sole (fun _ => NibCore.off) (allTaken s n).1.nib n ∧ ((allTaken s n).1.core n).stores.length = 0 := by
  obtain ⟨hsole, -⟩ := takeStore_shortens s hs
  exact ⟨((onward_takeStores n (s.takeStore n) _).stores n hsole).1, takeStores_empties _ (s.takeStore n) hsole (by rw [List.length_range])⟩

/-- A store that fails at its home leaves no other in the buffer. -/
theorem drainOne_failed {e : StoreEntry} (hs : (s.core n).stores = e :: es) (h : s.takeStore n = (t, [0])) : ((s.drainOne n).core n).stores = [] := by
  obtain ⟨hsole, hempty⟩ := allTaken_empties hs
  obtain ⟨-, hfaults⟩ := (onward_storeFaults (allTaken s n).1 n (allTaken s n).2).stores n hsole
  rw [drainOne_fails h]
  exact List.eq_nil_of_length_eq_zero (Nat.le_zero.mp (hfaults.trans (Nat.le_of_eq hempty)))

end Drain

/-! ### The failure of a core -/

theorem defects_list (s : State) (kind origin : Nat) (z : Bool) (tile loc : Nat) : (s.list kind origin z tile loc).perm.defects =
    (let entry := defectEntry kind origin z s.perm.boots.toNat tile loc
     if 4096 ≤ s.perm.defects.length ∨ ∃ d ∈ s.perm.defects, defectKey d = defectKey entry then s.perm.defects else s.perm.defects ++ [entry]) := by
  dsimp only
  by_cases h : 4096 ≤ s.perm.defects.length ∨ ∃ d ∈ s.perm.defects, defectKey d = defectKey (defectEntry kind origin z s.perm.boots.toNat tile loc)
  · rw [if_pos h, list_of_listed h]
  · rw [if_neg h]
    obtain ⟨hl, hd⟩ := not_or.mp h
    rw [list_of_new (by omega) (by simpa using hd)]

section Log
variable (s : State) (t phys check : Nat) (c : Option Nat)

theorem events_logNibFailure : Events s (s.logNibFailure t phys check c) := by
  unfold State.logNibFailure
  dsimp only
  split
  · exact events_setReg ..
  · exact Events.trans (events_setReg s _ _) (events_setFlds ..)

theorem reg_logNibFailure {q : Reg} (h1 : q.addr ≠ (Reg.nibStatus t).addr) (h2 : q.addr ≠ (Reg.nibFailLog t).addr) :
    (s.logNibFailure t phys check c).reg q = s.reg q := by
  unfold State.logNibFailure
  dsimp only
  split
  · rw [reg_setFlag_other _ _ _ h2, reg_setFlag_other _ _ _ h1]
  · rw [reg_setFlds_other _ _ h2, reg_setFlag_other _ _ _ h1]

theorem failed_logNibFailure : (s.logNibFailure t phys check c).flag (.nibStatus t) .FAILED = true := by
  have hne : (Reg.nibStatus t).addr ≠ (Reg.nibFailLog t).addr := by rw [addr_nibStatus, addr_nibFailLog]; omega
  unfold State.logNibFailure
  dsimp only
  split
  · exact (flag_congr (reg_setFlag_other _ _ _ hne) _).trans (flag_setFlag s _ _ true rfl)
  · exact (flag_congr (reg_setFlds_other _ _ hne) _).trans (flag_setFlag s _ _ true rfl)

/-- The first failure of a tile is logged. -/
theorem logged_logNibFailure (hv : s.flag (.nibFailLog t) .VALID = false) (hp : phys < 16) (hc : check < 16) :
    (s.logNibFailure t phys check c).flag (.nibFailLog t) .VALID = true ∧ (s.logNibFailure t phys check c).fld (.nibFailLog t) .PHYS = phys ∧
      (s.logNibFailure t phys check c).fld (.nibFailLog t) .CHECK = check := by
  have hne : (Reg.nibFailLog t).addr ≠ (Reg.nibStatus t).addr := by rw [addr_nibStatus, addr_nibFailLog]; omega
  have hv' : (s.setFlag (.nibStatus t) .FAILED true).flag (.nibFailLog t) .VALID = false := (flag_congr (reg_setFlag_other _ _ _ hne) _).trans hv
  unfold State.logNibFailure
  dsimp only
  rw [if_neg (by simp [hv'])]
  refine ⟨?_, ?_, ?_⟩
  · exact flag_setFlds_bool _ (.nibFailLog t) (b := true) rfl (by simp) (by simp) rfl
  · exact fld_setFlds_fits _ (.nibFailLog t) rfl (by simp) (by simp) hp
  · exact fld_setFlds_fits _ (.nibFailLog t) rfl (by simp) (by simp) hc

end Log

/-- What a core that failed is. -/
def deadCore (k : NibCore) : NibCore := { k.halt .failed with imageQ := [], postQ := [], run := none }

theorem nib_waits (s : State) (l : List Agent) (r : List HostRead) : ({ s with waiting := l, hostReads := r } : State).nib = s.nib := rfl
theorem reg_waits (s : State) (l : List Agent) (r : List HostRead) (q : Reg) : ({ s with waiting := l, hostReads := r } : State).reg q = s.reg q := rfl
theorem nib_setFlag (s : State) (r : Reg) (f : FName) (b : Bool) : (s.setFlag r f b).nib = s.nib := rfl

theorem nib_failCore (s : State) (n : Nat) : (s.failCore n).nib = (s.setCore n (deadCore (s.core n))).nib := by
  unfold State.failCore
  rw [nib_waits, nib_setFlag]
  rfl

theorem core_failCore (s : State) (n : Nat) : (s.failCore n).core n = deadCore (s.core n) :=
  (congrArg (smGet _ · n) (nib_failCore s n)).trans (core_setCore_same ..)

theorem sole_failCore (s : State) (n : Nat) : Sole (fun _ => NibCore.off) (s.failCore n).nib n := by
  rw [nib_failCore]; exact sole_setCore s n _

theorem reg_failCore (s : State) (n : Nat) (q : Reg) : (s.failCore n).reg q = (s.setFlag (coreReg n) .BOUND false).reg q := by
  unfold State.failCore
  rw [reg_waits]
  rfl

theorem perm_failCore (s : State) (n : Nat) : (s.failCore n).perm = s.perm := by unfold State.failCore; rfl

/-- A core that failed and is listed once stays as it is in a fault. -/
def StaysFailed (n : Nat) (s t : State) : Prop :=
  Sole (fun _ => NibCore.off) s.nib n → (s.core n).st = .failed → Sole (fun _ => NibCore.off) t.nib n ∧ t.core n = s.core n

theorem StaysFailed.trans {n : Nat} {s t u : State} (h : StaysFailed n s t) (g : StaysFailed n t u) : StaysFailed n s u := fun hs hf => by
  obtain ⟨h1, h2⟩ := h hs hf
  obtain ⟨g1, g2⟩ := g h1 (by rw [h2, hf])
  exact ⟨g1, g2.trans h2⟩

theorem staysFailed_of_nib {n : Nat} {s t : State} (h : t.nib = s.nib) : StaysFailed n s t := fun hs _ =>
  ⟨by rw [h]; exact hs, congrArg (smGet _ · n) h⟩

theorem staysFailed_haltCores (n : Nat) (s : State) (c : Nat) : StaysFailed n s (s.haltCores c) := fun hs hf => by
  obtain ⟨hsole, hv⟩ := sole_smMap (fun n k =>
      if s.coreCtx n = some c && k.st ≠ .failed && k.st ≠ .disabled then k.halt .faulted else k) hs
  refine ⟨hsole, hv.elim id fun h => h.trans (if_neg ?_)⟩
  have hf' : (smGet (fun _ => NibCore.off) s.nib n).st = .failed := hf
  simp [hf']

theorem nib_dropImage (s : State) (c : Nat) : (s.dropImage c).nib = s.nib := by
  unfold State.dropImage
  dsimp only
  split
  · rfl
  · split
    · rfl
    · split <;> rfl

theorem nib_cutImage (s : State) (c : Nat) : (s.cutImage c).nib = s.nib := by unfold State.cutImage; split <;> rfl

theorem nib_requestsKept (s : State) (l : List PoolReq) : ({ s with poolQ := l } : State).nib = s.nib := rfl
theorem nib_setContext (s : State) (c : Nat) (k : CtxState) : (s.setContext c k).nib = s.nib := rfl

theorem staysFailed_beginReset (n : Nat) (s : State) (c : Nat) : StaysFailed n s (s.beginReset c) := by
  unfold State.beginReset
  extract_lets t k u v w
  have hv : v.nib = s.nib := (nib_requestsKept u _).trans ((nib_setContext t c _).trans rfl)
  have hw : w.nib = s.nib := (nib_setFlag ..).trans ((nib_dropImage v c).trans hv)
  have hcut : StaysFailed n s (w.cutImage c) := staysFailed_of_nib ((nib_cutImage w c).trans hw)
  exact hcut.trans (staysFailed_haltCores n (w.cutImage c) c)

theorem nib_faultRecorded (s : State) (c cause engine tile unit arg : Nat) : (faultRecorded s c cause engine tile unit arg).nib = s.nib := by
  unfold faultRecorded
  split
  · exact nib_of_events (events_mergeFault ..)
  · rw [firstFault_eq]
    exact (nib_setContext ..).trans (nib_of_events (Events.trans (events_setFlds s _ _) (events_recordFault ..)))

theorem staysFailed_contextFault (n : Nat) (s : State) (c cause engine tile unit arg : Nat) :
    StaysFailed n s (s.contextFault c cause engine tile unit arg) := by
  rw [contextFault_eq]
  extract_lets t
  have ht : StaysFailed n s t := staysFailed_of_nib (nib_faultRecorded ..)
  refine ht.trans ?_
  split
  · exact (staysFailed_beginReset n t c).trans
      (staysFailed_of_nib ((nib_of_events (events_pfEvent ..)).trans (nib_of_events (events_vfEvent ..))))
  · exact staysFailed_of_nib rfl

/-! ### NIB_CORE_FAILURE -/

/-- A physical core listed and logged. -/
def coreReported (s : State) (t phys : Nat) (check : NibCheck) (c : Option Nat) : State :=
  (s.list 2 0 false t phys).logNibFailure t phys (nibCheckCode check) c

/-- What a failure reports of tile t in state v. -/
def Reported (s v : State) (t phys : Nat) (check : NibCheck) : Prop :=
  v.flag (.nibStatus t) .FAILED = true ∧ v.perm.defects = (s.list 2 0 false t phys).perm.defects ∧
    (s.flag (.nibFailLog t) .VALID = false → v.flag (.nibFailLog t) .VALID = true ∧ v.fld (.nibFailLog t) .PHYS = phys ∧
      v.fld (.nibFailLog t) .CHECK = nibCheckCode check)

theorem nibCheckCode_lt (check : NibCheck) : nibCheckCode check < 16 := by cases check <;> decide

theorem reported_coreReported (s : State) (t : Nat) {phys : Nat} (hp : phys < 16) (check : NibCheck) (c : Option Nat) :
    Reported s (coreReported s t phys check c) t phys check := by
  refine ⟨failed_logNibFailure .., congrArg Perm.defects (perm_of_events (events_logNibFailure ..)), fun hv => ?_⟩
  exact logged_logNibFailure _ t phys _ c ((flag_congr (reg_list ..) _).trans hv) hp (nibCheckCode_lt check)

/-- The report stays where neither register nor the list changes. -/
theorem Reported.keep {s v w : State} {t phys : Nat} {check : NibCheck} (h : Reported s v t phys check)
    (h1 : w.reg (.nibStatus t) = v.reg (.nibStatus t)) (h2 : w.reg (.nibFailLog t) = v.reg (.nibFailLog t)) (hp : w.perm = v.perm) :
    Reported s w t phys check := by
  obtain ⟨hf, hd, hl⟩ := h
  refine ⟨(flag_congr h1 _).trans hf, by rw [hp]; exact hd, fun hv => ?_⟩
  obtain ⟨l1, l2, l3⟩ := hl hv
  exact ⟨(flag_congr h2 _).trans l1, (fld_congr h2 _).trans l2, (fld_congr h2 _).trans l3⟩

theorem Reported.pfEvent {s v : State} {t phys : Nat} {check : NibCheck} (h : Reported s v t phys check) (ht : t < 32) :
    Reported s (v.pfEvent 10) t phys check :=
  h.keep (reg_pfEvent_spared _ (spared_nibStatus ht) (by decide)) (reg_pfEvent_spared _ (spared_nibFailLog ht) (by decide))
    (perm_of_events (events_pfEvent ..))

theorem Reported.failCore {s v : State} {t phys : Nat} {check : NibCheck} (h : Reported s v t phys check) {n : Nat} (hn : n / 8 = t) :
    Reported s (v.failCore n) t phys check := by
  refine h.keep ?_ ?_ (perm_failCore ..)
  · rw [reg_failCore, reg_setFlag_other _ _ _ (by rw [addr_nibStatus, addr_coreReg]; omega)]
  · rw [reg_failCore, reg_setFlag_other _ _ _ (by rw [addr_nibFailLog, addr_coreReg]; omega)]

theorem Reported.contextFault {s v : State} {t phys : Nat} {check : NibCheck} (h : Reported s v t phys check) (ht : t < 32) {c : Nat} (hc : c < 16)
    (cause engine tile unit arg : Nat) : Reported s (v.contextFault c cause engine tile unit arg) t phys check :=
  h.keep (reg_contextFault_unit _ hc _ _ _ _ _ (spared_nibStatus ht) (by rw [addr_nibStatus]; omega))
    (reg_contextFault_unit _ hc _ _ _ _ _ (spared_nibFailLog ht) (by rw [addr_nibFailLog]; omega)) (perm_of_faulted (faulted_contextFault ..))

section Failure
variable {s : State} {t : TileId} {phys : Fin 9} {check : NibCheck}

theorem exec_nibCoreFailure_none (hl : s.logicalCore t phys = none) (hd : ∀ d ∈ s.perm.defects, defectKey d ≠ defectKey (defectEntry 2 0 false 0 t phys)) :
    exec (.nibCoreFailure t phys check) s = .next ((coreReported s t phys check none).pfEvent 10) := by
  show execNibCoreFailure t phys check s = _
  unfold execNibCoreFailure
  rw [hl]
  refine congrArg Host.Outcome.next (if_neg ?_)
  simpa using hd

/-- The core failed, before its context is faulted. -/
def coreFailed (s : State) (t : TileId) (phys : Fin 9) (check : NibCheck) (n : Nat) : State :=
  ((coreReported s t phys check (s.coreCtx n)).failCore n).pfEvent 10

theorem exec_nibCoreFailure_some {i : Nat} (hl : s.logicalCore t phys = some i) (hst : (s.core (8 * t.val + i)).st ≠ .failed) :
    (s.coreCtx (8 * t.val + i) = none → exec (.nibCoreFailure t phys check) s = .next (coreFailed s t phys check (8 * t.val + i))) ∧
    ∀ c, s.coreCtx (8 * t.val + i) = some c → exec (.nibCoreFailure t phys check) s =
      .next ((coreFailed s t phys check (8 * t.val + i)).contextFault c 0x04 0 t ((8 * t.val + i) % 8) 5) := by
  refine ⟨fun hc => ?_, fun c hc => ?_⟩
  · show execNibCoreFailure t phys check s = _
    unfold execNibCoreFailure
    rw [hl]
    refine congrArg Host.Outcome.next ((if_neg (by simpa using hst)).trans ?_)
    simp only [Option.map_some, Option.bind_some, hc, coreFailed, coreReported]
  · show execNibCoreFailure t phys check s = _
    unfold execNibCoreFailure
    rw [hl]
    refine congrArg Host.Outcome.next ((if_neg (by simpa using hst)).trans ?_)
    simp only [Option.map_some, Option.bind_some, hc, coreFailed, coreReported]

end Failure

theorem coreCtx_lt {s : State} {n c : Nat} (hc : s.coreCtx n = some c) : c < 16 := by
  unfold State.coreCtx at hc
  split at hc
  · cases hc; exact bits_lt _ 59 56
  · cases hc

theorem logicalCore_lt {s : State} {t phys i : Nat} (h : s.logicalCore t phys = some i) : i < 8 := List.mem_range.mp (List.mem_of_find?_eq_some h)

/-! ### The statement -/

theorem nib_coreReported (s : State) (t phys : Nat) (check : NibCheck) (c : Option Nat) : (coreReported s t phys check c).nib = s.nib := by
  rw [coreReported, nib_of_events (events_logNibFailure ..), list_eq]

/-- The core of a failure: failed, unbound and listed once, and CTXF as it was. -/
theorem coreFailed_shows (s : State) (t : TileId) (phys : Fin 9) (check : NibCheck) {i : Nat} (hi : i < 8) :
    let n := 8 * t.val + i
    let v := coreFailed s t phys check n
    Sole (fun _ => NibCore.off) v.nib n ∧ v.core n = deadCore (s.core n) ∧ v.flag (coreReg n) .BOUND = false ∧
      ∀ c f, v.flag (.ctxfCause c) f = s.flag (.ctxfCause c) f := by
  intro n v
  have ht := t.isLt
  have hnib : v.nib = ((coreReported s t phys check (s.coreCtx n)).failCore n).nib := nib_of_events (events_pfEvent ..)
  have hcore : (coreReported s t phys check (s.coreCtx n)).core n = s.core n := congrArg (smGet _ · n) (nib_coreReported ..)
  refine ⟨by rw [hnib]; exact sole_failCore _ n, ?_, ?_, fun c f => flag_congr ?_ f⟩
  · rw [← hcore]; exact (congrArg (smGet _ · n) hnib).trans (core_failCore ..)
  · refine (flag_congr (reg_pfEvent_spared _ (spared_coreReg (by omega)) (by decide)) _).trans ?_
    exact (flag_congr (reg_failCore ..) _).trans (flag_setFlag _ _ _ _ rfl)
  · have hc : (Reg.ctxfCause c).addr = 0x3800000 + c * 0x10000 + 0x100 := rfl
    have h1 := addr_nibStatus t
    have h2 := addr_nibFailLog t
    have h3 := addr_coreReg n
    refine (reg_pfEvent_spared _ (spared_ctxfCause c) (by decide)).trans ((reg_failCore ..).trans ?_)
    rw [reg_setFlag_other _ _ _ (by omega), coreReported, reg_logNibFailure _ _ _ _ _ (by omega) (by omega), reg_list]

/-- Settles O27: the binding by its two conditions, the drain by whether its write succeeds, the failure by the core that stands on the
physical one. -/
theorem nibBindingDrainsAndFailures : Obligations.NibBindingDrainsAndFailures := by
  unfold Obligations.NibBindingDrainsAndFailures
  refine ⟨?_, ?_, ?_⟩
  · intro n bound ctx s r k may changes
    refine ⟨fun hc hm => ⟨_, congrArg Host.Outcome.next (nibBind_bound hc hm), ?_, ?_, core_setCore_same ..⟩,
      fun hc hm => ⟨_, congrArg Host.Outcome.next (nibBind_refused hc hm), ?_, rfl, flag_setFlag _ _ _ _ rfl⟩,
      fun hc => congrArg Host.Outcome.next (nibBind_same hc)⟩
    · exact (flag_congr (reg_setCore ..) _).trans ((flag_congr_fld (fld_setFld_ne _ _ _ rfl rfl (by decide))).trans (flag_setFlag _ _ _ _ rfl))
    · exact (fld_congr (reg_setCore ..) _).trans ((fld_setFld _ _ _ _).trans (Nat.mod_eq_of_lt ctx.isLt))
    · exact reg_setFlag_other _ _ _ (by rw [addr_nibStatus, addr_coreReg]; omega)
  · intro n s g es hs hg s1 t ok hw
    have htake := takeStore_tile hs hg hw
    refine ⟨fun hok => ?_, fun hok he => ?_, fun hok => ⟨_, rfl, ?_⟩⟩
    · rw [hok, if_pos rfl] at htake
      exact congrArg Host.Outcome.next (drainOne_ok htake)
    · rw [hok, if_neg Bool.false_ne_true] at htake
      exact congrArg Host.Outcome.next (drainOne_last htake he)
    · rw [hok, if_neg Bool.false_ne_true] at htake
      exact drainOne_failed hs htake
  · intro t phys check s entry reported
    have hlisted : ∀ v, Reported s v t phys check → reported v := fun v hv => by
      obtain ⟨h1, h2, h3⟩ := hv
      exact ⟨h1, h2.trans (defects_list ..), h3⟩
    have hphys : phys.val < 16 := by omega
    refine ⟨fun hl hd => ⟨_, exec_nibCoreFailure_none hl hd, hlisted _ ((reported_coreReported s t hphys check none).pfEvent t.isLt), ?_⟩,
      fun i hl hst => ?_⟩
    · exact (nib_of_events (events_pfEvent ..)).trans (nib_coreReported ..)
    · have hi := logicalCore_lt hl
      have hrep : Reported s (coreFailed s t phys check (8 * t.val + i)) t phys check :=
        ((reported_coreReported s t hphys check _).failCore (by omega)).pfEvent t.isLt
      obtain ⟨hsole, hcore, hbound, hflag⟩ := coreFailed_shows s t phys check hi
      obtain ⟨hnone, hsome⟩ := exec_nibCoreFailure_some (check := check) hl hst
      cases hc : s.coreCtx (8 * t.val + i) with
      | none =>
        refine ⟨_, hnone hc, hlisted _ hrep, ?_, ?_, ?_, ?_, hbound, fun c hc => nomatch hc⟩ <;> rw [hcore] <;> rfl
      | some c =>
        have hclt := coreCtx_lt hc
        obtain ⟨-, hstay⟩ := staysFailed_contextFault (8 * t.val + i) (coreFailed s t phys check (8 * t.val + i)) c 0x04 0 t ((8 * t.val + i) % 8) 5 hsole
          (by rw [hcore]; rfl)
        refine ⟨_, hsome c hc, hlisted _ (hrep.contextFault t.isLt hclt ..), ?_, ?_, ?_, ?_, ?_, ?_⟩
        · rw [hstay, hcore]; rfl
        · rw [hstay, hcore]; rfl
        · rw [hstay, hcore]; rfl
        · rw [hstay, hcore]; rfl
        · exact (flag_congr (reg_contextFault_unit _ hclt _ _ _ _ _ (spared_coreReg (by omega)) (by rw [addr_coreReg]; omega)) _).trans hbound
        · rintro _ ⟨⟩ hv
          have hmod : (8 * t.val + i) % 8 = i := by omega
          rw [hmod]
          exact contextFault_held _ hclt ((hflag c .VALID).trans hv) (by decide) (by decide) (by omega) (by omega) (by decide)

end Sys2Proof.Proofs
end

section
/-!
Reads and writes of a line or a Well word by an agent, the errors that they find, and the patrol scrub (R80 to R82, R84, R106, R107,
R233).
-/
namespace Sys2Proof.Proofs
open Sys2Proof.Machine Sys2Proof.Laws Sys2Proof.Claims

/-! ### The map -/

theorem isDram_iff {pa : Nat} : isDram pa = true ↔ pa < 0x4000000000 := decide_eq_true_iff

theorem not_isDram_iff {pa : Nat} : isDram pa = false ↔ 0x4000000000 ≤ pa := by rw [← Bool.not_eq_true, isDram_iff, Nat.not_lt]

theorem line_isDram (line : BitVec 32) : isDram (line.toNat * 64) = true := by
  have := line.isLt
  rw [isDram_iff]; omega

theorem tileOfPa_line_lt (line : BitVec 32) : tileOfPa (line.toNat * 64) < 32 := by
  have := line.isLt
  rw [tileOfPa, if_pos (line_isDram line)]; omega

theorem rowLoc_lt (pa : Nat) : rowLoc pa < 2 ^ 35 := by
  have h1 : nbits (pa % 0x200000000) 12 8 <<< 30 < 2 ^ 35 := by rw [Nat.shiftLeft_eq, nbits]; omega
  have h2 : nbits (pa % 0x200000000) 21 16 <<< 24 < 2 ^ 35 := by rw [Nat.shiftLeft_eq, nbits]; omega
  have h3 : nbits (pa % 0x200000000) 32 22 < 2 ^ 35 := by rw [nbits]; omega
  exact Nat.or_lt_two_pow (Nat.or_lt_two_pow h1 h2) h3

/-! ### Entries of the defect list -/

/-- The tile is part of an entry's key. -/
theorem bits_tile_of_key {d e : W64} (h : defectKey d = defectKey e) : bits d 39 35 = bits e 39 35 := by
  have hlow : bits d 39 0 = bits e 39 0 := congrArg (fun k : Nat × Nat × Nat => k.2.2) h
  simp only [bits, nbits] at hlow ⊢
  omega

section Entry
variable {kind tile loc : Nat} (z : Bool) (boot : Nat)

theorem zmap_lt : (if z then 1 else 0 : Nat) < 2 := by cases z <;> decide

theorem defectKey_kind (hk : kind < 16) (ht : tile < 32) (hl : loc < 2 ^ 35) : (defectKey (defectEntry kind 0 z boot tile loc)).1 = kind := by
  have hz := zmap_lt z
  have hloc : bits (BitVec.ofNat 64 (loc <<< 0)) 63 60 = 0 := bits_ofNat_shiftLeft_apart (.inr (by omega))
  show bits (defectEntry kind 0 z boot tile loc) 63 60 = kind
  rw [defectEntry, bits_ofNat_or, bits_ofNat_or, bits_ofNat_or, bits_ofNat_or, bits_ofNat_or, bits_ofNat_shiftLeft hk (by decide) (by decide),
    bits_ofNat_shiftLeft_apart (.inr (by decide)), bits_ofNat_shiftLeft_apart (.inr (by omega)), bits_ofNat_shiftLeft_apart (.inr (by omega)),
    bits_ofNat_shiftLeft_apart (.inr (by omega)), show bits (BitVec.ofNat 64 loc) 63 60 = 0 from hloc]
  simp only [Nat.or_zero]

theorem bits_tile_defectEntry (ht : tile < 32) (hl : loc < 2 ^ 35) : bits (defectEntry kind 0 z boot tile loc) 39 35 = tile := by
  have hloc : bits (BitVec.ofNat 64 (loc <<< 0)) 39 35 = 0 := bits_ofNat_shiftLeft_apart (.inr (by omega))
  rw [defectEntry, bits_ofNat_or, bits_ofNat_or, bits_ofNat_or, bits_ofNat_or, bits_ofNat_or, bits_ofNat_shiftLeft ht (by decide) (by decide),
    bits_ofNat_shiftLeft_apart (.inl (by decide)), bits_ofNat_shiftLeft_apart (.inl (by decide)), bits_ofNat_shiftLeft_apart (.inl (by decide)),
    bits_ofNat_shiftLeft_apart (.inl (by decide)), show bits (BitVec.ofNat 64 loc) 39 35 = 0 from hloc]
  simp only [Nat.or_zero, Nat.zero_or]

end Entry

/-- Is a unit of a kind and a tile listed? -/
def Listed (t : State) (kind tile : Nat) : Prop := ∃ d ∈ t.perm.defects, (defectKey d).1 = kind ∧ bits d 39 35 = tile

theorem listed_list (s : State) {kind : Nat} (z : Bool) {tile loc : Nat} (hl : s.perm.defects.length < 4096) (hk : kind < 16) (ht : tile < 32)
    (hloc : loc < 2 ^ 35) : Listed (s.list kind 0 z tile loc) kind tile := by
  obtain ⟨d, hd, hkey⟩ := mem_list s kind 0 z tile loc hl
  exact ⟨d, hd, (congrArg Prod.fst hkey).trans (defectKey_kind z _ hk ht hloc), (bits_tile_of_key hkey).trans (bits_tile_defectEntry z _ ht hloc)⟩

theorem Listed.onward {s t : State} {kind tile : Nat} (h : Listed s kind tile) (g : Onward s t) : Listed t kind tile := by
  obtain ⟨d, hd, hk⟩ := h
  exact ⟨d, g.listed.subset hd, hk⟩

/-! ### What an agent's failed read adds -/

theorem onward_freeNat (s : State) (n : Nat) : Onward s (s.freeNat n).2 := onward_of_eq rfl rfl rfl
theorem onward_setTamb (s : State) (i : Nat) (k : TambArray) : Onward s (s.setTamb i k) := onward_of_eq rfl rfl rfl
theorem onward_setFilet (s : State) (i : Nat) (k : FiletUnit) : Onward s (s.setFilet i k) := onward_of_eq rfl rfl rfl
theorem onward_setFolio (s : State) (i : Nat) (k : FolioUnit) : Onward s (s.setFolio i k) := onward_of_eq rfl rfl rfl

theorem onward_workUncorr (s : State) (a : MemAgent) : Onward s (s.workUncorr a) := by
  cases a with
  | feed t n => exact (onward_freeNat s 16).trans (onward_setFeedCh ..)
  | tambour t a => exact (onward_freeNat s 32).trans (onward_setTamb ..)
  | filet t => exact onward_setFilet ..
  | folio t => exact onward_setFolio ..
  | _ => exact .refl s

theorem onward_hartUncorr (s : State) (c : Nat) : Onward s (s.hartUncorr c) := by
  unfold State.hartUncorr
  exact ((onward_freeNat s 16).trans (onward_freeNat _ 32)).trans (onward_faultNoUnit ..)

theorem onward_readFails (s : State) (a : MemAgent) : Onward s (s.readFails a) := by
  unfold State.readFails
  cases a with
  | nib n =>
    dsimp only
    split
    · exact (onward_freeNat s 48).trans (onward_nibException ..)
    · exact .refl s
  | hart h =>
    dsimp only
    split
    · exact onward_hartUncorr ..
    · exact .refl s
  | aperture c => exact .refl s
  | _ => exact onward_workUncorr ..

theorem mem_outbox_send (s : State) (o : Output) : o ∈ (s.send o).outbox := List.mem_append_right _ (List.mem_singleton_self o)

/-! ### A line found uncorrectable -/

section Lines
variable (s : State) (scrub : Bool) (c : Nat)

theorem outbox_of_list (kind origin : Nat) (z : Bool) (tile loc : Nat) : (s.list kind origin z tile loc).outbox = s.outbox := by
  rw [list_eq]

theorem mem_of_list (kind origin : Nat) (z : Bool) (tile loc : Nat) : (s.list kind origin z tile loc).mem = s.mem := by rw [list_eq]

theorem poisoned_list (kind origin : Nat) (z : Bool) (tile loc l : Nat) : (s.list kind origin z tile loc).poisoned l = s.poisoned l := by
  rw [list_eq]; rfl

theorem core_list (kind origin : Nat) (z : Bool) (tile loc n : Nat) : (s.list kind origin z tile loc).core n = s.core n := by
  rw [list_eq]; rfl

theorem outbox_logUe (pa : Nat) : (s.logUe scrub c pa).outbox = s.outbox := by
  unfold State.logUe
  dsimp only
  split
  · rfl
  · exact outbox_setFlds ..

/-- A line of DRAM poisoned, logged and its row listed. -/
theorem dramUe_line (l : Nat) : s.dramUe scrub c (l * 64) =
    ((s.setPoison l true).logUe scrub c (l * 64)).list 4 0 false (tileOfPa (l * 64)) (rowLoc (l * 64)) := by
  rw [State.dramUe, Nat.mul_div_cancel _ (by decide)]

theorem dramUe_shows (l : Nat) : (s.dramUe scrub c (l * 64)).mem = s.mem ∧ (s.dramUe scrub c (l * 64)).outbox = s.outbox ∧
    (s.dramUe scrub c (l * 64)).poisoned l = true ∧ (s.dramUe scrub c (l * 64)).flag (.tmemUeLog (tileOfPa (l * 64))) .VALID = true ∧
    (∀ n, (s.dramUe scrub c (l * 64)).core n = s.core n) ∧
    ∀ q, q.addr ≠ (Reg.tmemUeLog (tileOfPa (l * 64))).addr → (s.dramUe scrub c (l * 64)).reg q = s.reg q := by
  rw [dramUe_line]
  refine ⟨?_, ?_, ?_, ?_, fun n => ?_, fun q hq => ?_⟩
  · rw [mem_of_list, mem_of_events (events_logUe ..)]; rfl
  · rw [outbox_of_list, outbox_logUe]; rfl
  · rw [poisoned_list, poison_of_events (events_logUe ..), poisoned_setPoison_same]
  · exact (flag_congr (reg_list ..) _).trans (valid_logUe ..)
  · rw [core_list]
    exact (congrArg (smGet _ · n) (nib_of_events (events_logUe (s.setPoison l true) scrub c (l * 64)))).trans rfl
  · rw [reg_list, reg_logUe _ _ _ _ hq]; rfl

theorem listed_dramUe (line : BitVec 32) (hl : s.perm.defects.length < 4096) :
    Listed (s.dramUe scrub c (line.toNat * 64)) 4 (tileOfPa (line.toNat * 64)) := by
  have hperm : ((s.setPoison line.toNat true).logUe scrub c (line.toNat * 64)).perm = s.perm := (perm_of_events (events_logUe ..)).trans rfl
  rw [dramUe_line]
  exact listed_list _ false (by rw [hperm]; exact hl) (by decide) (tileOfPa_line_lt line) (rowLoc_lt _)

theorem mem_foldl_setPoison (f : Nat → Nat) (l : List Nat) : (l.foldl (fun s i => s.setPoison (f i) true) s).mem = s.mem := by
  refine foldl_same (·.mem) (fun s i _ => ?_) s
  rfl

theorem mem_freeNat (n : Nat) : (s.freeNat n).2.mem = s.mem := rfl

theorem mem_lineChecked (l : Nat) (err : LineError) : (s.lineChecked scrub c l err).mem = s.mem := by
  cases err with
  | clean => rfl
  | corrected => rfl
  | uncorrectable => obtain ⟨h, -⟩ := dramUe_shows s scrub c l; exact h
  | zeroMap =>
    show (s.zeroMapUe scrub c l).mem = s.mem
    unfold State.zeroMapUe
    dsimp only
    rw [mem_of_list, mem_freeNat, mem_of_events (events_logUe ..), mem_foldl_setPoison]

end Lines

/-! ### DRAM_READ -/

section Read
variable {s : State} {a : MemAgent} {line : BitVec 32}

theorem exec_dramRead_owned (h : s.ownedLine line.toNat = true) (err : LineError) : exec (.dramRead a line err) s =
    .next ((s.snoopRead line.toNat).send (.memReply (line.toNat * 64) 0 ((s.snoopRead line.toNat).bytesAt (line.toNat * 64) 64))) :=
  congrArg Host.Outcome.next (if_pos h)

theorem snoopRead_same (s : State) (l : Nat) : (s.snoopRead l).mem = s.mem ∧ (s.snoopRead l).outbox = s.outbox := by
  obtain ⟨hmem, -, -, -, -, -, hout, -⟩ := (homed_writeHomeAll s (s.dir.filter fun e => e.line = l)).same
  exact ⟨hmem, hout⟩

theorem bytesAt_of_mem {s t : State} (h : t.mem = s.mem) (a n : Nat) : t.bytesAt a n = s.bytesAt a n :=
  bytesAt_congr fun i _ => congrArg (smGet _ · (a + i)) h

section Home
variable (hp : s.poisoned line.toNat = false) (ho : s.ownedLine line.toNat = false)
include hp ho

theorem exec_dramRead_uncorrectable : exec (.dramRead a line .uncorrectable) s =
    .next (((s.dramUe false ((s.agentCtx a).getD 0) (line.toNat * 64)).send (.memReply (line.toNat * 64) 0x12 [])).readFails a) :=
  congrArg Host.Outcome.next ((if_neg (by simp [ho])).trans ((if_neg (by simp [hp])).trans (if_pos rfl)))

/-- The line as its home reads it, with the zero map's hits. -/
theorem exec_dramRead_data {err : LineError} (herr : err = .clean ∨ err = .corrected) : exec (.dramRead a line err) s =
    .next (let r := ((s.lineChecked false ((s.agentCtx a).getD 0) line.toNat err).readLine (s.agentCtx a) line.toNat [])
      r.1.send (.memReply (line.toNat * 64) 0 (r.1.bytesAt (line.toNat * 64) 64))) :=
  congrArg Host.Outcome.next ((if_neg (by simp [ho])).trans ((if_neg (by simp [hp])).trans (if_neg (by rcases herr with rfl | rfl <;> decide))))

end Home

theorem addr_tmemCeCount (t : Nat) : (Reg.tmemCeCount t).addr = 0x1000000 + t * 0x100000 + 0x8000 := rfl
theorem addr_tmemZmapHits (t : Nat) : (Reg.tmemZmapHits t).addr = 0x1000000 + t * 0x100000 + 0x8028 := rfl

/-- A line neither owned nor poisoned is read, with at most a hit of the zero map counted. -/
theorem readLine_clean {c : Option Nat} {l : Nat} (hd : isDram (l * 64) = true) (hp : s.poisoned l = false) (ho : s.ownedLine l = false) :
    s.readLine c l [] = (s, true) ∨ s.readLine c l [] = (s.addFld (.tmemZmapHits (tileOfPa (l * 64))) .COUNT 1, true) := by
  unfold State.readLine
  rw [if_pos hd, if_neg (by simp [ho]), if_neg (by simp [hp])]
  split
  · exact .inr rfl
  · exact .inl rfl

theorem readLine_clean_shows {c : Option Nat} {l : Nat} (hd : isDram (l * 64) = true) (hp : s.poisoned l = false) (ho : s.ownedLine l = false) :
    (s.readLine c l []).1.mem = s.mem ∧ (s.readLine c l []).1.outbox = s.outbox ∧
      (s.readLine c l []).1.reg (.tmemCeCount (tileOfPa (l * 64))) = s.reg (.tmemCeCount (tileOfPa (l * 64))) := by
  obtain h | h := readLine_clean (c := c) hd hp ho <;> rw [h]
  · exact ⟨rfl, rfl, rfl⟩
  · exact ⟨rfl, rfl, reg_setFld_other s _ _ (by rw [addr_tmemCeCount, addr_tmemZmapHits]; omega)⟩

theorem count_lineChecked (s : State) (c l : Nat) {err : LineError} (herr : err = .clean ∨ err = .corrected) :
    (s.lineChecked false c l err).fld (.tmemCeCount (tileOfPa (l * 64))) .COUNT =
      (s.fld (.tmemCeCount (tileOfPa (l * 64))) .COUNT + if err = .corrected then 1 else 0) % 2 ^ 64 := by
  rcases herr with rfl | rfl
  · exact (Nat.mod_eq_of_lt (bits_lt _ 63 0)).symm
  · exact fld_setFld s (.tmemCeCount (tileOfPa (l * 64))) .COUNT _

theorem lineChecked_same (s : State) (c l : Nat) {err : LineError} (herr : err = .clean ∨ err = .corrected) :
    (∀ l', (s.lineChecked false c l err).poisoned l' = s.poisoned l') ∧ (∀ l', (s.lineChecked false c l err).ownedLine l' = s.ownedLine l') ∧
      (s.lineChecked false c l err).outbox = s.outbox := by
  rcases herr with rfl | rfl <;> exact ⟨fun _ => rfl, fun _ => rfl, rfl⟩

end Read

/-! ### A core that reads -/

section Core
variable {s : State} {n : CoreId}

theorem readFails_nib (hr : (s.core n).st = .running) : s.readFails (.nib n) = (s.freeNat 48).2.nibException n 0x07 (s.freeNat 48).1 := if_pos hr

/-- UNCORR_MEM stops a core without stores in any case. -/
theorem nibException_uncorr (hs : (s.core n).stores = []) (eaddr : Nat) :
    s.nibException n 0x07 eaddr = s.nibStop n 0x07 (s.core n).pc (s.core n).handler := by
  unfold State.nibException
  extract_lets k0 t k
  have ht : t = s := drainAll_nil s hs
  clear_value t
  subst ht
  exact if_neg (by simp)

/-- The first stop of a context is kept in CTXW.NIB_EXC. -/
theorem cause_nibStop (hv : s.flag (.ctxwNibExc (s.ctxOf n)) .VALID = false) {cause : Nat} (hc : cause < 32) (pc : BitVec 48) (b : Bool) :
    (s.nibStop n cause pc b).fld (.ctxwNibExc (s.ctxOf n)) .CAUSE = cause := by
  have hctx : s.ctxOf n < 16 := bits_lt _ 59 56
  unfold State.nibStop
  extract_lets c r t
  have ht : t = s.setFlds r [(.VALID, 1), (.IN_HANDLER, if b then 1 else 0), (.TILE, coreTile n), (.CORE, n % 8), (.CAUSE, cause), (.EPC, pc.toNat)] :=
    if_neg (by simp [r, c, hv])
  refine (fld_congr (reg_ctxwNibExc_contextFault _ hctx _ _ _ _ _ _) _).trans ?_
  refine (fld_congr (reg_setCore ..) _).trans ?_
  rw [ht]
  exact fld_setFlds_fits s (.ctxwNibExc (s.ctxOf n)) rfl (by simp) (by simp) hc

theorem readFails_nib_cause (hr : (s.core n).st = .running) (hs : (s.core n).stores = []) (hv : s.flag (.ctxwNibExc (s.ctxOf n)) .VALID = false) :
    (s.readFails (.nib n)).fld (.ctxwNibExc (s.ctxOf n)) .CAUSE = 0x07 := by
  have hs' : ((s.freeNat 48).2.core n).stores = [] := hs
  rw [readFails_nib hr, nibException_uncorr hs']
  exact cause_nibStop (s := (s.freeNat 48).2) hv (by decide) _ _

end Core

/-! ### Writes of a line -/

section Write
variable {s : State} {a : MemAgent} {line : BitVec 32}

theorem exec_dramFullLineWrite_clean (mcomp : Bool) (data : W512) : exec (.dramFullLineWrite a line mcomp data .clean) s =
    .next ((s.writeDramLine (s.agentCtx a) mcomp line.toNat (cellsFrom (line.toNat * 64) (toBytes 64 data.toNat))).1.send
      (.memReply (line.toNat * 64) 0 [])) := by
  show execDramFullLineWrite a line mcomp data .clean s = _
  unfold execDramFullLineWrite
  dsimp only
  rw [if_neg (by simp)]

/-- A partial write whose symbols are clean, once the line left the Quill caches. -/
theorem exec_dramPartialWrite_clean {off : Fin 64} {data : List Byte} (hd : data ≠ []) (hl : off.val + data.length ≤ 64) (h64 : data.length ≠ 64) :
    exec (.dramPartialWrite a line off data .clean) s =
      .next (let r := (s.dropLine line.toNat).writeDramLine (s.agentCtx a) false line.toNat (cellsFrom (line.toNat * 64 + off.val) data)
        if r.2 then r.1.send (.memReply (line.toNat * 64) 0 []) else (r.1.send (.memReply (line.toNat * 64) 0x12 [])).writeFails a) := by
  show execDramPartialWrite a line off data .clean s = _
  unfold execDramPartialWrite
  dsimp only
  rw [if_neg (by simp [hd, h64]; omega), ite_self, if_neg (by simp)]
  have hsame : (if (s.dropLine line.toNat).poisoned line.toNat = true then s.dropLine line.toNat
      else (s.dropLine line.toNat).lineChecked false ((s.agentCtx a).getD 0) line.toNat .clean) = s.dropLine line.toNat := ite_self _
  rw [hsame]

theorem heldDirty_dropLine (s : State) (l : Nat) : heldDirty (s.dropLine l) l = false := by
  obtain ⟨-, -, -, hdir, -⟩ := dropLine_same s l
  rw [heldDirty, hdir, List.any_filter, List.any_eq_false]
  intro e _
  by_cases he : e.line = l <;> simp [he]

theorem poisoned_dropLine_twice (s : State) (l : Nat) : ((s.dropLine l).dropLine l).poisoned l = (s.poisoned l && !heldDirty s l) := by
  rw [poisoned_dropLine, heldDirty_dropLine, Bool.not_false, Bool.and_true, poisoned_dropLine]

end Write

/-! ### Well words -/

section Well
variable {t : TileId} {word : BitVec 22}

theorem isWell_wellPa : isWell (wellPa t word.toNat) = decide (8 * word.toNat < 0x1800000) := by
  have h1 := t.isLt
  have h2 := word.isLt
  have hmod : (wellPa t word.toNat - wellBase) % 0x2000000 = 8 * word.toNat := by simp only [wellPa, wellBase]; omega
  have hlo : wellBase ≤ wellPa t word.toNat := by simp only [wellPa]; omega
  have hhi : wellPa t word.toNat < 0x4040000000 := by simp only [wellPa, wellBase]; omega
  rw [isWell, hmod, decide_eq_true hlo, decide_eq_true hhi, Bool.true_and, Bool.true_and]

theorem tileOfPa_wellPa : tileOfPa (wellPa t word.toNat) = t := by
  have h1 := t.isLt
  have h2 := word.isLt
  rw [tileOfPa, if_neg (by rw [isDram_iff]; simp only [wellPa, wellBase]; omega)]
  simp only [wellPa, wellBase]; omega

/-- Addresses at or above a Well word's are not DRAM. -/
theorem not_isDram_of_le {pa b : Nat} (h : pa ≤ b) (hpa : wellBase ≤ pa) : isDram b = false := by
  simp only [isDram, decide_eq_false_iff_not]; omega

theorem wellBase_le_wellPa (t word : Nat) : wellBase ≤ wellPa t word := by simp only [wellPa]; omega

theorem wellPa_mod8 (t word : Nat) : wellPa t word % 8 = 0 := by simp only [wellPa, wellBase]; omega

end Well

/-- An aligned word lies in one line and is one Well word. -/
theorem linesOf_word {pa : Nat} (h : pa % 8 = 0) : linesOf pa 8 = [pa / 64] := linesOf_one rfl (by decide) (by omega)

theorem wordsOf_word {pa : Nat} (h : pa % 8 = 0) : wordsOf pa 8 = [pa / 8] := by
  have hlast : (pa + 8 - 1) / 8 = pa / 8 := by omega
  unfold wordsOf
  rw [if_neg (by decide), hlast, Nat.sub_self]
  rfl

section WellRead
variable {s : State} {c : Option Nat} {pa : Nat} (hw : wellBase ≤ pa) (h8 : pa % 8 = 0)
include hw h8

theorem line_not_isDram : isDram (pa / 64 * 64) = false := by
  simp only [wellBase] at hw
  rw [not_isDram_iff]; omega

/-- A Well word at its home: its bytes, or the failure of its bank. -/
theorem homeRead_word : s.homeRead c pa 8 = if s.badWord (pa / 8) then (s.wellUe c pa, none) else (s, some (s.bytesAt pa 8)) := by
  have hline : (pa / 8) / 8 = pa / 64 := by omega
  have hback : pa / 8 * 8 = pa := by omega
  rw [homeRead_eq, linesOf_word h8, wordsOf_word h8, readLines, List.foldl_cons, List.foldl_nil]
  unfold State.readLine
  rw [if_neg (by simp [line_not_isDram hw h8]), List.find?_cons, hline, decide_eq_true rfl, Bool.true_and]
  cases s.badWord (pa / 8) with
  | true => dsimp only; rw [hback]; rfl
  | false => rfl

end WellRead

section Access
variable {s : State} {a : MemAgent} {t : TileId} {word : BitVec 22}

theorem exec_wellAccess_unmapped (h : 0x1800000 ≤ 8 * word.toNat) (op : WellOp) (err : LineError) :
    exec (.wellAccess a t word op err) s = .next (s.send (.memReply (wellPa t word.toNat) 0x11 [])) :=
  congrArg Host.Outcome.next (if_pos (by rw [isWell_wellPa, decide_eq_false (by omega)]; rfl))

theorem not_unmapped (h : 8 * word.toNat < 0x1800000) : ¬ (!isWell (wellPa t word.toNat)) = true := by
  rw [isWell_wellPa, decide_eq_true h]; decide

/-- What a read of a word does first with the symbols' answer. -/
def wordChecked (s : State) (t : TileId) (pa : Nat) (reads : Bool) (err : LineError) : State :=
  if !reads then s else if err = .uncorrectable || err = .zeroMap then s.setBadWord (pa / 8) true
  else if err = .corrected then s.addFld (.tmemCeCount t) .COUNT 1 else s

theorem wordChecked_clean (s : State) (t : TileId) (pa : Nat) (reads : Bool) : wordChecked s t pa reads .clean = s := by
  unfold wordChecked
  cases reads
  · exact if_pos rfl
  · exact (if_neg (by decide)).trans ((if_neg (by decide)).trans (if_neg (by decide)))

theorem wordChecked_uncorrectable (s : State) (t : TileId) (pa : Nat) :
    wordChecked s t pa true .uncorrectable = s.setBadWord (pa / 8) true := by
  unfold wordChecked
  rw [if_neg (by decide), if_pos (by decide)]

theorem exec_wellAccess_bytes (h : 8 * word.toNat < 0x1800000) {err : LineError} {u : State} {bs : List Byte}
    (hr : (wordChecked s t (wellPa t word.toNat) true err).homeRead (s.agentCtx a) (wellPa t word.toNat) 8 = (u, some bs)) :
    exec (.wellAccess a t word .read err) s = .next (u.send (.memReply (wellPa t word.toNat) 0 bs)) := by
  show execWellAccess a t word .read err s = _
  unfold execWellAccess
  extract_lets pa c bad reads s1
  have hmap : ¬ (!isWell pa) = true := not_unmapped h
  have hread : s1.homeRead c pa 8 = (u, some bs) := hr
  generalize s1.homeRead c pa 8 = x at hread ⊢
  subst hread
  exact congrArg Host.Outcome.next (if_neg hmap)

theorem exec_wellAccess_fails (h : 8 * word.toNat < 0x1800000) {err : LineError} {u : State}
    (hr : (wordChecked s t (wellPa t word.toNat) true err).homeRead (s.agentCtx a) (wellPa t word.toNat) 8 = (u, none)) :
    exec (.wellAccess a t word .read err) s = .next ((u.send (.memReply (wellPa t word.toNat) 0x12 [])).readFails a) := by
  show execWellAccess a t word .read err s = _
  unfold execWellAccess
  extract_lets pa c bad reads s1
  have hmap : ¬ (!isWell pa) = true := not_unmapped h
  have hread : s1.homeRead c pa 8 = (u, none) := hr
  generalize s1.homeRead c pa 8 = x at hread ⊢
  subst hread
  exact congrArg Host.Outcome.next (if_neg hmap)

theorem exec_wellAccess_stores (h : 8 * word.toNat < 0x1800000) {off : Fin 8} {data : List Byte} (hd : data ≠ []) (hl : off.val + data.length ≤ 8)
    {err : LineError} {u : State} (hw : (wordChecked s t (wellPa t word.toNat) (data.length < 8) err).homeWrite (s.agentCtx a) false
      (cellsFrom (wellPa t word.toNat + off.val) data) = (u, true)) :
    exec (.wellAccess a t word (.write off data) err) s = .next (u.send (.memReply (wellPa t word.toNat) 0 [])) := by
  show execWellAccess a t word (.write off data) err s = _
  unfold execWellAccess
  unfold wordChecked at hw
  dsimp only
  rw [if_neg (not_unmapped h), if_neg (by simp [hd]; omega), hw]

theorem exec_wellAccess_read (h : 8 * word.toNat < 0x1800000) (hb : s.badWord (wellPa t word.toNat / 8) = false) :
    exec (.wellAccess a t word .read .clean) s = .next (s.send (.memReply (wellPa t word.toNat) 0 (s.bytesAt (wellPa t word.toNat) 8))) := by
  refine exec_wellAccess_bytes h ?_
  rw [wordChecked_clean, homeRead_word (wellBase_le_wellPa ..) (wellPa_mod8 ..), if_neg (by simp [hb])]

/-- The word in error, found by its read. -/
theorem exec_wellAccess_uncorrectable (h : 8 * word.toNat < 0x1800000) : exec (.wellAccess a t word .read .uncorrectable) s =
    .next ((((s.setBadWord (wellPa t word.toNat / 8) true).wellUe (s.agentCtx a) (wellPa t word.toNat)).send
      (.memReply (wellPa t word.toNat) 0x12 [])).readFails a) := by
  refine exec_wellAccess_fails h ?_
  rw [wordChecked_uncorrectable, homeRead_word (wellBase_le_wellPa ..) (wellPa_mod8 ..), if_pos (badWord_setBadWord_same ..)]

/-- A Well word found uncorrectable has its bank listed. -/
theorem listed_wellUe (s : State) (c : Option Nat) {pa : Nat} (hl : s.perm.defects.length < 4096) (ht : tileOfPa pa < 32)
    (hp : s.physOf 3 (tileOfPa pa) (wellBank pa) < 64) : Listed (s.wellUe c pa) 3 (tileOfPa pa) := by
  have hperm : (s.logUe false (c.getD 0) (pa / 64 * 64)).perm = s.perm := perm_of_events (events_logUe ..)
  unfold State.wellUe
  extract_lets users u v
  have hu : Listed u 3 (tileOfPa pa) := listed_list _ false (by rw [hperm]; exact hl) (by decide) ht (by omega)
  have hv : Onward u v := onward_foldl (fun w x => onward_setContext w x _) users u
  exact hu.onward (hv.trans ((onward_faultEach ..).trans (onward_pfEvent ..)))

theorem mem_setBadWords (s : State) (ws : List Nat) : (ws.foldl (fun s w => s.setBadWord w false) s).mem = s.mem := by
  refine foldl_same (·.mem) (fun s w _ => ?_) s
  rfl

theorem mem_putCells_congr {s u : State} (h : u.mem = s.mem) (cs : List Host.Cell) : (u.putCells cs).mem = (s.putCells cs).mem := by
  unfold State.putCells; rw [h]

theorem mem_touched (s : State) (l : Nat) (cs : List Host.Cell) : ((s.loseResv l).touchTamb cs).mem = s.mem := rfl

/-- Bytes of words none of which is in error are stored. -/
theorem writeWellLine_ok (c : Option Nat) {cs : List Host.Cell} (hb : ∀ x ∈ cs, s.badWord (x.1 / 8) = false) :
    (s.writeWellLine c cs).2 = true ∧ (s.writeWellLine c cs).1.mem = (s.putCells cs).mem := by
  have hfind : (dedup (cs.map fun x => x.1 / 8)).find? (fun w => s.badWord w && !decide (8 ≤ (cs.filter fun x => x.1 / 8 = w).length)) = none := by
    rw [List.find?_eq_none]
    intro w hw
    obtain ⟨x, hx, rfl⟩ := List.mem_map.mp (mem_dedup.mp hw)
    simp [hb x hx]
  unfold State.writeWellLine
  dsimp only
  rw [hfind]
  exact ⟨rfl, (mem_touched ..).trans (mem_putCells_congr (mem_setBadWords ..) cs)⟩

/-- A write within a Well word that is not in error. -/
theorem exec_wellAccess_write (h : 8 * word.toNat < 0x1800000) {off : Fin 8} {data : List Byte} (hd : data ≠ []) (hl : off.val + data.length ≤ 8)
    (hb : s.badWord (wellPa t word.toNat / 8) = false) (hring : s.ringAt (wellPa t word.toNat + off) = none) :
    exec (.wellAccess a t word (.write off data) .clean) s =
      .next ((s.writeWellLine (s.agentCtx a) (cellsFrom (wellPa t word.toNat + off) data)).1.send (.memReply (wellPa t word.toNat) 0 [])) ∧
    (s.writeWellLine (s.agentCtx a) (cellsFrom (wellPa t word.toNat + off) data)).1.mem =
      (s.putCells (cellsFrom (wellPa t word.toNat + off) data)).mem := by
  have h8 := wellPa_mod8 t word.toNat
  have hpos := List.length_pos_of_ne_nil hd
  have hwords : ∀ x ∈ cellsFrom (wellPa t word.toNat + off) data, s.badWord (x.1 / 8) = false := fun x hx => by
    have hx := mem_cellsFrom hx
    rw [show x.1 / 8 = wellPa t word.toNat / 8 by omega]; exact hb
  obtain ⟨hok, hmem⟩ := writeWellLine_ok (s.agentCtx a) hwords
  refine ⟨?_, hmem⟩
  have hwrite : s.homeWrite (s.agentCtx a) false (cellsFrom (wellPa t word.toNat + off) data) =
      ((s.writeWellLine (s.agentCtx a) (cellsFrom (wellPa t word.toNat + off) data)).1, true) := by
    rw [homeWrite_line s _ _ hd (by omega) hring, if_neg (by simp [not_isDram_of_le (Nat.le_add_right _ off.val) (wellBase_le_wellPa t word.toNat)])]
    exact Prod.ext rfl hok
  exact exec_wellAccess_stores h hd hl (by rw [wordChecked_clean, hwrite])

end Access

/-! ### The scrub -/

section Scrub
variable {s : State} {t : TileId} {err : LineError} {word : Fin 8}

/-- The line that the scrub reads next, read. -/
def scrubbed (s : State) (t : TileId) (err : LineError) (word : Fin 8) : State :=
  if s.scrubAt t < 2 ^ 27 then s.scrubDram (t.val * 2 ^ 27 + s.scrubAt t) err else s.scrubWell t (s.scrubAt t - 2 ^ 27) word err

theorem exec_scrubLine_off (h : s.fld (.tmemScrub t) .PERIOD_MIN = 0) : exec (.scrubLine t err word) s = .next s := congrArg Host.Outcome.next (if_pos h)

theorem exec_scrubLine_on (h : s.fld (.tmemScrub t) .PERIOD_MIN ≠ 0) :
    exec (.scrubLine t err word) s = .next ((scrubbed s t err word).setScrub t ((s.scrubAt t + 1) % (2 ^ 27 + 393216))) :=
  congrArg Host.Outcome.next (if_neg h)

theorem mem_scrubDram (s : State) (line : Nat) (err : LineError) : (s.scrubDram line err).mem = s.mem := by
  unfold State.scrubDram
  split
  · rfl
  · split
    · exact (mem_of_events (events_pfEvent ..)).trans (mem_lineChecked ..)
    · exact mem_lineChecked ..

theorem poisoned_scrubDram (s : State) (line : Nat) : (s.scrubDram line .uncorrectable).poisoned line = true := by
  unfold State.scrubDram
  split
  next hp => exact hp
  next =>
    obtain ⟨-, -, hp, -⟩ := dramUe_shows s true 0 line
    exact (poison_of_events (events_pfEvent ..) line).trans hp

/-- A Well line as the scrub finds it, before its words are looked at. -/
def wellScrubbed (s : State) (t : Nat) (pa : Nat) (err : LineError) : State :=
  if err = .corrected then s.addFld (.tmemCeCount t) .COUNT 1
  else if err = .uncorrectable || err = .zeroMap then s.setBadWord (pa / 8) true else s

/-- A Well line with a word in error logged, its bank listed, and the host told. -/
def wellLogged (s u : State) (t pa : Nat) : State := ((u.logUe true 0 (pa / 64 * 64)).list 3 0 false t (s.physOf 3 t (wellBank pa))).pfEvent 9

theorem scrubWell_eq (s : State) (t line word : Nat) (err : LineError) : s.scrubWell t line word err =
    (let pa := wellPa t (8 * line + word)
     let u := wellScrubbed s t pa err
     if (List.range 8).any fun i => u.badWord (pa / 64 * 8 + i) then wellLogged u u t pa else u) := rfl

theorem mem_wellScrubbed (s : State) (t pa : Nat) (err : LineError) : (wellScrubbed s t pa err).mem = s.mem := by
  unfold wellScrubbed
  split
  · rfl
  · split <;> rfl

theorem mem_wellLogged (s u : State) (t pa : Nat) : (wellLogged s u t pa).mem = u.mem := by
  rw [wellLogged, mem_of_events (events_pfEvent ..), mem_of_list, mem_of_events (events_logUe ..)]

theorem mem_scrubWell (s : State) (t line word : Nat) (err : LineError) : (s.scrubWell t line word err).mem = s.mem := by
  rw [scrubWell_eq]
  dsimp only
  split
  · rw [mem_wellLogged, mem_wellScrubbed]
  · exact mem_wellScrubbed ..

/-- A Well line with a word found uncorrectable is logged in its tile. -/
theorem valid_scrubWell (s : State) (t : TileId) {line : Nat} (hl : line < 393216) (word : Fin 8) :
    (s.scrubWell t line word .uncorrectable).flag (.tmemUeLog t) .VALID = true := by
  have ht := t.isLt
  have hw := word.isLt
  have hword : wellPa t (8 * line + word) / 8 = wellPa t (8 * line + word) / 64 * 8 + word := by simp only [wellPa, wellBase]; omega
  have htile : tileOfPa (wellPa t (8 * line + word) / 64 * 64) = t := by
    rw [tileOfPa, if_neg (by rw [isDram_iff]; simp only [wellPa, wellBase]; omega)]
    simp only [wellPa, wellBase]; omega
  have hany : ((List.range 8).any fun i => (wellScrubbed s t (wellPa t (8 * line + word)) .uncorrectable).badWord
      (wellPa t (8 * line + word) / 64 * 8 + i)) = true := by
    refine List.any_eq_true.mpr ⟨word, List.mem_range.mpr hw, ?_⟩
    rw [← hword]
    exact badWord_setBadWord_same ..
  rw [scrubWell_eq]
  dsimp only
  rw [if_pos hany]
  refine (flag_congr (reg_pfEvent_spared _ (spared_tmemUeLog ht) (by decide)) _).trans ((flag_congr (reg_list ..) _).trans ?_)
  have hvalid := valid_logUe (wellScrubbed s t (wellPa t (8 * line + word)) .uncorrectable) true 0 (wellPa t (8 * line + word) / 64 * 64)
  rw [htile] at hvalid
  exact hvalid

theorem mem_setScrub (s : State) (t p : Nat) : (s.setScrub t p).mem = s.mem := rfl
theorem poisoned_setScrub (s : State) (t p l : Nat) : (s.setScrub t p).poisoned l = s.poisoned l := rfl
theorem flag_setScrub (s : State) (t p : Nat) (r : Reg) (f : FName) : (s.setScrub t p).flag r f = s.flag r f := rfl

theorem mem_scrubbed : (scrubbed s t err word).mem = s.mem := by
  unfold scrubbed
  split
  · exact mem_scrubDram ..
  · exact mem_scrubWell ..

end Scrub

end Sys2Proof.Proofs
end

section
/-!
The commands on lines, on Well words and of the scrub, put together.
-/
namespace Sys2Proof.Proofs
open Sys2Proof.Machine Sys2Proof.Laws Sys2Proof.Claims

section Parts
variable {s : State}

theorem bytesAt_send (s : State) (o : Output) (a n : Nat) : (s.send o).bytesAt a n = s.bytesAt a n := rfl
theorem mem_send (s : State) (o : Output) : (s.send o).mem = s.mem := rfl
theorem poisoned_send (s : State) (o : Output) (l : Nat) : (s.send o).poisoned l = s.poisoned l := rfl
theorem flag_send (s : State) (o : Output) (r : Reg) (f : FName) : (s.send o).flag r f = s.flag r f := rfl
theorem fld_send (s : State) (o : Output) (r : Reg) (f : FName) : (s.send o).fld r f = s.fld r f := rfl
theorem byteAt_send (s : State) (o : Output) (b : Nat) : (s.send o).byteAt b = s.byteAt b := rfl
theorem core_send (s : State) (o : Output) (n : Nat) : (s.send o).core n = s.core n := rfl
theorem readFails_aperture (s : State) (c : Option Ctx) : s.readFails (.aperture c) = s := rfl
theorem writeFails_aperture (s : State) (c : Option Ctx) : s.writeFails (.aperture c) = s := rfl

/-- A line that a die owns is supplied by it and no longer owned. -/
theorem dramRead_owned {a : MemAgent} {line : BitVec 32} (ho : s.ownedLine line.toNat = true) (err : LineError) :
    ∃ t, exec (.dramRead a line err) s = .next t ∧ t.outbox = s.outbox ++ [.memReply (line.toNat * 64) 0 (s.bytesAt (line.toNat * 64) 64)] ∧
      t.mem = s.mem ∧ t.ownedLine line.toNat = false := by
  obtain ⟨hmem, hout⟩ := snoopRead_same s line.toNat
  refine ⟨_, exec_dramRead_owned ho err, ?_, hmem, ownedLine_snoopRead_same s line.toNat⟩
  rw [outbox_send, hout, bytesAt_of_mem hmem]

section Home
variable {line : BitVec 32} (hp : s.poisoned line.toNat = false) (ho : s.ownedLine line.toNat = false)
include hp ho

theorem dramRead_data (a : MemAgent) {err : LineError} (herr : err = .clean ∨ err = .corrected) : ∃ t, exec (.dramRead a line err) s = .next t ∧
    t.outbox = s.outbox ++ [.memReply (line.toNat * 64) 0 (s.bytesAt (line.toNat * 64) 64)] ∧ t.mem = s.mem ∧
    t.fld (.tmemCeCount (tileOfPa (line.toNat * 64))) .COUNT =
      (s.fld (.tmemCeCount (tileOfPa (line.toNat * 64))) .COUNT + if err = .corrected then 1 else 0) % 2 ^ 64 := by
  obtain ⟨hpoison, howned, hout⟩ := lineChecked_same s ((s.agentCtx a).getD 0) line.toNat herr
  obtain ⟨hmem', hout', hreg'⟩ := readLine_clean_shows (c := s.agentCtx a) (line_isDram line) ((hpoison _).trans hp) ((howned _).trans ho)
  have hmem := hmem'.trans (mem_lineChecked s false ((s.agentCtx a).getD 0) line.toNat err)
  refine ⟨_, exec_dramRead_data hp ho herr, ?_, hmem, ?_⟩
  · dsimp only
    rw [outbox_send, hout', hout, bytesAt_of_mem hmem]
  · dsimp only
    rw [fld_send]
    exact (fld_congr hreg' _).trans (count_lineChecked s _ _ herr)

theorem dramRead_uncorrectable_aperture (c : Option Ctx) : ∃ t, exec (.dramRead (.aperture c) line .uncorrectable) s = .next t ∧ t.mem = s.mem ∧
    t.outbox = s.outbox ++ [.memReply (line.toNat * 64) 0x12 []] ∧ t.poisoned line.toNat = true ∧
    t.flag (.tmemUeLog (tileOfPa (line.toNat * 64))) .VALID = true ∧
    (s.perm.defects.length < 4096 → Listed t 4 (tileOfPa (line.toNat * 64))) := by
  have hexec := exec_dramRead_uncorrectable (a := .aperture c) hp ho
  rw [readFails_aperture] at hexec
  obtain ⟨hmem, hout, hpoison, hflag, -, -⟩ := dramUe_shows s false ((s.agentCtx (.aperture c)).getD 0) line.toNat
  refine ⟨_, hexec, hmem, ?_, hpoison, hflag, fun hl => (listed_dramUe s false _ line hl).onward (onward_send ..)⟩
  rw [outbox_send, hout]

theorem dramRead_uncorrectable_nib {n : CoreId} (hr : (s.core n).st = .running) (hs : (s.core n).stores = [])
    (hv : s.flag (.ctxwNibExc (s.ctxOf n)) .VALID = false) :
    ∃ t, exec (.dramRead (.nib n) line .uncorrectable) s = .next t ∧ t.fld (.ctxwNibExc (s.ctxOf n)) .CAUSE = 0x07 := by
  obtain ⟨-, -, -, -, hcore, hreg⟩ := dramUe_shows s false ((s.agentCtx (.nib n)).getD 0) line.toNat
  have hlog := addr_tmemUeLog (tileOfPa (line.toNat * 64))
  have hexc : (Reg.ctxwNibExc (s.ctxOf n)).addr = 0x3800000 + s.ctxOf n * 0x10000 + 0x418 := rfl
  have hctx : ((s.dramUe false ((s.agentCtx (.nib n)).getD 0) (line.toNat * 64)).send (.memReply (line.toNat * 64) 0x12 [])).ctxOf n = s.ctxOf n :=
    fld_congr ((reg_send ..).trans (hreg _ (by rw [hlog, addr_coreReg]; omega))) .CTX
  refine ⟨_, exec_dramRead_uncorrectable hp ho, ?_⟩
  rw [← hctx]
  refine readFails_nib_cause (by rw [core_send, hcore]; exact hr) (by rw [core_send, hcore]; exact hs) ?_
  rw [hctx, flag_send]
  exact (flag_congr (hreg _ (by rw [hlog, hexc]; omega)) _).trans hv

end Home

/-! ### Writes -/

theorem dramFullLineWrite_stores (a : MemAgent) (line : BitVec 32) (mcomp : Bool) (data : W512) (s : State) :
    ∃ t, exec (.dramFullLineWrite a line mcomp data .clean) s = .next t ∧ t.poisoned line.toNat = false ∧
      t.bytesAt (line.toNat * 64) 64 = toBytes 64 data.toNat ∧ Output.memReply (line.toNat * 64) 0 [] ∈ t.outbox := by
  have hlen : (cellsFrom (line.toNat * 64) (toBytes 64 data.toNat)).length = 64 := (length_cellsFrom ..).trans (length_toBytes ..)
  have hpa : line.toNat * 64 / 64 = line.toNat := Nat.mul_div_cancel _ (by decide)
  refine ⟨_, exec_dramFullLineWrite_clean mcomp data, ?_, ?_, mem_outbox_send ..⟩
  · rw [writeDramLine_whole s _ mcomp _ hlen, poisoned_send, poisoned_setZeroMap, poisoned_setPoison_same]
  · rw [writeDramLine_whole s _ mcomp _ hlen, bytesAt_send]
    have hstored := lineStored_shows (s := s) (pa := line.toNat * 64) (bs := toBytes 64 data.toNat)
      ((homed_setPoison _ line.toNat false).trans (homed_setZeroMap _ line.toNat
        (mcomp && (cellsFrom (line.toNat * 64) (toBytes 64 data.toNat)).all fun x => x.2 = 0)))
    rw [hpa, length_toBytes] at hstored
    exact hstored.1

section Partial
variable {a : MemAgent} {line : BitVec 32} {off : Fin 64} {data : List Byte} (hd : data ≠ []) (hl : off.val + data.length ≤ 64)
  (h64 : data.length ≠ 64)
include hd hl h64

theorem dramPartialWrite_stores (hp : s.poisoned line.toNat = false) : ∃ t, exec (.dramPartialWrite a line off data .clean) s = .next t ∧
    t.bytesAt (line.toNat * 64 + off.val) data.length = data ∧
    (∀ b, (b < line.toNat * 64 + off.val ∨ line.toNat * 64 + off.val + data.length ≤ b) → t.byteAt b = s.byteAt b) ∧
    Output.memReply (line.toNat * 64) 0 [] ∈ t.outbox := by
  have hpa : (line.toNat * 64 + off.val) / 64 = line.toNat := by omega
  have hclean : ((s.dropLine line.toNat).dropLine line.toNat).poisoned line.toNat = false := by
    rw [poisoned_dropLine_twice, hp, Bool.false_and]
  have hexec := exec_dramPartialWrite_clean (s := s) (a := a) (line := line) hd hl h64
  dsimp only at hexec
  rw [writeDramLine_part _ _ _ _ (by rwa [length_cellsFrom]) hclean, if_pos rfl] at hexec
  have hstored := lineStored_shows (s := s.dropLine line.toNat) (pa := line.toNat * 64 + off.val) (bs := data) (homed_setZeroMap _ line.toNat false)
  rw [hpa] at hstored
  obtain ⟨hbytes, hrest, -, -⟩ := hstored
  obtain ⟨hmem, -⟩ := dropLine_same s line.toNat
  exact ⟨_, hexec, (bytesAt_send ..).trans hbytes, fun b hb => (byteAt_send ..).trans ((hrest b hb).trans (congrArg (smGet _ · b) hmem)),
    mem_outbox_send ..⟩

theorem dramPartialWrite_poisoned (hp : s.poisoned line.toNat = true) (hc : ∀ e ∈ s.dir, e.line = line.toNat → e.dirty = false) (c : Option Ctx) :
    ∃ t, exec (.dramPartialWrite (.aperture c) line off data .clean) s = .next t ∧ t.mem = s.mem ∧
      Output.memReply (line.toNat * 64) 0x12 [] ∈ t.outbox := by
  have hheld : heldDirty s line.toNat = false := Bool.eq_false_iff.mpr fun h => by
    obtain ⟨e, he, hline, hdirty⟩ := heldDirty_iff.mp h
    exact absurd (hc e he hline) (by simp [hdirty])
  have hbad : ((s.dropLine line.toNat).dropLine line.toNat).poisoned line.toNat = true := by
    rw [poisoned_dropLine_twice, hp, hheld]; rfl
  have hexec := exec_dramPartialWrite_clean (s := s) (a := .aperture c) (line := line) hd hl h64
  dsimp only at hexec
  rw [writeDramLine_poisoned _ _ _ _ (by rwa [length_cellsFrom]) hbad, if_neg Bool.false_ne_true, writeFails_aperture] at hexec
  obtain ⟨hmem, -⟩ := dropLine_same s line.toNat
  obtain ⟨hmem', -⟩ := dropLine_same (s.dropLine line.toNat) line.toNat
  exact ⟨_, hexec, (mem_send ..).trans ((mem_of_events (events_logUe ..)).trans (hmem'.trans hmem)), mem_outbox_send ..⟩

end Partial

/-! ### Well words -/

section Well
variable {a : MemAgent} {t : TileId} {word : BitVec 22} (h : 8 * word.toNat < 0x1800000)
include h

theorem wellAccess_uncorrectable : ∃ u, exec (.wellAccess a t word .read .uncorrectable) s = .next u ∧
    Output.memReply (wellPa t word.toNat) 0x12 [] ∈ u.outbox ∧
    (s.perm.defects.length < 4096 → s.physOf 3 t (wellBank (wellPa t word.toNat)) < 64 → Listed u 3 t) := by
  refine ⟨_, exec_wellAccess_uncorrectable h, (onward_readFails _ a).sent.subset (mem_outbox_send ..), fun hl hp => ?_⟩
  have hlisted := listed_wellUe (s.setBadWord (wellPa t word.toNat / 8) true) (s.agentCtx a) (pa := wellPa t word.toNat) hl
    (by rw [tileOfPa_wellPa]; exact t.isLt) (by rw [tileOfPa_wellPa]; exact hp)
  rw [tileOfPa_wellPa] at hlisted
  exact hlisted.onward ((onward_send ..).trans (onward_readFails ..))

theorem wellAccess_stores {off : Fin 8} {data : List Byte} (hd : data ≠ []) (hl : off.val + data.length ≤ 8)
    (hb : s.badWord (wellPa t word.toNat / 8) = false) (hring : s.ringAt (wellPa t word.toNat + off) = none) :
    ∃ u, exec (.wellAccess a t word (.write off data) .clean) s = .next u ∧ u.bytesAt (wellPa t word.toNat + off) data.length = data ∧
      ∀ b, (b < wellPa t word.toNat + off.val ∨ wellPa t word.toNat + off.val + data.length ≤ b) → u.byteAt b = s.byteAt b := by
  obtain ⟨hexec, hmem⟩ := exec_wellAccess_write (a := a) h hd hl hb hring
  refine ⟨_, hexec, ?_, fun b hb => ?_⟩
  · rw [bytesAt_send, bytesAt_of_mem hmem, bytesAt_putCells_cellsFrom]
  · rw [byteAt_send]
    exact (congrArg (smGet _ · b) hmem).trans (byteAt_putCells_outside _ _ _ hb)

end Well

/-! ### The scrub -/

theorem scrubLine_on {t : TileId} {err : LineError} {word : Fin 8} (h : s.fld (.tmemScrub t) .PERIOD_MIN ≠ 0) :
    ∃ u, exec (.scrubLine t err word) s = .next u ∧ u.scrubAt t = (s.scrubAt t + 1) % (2 ^ 27 + 393216) ∧ u.mem = s.mem ∧
      (s.scrubAt t < 2 ^ 27 → err = .uncorrectable → u.poisoned (t.val * 2 ^ 27 + s.scrubAt t) = true) ∧
      (2 ^ 27 ≤ s.scrubAt t → s.scrubAt t < 2 ^ 27 + 393216 → err = .uncorrectable → u.flag (.tmemUeLog t) .VALID = true) := by
  refine ⟨_, exec_scrubLine_on h, scrubAt_setScrub_same .., (mem_setScrub ..).trans mem_scrubbed, fun hp he => ?_, fun hlo hhi he => ?_⟩
  · rw [poisoned_setScrub, scrubbed, if_pos hp, he]
    exact poisoned_scrubDram ..
  · rw [flag_setScrub, scrubbed, if_neg (by omega), he]
    exact valid_scrubWell s t (by omega) word

end Parts

/-- Settles O39: each command by the line it meets. -/
theorem lineAccessesAndScrub : Obligations.LineAccessesAndScrub := by
  unfold Obligations.LineAccessesAndScrub
  refine ⟨fun a line s ho err => dramRead_owned ho err, ?_, fun a line mcomp data s _ => dramFullLineWrite_stores a line mcomp data s, ?_, ?_,
    fun t err word s => ⟨exec_scrubLine_off, scrubLine_on⟩, fun t p s => ⟨_, rfl, ?_, rfl⟩⟩
  · intro a line s hp ho l
    refine ⟨fun _ err herr => dramRead_data hp ho a herr, ?_, ?_⟩
    · rintro _ ⟨c, rfl⟩
      exact dramRead_uncorrectable_aperture hp ho c
    · rintro _ n rfl hr hs _ hv
      exact dramRead_uncorrectable_nib hp ho hr hs hv
  · intro a line off data s hd hl h64 pa
    refine ⟨dramPartialWrite_stores hd hl h64, ?_⟩
    rintro hp hc ⟨c, rfl⟩
    exact dramPartialWrite_poisoned hd hl h64 hp hc c
  · intro a t word s pa
    exact ⟨exec_wellAccess_unmapped, fun h => ⟨exec_wellAccess_read h, wellAccess_uncorrectable h, fun off data => wellAccess_stores h⟩⟩
  · exact (fld_setFld s (.tmemScrub t) .PERIOD_MIN p.toNat).trans (Nat.mod_eq_of_lt p.isLt)

end Sys2Proof.Proofs
end

section
/-!
What the instructions of a Nib core share: the body that an instruction runs, the stores that drain before it goes on, an exception, and what a
wake leaves (R110, R130, R131, R135, R147, R153).
-/
namespace Sys2Proof.Proofs
open Sys2Proof.Machine Sys2Proof.Laws Sys2Proof.Claims

/-! ### The body of an instruction -/

section Executed
variable {s s1 : State} {n : CoreId} (hx : Executes s s1 n)
include hx

/-- A command that is one step of a core that executes is its body. -/
theorem exec_of_nibStep {i : Instr} {body : State → NibCore → State} (hi : exec i s = .next (s.nibStep n body)) :
    exec i s = .next (body s1 (s1.core n)) := hi.trans (congrArg _ (nibStep_of_executes hx body))

/-- An instruction that is reserved unless ok. -/
theorem nibGuarded_of_executes {ok : Bool} (hok : ok = true) (f : NibCore → NibCore) :
    nibGuarded n ok f s = .next (finished s1 n (f (s1.core n))) := by
  subst hok
  exact congrArg _ (nibStep_of_executes hx _)

end Executed

/-- A core that can step once its stores have drained goes on with them drained. -/
theorem released_of_canStep {s : State} {n : Nat} (h : (s.drainAll n).canStep n = true) (f : State → NibCore → State) :
    s.released n f = f (s.drainAll n) ((s.drainAll n).core n) := if_pos h

/-! ### Exceptions (R130, R131) -/

/-- With no store to drain, an exception of a running core is its handler's or stops it. -/
theorem nibException_of_running {s : State} {n : Nat} (hs : (s.core n).stores = []) (hr : (s.core n).st = .running) (cause ea : Nat) :
    let k := s.core n
    s.nibException n cause ea =
      if k.evec ≠ 0 ∧ cause ≠ 7 ∧ k.handler = false then
        s.setCore n { k with handler := true, epc := k.pc, ecause := BitVec.ofNat 8 cause, eaddr := BitVec.ofNat 48 ea, pc := k.evec }
      else s.nibStop n cause k.pc k.handler := by
  unfold State.nibException
  rw [drainAll_nil s hs]
  exact if_congr (by simp [hr, and_assoc]) rfl rfl

/-! ### Wakes (R147) -/

theorem core_nibWake (s : State) (n : Nat) : (s.nibWake n).core n = { s.core n with st := .running, wait := .none } :=
  core_setCore_same s n { s.core n with st := .running, wait := .none }

theorem core_wakeWith (s : State) (n : Nat) (f : NibCore → NibCore) :
    (s.wakeWith n f).core n = (f { s.core n with st := .running, wait := .none }).advance := by
  rw [← core_nibWake s n]
  exact core_setCore_same ..

theorem not_mem_waiting_nibWake (s : State) (n : Nat) : Agent.nib n ∉ (s.nibWake n).waiting := by
  simp [State.nibWake, List.mem_filter]

/-- A core that goes on has no place among the waiters any more. -/
theorem not_mem_waiting_wakeWith (s : State) (n : Nat) (f : NibCore → NibCore) : Agent.nib n ∉ (s.wakeWith n f).waiting :=
  not_mem_waiting_nibWake s n

end Sys2Proof.Proofs
end

section
/-!
Exceptions of a core, TRAP and the reserved encodings (R130, R131, R153, R155).
-/
namespace Sys2Proof.Proofs
open Sys2Proof.Machine Sys2Proof.Laws Sys2Proof.Claims

section Executed
variable {s s1 : State} {n : CoreId} (hx : Executes s s1 n)
include hx

/-- A load whose address is not aligned to its size (R155). -/
theorem loadOp_misaligned (size : Nat) (signed : Bool) (rd rs1 : SReg) (imm : W32)
    (h : ((s1.core n).sreg rs1 + imm.signExtend 64).toNat % size ≠ 0) :
    loadOp size signed n rd rs1 imm s = .next (s1.nibException n 0x03 (((s1.core n).sreg rs1 + imm.signExtend 64).toNat % 2 ^ 48)) :=
  congrArg _ ((nibStep_of_executes hx _).trans (if_pos h))

/-- A store whose address is not aligned to its size (R155). -/
theorem storeOp_misaligned (size : Nat) (rs1 rs2 : SReg) (imm : W32) (h : ((s1.core n).sreg rs1 + imm.signExtend 64).toNat % size ≠ 0) :
    storeOp size n rs1 rs2 imm s = .next (s1.nibException n 0x03 (((s1.core n).sreg rs1 + imm.signExtend 64).toNat % 2 ^ 48)) :=
  congrArg _ ((nibStep_of_executes hx _).trans (if_pos h))

theorem exec_trap (imm : W32) : exec (.trap n imm) s = .next (s1.nibException n 0x08 0) := (exec_of_nibStep hx rfl).trans rfl

theorem exec_illegalInstruction {w : W64} (hw : reservedWord n w = true) : exec (.illegalInstruction n w) s = .next (s1.nibException n 0x01 0) :=
  congrArg _ ((if_pos hw).trans (nibStep_of_executes hx _))

end Executed

/-- Settles O10: the exception by its branches, and each way to raise one by the body of the command. -/
theorem nibExceptionsEnterHandlerOrStop : Obligations.NibExceptionsEnterHandlerOrStop := by
  unfold Obligations.NibExceptionsEnterHandlerOrStop
  refine ⟨fun s n cause ea hs hr => nibException_of_running hs hr cause ea, fun n s s1 hx =>
    ⟨exec_trap hx, fun w => exec_illegalInstruction hx, fun rd rs1 rs2 imm => ⟨fun h => ?_, fun h => ?_, fun h => ?_⟩⟩⟩
  · exact ⟨loadOp_misaligned hx 2 true rd rs1 imm h, loadOp_misaligned hx 2 false rd rs1 imm h, storeOp_misaligned hx 2 rs1 rs2 imm h⟩
  · exact ⟨loadOp_misaligned hx 4 true rd rs1 imm h, loadOp_misaligned hx 4 false rd rs1 imm h, storeOp_misaligned hx 4 rs1 rs2 imm h⟩
  · exact ⟨loadOp_misaligned hx 8 true rd rs1 imm h, storeOp_misaligned hx 8 rs1 rs2 imm h⟩

end Sys2Proof.Proofs
end

section
/-!
The system instructions of a core (Tables 5-9 and 5-10, R116, R135, R162, R163, R175).
-/
namespace Sys2Proof.Proofs
open Sys2Proof.Machine Sys2Proof.Laws Sys2Proof.Claims

/-- DSTAT takes the low nine bits. -/
theorem specWrite_dstat (k : NibCore) (w : W64) : k.specWrite w .dstat = { k with dstat := BitVec.ofNat 16 (w.toNat % 512) } := by
  have hmask : w.truncate 16 &&& 0x1FF#16 = BitVec.ofNat 16 (w.toNat % 512) := by
    refine BitVec.eq_of_toNat_eq ?_
    rw [BitVec.toNat_and, BitVec.toNat_ofNat, BitVec.toNat_ofNat, BitVec.truncate_eq_setWidth, BitVec.toNat_setWidth]
    rw [show 0x1FF % 2 ^ 16 = 2 ^ 9 - 1 from rfl, Nat.and_two_pow_sub_one_eq_mod]
    omega
  rw [← hmask]; rfl

section Executed
variable {s s1 : State} {n : CoreId} (hx : Executes s s1 n)
include hx

theorem exec_nop : exec (.nop n) s = .next (finished s1 n (s1.core n)) := (exec_of_nibStep hx rfl).trans rfl

theorem exec_mfs (rd : SReg) (sr : SpecReg) :
    exec (.mfs n rd sr) s = .next (finished s1 n ((s1.core n).setS rd (s1.specRead n (s1.core n) sr))) := (exec_of_nibStep hx rfl).trans rfl

theorem exec_mts (rs1 : SReg) {sr : SpecReg} (h : specWritable sr = true) :
    exec (.mts n rs1 sr) s = .next (finished s1 n ((s1.core n).specWrite ((s1.core n).sreg rs1) sr)) := nibGuarded_of_executes hx h _

theorem exec_eret : exec (.eret n) s =
    .next (if (s1.core n).handler then
        s1.setCore n { s1.core n with handler := false, pc := (s1.core n).epc, retired := (s1.core n).retired + 1 }
      else s1.nibException n 0x01 0) := (exec_of_nibStep hx rfl).trans rfl

theorem exec_endProg_in_handler (h : (s1.core n).handler = true) : exec (.endProg n) s = .next (s1.nibException n 0x01 0) :=
  (exec_of_nibStep hx rfl).trans (congrArg _ (if_pos h))

section Drained
variable (hd : (s1.drainAll n).canStep n = true)
include hd

theorem exec_fence : exec (.fence n) s = .next (finished (s1.drainAll n) n ((s1.drainAll n).core n)) :=
  (exec_of_nibStep hx rfl).trans (congrArg _ (released_of_canStep hd _))

theorem exec_ifence : exec (.ifence n) s = .next (finished (s1.drainAll n) n ((s1.drainAll n).core n)) :=
  (exec_of_nibStep hx rfl).trans (congrArg _ (released_of_canStep hd _))

theorem exec_endProg_outside_handler (h : (s1.core n).handler = false) : exec (.endProg n) s = .next ((s1.drainAll n).endRun n) :=
  (exec_of_nibStep hx rfl).trans (congrArg _ ((if_neg (by simp [h])).trans (released_of_canStep hd _)))

end Drained
end Executed

/-- Settles O17: each instruction by its body; FENCE, IFENCE and END by what drains before them. -/
theorem systemInstructions : Obligations.SystemInstructions := by
  unfold Obligations.SystemInstructions
  intro n rd rs1
  refine ⟨fun s s1 hx => exec_nop hx, fun s s1 hx => exec_mts hx rs1 rfl, fun s s1 hx => exec_mts hx rs1 rfl, fun s s1 hx => ?_,
    fun s s1 hx => exec_mfs hx rd .evec, fun s s1 hx => exec_mfs hx rd .epc, fun s s1 hx => exec_mfs hx rd .ecause,
    fun s s1 hx => exec_mfs hx rd .eaddr, fun s s1 hx => exec_mfs hx rd .dstat, fun s s1 hx => exec_mfs hx rd .hmode, fun s s1 hx => ?_⟩
  · rw [exec_mts hx rs1 rfl, specWrite_dstat]
  · exact ⟨exec_mfs hx rd .coreid, exec_mfs hx rd .cycle, exec_eret hx, exec_endProg_in_handler hx,
      fun hd => ⟨exec_fence hx hd, exec_ifence hx hd, exec_endProg_outside_handler hx hd⟩⟩

end Sys2Proof.Proofs
end

section
/-!
DISPATCH: how it is judged, and what each answer leaves (R117, R164, Table 4-4).
-/
namespace Sys2Proof.Proofs
open Sys2Proof.Machine Sys2Proof.Laws Sys2Proof.Claims

/-! ### The judgement (R117) -/

section Judge
variable {s : State} {c : Nat} {target : W64} {crec : Bool} {kn : Option Nat}

theorem judge_of_no_unit (h : targetOf target = none) : s.judge c target crec kn = .notOwned := by
  unfold State.judge
  rw [h]

variable {t : Target} (ht : targetOf target = some t)
include ht

/-- A dispatch to a unit: the allocation and the knot first, then the queue, then the slot. -/
theorem judge_unit : s.judge c target crec kn =
    if !s.ownsUnit c t || !kn.all (s.knotOwned c) then .notOwned else if !s.queueRoom t then .queueFull
    else if crec && !s.nextSlotFree c then .slotBusy else .go t := by
  unfold State.judge
  rw [ht]
  cases kn <;> rfl

theorem judge_notOwned (h : s.ownsUnit c t = false ∨ kn.all (s.knotOwned c) = false) : s.judge c target crec kn = .notOwned := by
  rw [judge_unit ht, if_pos (by simpa using h)]

variable (ho : s.ownsUnit c t = true) (hk : kn.all (s.knotOwned c) = true)
include ho hk

theorem judge_queueFull (h : s.queueRoom t = false) : s.judge c target crec kn = .queueFull := by
  rw [judge_unit ht, if_neg (by simp [ho, hk]), if_pos (by simp [h])]

variable (hr : s.queueRoom t = true)
include hr

theorem judge_slotBusy (hc : crec = true) (h : s.nextSlotFree c = false) : s.judge c target crec kn = .slotBusy := by
  rw [judge_unit ht, if_neg (by simp [ho, hk]), if_neg (by simp [hr]), if_pos (by simp [hc, h])]

theorem judge_go (h : crec = true → s.nextSlotFree c = true) : s.judge c target crec kn = .go t := by
  rw [judge_unit ht, if_neg (by simp [ho, hk]), if_neg (by simp [hr]), if_neg (by simpa using h)]

end Judge

/-! ### The answer -/

/-- What DISPATCH of core n leaves of s, by the judgement. -/
def dispatchAnswer (s : State) (n : Nat) (rd : SReg) (target desc : W64) (crec wait : Bool) (kn : Option Nat) : DispatchRes → State
  | .notOwned => s.refuseDispatch n (s.core n) rd 0x010#16
  | .go t => s.acceptOn n rd t desc crec kn
  | .queueFull => if wait then s.nibWait n (.dispatch rd target desc crec wait kn) else s.refuseDispatch n (s.core n) rd 0x014#16
  | .slotBusy =>
    if wait || s.flag (.ctxwCmplStat (s.ctxOf n)) .INIT then s.nibWait n (.dispatch rd target desc crec wait kn)
    else s.refuseDispatch n (s.core n) rd 0x114#16

/-- DISPATCH with a knot field that is not reserved is judged once the older stores have drained. -/
theorem exec_dispatch {s s1 : State} {n : CoreId} (hx : Executes s s1 n) (rd rs1 rs2 : SReg) (crec wait : Bool) {ken : Bool} {knot : BitVec 12}
    (hk : ken = true ∨ knot = 0) (hd : (s1.drainAll n).canStep n = true) :
    let s2 := s1.drainAll n
    let target := (s1.core n).sreg rs1
    let kn := if ken then some knot.toNat else none
    exec (.dispatch n rd rs1 rs2 crec wait ken knot) s =
      .next (dispatchAnswer s2 n rd target ((s1.core n).sreg rs2) crec wait kn (s2.judge (s2.ctxOf n) target crec kn)) := by
  have hknot : ¬ (!ken && decide (knot ≠ 0)) = true := by obtain h | h := hk <;> simp [h]
  exact (exec_of_nibStep hx rfl).trans (congrArg _ ((if_neg hknot).trans (released_of_canStep hd _)))

/-- An accepted dispatch that faults no context: rd takes the handle. -/
theorem acceptOn_of_canStep {s : State} {n : Nat} {t : Target} {desc : W64} {crec : Bool} {kn : Option Nat}
    (h : (s.accept (s.ctxOf n) t desc crec kn).1.canStep n = true) (rd : SReg) :
    let r := s.accept (s.ctxOf n) t desc crec kn
    s.acceptOn n rd t desc crec kn = r.1.nibDone n ((r.1.core n).setS rd r.2) := if_pos h

/-- The handle of an allocated record is the context's next sequence number. -/
theorem handle_allocRecord (s : State) (c engine tile unit : Nat) : (s.allocRecord c engine tile unit).2 = BitVec.ofNat 64 (s.nextSeq c) := rfl

/-- Settles O18: the judgement decides the answer. -/
theorem dispatchIsJudgedInOrder : Obligations.DispatchIsJudgedInOrder := by
  unfold Obligations.DispatchIsJudgedInOrder
  intro n rd rs1 rs2 crec wait ken knot s s1 hx hken hd s2 k c target desc kn waits refuses goes
  have hgoes : ∀ r, s2.judge c target crec kn = r → goes = .next (dispatchAnswer s2 n rd target desc crec wait kn r) := fun r hr =>
    hr ▸ exec_dispatch hx rd rs1 rs2 crec wait hken hd
  refine ⟨fun ht => hgoes _ (judge_of_no_unit ht), fun t ht => ⟨fun h => hgoes _ (judge_notOwned ht ?_), fun ho hk => ?_⟩⟩
  · obtain h | ⟨hke, h⟩ := h
    · exact .inl h
    · exact .inr (by simp [kn, hke, h])
  · have hall : kn.all (s2.knotOwned c) = true := by
      cases hke : ken
      · simp [kn, hke]
      · simpa [kn, hke] using hk hke
    refine ⟨fun hq => (hgoes _ (judge_queueFull ht ho hall hq)).trans (apply_ite _ _ _ _), fun hq hc hf =>
      (hgoes _ (judge_slotBusy ht ho hall hq hc hf)).trans (apply_ite _ _ _ _), fun hq hf => ?_⟩
    intro r w s3
    refine ⟨?_, fun hstep => (hgoes _ (judge_go ht ho hall hq hf)).trans (congrArg _ (acceptOn_of_canStep hstep rd))⟩
    unfold r
    split
    · exact handle_allocRecord ..
    · rfl

end Sys2Proof.Proofs
end

section
/-!
CREAD, CWAIT and CRETIRE: the record of a handle, the slot's or the STALE one (R121, R123, R124, R166, R167).
-/
namespace Sys2Proof.Proofs
open Sys2Proof.Machine Sys2Proof.Laws Sys2Proof.Claims

/-! ### The STALE record (R123) -/

/-- The record of a handle that no slot holds: SEQ the handle, STATUS STALE, READY 1. -/
def staleRecord (h : W64) : List Byte := toBytes 8 h.toNat ++ ([2#8, 1#8] ++ List.replicate 22 0#8)

theorem recQuad_staleRecord_zero (h : W64) : recQuad (staleRecord h) 0 = h := by
  rw [recQuad, staleRecord, Nat.mul_zero, List.drop_zero, List.take_left' (length_toBytes ..), ofBytes_toBytes,
    Nat.mod_eq_of_lt h.isLt, BitVec.ofNat_toNat, BitVec.setWidth_eq]

theorem recQuad_staleRecord_succ (h : W64) (i : Nat) : recQuad (staleRecord h) (i + 1) = recQuad ([2#8, 1#8] ++ List.replicate 22 0#8) i := by
  have hdrop : (staleRecord h).drop (8 * (i + 1)) = ([2#8, 1#8] ++ List.replicate 22 0#8).drop (8 * i) := by
    rw [Nat.mul_succ, Nat.add_comm, ← List.drop_drop, staleRecord, List.drop_left' (length_toBytes ..)]
  rw [recQuad, hdrop, recQuad]

theorem recQuad_staleRecord (h : W64) (sel : BitVec 2) :
    recQuad (staleRecord h) sel.toNat = if sel = 0 then h else if sel = 1 then 0x102 else 0 := by
  match sel with
  | 0#2 => exact recQuad_staleRecord_zero h
  | 1#2 => exact (recQuad_staleRecord_succ h 0).trans rfl
  | 2#2 => exact (recQuad_staleRecord_succ h 1).trans rfl
  | 3#2 => exact (recQuad_staleRecord_succ h 2).trans rfl

theorem recReady_staleRecord (h : W64) : recReady (staleRecord h) = true := by
  rw [recReady, staleRecord, List.getD_append_right _ _ _ _ (by simp)]
  simp

/-! ### The record of a handle -/

/-- Does the slot of a handle not hold it, or the handle name no record? -/
def Stale (s : State) (c : Nat) (h : W64) : Prop :=
  (h = 0 ∨ h = BitVec.allOnes 64) ∨ ofBytes ((s.bytesAt (s.slotPa c h.toNat) 32).take 8) ≠ h.toNat

/-- Staleness as the model's functions test it. -/
theorem stale_iff {s : State} {c : Nat} {h : W64} : (decide (h = 0) || decide (h = BitVec.allOnes 64) ||
    decide (ofBytes ((s.bytesAt (s.slotPa c h.toNat) 32).take 8) ≠ h.toNat)) = true ↔ Stale s c h := by
  simp only [Stale, Bool.or_eq_true, decide_eq_true_eq]

theorem recordOf_of_stale {s : State} {c : Nat} {h : W64} (hs : Stale s c h) : s.recordOf c h = staleRecord h :=
  (if_pos (stale_iff.mpr hs)).trans (List.append_assoc ..)

theorem recordOf_of_held {s : State} {c : Nat} {h : W64} (hs : ¬ Stale s c h) : s.recordOf c h = s.bytesAt (s.slotPa c h.toNat) 32 :=
  if_neg (stale_iff.not.mpr hs)

/-- A handle of no record, or one whose slot is not in error, has a record to read. -/
theorem withSlot_of_sound {s : State} {n : Nat} {h : W64} (hok : (h = 0 ∨ h = BitVec.allOnes 64) ∨ s.slotBad (s.ctxOf n) h = none)
    (bad f : State → State) : s.withSlot n h bad f = f s := by
  unfold State.withSlot
  split
  case isTrue => rfl
  case isFalse hn => rw [hok.resolve_left (by simpa using hn)]

/-! ### The instructions -/

/-- What CRETIRE leaves on a slot of a state that holds its handle. -/
def retireAnswer (s : State) (n : Nat) (rd : SReg) (pa : Nat) : SlotState → State
  | .complete => finished (s.freeSlot (s.ctxOf n) pa) n ((s.core n).setS rd 0)
  | .pending => finished s n ((s.core n).setS rd 1)
  | .free => finished s n ((s.core n).setS rd 2)

section Executed
variable {s s1 : State} {n : CoreId} (hx : Executes s s1 n) {rs1 : SReg}
  (hok : ((s1.core n).sreg rs1 = 0 ∨ (s1.core n).sreg rs1 = BitVec.allOnes 64) ∨ s1.slotBad (s1.ctxOf n) ((s1.core n).sreg rs1) = none)
include hx hok

theorem exec_cread (rd : SReg) (sel : BitVec 2) : exec (.cread n rd rs1 sel) s =
    .next (finished s1 n ((s1.core n).setS rd (recQuad (s1.recordOf (s1.ctxOf n) ((s1.core n).sreg rs1)) sel.toNat))) :=
  (exec_of_nibStep hx rfl).trans (congrArg _ (withSlot_of_sound hok _ _))

theorem exec_cwait (rd : SReg) : let r := s1.recordOf (s1.ctxOf n) ((s1.core n).sreg rs1)
    exec (.cwait n rd rs1) s = .next (if recReady r then finished s1 n ((s1.core n).setS rd (recQuad r 1))
      else s1.nibWait n (.cwait rd ((s1.core n).sreg rs1))) :=
  (exec_of_nibStep hx rfl).trans (congrArg _ (withSlot_of_sound hok _ _))

theorem exec_cretire_stale (rd : SReg) (hs : Stale s1 (s1.ctxOf n) ((s1.core n).sreg rs1)) :
    exec (.cretire n rd rs1) s = .next (finished s1 n ((s1.core n).setS rd 2)) := by
  refine (exec_of_nibStep hx rfl).trans (congrArg _ ((withSlot_of_sound hok _ _).trans ?_))
  exact if_pos (stale_iff.mpr hs)

theorem exec_cretire_held (rd : SReg) (hs : ¬ Stale s1 (s1.ctxOf n) ((s1.core n).sreg rs1)) :
    let pa := s1.slotPa (s1.ctxOf n) ((s1.core n).sreg rs1).toNat
    exec (.cretire n rd rs1) s = .next (retireAnswer s1 n rd pa (slotState (s1.bytesAt pa 32))) := by
  refine (exec_of_nibStep hx rfl).trans (congrArg _ ((withSlot_of_sound hok _ _).trans ?_))
  exact if_neg (stale_iff.not.mpr hs)

end Executed

/-- Settles O19: the record of the handle decides each instruction. -/
theorem completionInstructions : Obligations.CompletionInstructions := by
  unfold Obligations.CompletionInstructions
  intro n rd rs1 sel s s1 hx k c h pa slot none' stale hok
  refine ⟨fun hs => ?_, fun hs => ?_⟩
  · have hrec : s1.recordOf c h = staleRecord h := recordOf_of_stale hs
    refine ⟨?_, ?_, exec_cretire_stale hx hok rd hs⟩
    · rw [exec_cread hx hok, hrec, recQuad_staleRecord]
    · rw [exec_cwait hx hok, hrec, if_pos (recReady_staleRecord h), recQuad_staleRecord_succ]
      rfl
  · intro q
    have hrec : s1.recordOf c h = slot := recordOf_of_held hs
    have hretire := exec_cretire_held hx hok rd hs
    refine ⟨?_, ?_, fun hst => ?_, fun hst => ?_, fun hst => ?_⟩
    · rw [exec_cread hx hok, hrec]; rfl
    · rw [exec_cwait hx hok, hrec]
      rfl
    all_goals exact hretire.trans (by rw [hst]; rfl)

end Sys2Proof.Proofs
end

section
/-!
The operations of a knot, and the KNOT instructions (R168, R169, R177, R255, Table 5-14).
-/
namespace Sys2Proof.Proofs
open Sys2Proof.Machine Sys2Proof.Laws Sys2Proof.Claims

/-! ### The registers of a knot -/

theorem knotCfg_ne_knotVal (j k : Nat) : (knotCfg j).addr ≠ (knotVal k).addr := by
  have hc : (knotCfg j).addr = 0x1000000 + j / 128 * 0x100000 + 0x12000 + 16 * (j % 128) := rfl
  have hv : (knotVal k).addr = 0x1000000 + k / 128 * 0x100000 + 0x12008 + 16 * (k % 128) := rfl
  omega

section Ops
variable (s : State) (k v : Nat)

/-- A change counted in CHANGES leaves the count. -/
theorem knotCount_counted : (s.addFld (knotCfg k) .CHANGES 1).knotCount k = s.knotCount k :=
  fld_setFld_other s _ _ _ (knotCfg_ne_knotVal k k).symm

theorem changes_counted : (s.addFld (knotCfg k) .CHANGES 1).fld (knotCfg k) .CHANGES = (s.fld (knotCfg k) .CHANGES + 1) % 2 ^ 32 :=
  fld_setFld s (knotCfg k) .CHANGES _

theorem saturated_counted : (s.addFld (knotCfg k) .CHANGES 1).flag (knotCfg k) .SATURATED = s.flag (knotCfg k) .SATURATED :=
  flag_congr_fld (fld_setFld_ne s (knotCfg k) _ rfl rfl (by decide))

/-- A count stored reads back modulo 2³², and leaves the other register of the knot. -/
theorem knotCount_setCount : (s.setFld (knotVal k) .COUNT v).knotCount k = v % 2 ^ 32 := fld_setFld s (knotVal k) .COUNT v

theorem reg_knotCfg_setCount : (s.setFld (knotVal k) .COUNT v).reg (knotCfg k) = s.reg (knotCfg k) :=
  reg_setFld_other s _ _ (knotCfg_ne_knotVal k k)

/-! ### KSET (R255) -/

theorem knotCount_knotSet : (s.knotSet k v).knotCount k = v % 2 ^ 32 := knotCount_setCount ..

theorem changes_knotSet : (s.knotSet k v).fld (knotCfg k) .CHANGES = (s.fld (knotCfg k) .CHANGES + 1) % 2 ^ 32 :=
  (fld_congr (reg_knotCfg_setCount ..) _).trans (changes_counted s k)

/-! ### An arrival (R168, R255) -/

/-- An arrival by its sum: stored, or 2³² − 1 with SATURATED. -/
theorem knotAdd_eq : s.knotAdd k v =
    (let t := s.addFld (knotCfg k) .CHANGES 1
     if s.knotCount k + v < 2 ^ 32 then t.setFld (knotVal k) .COUNT (s.knotCount k + v)
     else (t.setFld (knotVal k) .COUNT (2 ^ 32 - 1)).setFlag (knotCfg k) .SATURATED true) := by
  rw [← knotCount_counted s k]
  rfl

theorem knotCount_knotAdd : (s.knotAdd k v).knotCount k = min (s.knotCount k + v) (2 ^ 32 - 1) := by
  rw [knotAdd_eq]
  dsimp only
  split
  case isTrue h => rw [knotCount_setCount]; omega
  case isFalse h =>
    rw [State.knotCount, State.setFlag, fld_setFld_other _ _ _ _ (knotCfg_ne_knotVal k k).symm]
    exact (knotCount_setCount ..).trans (by omega)

theorem changes_knotAdd : (s.knotAdd k v).fld (knotCfg k) .CHANGES = (s.fld (knotCfg k) .CHANGES + 1) % 2 ^ 32 := by
  rw [knotAdd_eq, ← changes_counted s k]
  dsimp only
  split
  · exact fld_congr (reg_knotCfg_setCount ..) _
  · exact (fld_setFlag_ne _ (knotCfg k) true rfl rfl (by decide)).trans (fld_congr (reg_knotCfg_setCount ..) _)

theorem saturated_knotAdd : (s.knotAdd k v).flag (knotCfg k) .SATURATED =
    (s.flag (knotCfg k) .SATURATED || decide (2 ^ 32 ≤ s.knotCount k + v)) := by
  rw [knotAdd_eq, ← saturated_counted s k]
  dsimp only
  split
  case isTrue h => rw [flag_congr (reg_knotCfg_setCount ..), decide_eq_false (by omega), Bool.or_false]
  case isFalse h => rw [flag_setFlag _ _ _ _ rfl, decide_eq_true (by omega), Bool.or_true]

/-! ### One cycle of a knot (R177, R256) -/

/-- The thresholds, sets and arrivals of one cycle, before the threshold event. -/
def knotOps (thrs sets adds : List Nat) : State :=
  adds.foldl (fun s v => s.knotAdd k v) (sets.foldl (fun s v => s.knotSet k v) (thrs.foldl (fun s v => s.setFld (knotVal k) .THRESHOLD v) s))

/-- The threshold event writes no register. -/
theorem regs_knotCycle (thrs sets adds : List Nat) : (s.knotCycle k thrs sets adds).regs = (knotOps s k thrs sets adds).regs := by
  unfold State.knotCycle
  dsimp only
  split <;> rfl

theorem fld_knotCycle (thrs sets adds : List Nat) (r : Reg) (f : FName) :
    (s.knotCycle k thrs sets adds).fld r f = (knotOps s k thrs sets adds).fld r f := by
  rw [State.fld, State.reg, regs_knotCycle, State.fld, State.reg]

theorem arrive_of_owned {c : Nat} (h : s.knotOwned c k = true) : s.arrive c k v = s.knotCycle k [] [] [v] := if_pos h

/-- Setting a core writes no register. -/
theorem fld_nibDone (n : Nat) (c : NibCore) (r : Reg) (f : FName) : (s.nibDone n c).fld r f = s.fld r f := rfl

theorem core_nibDone (n : Nat) (c : NibCore) : (s.nibDone n c).core n = c.advance := core_setCore_same ..

end Ops

/-! ### The instructions -/

theorem knotV_lt (k : NibCore) (rs2 : SReg) (imm20 : BitVec 20) : k.knotV rs2 imm20 < 2 ^ 32 := Nat.mod_lt _ (by decide)

theorem kwaitResult_false (count : Nat) : kwaitResult false count = BitVec.ofNat 64 count := congrArg _ (Nat.zero_add count)

/-- A command on a knot that is the core's context's, or is not. -/
theorem onKnot_of_executes {s s1 : State} {n : CoreId} (hx : Executes s s1 n) (rs1 : SReg) (oimm : BitVec 13) (f : State → NibCore → Nat → State) :
    let i := (s1.core n).knotIndex rs1 oimm
    s.onKnot n rs1 oimm f = if s1.knotOwned (s1.ctxOf n) i then f s1 (s1.core n) i else s1.nibException n 0x01 0 :=
  nibStep_of_executes hx _

section Executed
variable {s s1 : State} {n : CoreId} (hx : Executes s s1 n)
include hx

theorem exec_of_onKnot_foreign {i : Instr} {rs1 : SReg} {oimm : BitVec 13} {f : State → NibCore → Nat → State}
    (hi : exec i s = .next (s.onKnot n rs1 oimm f)) (ho : s1.knotOwned (s1.ctxOf n) ((s1.core n).knotIndex rs1 oimm) = false) :
    exec i s = .next (s1.nibException n 0x01 0) :=
  hi.trans (congrArg _ ((onKnot_of_executes hx ..).trans (if_neg (by simp [ho]))))

variable {rs1 : SReg} {oimm : BitVec 13} (ho : s1.knotOwned (s1.ctxOf n) ((s1.core n).knotIndex rs1 oimm) = true)
include ho

theorem exec_of_onKnot {i : Instr} {f : State → NibCore → Nat → State} (hi : exec i s = .next (s.onKnot n rs1 oimm f)) :
    exec i s = .next (f s1 (s1.core n) ((s1.core n).knotIndex rs1 oimm)) :=
  hi.trans (congrArg _ ((onKnot_of_executes hx ..).trans (if_pos ho)))

theorem exec_kread (rd : SReg) : exec (.kread n rd rs1 oimm) s =
    .next (finished s1 n ((s1.core n).setS rd (BitVec.ofNat 64 (s1.knotCount ((s1.core n).knotIndex rs1 oimm))))) :=
  (exec_of_onKnot hx ho rfl).trans rfl

theorem exec_kthr (rs2 : SReg) (imm20 : BitVec 20) : let i := (s1.core n).knotIndex rs1 oimm
    exec (.kthr n rs1 rs2 oimm imm20) s = .next ((s1.knotCycle i [(s1.core n).knotV rs2 imm20] [] []).nibDone n (s1.core n)) :=
  (exec_of_onKnot hx ho rfl).trans rfl

/-- KWAIT whose RS3 is not reserved: the count, the count with TIMEOUT, or the wait. -/
theorem exec_kwait (rd rs2 : SReg) {rs3 : SReg} (imm20 : BitVec 20) {nw : Bool} (hnw : nw = true → rs3 = 0) :
    let k := s1.core n
    let i := k.knotIndex rs1 oimm
    exec (.kwait n rd rs1 rs2 rs3 nw oimm imm20) s = .next (
      if k.knotV rs2 imm20 ≤ s1.knotCount i then finished s1 n (k.setS rd (kwaitResult false (s1.knotCount i)))
      else if nw then finished s1 n (k.setS rd (kwaitResult true (s1.knotCount i)))
      else s1.nibWait n (.kwait rd i (k.knotV rs2 imm20) (kwaitLimit (k.sreg rs3)))) :=
  (exec_of_onKnot hx ho rfl).trans (congrArg _ (if_neg (by simpa using hnw)))

variable (hd : (s1.drainAll n).canStep n = true)
include hd

theorem exec_kset (rs2 : SReg) (imm20 : BitVec 20) : let s2 := s1.drainAll n
    exec (.kset n rs1 rs2 oimm imm20) s =
      .next ((s2.knotCycle ((s1.core n).knotIndex rs1 oimm) [] [(s1.core n).knotV rs2 imm20] []).nibDone n (s2.core n)) :=
  (exec_of_onKnot hx ho rfl).trans (congrArg _ (released_of_canStep hd _))

theorem exec_karrive (rs2 : SReg) (imm20 : BitVec 20) : let s2 := s1.drainAll n
    let i := (s1.core n).knotIndex rs1 oimm
    s2.knotOwned (s2.ctxOf n) i = true →
      exec (.karrive n rs1 rs2 oimm imm20) s = .next ((s2.knotCycle i [] [] [(s1.core n).knotV rs2 imm20]).nibDone n (s2.core n)) := by
  intro s2 i ho2
  rw [← arrive_of_owned s2 i _ ho2]
  exact (exec_of_onKnot hx ho rfl).trans (congrArg _ (released_of_canStep hd _))

end Executed

/-! ### The statement -/

section Cycles
variable (s : State) (i n : Nat) (k : NibCore)

/-- What KTHR leaves. -/
theorem threshold_knotCycle {v : Nat} (hv : v < 2 ^ 32) : let t := (s.knotCycle i [v] [] []).nibDone n k
    t.fld (knotVal i) .THRESHOLD = v ∧ t.knotCount i = s.knotCount i ∧ t.core n = k.advance := by
  refine ⟨?_, ?_, core_nibDone ..⟩
  · rw [fld_nibDone, fld_knotCycle]
    exact (fld_setFld s (knotVal i) .THRESHOLD v).trans (Nat.mod_eq_of_lt hv)
  · rw [State.knotCount, fld_nibDone, fld_knotCycle]
    exact fld_setFld_ne s (knotVal i) v rfl rfl (by decide)

/-- What KSET leaves. -/
theorem set_knotCycle {v : Nat} (hv : v < 2 ^ 32) : let t := (s.knotCycle i [] [v] []).nibDone n k
    t.knotCount i = v ∧ t.core n = k.advance ∧ t.fld (knotCfg i) .CHANGES = (s.fld (knotCfg i) .CHANGES + 1) % 2 ^ 32 := by
  refine ⟨?_, core_nibDone .., ?_⟩
  · rw [State.knotCount, fld_nibDone, fld_knotCycle]
    exact (knotCount_knotSet s i v).trans (Nat.mod_eq_of_lt hv)
  · rw [fld_nibDone, fld_knotCycle]
    exact changes_knotSet s i v

/-- What KARRIVE leaves. -/
theorem arrival_knotCycle (v : Nat) : let t := (s.knotCycle i [] [] [v]).nibDone n k
    t.knotCount i = min (s.knotCount i + v) (2 ^ 32 - 1) ∧
    t.flag (knotCfg i) .SATURATED = (s.flag (knotCfg i) .SATURATED || decide (2 ^ 32 ≤ s.knotCount i + v)) ∧
    t.core n = k.advance ∧ t.fld (knotCfg i) .CHANGES = (s.fld (knotCfg i) .CHANGES + 1) % 2 ^ 32 := by
  refine ⟨?_, ?_, core_nibDone .., ?_⟩
  · rw [State.knotCount, fld_nibDone, fld_knotCycle]
    exact knotCount_knotAdd s i v
  · rw [State.flag, fld_nibDone, fld_knotCycle]
    exact saturated_knotAdd s i v
  · rw [fld_nibDone, fld_knotCycle]
    exact changes_knotAdd s i v

end Cycles

/-- Settles O21: whose knot it is decides each instruction; on the context's own, the operations of one cycle. -/
theorem knotInstructions : Obligations.KnotInstructions := by
  unfold Obligations.KnotInstructions
  intro n rd rs1 rs2 rs3 nw oimm imm20 s s1 hx k i v count s2
  have hv : v < 2 ^ 32 := knotV_lt k rs2 imm20
  refine ⟨fun ho => ?_, fun ho => ⟨exec_kread hx ho rd, ⟨_, exec_kthr hx ho rs2 imm20, threshold_knotCycle s1 i n k hv⟩, ?_, ?_, ?_, ?_⟩⟩
  · exact ⟨exec_of_onKnot_foreign hx rfl ho, exec_of_onKnot_foreign hx rfl ho, exec_of_onKnot_foreign hx rfl ho,
      exec_of_onKnot_foreign hx rfl ho, exec_of_onKnot_foreign hx rfl ho⟩
  · intro hle hnw
    refine (exec_kwait hx ho rd rs2 imm20 hnw).trans (congrArg _ ((if_pos hle).trans ?_))
    rw [kwaitResult_false]
    rfl
  · intro hlt hnw h0
    exact (exec_kwait hx ho rd rs2 imm20 fun _ => h0).trans (congrArg _ ((if_neg (Nat.not_le.mpr hlt)).trans (if_pos hnw)))
  · intro hlt hnw
    exact (exec_kwait hx ho rd rs2 imm20 (by simp [hnw])).trans (congrArg _ ((if_neg (Nat.not_le.mpr hlt)).trans (if_neg (by simp [hnw]))))
  · intro hd ho2
    exact ⟨⟨_, exec_kset hx ho hd rs2 imm20, set_knotCycle s2 i n _ hv⟩,
      ⟨_, exec_karrive hx ho hd rs2 imm20 ho2, arrival_knotCycle s2 i n _ v⟩⟩

end Sys2Proof.Proofs
end

section
/-!
The start of a run of a Nib core: from its image queue, or a post with its record (R115, R119, R127, R165).
-/
namespace Sys2Proof.Proofs
open Sys2Proof.Machine Sys2Proof.Laws Sys2Proof.Claims

/-! ### A run begun (R115) -/

/-- A core t at the start of a run: pc at the entry, s1 to s3 as given, every other register 0; what core k had of stores stays. -/
def RunBegun (k t : NibCore) (entry a b c : W64) (imageQ : List ImageStart) (postQ : List Post) : Prop :=
  t.st = .running ∧ t.pc = entry.truncate 48 ∧
    (∀ j, t.sreg j = if j = 1 then a else if j = 2 then b else if j = 3 then c else 0) ∧ (∀ j, t.vreg j = 0) ∧
    (∀ j, j ≠ 0 → t.preg j = 0) ∧ t.handler = false ∧ t.evec = 0 ∧ t.wait = .none ∧
    t.stores = k.stores ∧ t.imageQ = imageQ ∧ t.postQ = postQ ∧ t.started = k.started + 1

/-- Three scalar registers written over a file of zeros. -/
theorem sreg_setS_three {k : NibCore} (hk : k.s = []) (a b c : W64) (j : SReg) :
    (((k.setS 1 a).setS 2 b).setS 3 c).sreg j = if j = 1 then a else if j = 2 then b else if j = 3 then c else 0 := by
  by_cases h3 : j = 3
  · subst h3; exact sreg_setS_same _ c (by decide)
  rw [sreg_setS_other _ c h3]
  by_cases h2 : j = 2
  · subst h2; exact sreg_setS_same _ b (by decide)
  rw [sreg_setS_other _ b h2]
  by_cases h1 : j = 1
  · subst h1; exact sreg_setS_same _ a (by decide)
  rw [sreg_setS_other _ a h1, if_neg h1, if_neg h2, if_neg h3, NibCore.sreg, hk]
  exact ite_self _

theorem runBegun_begin (k : NibCore) (entry a b : W64) (run : Run) :
    RunBegun k (k.begin entry a b run) entry a b (if run.crec then run.handle else 0) k.imageQ k.postQ := by
  refine ⟨rfl, rfl, sreg_setS_three rfl a b _, fun _ => rfl, fun j hj => if_neg hj, rfl, rfl, rfl, rfl, rfl, rfl, rfl⟩

/-- A run whose ENTRY is a 48-bit address begins. -/
theorem core_beginRun {s : State} {n : Nat} {entry : W64} (h : entry.toNat < 2 ^ 48) (a b : W64) (run : Run) :
    (s.beginRun n entry a b run).core n = (s.core n).begin entry a b run := by
  unfold State.beginRun
  dsimp only
  rw [if_pos (by rw [decide_eq_true h, Bool.true_or])]
  exact core_setCore_same ..

/-- A command that begins a run leaves the core at its start. -/
theorem runBegun_of_exec {i : Instr} {s u : State} {n : Nat} {entry a b : W64} {run : Run} (hexec : exec i s = .next (u.beginRun n entry a b run))
    {k : NibCore} (hk : u.core n = k) (he : entry.toNat < 2 ^ 48) {imageQ : List ImageStart} {postQ : List Post} (hi : k.imageQ = imageQ)
    (hp : k.postQ = postQ) :
    ∃ t, exec i s = .next t ∧ RunBegun k (t.core n) entry a b (if run.crec then run.handle else 0) imageQ postQ := by
  subst hk hi hp
  exact ⟨_, hexec, core_beginRun he a b run ▸ runBegun_begin ..⟩

/-! ### A post (R127, R165) -/

section Post
variable {s s1 : State} {n : Nat} {p : Post}

theorem startPost_args {e a b : W64} (h : p.arg = .args e a b) : s.startPost n p = s.beginRun n e a b (s.postRun p) := by
  unfold State.startPost
  rw [h]

variable {va : W64} (h : p.arg = .desc va)
include h

/-- A record that is read gives the run its ENTRY and its arguments. -/
theorem startPost_bytes {b : List Byte} (hr : s.readPost n va = (s1, .bytes b)) (hi : (s1.core n).st = .idle) :
    let q := fun o : Nat => BitVec.ofNat 64 (ofBytes ((b.drop o).take 8))
    s.startPost n p = s1.beginRun n (q 0) (q 8) (q 16) (s1.postRun p) := by
  simp only [State.startPost, h, hr]
  exact if_neg (not_not.mpr hi)

theorem startPost_fails {status : Nat} (hr : s.readPost n va = (s1, .fails status)) : s.startPost n p = s1.endPost n p status := by
  simp only [State.startPost, h, hr]

/-- The core that waits for its record, which is asked of the host (R89). -/
theorem startPost_host {bus : Nat} (hr : s.readPost n va = (s1, .host bus)) (hc : s1.canIssue (s1.ctxOf n) = true) :
    let u := readIssued s1 (s1.ctxOf n) (.nib n) va.toNat bus 32
    s.startPost n p = u.setCore n { u.core n with wait := .postRead p } := by
  simp only [State.startPost, h, hr, issueRead_some hc]

end Post

/-! ### NIB_RUN_START -/

section Start
variable {s : State} {n : CoreId}

theorem exec_nibRunStart_busy (h : (s.core n).st ≠ .idle ∨ (s.core n).wait ≠ .none) : exec (.nibRunStart n) s = .next s :=
  congrArg _ (if_pos (by obtain h | h := h <;> simp [h]))

/-- With nothing to start, or a post that is held, nothing starts. -/
theorem exec_nibRunStart_nothing (hi : (s.core n).imageQ = []) (hp : ∀ p ∈ (s.core n).postQ.head?, p.held = true) :
    exec (.nibRunStart n) s = .next s := by
  refine congrArg _ ((ite_congr rfl (fun _ => rfl) fun _ => ?_).trans (ite_self s))
  rw [hi]
  dsimp only
  split
  case h_1 p ps hq => exact if_pos (hp p (by rw [hq]; rfl))
  case h_2 => rfl

variable (hi : (s.core n).st = .idle) (hw : (s.core n).wait = .none) (hl : s.ctxLive (s.ctxOf n) = true)
include hi hw hl

theorem exec_nibRunStart_image {i : ImageStart} {is : List ImageStart} (hq : (s.core n).imageQ = i :: is) :
    exec (.nibRunStart n) s = .next ((s.setCore n { s.core n with imageQ := is }).beginRun n i.entry i.arg 0
      { handle := 0, crec := false, knot := none, delayed := false, image := true, stroke := s.count }) := by
  refine congrArg _ ((if_neg (by simp [hi, hw, hl])).trans ?_)
  rw [hq]

theorem exec_nibRunStart_post {p : Post} {ps : List Post} (hq : (s.core n).imageQ = []) (hp : (s.core n).postQ = p :: ps)
    (hh : p.held = false) : exec (.nibRunStart n) s = .next ((s.setCore n { s.core n with postQ := ps }).startPost n p) := by
  refine congrArg _ ((if_neg (by simp [hi, hw, hl])).trans ?_)
  split
  case h_1 h => exact absurd (hq.symm.trans h) nofun
  case h_2 =>
    split
    case h_1 h =>
      obtain ⟨rfl, rfl⟩ := List.cons.inj (h.symm.trans hp)
      exact if_neg (ne_true_of_eq_false hh)
    case h_2 h => exact absurd (hp.symm.trans h) nofun

end Start

/-- Settles O26: what is at the head of the queues, and what the read of a post's record finds. -/
theorem nibRunsStart : Obligations.NibRunsStart := by
  unfold Obligations.NibRunsStart
  intro n s k runs
  refine ⟨exec_nibRunStart_busy, exec_nibRunStart_nothing, fun hi hw hl => ⟨fun i is hq he => ?_, fun p ps hiq hpq hh => ?_⟩⟩
  · exact runBegun_of_exec (exec_nibRunStart_image hi hw hl hq) (core_setCore_same ..) he rfl rfl
  · have hexec := exec_nibRunStart_post hi hw hl hiq hpq hh
    refine ⟨fun e a b harg he => ?_, fun va harg => ?_⟩
    · rw [startPost_args harg] at hexec
      exact runBegun_of_exec hexec (core_setCore_same ..) he hiq rfl
    · intro s0 q
      refine ⟨fun s1 b hr hidle hcore he => ?_, fun s1 status hr => ?_, fun s1 bus hr hc => ?_⟩
      · rw [startPost_bytes harg hr hidle] at hexec
        exact runBegun_of_exec hexec (hcore.trans (core_setCore_same ..)) he hiq rfl
      · rw [startPost_fails harg hr] at hexec
        exact hexec
      · rw [startPost_host harg hr hc] at hexec
        exact ⟨_, hexec, by rw [core_setCore_same], rfl⟩

end Sys2Proof.Proofs
end

section
/-!
Stalled instructions of a core: when each resumes, and with what (R147, R166, R169, R171, R177, R178, Table 5-18).
-/
namespace Sys2Proof.Proofs
open Sys2Proof.Machine Sys2Proof.Laws Sys2Proof.Claims

/-! ### A core that resumes -/

/-- Core n of t goes on behind the instruction that stalled in s, with w in rd, and waits no more. -/
def Resumed (s t : State) (n : Nat) (rd : SReg) (w : W64) : Prop :=
  t.core n = ({ s.core n with st := .running, wait := .none }.setS rd w).advance ∧ Agent.nib n ∉ t.waiting ∧ t.mem = s.mem

/-- A wake of a state in which the core and memory are those of s. -/
theorem resumed_wakeWith {s u : State} {n : Nat} (hc : u.core n = s.core n) (hm : u.mem = s.mem) (rd : SReg) (w : W64) :
    Resumed s (u.wakeWith n fun k => k.setS rd w) n rd w :=
  ⟨(core_wakeWith ..).trans (by rw [hc]), not_mem_waiting_wakeWith u n _, hm⟩

/-- A command whose answer is that wake. -/
theorem resumes_of_exec {i : Instr} {s u : State} {n : Nat} {rd : SReg} {w : W64} (h : exec i s = .next (u.wakeWith n fun k => k.setS rd w))
    (hc : u.core n = s.core n) (hm : u.mem = s.mem) : ∃ t, exec i s = .next t ∧ Resumed s t n rd w :=
  ⟨_, h, resumed_wakeWith hc hm rd w⟩

/-! ### CWAIT and KWAIT -/

section Wait
variable {s : State} {n : CoreId} {rd : SReg}

theorem exec_cwaitWake {h : W64} (hw : (s.core n).wait = .cwait rd h)
    (hok : (h = 0 ∨ h = BitVec.allOnes 64) ∨ s.slotBad (s.ctxOf n) h = none) :
    let r := s.recordOf (s.ctxOf n) h
    exec (.cwaitWake n) s = .next (if recReady r then s.wakeWith n fun k => k.setS rd (recQuad r 1) else s) := by
  change Host.Outcome.next _ = _
  rw [hw]
  exact congrArg _ (withSlot_of_sound hok _ _)

variable {i v : Nat} {limit : Option Nat} (hw : (s.core n).wait = .kwait rd i v limit)
include hw

theorem exec_kwaitWake : exec (.kwaitWake n) s =
    .next (if v ≤ s.knotCount i then s.wakeWith n fun k => k.setS rd (kwaitResult false (s.knotCount i)) else s) := by
  change Host.Outcome.next _ = _
  rw [hw]

theorem exec_kwaitTimeout_unlimited (hl : limit = none) : exec (.kwaitTimeout n) s = .next s := by
  change Host.Outcome.next _ = _
  rw [hw, hl]

theorem exec_kwaitTimeout (hl : limit ≠ none) : exec (.kwaitTimeout n) s =
    .next (s.wakeWith n fun k => k.setS rd (kwaitResult (decide (s.knotCount i < v)) (s.knotCount i))) := by
  obtain ⟨l, rfl⟩ := Option.ne_none_iff_exists'.mp hl
  change Host.Outcome.next _ = _
  rw [hw]

end Wait

/-! ### BSEND -/

theorem events_bobAppend (s : State) (b : Nat) (k : Bobbin) (msg : List Byte) :
    Events (s.setBobbin b { k with queue := k.queue ++ [msg] }) (s.bobAppend b k msg) := by
  unfold State.bobAppend
  dsimp only
  split
  · exact events_memberEvent ..
  · exact .refl _

theorem core_of_events {s t : State} (e : Events s t) (n : Nat) : t.core n = s.core n := by rw [State.core, nib_of_events e, State.core]

theorem bobbin_of_events {s t : State} (e : Events s t) (b : Nat) : t.bobbin b = s.bobbin b := by rw [Events] at e; rw [e]; rfl

theorem outQueue_wakeWith (s : State) (n : Nat) (f : NibCore → NibCore) (p c : Nat) : (s.wakeWith n f).outQueue p c = s.outQueue p c := rfl
theorem bobbin_wakeWith (s : State) (n : Nat) (f : NibCore → NibCore) (b : Nat) : (s.wakeWith n f).bobbin b = s.bobbin b := rfl

section Send
variable {s : State} {c index : Nat} {data : List Byte}

theorem trySend_port {p : Nat} (hp : s.portRefuses p = false) (hb : s.bobbinSlotOn c p = true) :
    s.trySend c (some p) index data =
      if 64 ≤ (s.outQueue p c).length then .noRoom
      else .done (s.setOutQueue p c (s.outQueue p c ++ [{ index := index, data := data }])) 0 := by
  simp only [State.trySend, hp, hb, Bool.not_true, Bool.false_eq_true, if_false]

variable (ho : s.bobOwned c index = true) (hc : s.flag (bobCfg index) .COMBINE = false) (hl : data.length ≤ s.bobMaxLen index)
include ho hc hl

theorem trySend_bobbin : s.trySend c none index data =
    if s.bobRoom index then .done (s.bobAppend index (s.bobbin index) data) 0 else .noRoom := by
  cases hr : s.bobRoom index <;>
    simp [State.trySend, State.bobPlace, ho, hc, hr, Nat.not_lt.mpr hl]

end Send

section Accept
variable {s : State} {n : CoreId} {rd : SReg} {index : Nat} {port : Option Nat} {data : List Byte}

/-- Is core n the first that waits to send to the port's queue of its context, or to the bobbin? -/
def FirstSender (s : State) (n : Nat) (port : Option Nat) (index : Nat) : Prop :=
  (∀ p, port = some p → s.waitingCores.find? (s.waitsPort p (s.ctxOf n)) = some n) ∧
    (port = none → s.waitingCores.find? (s.waitsSend index) = some n)

variable (hw : (s.core n).wait = .bsend rd index port data) (hf : FirstSender s n port index)
include hw hf

theorem exec_bsendStallAccept_done {u : State} {st : Nat} (h : s.trySend (s.ctxOf n) port index data = .done u st) :
    exec (.bsendStallAccept n) s = .next (u.wakeWith n fun k => k.setS rd (BitVec.ofNat 64 st)) := by
  change Host.Outcome.next _ = _
  obtain ⟨hport, hbob⟩ := hf
  cases port with
  | none => simp [hw, hbob, h]
  | some p => simp [hw, hport, h]

theorem exec_bsendStallAccept_full (h : s.trySend (s.ctxOf n) port index data = .noRoom) : exec (.bsendStallAccept n) s = .next s := by
  change Host.Outcome.next _ = _
  obtain ⟨hport, hbob⟩ := hf
  cases port with
  | none => simp [hw, hbob, h]
  | some p => simp [hw, hport, h]

end Accept

section Sender
variable {s : State} {n : CoreId} {rd : SReg} {index : Nat} {data : List Byte}

/-- The first sender to a port resumes once its queue has room, with its message at the tail. -/
theorem bsend_port_resumes {p : Nat} (hw : (s.core n).wait = .bsend rd index (some p) data) (hf : FirstSender s n (some p) index)
    (hp : s.portRefuses p = false) (hb : s.bobbinSlotOn (s.ctxOf n) p = true) (hroom : (s.outQueue p (s.ctxOf n)).length < 64) :
    (∃ t, exec (.bsendStallAccept n) s = .next t ∧ Resumed s t n rd 0) ∧ ∀ t, exec (.bsendStallAccept n) s = .next t →
      t.outQueue p (s.ctxOf n) = s.outQueue p (s.ctxOf n) ++ [{ index := index, data := data }] := by
  have hexec := exec_bsendStallAccept_done hw hf ((trySend_port hp hb).trans (if_neg (Nat.not_le.mpr hroom)))
  refine ⟨resumes_of_exec hexec rfl rfl, fun t ht => ?_⟩
  obtain rfl := Host.Outcome.next.inj (hexec.symm.trans ht)
  exact (outQueue_wakeWith ..).trans (outQueue_setOutQueue_same ..)

/-- The first sender to a bobbin that does not combine resumes once there is room, with its message at the tail. -/
theorem bsend_bobbin_resumes (hw : (s.core n).wait = .bsend rd index none data) (hf : FirstSender s n none index)
    (ho : s.bobOwned (s.ctxOf n) index = true) (hc : s.flag (bobCfg index) .COMBINE = false) (hl : data.length ≤ s.bobMaxLen index)
    (hroom : s.bobRoom index = true) :
    (∃ t, exec (.bsendStallAccept n) s = .next t ∧ Resumed s t n rd 0) ∧ ∀ t, exec (.bsendStallAccept n) s = .next t →
      (t.bobbin index).queue = (s.bobbin index).queue ++ [data] := by
  have hexec := exec_bsendStallAccept_done hw hf ((trySend_bobbin ho hc hl).trans (if_pos hroom))
  have he := events_bobAppend s index (s.bobbin index) data
  refine ⟨resumes_of_exec hexec (core_of_events he n) (mem_of_events he :), fun t ht => ?_⟩
  obtain rfl := Host.Outcome.next.inj (hexec.symm.trans ht)
  rw [bobbin_wakeWith, bobbin_of_events he, bobbin_setBobbin_same]

end Sender

/-! ### DISPATCH -/

/-- Core n woken with its dispatch refused. -/
def refusedWake (s : State) (n : Nat) (rd : SReg) (code : BitVec 16) : State := (s.nibWake n).refuseDispatch n ((s.nibWake n).core n) rd code

/-- What STALLED_DISPATCH_ACCEPT of core n leaves of s, by the judgement of its dispatch. -/
def stalledAnswer (s : State) (n : Nat) (rd : SReg) (desc : W64) (crec stall : Bool) (kn : Option Nat) : DispatchRes → State
  | .go t => if s.firstInLine (.nib n) then (s.nibWake n).acceptOn n rd t desc crec kn else s
  | .notOwned => refusedWake s n rd 0x010
  | .queueFull => if stall then s else refusedWake s n rd 0x014
  | .slotBusy => if stall || s.flag (.ctxwCmplStat (s.ctxOf n)) .INIT then s else refusedWake s n rd 0x114

theorem exec_stalledDispatchAccept {s : State} {n : CoreId} {rd : SReg} {target desc : W64} {crec stall : Bool} {kn : Option Nat}
    (hw : (s.core n).wait = .dispatch rd target desc crec stall kn) (hl : s.ctxLive (s.ctxOf n) = true) {r : DispatchRes}
    (hj : s.judge (s.ctxOf n) target crec kn = r) :
    exec (.stalledDispatchAccept (.nib n)) s = .next (stalledAnswer s n rd desc crec stall kn r) := by
  subst hj
  change Host.Outcome.next _ = _
  dsimp only
  rw [hw]
  exact congrArg _ (if_neg (by simp [hl]))

/-- Core n of t goes on behind a dispatch that stalled in s and is refused. -/
def RefusedWake (s t : State) (n : Nat) (rd : SReg) (code : BitVec 16) : Prop :=
  t.core n = ({ { s.core n with st := .running, wait := .none }.setS rd 0 with dstat := code } : NibCore).advance ∧ Agent.nib n ∉ t.waiting

theorem refusedWake_shows (s : State) (n : Nat) (rd : SReg) (code : BitVec 16) : RefusedWake s (refusedWake s n rd code) n rd code := by
  refine ⟨?_, not_mem_waiting_nibWake s n⟩
  rw [← core_nibWake s n]
  exact core_setCore_same ..

/-- A command that waits on while b holds and refuses the dispatch otherwise. -/
theorem waits_or_refused {i : Instr} {s : State} {n : Nat} {rd : SReg} {code : BitVec 16} {b : Bool}
    (h : exec i s = .next (if b then s else refusedWake s n rd code)) :
    if b then exec i s = .next s else ∃ t, exec i s = .next t ∧ RefusedWake s t n rd code := by
  cases b
  case false => exact ⟨_, h, refusedWake_shows ..⟩
  case true => exact h

/-! ### BRECV -/

section Receive
variable {s : State} {n : CoreId} {rd : SReg} {b len va : Nat} (hw : (s.core n).wait = .brecv rd b len va)
include hw

theorem exec_brecvWake_lost (ho : s.bobOwned (s.ctxOf n) b = false) :
    exec (.brecvWake n) s = .next (s.wakeWith n fun k => k.setS rd (recvResult 0 0x10)) := by
  change Host.Outcome.next _ = _
  rw [hw]
  exact congrArg _ (if_pos (by simp [ho]))

variable (ho : s.bobOwned (s.ctxOf n) b = true)
include ho

theorem exec_brecvWake_empty (hq : (s.bobbin b).queue = []) : exec (.brecvWake n) s = .next s := by
  change Host.Outcome.next _ = _
  rw [hw]
  exact congrArg _ ((if_neg (by simp [ho])).trans (if_pos (by simp [hq])))

theorem exec_brecvWake_receives (hq : (s.bobbin b).queue ≠ []) (hf : ∀ m ∈ s.waitingCores, s.waitsRecv b m = true → n.val ≤ m) :
    exec (.brecvWake n) s = .next ((s.nibWake n).receive n rd b len va) := by
  change Host.Outcome.next _ = _
  rw [hw]
  exact congrArg _ ((if_neg (by simp [ho])).trans (if_neg (by simpa [hq] using hf)))

end Receive

/-- Settles O20: each wake by what it finds. -/
theorem stalledInstructionsResume : Obligations.StalledInstructionsResume := by
  unfold Obligations.StalledInstructionsResume
  intro n s rd k resumes still
  refine ⟨fun h hw hok => ?_, fun i v l hw => ?_, fun i p data hw hf hp hb => ?_, fun i data hw hf ho hc hl => ?_,
    fun target desc crec stall kn hw hl => ?_, fun b len va hw => ?_⟩
  · have hexec := exec_cwaitWake hw (or_assoc.mpr hok)
    refine ⟨fun hr => resumes_of_exec (hexec.trans (congrArg _ (if_pos hr))) rfl rfl, fun hr => hexec.trans (congrArg _ (if_neg (by simp [hr])))⟩
  · refine ⟨fun hle => ?_, fun hlt => (exec_kwaitWake hw).trans (congrArg _ (if_neg (Nat.not_le.mpr hlt))),
      exec_kwaitTimeout_unlimited hw, fun hl => ?_⟩
    · rw [← kwaitResult_false]
      exact resumes_of_exec ((exec_kwaitWake hw).trans (congrArg _ (if_pos hle))) rfl rfl
    · have hres : kwaitResult (decide (s.knotCount i < v)) (s.knotCount i) =
          BitVec.ofNat 64 ((if s.knotCount i < v then 2 ^ 32 else 0) + s.knotCount i) := by simp only [kwaitResult, decide_eq_true_eq]
      rw [← hres]
      exact resumes_of_exec (exec_kwaitTimeout hw hl) rfl rfl
  · have hfirst : FirstSender s n (some p) i := ⟨fun q hq => Option.some.inj hq ▸ hf, nofun⟩
    exact ⟨bsend_port_resumes hw hfirst hp hb, fun hfull => exec_bsendStallAccept_full hw hfirst ((trySend_port hp hb).trans (if_pos hfull))⟩
  · have hfirst : FirstSender s n none i := ⟨nofun, fun _ => hf⟩
    exact ⟨bsend_bobbin_resumes hw hfirst ho hc hl, fun hfull =>
      exec_bsendStallAccept_full hw hfirst ((trySend_bobbin ho hc hl).trans (if_neg (by simp [hfull])))⟩
  · have hexec : ∀ {r}, s.judge (s.ctxOf n) target crec kn = r → _ := exec_stalledDispatchAccept hw hl
    exact ⟨fun hj => ⟨_, hexec hj, refusedWake_shows s n rd _⟩, fun hj => waits_or_refused (hexec hj), fun hj => waits_or_refused (hexec hj),
      fun u hj hfirst => (hexec hj).trans (congrArg _ (if_pos hfirst))⟩
  · exact ⟨fun ho => resumes_of_exec (exec_brecvWake_lost hw ho) rfl rfl, exec_brecvWake_empty hw, exec_brecvWake_receives hw⟩

end Sys2Proof.Proofs
end

section
/-!
Fields of the words of a Nib core: a word is its parts, a format is its packed fields, and each coded field is the code of what it reads as (R151,
R152, Tables 5-2, 5-5, 5-7 and 5-9).
-/
namespace Sys2Proof.Proofs
open Sys2Proof.Machine Sys2Proof.Laws Sys2Proof.Claims

/-! ### Parts of a word -/

/-- Neighbouring fields of a word are one field. -/
theorem extractLsb'_append_next {w : Nat} (x : BitVec w) {a b c d : Nat} (h : a = b + d) :
    x.extractLsb' a c ++ x.extractLsb' b d = x.extractLsb' b (c + d) := BitVec.extractLsb'_append_extractLsb'_eq_extractLsb' h

theorem wordOf_eq (major op : BitVec 5) (body : BitVec 54) : wordOf major op body = (major ++ op ++ body : BitVec (5 + 5 + 54)) := rfl

/-- A word is its class, opcode and the bits below. -/
theorem wordOf_parts (w : W64) : wordOf (majorOf w) (opOf w) (bodyOf w) = w := by
  simp (disch := decide) only [wordOf_eq, majorOf, opOf, bodyOf, extractLsb'_append_next]
  exact BitVec.extractLsb'_eq_self

section Parts
variable (major op : BitVec 5) (body : BitVec 54)

theorem majorOf_wordOf : majorOf (wordOf major op body) = major := by
  simp (disch := decide) only [wordOf_eq, majorOf, BitVec.extractLsb'_append_eq_of_le, Nat.reduceSub, BitVec.extractLsb'_eq_self]

theorem opOf_wordOf : opOf (wordOf major op body) = op := by
  simp (disch := decide) only [wordOf_eq, opOf, BitVec.extractLsb'_append_eq_of_le, BitVec.extractLsb'_append_eq_of_add_le, Nat.reduceSub,
    BitVec.extractLsb'_eq_self]

theorem bodyOf_wordOf : bodyOf (wordOf major op body) = body := by
  simp (disch := decide) only [wordOf_eq, bodyOf, BitVec.extractLsb'_append_eq_of_add_le, BitVec.extractLsb'_eq_self]

end Parts

/-! ### Formats (Table 5-2) -/

theorem FormI.pack_eq (f : FormI) : f.pack = (f.rd ++ f.rs1 ++ f.rs2 ++ f.mid ++ f.imm : BitVec (5 + 5 + 5 + 7 + 32)) := rfl
theorem FormV.pack_eq (f : FormV) : f.pack =
    (f.vd ++ f.vs1 ++ f.vs2 ++ f.vs3 ++ f.pg ++ f.et ++ f.rs ++ f.sb ++ f.imm : BitVec (4 + 4 + 4 + 4 + 3 + 4 + 5 + 1 + 25)) := rfl
theorem FormD.pack_eq (f : FormD) : f.pack =
    (f.rd ++ f.rs1 ++ f.rs2 ++ f.crec ++ f.wait ++ f.ken ++ f.knot ++ f.low : BitVec (5 + 5 + 5 + 1 + 1 + 1 + 12 + 24)) := rfl
theorem FormO.pack_eq (f : FormO) : f.pack =
    (f.rd ++ f.rs1 ++ f.rs2 ++ f.rs3 ++ f.nw ++ f.oimm ++ f.imm : BitVec (5 + 5 + 5 + 5 + 1 + 13 + 20)) := rfl
theorem CvtImm.pack_eq (c : CvtImm) : c.pack =
    (c.zero ++ c.u ++ c.dt ++ c.qf ++ c.part ++ c.sat ++ c.rm : BitVec (12 + 1 + 4 + 2 + 2 + 1 + 3)) := rfl

/-! The fields of bits, packed again, are the bits. -/

theorem pack_formI (b : BitVec 54) : (formI b).pack = b := by
  simp (disch := decide) only [FormI.pack_eq, formI, extractLsb'_append_next]
  exact BitVec.extractLsb'_eq_self

theorem pack_formV (b : BitVec 54) : (formV b).pack = b := by
  simp (disch := decide) only [FormV.pack_eq, formV, extractLsb'_append_next]
  exact BitVec.extractLsb'_eq_self

theorem pack_formD (b : BitVec 54) : (formD b).pack = b := by
  simp (disch := decide) only [FormD.pack_eq, formD, extractLsb'_append_next]
  exact BitVec.extractLsb'_eq_self

theorem pack_formO (b : BitVec 54) : (formO b).pack = b := by
  simp (disch := decide) only [FormO.pack_eq, formO, extractLsb'_append_next]
  exact BitVec.extractLsb'_eq_self

theorem pack_cvtImm (i : BitVec 25) : (cvtImm i).pack = i := by
  simp (disch := decide) only [CvtImm.pack_eq, cvtImm, extractLsb'_append_next]
  exact BitVec.extractLsb'_eq_self

/-! Packed fields read back. -/

theorem formI_pack (f : FormI) : formI f.pack = f := by
  simp (disch := decide) only [FormI.pack_eq, formI, BitVec.extractLsb'_append_eq_of_le, BitVec.extractLsb'_append_eq_of_add_le, Nat.reduceSub,
    BitVec.extractLsb'_eq_self]

theorem formV_pack (f : FormV) : formV f.pack = f := by
  simp (disch := decide) only [FormV.pack_eq, formV, BitVec.extractLsb'_append_eq_of_le, BitVec.extractLsb'_append_eq_of_add_le, Nat.reduceSub,
    BitVec.extractLsb'_eq_self]

theorem formD_pack (f : FormD) : formD f.pack = f := by
  simp (disch := decide) only [FormD.pack_eq, formD, BitVec.extractLsb'_append_eq_of_le, BitVec.extractLsb'_append_eq_of_add_le, Nat.reduceSub,
    BitVec.extractLsb'_eq_self]

theorem formO_pack (f : FormO) : formO f.pack = f := by
  simp (disch := decide) only [FormO.pack_eq, formO, BitVec.extractLsb'_append_eq_of_le, BitVec.extractLsb'_append_eq_of_add_le, Nat.reduceSub,
    BitVec.extractLsb'_eq_self]

theorem cvtImm_pack (c : CvtImm) : cvtImm c.pack = c := by
  simp (disch := decide) only [CvtImm.pack_eq, cvtImm, BitVec.extractLsb'_append_eq_of_le, BitVec.extractLsb'_append_eq_of_add_le, Nat.reduceSub,
    BitVec.extractLsb'_eq_self]

/-! ### Coded fields -/

@[simp] theorem flagOf_bitOf (b : Bool) : flagOf (bitOf b) = b := by cases b <;> rfl
theorem bitOf_flagOf : ∀ b : BitVec 1, bitOf (flagOf b) = b := by decide

@[simp] theorem elemTypeOf_code (t : ElemType) : elemTypeOf t.code = some t := by cases t <;> rfl
@[simp] theorem roundModeOf_code (r : RoundMode) : roundModeOf r.code = some r := by cases r <;> rfl
@[simp] theorem qFormatOf_code (q : QFormat) : qFormatOf q.code = some q := by cases q <;> rfl
@[simp] theorem specRegOf_code (r : SpecReg) : specRegOf r.code = some r := by cases r <;> rfl

/-! A code that is listed is the code of what it means. -/

theorem code_of_elemTypeOf : ∀ {c : BitVec 4} {t : ElemType}, elemTypeOf c = some t → c = t.code := by
  have h : ∀ c : BitVec 4, (elemTypeOf c).all fun t => c = t.code := by decide
  exact fun {c t} hc => by simpa [hc] using h c

theorem code_of_roundModeOf : ∀ {c : BitVec 3} {r : RoundMode}, roundModeOf c = some r → c = r.code := by
  have h : ∀ c : BitVec 3, (roundModeOf c).all fun r => c = r.code := by decide
  exact fun {c r} hc => by simpa [hc] using h c

theorem code_of_qFormatOf : ∀ {c : BitVec 2} {q : QFormat}, qFormatOf c = some q → c = q.code := by
  have h : ∀ c : BitVec 2, (qFormatOf c).all fun q => c = q.code := by decide
  exact fun {c q} hc => by simpa [hc] using h c

theorem code_of_specRegOf {i : W32} {r : SpecReg} (h : specRegOf i = some r) : i = r.code := by
  refine BitVec.eq_of_toNat_eq ?_
  unfold specRegOf at h
  split at h <;> cases h <;> assumption

@[simp] theorem predOf_append (p : PReg) : predOf (0#1 ++ p) = p := BitVec.extractLsb'_append_eq_right
@[simp] theorem isPred_append : ∀ p : PReg, isPred (0#1 ++ p) = true := by decide

/-- A field of four bits that names a predicate. -/
theorem append_predOf : ∀ {v : VReg}, isPred v = true → 0#1 ++ predOf v = v := by
  have h : ∀ v : VReg, isPred v = true → 0#1 ++ predOf v = v := by decide
  exact fun {v} => h v

/-- A number whose high bits are zero is its low bits. -/
theorem zero_append_low {k m : Nat} {x : BitVec (k + m)} (h : x.extractLsb' m k = 0) : 0#k ++ x.extractLsb' 0 m = x := by
  have hx : x.extractLsb' m k ++ x.extractLsb' 0 m = x := by
    rw [extractLsb'_append_next x (Nat.zero_add m).symm, BitVec.extractLsb'_eq_self]
  exact (congrArg (· ++ x.extractLsb' 0 m) h).symm.trans hx

end Sys2Proof.Proofs
end

section
/-!
The decoder of a Nib core class by class: what it reads is an instruction of the core with that word, and it reads one on every core or on none
(R151 to R153, Tables 5-3 to 5-17).
-/
namespace Sys2Proof.Proofs
open Sys2Proof.Machine Sys2Proof.Laws Sys2Proof.Claims

/-- What `dec` reads is an instruction of its core with word w, and it reads one on every core or on none. -/
def Reads (dec : CoreId → Option Instr) (w : W64) : Prop :=
  ∀ n i, dec n = some i → i.core? = some n ∧ encodeNib i = some w ∧ ∀ m, (dec m).isSome = true

@[simp] theorem need_eq_some {c : Bool} {v : Option Instr} {i : Instr} : need c v = some i ↔ c = true ∧ v = some i := by
  cases c <;> simp [need]

/-- An opcode is that of its number. -/
theorem op_eq (op : BitVec 5) : op = BitVec.ofNat 5 op.toNat := by simp

section Classes
variable (op : BitVec 5)

/-! ### Formats S, I and B -/

theorem decAlu_reads (rd rs1 : SReg) (b : ScalarB) : Reads (fun n => decAlu n op rd rs1 b) (wordAlu op rd rs1 b) := by
  intro n i h
  have hop := op_eq op
  unfold decAlu at h ⊢
  generalize op.toNat = k at h hop ⊢
  subst hop
  split at h <;> cases h <;> exact ⟨rfl, rfl, fun _ => rfl⟩

theorem decSalu_reads (f : FormI) : Reads (fun n => decSalu n op f) (wordOf 0x01 op f.pack) := by
  intro n i h
  have hop := op_eq op
  have halu := decAlu_reads op f.rd f.rs1 (.reg f.rs2) n i
  obtain ⟨rd, rs1, rs2, mid, imm⟩ := f
  unfold decSalu at h ⊢
  rw [Option.ite_none_left_eq_some] at h
  obtain ⟨h0, h⟩ := h
  obtain ⟨rfl, rfl⟩ : mid = 0 ∧ imm = 0 := by simpa using h0
  generalize op.toNat = k at h hop ⊢
  subst hop
  split at h
  case h_5 =>
    obtain ⟨hc, he, hm⟩ := halu h
    exact ⟨hc, he, by simpa using hm⟩
  all_goals
    obtain ⟨rfl, rfl⟩ : rs2 = 0 ∧ _ = i := by simpa using h
    exact ⟨rfl, rfl, fun _ => rfl⟩

theorem decSalui_reads (f : FormI) : Reads (fun n => decSalui n op f) (wordOf 0x02 op f.pack) := by
  intro n i h
  have halu := decAlu_reads op f.rd f.rs1 (.imm f.imm) n i
  obtain ⟨rd, rs1, rs2, mid, imm⟩ := f
  unfold decSalui at h ⊢
  rw [Option.ite_none_left_eq_some] at h
  obtain ⟨h0, h⟩ := h
  obtain ⟨rfl, rfl⟩ : rs2 = 0 ∧ mid = 0 := by simpa using h0
  split at h
  case isTrue hop =>
    subst hop
    cases h
    exact ⟨rfl, rfl, fun _ => rfl⟩
  case isFalse hop =>
    obtain ⟨hc, he, hm⟩ := halu h
    exact ⟨hc, he, by simpa [show op ≠ 30#5 from hop] using hm⟩

theorem decSmul_reads (f : FormI) : Reads (fun n => decSmul n op f) (wordOf 0x03 op f.pack) := by
  intro n i h
  have hop := op_eq op
  obtain ⟨rd, rs1, rs2, mid, imm⟩ := f
  unfold decSmul at h ⊢
  rw [Option.ite_none_left_eq_some] at h
  obtain ⟨h0, h⟩ := h
  obtain ⟨rfl, rfl⟩ : mid = 0 ∧ imm = 0 := by simpa using h0
  generalize op.toNat = k at h hop ⊢
  subst hop
  split at h <;> cases h <;> exact ⟨rfl, rfl, fun _ => rfl⟩

theorem decLoad_reads (f : FormI) : Reads (fun n => decLoad n op f) (wordOf 0x04 op f.pack) := by
  intro n i h
  have hop := op_eq op
  obtain ⟨rd, rs1, rs2, mid, imm⟩ := f
  unfold decLoad at h ⊢
  rw [Option.ite_none_left_eq_some] at h
  obtain ⟨h0, h⟩ := h
  obtain ⟨rfl, rfl⟩ : rs2 = 0 ∧ mid = 0 := by simpa using h0
  generalize op.toNat = k at h hop ⊢
  subst hop
  split at h <;> cases h <;> exact ⟨rfl, rfl, fun _ => rfl⟩

theorem decStore_reads (f : FormI) : Reads (fun n => decStore n op f) (wordOf 0x05 op f.pack) := by
  intro n i h
  have hop := op_eq op
  obtain ⟨rd, rs1, rs2, mid, imm⟩ := f
  unfold decStore at h ⊢
  rw [Option.ite_none_left_eq_some] at h
  obtain ⟨h0, h⟩ := h
  obtain ⟨rfl, rfl⟩ : rd = 0 ∧ mid = 0 := by simpa using h0
  generalize op.toNat = k at h hop ⊢
  subst hop
  split at h <;> cases h <;> exact ⟨rfl, rfl, fun _ => rfl⟩

theorem decBranch_reads (f : FormI) : Reads (fun n => decBranch n op f) (wordOf 0x06 op f.pack) := by
  intro n i h
  have hop := op_eq op
  obtain ⟨rd, rs1, rs2, mid, imm⟩ := f
  unfold decBranch at h ⊢
  rw [Option.ite_none_left_eq_some] at h
  obtain ⟨h0, h⟩ := h
  obtain ⟨rfl, rfl⟩ : rd = 0 ∧ mid = 0 := by simpa using h0
  generalize op.toNat = k at h hop ⊢
  subst hop
  split at h <;> cases h <;> exact ⟨rfl, rfl, fun _ => rfl⟩

theorem decJump_reads (f : FormI) : Reads (fun n => decJump n op f) (wordOf 0x07 op f.pack) := by
  intro n i h
  have hop := op_eq op
  obtain ⟨rd, rs1, rs2, mid, imm⟩ := f
  unfold decJump at h ⊢
  rw [Option.ite_none_left_eq_some] at h
  obtain ⟨h0, h⟩ := h
  obtain ⟨rfl, rfl⟩ : rs2 = 0 ∧ mid = 0 := by simpa using h0
  generalize op.toNat = k at h hop ⊢
  subst hop
  split at h
  case h_1 =>
    obtain ⟨rfl, rfl⟩ : rs1 = 0 ∧ _ = i := by simpa using h
    exact ⟨rfl, rfl, fun _ => rfl⟩
  all_goals cases h
  exact ⟨rfl, rfl, fun _ => rfl⟩

theorem decMove_reads (f : FormI) : Reads (fun n => decMove n op f) (wordOf 0x0F op f.pack) := by
  intro n i h
  have hop := op_eq op
  obtain ⟨rd, rs1, rs2, mid, imm⟩ := f
  unfold decMove at h ⊢
  rw [Option.ite_none_left_eq_some] at h
  obtain ⟨h0, h⟩ := h
  obtain ⟨rfl, rfl⟩ : rs2 = 0 ∧ mid = 0 := by simpa using h0
  generalize op.toNat = k at h hop ⊢
  subst hop
  split at h
  case h_1 =>
    obtain ⟨rfl, r, hr, rfl⟩ : rs1 = 0 ∧ ∃ r, specRegOf imm = some r ∧ _ = i := by simpa using h
    obtain rfl := code_of_specRegOf hr
    exact ⟨rfl, rfl, fun m => by simp [need]⟩
  case h_2 =>
    obtain ⟨rfl, r, hr, rfl⟩ : rd = 0 ∧ ∃ r, specRegOf imm = some r ∧ _ = i := by simpa using h
    obtain rfl := code_of_specRegOf hr
    exact ⟨rfl, rfl, fun m => by simp [need]⟩
  case h_3 => cases h

theorem decStroke_reads (f : FormI) : Reads (fun n => decStroke n op f) (wordOf 0x14 op f.pack) := by
  intro n i h
  have hop := op_eq op
  obtain ⟨rd, rs1, rs2, mid, imm⟩ := f
  unfold decStroke at h ⊢
  rw [Option.ite_none_left_eq_some] at h
  obtain ⟨h0, h⟩ := h
  obtain ⟨⟨⟨rfl, rfl⟩, rfl⟩, rfl⟩ : ((rs1 = 0 ∧ rs2 = 0) ∧ mid = 0) ∧ imm = 0 := by simpa using h0
  generalize op.toNat = k at h hop ⊢
  subst hop
  split at h
  case h_4 =>
    obtain ⟨rfl, rfl⟩ : rd = 0 ∧ _ = i := by simpa using h
    exact ⟨rfl, rfl, fun _ => rfl⟩
  all_goals cases h
  all_goals exact ⟨rfl, rfl, fun _ => rfl⟩

theorem decSystem_reads (f : FormI) : Reads (fun n => decSystem n op f) (wordOf 0x15 op f.pack) := by
  intro n i h
  have hop := op_eq op
  obtain ⟨rd, rs1, rs2, mid, imm⟩ := f
  unfold decSystem at h ⊢
  rw [Option.ite_none_left_eq_some] at h
  obtain ⟨h0, h⟩ := h
  obtain ⟨⟨⟨rfl, rfl⟩, rfl⟩, rfl⟩ : ((rd = 0 ∧ rs1 = 0) ∧ rs2 = 0) ∧ mid = 0 := by simpa using h0
  generalize op.toNat = k at h hop ⊢
  subst hop
  split at h
  case h_4 =>
    cases h
    exact ⟨rfl, rfl, fun _ => rfl⟩
  case h_7 => cases h
  all_goals
    obtain ⟨rfl, rfl⟩ : imm = 0 ∧ _ = i := by simpa using h
    exact ⟨rfl, rfl, fun _ => rfl⟩

/-! ### Operand b of format V -/

/-- Operand b as a format holds it is the format's own. -/
theorem withB_of_operandB {f : FormV} {b : VectorB} (h : f.operandB = some b) : f.withB b = f := by
  obtain ⟨vd, vs1, vs2, vs3, pg, et, rs, sb, imm⟩ := f
  unfold FormV.operandB at h
  split at h
  case isTrue hs =>
    rw [Option.ite_none_right_eq_some] at h
    obtain ⟨h2, h⟩ := h
    cases h
    obtain ⟨rfl, rfl⟩ : sb = 1 ∧ vs2 = 0 := ⟨hs, h2⟩
    rfl
  case isFalse hs =>
    rw [Option.ite_none_right_eq_some] at h
    obtain ⟨hr, h⟩ := h
    cases h
    obtain ⟨rfl, rfl⟩ : sb = 0 ∧ rs = 0 := ⟨(BitVec.eq_zero_or_eq_one sb).resolve_right hs, hr⟩
    rfl

@[simp] theorem operandB_withB (f : FormV) (b : VectorB) : (f.withB b).operandB = some b := by cases b <;> rfl

/-- The fields of a two-operand instruction that a format holds. -/
theorem bin_eq_some {f : FormV} {o : VBin} : f.bin = some o ↔ ∃ b et, f.operandB = some b ∧ elemTypeOf f.et = some et ∧
    o = { vd := f.vd, vs1 := f.vs1, b := b, pg := f.pg, et := et } := by
  unfold FormV.bin
  cases f.operandB <;> cases elemTypeOf f.et <;> simp [eq_comm]

@[simp] theorem bin_form (o : VBin) : o.form.bin = some o := by
  obtain ⟨vd, vs1, b, pg, et⟩ := o
  cases b <;> simp [FormV.bin, VBin.form, FormV.withB, FormV.operandB, FormV.none]

/-- A format that holds a two-operand instruction is the instruction's but for VS3 and the immediate. -/
theorem form_of_bin {f : FormV} {o : VBin} (h : f.bin = some o) : f = { o.form with vs3 := f.vs3, imm := f.imm } := by
  obtain ⟨b, et, hb, he, rfl⟩ := bin_eq_some.mp h
  have hf := withB_of_operandB hb
  rw [VBin.form, ← code_of_elemTypeOf he]
  conv_lhs => rw [← hf]
  cases b <;> rfl

theorem form_imm (o : VBin) (v : VReg) : { o.form with vs3 := v, imm := 0 } = { o.form with vs3 := v } := by
  obtain ⟨vd, vs1, b, pg, et⟩ := o
  cases b <;> rfl

theorem form_vs3 (o : VBin) : { o.form with vs3 := 0 } = o.form := by
  obtain ⟨vd, vs1, b, pg, et⟩ := o
  cases b <;> rfl

section Bin
variable {f : FormV} {o : VBin} (h : f.bin = some o) (himm : f.imm = 0)
include h himm

/-- Without an immediate it is the instruction's but for VS3, and without VS3 the instruction's. -/
theorem form_of_bin_imm : f = { o.form with vs3 := f.vs3 } := by
  rw [← form_imm, ← himm]
  exact form_of_bin h

theorem form_of_bin_plain (h3 : f.vs3 = 0) : f = o.form := by
  rw [form_of_bin_imm h himm, h3, form_vs3]

end Bin

/-! ### Format V -/

theorem decVint_reads (f : FormV) : Reads (fun n => decVint n op f) (wordOf 0x08 op f.pack) := by
  intro n i h
  have hop := op_eq op
  cases hb : f.bin with
  | none => simp [decVint, hb] at h
  | some o =>
  simp only [decVint, hb, Option.ite_none_left_eq_some] at h ⊢
  obtain ⟨h0, h⟩ := h
  obtain ⟨h3, himm⟩ : f.vs3 = 0 ∧ f.imm = 0 := by simpa using h0
  obtain rfl := form_of_bin_plain hb himm h3
  generalize op.toNat = k at h hop ⊢
  subst hop
  split at h <;> cases h <;> exact ⟨rfl, rfl, fun _ => by rw [if_neg h0]; rfl⟩

theorem decVfp_reads (f : FormV) : Reads (fun n => decVfp n op f) (wordOf 0x09 op f.pack) := by
  intro n i h
  have hop := op_eq op
  cases hb : f.bin with
  | none => simp [decVfp, hb] at h
  | some o =>
  simp only [decVfp, hb, Option.ite_none_left_eq_some] at h ⊢
  obtain ⟨h0, h⟩ := h
  have himm : f.imm = 0 := by simpa using h0
  generalize op.toNat = k at h hop ⊢
  subst hop
  split at h
  case h_1 =>
    cases h
    exact ⟨rfl, congrArg some (congrArg (wordV 9 3) (form_of_bin_imm hb himm).symm), fun _ => by rw [if_neg h0]; rfl⟩
  case h_9 => cases h
  case h_2 | h_3 =>
    obtain ⟨⟨⟨h3, h2⟩, hs⟩, rfl⟩ : ((f.vs3 = 0 ∧ f.vs2 = 0) ∧ f.sb = 0) ∧ _ = i := by simpa using h
    obtain rfl := form_of_bin_plain hb himm h3
    obtain ⟨vd, vs1, b, pg, et⟩ := o
    cases b with
    | scal r => exact absurd hs (show (1 : BitVec 1) ≠ 0 by decide)
    | vec v =>
      obtain rfl : v = 0 := h2
      exact ⟨rfl, rfl, fun _ => rfl⟩
  all_goals
    obtain ⟨h3, rfl⟩ : f.vs3 = 0 ∧ _ = i := by simpa using h
    obtain rfl := form_of_bin_plain hb himm h3
    exact ⟨rfl, rfl, fun _ => by rw [if_neg h0]; simp [need, h3]⟩

theorem decVload_reads (f : FormV) : Reads (fun n => decVload n op f) (wordOf 0x0A op f.pack) := by
  intro n i h
  have hop := op_eq op
  obtain ⟨vd, vs1, vs2, vs3, pg, et, rs, sb, imm⟩ := f
  cases ht : elemTypeOf et with
  | none => simp [decVload, ht] at h
  | some t =>
  obtain rfl := code_of_elemTypeOf ht
  simp only [decVload, ht, Option.ite_none_left_eq_some] at h ⊢
  obtain ⟨h0, h⟩ := h
  obtain ⟨⟨⟨rfl, rfl⟩, rfl⟩, rfl⟩ : ((vs1 = 0 ∧ vs2 = 0) ∧ vs3 = 0) ∧ sb = 0 := by simpa using h0
  generalize op.toNat = k at h hop ⊢
  subst hop
  split at h <;> cases h <;> exact ⟨rfl, rfl, fun _ => rfl⟩

theorem decVstore_reads (f : FormV) : Reads (fun n => decVstore n op f) (wordOf 0x0B op f.pack) := by
  intro n i h
  obtain ⟨vd, vs1, vs2, vs3, pg, et, rs, sb, imm⟩ := f
  cases ht : elemTypeOf et with
  | none => simp [decVstore, ht] at h
  | some t =>
  obtain rfl := code_of_elemTypeOf ht
  obtain ⟨⟨⟨⟨⟨rfl, rfl⟩, rfl⟩, rfl⟩, rfl⟩, rfl⟩ : ((((op = 0 ∧ vd = 0) ∧ vs2 = 0) ∧ vs3 = 0) ∧ sb = 0) ∧ _ = i := by
    simpa [decVstore, ht] using h
  exact ⟨rfl, rfl, fun _ => by simp [decVstore, need]⟩

theorem decVperm_reads (f : FormV) : Reads (fun n => decVperm n op f) (wordOf 0x0C op f.pack) := by
  intro n i h
  have hop := op_eq op
  have hlow : f.imm.extractLsb' 6 19 = 0 → 0#19 ++ f.imm.extractLsb' 0 6 = f.imm := zero_append_low (k := 19) (m := 6)
  cases ht : elemTypeOf f.et with
  | none => simp [decVperm, ht] at h
  | some t =>
  have het := code_of_elemTypeOf ht
  simp only [decVperm, ht] at h ⊢
  generalize op.toNat = k at h hop ⊢
  subst hop
  split at h
  case h_9 => cases h
  case h_4 =>
    cases hb : f.operandB with
    | none => simp [hb] at h
    | some b =>
    have hf := withB_of_operandB hb
    obtain ⟨vd, vs1, vs2, vs3, pg, et, rs, sb, imm⟩ := f
    obtain ⟨⟨⟨rfl, rfl⟩, rfl⟩, rfl⟩ : ((et = 0 ∧ vs3 = 0) ∧ imm = 0) ∧ _ = i := by simpa [hb] using h
    refine ⟨rfl, ?_, fun _ => by simp [need]⟩
    rw [← hf]
    cases b <;> rfl
  all_goals
    obtain ⟨vd, vs1, vs2, vs3, pg, et, rs, sb, imm⟩ := f
    obtain rfl : et = t.code := het
  case h_1 =>
    obtain ⟨⟨⟨⟨⟨rfl, rfl⟩, rfl⟩, rfl⟩, rfl⟩, rfl⟩ : ((((vs2 = 0 ∧ vs3 = 0) ∧ sb = 0) ∧ vs1 = 0) ∧ imm = 0) ∧ _ = i := by simpa using h
    exact ⟨rfl, rfl, fun _ => rfl⟩
  case h_2 =>
    obtain ⟨⟨⟨⟨⟨⟨rfl, rfl⟩, rfl⟩, rfl⟩, rfl⟩, himm⟩, rfl⟩ :
      (((((vs2 = 0 ∧ vs3 = 0) ∧ sb = 0) ∧ vd = 0) ∧ pg = 0) ∧ imm.extractLsb' 6 19 = 0) ∧ _ = i := by simpa using h
    exact ⟨rfl, congrArg (fun x => some (wordV 0x0C 1 { FormV.none with rs := rs, vs1 := vs1, et := t.code, imm := x })) (hlow himm),
      fun _ => by simp [need, himm]⟩
  case h_3 =>
    obtain ⟨⟨⟨⟨⟨⟨rfl, rfl⟩, rfl⟩, rfl⟩, rfl⟩, himm⟩, rfl⟩ :
      (((((vs2 = 0 ∧ vs3 = 0) ∧ sb = 0) ∧ vs1 = 0) ∧ pg = 0) ∧ imm.extractLsb' 6 19 = 0) ∧ _ = i := by simpa using h
    exact ⟨rfl, congrArg (fun x => some (wordV 0x0C 2 { FormV.none with vd := vd, rs := rs, et := t.code, imm := x })) (hlow himm),
      fun _ => by simp [need, himm]⟩
  all_goals
    obtain ⟨⟨⟨⟨⟨rfl, rfl⟩, rfl⟩, rfl⟩, rfl⟩, rfl⟩ : ((((vs2 = 0 ∧ vs3 = 0) ∧ sb = 0) ∧ vd = 0) ∧ imm = 0) ∧ _ = i := by simpa using h
    exact ⟨rfl, rfl, fun _ => rfl⟩

theorem decCompare_reads (f : FormV) : Reads (fun n => decCompare n op f) (wordOf 0x0D op f.pack) := by
  intro n i h
  have hop := op_eq op
  cases hb : f.operandB with
  | none => simp [decCompare, hb] at h
  | some b =>
  cases ht : elemTypeOf f.et with
  | none => simp [decCompare, hb, ht] at h
  | some t =>
  have hf := withB_of_operandB hb
  have het := code_of_elemTypeOf ht
  simp only [decCompare, hb, ht, Option.ite_none_left_eq_some] at h ⊢
  obtain ⟨h0, h⟩ := h
  obtain ⟨⟨hd, h3⟩, himm⟩ : (isPred f.vd = true ∧ f.vs3 = 0) ∧ f.imm = 0 := by simpa using h0
  have hd := append_predOf hd
  have hform : ({ FormV.none with vd := 0#1 ++ predOf f.vd, vs1 := f.vs1, pg := f.pg, et := t.code } : FormV).withB b = f := by
    rw [hd, ← het]
    conv_rhs => rw [← hf]
    obtain ⟨vd, vs1, vs2, vs3, pg, et, rs, sb, imm⟩ := f
    obtain ⟨rfl, rfl⟩ : vs3 = 0 ∧ imm = 0 := ⟨h3, himm⟩
    cases b <;> rfl
  generalize op.toNat = k at h hop ⊢
  subst hop
  split at h <;> cases h <;> exact ⟨rfl, congrArg (fun f => some (wordV 0x0D _ f)) hform, fun _ => by rw [if_neg h0]; rfl⟩

theorem decPred_reads (f : FormV) : Reads (fun n => decPred n op f) (wordOf 0x0D op f.pack) := by
  intro n i h
  have hop := op_eq op
  have hcmp := decCompare_reads op f n i
  have hpred := @append_predOf
  unfold decPred at h ⊢
  generalize op.toNat = k at h hop ⊢
  subst hop
  split at h
  case h_7 =>
    obtain ⟨hc, he, hm⟩ := hcmp h
    exact ⟨hc, he, by simpa using hm⟩
  all_goals
    obtain ⟨vd, vs1, vs2, vs3, pg, et, rs, sb, imm⟩ := f
  case h_5 =>
    obtain ⟨⟨⟨⟨⟨⟨⟨⟨rfl, rfl⟩, rfl⟩, rfl⟩, rfl⟩, hd⟩, rfl⟩, rfl⟩, rfl⟩ :
      (((((((et = 0 ∧ pg = 0) ∧ vs3 = 0) ∧ sb = 0) ∧ imm = 0) ∧ isPred vd = true) ∧ vs1 = 0) ∧ vs2 = 0) ∧ _ = i := by simpa using h
    exact ⟨rfl, congrArg (fun x => some (wordV 0x0D _ { FormV.none with vd := x, rs := rs })) (hpred hd), fun _ => by simp [need, hd]⟩
  case h_6 =>
    obtain ⟨⟨⟨⟨⟨⟨⟨⟨rfl, rfl⟩, rfl⟩, rfl⟩, rfl⟩, rfl⟩, hs⟩, rfl⟩, rfl⟩ :
      (((((((et = 0 ∧ pg = 0) ∧ vs3 = 0) ∧ sb = 0) ∧ imm = 0) ∧ vd = 0) ∧ isPred vs1 = true) ∧ vs2 = 0) ∧ _ = i := by simpa using h
    exact ⟨rfl, congrArg (fun x => some (wordV 0x0D _ { FormV.none with rs := rs, vs1 := x })) (hpred hs), fun _ => by simp [need, hs]⟩
  all_goals
    obtain ⟨⟨⟨⟨⟨⟨⟨⟨⟨rfl, rfl⟩, rfl⟩, rfl⟩, rfl⟩, rfl⟩, hd⟩, hs⟩, ht⟩, rfl⟩ :
      ((((((((et = 0 ∧ pg = 0) ∧ vs3 = 0) ∧ sb = 0) ∧ imm = 0) ∧ rs = 0) ∧ isPred vd = true) ∧ isPred vs1 = true) ∧ isPred vs2 = true) ∧ _ = i := by
      simpa using h
    have hform : predForm (predOf vd) (predOf vs1) (predOf vs2) = { FormV.none with vd := vd, vs1 := vs1, vs2 := vs2 } := by
      rw [predForm, hpred hd, hpred hs, hpred ht]
    exact ⟨rfl, congrArg (fun f => some (wordV 0x0D _ f)) hform, fun _ => by simp [need, hd, hs, ht]⟩

theorem decConvert_reads (f : FormV) : Reads (fun n => decConvert n op f) (wordOf 0x0E op f.pack) := by
  intro n i h
  have hop := op_eq op
  have himm := pack_cvtImm f.imm
  unfold decConvert at h ⊢
  dsimp only at h ⊢
  generalize cvtImm f.imm = c at h himm ⊢
  obtain ⟨zero, u, dt, qf, part, sat, rm⟩ := c
  obtain ⟨vd, vs1, vs2, vs3, pg, et, rs, sb, imm⟩ := f
  obtain rfl := himm
  rw [Option.ite_none_left_eq_some] at h
  obtain ⟨h0, h⟩ := h
  obtain ⟨⟨⟨⟨rfl, rfl⟩, rfl⟩, rfl⟩, rfl⟩ : (((vs2 = 0 ∧ vs3 = 0) ∧ rs = 0) ∧ sb = 0) ∧ zero = 0 := by simpa using h0
  split at h
  case h_2 => cases h
  case h_1 t d r q ht hd hr hq =>
  obtain rfl := code_of_elemTypeOf ht
  obtain rfl := code_of_elemTypeOf hd
  obtain rfl := code_of_roundModeOf hr
  obtain rfl := code_of_qFormatOf hq
  generalize op.toNat = k at h hop ⊢
  subst hop
  split at h
  case h_6 => cases h
  case h_4 | h_5 =>
    obtain ⟨⟨⟨⟨rfl, rfl⟩, hd0⟩, rfl⟩, rfl⟩ : (((pg = 0 ∧ u = 0) ∧ d.code = 0) ∧ part = 0) ∧ _ = i := by simpa using h
    rw [hd0]
    refine ⟨rfl, ?_, fun _ => by simp [need]⟩
    rw [← bitOf_flagOf sat]
    cases flagOf sat <;> rfl
  all_goals
    obtain ⟨hq0, rfl⟩ : q.code = 0 ∧ _ = i := by simpa using h
    rw [hq0]
    refine ⟨rfl, ?_, fun _ => by simp [need]⟩
    rw [← bitOf_flagOf u, ← bitOf_flagOf sat]
    cases flagOf u <;> cases flagOf sat <;> rfl

/-! ### Formats D and O -/

theorem decDispatch_reads (f : FormD) : Reads (fun n => decDispatch n op f) (wordOf 0x10 op f.pack) := by
  intro n i h
  obtain ⟨rd, rs1, rs2, crec, wait, ken, knot, low⟩ := f
  obtain ⟨⟨rfl, rfl⟩, rfl⟩ : (op = 0 ∧ low = 0) ∧ _ = i := by simpa [decDispatch] using h
  refine ⟨rfl, ?_, fun _ => rfl⟩
  change some (wordOf 0x10 0 (FormD.pack { rd, rs1, rs2, crec := bitOf (flagOf crec), wait := bitOf (flagOf wait), ken := bitOf (flagOf ken), knot, low := 0 })) = _
  simp only [bitOf_flagOf]

theorem decCompl_reads (f : FormO) : Reads (fun n => decCompl n op f) (wordOf 0x11 op f.pack) := by
  intro n i h
  have hop := op_eq op
  have hlow : f.imm.extractLsb' 2 18 = 0 → 0#18 ++ f.imm.extractLsb' 0 2 = f.imm := zero_append_low (k := 18) (m := 2)
  obtain ⟨rd, rs1, rs2, rs3, nw, oimm, imm⟩ := f
  unfold decCompl at h ⊢
  rw [Option.ite_none_left_eq_some] at h
  obtain ⟨h0, h⟩ := h
  obtain ⟨⟨⟨rfl, rfl⟩, rfl⟩, rfl⟩ : ((rs2 = 0 ∧ rs3 = 0) ∧ nw = 0) ∧ oimm = 0 := by simpa using h0
  generalize op.toNat = k at h hop ⊢
  subst hop
  split at h
  case h_1 =>
    obtain ⟨himm, rfl⟩ : imm.extractLsb' 2 18 = 0 ∧ _ = i := by simpa using h
    exact ⟨rfl, congrArg (fun x => some (wordO 0x11 _ { FormO.none with rd := rd, rs1 := rs1, imm := x })) (hlow himm),
      fun _ => by simp [need, himm]⟩
  case h_4 => cases h
  all_goals
    obtain ⟨rfl, rfl⟩ : imm = 0 ∧ _ = i := by simpa using h
    exact ⟨rfl, rfl, fun _ => rfl⟩

theorem decKnot_reads (f : FormO) : Reads (fun n => decKnot n op f) (wordOf 0x12 op f.pack) := by
  intro n i h
  have hop := op_eq op
  obtain ⟨rd, rs1, rs2, rs3, nw, oimm, imm⟩ := f
  unfold decKnot at h ⊢
  generalize op.toNat = k at h hop ⊢
  subst hop
  split at h
  case h_2 =>
    cases h
    exact ⟨rfl, congrArg (fun x => some (wordO 0x12 1 { rd, rs1, rs2, rs3, nw := x, oimm, imm })) (bitOf_flagOf nw), fun _ => rfl⟩
  case h_3 =>
    obtain ⟨⟨⟨⟨rfl, rfl⟩, rfl⟩, rfl⟩, rfl⟩ : (((rs2 = 0 ∧ rs3 = 0) ∧ nw = 0) ∧ imm = 0) ∧ _ = i := by simpa using h
    exact ⟨rfl, rfl, fun _ => rfl⟩
  case h_6 => cases h
  all_goals
    obtain ⟨⟨⟨rfl, rfl⟩, rfl⟩, rfl⟩ : ((rd = 0 ∧ rs3 = 0) ∧ nw = 0) ∧ _ = i := by simpa using h
    exact ⟨rfl, rfl, fun _ => rfl⟩

theorem decBobbin_reads (f : FormO) : Reads (fun n => decBobbin n op f) (wordOf 0x13 op f.pack) := by
  intro n i h
  have hop := op_eq op
  have hlow : f.imm.extractLsb' 4 16 = 0 → 0#16 ++ f.imm.extractLsb' 0 4 = f.imm := zero_append_low (k := 16) (m := 4)
  obtain ⟨rd, rs1, rs2, rs3, nw, oimm, imm⟩ := f
  unfold decBobbin at h ⊢
  generalize op.toNat = k at h hop ⊢
  subst hop
  split at h
  case h_3 =>
    obtain ⟨⟨⟨⟨rfl, rfl⟩, rfl⟩, rfl⟩, rfl⟩ : (((rs2 = 0 ∧ rs3 = 0) ∧ nw = 0) ∧ imm = 0) ∧ _ = i := by simpa using h
    exact ⟨rfl, rfl, fun _ => rfl⟩
  case h_4 => cases h
  all_goals
    obtain ⟨⟨rfl, himm⟩, rfl⟩ : (rs3 = 0 ∧ imm.extractLsb' 4 16 = 0) ∧ _ = i := by simpa using h
    exact ⟨rfl, congrArg₂ (fun x y => some (wordO 0x13 _ { rd, rs1, rs2, rs3 := 0, nw := x, oimm, imm := y })) (bitOf_flagOf nw) (hlow himm),
      fun _ => by simp [need, himm]⟩

end Classes

/-- What reads a body by the fields of its format. -/
theorem Reads.of_pack {dec : CoreId → Option Instr} {major op : BitVec 5} {p b : BitVec 54} (h : Reads dec (wordOf major op p)) (hp : p = b) :
    Reads dec (wordOf major op b) := hp ▸ h

/-- The whole decoder, by the class of the word. -/
theorem decodeNib_reads (w : W64) : Reads (fun n => decodeNib n w) w := by
  intro n i h
  have hw := wordOf_parts w
  have hmajor := op_eq (majorOf w)
  unfold decodeNib at h ⊢
  dsimp only at h ⊢
  generalize (majorOf w).toNat = k at h hmajor ⊢
  rw [hmajor] at hw
  split at h
  case h_22 => cases h
  all_goals conv in encodeNib i = some w => rw [← hw]
  case h_1 => exact (decSalu_reads (opOf w) _).of_pack (pack_formI _) n i h
  case h_2 => exact (decSalui_reads (opOf w) _).of_pack (pack_formI _) n i h
  case h_3 => exact (decSmul_reads (opOf w) _).of_pack (pack_formI _) n i h
  case h_4 => exact (decLoad_reads (opOf w) _).of_pack (pack_formI _) n i h
  case h_5 => exact (decStore_reads (opOf w) _).of_pack (pack_formI _) n i h
  case h_6 => exact (decBranch_reads (opOf w) _).of_pack (pack_formI _) n i h
  case h_7 => exact (decJump_reads (opOf w) _).of_pack (pack_formI _) n i h
  case h_8 => exact (decVint_reads (opOf w) _).of_pack (pack_formV _) n i h
  case h_9 => exact (decVfp_reads (opOf w) _).of_pack (pack_formV _) n i h
  case h_10 => exact (decVload_reads (opOf w) _).of_pack (pack_formV _) n i h
  case h_11 => exact (decVstore_reads (opOf w) _).of_pack (pack_formV _) n i h
  case h_12 => exact (decVperm_reads (opOf w) _).of_pack (pack_formV _) n i h
  case h_13 => exact (decPred_reads (opOf w) _).of_pack (pack_formV _) n i h
  case h_14 => exact (decConvert_reads (opOf w) _).of_pack (pack_formV _) n i h
  case h_15 => exact (decMove_reads (opOf w) _).of_pack (pack_formI _) n i h
  case h_16 => exact (decDispatch_reads (opOf w) _).of_pack (pack_formD _) n i h
  case h_17 => exact (decCompl_reads (opOf w) _).of_pack (pack_formO _) n i h
  case h_18 => exact (decKnot_reads (opOf w) _).of_pack (pack_formO _) n i h
  case h_19 => exact (decBobbin_reads (opOf w) _).of_pack (pack_formO _) n i h
  case h_20 => exact (decStroke_reads (opOf w) _).of_pack (pack_formI _) n i h
  case h_21 => exact (decSystem_reads (opOf w) _).of_pack (pack_formI _) n i h

end Sys2Proof.Proofs
end

section
/-!
The words of the instructions of a Nib core read as the instructions again, and the statement on words (R151 to R153).
-/
namespace Sys2Proof.Proofs
open Sys2Proof.Machine Sys2Proof.Laws Sys2Proof.Claims

/-! ### The class of a word (Table 5-3) -/

section Class
variable (n : CoreId) (op : BitVec 5)

theorem decodeNib_salu (f : FormI) : decodeNib n (wordOf 0x01 op f.pack) = decSalu n op f := by
  simp [decodeNib, majorOf_wordOf, opOf_wordOf, bodyOf_wordOf, formI_pack]
theorem decodeNib_salui (f : FormI) : decodeNib n (wordOf 0x02 op f.pack) = decSalui n op f := by
  simp [decodeNib, majorOf_wordOf, opOf_wordOf, bodyOf_wordOf, formI_pack]
theorem decodeNib_smul (f : FormI) : decodeNib n (wordOf 0x03 op f.pack) = decSmul n op f := by
  simp [decodeNib, majorOf_wordOf, opOf_wordOf, bodyOf_wordOf, formI_pack]
theorem decodeNib_load (f : FormI) : decodeNib n (wordOf 0x04 op f.pack) = decLoad n op f := by
  simp [decodeNib, majorOf_wordOf, opOf_wordOf, bodyOf_wordOf, formI_pack]
theorem decodeNib_store (f : FormI) : decodeNib n (wordOf 0x05 op f.pack) = decStore n op f := by
  simp [decodeNib, majorOf_wordOf, opOf_wordOf, bodyOf_wordOf, formI_pack]
theorem decodeNib_branch (f : FormI) : decodeNib n (wordOf 0x06 op f.pack) = decBranch n op f := by
  simp [decodeNib, majorOf_wordOf, opOf_wordOf, bodyOf_wordOf, formI_pack]
theorem decodeNib_jump (f : FormI) : decodeNib n (wordOf 0x07 op f.pack) = decJump n op f := by
  simp [decodeNib, majorOf_wordOf, opOf_wordOf, bodyOf_wordOf, formI_pack]
theorem decodeNib_vint (f : FormV) : decodeNib n (wordOf 0x08 op f.pack) = decVint n op f := by
  simp [decodeNib, majorOf_wordOf, opOf_wordOf, bodyOf_wordOf, formV_pack]
theorem decodeNib_vfp (f : FormV) : decodeNib n (wordOf 0x09 op f.pack) = decVfp n op f := by
  simp [decodeNib, majorOf_wordOf, opOf_wordOf, bodyOf_wordOf, formV_pack]
theorem decodeNib_vload (f : FormV) : decodeNib n (wordOf 0x0A op f.pack) = decVload n op f := by
  simp [decodeNib, majorOf_wordOf, opOf_wordOf, bodyOf_wordOf, formV_pack]
theorem decodeNib_vstore (f : FormV) : decodeNib n (wordOf 0x0B op f.pack) = decVstore n op f := by
  simp [decodeNib, majorOf_wordOf, opOf_wordOf, bodyOf_wordOf, formV_pack]
theorem decodeNib_vperm (f : FormV) : decodeNib n (wordOf 0x0C op f.pack) = decVperm n op f := by
  simp [decodeNib, majorOf_wordOf, opOf_wordOf, bodyOf_wordOf, formV_pack]
theorem decodeNib_pred (f : FormV) : decodeNib n (wordOf 0x0D op f.pack) = decPred n op f := by
  simp [decodeNib, majorOf_wordOf, opOf_wordOf, bodyOf_wordOf, formV_pack]
theorem decodeNib_convert (f : FormV) : decodeNib n (wordOf 0x0E op f.pack) = decConvert n op f := by
  simp [decodeNib, majorOf_wordOf, opOf_wordOf, bodyOf_wordOf, formV_pack]
theorem decodeNib_move (f : FormI) : decodeNib n (wordOf 0x0F op f.pack) = decMove n op f := by
  simp [decodeNib, majorOf_wordOf, opOf_wordOf, bodyOf_wordOf, formI_pack]
theorem decodeNib_dispatch (f : FormD) : decodeNib n (wordOf 0x10 op f.pack) = decDispatch n op f := by
  simp [decodeNib, majorOf_wordOf, opOf_wordOf, bodyOf_wordOf, formD_pack]
theorem decodeNib_compl (f : FormO) : decodeNib n (wordOf 0x11 op f.pack) = decCompl n op f := by
  simp [decodeNib, majorOf_wordOf, opOf_wordOf, bodyOf_wordOf, formO_pack]
theorem decodeNib_knot (f : FormO) : decodeNib n (wordOf 0x12 op f.pack) = decKnot n op f := by
  simp [decodeNib, majorOf_wordOf, opOf_wordOf, bodyOf_wordOf, formO_pack]
theorem decodeNib_bobbin (f : FormO) : decodeNib n (wordOf 0x13 op f.pack) = decBobbin n op f := by
  simp [decodeNib, majorOf_wordOf, opOf_wordOf, bodyOf_wordOf, formO_pack]
theorem decodeNib_stroke (f : FormI) : decodeNib n (wordOf 0x14 op f.pack) = decStroke n op f := by
  simp [decodeNib, majorOf_wordOf, opOf_wordOf, bodyOf_wordOf, formI_pack]
theorem decodeNib_system (f : FormI) : decodeNib n (wordOf 0x15 op f.pack) = decSystem n op f := by
  simp [decodeNib, majorOf_wordOf, opOf_wordOf, bodyOf_wordOf, formI_pack]

end Class

/-- The two-operand operations, with either operand b. -/
theorem decodeNib_wordAlu (n : CoreId) {op : BitVec 5} (hop : op.toNat < 14) (rd rs1 : SReg) (b : ScalarB) :
    decodeNib n (wordAlu op rd rs1 b) = decAlu n op rd rs1 b := by
  cases b with
  | imm x =>
    have h : op ≠ 30#5 := by rintro rfl; simp at hop
    exact (decodeNib_salui n op _).trans (by simp [decSalui, h])
  | reg r =>
    refine (decodeNib_salu n op _).trans ?_
    rw [decSalu, if_neg (by simp)]
    split
    case h_5 => rfl
    all_goals omega

/-! ### Words that hold an operand b, or coded fields -/

section WithB
variable (f : FormV) (b : VectorB)

@[simp] theorem vd_withB : (f.withB b).vd = f.vd := by cases b <;> rfl
@[simp] theorem vs1_withB : (f.withB b).vs1 = f.vs1 := by cases b <;> rfl
@[simp] theorem vs3_withB : (f.withB b).vs3 = f.vs3 := by cases b <;> rfl
@[simp] theorem pg_withB : (f.withB b).pg = f.pg := by cases b <;> rfl
@[simp] theorem et_withB : (f.withB b).et = f.et := by cases b <;> rfl
@[simp] theorem imm_withB : (f.withB b).imm = f.imm := by cases b <;> rfl

end WithB

@[simp] theorem vs3_form (o : VBin) : o.form.vs3 = 0 := vs3_withB ..
@[simp] theorem imm_form (o : VBin) : o.form.imm = 0 := imm_withB ..

theorem elemTypeOf_zero : elemTypeOf 0#4 = some .i8 := rfl
theorem qFormatOf_zero : qFormatOf 0#2 = some .qb8 := rfl

/-- VS3 is no field of a two-operand instruction. -/
theorem bin_form_vs3 (o : VBin) (v : VReg) : FormV.bin { o.form with vs3 := v } = some o := bin_form o

/-- The high and the low bits of a number behind zeros. -/
theorem zero_append_parts {k m : Nat} (x : BitVec m) : (0#k ++ x).extractLsb' m k = 0 ∧ (0#k ++ x).extractLsb' 0 m = x :=
  ⟨BitVec.extractLsb'_append_eq_left, BitVec.extractLsb'_append_eq_right⟩

/-! ### The encoder, class by class -/

/-- Every instruction of a core has a word, which reads as the instruction. -/
theorem decodeNib_encodeNib {n : CoreId} {i : Instr} (h : i.core? = some n) : ∃ w, encodeNib i = some w ∧ decodeNib n w = some i := by
  cases i with
  | add _ rd rs1 b | sub _ rd rs1 b | and _ rd rs1 b | or _ rd rs1 b | xor _ rd rs1 b | sll _ rd rs1 b | srl _ rd rs1 b | sra _ rd rs1 b
  | slt _ rd rs1 b | sltu _ rd rs1 b | min _ rd rs1 b | max _ rd rs1 b | minu _ rd rs1 b | maxu _ rd rs1 b =>
    cases h
    exact ⟨_, rfl, decodeNib_wordAlu n (by decide) rd rs1 b⟩
  | clz | ctz | popc | bswap =>
    cases h
    exact ⟨_, rfl, decodeNib_salu ..⟩
  | lui =>
    cases h
    exact ⟨_, rfl, decodeNib_salui ..⟩
  | mul | mulh | mulhu | div | divu | rem | remu =>
    cases h
    exact ⟨_, rfl, decodeNib_smul ..⟩
  | lb | lh | lw | ld | lbu | lhu | lwu =>
    cases h
    exact ⟨_, rfl, decodeNib_load ..⟩
  | sb | sh | sw | sd =>
    cases h
    exact ⟨_, rfl, decodeNib_store ..⟩
  | beq | bne | blt | bge | bltu | bgeu =>
    cases h
    exact ⟨_, rfl, decodeNib_branch ..⟩
  | jal | jalr =>
    cases h
    exact ⟨_, rfl, decodeNib_jump ..⟩
  | mfs _ rd r | mts _ rs1 r =>
    cases h
    exact ⟨_, rfl, (decodeNib_move ..).trans (by simp [decMove, need])⟩
  | scount | sphase | sstep | svote =>
    cases h
    exact ⟨_, rfl, decodeNib_stroke ..⟩
  | nop | fence | endProg | trap | eret | ifence =>
    cases h
    exact ⟨_, rfl, decodeNib_system ..⟩
  | vadd _ o | vsub _ o | vmul _ o | vmulh _ o | vmulhu _ o | vand _ o | vor _ o | vxor _ o | vsll _ o | vsrl _ o | vsra _ o | vmin _ o | vmax _ o
  | vminu _ o | vmaxu _ o | vsadd _ o | vssub _ o | vsel _ o =>
    cases h
    exact ⟨_, rfl, (decodeNib_vint ..).trans (by simp [decVint])⟩
  | vfadd _ o | vfsub _ o | vfmul _ o | vfmin _ o | vfmax _ o =>
    cases h
    exact ⟨_, rfl, (decodeNib_vfp ..).trans (by simp [decVfp, need])⟩
  | vfma _ o vs3 =>
    cases h
    exact ⟨_, rfl, (decodeNib_vfp ..).trans (by rw [decVfp, bin_form_vs3]; simp)⟩
  | vfabs | vfneg =>
    cases h
    exact ⟨_, rfl, (decodeNib_vfp ..).trans (by simp [decVfp, need, FormV.none, FormV.bin, FormV.operandB])⟩
  | vld _ o | vldbc _ o =>
    cases h
    exact ⟨_, rfl, (decodeNib_vload ..).trans (by simp [decVload, VMemOp.loadForm, FormV.none])⟩
  | vst _ o =>
    cases h
    exact ⟨_, rfl, (decodeNib_vstore ..).trans (by simp [decVstore, VMemOp.storeForm, FormV.none, need])⟩
  | vbcast | vredadd | vredmin | vredmax | vfredadd =>
    cases h
    exact ⟨_, rfl, (decodeNib_vperm ..).trans (by simp [decVperm, FormV.none, need])⟩
  | vext _ rs vs1 et ix | vins _ rs vs1 et ix =>
    cases h
    exact ⟨_, rfl, (decodeNib_vperm ..).trans (by simpa [decVperm, FormV.none, need] using zero_append_parts (k := 19) ix)⟩
  | vshuf _ vd vs1 b pg =>
    cases h
    exact ⟨_, rfl, (decodeNib_vperm ..).trans (by simp [decVperm, FormV.none, need, elemTypeOf_zero])⟩
  | vcmpEq _ o | vcmpNe _ o | vcmpLt _ o | vcmpLe _ o | vcmpLtu _ o | vcmpLeu _ o | vcmpFeq _ o | vcmpFlt _ o | vcmpFle _ o | vcmpFunord _ o =>
    cases h
    exact ⟨_, rfl, (decodeNib_pred ..).trans (by simp [decPred, decCompare, VCmpOp.form, FormV.none])⟩
  | pand _ pd ps1 ps2 | por _ pd ps1 ps2 | pxor _ pd ps1 ps2 | pandn _ pd ps1 ps2 =>
    cases h
    exact ⟨_, rfl, (decodeNib_pred ..).trans (by simp [decPred, predForm, FormV.none, need])⟩
  | pfroms _ pd rs =>
    cases h
    exact ⟨_, rfl, (decodeNib_pred ..).trans (by simp [decPred, FormV.none, need])⟩
  | ptos _ rs ps =>
    cases h
    exact ⟨_, rfl, (decodeNib_pred ..).trans (by simp [decPred, FormV.none, need])⟩
  | vcvt _ o | vcvtw _ o | vcvtn _ o =>
    cases h
    exact ⟨_, rfl, (decodeNib_convert ..).trans (by simp [decConvert, CvtOp.form, cvtImm_pack, FormV.none, need, qFormatOf_zero])⟩
  | qpack _ o | qunpack _ o =>
    cases h
    exact ⟨_, rfl, (decodeNib_convert ..).trans (by simp [decConvert, QOp.form, cvtImm_pack, FormV.none, need, elemTypeOf_zero])⟩
  | dispatch =>
    cases h
    exact ⟨_, rfl, (decodeNib_dispatch ..).trans (by simp [decDispatch, need])⟩
  | cread _ rd rs1 sel =>
    cases h
    exact ⟨_, rfl, (decodeNib_compl ..).trans (by simpa [decCompl, FormO.none, need] using zero_append_parts (k := 18) sel)⟩
  | cwait | cretire =>
    cases h
    exact ⟨_, rfl, decodeNib_compl ..⟩
  | karrive | kset | kthr | kread | kwait =>
    cases h
    exact ⟨_, rfl, (decodeNib_knot ..).trans (by simp [decKnot, FormO.none, need])⟩
  | bsend _ _ _ _ _ _ len | brecv _ _ _ _ _ _ len =>
    cases h
    exact ⟨_, rfl, (decodeNib_bobbin ..).trans (by simpa [decBobbin, need] using zero_append_parts (k := 16) len)⟩
  | bcount =>
    cases h
    exact ⟨_, rfl, decodeNib_bobbin ..⟩
  | _ => cases h

/-- Settles O60: what the decoder reads is the word's own, class by class, and each instruction's word reads as it. -/
theorem nibWordsRoundTrip : Obligations.NibWordsRoundTrip := by
  unfold Obligations.NibWordsRoundTrip
  refine ⟨fun n w i h => ?_, fun n i => decodeNib_encodeNib, fun n m w hn => ?_⟩
  · obtain ⟨hcore, hword, -⟩ := decodeNib_reads w n i h
    exact ⟨hcore, hword⟩
  · refine Option.eq_none_iff_forall_ne_some.mpr fun i h => ?_
    obtain ⟨-, -, hreads⟩ := decodeNib_reads w m i h
    exact absurd (hreads n) (by simp [hn])

end Sys2Proof.Proofs
end

section
/-!
The register files of a Nib core, and its scalar arithmetic: results as numbers, and the instructions that compute them (Tables 4-3 and 5-4, R152,
R154).
-/
namespace Sys2Proof.Proofs
open Sys2Proof.Machine Sys2Proof.Laws Sys2Proof.Claims

/-! ### Register files (Table 4-3) -/

/-- Settles O4: a write is read back, reaches no other register, and leaves the other files. -/
theorem nibRegisterFiles : Obligations.NibRegisterFiles := by
  unfold Obligations.NibRegisterFiles
  refine ⟨fun k i j w => ?_, sreg_zero, fun k i j w => ?_, preg_zero, fun k i j w => ?_, fun k i w => ?_, fun k i w => ?_, fun _ _ _ => ⟨rfl, rfl, rfl⟩⟩
  · split
    case isTrue h => obtain ⟨rfl, hi⟩ := h; exact sreg_setS_same k w hi
    case isFalse h =>
      by_cases hij : i = j
      · obtain rfl : i = 0 := not_not.mp fun hi => h ⟨hij, hi⟩
        rw [setS_zero]
      · exact sreg_setS_other k w (Ne.symm hij)
  · split
    case isTrue h => obtain ⟨rfl, hi⟩ := h; exact preg_setP_same k w hi
    case isFalse h =>
      by_cases hij : i = j
      · obtain rfl : i = 0 := not_not.mp fun hi => h ⟨hij, hi⟩
        rw [setP_zero]
      · exact preg_setP_other k w (Ne.symm hij)
  · split
    case isTrue h => subst h; exact vreg_setV_same ..
    case isFalse h => exact vreg_setV_other k w (Ne.symm h)
  · unfold NibCore.setS; split <;> exact ⟨rfl, rfl, rfl⟩
  · unfold NibCore.setP; split <;> exact ⟨rfl, rfl, rfl⟩

/-! ### Instructions that compute registers -/

/-- A command that computes registers computes anything equal. -/
theorem computes_of_nibCompute {i : Instr} {n : CoreId} {f g : NibCore → NibCore} (hi : ∀ s, exec i s = .next (s.nibCompute n g)) (h : ∀ k, g k = f k) :
    Computes i n f := fun _ s1 hx => (exec_of_nibStep hx (hi _)).trans (congrArg (fun k => Host.Outcome.next (finished s1 n k)) (h (s1.core n)))

/-- A command that sets rd to a result sets it to anything equal. -/
theorem computes_setS {i : Instr} {n : CoreId} {rd : SReg} {f g : NibCore → W64}
    (hi : ∀ s, exec i s = .next (s.nibCompute n fun k => k.setS rd (g k))) (h : ∀ k, g k = f k) : Computes i n fun k => k.setS rd (f k) :=
  computes_of_nibCompute hi fun k => congrArg (k.setS rd) (h k)

/-! ### Results as numbers (Table 5-4, R154) -/

section Results
variable (a b : W64)

theorem sub_eq_ofInt : a - b = BitVec.ofInt 64 (a.toInt - b.toInt) := by
  refine BitVec.eq_of_toInt_eq ?_
  rw [BitVec.toInt_sub, BitVec.toInt_ofInt]

theorem shiftLeft_eq_ofNat (k : Nat) : a <<< k = BitVec.ofNat 64 (a.toNat * 2 ^ k) := by
  rw [← Nat.shiftLeft_eq]; rfl

theorem ushiftRight_eq_ofNat (k : Nat) : a >>> k = BitVec.ofNat 64 (a.toNat / 2 ^ k) := by
  refine BitVec.eq_of_toNat_eq ?_
  rw [BitVec.toNat_ushiftRight, Nat.shiftRight_eq_div_pow, BitVec.toNat_ofNat, Nat.mod_eq_of_lt ((Nat.div_le_self ..).trans_lt a.isLt)]

theorem sshiftRight_eq_ofInt (k : Nat) : a.sshiftRight k = BitVec.ofInt 64 (a.toInt / 2 ^ k) := by
  rw [BitVec.sshiftRight, Int.shiftRight_eq_div_pow]
  norm_cast

theorem boolWord_eq_ite (p : Prop) [Decidable p] : boolWord (decide p) = if p then 1 else 0 := by
  simp only [boolWord, decide_eq_true_eq]

theorem signedMin_eq_ofInt : (if b.slt a then b else a) = BitVec.ofInt 64 (min a.toInt b.toInt) := by
  by_cases h : b.slt a = true
  · rw [if_pos h, min_eq_right (BitVec.slt_iff_toInt_lt.mp h).le, BitVec.ofInt_toInt]
  · rw [if_neg h, min_eq_left (not_lt.mp (BitVec.slt_iff_toInt_lt.not.mp h)), BitVec.ofInt_toInt]

theorem signedMax_eq_ofInt : (if a.slt b then b else a) = BitVec.ofInt 64 (max a.toInt b.toInt) := by
  by_cases h : a.slt b = true
  · rw [if_pos h, max_eq_right (BitVec.slt_iff_toInt_lt.mp h).le, BitVec.ofInt_toInt]
  · rw [if_neg h, max_eq_left (not_lt.mp (BitVec.slt_iff_toInt_lt.not.mp h)), BitVec.ofInt_toInt]

theorem unsignedMin_eq_ofNat : (if b.ult a then b else a) = BitVec.ofNat 64 (min a.toNat b.toNat) := by
  by_cases h : b.ult a = true
  · rw [if_pos h, min_eq_right (BitVec.ult_iff_toNat_lt.mp h).le, BitVec.ofNat_toNat, BitVec.setWidth_eq]
  · rw [if_neg h, min_eq_left (not_lt.mp (BitVec.ult_iff_toNat_lt.not.mp h)), BitVec.ofNat_toNat, BitVec.setWidth_eq]

theorem unsignedMax_eq_ofNat : (if a.ult b then b else a) = BitVec.ofNat 64 (max a.toNat b.toNat) := by
  by_cases h : a.ult b = true
  · rw [if_pos h, max_eq_right (BitVec.ult_iff_toNat_lt.mp h).le, BitVec.ofNat_toNat, BitVec.setWidth_eq]
  · rw [if_neg h, max_eq_left (not_lt.mp (BitVec.ult_iff_toNat_lt.not.mp h)), BitVec.ofNat_toNat, BitVec.setWidth_eq]

/-- LUI: the immediate above the low half. -/
theorem lui_eq_ofNat (imm : W32) : (imm.zeroExtend 64 <<< 32) ||| (a &&& 0xFFFFFFFF#64) = BitVec.ofNat 64 (imm.toNat * 2 ^ 32 + a.toNat % 2 ^ 32) := by
  have hlow : a.toNat % 2 ^ 32 < 2 ^ 32 := Nat.mod_lt _ (by decide)
  have himm : imm.toNat < 2 ^ 32 := imm.isLt
  refine BitVec.eq_of_toNat_eq ?_
  rw [BitVec.toNat_or, BitVec.toNat_and, BitVec.toNat_shiftLeft, BitVec.zeroExtend_eq_setWidth, BitVec.toNat_setWidth, BitVec.toNat_ofNat, BitVec.toNat_ofNat]
  rw [show 0xFFFFFFFF % 2 ^ 64 = 2 ^ 32 - 1 from rfl, Nat.and_two_pow_sub_one_eq_mod, Nat.mod_eq_of_lt (a := imm.toNat) (by omega), ← Nat.shiftLeft_eq,
    Nat.shiftLeft_add_eq_or_of_lt hlow, Nat.or_mod_two_pow]
  rw [Nat.mod_eq_of_lt (a := a.toNat % 2 ^ 32) (by omega)]

/-- The zeros above the highest bit that is 1; 64 of none. -/
def leadingZeros (a : W64) : Nat := if a = 0 then 64 else 63 - Nat.log2 a.toNat

theorem clz64_eq_ofNat : clz64 a = BitVec.ofNat 64 (leadingZeros a) := by
  unfold clz64 leadingZeros; split <;> rfl

theorem leadingZeros_bits : leadingZeros a ≤ 64 ∧ (∀ i < leadingZeros a, a.getLsbD (63 - i) = false) ∧
    (leadingZeros a < 64 → a.getLsbD (63 - leadingZeros a) = true) := by
  by_cases h : a = 0
  · subst h; simp [leadingZeros]
  · have h0 : a.toNat ≠ 0 := fun e => h (BitVec.eq_of_toNat_eq e)
    have hlog : a.toNat.log2 < 64 := (Nat.log2_lt h0).mpr a.isLt
    simp only [leadingZeros, if_neg h]
    refine ⟨by omega, fun i hi => Nat.testBit_lt_two_pow ?_, fun _ => ?_⟩
    · exact (Nat.lt_log2_self).trans_le (Nat.pow_le_pow_right (by decide) (by omega))
    · rw [show 63 - (63 - a.toNat.log2) = a.toNat.log2 by omega]
      exact Nat.testBit_log2 h0

/-- The lowest bit that is 1; 64 of none. -/
def lowestOne (a : W64) : Nat := ((List.range 64).find? fun i => a.getLsbD i).getD 64

theorem lowestOne_bits : lowestOne a ≤ 64 ∧ (∀ i < lowestOne a, a.getLsbD i = false) ∧ (lowestOne a < 64 → a.getLsbD (lowestOne a) = true) := by
  unfold lowestOne
  cases h : (List.range 64).find? fun i => a.getLsbD i with
  | none =>
    have hnone : ∀ i < 64, a.getLsbD i = false := by simpa using h
    exact ⟨le_rfl, hnone, fun hlt => absurd hlt (lt_irrefl _)⟩
  | some j =>
    obtain ⟨hj, hmem, hlow⟩ := List.find?_range_eq_some.mp h
    exact ⟨(List.mem_range.mp hmem).le, fun i hi => by simpa using hlow i hi, fun _ => hj⟩

end Results

/-! ### Bytes reversed -/

/-- Byte i of the number of a list of bytes. -/
theorem ofBytes_byte (l : List Byte) (i : Nat) : ofBytes l / 256 ^ i % 256 = (l.getD i 0).toNat := by
  induction l generalizing i with
  | nil => simp [ofBytes]
  | cons b l ih =>
    have hb : b.toNat < 256 := b.isLt
    cases i with
    | zero => simp [ofBytes]; omega
    | succ i =>
      rw [ofBytes, Nat.pow_succ', ← Nat.div_div_eq_div_mul, show (b.toNat + 256 * ofBytes l) / 256 = ofBytes l by omega, ih, List.getD_cons_succ]

/-- Byte i of a number as bytes. -/
theorem toNat_getD_toBytes {n i : Nat} (v : Nat) (h : i < n) : ((toBytes n v).getD i 0).toNat = v / 256 ^ i % 256 := by
  induction n generalizing v i with
  | zero => exact absurd h (Nat.not_lt_zero i)
  | succ n ih =>
    cases i with
    | zero => simp [toBytes]
    | succ i => rw [toBytes, List.getD_cons_succ, ih _ (Nat.lt_of_succ_lt_succ h), Nat.div_div_eq_div_mul, ← Nat.pow_succ']

/-- Byte i of a word. -/
theorem toNat_extractByte (v : Nat) {i : Nat} (h : i < 8) : ((BitVec.ofNat 64 v).extractLsb' (8 * i) 8).toNat = v / 256 ^ i % 256 := by
  rw [BitVec.extractLsb'_toNat, BitVec.toNat_ofNat, Nat.shiftRight_eq_div_pow]
  interval_cases i <;> omega

theorem bswap64_byte (a : W64) {i : Nat} (h : i < 8) : (bswap64 a).extractLsb' (8 * i) 8 = a.extractLsb' (8 * (7 - i)) 8 := by
  have ha : a = BitVec.ofNat 64 a.toNat := by simp
  refine BitVec.eq_of_toNat_eq ?_
  conv_rhs => rw [ha, toNat_extractByte _ (by omega), ← toNat_getD_toBytes (n := 8) _ (by omega)]
  rw [bswap64, toNat_extractByte _ h, ofBytes_byte]
  congr 1
  rw [List.getD_eq_getElem?_getD, List.getD_eq_getElem?_getD, List.getElem?_reverse (by simpa using h), length_toBytes]

/-! ### The statements -/

/-- Settles O5: each instruction computes, and its result is the number of Table 5-4. -/
theorem scalarAluResults : Obligations.ScalarAluResults := by
  unfold Obligations.ScalarAluResults
  intro n rd rs1 b imm
  refine ⟨computes_setS (fun _ => rfl) fun _ => rfl, computes_setS (fun _ => rfl) fun _ => sub_eq_ofInt .., computes_setS (fun _ => rfl) fun _ => rfl,
    computes_setS (fun _ => rfl) fun _ => rfl, computes_setS (fun _ => rfl) fun _ => rfl, computes_setS (fun _ => rfl) fun _ => shiftLeft_eq_ofNat ..,
    computes_setS (fun _ => rfl) fun _ => ushiftRight_eq_ofNat .., computes_setS (fun _ => rfl) fun _ => sshiftRight_eq_ofInt ..,
    computes_setS (fun _ => rfl) fun _ => boolWord_eq_ite _, computes_setS (fun _ => rfl) fun _ => boolWord_eq_ite _,
    computes_setS (fun _ => rfl) fun _ => signedMin_eq_ofInt .., computes_setS (fun _ => rfl) fun _ => signedMax_eq_ofInt ..,
    computes_setS (fun _ => rfl) fun _ => unsignedMin_eq_ofNat .., computes_setS (fun _ => rfl) fun _ => unsignedMax_eq_ofNat ..,
    computes_setS (fun _ => rfl) fun _ => lui_eq_ofNat .., ?_, ?_⟩
  · refine ⟨leadingZeros, lowestOne, fun a => ((List.range 64).filter fun i => a.getLsbD i).length,
      computes_setS (fun _ => rfl) fun _ => clz64_eq_ofNat _, computes_setS (fun _ => rfl) fun _ => rfl,
      computes_setS (fun _ => rfl) fun _ => congrArg _ List.countP_eq_length_filter, leadingZeros_bits, lowestOne_bits, fun _ => rfl⟩
  · exact ⟨bswap64, computes_setS (fun _ => rfl) fun _ => rfl, fun a i hi => bswap64_byte a hi⟩

section Division
variable (a b : W64)

theorem ofInt_eq_of_toInt {x : Int} (h : a.toInt = x) : a = BitVec.ofInt 64 x := by rw [← h, BitVec.ofInt_toInt]

/-- DIV, with the one quotient that 64 bits do not hold named. -/
theorem div64_eq : div64 a b =
    if b = 0 then BitVec.allOnes 64 else if a.toInt = -2 ^ 63 ∧ b.toInt = -1 then a else BitVec.ofInt 64 (a.toInt.tdiv b.toInt) := by
  refine if_congr Iff.rfl rfl ?_
  split
  case isTrue h =>
    obtain ⟨ha, hb⟩ := h
    rw [ha, hb, ofInt_eq_of_toInt a ha]
    rfl
  case isFalse => rfl

/-- REM, with the dividend and divisor whose quotient 64 bits do not hold named. -/
theorem rem64_eq : rem64 a b = if b = 0 then a else if a.toInt = -2 ^ 63 ∧ b.toInt = -1 then 0 else BitVec.ofInt 64 (a.toInt.tmod b.toInt) := by
  refine if_congr Iff.rfl rfl ?_
  split
  case isTrue h =>
    obtain ⟨ha, hb⟩ := h
    rw [ha, hb]
    rfl
  case isFalse => rfl

theorem divu64_eq : divu64 a b = if b = 0 then BitVec.allOnes 64 else BitVec.ofNat 64 (a.toNat / b.toNat) :=
  if_congr Iff.rfl rfl (BitVec.eq_of_toNat_eq (by rw [BitVec.toNat_udiv, BitVec.toNat_ofNat, Nat.mod_eq_of_lt ((Nat.div_le_self ..).trans_lt a.isLt)]))

theorem remu64_eq : remu64 a b = if b = 0 then a else BitVec.ofNat 64 (a.toNat % b.toNat) :=
  if_congr Iff.rfl rfl (BitVec.eq_of_toNat_eq (by rw [BitVec.toNat_umod, BitVec.toNat_ofNat, Nat.mod_eq_of_lt ((Nat.mod_le ..).trans_lt a.isLt)]))

end Division

/-- Settles O6: each instruction computes, and its result is the number of R154. -/
theorem multiplyAndDivide : Obligations.MultiplyAndDivide := by
  unfold Obligations.MultiplyAndDivide
  intro n rd rs1 rs2 op
  exact ⟨computes_setS (fun _ => rfl) fun _ => rfl, computes_setS (fun _ => rfl) fun _ => sub_eq_ofInt .., computes_setS (fun _ => rfl) fun _ => rfl,
    computes_setS (fun _ => rfl) fun _ => rfl, computes_setS (fun _ => rfl) fun _ => rfl, computes_setS (fun _ => rfl) fun _ => div64_eq ..,
    computes_setS (fun _ => rfl) fun _ => divu64_eq .., computes_setS (fun _ => rfl) fun _ => rem64_eq ..,
    computes_setS (fun _ => rfl) fun _ => remu64_eq ..⟩

end Sys2Proof.Proofs
end

section
/-!
Branches and jumps of a core (Table 5-4, R156).
-/
namespace Sys2Proof.Proofs
open Sys2Proof.Machine Sys2Proof.Laws Sys2Proof.Claims

/-- What going to a target leaves: the pc there when it has 48 bits, else ACCESS_FETCH on the registers as they were. -/
theorem jumpTo_eq (s : State) (n : Nat) (k : NibCore) (target : W64) : s.jumpTo n k target =
    if target.toNat < 2 ^ 48 then s.setCore n { k with pc := target.truncate 48, retired := k.retired + 1 }
    else s.nibException n 0x04 (target.toNat % 2 ^ 48) := by
  unfold State.jumpTo
  by_cases h : target.toNat < 2 ^ 48
  · rw [if_neg (not_not.mpr (Nat.div_eq_of_lt h)), if_pos h]; rfl
  · rw [if_pos (Nat.div_pos (not_lt.mp h) (by decide)).ne', if_neg h]

section Executed
variable {s s1 : State} {n : CoreId} (hx : Executes s s1 n)
include hx

/-- A branch by its comparison. -/
theorem exec_of_branchOp {i : Instr} {f : W64 → W64 → Bool} {rs1 rs2 : SReg} {off : W32} (hi : exec i s = branchOp f n rs1 rs2 off s) {p : Prop} [Decidable p]
    (h : f ((s1.core n).sreg rs1) ((s1.core n).sreg rs2) = decide p) :
    exec i s = if p then .next (s1.jumpTo n (s1.core n) (pcPlus (s1.core n).pc off)) else .next (finished s1 n (s1.core n)) := by
  refine (exec_of_nibStep hx hi).trans ?_
  rw [h, apply_ite Host.Outcome.next]
  exact if_congr decide_eq_true_iff rfl rfl

end Executed

/-- Settles O7: the comparison decides a branch, and the target where it goes. -/
theorem branchesAndJumps : Obligations.BranchesAndJumps := by
  unfold Obligations.BranchesAndJumps
  intro n rd rs1 rs2 off s s1 hx k a b goes there link cond
  have hgoes : ∀ k' target, goes k' target = .next (s1.jumpTo n k' target) := fun k' target => by rw [jumpTo_eq, apply_ite Host.Outcome.next]
  have hcond : ∀ (p : Prop) [Decidable p], cond p = if p then .next (s1.jumpTo n k there) else .next (finished s1 n k) := fun p _ => by rw [← hgoes]
  simp only [hcond, hgoes]
  refine ⟨exec_of_branchOp hx rfl rfl, exec_of_branchOp hx rfl ?_, exec_of_branchOp hx rfl rfl, exec_of_branchOp hx (f := fun x y => !x.slt y) rfl ?_, exec_of_branchOp hx rfl rfl,
    exec_of_branchOp hx (f := fun x y => !x.ult y) rfl ?_, (exec_of_nibStep hx rfl).trans rfl, (exec_of_nibStep hx rfl).trans rfl⟩
  · exact Bool.eq_iff_iff.mpr (by simp [k, a, b])
  · exact decide_not.symm.trans (decide_eq_decide.mpr not_lt)
  · exact decide_not.symm.trans (decide_eq_decide.mpr not_lt)

end Sys2Proof.Proofs
end

section
/-!
Loads and stores of a Nib core to tile memory: an aligned access of up to 8 bytes lies in one word of one page (R86, R99, R155, Table 5-4).
-/
namespace Sys2Proof.Proofs
open Sys2Proof.Machine Sys2Proof.Laws Sys2Proof.Claims

/-! ### Where a translation leads (R86) -/

/-- A local leaf in its place leads to the same offset in a page of 64 KiB. -/
theorem pageOffset_of_leaf {e : W64} {size va pa : Nat} {needW needX m q : Bool} (hs : 0x10000 ∣ size) (hc : leafCause e size needW needX = none)
    (ht : leafTarget e (va % size) = .ok pa m q) : pa % 0x10000 = va % 0x10000 := by
  unfold leafTarget at ht
  split at ht
  case isTrue => cases ht
  case isFalse h4 =>
  cases ht
  have ha : pteAddr e % size = 0 := by
    by_contra ha
    simp only [leafCause, h4, ha, Bool.not_false, Bool.true_and, ne_eq, not_false_eq_true, decide_true, Bool.true_or, Bool.or_true, if_true] at hc
    split at hc <;> cases hc
  rw [Nat.add_mod, Nat.mod_mod_of_dvd _ hs, Nat.mod_eq_zero_of_dvd (hs.trans (Nat.dvd_of_mod_eq_zero ha)), Nat.zero_add, Nat.mod_mod]

/-- An address that translates to tile memory has 48 bits, and its page offset stays. -/
theorem walk_ok {s : State} {c va pa : Nat} {needW needX m q : Bool} (h : s.walk c va needW needX = .ok pa m q) :
    va < 2 ^ 48 ∧ pa % 0x10000 = va % 0x10000 := by
  unfold State.walk at h
  dsimp only at h
  split at h
  · cases h
  split at h
  · cases h
  next hv =>
  refine ⟨Nat.lt_of_div_eq_zero (by decide) (not_not.mp hv), ?_⟩
  split at h
  · cases h
  split at h
  · cases h
  split at h
  · cases h
  split at h
  · cases h
  split at h
  · split at h
    · cases h
    next hc => exact pageOffset_of_leaf ⟨0x200, rfl⟩ hc h
  · split at h
    · cases h
    split at h
    · cases h
    split at h
    · cases h
    next hc => exact pageOffset_of_leaf dvd_rfl hc h

/-! ### An aligned access of up to 8 bytes -/

/-- The bytes of one access that lie in one page: aligned, of a size that divides 8. -/
structure Aligned (va size : Nat) : Prop where
  sizeDvd : size ∣ 8
  addrDvd : size ∣ va
  wide : va < 2 ^ 48

namespace Aligned
variable {va size : Nat} (h : Aligned va size)
include h

theorem pos : 0 < size := Nat.pos_of_dvd_of_pos h.sizeDvd (by decide)

theorem le : size ≤ 8 := Nat.le_of_dvd (by decide) h.sizeDvd

/-- Every byte of the access lies in its 8-byte word. -/
theorem word {i : Nat} (hi : i < size) : (va + i) / 8 = va / 8 := by
  obtain ⟨hs, ha, -⟩ := h
  have hle : size ≤ 8 := Nat.le_of_dvd (by decide) hs
  interval_cases size <;> omega

/-- So does every byte at a physical address with the same page offset. -/
theorem word_of_page {pa : Nat} (hp : pa % 0x10000 = va % 0x10000) {i : Nat} (hi : i < size) : (pa + i) / 8 = pa / 8 := by
  have hw := h.word hi
  omega

theorem line_of_page {pa : Nat} (hp : pa % 0x10000 = va % 0x10000) {i : Nat} (hi : i < size) : (pa + i) / 64 = pa / 64 := by
  have hw := h.word_of_page hp hi
  omega

theorem page {i : Nat} (hi : i < size) : (va + i) / 0x10000 = va / 0x10000 := by
  have hw := h.word hi
  omega

/-- The addresses of its bytes do not wrap. -/
theorem addrsFrom_eq : addrsFrom va size = (List.range size).map fun i => va + i :=
  List.map_congr_left fun i hi => Nat.mod_eq_of_lt (by have := List.mem_range.mp hi; have := h.le; have := h.wide; omega)

end Aligned

/-- A list whose elements are one element has it once. -/
theorem dedup_const {a : Nat} {l : List Nat} (hl : l ≠ []) (h : ∀ x ∈ l, x = a) : dedup l = [a] := by
  induction l with
  | nil => exact absurd rfl hl
  | cons b l ih =>
    obtain rfl : b = a := h b List.mem_cons_self
    cases l with
    | nil => rfl
    | cons c l =>
      have hr := ih (List.cons_ne_nil _ _) fun x hx => h x (List.mem_cons_of_mem _ hx)
      rw [dedup, hr]
      simp

/-- Cells listed from a function read back as it. -/
theorem smGet_map_fun {α : Type} (d : Nat → α) (f : Nat → α) {l : List Nat} {a : Nat} (h : a ∈ l) : smGet d (l.map fun x => (x, f x)) a = f a := by
  induction l with
  | nil => cases h
  | cons b l ih =>
    rw [List.map_cons, smGet]
    by_cases hb : b = a
    · rw [if_pos hb, hb]
    · rw [if_neg hb, ih ((List.mem_cons.mp h).resolve_left (Ne.symm hb))]

/-! ### Loads (R155) -/

/-- A line read that succeeds leaves memory and the cores. -/
theorem lineRead_of_readLine {s : State} {c : Option Nat} {l : Nat} {ws : List Nat} (h : (s.readLine c l ws).2 = true) :
    LineRead l s (s.readLine c l ws).1 := by
  cases hd : isDram (l * 64) with
  | true =>
    cases hb : s.lineBad l with
    | true => rw [readLine_bad hd hb] at h; cases h
    | false => exact (readLine_dram hd hb).2
  | false =>
    unfold State.readLine at h ⊢
    rw [hd, if_neg Bool.false_ne_true] at h ⊢
    split
    next hf => rw [hf] at h; cases h
    exact ⟨rfl, rfl, fun _ => rfl, fun _ _ => rfl⟩

theorem readLines_same {c : Option Nat} {ws ls : List Nat} {x : State × Bool} (h : (readLines c ws x ls).2 = true) :
    x.2 = true ∧ (readLines c ws x ls).1.mem = x.1.mem ∧ (readLines c ws x ls).1.nib = x.1.nib := by
  induction ls generalizing x with
  | nil => exact ⟨h, rfl, rfl⟩
  | cons l ls ih =>
    obtain ⟨hx, hmem, hnib⟩ := ih h
    obtain ⟨h2, hl⟩ := Bool.and_eq_true_iff.mp hx
    have hr := lineRead_of_readLine hl
    exact ⟨h2, hmem.trans hr.mem, hnib.trans hr.nib⟩

/-- A read at the home that succeeds gives the bytes as memory holds them, and leaves memory and the cores. -/
theorem homeRead_some {s t : State} {c : Option Nat} {pa n : Nat} {bytes : List Byte} (h : s.homeRead c pa n = (t, some bytes)) :
    t.mem = s.mem ∧ t.nib = s.nib ∧ bytes = s.bytesAt pa n := by
  rw [homeRead_eq] at h
  obtain ⟨rfl, hb⟩ := Prod.mk.inj h
  rw [Option.ite_none_right_eq_some] at hb
  obtain ⟨hr, hb⟩ := hb
  obtain ⟨-, hmem, hnib⟩ := readLines_same hr
  exact ⟨hmem, hnib, (Option.some.inj hb).symm⟩

/-- The read at the home of an access within one word. -/
theorem homeRead_one {s : State} {c : Option Nat} {pa n : Nat} (hn : 0 < n) (hw : (pa + n - 1) / 8 = pa / 8) :
    s.homeRead c pa n = ((s.readLine c (pa / 64) [pa / 8]).1,
      if (s.readLine c (pa / 64) [pa / 8]).2 then some (s.bytesAt pa n) else none) := by
  have hwords : wordsOf pa n = [pa / 8] := by
    unfold wordsOf
    rw [if_neg hn.ne', hw, Nat.sub_self]
    rfl
  rw [homeRead_eq, hwords, linesOf_one (l := pa / 64) rfl hn (by omega)]
  simp [readLines]

/-- The page of a load without buffered stores, by the lines and words it reads. -/
theorem loadPage_unbuffered {s : State} {n : Nat} {vas : List Nat} {pa : Nat} {m q : Bool} (hs : (s.core n).stores = [])
    (hw : s.walk (s.ctxOf n) (vas.headD 0) false false = .ok pa m q) :
    let at' := fun a => pa + (a - vas.headD 0)
    let r := readLines (some (s.ctxOf n)) (dedup (vas.map fun a => at' a / 8)) (s, true) (dedup (vas.map fun a => at' a / 64))
    s.loadPage n vas = if r.2 then (r.1, .bytes (vas.map fun a => (a, r.1.byteAt (at' a))) []) else (r.1, .exc 0x07 (vas.headD 0)) := by
  have hb : ∀ a, (s.core n).buffered false a = none := fun a => by simp [NibCore.buffered, hs]
  unfold State.loadPage
  simp only [translate_ok hw, hb, List.filter_map, List.map_map, Function.comp_def, Option.isNone_none, Option.getD_none, List.filter_true]
  rfl

section Load
variable {s s2 : State} {n : CoreId} {va pa size : Nat} {m q : Bool} {bytes : List Byte} (ha : Aligned va size) (hs : (s.core n).stores = [])
  (hw : s.walk (s.ctxOf n) va false false = .ok pa m q) (hr : s.homeRead (some (s.ctxOf n)) pa size = (s2, some bytes))
include ha

theorem headD_addrsFrom : (addrsFrom va size).headD 0 = va := by
  rw [ha.addrsFrom_eq]
  obtain ⟨k, rfl⟩ := Nat.exists_eq_succ_of_ne_zero ha.pos.ne'
  simp [List.range_succ_eq_map]

include hs hw hr

theorem loadPage_aligned : s.loadPage n (addrsFrom va size) = (s2, .bytes ((addrsFrom va size).map fun a => (a, s2.byteAt (pa + (a - va)))) []) := by
  have hhead := headD_addrsFrom ha
  obtain ⟨-, hp⟩ := walk_ok hw
  have hpos := ha.pos
  have hword := ha.word_of_page hp (i := size - 1) (by omega)
  rw [homeRead_one hpos (by rw [Nat.add_sub_assoc hpos, hword])] at hr
  obtain ⟨rfl, hb⟩ := Prod.mk.inj hr
  have hread : (s.readLine (some (s.ctxOf n)) (pa / 64) [pa / 8]).2 = true := by
    by_contra h
    rw [if_neg h] at hb; cases hb
  rw [loadPage_unbuffered hs (by rw [hhead]; exact hw), hhead, ha.addrsFrom_eq, dedup_const (a := pa / 8), dedup_const (a := pa / 64)]
  · simp [readLines, hread]
  · simpa using hpos.ne'
  · simpa using fun i hi => ha.line_of_page hp hi
  · simpa using hpos.ne'
  · simpa using fun i hi => ha.word_of_page hp hi

/-- An aligned load of a core with no buffered store finds the bytes at its home. -/
theorem loadBytes_aligned : ∃ got, s.loadBytes n (addrsFrom va size) = (s2, .bytes got []) ∧ gotValue got va size = ofBytes bytes := by
  have hpages : dedup ((addrsFrom va size).map (· / 0x10000)) = [va / 0x10000] := by
    rw [ha.addrsFrom_eq]
    exact dedup_const (by simpa using ha.pos.ne') (by simpa using fun i hi => ha.page hi)
  have hall : ((addrsFrom va size).filter fun a => a / 0x10000 = va / 0x10000) = addrsFrom va size := by
    rw [List.filter_eq_self, ha.addrsFrom_eq]
    simpa using fun i hi => ha.page hi
  refine ⟨(addrsFrom va size).map fun a => (a, s2.byteAt (pa + (a - va))), ?_, ?_⟩
  · simp [State.loadBytes, hpages, hall, loadPage_aligned ha hs hw hr]
  · obtain ⟨hmem, -, hb⟩ := homeRead_some hr
    rw [gotValue, List.map_congr_left fun a h => smGet_map_fun (fun _ => 0) (fun a => s2.byteAt (pa + (a - va))) h, ha.addrsFrom_eq, hb]
    simp [State.bytesAt, State.byteAt, hmem, Function.comp_def]

end Load

/-- A scalar load that finds its bytes in tile memory. -/
theorem loadOp_of_bytes {s s1 s2 : State} {n : CoreId} (hx : Executes s s1 n) {size : Nat} {rs1 : SReg} {imm : W32} {got : List Host.Cell}
    (h : ((s1.core n).sreg rs1 + imm.signExtend 64).toNat % size = 0)
    (hl : s1.loadBytes n (addrsFrom ((s1.core n).sreg rs1 + imm.signExtend 64).toNat size) = (s2, .bytes got [])) (signed : Bool) (rd : SReg) :
    loadOp size signed n rd rs1 imm s = .next (finished s2 n ((s2.core n).setS rd
      (extendLoad size signed (gotValue got ((s1.core n).sreg rs1 + imm.signExtend 64).toNat size)))) := by
  refine congrArg _ ((nibStep_of_executes hx _).trans ((if_neg (not_not.mpr h)).trans ?_))
  rw [hl]
  rfl

/-- Settles O8: the one word of an aligned load is read at its home. -/
theorem scalarLoadsReadMemory : Obligations.ScalarLoadsReadMemory := by
  unfold Obligations.ScalarLoadsReadMemory
  intro n rd rs1 imm s s1 s2 pa size mcomp qc bytes hx hs va hva hw hr signed unsigned
  have hload : size ∣ 8 → ∀ b, loadOp size b n rd rs1 imm s = .next (finished s2 n ((s2.core n).setS rd (extendLoad size b (ofBytes bytes)))) := by
    intro hd b
    obtain ⟨got, hl, hg⟩ := loadBytes_aligned ⟨hd, Nat.dvd_of_mod_eq_zero hva, (walk_ok hw).1⟩ hs hw hr
    rw [loadOp_of_bytes hx hva hl, hg]
  refine ⟨?_, ?_, ?_, ?_⟩ <;> rintro rfl
  · exact ⟨hload (by decide) true, hload (by decide) false⟩
  · exact ⟨hload (by decide) true, hload (by decide) false⟩
  · exact ⟨hload (by decide) true, hload (by decide) false⟩
  · exact hload (by decide) true

/-! ### Stores (R99, R155) -/

/-- A translation that does not fail leaves the state. -/
theorem translate_inv {s t : State} {c src tile va : Nat} {needW needX : Bool} {x : Xlat} (h : s.translate c src tile va needW needX = (t, x))
    (hx : (∃ pa m q, x = .ok pa m q) ∨ ∃ bus, x = .host bus) : t = s := by
  unfold State.translate at h
  dsimp only at h
  split at h
  · obtain ⟨-, rfl⟩ := Prod.mk.inj h
    obtain ⟨_, _, _, hx⟩ | ⟨_, hx⟩ := hx <;> simp_all
  · obtain ⟨-, rfl⟩ := Prod.mk.inj h
    obtain ⟨_, _, _, hx⟩ | ⟨_, hx⟩ := hx <;> simp_all
  · exact (Prod.mk.inj h).1.symm

/-- A fetch from a HOST page that finds the instruction has its completion, which the core drops. -/
theorem hostFetch_ok {s t : State} {n bus : Nat} (h : s.hostFetch n bus = (t, .ok)) : t = s.setCore n { s.core n with fetched := none } := by
  unfold State.hostFetch at h
  dsimp only at h
  split at h
  · exact (Prod.mk.inj h).1.symm
  · split at h <;> cases (Prod.mk.inj h).2

/-- A fetch that finds nothing wrong leaves the core but for the word it had fetched. -/
theorem core_of_fetch {s t : State} {n : Nat} (h : s.fetch n = (t, .ok)) : t.core n = s.core n ∨ t.core n = { s.core n with fetched := none } := by
  unfold State.fetch at h
  dsimp only at h
  split at h
  · cases (Prod.mk.inj h).2
  split at h
  next u pa m q hu =>
    obtain rfl := translate_inv hu (.inl ⟨_, _, _, rfl⟩)
    split at h
    next v b hv =>
      obtain ⟨rfl, -⟩ := Prod.mk.inj h
      obtain ⟨-, hnib, -⟩ := homeRead_some hv
      exact .inl (by rw [State.core, hnib, State.core])
    · cases (Prod.mk.inj h).2
  next u bus hu =>
    obtain rfl := translate_inv hu (.inr ⟨_, rfl⟩)
    exact .inr (by rw [hostFetch_ok h, core_setCore_same])
  · cases (Prod.mk.inj h).2
  · cases (Prod.mk.inj h).2

/-- A core that executes still runs behind its fetch. -/
theorem running_of_executes {s s1 : State} {n : CoreId} (hx : Executes s s1 n) : (s1.core n).st = .running := by
  obtain ⟨hstep, hf⟩ := hx
  have hr : (s.core n).st = .running := by
    simp only [State.canStep, Bool.and_eq_true, decide_eq_true_eq] at hstep
    exact hstep.1.1.1
  obtain h | h := core_of_fetch hf <;> rw [h]
  exacts [hr, hr]

/-- Cells moved by an offset. -/
theorem map_cellsFrom (va pa k : Nat) (bs : List Byte) : ((cellsFrom (va + k) bs).map fun x => (pa + (x.1 - va), x.2)) = cellsFrom (pa + k) bs := by
  induction bs generalizing k with
  | nil => rfl
  | cons b bs ih => rw [cellsFrom, List.map_cons, Nat.add_assoc, ih, cellsFrom, Nat.add_sub_cancel_left, Nat.add_assoc]

/-- The pieces of an aligned store: one, at the physical address. -/
theorem storeSegs_aligned {s : State} {n : CoreId} {va pa size : Nat} {m q : Bool} (ha : Aligned va size)
    (hw : s.walk (s.ctxOf n) va true false = .ok pa m q) (v : Nat) :
    s.storeSegs n (cellsFrom va (toBytes size v)) = (s, .ok [{ host := false, mcomp := m, cells := cellsFrom pa (toBytes size v) }]) := by
  have hpage : ∀ x ∈ cellsFrom va (toBytes size v), x.1 / 0x10000 = va / 0x10000 := fun x hx => by
    have hm := mem_cellsFrom hx
    rw [length_toBytes] at hm
    have hp := ha.page (i := x.1 - va) (by omega)
    rwa [Nat.add_sub_cancel' hm.1] at hp
  have hne : cellsFrom va (toBytes size v) ≠ [] := fun e => by
    have hl := congrArg List.length e
    rw [length_cellsFrom, length_toBytes] at hl
    exact ha.pos.ne' hl
  have hpages : dedup ((cellsFrom va (toBytes size v)).map fun x => x.1 / 0x10000) = [va / 0x10000] :=
    dedup_const (by simpa using hne) fun p hp => by
      obtain ⟨x, hx, rfl⟩ := List.mem_map.mp hp
      exact hpage x hx
  have hall : ((cellsFrom va (toBytes size v)).filter fun x => x.1 / 0x10000 = va / 0x10000) = cellsFrom va (toBytes size v) :=
    List.filter_eq_self.mpr fun x hx => by simpa using hpage x hx
  have hhead : ((cellsFrom va (toBytes size v)).headD (0, 0)).1 = va := by
    obtain ⟨k, rfl⟩ := Nat.exists_eq_succ_of_ne_zero ha.pos.ne'
    rfl
  simp only [State.storeSegs, hpages, List.foldl_cons, List.foldl_nil, hall, hhead, translate_ok hw]
  rw [← Nat.add_zero va, ← Nat.add_zero pa, ← map_cellsFrom va pa 0]
  rfl

theorem smErase_smErase {α : Type} (m : SMap α) (k : Nat) : smErase (smErase m k) k = smErase m k := by
  induction m with
  | nil => rfl
  | cons e m ih => by_cases he : e.1 = k <;> simp [smErase, he, ih]

theorem smErase_smInsert_erased {α : Type} (m : SMap α) (k : Nat) (v : α) : smErase (smInsert (smErase m k) k v) k = smErase m k := by
  induction m with
  | nil => simp [smErase, smInsert]
  | cons e m ih =>
    by_cases he : e.1 = k
    · simp only [smErase, if_pos he, ih]
    · by_cases hk : k < e.1
      · simp [smErase, if_neg he, smInsert, if_pos hk, smErase_smErase]
      · simp only [smErase, if_neg he, smInsert, if_neg hk, ih]

/-- A key set twice holds what was set last. -/
theorem smSet_smSet {α : Type} [DecidableEq α] (d : Nat → α) (m : SMap α) (k : Nat) (v w : α) : smSet d (smSet d m k v) k w = smSet d m k w := by
  have he : smErase (smSet d m k v) k = smErase m k := by
    unfold smSet
    split
    · exact smErase_smErase m k
    · exact smErase_smInsert_erased m k v
  rw [smSet, he, smSet]

theorem setCore_setCore (s : State) (n : Nat) (k k' : NibCore) : (s.setCore n k).setCore n k' = s.setCore n k' := by
  rw [State.setCore, State.setCore]
  exact congrArg (fun m => { s with nib := m }) (smSet_smSet _ s.nib n k k')

/-- A store that is buffered: the entry behind those in the buffer, and the core behind the instruction. -/
theorem nibStore_buffered {s t : State} {n : Nat} {cs : List Host.Cell} {e : StoreEntry} (hr : (t.core n).st = .running) (hroom : (t.core n).stores.length < 16)
    (he : e ≠ []) (hs : s.storeSegs n cs = (t, .ok e)) : s.nibStore n cs = finished t n { t.core n with stores := (t.core n).stores ++ [e] } := by
  unfold State.nibStore
  rw [hs]
  dsimp only
  rw [if_neg he, State.buffer, if_neg (Nat.not_le.mpr hroom)]
  simp only [core_setCore_same, hr, if_true]
  exact setCore_setCore ..

/-- Settles O9: the one piece of an aligned store enters the buffer. -/
theorem scalarStoresAreBuffered : Obligations.ScalarStoresAreBuffered := by
  unfold Obligations.ScalarStoresAreBuffered
  intro n rs1 rs2 imm s s1 pa size mcomp qc hx hroom k va hva hw entry t
  have hstore : size ∣ 8 → storeOp size n rs1 rs2 imm s = .next t := by
    intro hd
    have hsegs := storeSegs_aligned ⟨hd, Nat.dvd_of_mod_eq_zero hva, (walk_ok hw).1⟩ hw (k.sreg rs2).toNat
    refine congrArg _ ((nibStep_of_executes hx _).trans ((if_neg (not_not.mpr hva)).trans ?_))
    exact nibStore_buffered (running_of_executes hx) hroom (List.cons_ne_nil _ _) hsegs
  refine ⟨?_, ?_, ?_, ?_⟩ <;> rintro rfl
  · exact hstore (by decide)
  · exact hstore (by decide)
  · exact hstore (by decide)
  · exact hstore (by decide)

end Sys2Proof.Proofs
end

section
/-!
Elements of vector registers (Table 5-5, R113, R157): what packing keeps, and what a register whose active elements were replaced holds.
-/
namespace Sys2Proof.Proofs
open Sys2Proof.Machine Sys2Proof.Laws Sys2Proof.Claims

/-! ### Packed elements -/

theorem packElems_lt (w : Nat) (l : List Nat) : packElems w l < 2 ^ (w * l.length) := by
  induction l with
  | nil => exact Nat.one_pos
  | cons x xs ih =>
    have hx := Nat.mod_lt x (Nat.two_pow_pos w)
    have he : 2 ^ (w * (x :: xs).length) = 2 ^ w * 2 ^ (w * xs.length) := by rw [← Nat.pow_add, List.length_cons]; ring_nf
    have hm := Nat.mul_le_mul_left (2 ^ w) (Nat.succ_le_of_lt ih)
    rw [Nat.mul_succ] at hm
    rw [packElems, he]
    omega

/-- Field i of packed numbers is the low bits of number i. -/
theorem packElems_field (w i : Nat) (l : List Nat) : packElems w l / 2 ^ (i * w) % 2 ^ w = l.getD i 0 % 2 ^ w := by
  induction l generalizing i with
  | nil => simp [packElems]
  | cons x xs ih =>
    cases i with
    | zero => simp [packElems]
    | succ i =>
      have hd : (x % 2 ^ w + 2 ^ w * packElems w xs) / 2 ^ w = packElems w xs := by
        rw [Nat.add_mul_div_left _ _ (Nat.two_pow_pos w), Nat.div_eq_of_lt (Nat.mod_lt _ (Nat.two_pow_pos w)), Nat.zero_add]
      rw [packElems, show (i + 1) * w = w + i * w by ring, Nat.pow_add, ← Nat.div_div_eq_div_mul, hd, ih]
      rfl

/-- A bit of packed numbers is a bit of the number whose field holds it. -/
theorem testBit_packElems {w : Nat} (hw : 0 < w) (l : List Nat) (j : Nat) :
    (packElems w l).testBit j = (l.getD (j / w) 0).testBit (j % w) := by
  have h := congrArg (Nat.testBit · (j % w)) (packElems_field w (j / w) l)
  simp only [Nat.testBit_mod_two_pow, Nat.mod_lt j hw, decide_true, Bool.true_and, Nat.testBit_div_two_pow] at h
  rwa [show j % w + j / w * w = j from Nat.mod_add_div' j w] at h

/-! ### Elements of a register -/

theorem count_mul_bitsOf (t : ElemType) : t.bitsOf * t.count = 512 := by cases t <;> rfl

theorem count_mul_size (t : ElemType) : t.count * t.size = 64 := by cases t <;> rfl

theorem size_pos (t : ElemType) : 0 < t.size := by cases t <;> decide

theorem bitsOf_pos (t : ElemType) : 0 < t.bitsOf := Nat.mul_pos (by decide) (size_pos t)

theorem elemOf_lt (t : ElemType) (v : W512) (i : Nat) : elemOf t v i < 2 ^ t.bitsOf := Nat.mod_lt _ (Nat.two_pow_pos _)

@[simp] theorem elemOf_mod (t : ElemType) (v : W512) (i : Nat) : elemOf t v i % 2 ^ t.bitsOf = elemOf t v i := Nat.mod_eq_of_lt (elemOf_lt t v i)

theorem elemB_lt (k : NibCore) (t : ElemType) (b : VectorB) (i : Nat) : k.elemB t b i < 2 ^ t.bitsOf := by
  cases b with
  | vec r => exact elemOf_lt t (k.vreg r) i
  | scal r => exact Nat.mod_lt _ (Nat.two_pow_pos _)

theorem toNat_ofNat_of_lt {w x : Nat} (h : x < 2 ^ w) : (BitVec.ofNat w x).toNat = x := (BitVec.toNat_ofNat x w).trans (Nat.mod_eq_of_lt h)

/-- A register built element by element holds the low bits of each. -/
theorem elemOf_vecOf {t : ElemType} {i : Nat} (hi : i < t.count) (f : Nat → Nat) : elemOf t (vecOf t f) i = f i % 2 ^ t.bitsOf := by
  have hlt : packElems t.bitsOf ((List.range t.count).map f) < 2 ^ 512 := by
    have h := packElems_lt t.bitsOf ((List.range t.count).map f)
    rwa [List.length_map, List.length_range, count_mul_bitsOf] at h
  rw [elemOf, vecOf, toNat_ofNat_of_lt hlt, packElems_field]
  simp [List.getD, hi]

/-- Merging replaces the active elements by the low bits of their new values. -/
theorem lanesAre_mergeElems {p : W64} {t : ElemType} {old : W512} {f g : Nat → Nat}
    (h : ∀ j < t.count, g j % 2 ^ t.bitsOf = f j) : LanesAre p t old (mergeElems p t old g) f := by
  intro j hj
  rw [mergeElems, elemOf_vecOf hj]
  split
  · exact h j hj
  · exact elemOf_mod t old j

/-! ### Instructions that replace the active elements of a register -/

/-- What an instruction that merges new elements into a register answers on a core that executes it. -/
theorem exec_lanes {i : Instr} {s s1 : State} {n : CoreId} {vd : VReg} {p : W64} {t : ElemType} {old : W512} {f g : Nat → Nat} {k : NibCore}
    (hi : exec i s = .next (finished s1 n (k.setV vd (mergeElems p t old g)))) (h : ∀ j < t.count, g j % 2 ^ t.bitsOf = f j) :
    ∃ v, exec i s = .next (finished s1 n (k.setV vd v)) ∧ LanesAre p t old v f := ⟨_, hi, lanesAre_mergeElems h⟩

/-- A vector integer instruction whose function g agrees with f on numbers of the element width. -/
theorem exec_vIntOp {i : Instr} {s s1 : State} {n : CoreId} {o : VBin} (hx : Executes s s1 n) (ht : o.et.isInt = true)
    (g : Nat → Nat → Nat → Nat) (hi : exec i s = vIntOp g n o s) (f : Nat → Nat → Nat)
    (h : ∀ a b, a < 2 ^ o.et.bitsOf → b < 2 ^ o.et.bitsOf → g o.et.bitsOf a b % 2 ^ o.et.bitsOf = f a b) :
    ∃ v, exec i s = .next (finished s1 n ((s1.core n).setV o.vd v)) ∧ LanesAre ((s1.core n).preg o.pg) o.et ((s1.core n).vreg o.vd) v fun j =>
      f (elemOf o.et ((s1.core n).vreg o.vs1) j) ((s1.core n).elemB o.et o.b j) :=
  exec_lanes (hi.trans (nibGuarded_of_executes hx ht _)) fun _ _ => h _ _ (elemOf_lt ..) (elemB_lt ..)

/-! ### Two's-complement numbers of w bits -/

theorem wrapTo_lt (w : Nat) (i : Int) : wrapTo w i < 2 ^ w := by
  have h := Int.emod_lt_of_pos i (show (0 : Int) < 2 ^ w by positivity)
  have h0 := Int.emod_nonneg i (show (2 : Int) ^ w ≠ 0 by positivity)
  rw [wrapTo, Int.toNat_lt h0]
  exact_mod_cast h

@[simp] theorem wrapTo_mod (w : Nat) (i : Int) : wrapTo w i % 2 ^ w = wrapTo w i := Nat.mod_eq_of_lt (wrapTo_lt w i)

/-- Wrapping a number's signed reading gives the number back. -/
theorem wrapTo_signedOf {w a : Nat} (hw : 0 < w) (ha : a < 2 ^ w) : wrapTo w (signedOf w a) = a := by
  have hz : ((a : Int) % 2 ^ w).toNat = a := by
    rw [show (2 : Int) ^ w = ((2 ^ w : Nat) : Int) by push_cast; rfl, ← Int.natCast_mod, Int.toNat_natCast, Nat.mod_eq_of_lt ha]
  rw [wrapTo, signedOf]
  simp only [Nat.mod_eq_of_lt ha, Nat.pos_iff_ne_zero.mp hw, if_false]
  split
  · exact hz
  · rw [Int.sub_emod_right]
    exact hz

theorem ite_signedOf_lt_left {w a b : Nat} (hw : 0 < w) (ha : a < 2 ^ w) (hb : b < 2 ^ w) :
    (if signedOf w b < signedOf w a then b else a) = wrapTo w (min (signedOf w a) (signedOf w b)) := by
  split
  next h => rw [min_eq_right h.le, wrapTo_signedOf hw hb]
  next h => rw [min_eq_left (not_lt.mp h), wrapTo_signedOf hw ha]

theorem ite_signedOf_lt_right {w a b : Nat} (hw : 0 < w) (ha : a < 2 ^ w) (hb : b < 2 ^ w) :
    (if signedOf w a < signedOf w b then b else a) = wrapTo w (max (signedOf w a) (signedOf w b)) := by
  split
  next h => rw [max_eq_right h.le, wrapTo_signedOf hw hb]
  next h => rw [max_eq_left (not_lt.mp h), wrapTo_signedOf hw ha]

/-- Clamping to the signed range of w bits, as a maximum of a minimum. -/
theorem clampInt_signed (w : Nat) (x : Int) : clampInt w false x = max (-2 ^ (w - 1)) (min (2 ^ (w - 1) - 1) x) := by
  have hp : (0 : Int) < 2 ^ (w - 1) := by positivity
  simp only [clampInt, intRange, Bool.false_eq_true, if_false]
  generalize (2 : Int) ^ (w - 1) = m at hp
  split
  · omega
  · split <;> omega

/-! ### O11: vector integer instructions -/

/-- Settles O11: every instruction merges its function of the elements into VD, and that function is the one of Table 5-6. -/
theorem vectorIntegerLanes : Obligations.VectorIntegerLanes := by
  intro n o s s1 hx
  have hw := bitsOf_pos o.et
  let w := o.et.bitsOf
  refine ⟨fun ht => ⟨?vadd, ?vsub, ?vmul, ?vmulh, ?vmulhu, ?vand, ?vor, ?vxor, ?vsll, ?vsrl, ?vsra, ?vmin, ?vmax, ?vminu, ?vmaxu, ?vsadd, ?vssub⟩,
    ?vsel, ?vshuf, fun rs ix => ⟨?vbcast, fun hix => ?vins⟩⟩
  case vadd => exact exec_vIntOp hx ht (fun w a b => (a + b) % 2 ^ w) rfl _ fun a b _ _ => Nat.mod_mod ..
  case vsub =>
    exact exec_vIntOp hx ht (fun w a b => (a + (2 ^ w - b)) % 2 ^ w) rfl (fun a b => (a + 2 ^ w - b) % 2 ^ w) fun a b _ hb =>
      (Nat.mod_mod ..).trans (congrArg (· % _) (Nat.add_sub_assoc hb.le a).symm)
  case vmul => exact exec_vIntOp hx ht (fun w a b => a * b % 2 ^ w) rfl _ fun a b _ _ => Nat.mod_mod ..
  case vmulh => exact exec_vIntOp hx ht vMulHigh rfl _ fun a b _ _ => wrapTo_mod ..
  case vmulhu =>
    exact exec_vIntOp hx ht (fun w a b => a * b / 2 ^ w) rfl _ fun a b ha hb => Nat.mod_eq_of_lt (Nat.div_lt_of_lt_mul (Nat.mul_lt_mul'' ha hb))
  case vand => exact exec_vIntOp hx ht (fun _ a b => a &&& b) rfl _ fun a b _ hb => Nat.mod_eq_of_lt (Nat.and_lt_two_pow a hb)
  case vor => exact exec_vIntOp hx ht (fun _ a b => a ||| b) rfl _ fun a b ha hb => Nat.mod_eq_of_lt (Nat.or_lt_two_pow ha hb)
  case vxor => exact exec_vIntOp hx ht (fun _ a b => a ^^^ b) rfl _ fun a b ha hb => Nat.mod_eq_of_lt (Nat.xor_lt_two_pow ha hb)
  case vsll => exact exec_vIntOp hx ht (fun w a b => a * 2 ^ (b % w) % 2 ^ w) rfl _ fun a b _ _ => Nat.mod_mod ..
  case vsrl =>
    exact exec_vIntOp hx ht (fun w a b => a / 2 ^ (b % w)) rfl _ fun a b ha _ => Nat.mod_eq_of_lt ((Nat.div_le_self ..).trans_lt ha)
  case vsra => exact exec_vIntOp hx ht vShiftArith rfl _ fun a b _ _ => wrapTo_mod ..
  case vmin =>
    exact exec_vIntOp hx ht (fun w a b => if signedOf w b < signedOf w a then b else a) rfl (fun a b => wrapTo w (min (signedOf w a) (signedOf w b)))
      fun a b ha hb => (congrArg (· % _) (ite_signedOf_lt_left hw ha hb)).trans (wrapTo_mod ..)
  case vmax =>
    exact exec_vIntOp hx ht (fun w a b => if signedOf w a < signedOf w b then b else a) rfl (fun a b => wrapTo w (max (signedOf w a) (signedOf w b)))
      fun a b ha hb => (congrArg (· % _) (ite_signedOf_lt_right hw ha hb)).trans (wrapTo_mod ..)
  case vminu =>
    exact exec_vIntOp hx ht (fun _ a b => min a b) rfl _ fun a b ha _ => Nat.mod_eq_of_lt ((Nat.min_le_left ..).trans_lt ha)
  case vmaxu => exact exec_vIntOp hx ht (fun _ a b => max a b) rfl _ fun a b ha hb => Nat.mod_eq_of_lt (Nat.max_lt.mpr ⟨ha, hb⟩)
  case vsadd =>
    exact exec_vIntOp hx ht vSatAdd rfl (fun a b => wrapTo w (max (-2 ^ (w - 1)) (min (2 ^ (w - 1) - 1) (signedOf w a + signedOf w b))))
      fun a b _ _ => (wrapTo_mod ..).trans (congrArg (wrapTo _) (clampInt_signed ..))
  case vssub =>
    exact exec_vIntOp hx ht vSatSub rfl (fun a b => wrapTo w (max (-2 ^ (w - 1)) (min (2 ^ (w - 1) - 1) (signedOf w a - signedOf w b))))
      fun a b _ _ => (wrapTo_mod ..).trans (congrArg (wrapTo _) (clampInt_signed ..))
  case vsel =>
    refine ⟨_, (exec_of_nibStep hx rfl).trans rfl, fun i hi => (elemOf_vecOf hi _).trans (Nat.mod_eq_of_lt ?_)⟩
    split
    · exact elemOf_lt ..
    · exact elemB_lt ..
  case vshuf =>
    exact exec_lanes (computes_of_nibCompute (f := fun k => k.setV o.vd (mergeElems (k.preg o.pg) .i8 (k.vreg o.vd) fun i =>
      elemOf .i8 (k.vreg o.vs1) (k.elemB .i8 o.b i % 64))) (fun _ => rfl) (fun _ => rfl) s s1 hx) fun _ _ => elemOf_mod ..
  case vbcast => exact exec_lanes ((exec_of_nibStep hx rfl).trans rfl) fun _ _ => rfl
  case vins =>
    refine ⟨_, nibGuarded_of_executes hx (decide_eq_true hix) _, fun i hi => (elemOf_vecOf hi _).trans ?_⟩
    split
    · rfl
    · exact elemOf_mod ..

/-! ### O12: vector floating-point instructions -/

/-- Settles O12: VFMA and the instructions of one and of two operands merge the rounded results into VD. -/
theorem vectorFloatLanes : Obligations.VectorFloatLanes := by
  intro n o vs3 s s1 hx ht
  have gives (i : Instr) (g : NibCore → Nat → FVal)
      (hi : exec i s = nibGuarded n (isVfpType o.et) (fun k => k.setV o.vd (mergeElems (k.preg o.pg) o.et (k.vreg o.vd) fun j =>
        (vfpFormat o.et).nearest (g k j))) s) :
      ∃ v, exec i s = .next (finished s1 n ((s1.core n).setV o.vd v)) ∧ LanesAre ((s1.core n).preg o.pg) o.et ((s1.core n).vreg o.vd) v fun j =>
        (vfpFormat o.et).nearest (g (s1.core n) j) % 2 ^ o.et.bitsOf :=
    exec_lanes (hi.trans (nibGuarded_of_executes hx ht _)) fun _ _ => rfl
  let x := fun (k : NibCore) r j => (vfpFormat o.et).decode (elemOf o.et (k.vreg r) j)
  let y := fun (k : NibCore) j => (vfpFormat o.et).decode (k.elemB o.et o.b j)
  exact ⟨gives _ (fun k j => (x k o.vs1 j).add (y k j)) rfl, gives _ (fun k j => (x k o.vs1 j).add (y k j).neg) rfl,
    gives _ (fun k j => (x k o.vs1 j).mul (y k j)) rfl, gives _ (fun k j => ((x k o.vs1 j).mul (y k j)).add (x k vs3 j)) rfl,
    gives _ (fun k j => (x k o.vs1 j).minimum (y k j)) rfl, gives _ (fun k j => (x k o.vs1 j).maximum (y k j)) rfl,
    gives _ (fun k j => (x k o.vs1 j).abs) rfl, gives _ (fun k j => (x k o.vs1 j).neg) rfl⟩

end Sys2Proof.Proofs
end

section
/-!
Vector loads and stores, reductions, compares and predicate operations (R113, R157, R159, R210, Table 5-6).
-/
namespace Sys2Proof.Proofs
open Sys2Proof.Machine Sys2Proof.Laws Sys2Proof.Claims

/-! ### Loads and stores of active elements -/

theorem ofBytes_lt (l : List Byte) : ofBytes l < 2 ^ (8 * l.length) := by
  induction l with
  | nil => exact Nat.one_pos
  | cons b bs ih =>
    have hb : b.toNat < 256 := b.isLt
    rw [ofBytes, List.length_cons, Nat.mul_succ, Nat.pow_add]
    omega

theorem gotValue_lt (got : List Host.Cell) (va n : Nat) : gotValue got va n < 2 ^ (8 * n) := by
  have h := ofBytes_lt ((addrsFrom va n).map fun a => smGet (fun _ => 0) got a)
  rwa [List.length_map, show (addrsFrom va n).length = n by simp [addrsFrom]] at h

/-- A fold that leaves its state alone wherever it goes on, and does not go on after an error. -/
theorem foldl_ok_fst {σ ε α β : Type} {f : σ × Except ε α → β → σ × Except ε α}
    (h : ∀ acc b t x, f acc b = (t, .ok x) → ∃ y, acc = (t, .ok y)) {l : List β} {acc : σ × Except ε α} {t : σ} {x : α}
    (hf : l.foldl f acc = (t, .ok x)) : ∃ y, acc = (t, .ok y) := by
  induction l generalizing acc with
  | nil => exact ⟨x, hf⟩
  | cons b bs ih =>
    obtain ⟨y, hy⟩ := ih hf
    exact h acc b t y hy

/-- A store whose pages all translate changes nothing before it is buffered. -/
theorem storeSegs_ok_fst {s t : State} {n : Nat} {cs : List Host.Cell} {e : StoreEntry} (h : s.storeSegs n cs = (t, .ok e)) : t = s := by
  refine (foldl_ok_fst (fun acc pg u x hu => ?_) h).elim fun y hy => (Prod.mk.inj hy).1.symm
  obtain ⟨v, _ | segs⟩ := acc
  · cases hu
  · refine ⟨segs, ?_⟩
    dsimp only at hu
    split at hu
    case h_1 | h_2 => cases hu
    case h_3 bus ht =>
      obtain ⟨rfl, -⟩ := Prod.mk.inj hu
      rw [translate_inv ht (.inr ⟨bus, rfl⟩)]
    case h_4 pa mc q ht =>
      obtain ⟨rfl, -⟩ := Prod.mk.inj hu
      rw [translate_inv ht (.inl ⟨pa, mc, q, rfl⟩)]

/-- A vector load that finds its bytes in tile memory. -/
theorem vecLoad_of_bytes {s s1 s2 : State} {n : CoreId} (hx : Executes s s1 n) {o : VMemOp} {bcast : Bool} {got : List Host.Cell}
    (hact : activeElems ((s1.core n).preg o.pg) o.et ≠ []) (ha : (s1.core n).vecAddr o % o.et.size = 0)
    (hl : s1.loadBytes n (if bcast then addrsFrom ((s1.core n).vecAddr o) o.et.size
      else activeAddrs ((s1.core n).preg o.pg) o.et ((s1.core n).vecAddr o)) = (s2, .bytes got [])) :
    vecLoad bcast n o s = .next (finished s2 n ((s2.core n).setV o.v ((s2.core n).loadedVec o bcast ((s1.core n).vecAddr o) got))) := by
  refine congrArg _ ((nibStep_of_executes hx _).trans ((if_neg hact).trans ((if_neg (not_not.mpr ha)).trans ?_)))
  rw [hl]
  rfl

/-- Settles O13: the body of each instruction, by whether an element is active. -/
theorem vectorLoadsAndStores : Obligations.VectorLoadsAndStores := by
  intro n o s s1 hx k va act
  refine ⟨fun hnone => ?_, fun hact ha => ⟨fun s2 got hl => ?_, fun s2 got hl => ?_, fun s2 entry hroom he hs => ?_⟩⟩
  · have hdone (b : State) : (if act = [] then s1.nibDone n k else b) = finished s1 n k := if_pos hnone
    exact ⟨(exec_of_nibStep hx rfl).trans (congrArg _ (hdone _)), (exec_of_nibStep hx rfl).trans (congrArg _ (hdone _)),
      (exec_of_nibStep hx rfl).trans (congrArg _ (hdone _))⟩
  · exact ⟨_, vecLoad_of_bytes (bcast := false) hx hact ha hl, lanesAre_mergeElems fun _ _ => Nat.mod_eq_of_lt (gotValue_lt ..)⟩
  · exact ⟨_, vecLoad_of_bytes (bcast := true) hx hact ha hl, lanesAre_mergeElems fun _ _ => Nat.mod_eq_of_lt (gotValue_lt ..)⟩
  · cases storeSegs_ok_fst hs
    refine (exec_of_nibStep hx rfl).trans (congrArg _ ((if_neg hact).trans ((if_neg (not_not.mpr ha)).trans ?_)))
    exact nibStore_buffered (running_of_executes hx) hroom he hs

/-! ### Reductions -/

/-- The fold of a minimum over a list, started with its head, is the list's minimum. -/
theorem foldl_min_headD {xs : List Int} (h : xs ≠ []) :
    xs.foldl min (xs.headD 0) ∈ xs ∧ ∀ y ∈ xs, xs.foldl min (xs.headD 0) ≤ y := by
  obtain ⟨x, xs, rfl⟩ := List.exists_cons_of_ne_nil h
  apply List.min?_eq_some_iff.mp
  rw [List.min?_cons']; simp

/-- The fold of a maximum over a list, started with its head, is the list's maximum. -/
theorem foldl_max_headD {xs : List Int} (h : xs ≠ []) :
    xs.foldl max (xs.headD 0) ∈ xs ∧ ∀ y ∈ xs, y ≤ xs.foldl max (xs.headD 0) := by
  obtain ⟨x, xs, rfl⟩ := List.exists_cons_of_ne_nil h
  apply List.max?_eq_some_iff.mp
  rw [List.max?_cons']; simp

/-- Settles O14: each reduction is a fold over the active elements. -/
theorem reductionsAndExtract : Obligations.ReductionsAndExtract := by
  intro n rs vs1 pg et ix s s1 hx k act x sx sets
  have reduce {i : Instr} (f : Nat → List Int → Int) (hi : exec i s = vReduce f n rs vs1 pg et s) (ht : et.isInt = true) :
      sets i (BitVec.ofInt 64 (f et.bitsOf (act.map sx))) := hi.trans (nibGuarded_of_executes hx ht _)
  refine ⟨fun ht => ⟨?add, ⟨_, reduce (fun _ xs => xs.foldl min (xs.headD 0)) rfl ht, fun h => ?_, fun h => ?_⟩,
    ⟨_, reduce (fun _ xs => xs.foldl max (xs.headD 0)) rfl ht, fun h => ?_, fun h => ?_⟩⟩,
    fun ht => ⟨fun h => ?none, fun i is h => ?some⟩, fun hix => ?ext⟩
  case add => exact reduce (fun w xs => signedOf w (wrapTo w xs.sum)) rfl ht
  · rw [h]; rfl
  · obtain ⟨hmem, hle⟩ := foldl_min_headD (xs := act.map sx) (by simpa using h)
    obtain ⟨i, hi, he⟩ := List.mem_map.mp hmem
    exact ⟨⟨i, hi, he.symm⟩, fun j hj => hle _ (List.mem_map_of_mem hj)⟩
  · rw [h]; rfl
  · obtain ⟨hmem, hle⟩ := foldl_max_headD (xs := act.map sx) (by simpa using h)
    obtain ⟨i, hi, he⟩ := List.mem_map.mp hmem
    exact ⟨⟨i, hi, he.symm⟩, fun j hj => hle _ (List.mem_map_of_mem hj)⟩
  case none =>
    have hsum : sets (.vfredadd n rs vs1 pg et) _ := nibGuarded_of_executes hx ht _
    rwa [show activeElems (k.preg pg) et = [] from h] at hsum
  case some =>
    have hsum : sets (.vfredadd n rs vs1 pg et) _ := nibGuarded_of_executes hx ht _
    rwa [show activeElems (k.preg pg) et = i :: is from h, List.map_cons, orderedSum, List.foldl_map] at hsum
  case ext => exact nibGuarded_of_executes hx (decide_eq_true hix) _

/-! ### Compares and predicates -/

/-- A bit of a compare's predicate: the result of the element that holds the byte lane, if it is active. -/
theorem getLsbD_comparePred (p : W64) (t : ElemType) (f : Nat → Bool) {j : Nat} (hj : j < 64) :
    (comparePred p t f).getLsbD j = (activeElem p t (j / t.size) && f (j / t.size)) := by
  have hi : j / t.size < t.count := Nat.div_lt_of_lt_mul (by rwa [Nat.mul_comm, count_mul_size])
  rw [comparePred, BitVec.getLsbD_ofNat, testBit_packElems (size_pos t)]
  simp only [hj, decide_true, Bool.true_and, List.getD_eq_getElem?_getD, List.getElem?_map, List.getElem?_range hi, Option.map_some,
    Option.getD_some]
  split
  next h => rw [Nat.testBit_two_pow_sub_one, h]; exact decide_eq_true (Nat.mod_lt _ (size_pos t))
  next h => rw [Nat.zero_testBit, Bool.eq_false_of_not_eq_true h]

/-- Settles O15: every compare writes `comparePred` of its result; predicate operations are computed. -/
theorem comparesAndPredicates : Obligations.ComparesAndPredicates := by
  refine ⟨fun n o s s1 hx => ?_, fun n pd p1 p2 rs => ?_⟩
  · let k := s1.core n
    have gives {i : Instr} {f : Nat → Bool} (g : NibCore → Nat → Bool) {ok : Bool} (hok : ok = true)
        (hi : exec i s = nibGuarded n ok (fun k => k.setP o.pd (comparePred (k.preg o.pg) o.et (g k))) s) (hg : ∀ j, g k j = f j) :
        ∃ p : W64, exec i s = .next (finished s1 n (k.setP o.pd p)) ∧
          ∀ j < 64, p.getLsbD j = (activeElem (k.preg o.pg) o.et (j / o.et.size) && f (j / o.et.size)) :=
      ⟨_, hi.trans (nibGuarded_of_executes hx hok _), fun j hj => by rw [getLsbD_comparePred _ _ _ hj, hg]⟩
    let a := fun (k : NibCore) j => elemOf o.et (k.vreg o.vs1) j
    let b := fun (k : NibCore) j => k.elemB o.et o.b j
    let w := o.et.bitsOf
    let fa := fun k j => (vfpFormat o.et).decode (a k j)
    let fb := fun k j => (vfpFormat o.et).decode (b k j)
    refine ⟨fun ht => ⟨?eq, ?ne, ?lt, ?le, ?ltu, ?leu⟩, fun ht => ⟨?feq, ?flt, ?fle, ?funord⟩⟩
    case eq => exact gives (fun k j => a k j == b k j) ht rfl fun _ => rfl
    case ne => exact gives (fun k j => a k j != b k j) ht rfl fun _ => (decide_not ..).symm
    case lt => exact gives (fun k j => signedOf w (a k j) < signedOf w (b k j)) ht rfl fun _ => rfl
    case le => exact gives (fun k j => signedOf w (a k j) ≤ signedOf w (b k j)) ht rfl fun _ => rfl
    case ltu => exact gives (fun k j => a k j < b k j) ht rfl fun _ => rfl
    case leu => exact gives (fun k j => a k j ≤ b k j) ht rfl fun _ => rfl
    case feq => exact gives (fun k j => (fa k j).numEq (fb k j)) ht rfl fun _ => rfl
    case flt => exact gives (fun k j => (fa k j).lt (fb k j)) ht rfl fun _ => rfl
    case fle => exact gives (fun k j => (fa k j).lt (fb k j) || (fa k j).numEq (fb k j)) ht rfl fun _ => rfl
    case funord => exact gives (fun k j => (fa k j).isNan || (fb k j).isNan) ht rfl fun _ => rfl
  · have hc {i : Instr} {f : NibCore → NibCore} (hi : ∀ s, exec i s = .next (s.nibCompute n f)) : Computes i n f :=
      computes_of_nibCompute hi fun _ => rfl
    exact ⟨hc fun _ => rfl, hc fun _ => rfl, hc fun _ => rfl, hc fun _ => rfl, hc fun _ => rfl, hc fun _ => rfl⟩

end Sys2Proof.Proofs
end

section
/-!
Conversions and the draws they take (R160, R218). A conversion without RM = 2 takes no draw, but taking no draw drops the used-up runs
that stand first among a core's runs. The statement asks for the runs unchanged in every state, and a state may list a run of no draws:
no grant makes one (each is of 1,024 draws), yet nothing in the statement excludes it.
-/
namespace Sys2Proof.Proofs
open Sys2Proof.Machine Sys2Proof.Laws Sys2Proof.Claims

/-- Core 0 runs at 0x1000 of context 0, whose first 32 MiB are DRAM at 0x4000000, and holds one run of draws with none left. -/
def usedUpRun : State :=
  ({ State.reset with mem := [(0x10000, 1), (0x10002, 2), (0x20000, 0x0F), (0x20003, 4)] }.setFlds (.memRoot 0) [(.BASE, 8), (.ENABLE, 1)]
    |>.setFld (coreReg 0) .BOUND 1).setCore 0
    { NibCore.off with st := .running, pc := 0x1000, draws := [{ s31 := 1, s23 := 1, pos := 0, left := 0 }] }

/-- FP32 to BF16, rounding to the nearest. -/
def toBf16 : CvtOp := { vd := 4, vs1 := 2, pg := 0, et := .fp32, dt := .bf16, u := false, part := 0, sat := false, rm := .nearest }

/-- Does core n hold a run of draws in the state that comes next? -/
def keepsRun (n : Nat) : Out → Bool
  | .next t => !(t.core n).draws.isEmpty
  | _ => false

theorem keepsRun_finished (s : State) (n : Nat) (k : NibCore) : keepsRun n (.next (finished s n k)) = !k.draws.isEmpty := by
  rw [keepsRun, finished, core_setCore_same]

theorem usedUpRun_executes : Executes usedUpRun (usedUpRun.fetch 0).1 0 := by
  have hstep : usedUpRun.canStep 0 = true := by decide +kernel
  have hfetch : (usedUpRun.fetch 0).2 = .ok := by decide +kernel
  exact ⟨hstep, Prod.ext rfl hfetch⟩

theorem fetch_usedUpRun_draws : ((usedUpRun.fetch 0).1.core 0).draws.isEmpty = false := by decide +kernel

/-- The conversion leaves the core without its run. -/
theorem vcvtn_drops_usedUpRun : keepsRun 0 (exec (.vcvtn 0 toBf16) usedUpRun) = false := by decide +kernel

/-- Refutes O16: VCVTN that rounds to the nearest, on a core that holds a run of draws with none left, drops that run, where the clause on
RM other than 2 leaves the draws of the core as they were. -/
theorem not_conversionsComplete : ¬ Obligations.ConversionsComplete := by
  unfold Obligations.ConversionsComplete
  intro claim
  obtain ⟨-, -, hnarrow, -⟩ := (claim 0 usedUpRun _ usedUpRun_executes).1 toBf16
  obtain ⟨v, hv, -⟩ := hnarrow (by decide) (by decide)
  have hkept : keepsRun 0 (exec (.vcvtn 0 toBf16) usedUpRun) = !((usedUpRun.fetch 0).1.core 0).draws.isEmpty :=
    (congrArg (keepsRun 0) hv).trans (keepsRun_finished _ 0 _)
  rw [vcvtn_drops_usedUpRun, fetch_usedUpRun_draws] at hkept
  exact absurd hkept (by decide)

end Sys2Proof.Proofs
end

section
/-!
One cycle at a knot, its doorbell, and the writes of its configuration (R177, R244, R255, R256, R414, R415).
-/
namespace Sys2Proof.Proofs
open Sys2Proof.Machine Sys2Proof.Laws Sys2Proof.Claims

/-! ### What the operations of a cycle leave alone -/

/-- t is s with other values in the two registers of knot k, of which OWNER is kept. -/
structure KnotOnly (k : Nat) (s t : State) : Prop where
  rest : t = { s with regs := t.regs }
  other : ∀ q : Reg, q.addr ≠ (knotCfg k).addr → q.addr ≠ (knotVal k).addr → t.reg q = s.reg q
  owner : t.fld (knotCfg k) .OWNER = s.fld (knotCfg k) .OWNER

theorem KnotOnly.refl (k : Nat) (s : State) : KnotOnly k s s := ⟨rfl, fun _ _ _ => rfl, rfl⟩

theorem KnotOnly.trans {k : Nat} {s t u : State} (h : KnotOnly k s t) (g : KnotOnly k t u) : KnotOnly k s u where
  rest := by rw [g.rest, h.rest]
  other q hc hv := (g.other q hc hv).trans (h.other q hc hv)
  owner := g.owner.trans h.owner

/-- A field of KNOT.CFG beside OWNER written. -/
theorem knotOnly_setCfg (s : State) (k : Nat) {f : FName} (v : Nat) (hf : hasField (knotCfg k) f = true) (h : FName.OWNER ≠ f) :
    KnotOnly k s (s.setFld (knotCfg k) f v) := ⟨rfl, fun _ hc _ => reg_setFld_other s f v hc, fld_setFld_ne s _ v hf rfl h⟩

/-- A field of KNOT.VAL written. -/
theorem knotOnly_setVal (s : State) (k : Nat) (f : FName) (v : Nat) : KnotOnly k s (s.setFld (knotVal k) f v) :=
  ⟨rfl, fun _ _ hv => reg_setFld_other s f v hv, fld_setFld_other s _ _ v (knotCfg_ne_knotVal k k)⟩

theorem knotOnly_knotSet (s : State) (k v : Nat) : KnotOnly k s (s.knotSet k v) :=
  (knotOnly_setCfg s k _ rfl (by decide)).trans (knotOnly_setVal _ k _ _)

theorem knotOnly_knotAdd (s : State) (k v : Nat) : KnotOnly k s (s.knotAdd k v) := by
  have hcount (n : Nat) : KnotOnly k s ((s.addFld (knotCfg k) .CHANGES 1).setFld (knotVal k) .COUNT n) :=
    (knotOnly_setCfg s k _ rfl (by decide)).trans (knotOnly_setVal _ k _ _)
  rw [knotAdd_eq]
  dsimp only
  split
  · exact hcount _
  · exact (hcount _).trans (knotOnly_setCfg _ k _ rfl (by decide))

theorem knotOnly_foldl {k : Nat} {f : State → Nat → State} (h : ∀ s v, KnotOnly k s (f s v)) (l : List Nat) (s : State) : KnotOnly k s (l.foldl f s) := by
  induction l generalizing s with
  | nil => exact KnotOnly.refl k s
  | cons v l ih => exact (h s v).trans (ih _)

theorem knotOnly_knotOps (s : State) (k : Nat) (thrs sets adds : List Nat) : KnotOnly k s (knotOps s k thrs sets adds) :=
  ((knotOnly_foldl (fun s v => knotOnly_setVal s k _ v) thrs s).trans (knotOnly_foldl (fun s v => knotOnly_knotSet s k v) sets _)).trans
    (knotOnly_foldl (fun s v => knotOnly_knotAdd s k v) adds _)

/-! ### What the operations of a cycle leave in the knot's fields -/

/-- What a fold shows through g, where each of its steps shows h. -/
theorem foldl_shows {α : Type} {f : State → Nat → State} (g : State → α) (h : α → Nat → α) (hf : ∀ s v, g (f s v) = h (g s) v) (l : List Nat) (s : State) :
    g (l.foldl f s) = l.foldl h (g s) := (List.foldl_hom g fun s v => (hf s v).symm).symm

theorem foldl_keeps {α : Type} {f : State → Nat → State} (g : State → α) (hf : ∀ s v, g (f s v) = g s) (l : List Nat) (s : State) :
    g (l.foldl f s) = g s := (foldl_shows g (fun a _ => a) hf l s).trans (List.foldl_fixed ..)

/-- Counting the entries of a list modulo M. -/
theorem foldl_count {M n : Nat} (hn : n < M) (l : List Nat) : l.foldl (fun n _ => (n + 1) % M) n = (n + l.length) % M := by
  induction l generalizing n with
  | nil => exact (Nat.mod_eq_of_lt hn).symm
  | cons v l ih =>
    rw [List.foldl_cons, ih (Nat.mod_lt _ (by omega)), Nat.mod_add_mod, List.length_cons]
    congr 1; omega

section Fields
variable (s : State) (k v : Nat)

theorem threshold_knotSet : (s.knotSet k v).fld (knotVal k) .THRESHOLD = s.fld (knotVal k) .THRESHOLD :=
  (fld_setFld_ne _ (knotVal k) v rfl rfl (by decide)).trans (fld_setFld_other s _ _ _ (knotCfg_ne_knotVal k k).symm)

theorem threshold_knotAdd : (s.knotAdd k v).fld (knotVal k) .THRESHOLD = s.fld (knotVal k) .THRESHOLD := by
  have hcount (n : Nat) : ((s.addFld (knotCfg k) .CHANGES 1).setFld (knotVal k) .COUNT n).fld (knotVal k) .THRESHOLD = s.fld (knotVal k) .THRESHOLD :=
    (fld_setFld_ne _ (knotVal k) n rfl rfl (by decide)).trans (fld_setFld_other s _ _ _ (knotCfg_ne_knotVal k k).symm)
  rw [knotAdd_eq]
  dsimp only
  split
  · exact hcount _
  · exact (fld_setFld_other _ _ _ _ (knotCfg_ne_knotVal k k).symm).trans (hcount _)

variable (thrs sets adds : List Nat)

/-- The threshold after a cycle: the last one given. -/
theorem threshold_knotOps : (knotOps s k thrs sets adds).fld (knotVal k) .THRESHOLD = thrs.foldl (fun _ v => v % 2 ^ 32) (s.fld (knotVal k) .THRESHOLD) := by
  rw [knotOps, foldl_keeps (fun t : State => t.fld (knotVal k) .THRESHOLD) fun t v => threshold_knotAdd t k v,
    foldl_keeps (fun t : State => t.fld (knotVal k) .THRESHOLD) fun t v => threshold_knotSet t k v]
  exact foldl_shows (fun t : State => t.fld (knotVal k) .THRESHOLD) _ (fun t v => fld_setFld t (knotVal k) .THRESHOLD v) thrs s

/-- The count after a cycle: the last set, or the old one, with every arrival added. -/
theorem knotCount_knotOps : (knotOps s k thrs sets adds).knotCount k =
    adds.foldl (fun n v => min (n + v) (2 ^ 32 - 1)) (sets.foldl (fun _ v => v % 2 ^ 32) (s.knotCount k)) := by
  rw [knotOps, foldl_shows (fun t : State => t.knotCount k) (fun n v => min (n + v) (2 ^ 32 - 1)) fun t v => knotCount_knotAdd t k v,
    foldl_shows (fun t : State => t.knotCount k) (fun _ v => v % 2 ^ 32) fun t v => knotCount_knotSet t k v,
    foldl_keeps (fun t : State => t.knotCount k) fun t v => fld_setFld_ne t (knotVal k) v rfl rfl (by decide)]

/-- CHANGES after a cycle: one more for each set and each arrival, modulo 2³². -/
theorem changes_knotOps : (knotOps s k thrs sets adds).fld (knotCfg k) .CHANGES =
    (s.fld (knotCfg k) .CHANGES + sets.length + adds.length) % 2 ^ 32 := by
  have hlt (t : State) : t.fld (knotCfg k) .CHANGES < 2 ^ 32 := bits_lt ..
  rw [knotOps, foldl_shows (fun t : State => t.fld (knotCfg k) .CHANGES) (fun n _ => (n + 1) % 2 ^ 32) fun t v => changes_knotAdd t k v, foldl_count (hlt _),
    foldl_shows (fun t : State => t.fld (knotCfg k) .CHANGES) (fun n _ => (n + 1) % 2 ^ 32) fun t v => changes_knotSet t k v, foldl_count (hlt _),
    foldl_keeps (fun t : State => t.fld (knotCfg k) .CHANGES) fun t v => fld_setFld_other t _ _ v (knotCfg_ne_knotVal k k), Nat.mod_add_mod]

end Fields

/-! ### The threshold event (R256) -/

section Event
variable (s : State) (k : Nat) (thrs sets adds : List Nat)

theorem knotHigh_congr {s t : State} (h : t.regs = s.regs) (k : Nat) : t.knotHigh k = s.knotHigh k := by
  rw [State.knotHigh, State.knotCount, State.fld, State.fld, State.reg, h]
  rfl

theorem knotHigh_knotCycle : (s.knotCycle k thrs sets adds).knotHigh k = (knotOps s k thrs sets adds).knotHigh k :=
  knotHigh_congr (regs_knotCycle s k thrs sets adds) k

/-- Without a rising condition no Feed channel changes. -/
theorem feed_knotCycle (h : ¬ ((s.knotCycle k thrs sets adds).knotHigh k = true ∧ s.knotHigh k = false)) :
    (s.knotCycle k thrs sets adds).feed = s.feed := by
  rw [knotHigh_knotCycle] at h
  have hflat : ((knotOps s k thrs sets adds).knotHigh k && !s.knotHigh k) = false := by simpa using h
  have hcycle : s.knotCycle k thrs sets adds = knotOps s k thrs sets adds := if_neg (Bool.not_eq_true _ ▸ hflat)
  rw [hcycle, (knotOnly_knotOps s k thrs sets adds).rest]

/-- A rising condition is the threshold event. -/
theorem knotCycle_rises (h : (s.knotCycle k thrs sets adds).knotHigh k = true) (h0 : s.knotHigh k = false) :
    s.knotCycle k thrs sets adds = (knotOps s k thrs sets adds).knotEvent k := by
  rw [knotHigh_knotCycle] at h
  have hrise : ((knotOps s k thrs sets adds).knotHigh k && !s.knotHigh k) = true := by rw [h, h0]; rfl
  exact if_pos hrise

end Event

theorem smGet_of_unlisted {α : Type} {d : Nat → α} {m : SMap α} {n : Nat} (h : ∀ e ∈ m, e.1 ≠ n) : smGet d m n = d n := by
  induction m with
  | nil => rfl
  | cons e m ih =>
    rw [smGet, if_neg (h e List.mem_cons_self)]
    exact ih fun x hx => h x (List.mem_cons_of_mem _ hx)

/-- In a map in canonical form an entry that is listed is mapped. -/
theorem smGet_smMap {α : Type} [DecidableEq α] {d : Nat → α} (f : Nat → α → α) {m : SMap α} (hm : smWf d m = true) {n : Nat} (hn : smGet d m n ≠ d n) :
    smGet d (smMap d f m) n = f n (smGet d m n) := by
  suffices hfold : ∀ (l acc : SMap α), smWf d l = true → smGet d (l.foldl (fun acc e => smSet d acc e.1 (f e.1 e.2)) acc) n =
      if smGet d l n = d n then smGet d acc n else f n (smGet d l n) from (hfold m m hm).trans (if_neg hn)
  intro l
  induction l with
  | nil => exact fun acc _ => (if_pos rfl).symm
  | cons e l ih =>
    intro acc hl
    obtain ⟨j, v⟩ := e
    simp only [smWf, Bool.and_eq_true, decide_eq_true_eq, List.all_eq_true] at hl
    obtain ⟨⟨hv, hlt⟩, hwf⟩ := hl
    rw [List.foldl_cons, ih _ hwf, smGet]
    by_cases hj : j = n
    · subst hj
      rw [if_pos (smGet_of_unlisted fun x hx => (hlt x hx).ne'), if_pos rfl, if_neg hv]
      exact smGet_smSet_same ..
    · rw [if_neg hj, smGet_smSet_other _ _ _ (Ne.symm hj)]

/-- A rising condition starts the armed descriptors of the knot's owner. -/
theorem feedCh_knotEvent {s : State} (k : Nat) (hs : smWf (fun _ => FeedCh.idle) s.feed = true) {j : Nat} {u : FeedCur} (hu : (s.feedCh j).cur = some u)
    (hrun : u.running = false) (herr : u.err = none) (hread : u.reading = none) (hlive : s.ctxLive u.work.ctx = true) (htrig : u.d.trig = 5)
    (htarg : u.d.targ = k) (hctx : u.work.ctx = s.fld (knotCfg k) .OWNER) :
    ((s.knotEvent k).feedCh j).cur = some { u with running := true, since := s.time } := by
  have hlisted : s.feedCh j ≠ FeedCh.idle := fun h => by rw [h] at hu; cases hu
  have hfires : s.fires (fun u => u.d.trig = 5 && u.d.targ = k && u.work.ctx = s.fld (knotCfg k) .OWNER) u = true := by
    simp [State.fires, hrun, herr, hread, htrig, htarg, ← hctx, hlive]
  rw [State.knotEvent, State.fireFeeds, State.feedCh]
  dsimp only
  rw [smGet_smMap _ hs hlisted]
  change Option.map _ (s.feedCh j).cur = _
  rw [hu]
  exact congrArg some (if_pos hfires)

/-! ### The order of one cycle (R177, R256) -/

/-- The values that the cores of a cycle give, that of the lowest core last. -/
def lowestLast (l : List (CoreId × W32)) : List Nat := (l.insertionSort fun a b => b.1 ≤ a.1).map fun x => x.2.toNat

theorem length_lowestLast (l : List (CoreId × W32)) : (lowestLast l).length = l.length := by simp [lowestLast, List.length_insertionSort]

/-- Of cores that are each listed once, the lowest gives the last value. -/
theorem lowestLast_of_lowest {l : List (CoreId × W32)} (hl : (l.map Prod.fst).Nodup) {x : CoreId × W32} (hx : x ∈ l) (hlow : ∀ y ∈ l, x.1 ≤ y.1) :
    ∃ vs, lowestLast l = vs ++ [x.2.toNat] := by
  let r := fun a b : CoreId × W32 => b.1 ≤ a.1
  have : Std.Total r := ⟨fun a b => le_total b.1 a.1⟩
  have : IsTrans _ r := ⟨fun _ _ _ h g => le_trans g h⟩
  obtain hnil | ⟨ys, y, hys⟩ := (l.insertionSort r).eq_nil_or_concat
  · exact absurd ((List.mem_insertionSort r).mpr hx) (by rw [hnil]; exact List.not_mem_nil)
  · have hsorted := List.pairwise_insertionSort r l
    have hy : y ∈ l := (List.mem_insertionSort r).mp (by rw [hys]; simp)
    have hyx : y.1 ≤ x.1 := by
      have hx' : x ∈ ys ++ [y] := by rw [← List.concat_eq_append, ← hys]; exact (List.mem_insertionSort r).mpr hx
      rw [hys] at hsorted
      obtain hin | hin := List.mem_append.mp hx'
      · exact (List.pairwise_append.mp (List.concat_eq_append ▸ hsorted)).2.2 x hin y List.mem_cons_self
      · rw [List.mem_singleton.mp hin]
    obtain rfl : x = y := List.inj_on_of_nodup_map hl hx hy (le_antisymm (hlow y hy) hyx)
    exact ⟨ys.map fun x => x.2.toNat, by rw [lowestLast, hys, List.concat_eq_append, List.map_append]; rfl⟩

theorem lowest_or_nil (l : List (CoreId × W32)) : l = [] ∨ ∃ x ∈ l, ∀ y ∈ l, x.1 ≤ y.1 := by
  obtain rfl | hl := eq_or_ne l []
  · exact .inl rfl
  · obtain ⟨x, hx, hlow⟩ := l.toFinset.exists_min_image Prod.fst (List.toFinset_nonempty_iff l |>.mpr hl)
    exact .inr ⟨x, List.mem_toFinset.mp hx, fun y hy => hlow y (List.mem_toFinset.mpr hy)⟩

/-- The last of the values of 32 bits that are stored one after another. -/
theorem foldl_lowestLast {l : List (CoreId × W32)} (hl : (l.map Prod.fst).Nodup) {x : CoreId × W32} (hx : x ∈ l) (hlow : ∀ y ∈ l, x.1 ≤ y.1) (n : Nat) :
    (lowestLast l).foldl (fun _ v => v % 2 ^ 32) n = x.2.toNat := by
  obtain ⟨vs, hvs⟩ := lowestLast_of_lowest hl hx hlow
  rw [hvs, List.foldl_append]
  exact Nat.mod_eq_of_lt x.2.isLt

/-- Operations of cores whose contexts own the knot are all applied. -/
theorem ownedOps_of_owned {s : State} {k : Nat} {l : List (CoreId × W32)} (h : ∀ x ∈ l, ∃ c, s.coreCtx x.1 = some c ∧ s.knotOwned c k = true) :
    s.ownedOps k (s.coreOps l) = lowestLast l ∧ (s.coreOps l).filter (fun x => !s.knotOwned x.1 k) = [] := by
  have hsorted : ∀ x ∈ l.insertionSort (fun a b => b.1 ≤ a.1), ∃ c, s.coreCtx x.1 = some c ∧ s.knotOwned c k = true := fun x hx =>
    h x ((List.mem_insertionSort _).mp hx)
  unfold State.ownedOps State.coreOps lowestLast
  generalize l.insertionSort (fun a b => b.1 ≤ a.1) = l at hsorted
  induction l with
  | nil => exact ⟨rfl, rfl⟩
  | cons x xs ih =>
    obtain ⟨c, hc, ho⟩ := hsorted x List.mem_cons_self
    obtain ⟨hm, hf⟩ := ih fun y hy => hsorted y (List.mem_cons_of_mem _ hy)
    simp only [List.filterMap_cons, hc, Option.map_some, List.filter_cons, ho, if_true, Bool.not_true, Bool.false_eq_true, if_false, List.map_cons]
    exact ⟨congrArg (x.2.toNat :: ·) hm, hf⟩

/-- A cycle whose operations are all of contexts that own the knot loses none. -/
theorem exec_knotArrival {k : Fin 4096} {thrs sets : List (CoreId × W32)} {adds : List (Ctx × W32)} {s : State}
    (hops : ∀ x ∈ thrs ++ sets, ∃ c, s.coreCtx x.1 = some c ∧ s.knotOwned c k = true) (hadds : ∀ x ∈ adds, s.knotOwned x.1 k = true) :
    exec (.knotArrival k thrs sets adds) s = .next (s.knotCycle k (lowestLast thrs) (lowestLast sets) (adds.map fun x => x.2.toNat)) := by
  obtain ⟨ht, htl⟩ := ownedOps_of_owned fun x hx => hops x (List.mem_append_left _ hx)
  obtain ⟨hs, hsl⟩ := ownedOps_of_owned fun x hx => hops x (List.mem_append_right _ hx)
  have hall : ∀ y ∈ adds.map fun x => (x.1.val, x.2), s.knotOwned y.1 k = true := by
    simp only [List.mem_map]
    rintro y ⟨x, hx, rfl⟩
    exact hadds x hx
  have ha : s.ownedOps k (adds.map fun x => (x.1.val, x.2)) = adds.map fun x => x.2.toNat := by
    rw [State.ownedOps, List.filter_eq_self.mpr hall, List.map_map]
    rfl
  have hal : (adds.map fun x => (x.1.val, x.2)).filter (fun x => !s.knotOwned x.1 k) = [] :=
    List.filter_eq_nil_iff.mpr fun y hy => by rw [hall y hy]; decide
  change Host.Outcome.next (State.faultEach _ (List.map Prod.fst (List.filter _ (s.coreOps thrs ++ s.coreOps sets ++ adds.map fun x => (x.1.val, x.2)))) _ _ _ _ _) = _
  rw [ht, hs, ha, List.filter_append, List.filter_append, htl, hsl, hal]
  rfl

/-! ### The doorbell and KNOT.CFG (R244, R414, R415) -/

theorem spared_hostwStat (c : Nat) : Spared (.hostwStat c) :=
  ⟨by simp only [Reg.addr]; omega, .inr ⟨c, 0x18, rfl, by decide, by decide, by decide⟩⟩

theorem addr_knotVal (k : Nat) : (knotVal k).addr = 0x1000000 + k / 128 * 0x100000 + 0x12008 + 16 * (k % 128) := rfl

theorem addr_knotCfg (k : Nat) : (knotCfg k).addr = 0x1000000 + k / 128 * 0x100000 + 0x12000 + 16 * (k % 128) := rfl

theorem spared_knotVal {k : Nat} (hk : k < 4096) : Spared (knotVal k) := by
  have ha := addr_knotVal k
  have ht : k / 128 < 32 := Nat.div_lt_of_lt_mul hk
  exact ⟨by omega, .inl (by omega)⟩

theorem knotVal_ne_hostwStat (k c : Nat) : (knotVal k).addr ≠ (Reg.hostwStat c).addr := by
  have ha := addr_knotVal k
  have hc : (Reg.hostwStat c).addr = 0x3800000 + c * 0x10000 + 0x18 := rfl
  omega

section Cfg
variable (s : State) (k : Nat) (f : KnotFields) {g : FName} (hg : hasField (knotCfg k) g = true)

theorem reg_knotVal_knotClear : (s.knotClear k f).reg (knotVal k) = s.reg (knotVal k) := by
  unfold State.knotClear
  split
  · exact reg_setFlag_other s _ _ (knotCfg_ne_knotVal k k).symm
  · rfl

theorem reg_knotVal_knotFields : (s.knotFields k f).reg (knotVal k) = s.reg (knotVal k) :=
  (reg_setFld_other _ _ _ (knotCfg_ne_knotVal k k).symm).trans (reg_setFlag_other s _ _ (knotCfg_ne_knotVal k k).symm)

include hg

theorem flag_knotClear (h : g ≠ .SATURATED) : (s.knotClear k f).flag (knotCfg k) g = s.flag (knotCfg k) g := by
  unfold State.knotClear
  split
  · exact flag_setFlag_ne s (knotCfg k) _ rfl hg h
  · rfl

theorem flag_knotFields (h1 : g ≠ .HMODE) (h2 : g ≠ .OWNER) : (s.knotFields k f).flag (knotCfg k) g = s.flag (knotCfg k) g :=
  (flag_congr_fld (fld_setFld_ne _ (knotCfg k) _ rfl hg h2)).trans (flag_setFlag_ne s (knotCfg k) _ rfl hg h1)

theorem fld_knotZero (h : g ≠ .SATURATED) : (s.knotZero k).fld (knotCfg k) g = s.fld (knotCfg k) g :=
  (fld_setFlag_ne _ (knotCfg k) _ rfl hg h).trans ((fld_setFld_other _ _ _ _ (knotCfg_ne_knotVal k k)).trans (fld_setFld_other _ _ _ _ (knotCfg_ne_knotVal k k)))

end Cfg

/-- A zeroed knot has COUNT 0 and THRESHOLD all ones. -/
theorem fld_knotVal_knotZero (s : State) (k : Nat) :
    (s.knotZero k).fld (knotVal k) .COUNT = 0 ∧ (s.knotZero k).fld (knotVal k) .THRESHOLD = 2 ^ 32 - 1 := by
  have hval (f : FName) : (s.knotZero k).fld (knotVal k) f = ((s.setFld (knotVal k) .COUNT 0).setFld (knotVal k) .THRESHOLD (2 ^ 32 - 1)).fld (knotVal k) f :=
    fld_setFld_other _ _ _ _ (knotCfg_ne_knotVal k k).symm
  rw [hval, hval]
  exact ⟨(fld_setFld_ne _ (knotVal k) _ rfl rfl (by decide)).trans (fld_setFld ..), fld_setFld ..⟩

theorem knotCfg_ne_tbobStatus (k : Nat) : (knotCfg k).addr ≠ (Reg.tbobStatus (k / 128)).addr := by
  have hc := addr_knotCfg k
  have hs : (Reg.tbobStatus (k / 128)).addr = 0x1000000 + k / 128 * 0x100000 + 0x13010 := rfl
  omega

theorem KnotOnly.ctxLive {k : Nat} {s t : State} (h : KnotOnly k s t) (hk : k < 4096) (c : Nat) : t.ctxLive c = s.ctxLive c := by
  have hv := addr_knotVal k
  have hc := addr_knotCfg k
  have hctx : (Reg.ctxrCtrl c).addr = 0x3800000 + c * 0x10000 + 0x110 := rfl
  have hpkg : Reg.pkgFail.addr < 0x1000000 := by decide
  exact ctxLive_of_reg (h.other _ (by omega) (by omega)) (h.other _ (by omega) (by omega))

/-- A cycle with a rising condition starts the armed descriptors of the knot's owner. -/
theorem feedCh_knotCycle {s : State} {k : Nat} (hk : k < 4096) {thrs sets adds : List Nat} (hs : smWf (fun _ => FeedCh.idle) s.feed = true)
    (hhigh : (s.knotCycle k thrs sets adds).knotHigh k = true) (hlow : s.knotHigh k = false) {j : Nat} {u : FeedCur} (hu : (s.feedCh j).cur = some u)
    (hrun : u.running = false) (herr : u.err = none) (hread : u.reading = none) (hlive : s.ctxLive u.work.ctx = true) (htrig : u.d.trig = 5)
    (htarg : u.d.targ = k) (hctx : u.work.ctx = s.fld (knotCfg k) .OWNER) :
    ((s.knotCycle k thrs sets adds).feedCh j).cur = some { u with running := true, since := s.time } := by
  have hops := knotOnly_knotOps s k thrs sets adds
  have hfeed : (knotOps s k thrs sets adds).feed = s.feed := by rw [hops.rest]
  have htime : (knotOps s k thrs sets adds).time = s.time := by rw [hops.rest]
  rw [knotCycle_rises s k _ _ _ hhigh hlow, ← htime]
  refine feedCh_knotEvent k (hfeed ▸ hs) ?_ hrun herr hread ((hops.ctxLive hk _).trans hlive) htrig htarg (hctx.trans hops.owner.symm)
  rwa [State.feedCh, hfeed]

/-- What a write that enables a disabled knot leaves in its registers. -/
theorem knotEnable_of_disabled {s : State} {k : Nat} (f : KnotFields) (hoff : s.flag (knotCfg k) .ENABLE = false) :
    let t := s.knotEnable k f
    t.flag (knotCfg k) .ENABLE = true ∧ t.fld (knotCfg k) .OWNER = f.owner ∧ t.flag (knotCfg k) .HMODE = f.hmode ∧
      t.flag (knotCfg k) .SATURATED = false ∧ t.fld (knotCfg k) .CHANGES = 0 ∧ t.knotCount k = 0 ∧ t.fld (knotVal k) .THRESHOLD = 2 ^ 32 - 1 := by
  let u := (s.knotClear k f).knotFields k f
  let z := (u.setFlag (knotCfg k) .ENABLE true).knotZero k
  have hdone : s.knotEnable k f = z.setFld (knotCfg k) .CHANGES 0 := if_neg (by rw [hoff]; decide)
  have hcfg {g : FName} (hg : hasField (knotCfg k) g = true) (h1 : g ≠ .CHANGES) (h2 : g ≠ .SATURATED) :
      (z.setFld (knotCfg k) .CHANGES 0).fld (knotCfg k) g = (u.setFlag (knotCfg k) .ENABLE true).fld (knotCfg k) g :=
    (fld_setFld_ne _ (knotCfg k) _ rfl hg h1).trans (fld_knotZero _ k hg h2)
  have hval (g : FName) : (z.setFld (knotCfg k) .CHANGES 0).fld (knotVal k) g = z.fld (knotVal k) g :=
    fld_setFld_other _ _ _ _ (knotCfg_ne_knotVal k k).symm
  rw [hdone]
  refine ⟨?enable, ?owner, ?hmode, ?saturated, fld_setFld .., (hval .COUNT).trans (fld_knotVal_knotZero _ k).1,
    (hval .THRESHOLD).trans (fld_knotVal_knotZero _ k).2⟩
  case enable => exact (flag_congr_fld (hcfg rfl (by decide) (by decide))).trans (flag_setFlag _ _ _ _ rfl)
  case owner =>
    rw [hcfg rfl (by decide) (by decide), fld_setFlag_ne _ (knotCfg k) _ rfl rfl (by decide)]
    exact (fld_setFld ..).trans (Nat.mod_eq_of_lt f.owner.isLt)
  case hmode =>
    rw [flag_congr_fld (hcfg rfl (by decide) (by decide)), flag_setFlag_ne _ (knotCfg k) _ rfl rfl (by decide)]
    exact (flag_congr_fld (fld_setFld_ne _ (knotCfg k) _ rfl rfl (by decide))).trans (flag_setFlag _ _ _ _ rfl)
  case saturated => exact (flag_congr_fld (fld_setFld_ne _ (knotCfg k) _ rfl rfl (by decide))).trans (flag_setFlag _ _ _ _ rfl)

/-- Settles O22: the cycle by its operations in order, the doorbell and the writes of KNOT.CFG by their branches. -/
theorem knotEventsAndConfiguration : Obligations.KnotEventsAndConfiguration := by
  refine ⟨fun k thrs sets adds s hops hadds hthrs hsets => ?arrival, fun c knot v s => ⟨fun hown hlive => ?doorbell, fun hno => ?refused⟩,
    fun k f s => ⟨fun hoff => ⟨_, rfl, knotEnable_of_disabled f hoff⟩, fun hon hfree => ?disable, fun hon hnamed => ?named⟩⟩
  case arrival =>
    refine ⟨_, exec_knotArrival hops hadds, fun h => ?_, fun x hx hlow => ?_, fun base h0 h1 => ?_, ?_, feed_knotCycle _ _ _ _ _,
      fun hs hhigh hlow j u hu hrun herr hread hlive htrig htarg hctx => feedCh_knotCycle k.isLt hs hhigh hlow hu hrun herr hread hlive htrig htarg hctx⟩
    · rw [fld_knotCycle, threshold_knotOps, h]
      rfl
    · rw [fld_knotCycle, threshold_knotOps]
      exact foldl_lowestLast hthrs hx hlow _
    · rw [State.knotCount, fld_knotCycle]
      refine (knotCount_knotOps ..).trans (congrArg (List.foldl _ · _) ?_)
      obtain rfl | ⟨x, hx, hlow⟩ := lowest_or_nil sets
      · exact (h0 rfl).symm
      · rw [foldl_lowestLast hsets hx hlow, h1 x hx hlow]
    · rw [fld_knotCycle, changes_knotOps, length_lowestLast, List.length_map]
  case doorbell =>
    have hdone : s.knotDoorbell c knot.toNat v.toNat = s.knotCycle knot.toNat [] [] [v.toNat] :=
      (if_pos (Bool.and_eq_true_iff.mpr ⟨hown, hlive⟩)).trans (arrive_of_owned _ _ _ hown)
    refine ⟨_, congrArg Host.Outcome.next hdone, ?_⟩
    rw [State.knotCount, fld_knotCycle]
    exact knotCount_knotOps ..
  case refused =>
    have hdone : s.knotDoorbell c knot.toNat v.toNat = (s.setFlag (.hostwStat c) .KDB_REFUSED true).vfEvent c 7 :=
      if_neg (by obtain h | h := hno <;> simp [h])
    refine ⟨_, congrArg Host.Outcome.next hdone, ?_, fun j hj => ?_⟩
    · rw [flag_congr (reg_vfEvent_spared _ (spared_hostwStat c) c (by decide))]
      exact flag_setFlag _ _ _ _ rfl
    · exact fld_congr ((reg_vfEvent_spared _ (spared_knotVal hj) c (by decide)).trans (reg_setFlag_other _ _ _ (knotVal_ne_hostwStat j c))) _
  case disable =>
    have hdone : s.knotDisable k f = ((s.setFlag (knotCfg k) .ENABLE false).knotClear k f).knotFields k f := if_neg (by rw [hfree, Bool.and_false]; decide)
    refine ⟨_, congrArg Host.Outcome.next hdone, ?_, ?_⟩
    · rw [flag_knotFields _ k f rfl (by decide) (by decide), flag_knotClear _ k f rfl (by decide)]
      exact flag_setFlag _ _ _ _ rfl
    · refine fld_congr ?_ _
      rw [reg_knotVal_knotFields, reg_knotVal_knotClear]
      exact reg_setFlag_other _ _ _ (knotCfg_ne_knotVal k k).symm
  case named =>
    have hdone : s.knotDisable k f = s.bobCfgErr (k / 128) := if_pos (by rw [hon, hnamed]; rfl)
    refine ⟨_, congrArg Host.Outcome.next hdone, ?_, flag_setFlag _ _ _ _ rfl⟩
    rw [← hon]
    exact flag_congr (reg_setFlag_other _ _ _ (knotCfg_ne_tbobStatus k)) _

end Sys2Proof.Proofs
end

section
/-!
The BOBBIN instructions on a core that executes (R170, R171, R245, R246, R248, R254, Tables 5-15 and 5-16).
-/
namespace Sys2Proof.Proofs
open Sys2Proof.Machine Sys2Proof.Laws Sys2Proof.Claims

/-! ### BCOUNT and BRECV of a bobbin of the context (R171) -/

section Receive
variable {s s1 : State} {n : CoreId} (hx : Executes s s1 n) {rs1 : SReg} {oimm : BitVec 13} {b : Nat}
  (hname : nameOf ((s1.core n).sreg rs1) oimm = some (none, b)) (ho : s1.bobOwned (s1.ctxOf n) b = true)
include hx hname ho

theorem exec_bcount (rd : SReg) :
    exec (.bcount n rd rs1 oimm) s = .next (finished s1 n ((s1.core n).setS rd (BitVec.ofNat 64 (s1.bobbin b).queue.length))) := by
  refine (exec_of_nibStep hx rfl).trans (congrArg _ ?_)
  rw [hname]
  exact if_pos ho

/-- BRECV of an aligned buffer, by whether a message is queued. -/
theorem exec_brecv {rs2 : SReg} (ha : ((s1.core n).sreg rs2).toNat % 16 = 0) (rd : SReg) (nw : Bool) (lm1 : BitVec 4) :
    exec (.brecv n rd rs1 rs2 nw oimm lm1) s = .next (
      if (s1.bobbin b).queue ≠ [] then s1.receive n rd b (msgLen lm1) ((s1.core n).sreg rs2).toNat
      else if nw then finished s1 n ((s1.core n).setS rd 1)
      else s1.nibWait n (.brecv rd b (msgLen lm1) ((s1.core n).sreg rs2).toNat)) := by
  refine (exec_of_nibStep hx rfl).trans (congrArg _ ?_)
  rw [hname]
  refine (if_neg (by simp [ho])).trans ((if_neg (not_not.mpr ha)).trans ?_)
  rfl

end Receive

theorem recvResult_zero (len : Nat) : recvResult len 0 = BitVec.ofNat 64 (len * 2 ^ 32) := congrArg (BitVec.ofNat 64) (Nat.add_zero _)

section Head
variable {s t : State} {n : Nat} {b len va : Nat} {msg : List Byte} {rest : List (List Byte)} {e : StoreEntry}
  (hq : (s.bobbin b).queue = msg :: rest) (hbuf : s.storeSegs n (bufferCells va len) = (t, .ok e))
include hq hbuf

/-- A head longer than the buffer stays. -/
theorem receive_longer (h : len < msg.length) (rd : SReg) :
    s.receive n rd b len va = finished t n ((t.core n).setS rd (BitVec.ofNat 64 (msg.length * 2 ^ 32 + 0x10))) := by
  cases storeSegs_ok_fst hbuf
  rw [State.receive, hbuf]
  dsimp only
  rw [hq]
  exact if_pos h

/-- A head that fits is removed and written once the older stores have drained. -/
theorem receive_fits (h : msg.length ≤ len) (rd : SReg) (hstep : (t.drainAll n).canStep n = true) {u : State} {segs : StoreEntry}
    (hsegs : (t.drainAll n).storeSegs n (cellsFrom va msg) = (u, .ok segs)) :
    let r := (u.bobPop b).performStore (u.ctxOf n) segs
    let v := r.1.storeFaults n r.2
    v.canStep n = true → s.receive n rd b len va = finished v n ((v.core n).setS rd (BitVec.ofNat 64 (msg.length * 2 ^ 32))) := by
  intro r v hv
  cases storeSegs_ok_fst hbuf
  rw [State.receive, hbuf]
  dsimp only
  rw [hq]
  refine (if_neg (Nat.not_lt.mpr h)).trans ((released_of_canStep hstep _).trans ?_)
  dsimp only [List.headD_cons]
  rw [hsegs, ← recvResult_zero]
  exact if_pos hv

end Head

/-! ### BSEND (R170, R246, R248) -/

/-- BSEND of an aligned message, on a bobbin of the context or a port, that loads from tile memory once the older stores have drained. -/
theorem exec_bsend {s s1 s3 : State} {n : CoreId} (hx : Executes s s1 n) {rs1 rs2 : SReg} {oimm : BitVec 13} {port : Option Nat} {b : Nat}
    (hname : nameOf ((s1.core n).sreg rs1) oimm = some (port, b)) (ho : port = none → s1.bobOwned (s1.ctxOf n) b = true)
    (ha : ((s1.core n).sreg rs2).toNat % 16 = 0) (hstep : (s1.drainAll n).canStep n = true) {lm1 : BitVec 4} {got : List Host.Cell}
    (hload : (s1.drainAll n).loadBytes n (addrsFrom ((s1.core n).sreg rs2).toNat (msgLen lm1)) = (s3, .bytes got [])) (rd : SReg) (nw : Bool) :
    exec (.bsend n rd rs1 rs2 nw oimm lm1) s = .next (s3.sendMessage n rd port b
      ((addrsFrom ((s1.core n).sreg rs2).toNat (msgLen lm1)).map fun a => smGet (fun _ => 0) got a) nw) := by
  have hmine : ¬ (port.isNone && !s1.bobOwned (s1.ctxOf n) b) = true := by
    cases port with
    | none => simp [ho rfl]
    | some p => simp
  refine (exec_of_nibStep hx rfl).trans (congrArg _ ?_)
  rw [hname]
  refine (if_neg hmine).trans ((if_neg (not_not.mpr ha)).trans ((released_of_canStep hstep _).trans ?_))
  rw [hload]

section Send
variable {s t : State} {n : Nat} {port : Option Nat} {index : Nat} {data : List Byte}

theorem sendMessage_done {st : Nat} (h : s.trySend (s.ctxOf n) port index data = .done t st) (rd : SReg) (nw : Bool) :
    s.sendMessage n rd port index data nw = finished t n ((t.core n).setS rd (BitVec.ofNat 64 st)) := by
  rw [State.sendMessage, h]
  rfl

theorem sendMessage_noRoom (h : s.trySend (s.ctxOf n) port index data = .noRoom) (rd : SReg) (nw : Bool) :
    s.sendMessage n rd port index data nw = if nw then finished s n ((s.core n).setS rd 0x14) else s.nibWait n (.bsend rd index port data) := by
  rw [State.sendMessage, h]
  rfl

theorem trySend_down {c p : Nat} (h : s.portRefuses p = true) : s.trySend c (some p) index data = .done s 0x17 := if_pos h

theorem trySend_noSlot {c p : Nat} (h : s.portRefuses p = false) (hb : s.bobbinSlotOn c p = false) : s.trySend c (some p) index data = .done s 0x10 := by
  simp [State.trySend, h, hb]

theorem trySend_long {c : Nat} (ho : s.bobOwned c index = true) (hc : s.flag (bobCfg index) .COMBINE = false) (h : s.bobMaxLen index < data.length) :
    s.trySend c none index data = .done s 0x10 := by
  simp [State.trySend, State.bobPlace, ho, hc, h]

end Send

/-- A message appended stands at the queue's tail. -/
theorem queue_bobAppend (s : State) (b : Nat) (msg : List Byte) :
    ((s.bobAppend b (s.bobbin b) msg).bobbin b).queue = (s.bobbin b).queue ++ [msg] := by
  rw [bobbin_of_events (events_bobAppend s b _ msg), bobbin_setBobbin_same]

/-- Settles O23: the head of the queue received, and the outcome of one try to send. -/
theorem bobbinInstructions : Obligations.BobbinInstructions := by
  intro n rd rs1 rs2 nw oimm lm1 s s1 hx k va len
  refine ⟨fun b hname ho => ⟨exec_bcount hx hname ho rd, fun ha hq => ?_, fun msg rest s2 e2 ha hq hbuf => ?_⟩, ?_⟩
  · rw [exec_brecv hx hname ho ha]
    exact congrArg _ (if_neg (not_not.mpr hq))
  · have hrecv : exec (.brecv n rd rs1 rs2 nw oimm lm1) s = .next (s1.receive n rd b len va) :=
      (exec_brecv hx hname ho ha rd nw lm1).trans (congrArg _ (if_pos (by rw [hq]; exact List.cons_ne_nil _ _)))
    exact ⟨fun h => hrecv.trans (congrArg _ (receive_longer hq hbuf h rd)),
      fun h s4 segs hstep hsegs hv => hrecv.trans (congrArg _ (receive_fits hq hbuf h rd hstep hsegs hv))⟩
  · intro port b s2 s3 got hname ho ha h2 hstep hload msg gives noRoom
    subst h2
    have hmsg : msg.length = len := by simp [msg, addrsFrom]
    have hsend := exec_bsend hx hname ho ha hstep hload rd nw
    have done {t : State} {st : Nat} (h : s3.trySend (s3.ctxOf n) port b msg = .done t st) : gives t (BitVec.ofNat 64 st) :=
      hsend.trans (congrArg _ (sendMessage_done h rd nw))
    have full (h : s3.trySend (s3.ctxOf n) port b msg = .noRoom) : noRoom := by
      have hfull := hsend.trans (congrArg _ (sendMessage_noRoom h rd nw))
      exact ⟨fun hnw => hfull.trans (congrArg _ (if_pos hnw)), fun hnw => hfull.trans (congrArg _ (if_neg (by rw [hnw]; decide)))⟩
    refine ⟨?own, ?remote⟩
    case own =>
      rintro rfl hown hc
      refine ⟨fun h => done (trySend_long hown hc (hmsg ▸ h)), fun h hr => full ?_, fun h hr => ⟨_, done (st := 0) ?_, queue_bobAppend s3 b msg⟩⟩
      · rw [trySend_bobbin hown hc (hmsg ▸ h), hr]; rfl
      · rw [trySend_bobbin hown hc (hmsg ▸ h), hr]; rfl
    case remote =>
      rintro p rfl q
      refine ⟨fun h => done (trySend_down h), fun h hb => done (trySend_noSlot h hb), fun h hb => ⟨fun hq => full ?_, fun hq => done (st := 0) ?_⟩⟩
      · exact (trySend_port h hb).trans (if_pos hq)
      · exact (trySend_port h hb).trans (if_neg (Nat.not_le.mpr hq))

end Sys2Proof.Proofs
end
